-- ==== Sys2Proof/Word.lean ====
section
/-! DEFINITION. The machine words of NM-1 and the sparse stores that hold its memories. -/

namespace Sys2Proof

/-- A scalar register, a CSR, an address: 64 bits (R41, R42). -/
abbrev Word := BitVec 64

/-- The smallest addressable unit (R8). -/
abbrev Byte := BitVec 8

/-- A store of `n`-bit cells by number, held as (number, value) pairs: numbers strictly rising and no
value zero, because an unlisted number reads as zero.  `Sparse 8` is the host's list of memory cells. -/
abbrev Sparse (n : Nat) := List (Nat × BitVec n)

end Sys2Proof
end

