-- ==== Sys2Proof/Syntax.lean ====
section
/-! DEFINITION. The instructions of NM-1: one constructor per row of the opcode table, in the table's order.
The rows with a machine word come first; the rows without one are the steps the module takes on its own
(95_what_each_step_holds.md), each with the operands that say to which unit it happens. -/

namespace Sys2Proof

/-- s0 to s31 (R129). -/
abbrev SReg := Fin 32
/-- v0 to v63 (R129). -/
abbrev VReg := Fin 64
/-- m0 to m7; as a mask field, 0 means unmasked (R129). -/
abbrev MReg := Fin 8
/-- a0 to a3. -/
abbrev TileId := Fin 4
/-- p0 to p7. -/
abbrev PortId := Fin 8
/-- A global core number (R3). -/
abbrev CoreId := Fin 128
/-- A partition number (R372). -/
abbrev PartId := Fin 16
/-- A stack number (R5). -/
abbrev StackId := Fin 8
/-- A die number (R5). -/
abbrev DieId := Fin 4
/-- A router number (R7). -/
abbrev RouterId := Fin 256
/-- A physical address (R329). -/
abbrev PAddr := BitVec 52

/-- The kind bits of the ordering field (R132, R133). -/
inductive OrdKind where
  | plain | acq | rel | ar
  deriving DecidableEq, Repr

/-- The scope bits of the ordering field (R132). -/
inductive Scope where
  | none | gang | device | system
  deriving DecidableEq, Repr

/-- The conditions of `FCMP` and `VCMP` (R131). -/
inductive Cond where
  | eq | ne | lt | le | gt | ge
  deriving DecidableEq, Repr

/-- The narrow formats in memory (R77). -/
inductive Fmt where
  | fp16 | e4m3 | e5m2 | e3m2 | e2m3 | e2m1 | int8 | int4
  deriving DecidableEq, Repr

/-- The rounding selectors of a narrow store (R81). -/
inductive NRound where
  | rne | rtz | rdn | rup | sr
  deriving DecidableEq, Repr

/-- The type tags an instruction can name for its destination (R21): 1 to 4. -/
inductive DTag where
  | f32 | bf16 | i32 | i16
  deriving DecidableEq, Repr

/-- The fields of a partition block that `PARTITION_BLOCK_WRITE` writes (R374). -/
inductive BlockField where
  | pcpAddr | mboxAddr | hostWin
  deriving DecidableEq, Repr

/-- What firmware supplies when it sets ACTIVE (R322, R376): the foreman's entry and argument, and, in a
partition under a hypervisor, the hypervisor hart's entry and argument and the stage-2 root (R331). -/
structure FirmwareStart where
  foremanEntry : Word
  foremanArg : Word
  hypervisor : Option (Word × Word × PAddr)
  deriving DecidableEq, Repr

/-- What the boot ROM finds at power-on (R378, R379): whether the image could be read, whether its
signature verifies, its security version and the fused rollback counter, whether start-up works, which
stacks are enabled, the digests measured, and whether firmware requires IDE (R381). -/
structure BootImage where
  readable : Bool
  signatureOk : Bool
  version : Nat
  rollback : Nat
  bringUpOk : Bool
  enabled : BitVec 8
  romDigest : BitVec 256
  imageDigest : BitVec 256
  foremanDigest : BitVec 256
  requireIde : Bool
  deriving DecidableEq, Repr

/-- One row of the opcode table each. -/
inductive Instr where
  /-- ADD (R152). Writes rd with rs1 + rs2 modulo 2^64. -/
  | add (d : SReg) (a : SReg) (b : SReg)
  /-- SUB (R152). Writes rd with rs1 − rs2 modulo 2^64. -/
  | sub (d : SReg) (a : SReg) (b : SReg)
  /-- MUL (R152). Writes rd with the low 64 bits of rs1 × rs2. -/
  | mul (d : SReg) (a : SReg) (b : SReg)
  /-- MULH (R152). Writes rd with the high 64 bits of the signed product. -/
  | mulh (d : SReg) (a : SReg) (b : SReg)
  /-- MULHU (R152). Writes rd with the high 64 bits of the unsigned product. -/
  | mulhu (d : SReg) (a : SReg) (b : SReg)
  /-- DIV (R153). Writes rd with the signed quotient truncated toward zero, with the fixed borderline results. -/
  | div (d : SReg) (a : SReg) (b : SReg)
  /-- DIVU (R153). Writes rd with the unsigned quotient, all ones on division by zero. -/
  | divu (d : SReg) (a : SReg) (b : SReg)
  /-- REM (R153). Writes rd with the signed remainder, which takes the sign of the dividend. -/
  | rem (d : SReg) (a : SReg) (b : SReg)
  /-- REMU (R153). Writes rd with the unsigned remainder. -/
  | remu (d : SReg) (a : SReg) (b : SReg)
  /-- AND (R152). Writes rd with the bitwise AND of rs1 and rs2. -/
  | and (d : SReg) (a : SReg) (b : SReg)
  /-- OR (R152). Writes rd with the bitwise OR of rs1 and rs2. -/
  | or (d : SReg) (a : SReg) (b : SReg)
  /-- XOR (R152). Writes rd with the bitwise XOR of rs1 and rs2. -/
  | xor (d : SReg) (a : SReg) (b : SReg)
  /-- SHL (R152). Shifts rs1 left by rs2 mod 64. -/
  | shl (d : SReg) (a : SReg) (b : SReg)
  /-- SHR (R152). Shifts rs1 right logically by rs2 mod 64. -/
  | shr (d : SReg) (a : SReg) (b : SReg)
  /-- SRA (R152). Shifts rs1 right arithmetically by rs2 mod 64. -/
  | sra (d : SReg) (a : SReg) (b : SReg)
  /-- SLT (R152). Writes 1 to rd if rs1 is signed-less than rs2, else 0. -/
  | slt (d : SReg) (a : SReg) (b : SReg)
  /-- SLTU (R152). Writes 1 to rd if rs1 is unsigned-less than rs2, else 0. -/
  | sltu (d : SReg) (a : SReg) (b : SReg)
  /-- MIN (R152). Writes rd with the signed minimum of rs1 and rs2. -/
  | min (d : SReg) (a : SReg) (b : SReg)
  /-- MAX (R152). Writes rd with the signed maximum of rs1 and rs2. -/
  | max (d : SReg) (a : SReg) (b : SReg)
  /-- MINU (R152). Writes rd with the unsigned minimum of rs1 and rs2. -/
  | minu (d : SReg) (a : SReg) (b : SReg)
  /-- MAXU (R152). Writes rd with the unsigned maximum of rs1 and rs2. -/
  | maxu (d : SReg) (a : SReg) (b : SReg)
  /-- CLZ (R152). Writes rd with the number of leading zero bits of rs1. -/
  | clz (d : SReg) (a : SReg)
  /-- CTZ (R152). Writes rd with the number of trailing zero bits of rs1. -/
  | ctz (d : SReg) (a : SReg)
  /-- POPC (R152). Writes rd with the number of set bits of rs1. -/
  | popc (d : SReg) (a : SReg)
  /-- FADD (R155). Adds two FP32 values under FCSR rounding and flags. -/
  | fadd (d : SReg) (a : SReg) (b : SReg)
  /-- FSUB (R155). Subtracts two FP32 values under FCSR rounding and flags. -/
  | fsub (d : SReg) (a : SReg) (b : SReg)
  /-- FMUL (R155). Multiplies two FP32 values under FCSR rounding and flags. -/
  | fmul (d : SReg) (a : SReg) (b : SReg)
  /-- FFMA (R155). Computes a × b + c in FP32 with one rounding. -/
  | ffma (d : SReg) (a : SReg) (b : SReg) (c : SReg)
  /-- FDIV (R156). Divides two FP32 values, correctly rounded, with the fixed special cases. -/
  | fdiv (d : SReg) (a : SReg) (b : SReg)
  /-- FSQRT (R156). Writes the correctly rounded FP32 square root of rs1. -/
  | fsqrt (d : SReg) (a : SReg)
  /-- FMIN (R155). Writes minimumNumber of two FP32 values. -/
  | fmin (d : SReg) (a : SReg) (b : SReg)
  /-- FMAX (R155). Writes maximumNumber of two FP32 values. -/
  | fmax (d : SReg) (a : SReg) (b : SReg)
  /-- FCMP (R155). Compares two FP32 values under the selected condition and writes 1 or 0. -/
  | fcmp (d : SReg) (a : SReg) (b : SReg) (c : Cond)
  /-- FCVT_I_F (R157). Converts FP32 to a signed 64-bit integer. -/
  | fcvtIF (d : SReg) (a : SReg)
  /-- FCVT_IU_F (R157). Converts FP32 to an unsigned 64-bit integer. -/
  | fcvtIuF (d : SReg) (a : SReg)
  /-- FCVT_F_I (R157). Converts a signed 64-bit integer to FP32. -/
  | fcvtFI (d : SReg) (a : SReg)
  /-- FCVT_F_IU (R157). Converts an unsigned 64-bit integer to FP32. -/
  | fcvtFIu (d : SReg) (a : SReg)
  /-- FCVT_BF_F (R157). Converts FP32 to BF16 in bits [15:0]. -/
  | fcvtBfF (d : SReg) (a : SReg)
  /-- FCVT_F_BF (R157). Converts BF16 from bits [15:0] to FP32. -/
  | fcvtFBf (d : SReg) (a : SReg)
  /-- ADDI (R154). Adds a sign-extended immediate to rs1. -/
  | addi (d : SReg) (a : SReg) (i : BitVec 16)
  /-- ANDI (R154). ANDs rs1 with a zero-extended immediate. -/
  | andi (d : SReg) (a : SReg) (i : BitVec 16)
  /-- ORI (R154). ORs rs1 with a zero-extended immediate. -/
  | ori (d : SReg) (a : SReg) (i : BitVec 16)
  /-- XORI (R154). XORs rs1 with a zero-extended immediate. -/
  | xori (d : SReg) (a : SReg) (i : BitVec 16)
  /-- SLTI (R154). Writes 1 if rs1 is signed-less than the sign-extended immediate. -/
  | slti (d : SReg) (a : SReg) (i : BitVec 16)
  /-- SLTIU (R154). Writes 1 if rs1 is unsigned-less than the sign-extended immediate. -/
  | sltiu (d : SReg) (a : SReg) (i : BitVec 16)
  /-- SHLI (R154). Shifts rs1 left by an immediate count. -/
  | shli (d : SReg) (a : SReg) (n : Fin 64)
  /-- SHRI (R154). Shifts rs1 right logically by an immediate count. -/
  | shri (d : SReg) (a : SReg) (n : Fin 64)
  /-- SRAI (R154). Shifts rs1 right arithmetically by an immediate count. -/
  | srai (d : SReg) (a : SReg) (n : Fin 64)
  /-- MOVHI (R154). Writes the immediate shifted left by 16 into rd. -/
  | movhi (d : SReg) (i : BitVec 16)
  /-- MOVK (R154). Replaces halfword h of rd with the immediate. -/
  | movk (d : SReg) (h : Fin 4) (i : BitVec 16)
  /-- LDB (R161). Loads a sign-extended byte at base plus immediate offset. -/
  | ldb (d : SReg) (a : SReg) (i : BitVec 16)
  /-- LDH (R161). Loads a sign-extended halfword at base plus immediate offset. -/
  | ldh (d : SReg) (a : SReg) (i : BitVec 16)
  /-- LDW (R161). Loads a sign-extended word at base plus immediate offset. -/
  | ldw (d : SReg) (a : SReg) (i : BitVec 16)
  /-- LDD (R161). Loads a doubleword at base plus immediate offset. -/
  | ldd (d : SReg) (a : SReg) (i : BitVec 16)
  /-- LDBU (R161). Loads a zero-extended byte at base plus immediate offset. -/
  | ldbu (d : SReg) (a : SReg) (i : BitVec 16)
  /-- LDHU (R161). Loads a zero-extended halfword at base plus immediate offset. -/
  | ldhu (d : SReg) (a : SReg) (i : BitVec 16)
  /-- LDWU (R161). Loads a zero-extended word at base plus immediate offset. -/
  | ldwu (d : SReg) (a : SReg) (i : BitVec 16)
  /-- STB (R161). Stores the low byte of rd at base plus immediate offset. -/
  | stb (d : SReg) (a : SReg) (i : BitVec 16)
  /-- STH (R161). Stores the low halfword of rd at base plus immediate offset. -/
  | sth (d : SReg) (a : SReg) (i : BitVec 16)
  /-- STW (R161). Stores the low word of rd at base plus immediate offset. -/
  | stw (d : SReg) (a : SReg) (i : BitVec 16)
  /-- STD (R161). Stores rd as a doubleword at base plus immediate offset. -/
  | std (d : SReg) (a : SReg) (i : BitVec 16)
  /-- LDB_REG (R132). Register-offset or ordered sign-extended byte load. -/
  | ldbReg (d : SReg) (a : SReg) (b : SReg) (k : OrdKind) (s : Scope)
  /-- LDH_REG (R132). Register-offset or ordered sign-extended halfword load. -/
  | ldhReg (d : SReg) (a : SReg) (b : SReg) (k : OrdKind) (s : Scope)
  /-- LDW_REG (R132). Register-offset or ordered sign-extended word load. -/
  | ldwReg (d : SReg) (a : SReg) (b : SReg) (k : OrdKind) (s : Scope)
  /-- LDD_REG (R132). Register-offset or ordered doubleword load, an acquire with .acq. -/
  | lddReg (d : SReg) (a : SReg) (b : SReg) (k : OrdKind) (s : Scope)
  /-- LDBU_REG (R132). Register-offset or ordered zero-extended byte load. -/
  | ldbuReg (d : SReg) (a : SReg) (b : SReg) (k : OrdKind) (s : Scope)
  /-- LDHU_REG (R132). Register-offset or ordered zero-extended halfword load. -/
  | ldhuReg (d : SReg) (a : SReg) (b : SReg) (k : OrdKind) (s : Scope)
  /-- LDWU_REG (R132). Register-offset or ordered zero-extended word load. -/
  | ldwuReg (d : SReg) (a : SReg) (b : SReg) (k : OrdKind) (s : Scope)
  /-- STB_REG (R132). Register-offset or ordered byte store. -/
  | stbReg (d : SReg) (a : SReg) (b : SReg) (k : OrdKind) (s : Scope)
  /-- STH_REG (R132). Register-offset or ordered halfword store. -/
  | sthReg (d : SReg) (a : SReg) (b : SReg) (k : OrdKind) (s : Scope)
  /-- STW_REG (R132). Register-offset or ordered word store. -/
  | stwReg (d : SReg) (a : SReg) (b : SReg) (k : OrdKind) (s : Scope)
  /-- STD_REG (R132). Register-offset or ordered doubleword store, a release with .rel. -/
  | stdReg (d : SReg) (a : SReg) (b : SReg) (k : OrdKind) (s : Scope)
  /-- AMO_ADD (R163). Atomically adds rs2 to the word at rs1 and returns the old value. -/
  | amoAdd (d : SReg) (a : SReg) (b : SReg) (k : OrdKind) (s : Scope) (z : Bool)
  /-- AMO_SWAP (R163). Atomically swaps rs2 into the word at rs1 and returns the old value. -/
  | amoSwap (d : SReg) (a : SReg) (b : SReg) (k : OrdKind) (s : Scope) (z : Bool)
  /-- AMO_CAS (R163). Atomically writes rs2 if the word equals rd, returning the old value. -/
  | amoCas (d : SReg) (a : SReg) (b : SReg) (k : OrdKind) (s : Scope) (z : Bool)
  /-- AMO_MIN (R163). Atomically writes the signed minimum of the word and rs2. -/
  | amoMin (d : SReg) (a : SReg) (b : SReg) (k : OrdKind) (s : Scope) (z : Bool)
  /-- AMO_MAX (R163). Atomically writes the signed maximum of the word and rs2. -/
  | amoMax (d : SReg) (a : SReg) (b : SReg) (k : OrdKind) (s : Scope) (z : Bool)
  /-- AMO_AND (R163). Atomically ANDs rs2 into the word. -/
  | amoAnd (d : SReg) (a : SReg) (b : SReg) (k : OrdKind) (s : Scope) (z : Bool)
  /-- AMO_OR (R163). Atomically ORs rs2 into the word. -/
  | amoOr (d : SReg) (a : SReg) (b : SReg) (k : OrdKind) (s : Scope) (z : Bool)
  /-- BEQ (R158). Branches when rs1 equals rs2. -/
  | beq (a : SReg) (b : SReg) (o : BitVec 13)
  /-- BNE (R158). Branches when rs1 differs from rs2. -/
  | bne (a : SReg) (b : SReg) (o : BitVec 13)
  /-- BLT (R158). Branches when rs1 is signed-less than rs2. -/
  | blt (a : SReg) (b : SReg) (o : BitVec 13)
  /-- BGE (R158). Branches when rs1 is signed-greater than or equal to rs2. -/
  | bge (a : SReg) (b : SReg) (o : BitVec 13)
  /-- BLTU (R158). Branches when rs1 is unsigned-less than rs2. -/
  | bltu (a : SReg) (b : SReg) (o : BitVec 13)
  /-- BGEU (R158). Branches when rs1 is unsigned-greater than or equal to rs2. -/
  | bgeu (a : SReg) (b : SReg) (o : BitVec 13)
  /-- JMP (R159). Jumps PC-relative by offset26 words. -/
  | jmp (o : BitVec 26)
  /-- CALL (R159). Writes the return address to s1 and jumps PC-relative. -/
  | call (o : BitVec 26)
  /-- JR (R159). Jumps to the address in rs1. -/
  | jr (a : SReg)
  /-- CALLR (R159). Writes the return address to s1 and jumps to the old rs1. -/
  | callr (a : SReg)
  /-- CSRR (R166). Reads a CSR into rd, waiting as the CSR requires. -/
  | csrr (d : SReg) (c : BitVec 12)
  /-- CSRW (R165). Writes rs1 into a CSR after the access and value checks. -/
  | csrw (a : SReg) (c : BitVec 12)
  /-- CSRS (R165). Sets the bits of rs1 in a CSR after the checks. -/
  | csrs (a : SReg) (c : BitVec 12)
  /-- CSRC (R165). Clears the bits of rs1 in a CSR after the checks. -/
  | csrc (a : SReg) (c : BitVec 12)
  /-- TRAP (R167). Takes cause 0x19 with the code in TVAL once earlier vector instructions complete. -/
  | trap (c : BitVec 12)
  /-- TRET (R167). Returns from a trap, restoring mode, NEST and VTYPE and jumping to EPC. -/
  | tret
  /-- BKPT (R167). Takes the breakpoint trap 0x18 at its own address after earlier vector instructions complete. -/
  | bkpt (c : BitVec 12)
  /-- WAIT (R169). Stops fetch until the event latch is set or 65,536 cycles pass, then clears the latch. -/
  | wait
  /-- YIELD (R170). Offers the hart's cores to the arbiter and is pre-empted if a fitting ready launch and a husk slot exist. -/
  | yield
  /-- FENCE_I (R171). Drains earlier stores and invalidates the instruction and AIB caches. -/
  | fenceI
  /-- GPERM (R259). Copies vs1 from the gang member named by each member's rs. -/
  | gperm (d : VReg) (a : VReg) (r : SReg) (m : MReg)
  /-- GRED (R260). Sums the members' vs1 elementwise in member order into every member. -/
  | gred (d : VReg) (a : VReg) (m : MReg)
  /-- GBCAST (R259). Copies vs1 of the member named by the leader's rs to every member. -/
  | gbcast (d : VReg) (a : VReg) (r : SReg) (m : MReg)
  /-- GSYNC (R261). Gang barrier acting as a gang-scope release then acquire. -/
  | gsync
  /-- LNEXT (R238). Decrements the count register and branches while non-zero, closing a recorded iteration of a marked loop. -/
  | lnext (a : SReg) (o : BitVec 13)
  /-- LJOIN (R244). Waits for the marked-loop status, writes hand-back values, closes the loop and branches on departure. -/
  | ljoin (a : SReg) (o : BitVec 13)
  /-- VADD (R186). Elementwise add under the tag table. -/
  | vadd (d : VReg) (a : VReg) (b : VReg) (m : MReg)
  /-- VSUB (R186). Elementwise subtract. -/
  | vsub (d : VReg) (a : VReg) (b : VReg) (m : MReg)
  /-- VRSUB (R186). Elementwise reverse subtract b − a. -/
  | vrsub (d : VReg) (a : VReg) (b : VReg) (m : MReg)
  /-- VMUL (R186). Elementwise multiply. -/
  | vmul (d : VReg) (a : VReg) (b : VReg) (m : MReg)
  /-- VMULH (R186). Elementwise signed high product. -/
  | vmulh (d : VReg) (a : VReg) (b : VReg) (m : MReg)
  /-- VMULH_U (R186). Elementwise unsigned high product. -/
  | vmulhU (d : VReg) (a : VReg) (b : VReg) (m : MReg)
  /-- VDIV (R186). Elementwise divide. -/
  | vdiv (d : VReg) (a : VReg) (b : VReg) (m : MReg)
  /-- VDIV_U (R186). Elementwise unsigned integer divide. -/
  | vdivU (d : VReg) (a : VReg) (b : VReg) (m : MReg)
  /-- VREM (R186). Elementwise signed remainder. -/
  | vrem (d : VReg) (a : VReg) (b : VReg) (m : MReg)
  /-- VREM_U (R186). Elementwise unsigned remainder. -/
  | vremU (d : VReg) (a : VReg) (b : VReg) (m : MReg)
  /-- VMIN (R186). Elementwise minimum. -/
  | vmin (d : VReg) (a : VReg) (b : VReg) (m : MReg)
  /-- VMIN_U (R186). Elementwise unsigned minimum. -/
  | vminU (d : VReg) (a : VReg) (b : VReg) (m : MReg)
  /-- VMAX (R186). Elementwise maximum. -/
  | vmax (d : VReg) (a : VReg) (b : VReg) (m : MReg)
  /-- VMAX_U (R186). Elementwise unsigned maximum. -/
  | vmaxU (d : VReg) (a : VReg) (b : VReg) (m : MReg)
  /-- VABS (R186). Elementwise absolute value. -/
  | vabs (d : VReg) (a : VReg) (m : MReg)
  /-- VNEG (R186). Elementwise negation. -/
  | vneg (d : VReg) (a : VReg) (m : MReg)
  /-- VAND (R186). Elementwise bitwise AND. -/
  | vand (d : VReg) (a : VReg) (b : VReg) (m : MReg)
  /-- VOR (R186). Elementwise bitwise OR. -/
  | vor (d : VReg) (a : VReg) (b : VReg) (m : MReg)
  /-- VXOR (R186). Elementwise bitwise XOR. -/
  | vxor (d : VReg) (a : VReg) (b : VReg) (m : MReg)
  /-- VSHL (R186). Elementwise shift left. -/
  | vshl (d : VReg) (a : VReg) (b : VReg) (m : MReg)
  /-- VSHR (R186). Elementwise logical shift right. -/
  | vshr (d : VReg) (a : VReg) (b : VReg) (m : MReg)
  /-- VSRA (R186). Elementwise arithmetic shift right. -/
  | vsra (d : VReg) (a : VReg) (b : VReg) (m : MReg)
  /-- VSADD (R186). Elementwise signed saturating add. -/
  | vsadd (d : VReg) (a : VReg) (b : VReg) (m : MReg)
  /-- VSADD_U (R186). Elementwise unsigned saturating add. -/
  | vsaddU (d : VReg) (a : VReg) (b : VReg) (m : MReg)
  /-- VSSUB (R186). Elementwise signed saturating subtract. -/
  | vssub (d : VReg) (a : VReg) (b : VReg) (m : MReg)
  /-- VSSUB_U (R186). Elementwise unsigned saturating subtract. -/
  | vssubU (d : VReg) (a : VReg) (b : VReg) (m : MReg)
  /-- VSQRT (R186). Elementwise square root. -/
  | vsqrt (d : VReg) (a : VReg) (m : MReg)
  /-- VRECE (R188). Elementwise reciprocal estimate. -/
  | vrece (d : VReg) (a : VReg) (m : MReg)
  /-- VRSQE (R188). Elementwise reciprocal square-root estimate. -/
  | vrsqe (d : VReg) (a : VReg) (m : MReg)
  /-- VEXP2 (R188). Elementwise base-2 exponential estimate. -/
  | vexp2 (d : VReg) (a : VReg) (m : MReg)
  /-- VLOG2 (R188). Elementwise base-2 logarithm estimate. -/
  | vlog2 (d : VReg) (a : VReg) (m : MReg)
  /-- VMOV (R187). Copies elements bit for bit, taking the source tag. -/
  | vmov (d : VReg) (a : VReg) (m : MReg)
  /-- VSEL (R192). Selects vs1 or vs2 per element by the mask. -/
  | vsel (d : VReg) (a : VReg) (b : VReg) (m : MReg)
  /-- VIOTA (R194). Writes element indices or running active counts. -/
  | viota (d : VReg) (m : MReg)
  /-- VGATH (R197). Gathers vs1 elements by the index vector vs2. -/
  | vgath (d : VReg) (a : VReg) (b : VReg) (m : MReg)
  /-- VCOMP (R198). Packs the active elements of vs1 densely into vd. -/
  | vcomp (d : VReg) (a : VReg) (m : MReg)
  /-- VREDSUM (R202). Sum reduction in the fixed order of R87 into vd[0]. -/
  | vredsum (d : VReg) (a : VReg) (b : VReg) (m : MReg)
  /-- VREDMAX (R202). Maximum reduction into vd[0]. -/
  | vredmax (d : VReg) (a : VReg) (b : VReg) (m : MReg)
  /-- VREDMAX_U (R202). Unsigned maximum reduction into vd[0]. -/
  | vredmaxU (d : VReg) (a : VReg) (b : VReg) (m : MReg)
  /-- VREDMIN (R202). Minimum reduction into vd[0]. -/
  | vredmin (d : VReg) (a : VReg) (b : VReg) (m : MReg)
  /-- VREDMIN_U (R202). Unsigned minimum reduction into vd[0]. -/
  | vredminU (d : VReg) (a : VReg) (b : VReg) (m : MReg)
  /-- VTAG (R184). Relabels a register's type tag without changing its bits. -/
  | vtag (d : VReg) (t : Fin 16)
  /-- VCMP (R190). Compares elements under the condition and writes a mask register. -/
  | vcmp (d : MReg) (a : VReg) (b : VReg) (m : MReg) (u : Bool) (c : Cond)
  /-- VCVT (R191). Converts elements to the named destination tag. -/
  | vcvt (d : VReg) (a : VReg) (m : MReg) (s : Bool) (u : Bool) (t : DTag)
  /-- VBCAST (R193). Broadcasts a scalar into active elements under DTAG. -/
  | vbcast (d : VReg) (r : SReg) (m : MReg)
  /-- VEXT (R199). Extracts one element into a scalar, sign-extended. -/
  | vext (d : SReg) (a : VReg) (r : SReg)
  /-- VEXT_U (R199). Extracts one element into a scalar, zero-extended. -/
  | vextU (d : SReg) (a : VReg) (r : SReg)
  /-- VPROG (R201). Samples a register's progress index without waiting. -/
  | vprog (d : SReg) (a : VReg)
  /-- VSETVL (R181). Grants VL = min(request, VLMAX) and writes it to rd. -/
  | vsetvl (d : SReg) (a : SReg)
  /-- VSETVT (R182). Writes VTYPE[12:0] and grants VL together. -/
  | vsetvt (d : SReg) (a : SReg) (i : BitVec 13)
  /-- VRCFG (R183). Selects a register configuration, zeroing the vector state under R17. -/
  | vrcfg (n : Fin 4)
  /-- MAND (R195). Mask AND. -/
  | mand (d : MReg) (a : MReg) (b : MReg)
  /-- MOR (R195). Mask OR. -/
  | mor (d : MReg) (a : MReg) (b : MReg)
  /-- MXOR (R195). Mask XOR. -/
  | mxor (d : MReg) (a : MReg) (b : MReg)
  /-- MANDN (R195). Mask AND NOT. -/
  | mandn (d : MReg) (a : MReg) (b : MReg)
  /-- MNOT (R195). Mask NOT. -/
  | mnot (d : MReg) (a : MReg)
  /-- MMOV (R195). Mask copy. -/
  | mmov (d : MReg) (a : MReg)
  /-- MPOPC (R195). Counts set mask bits below n into a scalar. -/
  | mpopc (d : SReg) (a : MReg)
  /-- MFIRST (R195). Writes the index of the lowest set mask bit, or all ones. -/
  | mfirst (d : SReg) (a : MReg)
  /-- MSETVL (R195). Sets VL to the first set mask bit index + 1 and writes rd. -/
  | msetvl (d : SReg) (a : MReg)
  /-- VSLUP (R196). Slides elements up by d, filling below d. -/
  | vslup (d : VReg) (a : VReg) (r : SReg) (s : SReg) (m : MReg)
  /-- VSLDN (R196). Slides elements down by d, filling at the end. -/
  | vsldn (d : VReg) (a : VReg) (r : SReg) (s : SReg) (m : MReg)
  /-- VINS (R200). Inserts a scalar into one element of a complete register. -/
  | vins (d : VReg) (r : SReg) (s : SReg)
  /-- VF (R203). Vector-fetches an AIB onto every active VP. -/
  | vf (m : MReg) (l : Fin 16) (o : BitVec 19)
  /-- VPF (R205). Sends the executing VP onto its own path at the target. -/
  | vpf (l : Fin 16) (o : BitVec 19)
  /-- VPSTOP (R205). Ends the executing VP's path or block. -/
  | vpstop
  /-- VPJOIN (R206). Stalls the control thread until every earlier VF and its VP paths complete. -/
  | vpjoin
  /-- MXADD (R251). Adds one predicated outer product into a tile as one K step. -/
  | mxadd (t : TileId) (a : VReg) (b : VReg) (r : MReg) (c : MReg)
  /-- MXSUB (R251). Subtracts one predicated outer product from a tile. -/
  | mxsub (t : TileId) (a : VReg) (b : VReg) (r : MReg) (c : MReg)
  /-- MZERO (R254). Sets every element of the tile's part to +0. -/
  | mzero (t : TileId)
  /-- MROW (R255). Copies one tile row into a vector register. -/
  | mrow (t : TileId) (d : VReg) (r : SReg)
  /-- MCOL (R255). Copies one tile column into a vector register. -/
  | mcol (t : TileId) (d : VReg) (r : SReg)
  /-- MWROW (R256). Writes a vector register into one tile row. -/
  | mwrow (t : TileId) (a : VReg) (r : SReg)
  /-- MLDT (R257). Loads the tile's part from memory row by row. -/
  | mldt (t : TileId) (a : SReg) (b : SReg)
  /-- MSTT (R257). Stores the tile's part to memory row by row. -/
  | mstt (t : TileId) (a : SReg) (b : SReg)
  /-- MXSLD (R253). Runs s outer-product steps, sliding va by one element between steps. -/
  | mxsld (t : TileId) (a : VReg) (b : VReg) (r : MReg) (c : MReg) (s : Fin 64)
  /-- FENCE_SV (R100). Orders earlier scalar accesses before later vector accesses. -/
  | fenceSv
  /-- FENCE_VS (R100). Stalls the control thread until earlier vector accesses are done. -/
  | fenceVs
  /-- FENCE_VV (R100). Orders vector accesses of all lane clusters. -/
  | fenceVv
  /-- LSYNC (R100). Orders all memory accesses of the hart at device scope. -/
  | lsync
  /-- SFENCE_T (R267). Invalidates cached translations across the partition. -/
  | sfenceT (a : SReg)
  /-- HARVEST (R267). Reads and clears the dirty bits of 64 pages of one size. -/
  | harvest (d : SReg) (a : SReg)
  /-- CLAIM (R268). Claims a counter bank or the trace unit for the caller's world. -/
  | claim (d : SReg) (a : SReg)
  /-- UNCLAIM (R268). Releases a counter bank or the trace unit. -/
  | unclaim (d : SReg) (a : SReg)
  /-- CRD (R269). Reads a 64-bit counter in one step. -/
  | crd (d : SReg) (n : BitVec 12)
  /-- CRDLO (R269). Reads a counter's low half and latches its high half. -/
  | crdlo (d : SReg) (n : BitVec 12)
  /-- CRDHI (R269). Reads the latched or current high half of a counter. -/
  | crdhi (d : SReg) (n : BitVec 12)
  /-- CEVT (R269). Writes an event select and zeroes the counter. -/
  | cevt (a : SReg) (n : BitVec 12)
  /-- TSHAPE (R245). Requests a tile shape, writes the grant and zeroes a0–a3. -/
  | tshape (d : SReg) (a : SReg) (b : SReg) (c : SReg)
  /-- MENTER (R248). Enters matrix mode with MVL = max(M0, N0). -/
  | menter
  /-- MLEAVE (R249). Leaves matrix mode, clearing the tiles and MVL. -/
  | mleave
  /-- LAUNCH (R263). Offers a launch record to the pending-launch store and receives a status. -/
  | launch (d : SReg) (a : SReg)
  /-- CANCEL (R264). Withdraws a pending launch that has no gang dispatched. -/
  | cancel (d : SReg) (a : SReg)
  /-- END (R265). Cancels streams, waits for outstanding work, removes subscriptions and ends the hart. -/
  | endProg
  /-- VLD (R209). Unit-stride vector load. -/
  | vld (t : VReg) (b : SReg) (m : MReg)
  /-- VLDS (R209). Strided vector load. -/
  | vlds (t : VReg) (b : SReg) (s : SReg) (m : MReg)
  /-- VLDX (R209). Indexed vector load. -/
  | vldx (t : VReg) (b : SReg) (i : VReg) (m : MReg)
  /-- VLDFF (R211). First-fault load that trims VL at a later unloadable element. -/
  | vldff (t : VReg) (b : SReg) (m : MReg)
  /-- VLDP (R212). Loads the next elements of the stream bound to a port. -/
  | vldp (t : VReg) (p : PortId) (m : MReg)
  /-- VST (R210). Unit-stride vector store. -/
  | vst (t : VReg) (b : SReg) (m : MReg)
  /-- VSTS (R210). Strided vector store. -/
  | vsts (t : VReg) (b : SReg) (s : SReg) (m : MReg)
  /-- VSTX (R210). Indexed vector store. -/
  | vstx (t : VReg) (b : SReg) (i : VReg) (m : MReg)
  /-- VSTP (R212). Stores elements to the stream bound to a port. -/
  | vstp (t : VReg) (p : PortId) (m : MReg)
  /-- VLDN (R216). Narrow-format load widened to the named tag. -/
  | vldn (t : VReg) (b : SReg) (s : SReg) (m : MReg) (f : Fmt) (g : DTag)
  /-- VSTN (R216). Narrow-format store with per-block scales under a rounding selector. -/
  | vstn (t : VReg) (b : SReg) (s : SReg) (m : MReg) (f : Fmt) (g : NRound)
  /-- VLDNS (R215). Narrow-format load with strided blocks. -/
  | vldns (t : VReg) (b : SReg) (s : SReg) (r : SReg) (f : Fmt) (g : DTag)
  /-- VAMOADD (R217). Vector atomic add at indexed addresses. -/
  | vamoadd (t : VReg) (b : SReg) (i : VReg) (m : MReg)
  /-- VAMOMAX (R217). Vector atomic signed maximum. -/
  | vamomax (t : VReg) (b : SReg) (i : VReg) (m : MReg)
  /-- VAMOMAX_U (R217). Vector atomic unsigned maximum. -/
  | vamomaxU (t : VReg) (b : SReg) (i : VReg) (m : MReg)
  /-- VAMOMIN (R217). Vector atomic signed minimum. -/
  | vamomin (t : VReg) (b : SReg) (i : VReg) (m : MReg)
  /-- VAMOMIN_U (R217). Vector atomic unsigned minimum. -/
  | vamominU (t : VReg) (b : SReg) (i : VReg) (m : MReg)
  /-- STAND (R220). Subscribes a standing slot to a memory word and returns its value. -/
  | stand (d : SReg) (a : SReg) (b : SReg)
  /-- UNSTAND (R224). Ends a subscription, draining before its status is written. -/
  | unstand (d : SReg) (a : SReg)
  /-- TAKE (R222). Returns a slot's VALUE and clears FRESH, acquiring on an armed slot. -/
  | take (d : SReg) (a : SReg)
  /-- WAITSL (R223). Waits until a slot's FRESH is set or a timeout passes. -/
  | waitsl (d : SReg) (a : SReg) (b : SReg)
  /-- VSTAND (R227). Subscribes consecutive slots to indexed words per element. -/
  | vstand (t : VReg) (b : SReg) (i : VReg) (m : MReg) (s : SReg)
  /-- VTAKE (R227). Takes the values of consecutive slots per element. -/
  | vtake (t : VReg) (m : MReg) (s : SReg)
  /-- COPY (R232). Starts an engine copy with optional chunk mask and status register. -/
  | copy (d : SReg) (a : SReg) (b : SReg) (c : SReg) (m : MReg)
  /-- STREAM (R233). Binds a descriptor's access pattern to a stream port. -/
  | stream (d : SReg) (p : PortId) (b : SReg)
  /-- NBX (R236). Sends a near-bank command to a stope engine of the page's stack. -/
  | nbx (d : SReg) (a : SReg) (b : SReg)
  /-- CHAIN (R237). Forwards a scratchpad block through a list of cores. -/
  | chain (d : SReg) (a : SReg) (b : SReg) (c : SReg)
  /-- LMARK (R239). Opens a marked loop with its count and carried registers. -/
  | lmark (d : SReg) (a : SReg) (b : SReg) (c : SReg)
  /-- BGLD (R234). Engine gather sorted by pseudo-channel, writing a duplicate-index mask. -/
  | bgld (t : VReg) (b : SReg) (i : VReg) (m : MReg) (s : SReg)
  /-- GXL (R235). Gathers active elements through the stacks' gather units. -/
  | gxl (t : VReg) (b : SReg) (i : VReg) (m : MReg) (s : SReg)
  /-- VFMA (R189). Elementwise fused multiply-add a × b + c. -/
  | vfma (d : VReg) (a : VReg) (b : VReg) (c : VReg) (m : MReg)
  /-- VFMS (R189). Elementwise fused multiply-subtract a × b − c. -/
  | vfms (d : VReg) (a : VReg) (b : VReg) (c : VReg) (m : MReg)
  /-- VFNMA (R189). Elementwise c − a × b with one rounding. -/
  | vfnma (d : VReg) (a : VReg) (b : VReg) (c : VReg) (m : MReg)
  /-- VCLAMP (R189). Elementwise clamp min(max(a, b), c). -/
  | vclamp (d : VReg) (a : VReg) (b : VReg) (c : VReg) (m : MReg)
  /-- VRCFG_CSR_WRITE (R17). A CSR write of VRCFG takes effect after earlier vector instructions complete and zeroes the vector state. -/
  | vrcfgCsrWrite (v : Word)
  /-- VTYPE_CSR_WRITE (R43). A CSR write of VTYPE is checked at issue and applies to later vector instructions, clamping VL. -/
  | vtypeCsrWrite (v : Word)
  /-- FCSR_WRITE (R72). A write of FCSR waits for earlier vector and matrix instructions to complete. -/
  | fcsrWrite (v : Word)
  /-- SEED_WRITE (R84). A write of SEED waits for earlier vector instructions to complete. -/
  | seedWrite (v : Word)
  /-- SLBASE_WRITE (R56). A write of SLBASE moves the slot region unless a slot is in use or the value is illegal. -/
  | slbaseWrite (v : Word)
  /-- AGE_WRITE (R310). A write of AGE sets the aging threshold of the partition's arbiter. -/
  | ageWrite (v : Word)
  /-- STATUS_WRITE (R321). A supervisor write of STATUS with the PMODE checks. -/
  | statusWrite (v : Word)
  /-- REGISTER_WRITE (R42). Write of any register that has no row of its own. -/
  | registerWrite (c : BitVec 12) (v : Word)
  /-- STORE_BUFFER_DRAIN (R93). A scalar store or atomic leaves the store buffer into the memory system once rollback cannot reach it. -/
  | storeBufferDrain (core : CoreId)
  /-- STAND_ANSWER (R397). The home's answer to a STAND arrives and the slot is written, applying held pushes. -/
  | standAnswer (k : Nat)
  /-- PUSH_ARRIVAL (R221). A push arrives at a slot and is accepted, coalesced, bounced, held or dropped. -/
  | pushArrival (k : Nat)
  /-- PUSH_BOUNCE (R226). A push returned from a parked slot reaches the home, which subtracts it from the slot's count. -/
  | pushBounce (k : Nat)
  /-- UNSTAND_ANSWER (R224). The home's count C arrives and the slot drains or becomes IDLE with its status written. -/
  | unstandAnswer (k : Nat)
  /-- WAITSL_TIMEOUT (R223). The timeout of a WAITSL passes without FRESH, returning 0. -/
  | waitslTimeout (core : CoreId)
  /-- WAIT_TIMEOUT (R169). A WAIT ends after 65,536 cycles without an event. -/
  | waitTimeout (core : CoreId)
  /-- COPY_CHUNK_DONE (R110). A copy chunk finishes and its chunk-mask bit is set. -/
  | copyChunkDone (core : CoreId) (e : Nat) (c : Nat)
  /-- COPY_DONE (R232). A copy finishes, writes its status word and frees its tracking context. -/
  | copyDone (core : CoreId) (e : Nat)
  /-- ENGINE_BATCH_RESUME (R231). An engine waiting on a page-fault batch sees the done word and continues or ends in state 3. -/
  | engineBatchResume (core : CoreId) (e : Nat)
  /-- STREAM_END (R233). A stream's last element is consumed or performed; it writes status and the queued stream starts. -/
  | streamEnd (core : CoreId) (e : Nat)
  /-- BGLD_DONE (R234). A BGLD engine finishes and writes its status. -/
  | bgldDone (core : CoreId) (e : Nat)
  /-- GATHER_UNIT_REQUEST (R352). A gather unit accepts a GXL request, reads its stack's elements and forwards the rest. -/
  | gatherUnitRequest (core : CoreId) (e : Nat) (k : StackId)
  /-- GXL_DONE (R235). Every gather unit has delivered its part and the GXL status is written. -/
  | gxlDone (core : CoreId) (e : Nat)
  /-- NBX_ARRIVAL (R360). A near-bank command's descriptor is read and judged at the stack, rejected, queued or given an engine. -/
  | nbxArrival (core : CoreId) (e : Nat)
  /-- NBX_ENGINE_GRANT (R348). A queued command takes a released stope engine and its operand lines are written back. -/
  | nbxEngineGrant (k : StackId)
  /-- STOPE_STEP (R349). A stope engine performs one granule step on one pseudo-channel and bank. -/
  | stopeStep (k : StackId) (g : Fin 64)
  /-- STOPE_RESUME (R351). After 256 cycles or an empty ordinary queue the suspended engine's next step is granted. -/
  | stopeResume (k : StackId) (g : Fin 64)
  /-- NBX_DONE (R236). A near-bank command finishes its rows and writes its status. -/
  | nbxDone (k : StackId) (g : Fin 64)
  /-- CHAIN_RESERVATION (R371). A chain reservation takes a context at a hop, waiting if none is free. -/
  | chainReservation (core : CoreId) (e : Nat)
  /-- CHAIN_HOP_STORE (R237). A hop stores the forwarded block, bumps the arrival word and passes it on. -/
  | chainHopStore (core : CoreId) (e : Nat)
  /-- CHAIN_DONE (R237). The chain's status is written once every hop has stored or skipped the block. -/
  | chainDone (core : CoreId) (e : Nat)
  /-- LOOP_VERDICT (R240). The assay unit's verdict arrives, confirming or declining the marked loop. -/
  | loopVerdict (core : CoreId)
  /-- REPLAY_ITERATION (R242). A stope engine replays one iteration, storing after its guards pass. -/
  | replayIteration (core : CoreId)
  /-- LOOP_STATUS_WRITE (R243). Once earlier iterations' stores are performed, the marked-loop status is written. -/
  | loopStatusWrite (core : CoreId)
  /-- TRAP_ENTRY (R323). A trap is entered, saving state, writing a fault record and jumping to TVEC. -/
  | trapEntry (cause : BitVec 8) (tval : Word) (topnd : Word)
  /-- END_LAUNCH (R323). The supervisor ends a launch, stopping its gangs and engines and writing STATE 3. -/
  | endLaunch (p : PartId) (id : BitVec 24)
  /-- COMPLETION_WORD_WRITE (R266). The launch's completion word is written at system scope after all its writes and the entry is freed. -/
  | completionWordWrite (p : PartId) (id : BitVec 24)
  /-- DISPATCH_ROUND (R310). Each cycle the arbiter dispatches the first fitting candidate and pre-empts or parks as needed. -/
  | dispatchRound (p : PartId)
  /-- AGING_RISE (R310). A candidate that has waited AGE cycles rises one class. -/
  | agingRise (p : PartId) (k : Nat)
  /-- DEPENDENCE_SATISFIED (R311). A push on a dependence's completion word moves a waiting launch towards READY. -/
  | dependenceSatisfied (p : PartId) (id : BitVec 24) (d : Fin 2)
  /-- DEPENDENCE_POLL (R311). Every 4,096 cycles the arbiter reads a refused dependence word with an acquire. -/
  | dependencePoll (p : PartId) (id : BitVec 24) (d : Fin 2)
  /-- PREEMPT_REQUEST (R315). A pre-emption request stops the gang at restart boundaries within 400 cycles. -/
  | preemptRequest (core : CoreId)
  /-- HUSK_SAVE (R319). At the close point the hart parks its slots, writes its husk and frees its cores. -/
  | huskSave (core : CoreId)
  /-- HUSK_WAKE (R314). A home wake, bounce or completion makes a parked husk runnable. -/
  | huskWake (p : PartId) (h : Fin 128)
  /-- PARK_TIMEOUT (R314). The recorded WAITSL timeout of a parked husk falls due and it becomes runnable. -/
  | parkTimeout (p : PartId) (h : Fin 128)
  /-- HUSK_RELEASE (R314). The requester releases a held husk, which competes as newly arrived. -/
  | huskRelease (p : PartId) (h : Fin 128)
  /-- DUMP_REQUEST (R390). A dump of one gang is taken as a dump-held husk and the gang resumes. -/
  | dumpRequest (p : PartId) (id : BitVec 24) (g : Fin 128)
  /-- DUMP_RELEASE (R390). Firmware releases a dump-held husk slot. -/
  | dumpRelease (p : PartId) (h : Fin 128)
  /-- PACKET_ARRIVAL (R365). A packet reaches its destination slice and is performed in sequence-window order. -/
  | packetArrival (k : Nat)
  /-- BLOCK_SUSPECT (R366). A router's block count reaches BLKT and its oldest packet becomes suspect. -/
  | blockSuspect (r : RouterId)
  /-- LAMP_HOP (R366). The lamp moves one position along its cycle through the routers. -/
  | lampHop
  /-- RECOVERY_BUFFER_ACCEPT (R367). The destination places the adit packet in its recovery buffer and acknowledges. -/
  | recoveryBufferAccept
  /-- LAMP_RELEASE (R367). The acknowledgement arrives and the router releases the lamp. -/
  | lampRelease
  /-- RECOVERY_BUFFER_DRAIN (R367). A recovered packet drains into the endpoint ahead of ordinary input. -/
  | recoveryBufferDrain (k : Nat)
  /-- LAMP_REGENERATE (R368). Die 0 regenerates the lamp after 131,072 cycles without seeing it. -/
  | lampRegenerate
  /-- SEGMENT_MASK_ACTIVATE (R341). The controller opens only the segments of a row with queued requests. -/
  | segmentMaskActivate (k : StackId) (c : Fin 64) (b : Fin 16)
  /-- SUPPLEMENTARY_ACTIVATE (R342). A request to an unopened segment opens it without closing the row. -/
  | supplementaryActivate (k : StackId) (c : Fin 64) (b : Fin 16)
  /-- REFRESH (R343). A per-bank refresh starts between stope steps. -/
  | refresh (k : StackId) (c : Fin 64) (b : Fin 16)
  /-- SELF_REFRESH_ENTRY (R344). An idle pseudo-channel enters self-refresh after SRIDLE × 16 cycles. -/
  | selfRefreshEntry (k : StackId) (c : Fin 64)
  /-- SELF_REFRESH_EXIT (R344). A request finds the pseudo-channel in self-refresh and waits for exit. -/
  | selfRefreshExit (k : StackId) (c : Fin 64)
  /-- ERROR_CHECK_SCRUB (R393). Background scrub repairs correctable DRAM errors and logs uncorrectable ones. -/
  | errorCheckScrub (k : StackId) (pa : PAddr)
  /-- ERROR_RATE_CROSSED (R393). A structure class exceeds 64 corrections in one second and event 0x0011 is logged. -/
  | errorRateCrossed (die : DieId) (cls : Fin 16)
  /-- LEASE_GRANT (R354). A peer block is zeroed, marked LENT and mapped into a lease entry as GRANTED. -/
  | leaseGrant (i : Fin 64) (p : PartId) (port : Fin 8) (peer : BitVec 8) (rblock : BitVec 32)
  /-- LEASE_REVOKE (R355). Either module begins revocation and the entry becomes REVOKING. -/
  | leaseRevoke (i : Fin 64)
  /-- REVOCATION_POINT (R355). After write-back the entry becomes REVOKED and accesses take 0x0A. -/
  | revocationPoint (i : Fin 64)
  /-- LEASE_RELEASE (R355). OUTST reaches 0, the lessee acknowledges and the lender zeroes and reclaims the block. -/
  | leaseRelease (i : Fin 64)
  /-- UALINK_PORT_DOWN (R377). A UALink port goes down and every GRANTED lease on it becomes REVOKED. -/
  | ualinkPortDown (port : Fin 8)
  /-- CAPACITY_MOVE (R357). Firmware asks a guest to hot-remove a block for another partition. -/
  | capacityMove (b : Fin 256) (p : PartId) (q : PartId)
  /-- HOT_REMOVE_ACK (R357). The guest acknowledges; the owner changes and the block is scrubbed. -/
  | hotRemoveAck (b : Fin 256)
  /-- HOT_REMOVE_TIMEOUT (R357). The guest does not acknowledge in time and the move is abandoned. -/
  | hotRemoveTimeout (b : Fin 256)
  /-- BLOCK_SCRUB_DONE (R357). Scrubbing ends and the block is handed to the receiving partition for hot-add. -/
  | blockScrubDone (b : Fin 256)
  /-- HOST_MEM_WRITE (R108). A host CXL.mem write is performed and completed at system scope. -/
  | hostMemWrite (pa : PAddr) (bs : List Byte)
  /-- HOST_MEM_READ (R108). A host CXL.mem read returns the home's value. -/
  | hostMemRead (pa : PAddr) (n : Fin 65)
  /-- NOTIFY (R376). A write of the mailbox NOTIFY word raises an MSI-X vector. -/
  | notify (p : PartId) (v : Word)
  /-- BDONE_WRITE (R307). The host advances BDONE, freeing batch-ring space. -/
  | bdoneWrite (p : PartId) (v : Word)
  /-- NETCTL_WRITE (R370). A write of NETCTL sets HOSTQ and BLKT or is ignored. -/
  | netctlWrite (v : Word)
  /-- MCSTK_WRITE (R345). A write of a stack's controller register sets self-refresh, segmenting and scrub. -/
  | mcstkWrite (k : StackId) (v : Word)
  /-- CORES_WRITE (R372). A write of a partition's core map, ignored if a core is in use. -/
  | coresWrite (p : PartId) (v : BitVec 128)
  /-- XMASK_WRITE (R372). A write of a partition's crossbar mask for later gangs and chains. -/
  | xmaskWrite (p : PartId) (v : BitVec 128)
  /-- ACTIVE_WRITE (R376). Setting ACTIVE starts the partition's foreman and any hypervisor hart. -/
  | activeWrite (p : PartId) (v : Word) (fw : FirmwareStart)
  /-- COLD_RESET (R391). Cold reset clears the pit logs and restarts the module. -/
  | coldReset
  /-- WARM_RESET (R391). Warm reset resets the compute dies, keeping the pit logs. -/
  | warmReset
  /-- POWER_ON (R378). The boot ROM reads, verifies and measures firmware and brings up the module. -/
  | powerOn (fw : BootImage)
  /-- GET_VERSION (R380). SPDM GET_VERSION request over DOE. -/
  | getVersion
  /-- GET_CAPABILITIES (R380). SPDM GET_CAPABILITIES request. -/
  | getCapabilities
  /-- NEGOTIATE_ALGORITHMS (R380). SPDM NEGOTIATE_ALGORITHMS request. -/
  | negotiateAlgorithms
  /-- GET_DIGESTS (R380). SPDM GET_DIGESTS request. -/
  | getDigests
  /-- GET_CERTIFICATE (R380). SPDM GET_CERTIFICATE request. -/
  | getCertificate
  /-- CHALLENGE (R380). SPDM CHALLENGE request. -/
  | challenge
  /-- GET_MEASUREMENTS (R380). SPDM GET_MEASUREMENTS request returning signed digests. -/
  | getMeasurements (m : BitVec 8)
  /-- KEY_EXCHANGE (R380). SPDM KEY_EXCHANGE request. -/
  | keyExchange
  /-- FINISH (R380). SPDM FINISH request. -/
  | finish
  /-- END_SESSION (R380). SPDM END_SESSION request. -/
  | endSession
  /-- IDE_KM (R381). IDE keys are programmed within an SPDM session, enabling CXL.mem once all streams exist. -/
  | ideKm (module : Fin 4)
  /-- IDE_STREAM_FAILURE (R381). An IDE stream fails, disabling CXL.mem and CXL.cache and logging the event. -/
  | ideStreamFailure (module : Fin 4)
  /-- COUNTER_QUANTUM (R385). A 1,048,576-cycle quantum ends and counting rotates between enabled banks. -/
  | counterQuantum (core : CoreId)
  /-- TRACE_SAMPLE (R388). A sample period elapses and kind 2 and 3 trace records are written. -/
  | traceSample (core : CoreId)
  /-- TRACE_CONVOY_RECORD (R388). A convoy completes and a kind 1 trace record is written. -/
  | traceConvoyRecord (core : CoreId)
  /-- THROTTLE_RAISE (R396). Power or temperature reaches its limit and the throttle level rises. -/
  | throttleRaise
  /-- THROTTLE_LOWER (R396). After 10 ms below both limits the throttle level falls. -/
  | throttleLower
  /-- THERMAL_STOP (R396). At 115 °C firmware stops every die and logs the event. -/
  | thermalStop
  /-- LAUNCH_ANSWER (R263). The pending-launch store answers a LAUNCH, after any page-fault batch the arbiter watched, and writes the kind-9 status into rd. -/
  | launchAnswer (core : CoreId)
  /-- PARTITION_BLOCK_WRITE (R374). Firmware writes PCPADDR, MBOXADDR or HOSTWIN of a partition block, which takes effect only while ACTIVE is 0. -/
  | partitionBlockWrite (p : PartId) (f : BlockField) (v : Word)
  /-- PEER_LINE_FILL_OR_WRITE_BACK (R377). A lessee's 64-byte line fill or write-back arrives over UALink and is served at the lender's DRAM for a LENT block. -/
  | peerLineFillOrWriteBack (pa : PAddr) (w : Option (List Byte))
  /-- LEASE_RECLAIM (R377). Firmware reclaims the lender's blocks that stayed LENT after the UALink port carrying their lease went down. -/
  | leaseReclaim (b : Fin 256)
  deriving DecidableEq, Repr

/-- What a word decodes to (R138): an instruction; an unallocated code (cause 0x01); or a code whose
reserved field is not zero (cause 0x02), with the instruction its code names where its operand fields
name one, because step 2 of R138 asks for it before step 3. -/
inductive Decoded where
  | ok (i : Instr)
  | illegal
  | reserved (i : Option Instr)
  deriving DecidableEq, Repr

end Sys2Proof
end

