-- ==== Sys2Proof/Machine/Bits.lean ====
section
/-! DEFINITION. Bit fields, sign extension and byte order of the words the machine handles (R8, R130). -/

namespace Sys2Proof.Machine

/-- Bits [lo + len - 1 : lo] of a word, as a number. -/
def bits {n : Nat} (w : BitVec n) (lo len : Nat) : Nat := w.toNat / 2 ^ lo % 2 ^ len

/-- The word with bits [lo + len - 1 : lo] replaced by the low `len` bits of `v`. -/
def setBits {n : Nat} (w : BitVec n) (lo len v : Nat) : BitVec n :=
  let m : BitVec n := BitVec.ofNat n ((2 ^ len - 1) * 2 ^ lo)
  (w &&& ~~~ m) ||| (BitVec.ofNat n (v % 2 ^ len * 2 ^ lo))

/-- A number as a word. -/
def word (v : Nat) : Word := BitVec.ofNat 64 v

/-- An integer as a word, modulo 2^64. -/
def wordI (v : Int) : Word := BitVec.ofInt 64 v

/-- The low `n` bits of `v`, read in two's complement. -/
def signed (n v : Nat) : Int :=
  let x := v % 2 ^ n
  if 2 * x < 2 ^ n then (x : Int) else (x : Int) - (2 ^ n : Nat)

/-- The low `n` bits of `v`, sign-extended to a word. -/
def sextWord (n v : Nat) : Word := wordI (signed n v)

/-- A 16-bit immediate sign-extended to a word (R130). -/
def simm (i : BitVec 16) : Word := i.signExtend 64

/-- A 16-bit immediate zero-extended to a word (R130). -/
def zimm (i : BitVec 16) : Word := i.zeroExtend 64

/-- A condition as 0 or 1. -/
def bit (b : Bool) : Word := if b then 1 else 0

/-- The little-endian bytes of the low `len` bytes of `v`. -/
def natBytes (len v : Nat) : List Byte :=
  match len with
  | 0 => []
  | len + 1 => BitVec.ofNat 8 v :: natBytes (len) (v / 256)

/-- Leading zero bits of a word (R152). -/
def leadingZeros (w : Word) : Nat := if w = 0 then 64 else 63 - w.toNat.log2

/-- Trailing zero bits of the low `n` bits of `v`, counted from bit `k`. -/
def trailingFrom (v k n : Nat) : Nat :=
  match n with
  | 0 => k
  | n + 1 => if v.testBit k then k else trailingFrom v (k + 1) n

/-- Trailing zero bits of a word (R152). -/
def trailingZeros (w : Word) : Nat := trailingFrom w.toNat 0 64

/-- The number of set bits among the low `n` bits of `v`. -/
def popCount (v n : Nat) : Nat :=
  match n with
  | 0 => 0
  | n + 1 => popCount v n + (v.testBit n).toNat

/-- The least number below `n`, counted up from `k`, that satisfies `p`. -/
def firstFrom (p : Nat → Bool) (k n : Nat) : Option Nat :=
  match n with
  | 0 => none
  | n + 1 => if p k then some k else firstFrom p (k + 1) n

/-- The least number below `n` that satisfies `p`. -/
def firstBelow (n : Nat) (p : Nat → Bool) : Option Nat := firstFrom p 0 n

/-- The number of numbers below `n` that satisfy `p`. -/
def countBelow (n : Nat) (p : Nat → Bool) : Nat := (List.range n).countP p

/-- Division rounded up. -/
def ceilDiv (a b : Nat) : Nat := (a + b - 1) / b

/-- A bit set with bit `e` set or cleared. -/
def putBit (m e : Nat) (b : Bool) : Nat :=
  if b then m ||| 2 ^ e else if m.testBit e then m - 2 ^ e else m

end Sys2Proof.Machine
end

