-- ==== Sys2Proof/Machine/Float.lean ====
section
/-! DEFINITION. Floating-point arithmetic to the bit (R66 to R70, R76): a number is unpacked, the exact result
is formed as m · 2^e, and it is rounded once into the destination format. -/

namespace Sys2Proof.Machine

/-- A binary format with infinities and NaNs: exponent width and fraction width (R66). -/
structure FloatFmt where
  eb : Nat
  mb : Nat
  deriving DecidableEq, Repr

/-- An unpacked number: a NaN, signalling or quiet; an infinity; or ±m · 2^e. -/
inductive Num where
  | nan (signalling : Bool)
  | inf (neg : Bool)
  | fin (neg : Bool) (m : Nat) (e : Int)
  deriving DecidableEq, Repr

/-- The rounding modes of R68, and the stochastic one of R84 with its 16 drawn bits. -/
inductive Rm where
  | rne | rtz | rdn | rup
  | sr (z : Nat)
  deriving DecidableEq, Repr

/-- FP32 (R66). -/
def fp32 : FloatFmt := ⟨8, 23⟩
/-- BF16 (R66). -/
def bf16 : FloatFmt := ⟨8, 7⟩
/-- FP16 (R77). -/
def fp16 : FloatFmt := ⟨5, 10⟩

/-! ### Flags (R71) -/

/-- Inexact. -/
def flagNX : Nat := 1
/-- Underflow. -/
def flagUF : Nat := 2
/-- Overflow. -/
def flagOF : Nat := 4
/-- Divide by zero. -/
def flagDZ : Nat := 8
/-- Invalid. -/
def flagNV : Nat := 16

/-- The mode of a two-bit code (R68). -/
def rmOf (code : Nat) : Rm :=
  match code with
  | 0 => .rne
  | 1 => .rtz
  | 2 => .rdn
  | _ => .rup

/-! ### Unpacking -/

/-- The exponent bias. -/
def FloatFmt.bias (f : FloatFmt) : Nat := 2 ^ (f.eb - 1) - 1

/-- The exponent of the format's smallest subnormal. -/
def FloatFmt.qmin (f : FloatFmt) : Int := 1 - (f.bias : Int) - f.mb

/-- The value of a bit pattern (R66). -/
def unpack (f : FloatFmt) (v : Nat) : Num :=
  let neg := v.testBit (f.eb + f.mb)
  let ex := v / 2 ^ f.mb % 2 ^ f.eb
  let m := v % 2 ^ f.mb
  if ex = 2 ^ f.eb - 1 then (if m = 0 then .inf neg else .nan (!(m.testBit (f.mb - 1))))
  else if ex = 0 then .fin neg m f.qmin
  else .fin neg (m + 2 ^ f.mb) (f.qmin + (ex - 1 : Nat))

/-- A number as an operand is read: a subnormal under the flush bit is a zero of its sign (R69). -/
def flushed (f : FloatFmt) (ftz : Bool) (x : Num) : Num :=
  match x with
  | .fin neg m e => if ftz && decide (m < 2 ^ f.mb) && e == f.qmin then .fin neg 0 e else x
  | _ => x

/-- The operand of format `f` with bits `v` (R69). -/
def operand (f : FloatFmt) (ftz : Bool) (v : Nat) : Num := flushed f ftz (unpack f v)

/-! ### Rounding -/

/-- Whether the magnitude q + rem/den rounds up to q + 1 (R68, R84). -/
def roundsUp (rm : Rm) (neg : Bool) (q rem den : Nat) : Bool :=
  match rm with
  | .rne => decide (den < 2 * rem) || (decide (2 * rem = den) && q % 2 == 1)
  | .rtz => false
  | .rdn => neg && decide (0 < rem)
  | .rup => !neg && decide (0 < rem)
  | .sr z => decide (65536 ≤ rem * 65536 / den + z)

/-- m · 2^e as a whole number of units 2^q, rounded, and whether that was inexact. -/
def quantize (rm : Rm) (neg : Bool) (m : Nat) (e q : Int) : Nat × Bool :=
  if q ≤ e then (m * 2 ^ (e - q).toNat, false)
  else
    let den := 2 ^ (q - e).toNat
    let k := m / den
    let rem := m % den
    (if roundsUp rm neg k rem den then k + 1 else k, decide (rem ≠ 0))

/-- Whether overflow gives infinity under the mode; otherwise the largest finite value (R67).  Stochastic rounding is no mode of
IEEE 754: that it gives infinity, for FP16 (R83) and for E5M2 (R82), is log 29. -/
def overflowsToInf (rm : Rm) (neg : Bool) : Bool :=
  match rm with
  | .rne => true
  | .rtz => false
  | .rdn => neg
  | .rup => !neg
  | .sr _ => true

/-- The sign bit of a format. -/
def signBit (f : FloatFmt) (neg : Bool) : Nat := if neg then 2 ^ (f.eb + f.mb) else 0

/-- The bits of an infinity. -/
def infBits (f : FloatFmt) (neg : Bool) : Nat := signBit f neg + (2 ^ f.eb - 1) * 2 ^ f.mb

/-- The canonical NaN (R66). -/
def nanBits (f : FloatFmt) : Nat := (2 ^ f.eb - 1) * 2 ^ f.mb + 2 ^ (f.mb - 1)

/-- ±m · 2^e rounded once into the format, with the flags raised (R67, R69); tininess is judged after
rounding. -/
def roundFin (f : FloatFmt) (rm : Rm) (ftz neg : Bool) (m : Nat) (e : Int) : Nat × Nat :=
  if m = 0 then (signBit f neg, 0)
  else
    let top : Int := (m.log2 : Int) + e
    let q := max (top - f.mb) f.qmin
    let (k, nx) := quantize rm neg m e q
    let mag := k + (q - f.qmin).toNat * 2 ^ f.mb
    if (2 ^ f.eb - 1) * 2 ^ f.mb ≤ mag then
      (if overflowsToInf rm neg then infBits f neg else signBit f neg + (2 ^ f.eb - 1) * 2 ^ f.mb - 1,
        flagOF ||| flagNX)
    else
      let unbounded := (quantize rm neg m e (top - f.mb)).1
      let lead := if 2 ^ (f.mb + 1) ≤ unbounded then top + 1 else top
      let tiny := decide (lead < f.qmin + f.mb)
      if ftz && decide (0 < mag ∧ mag < 2 ^ f.mb) then (signBit f neg, flagUF ||| flagNX)
      else (signBit f neg + mag, if nx then (if tiny then flagNX ||| flagUF else flagNX) else 0)

/-- A number rounded once into the format, its flags joined with those of the operation (R70). -/
def pack (f : FloatFmt) (rm : Rm) (ftz : Bool) (x : Num × Nat) : Nat × Nat :=
  match x.1 with
  | .nan _ => (nanBits f, x.2)
  | .inf neg => (infBits f neg, x.2)
  | .fin neg m e => let r := roundFin f rm ftz neg m e; (r.1, x.2 ||| r.2)

/-! ### Exact operations; the second component is the flags raised before rounding -/

/-- NV for a signalling NaN. -/
def nanFlag (x : Num) : Nat :=
  match x with
  | .nan true => flagNV
  | _ => 0

/-- Whether a number is a NaN. -/
def Num.isNan (x : Num) : Bool :=
  match x with
  | .nan _ => true
  | _ => false

/-- The number negated. -/
def Num.neg (x : Num) : Num :=
  match x with
  | .nan s => .nan s
  | .inf n => .inf (!n)
  | .fin n m e => .fin (!n) m e

/-- The magnitude. -/
def Num.abs (x : Num) : Num :=
  match x with
  | .nan s => .nan s
  | .inf _ => .inf false
  | .fin _ m e => .fin false m e

/-- ±m · 2^e as a whole number of units 2^q, for q at most e. -/
def scaled (neg : Bool) (m : Nat) (e q : Int) : Int :=
  let v : Int := (m * 2 ^ (e - q).toNat : Nat)
  if neg then -v else v

/-- a + b; an exact zero sum of unlike signs is +0, or −0 under RDN (R156). -/
def addNum (rm : Rm) (a b : Num) : Num × Nat :=
  match a, b with
  | .fin na ma ea, .fin nb mb eb =>
    let q := min ea eb
    let v := scaled na ma ea q + scaled nb mb eb q
    if v = 0 then
      (.fin (if ma = 0 ∧ mb = 0 ∧ na = nb then na else if na = nb then na else rm == .rdn) 0 q, 0)
    else (.fin (decide (v < 0)) v.natAbs q, 0)
  | .inf na, .inf nb => if na = nb then (.inf na, 0) else (.nan false, flagNV)
  | .inf na, .fin _ _ _ => (.inf na, 0)
  | .fin _ _ _, .inf nb => (.inf nb, 0)
  | _, _ => (.nan false, nanFlag a ||| nanFlag b)

/-- a × b, exact. -/
def mulNum (a b : Num) : Num × Nat :=
  match a, b with
  | .fin na ma ea, .fin nb mb eb => (.fin (na != nb) (ma * mb) (ea + eb), 0)
  | .inf na, .inf nb => (.inf (na != nb), 0)
  | .inf na, .fin nb mb _ => if mb = 0 then (.nan false, flagNV) else (.inf (na != nb), 0)
  | .fin na ma _, .inf nb => if ma = 0 then (.nan false, flagNV) else (.inf (na != nb), 0)
  | _, _ => (.nan false, nanFlag a ||| nanFlag b)

/-- a × b + c with the product exact; 0 × ∞ is invalid even when c is a quiet NaN (R156). -/
def fmaNum (rm : Rm) (a b c : Num) : Num × Nat :=
  let p := mulNum a b
  let r := addNum rm p.1 c
  (r.1, p.2 ||| r.2 ||| nanFlag c)

/-- a ÷ b to 80 places beyond the operands, the last place sticky. -/
def divNum (a b : Num) : Num × Nat :=
  match a, b with
  | .fin na ma ea, .fin nb mb eb =>
    if mb = 0 then (if ma = 0 then (.nan false, flagNV) else (.inf (na != nb), flagDZ))
    else
      let q := ma * 2 ^ 80 / mb
      let sticky := if ma * 2 ^ 80 % mb = 0 then 0 else 1
      (.fin (na != nb) (2 * q + sticky) (ea - eb - 81), 0)
  | .inf _, .inf _ => (.nan false, flagNV)
  | .inf na, .fin nb _ _ => (.inf (na != nb), 0)
  | .fin na _ _, .inf nb => (.fin (na != nb) 0 0, 0)
  | _, _ => (.nan false, nanFlag a ||| nanFlag b)

/-- The integer square root, built from `b` candidate bits down. -/
def isqrtFrom (n b acc : Nat) : Nat :=
  match b with
  | 0 => acc
  | b + 1 =>
    let t := acc + 2 ^ b
    isqrtFrom n b (if t * t ≤ n then t else acc)

/-- The integer square root. -/
def isqrt (n : Nat) : Nat := isqrtFrom n (n.log2 / 2 + 1) 0

/-- √a to 40 places beyond the operand, the last place sticky; √−0 is −0 (R156). -/
def sqrtNum (a : Num) : Num × Nat :=
  match a with
  | .fin neg m e =>
    if m = 0 then (.fin neg 0 e, 0)
    else if neg then (.nan false, flagNV)
    else
      let par := e % 2
      let v := m * 2 ^ (par.toNat + 80)
      let r := isqrt v
      let sticky := if r * r = v then 0 else 1
      (.fin false (2 * r + sticky) ((e - par) / 2 - 41), 0)
  | .inf neg => if neg then (.nan false, flagNV) else (.inf false, 0)
  | .nan s => (.nan false, nanFlag (.nan s))

/-! ### Comparing -/

/-- Whether a < b, for numbers that are no NaN; zeros of either sign are equal. -/
def ltNum (a b : Num) : Bool :=
  match a, b with
  | .fin na ma ea, .fin nb mb eb =>
    let q := min ea eb
    decide (scaled na ma ea q < scaled nb mb eb q)
  | .inf na, .inf nb => na && !nb
  | .inf na, .fin _ _ _ => na
  | .fin _ _ _, .inf nb => !nb
  | _, _ => false

/-- Whether a = b, for numbers that are no NaN. -/
def eqNum (a b : Num) : Bool :=
  match a, b with
  | .fin na ma ea, .fin nb mb eb =>
    let q := min ea eb
    decide (scaled na ma ea q = scaled nb mb eb q)
  | .inf na, .inf nb => na == nb
  | _, _ => false

/-- The sign of a number that is no NaN. -/
def Num.negative (x : Num) : Bool :=
  match x with
  | .fin n _ _ => n
  | .inf n => n
  | .nan _ => false

/-- minimumNumber (R70): −0 orders below +0, and a NaN gives way to a number. -/
def minNum (a b : Num) : Num × Nat :=
  let fl := nanFlag a ||| nanFlag b
  if a.isNan then (if b.isNan then (.nan false, fl) else (b, fl))
  else if b.isNan then (a, fl)
  else if ltNum b a || (eqNum a b && b.negative && !a.negative) then (b, fl) else (a, fl)

/-- maximumNumber (R70). -/
def maxNum (a b : Num) : Num × Nat :=
  let fl := nanFlag a ||| nanFlag b
  if a.isNan then (if b.isNan then (.nan false, fl) else (b, fl))
  else if b.isNan then (a, fl)
  else if ltNum a b || (eqNum a b && a.negative && !b.negative) then (b, fl) else (a, fl)

/-- A comparison and its flags (R70): unordered makes every condition but not-equal false; the ordered ones
raise NV on any NaN, the others on a signalling one. -/
def compareNum (c : Cond) (a b : Num) : Bool × Nat :=
  let nan := a.isNan || b.isNan
  let quiet := nanFlag a ||| nanFlag b
  let ordered := if nan then flagNV else 0
  match c with
  | .eq => (!nan && eqNum a b, quiet)
  | .ne => (nan || !eqNum a b, quiet)
  | .lt => (!nan && ltNum a b, ordered)
  | .le => (!nan && (ltNum a b || eqNum a b), ordered)
  | .gt => (!nan && ltNum b a, ordered)
  | .ge => (!nan && (ltNum b a || eqNum a b), ordered)

/-! ### Integers -/

/-- A number rounded to an integer in the range lo to hi (R76): a NaN gives 0 and a value beyond the range
the nearest end, both with NV alone. -/
def toInt (rm : Rm) (lo hi : Int) (x : Num) : Int × Nat :=
  match x with
  | .nan _ => (0, flagNV)
  | .inf neg => (if neg then lo else hi, flagNV)
  | .fin neg m e =>
    let r := quantize rm neg m e 0
    let v : Int := if neg then -(r.1 : Int) else r.1
    if v < lo then (lo, flagNV) else if hi < v then (hi, flagNV)
    else (v, if r.2 then flagNX else 0)

/-- An integer as an exact number. -/
def ofInt (v : Int) : Num := .fin (decide (v < 0)) v.natAbs 0

end Sys2Proof.Machine
end

