-- ==== Sys2Proof/Config.lean ====
section
/-! DEFINITION. What one implementation fixes and what the spec leaves open: constants without a body, so that
nothing in Lean can evaluate them and every claim holds whatever they are. -/

namespace Sys2Proof.Config

/-- The identity register IDENT of BAR0, fixed in the part (R373). -/
opaque ident : BitVec 64

/-- The stepping identifier STEPID of BAR0 (R373, R147). -/
opaque stepId : BitVec 64

/-- The order in which the elements of one vector atomic are performed at their homes, which R99 leaves
undefined: `atomicRank k e` is the place of element `e` in the `k`-th vector atomic of the run; equal places
are taken in element order.  Consulted only when two elements reach one word (log 14). -/
opaque atomicRank : Nat → Nat → Nat

/-- Whether the access also performs a resident element that lies above the lowest denied one, which R213
leaves open: the `k`-th faulting access of the run, element `e` (log 12). -/
opaque performsAbove : Nat → Nat → Bool

/-- Whether a read of a lane from a running `COPY`'s destination returns what the word held before the copy wrote it, which
R112 leaves open: the `k`-th such read of the run (log 45). -/
opaque readsOld : Nat → Bool

/-- Which value a source word held during a `COPY` whose ranges share physical bytes through two mappings a
destination word ends with, which R232 leaves open: the `k`-th such word of the run (log 19). -/
opaque overlapWord : Nat → BitVec 64

/-- The INDEX of a status word in state 3 for a kind whose statement gives none (R230): the `k`-th of the run
(log 22). -/
opaque faultIndex : Nat → BitVec 24

/-- TVAL of a trap for uncorrectable data in a register or an accumulator, which has no address and for which R324
gives no other value: the `k`-th of the run (log 23). -/
opaque registerTval : Nat → BitVec 64

/-- The text an SPDM response carries beyond what the spec gives: the `k`-th answer of the run (log 21). -/
opaque spdmBody : Nat → BitVec 64

/-- The SHA-256 digest of a partition configuration, for whose text the spec gives no layout (R380, log 21). -/
opaque configDigest : List Nat → BitVec 256

/-- The cycles a convoy took, in a trace record (R388): timing, which the model leaves out (log 5). -/
opaque convoyCycles : Nat → BitVec 32

/-- Which of the granules that a replay has stores for it writes next, between which R116 gives no order: the `k`-th pick of
the run (log 46). -/
opaque granulePick : Nat → Nat

/-- A lane cluster's account in a sample (R388): the `k`-th sample, lane cluster `c` (log 5). -/
opaque sampleAccount : Nat → Nat → BitVec 64

end Sys2Proof.Config
end

