-- ==== Sys2Proof/Decode.lean ====
section
/-! DEFINITION. Decoding (R127 to R138) and encoding of the instruction words.  A word is a natural number
below 2^32; `decode` follows R138 steps 1 and 3 and leaves step 2 and step 4 to the machine, because they
look at the state.  The encoder is written from the same tables. -/

namespace Sys2Proof

/-! ### Fields -/

/-- Bits [lo + n - 1 : lo] of a word. -/
def fld (w lo n : Nat) : Nat := w / 2 ^ lo % 2 ^ n
/-- A five-bit scalar register field (R129). -/
def sreg (w lo : Nat) : SReg := Fin.ofNat 32 (w / 2 ^ lo)
/-- A six-bit vector register field, or a six-bit count. -/
def vreg (w lo : Nat) : VReg := Fin.ofNat 64 (w / 2 ^ lo)
/-- A three-bit mask or port field. -/
def mreg (w lo : Nat) : MReg := Fin.ofNat 8 (w / 2 ^ lo)
/-- A two-bit field. -/
def two (w lo : Nat) : Fin 4 := Fin.ofNat 4 (w / 2 ^ lo)
/-- A four-bit field. -/
def four (w lo : Nat) : Fin 16 := Fin.ofNat 16 (w / 2 ^ lo)
/-- A one-bit field. -/
def flag (w lo : Nat) : Bool := fld w lo 1 == 1
/-- The mask of the four-operand layout: major opcode bit 26 above bits [1:0] (R129). -/
def quadMask (w : Nat) : MReg := Fin.ofNat 8 (fld w 26 1 * 4 + fld w 0 2)

/-- The kind of the ordering field (R132, R133). -/
def ordKind (w lo : Nat) : OrdKind :=
  match fld w lo 2 with
  | 0 => .plain
  | 1 => .acq
  | 2 => .rel
  | _ => .ar
/-- The scope of the ordering field (R132). -/
def scope (w lo : Nat) : Scope :=
  match fld w lo 2 with
  | 0 => .none
  | 1 => .gang
  | 2 => .device
  | _ => .system
/-- A narrow format code (R77). -/
def fmt (w lo : Nat) : Fmt :=
  match fld w lo 3 with
  | 0 => .fp16
  | 1 => .e4m3
  | 2 => .e5m2
  | 3 => .e3m2
  | 4 => .e2m3
  | 5 => .e2m1
  | 6 => .int8
  | _ => .int4
/-- A condition code, 0 to 5 (R131). -/
def condOf (c : Nat) : Option Cond :=
  match c with
  | 0 => some .eq
  | 1 => some .ne
  | 2 => some .lt
  | 3 => some .le
  | 4 => some .gt
  | 5 => some .ge
  | _ => none
/-- A destination tag code, 1 to 4 (R21). -/
def tagOf (t : Nat) : Option DTag :=
  match t with
  | 1 => some .f32
  | 2 => some .bf16
  | 3 => some .i32
  | 4 => some .i16
  | _ => none
/-- A rounding selector, 0 to 4 (R81). -/
def roundOf (r : Nat) : Option NRound :=
  match r with
  | 0 => some .rne
  | 1 => some .rtz
  | 2 => some .rdn
  | 3 => some .rup
  | 4 => some .sr
  | _ => none

/-- The code of a kind. -/
def OrdKind.code : OrdKind → Nat
  | .plain => 0
  | .acq => 1
  | .rel => 2
  | .ar => 3
/-- The code of a scope. -/
def Scope.code : Scope → Nat
  | .none => 0
  | .gang => 1
  | .device => 2
  | .system => 3
/-- The code of a format. -/
def Fmt.code : Fmt → Nat
  | .fp16 => 0
  | .e4m3 => 1
  | .e5m2 => 2
  | .e3m2 => 3
  | .e2m3 => 4
  | .e2m1 => 5
  | .int8 => 6
  | .int4 => 7
/-- The code of a condition. -/
def Cond.code : Cond → Nat
  | .eq => 0
  | .ne => 1
  | .lt => 2
  | .le => 3
  | .gt => 4
  | .ge => 5
/-- The code of a tag (R21). -/
def DTag.code : DTag → Nat
  | .f32 => 1
  | .bf16 => 2
  | .i32 => 3
  | .i16 => 4
/-- The code of a rounding selector. -/
def NRound.code : NRound → Nat
  | .rne => 0
  | .rtz => 1
  | .rdn => 2
  | .rup => 3
  | .sr => 4

/-! ### Conditions on fields -/

/-- The ordering field pairs a kind with a scope: plain with none, any other kind with one (R132). -/
def pairedOrder (k : OrdKind) (s : Scope) : Bool := (k == .plain) == (s == .none)
/-- The narrow formats that hold integers. -/
def Fmt.isInt (f : Fmt) : Bool := f == .int8 || f == .int4
/-- The tags that hold integers. -/
def DTag.isInt (t : DTag) : Bool := t == .i32 || t == .i16
/-- The pairs of format and destination tag that R80 allows. -/
def narrowPair (f : Fmt) (t : DTag) : Bool := f.isInt || !t.isInt
/-- The pairs that read no scale array, for which rsc is reserved (R135). -/
def unscaled (f : Fmt) (t : DTag) : Bool := f == .fp16 || (f.isInt && t.isInt)

/-- An instruction, or the reserved-field case when `c` fails (R138 step 3). -/
def okIf (c : Bool) (i : Instr) : Decoded := if c then .ok i else .reserved (some i)

/-! ### Decoding, one definition per major opcode (R131) -/

/-- Major 0x01. -/
def decode01 (w : Nat) : Decoded :=
  match fld w 0 6 with
  | 0 => okIf (fld w 6 5 == 0) (.add (sreg w 21) (sreg w 16) (sreg w 11))
  | 1 => okIf (fld w 6 5 == 0) (.sub (sreg w 21) (sreg w 16) (sreg w 11))
  | 2 => okIf (fld w 6 5 == 0) (.mul (sreg w 21) (sreg w 16) (sreg w 11))
  | 3 => okIf (fld w 6 5 == 0) (.mulh (sreg w 21) (sreg w 16) (sreg w 11))
  | 4 => okIf (fld w 6 5 == 0) (.mulhu (sreg w 21) (sreg w 16) (sreg w 11))
  | 5 => okIf (fld w 6 5 == 0) (.div (sreg w 21) (sreg w 16) (sreg w 11))
  | 6 => okIf (fld w 6 5 == 0) (.divu (sreg w 21) (sreg w 16) (sreg w 11))
  | 7 => okIf (fld w 6 5 == 0) (.rem (sreg w 21) (sreg w 16) (sreg w 11))
  | 8 => okIf (fld w 6 5 == 0) (.remu (sreg w 21) (sreg w 16) (sreg w 11))
  | 9 => okIf (fld w 6 5 == 0) (.and (sreg w 21) (sreg w 16) (sreg w 11))
  | 10 => okIf (fld w 6 5 == 0) (.or (sreg w 21) (sreg w 16) (sreg w 11))
  | 11 => okIf (fld w 6 5 == 0) (.xor (sreg w 21) (sreg w 16) (sreg w 11))
  | 12 => okIf (fld w 6 5 == 0) (.shl (sreg w 21) (sreg w 16) (sreg w 11))
  | 13 => okIf (fld w 6 5 == 0) (.shr (sreg w 21) (sreg w 16) (sreg w 11))
  | 14 => okIf (fld w 6 5 == 0) (.sra (sreg w 21) (sreg w 16) (sreg w 11))
  | 15 => okIf (fld w 6 5 == 0) (.slt (sreg w 21) (sreg w 16) (sreg w 11))
  | 16 => okIf (fld w 6 5 == 0) (.sltu (sreg w 21) (sreg w 16) (sreg w 11))
  | 17 => okIf (fld w 6 5 == 0) (.min (sreg w 21) (sreg w 16) (sreg w 11))
  | 18 => okIf (fld w 6 5 == 0) (.max (sreg w 21) (sreg w 16) (sreg w 11))
  | 19 => okIf (fld w 6 5 == 0) (.minu (sreg w 21) (sreg w 16) (sreg w 11))
  | 20 => okIf (fld w 6 5 == 0) (.maxu (sreg w 21) (sreg w 16) (sreg w 11))
  | 21 => okIf (fld w 6 10 == 0) (.clz (sreg w 21) (sreg w 16))
  | 22 => okIf (fld w 6 10 == 0) (.ctz (sreg w 21) (sreg w 16))
  | 23 => okIf (fld w 6 10 == 0) (.popc (sreg w 21) (sreg w 16))
  | _ => .illegal

/-- Major 0x02. -/
def decode02 (w : Nat) : Decoded :=
  match fld w 0 6 with
  | 0 => okIf (fld w 6 5 == 0) (.fadd (sreg w 21) (sreg w 16) (sreg w 11))
  | 1 => okIf (fld w 6 5 == 0) (.fsub (sreg w 21) (sreg w 16) (sreg w 11))
  | 2 => okIf (fld w 6 5 == 0) (.fmul (sreg w 21) (sreg w 16) (sreg w 11))
  | 3 => .ok (.ffma (sreg w 21) (sreg w 16) (sreg w 11) (sreg w 6))
  | 4 => okIf (fld w 6 5 == 0) (.fdiv (sreg w 21) (sreg w 16) (sreg w 11))
  | 5 => okIf (fld w 6 10 == 0) (.fsqrt (sreg w 21) (sreg w 16))
  | 6 => okIf (fld w 6 5 == 0) (.fmin (sreg w 21) (sreg w 16) (sreg w 11))
  | 7 => okIf (fld w 6 5 == 0) (.fmax (sreg w 21) (sreg w 16) (sreg w 11))
  | 8 => okIf (fld w 6 5 == 0) (.fcmp (sreg w 21) (sreg w 16) (sreg w 11) .eq)
  | 9 => okIf (fld w 6 5 == 0) (.fcmp (sreg w 21) (sreg w 16) (sreg w 11) .ne)
  | 10 => okIf (fld w 6 5 == 0) (.fcmp (sreg w 21) (sreg w 16) (sreg w 11) .lt)
  | 11 => okIf (fld w 6 5 == 0) (.fcmp (sreg w 21) (sreg w 16) (sreg w 11) .le)
  | 12 => okIf (fld w 6 5 == 0) (.fcmp (sreg w 21) (sreg w 16) (sreg w 11) .gt)
  | 13 => okIf (fld w 6 5 == 0) (.fcmp (sreg w 21) (sreg w 16) (sreg w 11) .ge)
  | 16 => okIf (fld w 6 10 == 0) (.fcvtIF (sreg w 21) (sreg w 16))
  | 17 => okIf (fld w 6 10 == 0) (.fcvtIuF (sreg w 21) (sreg w 16))
  | 18 => okIf (fld w 6 10 == 0) (.fcvtFI (sreg w 21) (sreg w 16))
  | 19 => okIf (fld w 6 10 == 0) (.fcvtFIu (sreg w 21) (sreg w 16))
  | 20 => okIf (fld w 6 10 == 0) (.fcvtBfF (sreg w 21) (sreg w 16))
  | 21 => okIf (fld w 6 10 == 0) (.fcvtFBf (sreg w 21) (sreg w 16))
  | _ => .illegal

/-- Major 0x03. -/
def decode03 (w : Nat) : Decoded :=
  .ok (.addi (sreg w 21) (sreg w 16) (BitVec.ofNat 16 (w / 2 ^ 0)))

/-- Major 0x04. -/
def decode04 (w : Nat) : Decoded :=
  .ok (.andi (sreg w 21) (sreg w 16) (BitVec.ofNat 16 (w / 2 ^ 0)))

/-- Major 0x05. -/
def decode05 (w : Nat) : Decoded :=
  .ok (.ori (sreg w 21) (sreg w 16) (BitVec.ofNat 16 (w / 2 ^ 0)))

/-- Major 0x06. -/
def decode06 (w : Nat) : Decoded :=
  .ok (.xori (sreg w 21) (sreg w 16) (BitVec.ofNat 16 (w / 2 ^ 0)))

/-- Major 0x07. -/
def decode07 (w : Nat) : Decoded :=
  .ok (.slti (sreg w 21) (sreg w 16) (BitVec.ofNat 16 (w / 2 ^ 0)))

/-- Major 0x08. -/
def decode08 (w : Nat) : Decoded :=
  .ok (.sltiu (sreg w 21) (sreg w 16) (BitVec.ofNat 16 (w / 2 ^ 0)))

/-- Major 0x09. -/
def decode09 (w : Nat) : Decoded :=
  match fld w 6 2 with
  | 0 => okIf (fld w 8 8 == 0) (.shli (sreg w 21) (sreg w 16) (vreg w 0))
  | 1 => okIf (fld w 8 8 == 0) (.shri (sreg w 21) (sreg w 16) (vreg w 0))
  | 2 => okIf (fld w 8 8 == 0) (.srai (sreg w 21) (sreg w 16) (vreg w 0))
  | _ => .illegal

/-- Major 0x0A. -/
def decode0A (w : Nat) : Decoded :=
  okIf (fld w 16 5 == 0) (.movhi (sreg w 21) (BitVec.ofNat 16 (w / 2 ^ 0)))

/-- Major 0x0B. -/
def decode0B (w : Nat) : Decoded :=
  okIf (fld w 18 3 == 0) (.movk (sreg w 21) (two w 16) (BitVec.ofNat 16 (w / 2 ^ 0)))

/-- Major 0x0C. -/
def decode0C (w : Nat) : Decoded :=
  .ok (.ldb (sreg w 21) (sreg w 16) (BitVec.ofNat 16 (w / 2 ^ 0)))

/-- Major 0x0D. -/
def decode0D (w : Nat) : Decoded :=
  .ok (.ldh (sreg w 21) (sreg w 16) (BitVec.ofNat 16 (w / 2 ^ 0)))

/-- Major 0x0E. -/
def decode0E (w : Nat) : Decoded :=
  .ok (.ldw (sreg w 21) (sreg w 16) (BitVec.ofNat 16 (w / 2 ^ 0)))

/-- Major 0x0F. -/
def decode0F (w : Nat) : Decoded :=
  .ok (.ldd (sreg w 21) (sreg w 16) (BitVec.ofNat 16 (w / 2 ^ 0)))

/-- Major 0x10. -/
def decode10 (w : Nat) : Decoded :=
  .ok (.ldbu (sreg w 21) (sreg w 16) (BitVec.ofNat 16 (w / 2 ^ 0)))

/-- Major 0x11. -/
def decode11 (w : Nat) : Decoded :=
  .ok (.ldhu (sreg w 21) (sreg w 16) (BitVec.ofNat 16 (w / 2 ^ 0)))

/-- Major 0x12. -/
def decode12 (w : Nat) : Decoded :=
  .ok (.ldwu (sreg w 21) (sreg w 16) (BitVec.ofNat 16 (w / 2 ^ 0)))

/-- Major 0x13. -/
def decode13 (w : Nat) : Decoded :=
  .ok (.stb (sreg w 21) (sreg w 16) (BitVec.ofNat 16 (w / 2 ^ 0)))

/-- Major 0x14. -/
def decode14 (w : Nat) : Decoded :=
  .ok (.sth (sreg w 21) (sreg w 16) (BitVec.ofNat 16 (w / 2 ^ 0)))

/-- Major 0x15. -/
def decode15 (w : Nat) : Decoded :=
  .ok (.stw (sreg w 21) (sreg w 16) (BitVec.ofNat 16 (w / 2 ^ 0)))

/-- Major 0x16. -/
def decode16 (w : Nat) : Decoded :=
  .ok (.std (sreg w 21) (sreg w 16) (BitVec.ofNat 16 (w / 2 ^ 0)))

/-- Major 0x17. -/
def decode17 (w : Nat) : Decoded :=
  let k := ordKind w 9
  let s := scope w 7
  let c := pairedOrder k s && fld w 0 2 == 0 && fld w 6 1 == 0
  let load (i : Instr) : Decoded := if k == .rel || k == .ar then .illegal else okIf c i
  let store (i : Instr) : Decoded := if k == .acq || k == .ar then .illegal else okIf c i
  match fld w 2 4 with
  | 0 => load (.ldbReg (sreg w 21) (sreg w 16) (sreg w 11) k s)
  | 2 => load (.ldhReg (sreg w 21) (sreg w 16) (sreg w 11) k s)
  | 4 => load (.ldwReg (sreg w 21) (sreg w 16) (sreg w 11) k s)
  | 6 => load (.lddReg (sreg w 21) (sreg w 16) (sreg w 11) k s)
  | 1 => load (.ldbuReg (sreg w 21) (sreg w 16) (sreg w 11) k s)
  | 3 => load (.ldhuReg (sreg w 21) (sreg w 16) (sreg w 11) k s)
  | 5 => load (.ldwuReg (sreg w 21) (sreg w 16) (sreg w 11) k s)
  | 8 => store (.stbReg (sreg w 21) (sreg w 16) (sreg w 11) k s)
  | 10 => store (.sthReg (sreg w 21) (sreg w 16) (sreg w 11) k s)
  | 12 => store (.stwReg (sreg w 21) (sreg w 16) (sreg w 11) k s)
  | 14 => store (.stdReg (sreg w 21) (sreg w 16) (sreg w 11) k s)
  | _ => .illegal

/-- Major 0x18. -/
def decode18 (w : Nat) : Decoded :=
  let k := ordKind w 9
  let s := scope w 7
  let c := pairedOrder k s && fld w 0 2 == 0 && fld w 6 1 == 0
  match fld w 3 3 with
  | 0 => okIf c (.amoAdd (sreg w 21) (sreg w 16) (sreg w 11) k s (flag w 2))
  | 1 => okIf c (.amoSwap (sreg w 21) (sreg w 16) (sreg w 11) k s (flag w 2))
  | 2 => okIf c (.amoCas (sreg w 21) (sreg w 16) (sreg w 11) k s (flag w 2))
  | 3 => okIf c (.amoMin (sreg w 21) (sreg w 16) (sreg w 11) k s (flag w 2))
  | 4 => okIf c (.amoMax (sreg w 21) (sreg w 16) (sreg w 11) k s (flag w 2))
  | 5 => okIf c (.amoAnd (sreg w 21) (sreg w 16) (sreg w 11) k s (flag w 2))
  | 6 => okIf c (.amoOr (sreg w 21) (sreg w 16) (sreg w 11) k s (flag w 2))
  | _ => .illegal

/-- Major 0x19. -/
def decode19 (w : Nat) : Decoded :=
  match fld w 13 3 with
  | 0 => .ok (.beq (sreg w 21) (sreg w 16) (BitVec.ofNat 13 (w / 2 ^ 0)))
  | 1 => .ok (.bne (sreg w 21) (sreg w 16) (BitVec.ofNat 13 (w / 2 ^ 0)))
  | 2 => .ok (.blt (sreg w 21) (sreg w 16) (BitVec.ofNat 13 (w / 2 ^ 0)))
  | 3 => .ok (.bge (sreg w 21) (sreg w 16) (BitVec.ofNat 13 (w / 2 ^ 0)))
  | 4 => .ok (.bltu (sreg w 21) (sreg w 16) (BitVec.ofNat 13 (w / 2 ^ 0)))
  | 5 => .ok (.bgeu (sreg w 21) (sreg w 16) (BitVec.ofNat 13 (w / 2 ^ 0)))
  | _ => .illegal

/-- Major 0x1A. -/
def decode1A (w : Nat) : Decoded :=
  .ok (.jmp (BitVec.ofNat 26 (w / 2 ^ 0)))

/-- Major 0x1B. -/
def decode1B (w : Nat) : Decoded :=
  .ok (.call (BitVec.ofNat 26 (w / 2 ^ 0)))

/-- Major 0x1C. -/
def decode1C (w : Nat) : Decoded :=
  match fld w 0 6 with
  | 0 => okIf (fld w 6 10 == 0 && fld w 21 5 == 0) (.jr (sreg w 16))
  | 1 => okIf (fld w 6 10 == 0 && fld w 21 5 == 0) (.callr (sreg w 16))
  | _ => .illegal

/-- Major 0x1D. -/
def decode1D (w : Nat) : Decoded :=
  match fld w 0 4 with
  | 0 => okIf (fld w 16 5 == 0) (.csrr (sreg w 21) (BitVec.ofNat 12 (w / 2 ^ 4)))
  | 1 => okIf (fld w 21 5 == 0) (.csrw (sreg w 16) (BitVec.ofNat 12 (w / 2 ^ 4)))
  | 2 => okIf (fld w 21 5 == 0) (.csrs (sreg w 16) (BitVec.ofNat 12 (w / 2 ^ 4)))
  | 3 => okIf (fld w 21 5 == 0) (.csrc (sreg w 16) (BitVec.ofNat 12 (w / 2 ^ 4)))
  | 4 => okIf (fld w 16 10 == 0) (.trap (BitVec.ofNat 12 (w / 2 ^ 4)))
  | 5 => okIf (fld w 4 22 == 0) (.tret)
  | 6 => okIf (fld w 16 10 == 0) (.bkpt (BitVec.ofNat 12 (w / 2 ^ 4)))
  | 7 => okIf (fld w 4 22 == 0) (.wait)
  | 8 => okIf (fld w 4 22 == 0) (.yield)
  | 9 => okIf (fld w 4 22 == 0) (.fenceI)
  | _ => .illegal

/-- Major 0x1E. -/
def decode1E (w : Nat) : Decoded :=
  match fld w 0 6 with
  | 0 => .ok (.gperm (vreg w 20) (vreg w 14) (sreg w 9) (mreg w 6))
  | 1 => okIf (fld w 9 5 == 0) (.gred (vreg w 20) (vreg w 14) (mreg w 6))
  | 2 => .ok (.gbcast (vreg w 20) (vreg w 14) (sreg w 9) (mreg w 6))
  | 3 => okIf (fld w 6 20 == 0) (.gsync)
  | _ => .illegal

/-- Major 0x1F. -/
def decode1F (w : Nat) : Decoded :=
  match fld w 13 3 with
  | 0 => okIf (fld w 16 5 == 0) (.lnext (sreg w 21) (BitVec.ofNat 13 (w / 2 ^ 0)))
  | 1 => okIf (fld w 16 5 == 0) (.ljoin (sreg w 21) (BitVec.ofNat 13 (w / 2 ^ 0)))
  | _ => .illegal

/-- Major 0x20. -/
def decode20 (w : Nat) : Decoded :=
  match fld w 0 5 with
  | 0 => .ok (.vadd (vreg w 20) (vreg w 14) (vreg w 8) (mreg w 5))
  | 1 => .ok (.vsub (vreg w 20) (vreg w 14) (vreg w 8) (mreg w 5))
  | 2 => .ok (.vrsub (vreg w 20) (vreg w 14) (vreg w 8) (mreg w 5))
  | 3 => .ok (.vmul (vreg w 20) (vreg w 14) (vreg w 8) (mreg w 5))
  | 4 => .ok (.vmulh (vreg w 20) (vreg w 14) (vreg w 8) (mreg w 5))
  | 5 => .ok (.vmulhU (vreg w 20) (vreg w 14) (vreg w 8) (mreg w 5))
  | 6 => .ok (.vdiv (vreg w 20) (vreg w 14) (vreg w 8) (mreg w 5))
  | 7 => .ok (.vdivU (vreg w 20) (vreg w 14) (vreg w 8) (mreg w 5))
  | 8 => .ok (.vrem (vreg w 20) (vreg w 14) (vreg w 8) (mreg w 5))
  | 9 => .ok (.vremU (vreg w 20) (vreg w 14) (vreg w 8) (mreg w 5))
  | 10 => .ok (.vmin (vreg w 20) (vreg w 14) (vreg w 8) (mreg w 5))
  | 11 => .ok (.vminU (vreg w 20) (vreg w 14) (vreg w 8) (mreg w 5))
  | 12 => .ok (.vmax (vreg w 20) (vreg w 14) (vreg w 8) (mreg w 5))
  | 13 => .ok (.vmaxU (vreg w 20) (vreg w 14) (vreg w 8) (mreg w 5))
  | 14 => okIf (fld w 8 6 == 0) (.vabs (vreg w 20) (vreg w 14) (mreg w 5))
  | 15 => okIf (fld w 8 6 == 0) (.vneg (vreg w 20) (vreg w 14) (mreg w 5))
  | 16 => .ok (.vand (vreg w 20) (vreg w 14) (vreg w 8) (mreg w 5))
  | 17 => .ok (.vor (vreg w 20) (vreg w 14) (vreg w 8) (mreg w 5))
  | 18 => .ok (.vxor (vreg w 20) (vreg w 14) (vreg w 8) (mreg w 5))
  | 19 => .ok (.vshl (vreg w 20) (vreg w 14) (vreg w 8) (mreg w 5))
  | 20 => .ok (.vshr (vreg w 20) (vreg w 14) (vreg w 8) (mreg w 5))
  | 21 => .ok (.vsra (vreg w 20) (vreg w 14) (vreg w 8) (mreg w 5))
  | 22 => .ok (.vsadd (vreg w 20) (vreg w 14) (vreg w 8) (mreg w 5))
  | 23 => .ok (.vsaddU (vreg w 20) (vreg w 14) (vreg w 8) (mreg w 5))
  | 24 => .ok (.vssub (vreg w 20) (vreg w 14) (vreg w 8) (mreg w 5))
  | 25 => .ok (.vssubU (vreg w 20) (vreg w 14) (vreg w 8) (mreg w 5))
  | 26 => okIf (fld w 8 6 == 0) (.vsqrt (vreg w 20) (vreg w 14) (mreg w 5))
  | 27 => okIf (fld w 8 6 == 0) (.vrece (vreg w 20) (vreg w 14) (mreg w 5))
  | 28 => okIf (fld w 8 6 == 0) (.vrsqe (vreg w 20) (vreg w 14) (mreg w 5))
  | 29 => okIf (fld w 8 6 == 0) (.vexp2 (vreg w 20) (vreg w 14) (mreg w 5))
  | 30 => okIf (fld w 8 6 == 0) (.vlog2 (vreg w 20) (vreg w 14) (mreg w 5))
  | _ => okIf (fld w 8 6 == 0) (.vmov (vreg w 20) (vreg w 14) (mreg w 5))

/-- Major 0x21. -/
def decode21 (w : Nat) : Decoded :=
  match fld w 0 5 with
  | 0 => if fld w 5 3 == 0 then .illegal else .ok (.vsel (vreg w 20) (vreg w 14) (vreg w 8) (mreg w 5))
  | 1 => okIf (fld w 8 12 == 0) (.viota (vreg w 20) (mreg w 5))
  | 2 => .ok (.vgath (vreg w 20) (vreg w 14) (vreg w 8) (mreg w 5))
  | 3 => if fld w 5 3 == 0 then .illegal else okIf (fld w 8 6 == 0) (.vcomp (vreg w 20) (vreg w 14) (mreg w 5))
  | 4 => .ok (.vredsum (vreg w 20) (vreg w 14) (vreg w 8) (mreg w 5))
  | 5 => .ok (.vredmax (vreg w 20) (vreg w 14) (vreg w 8) (mreg w 5))
  | 6 => .ok (.vredmaxU (vreg w 20) (vreg w 14) (vreg w 8) (mreg w 5))
  | 7 => .ok (.vredmin (vreg w 20) (vreg w 14) (vreg w 8) (mreg w 5))
  | 8 => .ok (.vredminU (vreg w 20) (vreg w 14) (vreg w 8) (mreg w 5))
  | 9 => okIf (fld w 5 3 == 0 && fld w 12 8 == 0 && fld w 8 4 < 5) (.vtag (vreg w 20) (four w 8))
  | _ => .illegal

/-- Major 0x22. -/
def decode22 (w : Nat) : Decoded :=
  match condOf (fld w 0 3) with
  | none => .illegal
  | some c => okIf (fld w 4 1 == 0 && fld w 23 3 == 0) (.vcmp (mreg w 20) (vreg w 14) (vreg w 8) (mreg w 5) (flag w 3) c)

/-- Major 0x23. -/
def decode23 (w : Nat) : Decoded :=
  match tagOf (fld w 0 2 + 1) with
  | none => .illegal
  | some t => okIf (fld w 4 1 == 0 && fld w 8 6 == 0) (.vcvt (vreg w 20) (vreg w 14) (mreg w 5) (flag w 3) (flag w 2) t)

/-- Major 0x24. -/
def decode24 (w : Nat) : Decoded :=
  match fld w 0 6 with
  | 0 => okIf (fld w 14 6 == 0) (.vbcast (vreg w 20) (sreg w 9) (mreg w 6))
  | 1 => okIf (fld w 6 3 == 0 && fld w 25 1 == 0) (.vext (sreg w 20) (vreg w 14) (sreg w 9))
  | 2 => okIf (fld w 6 3 == 0 && fld w 25 1 == 0) (.vextU (sreg w 20) (vreg w 14) (sreg w 9))
  | 3 => okIf (fld w 6 8 == 0 && fld w 25 1 == 0) (.vprog (sreg w 20) (vreg w 14))
  | _ => .illegal

/-- Major 0x25. -/
def decode25 (w : Nat) : Decoded :=
  match fld w 13 3 with
  | 0 => okIf (fld w 0 13 == 0) (.vsetvl (sreg w 21) (sreg w 16))
  | 1 => .ok (.vsetvt (sreg w 21) (sreg w 16) (BitVec.ofNat 13 (w / 2 ^ 0)))
  | 2 => okIf (fld w 2 11 == 0 && fld w 16 10 == 0) (.vrcfg (two w 0))
  | _ => .illegal

/-- Major 0x26. -/
def decode26 (w : Nat) : Decoded :=
  match fld w 0 5 with
  | 0 => okIf (fld w 5 3 == 0 && fld w 11 3 == 0 && fld w 17 3 == 0 && fld w 23 3 == 0) (.mand (mreg w 20) (mreg w 14) (mreg w 8))
  | 1 => okIf (fld w 5 3 == 0 && fld w 11 3 == 0 && fld w 17 3 == 0 && fld w 23 3 == 0) (.mor (mreg w 20) (mreg w 14) (mreg w 8))
  | 2 => okIf (fld w 5 3 == 0 && fld w 11 3 == 0 && fld w 17 3 == 0 && fld w 23 3 == 0) (.mxor (mreg w 20) (mreg w 14) (mreg w 8))
  | 3 => okIf (fld w 5 3 == 0 && fld w 11 3 == 0 && fld w 17 3 == 0 && fld w 23 3 == 0) (.mandn (mreg w 20) (mreg w 14) (mreg w 8))
  | 4 => okIf (fld w 5 9 == 0 && fld w 17 3 == 0 && fld w 23 3 == 0) (.mnot (mreg w 20) (mreg w 14))
  | 5 => okIf (fld w 5 9 == 0 && fld w 17 3 == 0 && fld w 23 3 == 0) (.mmov (mreg w 20) (mreg w 14))
  | 6 => okIf (fld w 5 9 == 0 && fld w 17 3 == 0 && fld w 25 1 == 0) (.mpopc (sreg w 20) (mreg w 14))
  | 7 => okIf (fld w 5 9 == 0 && fld w 17 3 == 0 && fld w 25 1 == 0) (.mfirst (sreg w 20) (mreg w 14))
  | 8 => okIf (fld w 5 9 == 0 && fld w 17 3 == 0 && fld w 25 1 == 0) (.msetvl (sreg w 20) (mreg w 14))
  | _ => .illegal

/-- Major 0x27. -/
def decode27 (w : Nat) : Decoded :=
  match fld w 0 1 with
  | 0 => .ok (.vslup (vreg w 20) (vreg w 14) (sreg w 9) (sreg w 4) (mreg w 1))
  | _ => .ok (.vsldn (vreg w 20) (vreg w 14) (sreg w 9) (sreg w 4) (mreg w 1))

/-- Major 0x28. -/
def decode28 (w : Nat) : Decoded :=
  match fld w 0 1 with
  | 0 => okIf (fld w 1 3 == 0 && fld w 14 6 == 0) (.vins (vreg w 20) (sreg w 9) (sreg w 4))
  | _ => .illegal

/-- Major 0x29. -/
def decode29 (w : Nat) : Decoded :=
  .ok (.vf (mreg w 23) (four w 19) (BitVec.ofNat 19 (w / 2 ^ 0)))

/-- Major 0x2A. -/
def decode2A (w : Nat) : Decoded :=
  okIf (fld w 23 3 == 0) (.vpf (four w 19) (BitVec.ofNat 19 (w / 2 ^ 0)))

/-- Major 0x2B. -/
def decode2B (w : Nat) : Decoded :=
  match fld w 0 4 with
  | 0 => okIf (fld w 4 22 == 0) (.vpstop)
  | 1 => okIf (fld w 4 22 == 0) (.vpjoin)
  | _ => .illegal

/-- Major 0x2C. -/
def decode2C (w : Nat) : Decoded :=
  match fld w 0 6 with
  | 0 => .ok (.mxadd (two w 24) (vreg w 18) (vreg w 12) (mreg w 9) (mreg w 6))
  | 1 => .ok (.mxsub (two w 24) (vreg w 18) (vreg w 12) (mreg w 9) (mreg w 6))
  | 2 => okIf (fld w 6 18 == 0) (.mzero (two w 24))
  | 3 => okIf (fld w 6 6 == 0 && fld w 17 1 == 0) (.mrow (two w 24) (vreg w 18) (sreg w 12))
  | 4 => okIf (fld w 6 6 == 0 && fld w 17 1 == 0) (.mcol (two w 24) (vreg w 18) (sreg w 12))
  | 5 => okIf (fld w 6 6 == 0 && fld w 17 1 == 0) (.mwrow (two w 24) (vreg w 18) (sreg w 12))
  | 6 => okIf (fld w 6 6 == 0 && fld w 17 1 == 0 && fld w 23 1 == 0) (.mldt (two w 24) (sreg w 18) (sreg w 12))
  | 7 => okIf (fld w 6 6 == 0 && fld w 17 1 == 0 && fld w 23 1 == 0) (.mstt (two w 24) (sreg w 18) (sreg w 12))
  | _ => .illegal

/-- Major 0x2D. -/
def decode2D (w : Nat) : Decoded :=
  .ok (.mxsld (two w 24) (vreg w 18) (vreg w 12) (mreg w 9) (mreg w 6) (vreg w 0))

/-- Major 0x2E. -/
def decode2E (w : Nat) : Decoded :=
  match fld w 0 4 with
  | 0 => okIf (fld w 4 22 == 0) (.fenceSv)
  | 1 => okIf (fld w 4 22 == 0) (.fenceVs)
  | 2 => okIf (fld w 4 22 == 0) (.fenceVv)
  | 3 => okIf (fld w 4 22 == 0) (.lsync)
  | 4 => okIf (fld w 4 12 == 0 && fld w 21 5 == 0) (.sfenceT (sreg w 16))
  | 5 => okIf (fld w 4 12 == 0) (.harvest (sreg w 21) (sreg w 16))
  | 6 => okIf (fld w 4 12 == 0) (.claim (sreg w 21) (sreg w 16))
  | 7 => okIf (fld w 4 12 == 0) (.unclaim (sreg w 21) (sreg w 16))
  | 8 => okIf (fld w 16 5 == 0) (.crd (sreg w 21) (BitVec.ofNat 12 (w / 2 ^ 4)))
  | 9 => okIf (fld w 16 5 == 0) (.crdlo (sreg w 21) (BitVec.ofNat 12 (w / 2 ^ 4)))
  | 10 => okIf (fld w 16 5 == 0) (.crdhi (sreg w 21) (BitVec.ofNat 12 (w / 2 ^ 4)))
  | 11 => okIf (fld w 21 5 == 0) (.cevt (sreg w 16) (BitVec.ofNat 12 (w / 2 ^ 4)))
  | _ => .illegal

/-- Major 0x2F. -/
def decode2F (w : Nat) : Decoded :=
  match fld w 0 6 with
  | 0 => .ok (.tshape (sreg w 21) (sreg w 16) (sreg w 11) (sreg w 6))
  | 1 => okIf (fld w 6 20 == 0) (.menter)
  | 2 => okIf (fld w 6 20 == 0) (.mleave)
  | 3 => okIf (fld w 6 10 == 0) (.launch (sreg w 21) (sreg w 16))
  | 4 => okIf (fld w 6 10 == 0) (.cancel (sreg w 21) (sreg w 16))
  | 5 => okIf (fld w 6 20 == 0) (.endProg)
  | _ => .illegal

/-- Major 0x30.  A `funct6` that no row of R207 has is unallocated (0x01), and so is judged before the reserved bits that R134 sees in
it (R138, log 15). -/
def decode30 (w : Nat) : Decoded :=
  if fld w 0 2 != 0 then .illegal else
  match fld w 2 4 with
  | 0 => okIf (fld w 9 6 == 0) (.vld (vreg w 20) (sreg w 15) (mreg w 6))
  | 1 => okIf (fld w 14 1 == 0) (.vlds (vreg w 20) (sreg w 15) (sreg w 9) (mreg w 6))
  | 2 => .ok (.vldx (vreg w 20) (sreg w 15) (vreg w 9) (mreg w 6))
  | 3 => okIf (fld w 9 6 == 0) (.vldff (vreg w 20) (sreg w 15) (mreg w 6))
  | 4 => okIf (fld w 9 6 == 0 && fld w 18 2 == 0) (.vldp (vreg w 20) (mreg w 15) (mreg w 6))
  | 8 => okIf (fld w 9 6 == 0) (.vst (vreg w 20) (sreg w 15) (mreg w 6))
  | 9 => okIf (fld w 14 1 == 0) (.vsts (vreg w 20) (sreg w 15) (sreg w 9) (mreg w 6))
  | 10 => .ok (.vstx (vreg w 20) (sreg w 15) (vreg w 9) (mreg w 6))
  | 12 => okIf (fld w 9 6 == 0 && fld w 18 2 == 0) (.vstp (vreg w 20) (mreg w 15) (mreg w 6))
  | _ => .illegal

/-- Major 0x31. -/
def decode31 (w : Nat) : Decoded :=
  let f := fmt w 4
  if fld w 3 1 == 0 then
    match tagOf (fld w 0 3) with
    | none => .reserved none
    | some t =>
      if narrowPair f t then
        okIf (!unscaled f t || fld w 10 5 == 0) (.vldn (vreg w 20) (sreg w 15) (sreg w 10) (mreg w 7) f t)
      else .illegal
  else
    match roundOf (fld w 0 3) with
    | none => .reserved none
    | some r => okIf (f != .fp16 || fld w 10 5 == 0) (.vstn (vreg w 20) (sreg w 15) (sreg w 10) (mreg w 7) f r)

/-- Major 0x32. -/
def decode32 (w : Nat) : Decoded :=
  let f := fmt w 2
  match tagOf (fld w 0 2 + 1) with
  | none => .illegal
  | some t =>
    if narrowPair f t then okIf (!unscaled f t || fld w 10 5 == 0) (.vldns (vreg w 20) (sreg w 15) (sreg w 10) (sreg w 5) f t)
    else .illegal

/-- Major 0x33. -/
def decode33 (w : Nat) : Decoded :=
  match fld w 0 6 with
  | 0 => .ok (.vamoadd (vreg w 20) (sreg w 15) (vreg w 9) (mreg w 6))
  | 1 => .ok (.vamomax (vreg w 20) (sreg w 15) (vreg w 9) (mreg w 6))
  | 2 => .ok (.vamomaxU (vreg w 20) (sreg w 15) (vreg w 9) (mreg w 6))
  | 3 => .ok (.vamomin (vreg w 20) (sreg w 15) (vreg w 9) (mreg w 6))
  | 4 => .ok (.vamominU (vreg w 20) (sreg w 15) (vreg w 9) (mreg w 6))
  | _ => .illegal

/-- Major 0x34. -/
def decode34 (w : Nat) : Decoded :=
  match fld w 0 6 with
  | 0 => okIf (fld w 6 5 == 0) (.stand (sreg w 21) (sreg w 16) (sreg w 11))
  | 1 => okIf (fld w 6 10 == 0) (.unstand (sreg w 21) (sreg w 16))
  | 2 => okIf (fld w 6 10 == 0) (.take (sreg w 21) (sreg w 16))
  | 3 => okIf (fld w 6 5 == 0) (.waitsl (sreg w 21) (sreg w 16) (sreg w 11))
  | _ => .illegal

/-- Major 0x35. -/
def decode35 (w : Nat) : Decoded :=
  match fld w 0 1 with
  | 0 => .ok (.vstand (vreg w 20) (sreg w 15) (vreg w 9) (mreg w 6) (sreg w 1))
  | _ => okIf (fld w 9 11 == 0) (.vtake (vreg w 20) (mreg w 6) (sreg w 1))

/-- Major 0x36. -/
def decode36 (w : Nat) : Decoded :=
  match fld w 0 3 with
  | 0 => .ok (.copy (sreg w 21) (sreg w 16) (sreg w 11) (sreg w 6) (mreg w 3))
  | 1 => okIf (fld w 3 8 == 0 && fld w 19 2 == 0) (.stream (sreg w 21) (mreg w 16) (sreg w 11))
  | 2 => okIf (fld w 3 8 == 0) (.nbx (sreg w 21) (sreg w 16) (sreg w 11))
  | 3 => okIf (fld w 3 3 == 0) (.chain (sreg w 21) (sreg w 16) (sreg w 11) (sreg w 6))
  | 4 => okIf (fld w 3 3 == 0) (.lmark (sreg w 21) (sreg w 16) (sreg w 11) (sreg w 6))
  | _ => .illegal

/-- Major 0x37. -/
def decode37 (w : Nat) : Decoded :=
  match fld w 0 1 with
  | 0 => .ok (.bgld (vreg w 20) (sreg w 15) (vreg w 9) (mreg w 6) (sreg w 1))
  | _ => .ok (.gxl (vreg w 20) (sreg w 15) (vreg w 9) (mreg w 6) (sreg w 1))

/-- Major 0x38 and 0x39. -/
def decode38 (w : Nat) : Decoded :=
  .ok (.vfma (vreg w 20) (vreg w 14) (vreg w 8) (vreg w 2) (quadMask w))

/-- Major 0x3A and 0x3B. -/
def decode3A (w : Nat) : Decoded :=
  .ok (.vfms (vreg w 20) (vreg w 14) (vreg w 8) (vreg w 2) (quadMask w))

/-- Major 0x3C and 0x3D. -/
def decode3C (w : Nat) : Decoded :=
  .ok (.vfnma (vreg w 20) (vreg w 14) (vreg w 8) (vreg w 2) (quadMask w))

/-- Major 0x3E and 0x3F. -/
def decode3E (w : Nat) : Decoded :=
  .ok (.vclamp (vreg w 20) (vreg w 14) (vreg w 8) (vreg w 2) (quadMask w))

/-- The instruction a word names, by its major opcode (R131, R138). -/
def decode (w : Nat) : Decoded :=
  match fld w 26 6 with
  | 1 => decode01 w
  | 2 => decode02 w
  | 3 => decode03 w
  | 4 => decode04 w
  | 5 => decode05 w
  | 6 => decode06 w
  | 7 => decode07 w
  | 8 => decode08 w
  | 9 => decode09 w
  | 10 => decode0A w
  | 11 => decode0B w
  | 12 => decode0C w
  | 13 => decode0D w
  | 14 => decode0E w
  | 15 => decode0F w
  | 16 => decode10 w
  | 17 => decode11 w
  | 18 => decode12 w
  | 19 => decode13 w
  | 20 => decode14 w
  | 21 => decode15 w
  | 22 => decode16 w
  | 23 => decode17 w
  | 24 => decode18 w
  | 25 => decode19 w
  | 26 => decode1A w
  | 27 => decode1B w
  | 28 => decode1C w
  | 29 => decode1D w
  | 30 => decode1E w
  | 31 => decode1F w
  | 32 => decode20 w
  | 33 => decode21 w
  | 34 => decode22 w
  | 35 => decode23 w
  | 36 => decode24 w
  | 37 => decode25 w
  | 38 => decode26 w
  | 39 => decode27 w
  | 40 => decode28 w
  | 41 => decode29 w
  | 42 => decode2A w
  | 43 => decode2B w
  | 44 => decode2C w
  | 45 => decode2D w
  | 46 => decode2E w
  | 47 => decode2F w
  | 48 => decode30 w
  | 49 => decode31 w
  | 50 => decode32 w
  | 51 => decode33 w
  | 52 => decode34 w
  | 53 => decode35 w
  | 54 => decode36 w
  | 55 => decode37 w
  | 56 | 57 => decode38 w
  | 58 | 59 => decode3A w
  | 60 | 61 => decode3C w
  | 62 | 63 => decode3E w
  | _ => .illegal

/-- The word that bytes spell, the first in bits [7:0] (R127). -/
def bytesNat : List Byte → Nat
  | [] => 0
  | b :: bs => b.toNat + 256 * bytesNat bs

/-- Decoding bytes as fetched: the first four make the word (R127); fewer than four are no instruction. -/
def decodeBytes (bs : List Byte) : Decoded :=
  if bs.length < 4 then .illegal else decode (bytesNat (bs.take 4))

/-! ### Encoding -/

/-- A word from its template and its operand fields, each with its lowest bit. -/
def asm (base : Nat) (fs : List (Nat × Nat)) : Nat :=
  match fs with
  | [] => base
  | (v, lo) :: rest => asm (base + v * 2 ^ lo) rest

/-- The word of an instruction; a row of the table without a coding has none. -/
def encode (i : Instr) : Option Nat :=
  match i with
  | .add d a b => some (asm 0x04000000 [(d.val, 21), (a.val, 16), (b.val, 11)])
  | .sub d a b => some (asm 0x04000001 [(d.val, 21), (a.val, 16), (b.val, 11)])
  | .mul d a b => some (asm 0x04000002 [(d.val, 21), (a.val, 16), (b.val, 11)])
  | .mulh d a b => some (asm 0x04000003 [(d.val, 21), (a.val, 16), (b.val, 11)])
  | .mulhu d a b => some (asm 0x04000004 [(d.val, 21), (a.val, 16), (b.val, 11)])
  | .div d a b => some (asm 0x04000005 [(d.val, 21), (a.val, 16), (b.val, 11)])
  | .divu d a b => some (asm 0x04000006 [(d.val, 21), (a.val, 16), (b.val, 11)])
  | .rem d a b => some (asm 0x04000007 [(d.val, 21), (a.val, 16), (b.val, 11)])
  | .remu d a b => some (asm 0x04000008 [(d.val, 21), (a.val, 16), (b.val, 11)])
  | .and d a b => some (asm 0x04000009 [(d.val, 21), (a.val, 16), (b.val, 11)])
  | .or d a b => some (asm 0x0400000A [(d.val, 21), (a.val, 16), (b.val, 11)])
  | .xor d a b => some (asm 0x0400000B [(d.val, 21), (a.val, 16), (b.val, 11)])
  | .shl d a b => some (asm 0x0400000C [(d.val, 21), (a.val, 16), (b.val, 11)])
  | .shr d a b => some (asm 0x0400000D [(d.val, 21), (a.val, 16), (b.val, 11)])
  | .sra d a b => some (asm 0x0400000E [(d.val, 21), (a.val, 16), (b.val, 11)])
  | .slt d a b => some (asm 0x0400000F [(d.val, 21), (a.val, 16), (b.val, 11)])
  | .sltu d a b => some (asm 0x04000010 [(d.val, 21), (a.val, 16), (b.val, 11)])
  | .min d a b => some (asm 0x04000011 [(d.val, 21), (a.val, 16), (b.val, 11)])
  | .max d a b => some (asm 0x04000012 [(d.val, 21), (a.val, 16), (b.val, 11)])
  | .minu d a b => some (asm 0x04000013 [(d.val, 21), (a.val, 16), (b.val, 11)])
  | .maxu d a b => some (asm 0x04000014 [(d.val, 21), (a.val, 16), (b.val, 11)])
  | .clz d a => some (asm 0x04000015 [(d.val, 21), (a.val, 16)])
  | .ctz d a => some (asm 0x04000016 [(d.val, 21), (a.val, 16)])
  | .popc d a => some (asm 0x04000017 [(d.val, 21), (a.val, 16)])
  | .fadd d a b => some (asm 0x08000000 [(d.val, 21), (a.val, 16), (b.val, 11)])
  | .fsub d a b => some (asm 0x08000001 [(d.val, 21), (a.val, 16), (b.val, 11)])
  | .fmul d a b => some (asm 0x08000002 [(d.val, 21), (a.val, 16), (b.val, 11)])
  | .ffma d a b c => some (asm 0x08000003 [(d.val, 21), (a.val, 16), (b.val, 11), (c.val, 6)])
  | .fdiv d a b => some (asm 0x08000004 [(d.val, 21), (a.val, 16), (b.val, 11)])
  | .fsqrt d a => some (asm 0x08000005 [(d.val, 21), (a.val, 16)])
  | .fmin d a b => some (asm 0x08000006 [(d.val, 21), (a.val, 16), (b.val, 11)])
  | .fmax d a b => some (asm 0x08000007 [(d.val, 21), (a.val, 16), (b.val, 11)])
  | .fcmp d a b c => some (asm 0x08000008 [(d.val, 21), (a.val, 16), (b.val, 11), (Cond.code c, 0)])
  | .fcvtIF d a => some (asm 0x08000010 [(d.val, 21), (a.val, 16)])
  | .fcvtIuF d a => some (asm 0x08000011 [(d.val, 21), (a.val, 16)])
  | .fcvtFI d a => some (asm 0x08000012 [(d.val, 21), (a.val, 16)])
  | .fcvtFIu d a => some (asm 0x08000013 [(d.val, 21), (a.val, 16)])
  | .fcvtBfF d a => some (asm 0x08000014 [(d.val, 21), (a.val, 16)])
  | .fcvtFBf d a => some (asm 0x08000015 [(d.val, 21), (a.val, 16)])
  | .addi d a i => some (asm 0x0C000000 [(d.val, 21), (a.val, 16), (i.toNat, 0)])
  | .andi d a i => some (asm 0x10000000 [(d.val, 21), (a.val, 16), (i.toNat, 0)])
  | .ori d a i => some (asm 0x14000000 [(d.val, 21), (a.val, 16), (i.toNat, 0)])
  | .xori d a i => some (asm 0x18000000 [(d.val, 21), (a.val, 16), (i.toNat, 0)])
  | .slti d a i => some (asm 0x1C000000 [(d.val, 21), (a.val, 16), (i.toNat, 0)])
  | .sltiu d a i => some (asm 0x20000000 [(d.val, 21), (a.val, 16), (i.toNat, 0)])
  | .shli d a n => some (asm 0x24000000 [(d.val, 21), (a.val, 16), (n.val, 0)])
  | .shri d a n => some (asm 0x24000040 [(d.val, 21), (a.val, 16), (n.val, 0)])
  | .srai d a n => some (asm 0x24000080 [(d.val, 21), (a.val, 16), (n.val, 0)])
  | .movhi d i => some (asm 0x28000000 [(d.val, 21), (i.toNat, 0)])
  | .movk d h i => some (asm 0x2C000000 [(d.val, 21), (h.val, 16), (i.toNat, 0)])
  | .ldb d a i => some (asm 0x30000000 [(d.val, 21), (a.val, 16), (i.toNat, 0)])
  | .ldh d a i => some (asm 0x34000000 [(d.val, 21), (a.val, 16), (i.toNat, 0)])
  | .ldw d a i => some (asm 0x38000000 [(d.val, 21), (a.val, 16), (i.toNat, 0)])
  | .ldd d a i => some (asm 0x3C000000 [(d.val, 21), (a.val, 16), (i.toNat, 0)])
  | .ldbu d a i => some (asm 0x40000000 [(d.val, 21), (a.val, 16), (i.toNat, 0)])
  | .ldhu d a i => some (asm 0x44000000 [(d.val, 21), (a.val, 16), (i.toNat, 0)])
  | .ldwu d a i => some (asm 0x48000000 [(d.val, 21), (a.val, 16), (i.toNat, 0)])
  | .stb d a i => some (asm 0x4C000000 [(d.val, 21), (a.val, 16), (i.toNat, 0)])
  | .sth d a i => some (asm 0x50000000 [(d.val, 21), (a.val, 16), (i.toNat, 0)])
  | .stw d a i => some (asm 0x54000000 [(d.val, 21), (a.val, 16), (i.toNat, 0)])
  | .std d a i => some (asm 0x58000000 [(d.val, 21), (a.val, 16), (i.toNat, 0)])
  | .ldbReg d a b k s => some (asm 0x5C000000 [(d.val, 21), (a.val, 16), (b.val, 11), (OrdKind.code k, 9), (Scope.code s, 7)])
  | .ldhReg d a b k s => some (asm 0x5C000008 [(d.val, 21), (a.val, 16), (b.val, 11), (OrdKind.code k, 9), (Scope.code s, 7)])
  | .ldwReg d a b k s => some (asm 0x5C000010 [(d.val, 21), (a.val, 16), (b.val, 11), (OrdKind.code k, 9), (Scope.code s, 7)])
  | .lddReg d a b k s => some (asm 0x5C000018 [(d.val, 21), (a.val, 16), (b.val, 11), (OrdKind.code k, 9), (Scope.code s, 7)])
  | .ldbuReg d a b k s => some (asm 0x5C000004 [(d.val, 21), (a.val, 16), (b.val, 11), (OrdKind.code k, 9), (Scope.code s, 7)])
  | .ldhuReg d a b k s => some (asm 0x5C00000C [(d.val, 21), (a.val, 16), (b.val, 11), (OrdKind.code k, 9), (Scope.code s, 7)])
  | .ldwuReg d a b k s => some (asm 0x5C000014 [(d.val, 21), (a.val, 16), (b.val, 11), (OrdKind.code k, 9), (Scope.code s, 7)])
  | .stbReg d a b k s => some (asm 0x5C000020 [(d.val, 21), (a.val, 16), (b.val, 11), (OrdKind.code k, 9), (Scope.code s, 7)])
  | .sthReg d a b k s => some (asm 0x5C000028 [(d.val, 21), (a.val, 16), (b.val, 11), (OrdKind.code k, 9), (Scope.code s, 7)])
  | .stwReg d a b k s => some (asm 0x5C000030 [(d.val, 21), (a.val, 16), (b.val, 11), (OrdKind.code k, 9), (Scope.code s, 7)])
  | .stdReg d a b k s => some (asm 0x5C000038 [(d.val, 21), (a.val, 16), (b.val, 11), (OrdKind.code k, 9), (Scope.code s, 7)])
  | .amoAdd d a b k s z => some (asm 0x60000000 [(d.val, 21), (a.val, 16), (b.val, 11), (OrdKind.code k, 9), (Scope.code s, 7), (z.toNat, 2)])
  | .amoSwap d a b k s z => some (asm 0x60000008 [(d.val, 21), (a.val, 16), (b.val, 11), (OrdKind.code k, 9), (Scope.code s, 7), (z.toNat, 2)])
  | .amoCas d a b k s z => some (asm 0x60000010 [(d.val, 21), (a.val, 16), (b.val, 11), (OrdKind.code k, 9), (Scope.code s, 7), (z.toNat, 2)])
  | .amoMin d a b k s z => some (asm 0x60000018 [(d.val, 21), (a.val, 16), (b.val, 11), (OrdKind.code k, 9), (Scope.code s, 7), (z.toNat, 2)])
  | .amoMax d a b k s z => some (asm 0x60000020 [(d.val, 21), (a.val, 16), (b.val, 11), (OrdKind.code k, 9), (Scope.code s, 7), (z.toNat, 2)])
  | .amoAnd d a b k s z => some (asm 0x60000028 [(d.val, 21), (a.val, 16), (b.val, 11), (OrdKind.code k, 9), (Scope.code s, 7), (z.toNat, 2)])
  | .amoOr d a b k s z => some (asm 0x60000030 [(d.val, 21), (a.val, 16), (b.val, 11), (OrdKind.code k, 9), (Scope.code s, 7), (z.toNat, 2)])
  | .beq a b o => some (asm 0x64000000 [(a.val, 21), (b.val, 16), (o.toNat, 0)])
  | .bne a b o => some (asm 0x64002000 [(a.val, 21), (b.val, 16), (o.toNat, 0)])
  | .blt a b o => some (asm 0x64004000 [(a.val, 21), (b.val, 16), (o.toNat, 0)])
  | .bge a b o => some (asm 0x64006000 [(a.val, 21), (b.val, 16), (o.toNat, 0)])
  | .bltu a b o => some (asm 0x64008000 [(a.val, 21), (b.val, 16), (o.toNat, 0)])
  | .bgeu a b o => some (asm 0x6400A000 [(a.val, 21), (b.val, 16), (o.toNat, 0)])
  | .jmp o => some (asm 0x68000000 [(o.toNat, 0)])
  | .call o => some (asm 0x6C000000 [(o.toNat, 0)])
  | .jr a => some (asm 0x70000000 [(a.val, 16)])
  | .callr a => some (asm 0x70000001 [(a.val, 16)])
  | .csrr d c => some (asm 0x74000000 [(d.val, 21), (c.toNat, 4)])
  | .csrw a c => some (asm 0x74000001 [(a.val, 16), (c.toNat, 4)])
  | .csrs a c => some (asm 0x74000002 [(a.val, 16), (c.toNat, 4)])
  | .csrc a c => some (asm 0x74000003 [(a.val, 16), (c.toNat, 4)])
  | .trap c => some (asm 0x74000004 [(c.toNat, 4)])
  | .tret => some (asm 0x74000005 [])
  | .bkpt c => some (asm 0x74000006 [(c.toNat, 4)])
  | .wait => some (asm 0x74000007 [])
  | .yield => some (asm 0x74000008 [])
  | .fenceI => some (asm 0x74000009 [])
  | .gperm d a r m => some (asm 0x78000000 [(d.val, 20), (a.val, 14), (r.val, 9), (m.val, 6)])
  | .gred d a m => some (asm 0x78000001 [(d.val, 20), (a.val, 14), (m.val, 6)])
  | .gbcast d a r m => some (asm 0x78000002 [(d.val, 20), (a.val, 14), (r.val, 9), (m.val, 6)])
  | .gsync => some (asm 0x78000003 [])
  | .lnext a o => some (asm 0x7C000000 [(a.val, 21), (o.toNat, 0)])
  | .ljoin a o => some (asm 0x7C002000 [(a.val, 21), (o.toNat, 0)])
  | .vadd d a b m => some (asm 0x80000000 [(d.val, 20), (a.val, 14), (b.val, 8), (m.val, 5)])
  | .vsub d a b m => some (asm 0x80000001 [(d.val, 20), (a.val, 14), (b.val, 8), (m.val, 5)])
  | .vrsub d a b m => some (asm 0x80000002 [(d.val, 20), (a.val, 14), (b.val, 8), (m.val, 5)])
  | .vmul d a b m => some (asm 0x80000003 [(d.val, 20), (a.val, 14), (b.val, 8), (m.val, 5)])
  | .vmulh d a b m => some (asm 0x80000004 [(d.val, 20), (a.val, 14), (b.val, 8), (m.val, 5)])
  | .vmulhU d a b m => some (asm 0x80000005 [(d.val, 20), (a.val, 14), (b.val, 8), (m.val, 5)])
  | .vdiv d a b m => some (asm 0x80000006 [(d.val, 20), (a.val, 14), (b.val, 8), (m.val, 5)])
  | .vdivU d a b m => some (asm 0x80000007 [(d.val, 20), (a.val, 14), (b.val, 8), (m.val, 5)])
  | .vrem d a b m => some (asm 0x80000008 [(d.val, 20), (a.val, 14), (b.val, 8), (m.val, 5)])
  | .vremU d a b m => some (asm 0x80000009 [(d.val, 20), (a.val, 14), (b.val, 8), (m.val, 5)])
  | .vmin d a b m => some (asm 0x8000000A [(d.val, 20), (a.val, 14), (b.val, 8), (m.val, 5)])
  | .vminU d a b m => some (asm 0x8000000B [(d.val, 20), (a.val, 14), (b.val, 8), (m.val, 5)])
  | .vmax d a b m => some (asm 0x8000000C [(d.val, 20), (a.val, 14), (b.val, 8), (m.val, 5)])
  | .vmaxU d a b m => some (asm 0x8000000D [(d.val, 20), (a.val, 14), (b.val, 8), (m.val, 5)])
  | .vabs d a m => some (asm 0x8000000E [(d.val, 20), (a.val, 14), (m.val, 5)])
  | .vneg d a m => some (asm 0x8000000F [(d.val, 20), (a.val, 14), (m.val, 5)])
  | .vand d a b m => some (asm 0x80000010 [(d.val, 20), (a.val, 14), (b.val, 8), (m.val, 5)])
  | .vor d a b m => some (asm 0x80000011 [(d.val, 20), (a.val, 14), (b.val, 8), (m.val, 5)])
  | .vxor d a b m => some (asm 0x80000012 [(d.val, 20), (a.val, 14), (b.val, 8), (m.val, 5)])
  | .vshl d a b m => some (asm 0x80000013 [(d.val, 20), (a.val, 14), (b.val, 8), (m.val, 5)])
  | .vshr d a b m => some (asm 0x80000014 [(d.val, 20), (a.val, 14), (b.val, 8), (m.val, 5)])
  | .vsra d a b m => some (asm 0x80000015 [(d.val, 20), (a.val, 14), (b.val, 8), (m.val, 5)])
  | .vsadd d a b m => some (asm 0x80000016 [(d.val, 20), (a.val, 14), (b.val, 8), (m.val, 5)])
  | .vsaddU d a b m => some (asm 0x80000017 [(d.val, 20), (a.val, 14), (b.val, 8), (m.val, 5)])
  | .vssub d a b m => some (asm 0x80000018 [(d.val, 20), (a.val, 14), (b.val, 8), (m.val, 5)])
  | .vssubU d a b m => some (asm 0x80000019 [(d.val, 20), (a.val, 14), (b.val, 8), (m.val, 5)])
  | .vsqrt d a m => some (asm 0x8000001A [(d.val, 20), (a.val, 14), (m.val, 5)])
  | .vrece d a m => some (asm 0x8000001B [(d.val, 20), (a.val, 14), (m.val, 5)])
  | .vrsqe d a m => some (asm 0x8000001C [(d.val, 20), (a.val, 14), (m.val, 5)])
  | .vexp2 d a m => some (asm 0x8000001D [(d.val, 20), (a.val, 14), (m.val, 5)])
  | .vlog2 d a m => some (asm 0x8000001E [(d.val, 20), (a.val, 14), (m.val, 5)])
  | .vmov d a m => some (asm 0x8000001F [(d.val, 20), (a.val, 14), (m.val, 5)])
  | .vsel d a b m => some (asm 0x84000000 [(d.val, 20), (a.val, 14), (b.val, 8), (m.val, 5)])
  | .viota d m => some (asm 0x84000001 [(d.val, 20), (m.val, 5)])
  | .vgath d a b m => some (asm 0x84000002 [(d.val, 20), (a.val, 14), (b.val, 8), (m.val, 5)])
  | .vcomp d a m => some (asm 0x84000003 [(d.val, 20), (a.val, 14), (m.val, 5)])
  | .vredsum d a b m => some (asm 0x84000004 [(d.val, 20), (a.val, 14), (b.val, 8), (m.val, 5)])
  | .vredmax d a b m => some (asm 0x84000005 [(d.val, 20), (a.val, 14), (b.val, 8), (m.val, 5)])
  | .vredmaxU d a b m => some (asm 0x84000006 [(d.val, 20), (a.val, 14), (b.val, 8), (m.val, 5)])
  | .vredmin d a b m => some (asm 0x84000007 [(d.val, 20), (a.val, 14), (b.val, 8), (m.val, 5)])
  | .vredminU d a b m => some (asm 0x84000008 [(d.val, 20), (a.val, 14), (b.val, 8), (m.val, 5)])
  | .vtag d t => some (asm 0x84000009 [(d.val, 20), (t.val, 8)])
  | .vcmp d a b m u c => some (asm 0x88000000 [(d.val, 20), (a.val, 14), (b.val, 8), (m.val, 5), (u.toNat, 3), (Cond.code c, 0)])
  | .vcvt d a m s u t => some (asm 0x8C000000 [(d.val, 20), (a.val, 14), (m.val, 5), (s.toNat, 3), (u.toNat, 2), ((DTag.code t - 1), 0)])
  | .vbcast d r m => some (asm 0x90000000 [(d.val, 20), (r.val, 9), (m.val, 6)])
  | .vext d a r => some (asm 0x90000001 [(d.val, 20), (a.val, 14), (r.val, 9)])
  | .vextU d a r => some (asm 0x90000002 [(d.val, 20), (a.val, 14), (r.val, 9)])
  | .vprog d a => some (asm 0x90000003 [(d.val, 20), (a.val, 14)])
  | .vsetvl d a => some (asm 0x94000000 [(d.val, 21), (a.val, 16)])
  | .vsetvt d a i => some (asm 0x94002000 [(d.val, 21), (a.val, 16), (i.toNat, 0)])
  | .vrcfg n => some (asm 0x94004000 [(n.val, 0)])
  | .mand d a b => some (asm 0x98000000 [(d.val, 20), (a.val, 14), (b.val, 8)])
  | .mor d a b => some (asm 0x98000001 [(d.val, 20), (a.val, 14), (b.val, 8)])
  | .mxor d a b => some (asm 0x98000002 [(d.val, 20), (a.val, 14), (b.val, 8)])
  | .mandn d a b => some (asm 0x98000003 [(d.val, 20), (a.val, 14), (b.val, 8)])
  | .mnot d a => some (asm 0x98000004 [(d.val, 20), (a.val, 14)])
  | .mmov d a => some (asm 0x98000005 [(d.val, 20), (a.val, 14)])
  | .mpopc d a => some (asm 0x98000006 [(d.val, 20), (a.val, 14)])
  | .mfirst d a => some (asm 0x98000007 [(d.val, 20), (a.val, 14)])
  | .msetvl d a => some (asm 0x98000008 [(d.val, 20), (a.val, 14)])
  | .vslup d a r s m => some (asm 0x9C000000 [(d.val, 20), (a.val, 14), (r.val, 9), (s.val, 4), (m.val, 1)])
  | .vsldn d a r s m => some (asm 0x9C000001 [(d.val, 20), (a.val, 14), (r.val, 9), (s.val, 4), (m.val, 1)])
  | .vins d r s => some (asm 0xA0000000 [(d.val, 20), (r.val, 9), (s.val, 4)])
  | .vf m l o => some (asm 0xA4000000 [(m.val, 23), (l.val, 19), (o.toNat, 0)])
  | .vpf l o => some (asm 0xA8000000 [(l.val, 19), (o.toNat, 0)])
  | .vpstop => some (asm 0xAC000000 [])
  | .vpjoin => some (asm 0xAC000001 [])
  | .mxadd t a b r c => some (asm 0xB0000000 [(t.val, 24), (a.val, 18), (b.val, 12), (r.val, 9), (c.val, 6)])
  | .mxsub t a b r c => some (asm 0xB0000001 [(t.val, 24), (a.val, 18), (b.val, 12), (r.val, 9), (c.val, 6)])
  | .mzero t => some (asm 0xB0000002 [(t.val, 24)])
  | .mrow t d r => some (asm 0xB0000003 [(t.val, 24), (d.val, 18), (r.val, 12)])
  | .mcol t d r => some (asm 0xB0000004 [(t.val, 24), (d.val, 18), (r.val, 12)])
  | .mwrow t a r => some (asm 0xB0000005 [(t.val, 24), (a.val, 18), (r.val, 12)])
  | .mldt t a b => some (asm 0xB0000006 [(t.val, 24), (a.val, 18), (b.val, 12)])
  | .mstt t a b => some (asm 0xB0000007 [(t.val, 24), (a.val, 18), (b.val, 12)])
  | .mxsld t a b r c s => some (asm 0xB4000000 [(t.val, 24), (a.val, 18), (b.val, 12), (r.val, 9), (c.val, 6), (s.val, 0)])
  | .fenceSv => some (asm 0xB8000000 [])
  | .fenceVs => some (asm 0xB8000001 [])
  | .fenceVv => some (asm 0xB8000002 [])
  | .lsync => some (asm 0xB8000003 [])
  | .sfenceT a => some (asm 0xB8000004 [(a.val, 16)])
  | .harvest d a => some (asm 0xB8000005 [(d.val, 21), (a.val, 16)])
  | .claim d a => some (asm 0xB8000006 [(d.val, 21), (a.val, 16)])
  | .unclaim d a => some (asm 0xB8000007 [(d.val, 21), (a.val, 16)])
  | .crd d n => some (asm 0xB8000008 [(d.val, 21), (n.toNat, 4)])
  | .crdlo d n => some (asm 0xB8000009 [(d.val, 21), (n.toNat, 4)])
  | .crdhi d n => some (asm 0xB800000A [(d.val, 21), (n.toNat, 4)])
  | .cevt a n => some (asm 0xB800000B [(a.val, 16), (n.toNat, 4)])
  | .tshape d a b c => some (asm 0xBC000000 [(d.val, 21), (a.val, 16), (b.val, 11), (c.val, 6)])
  | .menter => some (asm 0xBC000001 [])
  | .mleave => some (asm 0xBC000002 [])
  | .launch d a => some (asm 0xBC000003 [(d.val, 21), (a.val, 16)])
  | .cancel d a => some (asm 0xBC000004 [(d.val, 21), (a.val, 16)])
  | .endProg => some (asm 0xBC000005 [])
  | .vld t b m => some (asm 0xC0000000 [(t.val, 20), (b.val, 15), (m.val, 6)])
  | .vlds t b s m => some (asm 0xC0000004 [(t.val, 20), (b.val, 15), (s.val, 9), (m.val, 6)])
  | .vldx t b i m => some (asm 0xC0000008 [(t.val, 20), (b.val, 15), (i.val, 9), (m.val, 6)])
  | .vldff t b m => some (asm 0xC000000C [(t.val, 20), (b.val, 15), (m.val, 6)])
  | .vldp t p m => some (asm 0xC0000010 [(t.val, 20), (p.val, 15), (m.val, 6)])
  | .vst t b m => some (asm 0xC0000020 [(t.val, 20), (b.val, 15), (m.val, 6)])
  | .vsts t b s m => some (asm 0xC0000024 [(t.val, 20), (b.val, 15), (s.val, 9), (m.val, 6)])
  | .vstx t b i m => some (asm 0xC0000028 [(t.val, 20), (b.val, 15), (i.val, 9), (m.val, 6)])
  | .vstp t p m => some (asm 0xC0000030 [(t.val, 20), (p.val, 15), (m.val, 6)])
  | .vldn t b s m f g => some (asm 0xC4000000 [(t.val, 20), (b.val, 15), (s.val, 10), (m.val, 7), (Fmt.code f, 4), (DTag.code g, 0)])
  | .vstn t b s m f g => some (asm 0xC4000008 [(t.val, 20), (b.val, 15), (s.val, 10), (m.val, 7), (Fmt.code f, 4), (NRound.code g, 0)])
  | .vldns t b s r f g => some (asm 0xC8000000 [(t.val, 20), (b.val, 15), (s.val, 10), (r.val, 5), (Fmt.code f, 2), ((DTag.code g - 1), 0)])
  | .vamoadd t b i m => some (asm 0xCC000000 [(t.val, 20), (b.val, 15), (i.val, 9), (m.val, 6)])
  | .vamomax t b i m => some (asm 0xCC000001 [(t.val, 20), (b.val, 15), (i.val, 9), (m.val, 6)])
  | .vamomaxU t b i m => some (asm 0xCC000002 [(t.val, 20), (b.val, 15), (i.val, 9), (m.val, 6)])
  | .vamomin t b i m => some (asm 0xCC000003 [(t.val, 20), (b.val, 15), (i.val, 9), (m.val, 6)])
  | .vamominU t b i m => some (asm 0xCC000004 [(t.val, 20), (b.val, 15), (i.val, 9), (m.val, 6)])
  | .stand d a b => some (asm 0xD0000000 [(d.val, 21), (a.val, 16), (b.val, 11)])
  | .unstand d a => some (asm 0xD0000001 [(d.val, 21), (a.val, 16)])
  | .take d a => some (asm 0xD0000002 [(d.val, 21), (a.val, 16)])
  | .waitsl d a b => some (asm 0xD0000003 [(d.val, 21), (a.val, 16), (b.val, 11)])
  | .vstand t b i m s => some (asm 0xD4000000 [(t.val, 20), (b.val, 15), (i.val, 9), (m.val, 6), (s.val, 1)])
  | .vtake t m s => some (asm 0xD4000001 [(t.val, 20), (m.val, 6), (s.val, 1)])
  | .copy d a b c m => some (asm 0xD8000000 [(d.val, 21), (a.val, 16), (b.val, 11), (c.val, 6), (m.val, 3)])
  | .stream d p b => some (asm 0xD8000001 [(d.val, 21), (p.val, 16), (b.val, 11)])
  | .nbx d a b => some (asm 0xD8000002 [(d.val, 21), (a.val, 16), (b.val, 11)])
  | .chain d a b c => some (asm 0xD8000003 [(d.val, 21), (a.val, 16), (b.val, 11), (c.val, 6)])
  | .lmark d a b c => some (asm 0xD8000004 [(d.val, 21), (a.val, 16), (b.val, 11), (c.val, 6)])
  | .bgld t b i m s => some (asm 0xDC000000 [(t.val, 20), (b.val, 15), (i.val, 9), (m.val, 6), (s.val, 1)])
  | .gxl t b i m s => some (asm 0xDC000001 [(t.val, 20), (b.val, 15), (i.val, 9), (m.val, 6), (s.val, 1)])
  | .vfma d a b c m => some (asm 0xE0000000 [(d.val, 20), (a.val, 14), (b.val, 8), (c.val, 2), (m.val / 4, 26), (m.val % 4, 0)])
  | .vfms d a b c m => some (asm 0xE8000000 [(d.val, 20), (a.val, 14), (b.val, 8), (c.val, 2), (m.val / 4, 26), (m.val % 4, 0)])
  | .vfnma d a b c m => some (asm 0xF0000000 [(d.val, 20), (a.val, 14), (b.val, 8), (c.val, 2), (m.val / 4, 26), (m.val % 4, 0)])
  | .vclamp d a b c m => some (asm 0xF8000000 [(d.val, 20), (a.val, 14), (b.val, 8), (c.val, 2), (m.val / 4, 26), (m.val % 4, 0)])
  | .vrcfgCsrWrite _ => none
  | .vtypeCsrWrite _ => none
  | .fcsrWrite _ => none
  | .seedWrite _ => none
  | .slbaseWrite _ => none
  | .ageWrite _ => none
  | .statusWrite _ => none
  | .registerWrite _ _ => none
  | .storeBufferDrain _ => none
  | .standAnswer _ => none
  | .pushArrival _ => none
  | .pushBounce _ => none
  | .unstandAnswer _ => none
  | .waitslTimeout _ => none
  | .waitTimeout _ => none
  | .copyChunkDone _ _ _ => none
  | .copyDone _ _ => none
  | .engineBatchResume _ _ => none
  | .streamEnd _ _ => none
  | .bgldDone _ _ => none
  | .gatherUnitRequest _ _ _ => none
  | .gxlDone _ _ => none
  | .nbxArrival _ _ => none
  | .nbxEngineGrant _ => none
  | .stopeStep _ _ => none
  | .stopeResume _ _ => none
  | .nbxDone _ _ => none
  | .chainReservation _ _ => none
  | .chainHopStore _ _ => none
  | .chainDone _ _ => none
  | .loopVerdict _ => none
  | .replayIteration _ => none
  | .loopStatusWrite _ => none
  | .trapEntry _ _ _ => none
  | .endLaunch _ _ => none
  | .completionWordWrite _ _ => none
  | .dispatchRound _ => none
  | .agingRise _ _ => none
  | .dependenceSatisfied _ _ _ => none
  | .dependencePoll _ _ _ => none
  | .preemptRequest _ => none
  | .huskSave _ => none
  | .huskWake _ _ => none
  | .parkTimeout _ _ => none
  | .huskRelease _ _ => none
  | .dumpRequest _ _ _ => none
  | .dumpRelease _ _ => none
  | .packetArrival _ => none
  | .blockSuspect _ => none
  | .lampHop => none
  | .recoveryBufferAccept => none
  | .lampRelease => none
  | .recoveryBufferDrain _ => none
  | .lampRegenerate => none
  | .segmentMaskActivate _ _ _ => none
  | .supplementaryActivate _ _ _ => none
  | .refresh _ _ _ => none
  | .selfRefreshEntry _ _ => none
  | .selfRefreshExit _ _ => none
  | .errorCheckScrub _ _ => none
  | .errorRateCrossed _ _ => none
  | .leaseGrant _ _ _ _ _ => none
  | .leaseRevoke _ => none
  | .revocationPoint _ => none
  | .leaseRelease _ => none
  | .ualinkPortDown _ => none
  | .capacityMove _ _ _ => none
  | .hotRemoveAck _ => none
  | .hotRemoveTimeout _ => none
  | .blockScrubDone _ => none
  | .hostMemWrite _ _ => none
  | .hostMemRead _ _ => none
  | .notify _ _ => none
  | .bdoneWrite _ _ => none
  | .netctlWrite _ => none
  | .mcstkWrite _ _ => none
  | .coresWrite _ _ => none
  | .xmaskWrite _ _ => none
  | .activeWrite _ _ _ => none
  | .coldReset => none
  | .warmReset => none
  | .powerOn _ => none
  | .getVersion => none
  | .getCapabilities => none
  | .negotiateAlgorithms => none
  | .getDigests => none
  | .getCertificate => none
  | .challenge => none
  | .getMeasurements _ => none
  | .keyExchange => none
  | .finish => none
  | .endSession => none
  | .ideKm _ => none
  | .ideStreamFailure _ => none
  | .counterQuantum _ => none
  | .traceSample _ => none
  | .traceConvoyRecord _ => none
  | .throttleRaise => none
  | .throttleLower => none
  | .thermalStop => none
  | .launchAnswer _ => none
  | .partitionBlockWrite _ _ _ => none
  | .peerLineFillOrWriteBack _ _ => none
  | .leaseReclaim _ => none

/-- The word in the four bytes that hold it, lowest address first (R127). -/
def wordBytes (w : Nat) : List Byte :=
  [BitVec.ofNat 8 w, BitVec.ofNat 8 (w / 256), BitVec.ofNat 8 (w / 65536), BitVec.ofNat 8 (w / 16777216)]

/-- The instruction the decoder reads from a word of the opcode table (whose words are 32 bits). -/
def decodeTableWord (nbits w : Nat) : Option Instr :=
  if nbits ≤ 32 then
    match decodeBytes (wordBytes w) with
    | .ok i => some i
    | _ => none
  else none

end Sys2Proof
end

