-- ==== Sys2Proof/Machine/Sparse.lean ====
section
/-! DEFINITION. Reading and writing the sparse stores in their one canonical form: numbers strictly rising, no
value zero.  An unlisted number reads as zero (log 1), and writing zero removes the entry. -/

namespace Sys2Proof.Machine

/-- The value at number `k`. -/
def sget {n : Nat} (m : Sparse n) (k : Nat) : BitVec n :=
  match m with
  | [] => 0#n
  | (j, v) :: rest => if k = j then v else sget rest k

/-- The store with the value `v`, not zero, at number `k`. -/
def sinsert {n : Nat} (m : Sparse n) (k : Nat) (v : BitVec n) : Sparse n :=
  match m with
  | [] => [(k, v)]
  | (j, w) :: rest =>
    if k < j then (k, v) :: (j, w) :: rest
    else if k = j then (k, v) :: rest
    else (j, w) :: sinsert rest k v

/-- The store with value `v` at number `k`. -/
def sset {n : Nat} (m : Sparse n) (k : Nat) (v : BitVec n) : Sparse n :=
  if v = 0#n then m.filter (fun p => p.1 != k) else sinsert m k v

/-- The canonical form. -/
def Sparse.wf {n : Nat} (m : Sparse n) : Bool :=
  match m with
  | [] => true
  | (_, v) :: [] => v != 0#n
  | (j, v) :: (k, w) :: rest => v != 0#n && j < k && Sparse.wf ((k, w) :: rest)

/-- The canonical form of memory, as a store of bytes by address. -/
abbrev Memory.wf (m : Sparse 8) : Bool := Sparse.wf m

/-- The store without the numbers from `lo` up to but not including `hi`: those read as zero. -/
def sclear {n : Nat} (m : Sparse n) (lo hi : Nat) : Sparse n :=
  m.filter (fun p => decide (p.1 < lo ∨ hi ≤ p.1))

/-- The entries from `lo` up to but not including `hi`, renumbered from `start`. -/
def sslice {n : Nat} (m : Sparse n) (lo hi start : Nat) : Sparse n :=
  (m.filter (fun p => decide (lo ≤ p.1 ∧ p.1 < hi))).map (fun p => (p.1 - lo + start, p.2))

/-- The entries of `p` written over `m`. -/
def soverlay {n : Nat} (m p : Sparse n) : Sparse n :=
  p.foldl (fun acc e => sset acc e.1 e.2) m

/-- `len` bytes from `k` as one little-endian number (R8). -/
def sgetBytes (m : Sparse 8) (k len : Nat) : Nat :=
  match len with
  | 0 => 0
  | len + 1 => (sget m k).toNat + 256 * sgetBytes m (k + 1) len

/-- The low `len` bytes of `v` written from `k` up, little-endian (R8). -/
def ssetBytes (m : Sparse 8) (k len v : Nat) : Sparse 8 :=
  match len with
  | 0 => m
  | len + 1 => ssetBytes (sset m k (BitVec.ofNat 8 v)) (k + 1) len (v / 256)

end Sys2Proof.Machine
end

