-- ==== Sys2Proof/Machine/State.lean ====
section
/-! DEFINITION. The state of one NM-1 module, as plain data, and the state after reset. -/

namespace Sys2Proof.Machine

/-! ### The control thread -/

/-- Where an access lands: this hart's scalar data memory or scratchpad, by byte offset, or a physical
address (R44, R91). -/
inductive Place where
  | sdm (o : Nat)
  | spad (o : Nat)
  | phys (pa : Nat)
  deriving DecidableEq, Repr

/-- A scalar store that waits in the store buffer (R93): where, how many bytes, the data, whether it is a release
(R102) and whether at system scope; its number, the last vector instruction before it in program order, and the table
entries whose D bit it sets, each with whether it is of stage 2 (R330). -/
structure Store where
  place : Place
  size : Nat
  data : Word
  release : Bool
  system : Bool
  mark : Nat
  after : Nat
  entries : List (Nat × Bool)
  deriving DecidableEq, Repr

/-- A plain scalar load whose data has not returned (R106, R172): its number, the last vector instruction before it,
its destination and address, where it reads, how many bytes, whether they are sign-extended. -/
structure LateLoad where
  id : Nat
  after : Nat
  rd : SReg
  addr : Word
  place : Place
  size : Nat
  sx : Bool
  deriving DecidableEq, Repr

/-- What a hart is doing (R169, R223, R265, R315): nothing; running; stopped in a `WAIT` that began at a cycle;
stalled in a `WAITSL` for a destination and a slot, since a cycle and until a cycle; at the stop point of a
pre-emption, waiting for its close point (R316), with the slot and the timeout point of the `WAITSL` it was stalled in. -/
inductive RunState where
  | idle
  | running
  | waitEvent (since : Nat)
  | waitSlot (rd : SReg) (slot since due : Nat)
  | stopped (wait : Option (Nat × Nat))
  deriving DecidableEq, Repr

/-- Why a hart is being stopped, and so what becomes of its husk (R314): it is runnable, parked or held. -/
inductive StopReason where
  | preempt | park | hold
  deriving DecidableEq, Repr

/-- The launch a hart runs for (R38, R64, R312): partition, launch identifier, gang index, this hart's member
index, gang size, the leader's core, the class that counts for pre-emption (R310), when it was dispatched,
the entry and argument it started with. -/
structure Owner where
  part : Nat
  launch : Nat
  gang : Nat
  member : Nat
  size : Nat
  leader : Nat
  cls : Nat
  since : Nat
  deriving DecidableEq, Repr

/-- The control and status registers that a hart holds (R42); those that only name the hart are computed. -/
structure Csr where
  vl : Word
  vtype : Word
  vrcfg : Word
  mvl : Word
  tshape : Word
  fcsr : Word
  seed : Word
  slbase : Word
  recn : Word
  cycle : Word
  status : Word
  tvec : Word
  epc : Word
  cause : Word
  tval : Word
  topnd : Word
  deriving DecidableEq, Repr

/-- The counter latch of `CRDLO` and `CRDHI` (R269). -/
structure CounterLatch where
  valid : Bool
  n : Nat
  high : BitVec 32
  deriving DecidableEq, Repr

/-! ### The vector unit -/

/-- The vector state of a hart: the register file slot by slot (register r, slot i at number r·L + i, R16),
tags (R21), progress (R26), cleared arrival bits as (register, group) pairs (R28), masks as bit sets (R41),
the cross-element carry (R31), accumulators (part element (i, j) of tile t, R247) and matrix mode (R248). -/
structure Vec where
  vrf : Sparse 32
  tags : Vector (BitVec 4) 64
  index : Vector Nat 64
  complete : BitVec 64
  missing : List (Nat × Nat)
  masks : Vector Nat 8
  maskIndex : Vector Nat 8
  maskComplete : BitVec 8
  carry : List (Nat × BitVec 32)
  carryCount : BitVec 32
  acc : Sparse 32
  matrix : Bool
  deriving DecidableEq, Repr

/-- Where the vector instruction that is about to execute starts: its restart boundary (element, row or
step; 0 when it is new), whether its predicate is its own mask AND m0 (R214), the control thread's resume address
when the instruction comes from the vector queue or is one that the vector unit held (R399), and the boundary (element,
row or step) at which it is to stop, if any (R31). -/
structure Restart where
  start : Nat
  useM0 : Bool
  epc : Option Word
  stop : Option Nat
  deriving DecidableEq, Repr

/-- What a destination held before the elements of a group that is computed again were written (R73): an element
of a vector register, narrow or not, or a bit of a mask register. -/
inductive Undo where
  | elem (r : Nat) (narrow : Bool) (e x : Nat)
  | bit (m e : Nat) (b : Bool)
  deriving DecidableEq, Repr

/-- What stands in the vector queue: a vector instruction; a CSR write of VTYPE or VRCFG, which has its place in vector
program order (R166); or the clear of a chunk mask by an engine (R110). -/
inductive QueueItem where
  | vector
  | csrWrite
  | clear (engine : Nat)
  deriving DecidableEq, Repr

/-- A vector instruction with what it runs under (R12, R31, R399): its number, its word and address, the scalar
operands it read when it entered the queue, the register tags it issued under once it has started, its VTYPE, VRCFG and
VL, where it resumes, what it computes again, its convoy, and what it is. -/
structure Held where
  seq : Nat
  ir : BitVec 32
  pc : Word
  regs : Vector Word 32
  tags : Vector (BitVec 4) 64
  vtype : Word
  vrcfg : Word
  vl : Word
  start : Nat
  useM0 : Bool
  undo : List Undo
  head : Word
  members : Nat
  item : QueueItem
  deriving DecidableEq, Repr

/-- The checkpoint of the control thread that goes with a queued vector instruction (R172, R173): its scalar
registers, CSRs, scoreboard and counter latch, and the flags that vector instructions have raised since. -/
structure Checkpoint where
  regs : Vector Word 32
  csr : Csr
  pending : BitVec 32
  latch : CounterLatch
  flags : Nat
  deriving DecidableEq, Repr

/-- A vector instruction that has not started (R12, R173). -/
structure Queued where
  work : Held
  back : Checkpoint
  deriving DecidableEq, Repr

/-- One virtual processor of a running `VF` (R15, R205): its element, its counter, the number of its next block
word, or none once it is on its own path, and the flags it has raised. -/
structure Vp where
  elem : Nat
  pc : Word
  word : Option Nat
  flags : Nat
  deriving DecidableEq, Repr

/-- A word of a block as a lane cluster took it (R204): the word, unless its fetch failed, and the register tags it runs
under. -/
structure BlockWord where
  ir : Option (BitVec 32)
  tags : Vector (BitVec 4) 64
  deriving DecidableEq, Repr

/-- A `VF` in flight (R14, R15): its number, word and address, the block's address, the words that each lane cluster with a
VP took through its own AIB cache, the scalar registers, VTYPE and
VL when it entered the queue, the VPs that have not finished, in element order, and the vector and mask registers that its
block and the paths of its VPs write. -/
structure VfRun where
  seq : Nat
  ir : BitVec 32
  pc : Word
  block : Word
  len : Nat
  words : List (Nat × List BlockWord)
  regs : Vector Word 32
  vtype : Word
  vl : Word
  vps : List Vp
  dests : List Nat
  maskDests : List Nat
  deriving DecidableEq, Repr

/-- The convoy last formed (R35, R36): head address, member count, registers written by members (mask register m as
64 + m), the element groups of its longest member, and whether it is open. -/
structure Convoy where
  head : Word
  count : Nat
  written : List Nat
  groups : Nat
  forming : Bool
  deriving DecidableEq, Repr

/-- A convoy that is closed (R36, R384, R388): its head address, member count, the element groups of its longest member and
the number of its last member in the vector unit; the partition and launch that ran it as a record names them, and the base of
its core's megabyte of their trace area. -/
structure DueConvoy where
  head : Word
  members : Nat
  groups : Nat
  last : Nat
  who : Nat
  base : Nat
  deriving DecidableEq, Repr

/-! ### Translation -/

/-- A cached translation (R333): the partition and the stage, the first address of the page that it maps and its size in
bytes, the intermediate physical address and the physical address of the page, the permissions of both stages together,
whether the page is compute-capable, where the entries with the A and D bits lie, each with whether it is of stage 2, and
how large the pages of stage 1 and of stage 2 are that it lies in.  An entry of stage 1 maps a virtual page all the way
(R331); one of stage 2 an intermediate page. -/
structure TlbEntry where
  part : Nat
  stage : Nat
  page : Nat
  size : Nat
  ipa : Nat
  pa : Nat
  perms : Nat
  cc : Bool
  entries : List (Nat × Bool)
  spans : Nat × Nat
  deriving DecidableEq, Repr

/-! ### Engines -/

/-- A stream's access pattern (R233). -/
structure StreamDesc where
  base : Word
  counts : Nat × Nat × Nat
  strides : Word × Word × Word
  store : Bool
  size : Nat
  deriving DecidableEq, Repr

/-- What an engine instruction asked for: `COPY` (R232) with the chunks finished and those that lost a write to a
slot; `STREAM` (R233) on a port, its pattern once read and its cursor; `BGLD` and `GXL` (R234, R235) with the
registers they load, the element width in bytes, the length, the VTYPE they issued under and the addresses of the elements
still to deliver, and for a gather their places once all are translated; `NBX` (R236), and whether its command is at the
stack; `CHAIN` (R237) with the arrival word, the hops, the block once it travels, the set of hops that it has served, how
many stored it and which skipped it. -/
inductive EngineKind where
  | copy (dst src : Word) (len mask : Nat) (chunks lost : List Nat)
  | stream (port : Nat) (descAddr : Word) (desc : Option StreamDesc) (cursor : Nat)
  | bgld (regs : List Nat) (width n : Nat) (vtype : Word) (addrs : List (Nat × Word))
  | gxl (regs : List Nat) (width n : Nat) (vtype : Word) (addrs : List (Nat × Word)) (todo : Option (List (Nat × Nat)))
  | nbx (desc arg : Word) (sent : Bool)
  | chain (off len : Nat) (arrive : Option Nat) (hops : List Nat) (block : Option (Sparse 8)) (served stored skipped : Nat)
  deriving DecidableEq, Repr

/-- An engine instruction in flight (R229): its number, the last vector instruction before it (R54), its status register, what it
does, its address and word, whether device supervisor code issued it, the page-fault batch it waits for with the address it met and whether stage 2
misses (R231), the fault it met (cause, index, address, whether of stage 2), and its status word once it has completed into
a husk (R319). -/
structure Engine where
  id : Nat
  after : Nat
  rd : SReg
  kind : EngineKind
  pc : Word
  ir : BitVec 32
  super : Bool
  batch : Option (Nat × Word × Bool)
  fault : Option (Nat × Nat × Word × Bool)
  status : Option Word
  deriving DecidableEq, Repr

/-- A `LAUNCH` whose answer is due (R263): the status register, the record's address, its mode, the record once it is
read, and the batch it waits for. -/
structure LaunchReq where
  rd : SReg
  addr : Word
  super : Bool
  record : Option (List Byte)
  batch : Option Nat
  deriving DecidableEq, Repr

/-- A part of a transfer that an engine has done ahead of its step (R112): the engine's number; the stream element or the
word of a copy that it has read, with the value; whether the word is written as well. -/
structure Early where
  engine : Nat
  n : Nat
  value : Nat
  written : Bool
  deriving DecidableEq, Repr

/-- What an 8-byte word of a copy's destination held before the copy wrote it, which a read may still return (R112): the
engine, the chunk, the core and the place, the value, and the sequence of the copy's write where the word is subscribed
(R113). -/
structure OldWord where
  engine : Nat
  chunk : Nat
  core : Nat
  place : Place
  value : Nat
  seq : BitVec 32
  deriving DecidableEq, Repr

/-! ### Marked loops -/

/-- One recorded instruction of a marked loop's iteration (R240, R398): the number that it has if it is a vector instruction,
its address and word, a guard's outcome, the base of a memory access, and the span its elements cover as a signed offset and a
length, with whether it stores. -/
structure LoopOp where
  seq : Nat
  pc : Word
  ir : BitVec 32
  taken : Bool
  base : Option Word
  span : Option (Int × Nat × Bool)
  deriving DecidableEq, Repr

/-- Where a marked loop stands (R240 to R244): its first iterations recorded; its verdict awaited; replayed; over,
with the status that is due, and written; declined. -/
inductive LoopPhase where
  | recording
  | verdict
  | replaying
  | over (status : Word)
  | finished (status : Word)
  | declined
  deriving DecidableEq, Repr

/-- The open marked loop of a hart (R239): its number, status, count and induction registers, top and end, trip
count, the iterations closed, the operations of the current and of the closed iterations, the stack that tracks
it and whether it is one too many there, the guard registers and the carried reductions with their grouping, the
CSRs at `LMARK` and then at skip-ahead, the phase; and once it is confirmed its stope engine, the next iteration to replay, the mode it runs in,
the scalar registers and vector state that replay works on, and the flags it has raised. -/
structure Loop where
  id : Nat
  rd : SReg
  count : SReg
  ind1 : SReg
  ind2 : SReg
  top : Word
  endPc : Option Word
  n : Nat
  iter : Nat
  cur : List LoopOp
  ops : List (List LoopOp)
  stack : Option Nat
  late : Bool
  guards : List SReg
  carried : List Nat
  grp : Nat
  csr : Csr
  phase : LoopPhase
  stope : Nat
  next : Nat
  super : Bool
  regs : Vector Word 32
  vec : Vec
  flags : Nat
  deriving DecidableEq, Repr

/-! ### Counters and trace -/

/-- The world that holds a counter bank or the trace unit (R268). -/
inductive World where
  | guest | hypervisor
  deriving DecidableEq, Repr

/-- A counter bank (R382): its holder, six selects, eight counts. -/
structure Bank where
  holder : Option World
  selects : Vector (BitVec 16) 6
  counts : Vector Word 8
  deriving DecidableEq, Repr

/-- The trace unit of a core (R386, R387): its holder, the CTL, WADDR and WCTL read at the grant, the records
written, the convoys that completed and await their record, when it was granted or a sample last fell due, and whether a trap of
its watchpoint has been taken since it was granted (R389). -/
structure Trace where
  holder : Option World
  ctl : Word
  waddr : Word
  wctl : Word
  count : Nat
  convoys : List DueConvoy
  sampled : Nat
  hit : Bool
  deriving DecidableEq, Repr

/-! ### A hart -/

/-- One hart with its core's local memories and units.  `waitDue` is the timeout point of the `WAITSL` at an address
that evaluates again after a pre-emption (R223).  `queue` is the vector queue (R12), `held` the instruction that the
vector unit has started, `vseq` how many vector instructions have entered, `vnow` the number of the one that executes;
`closed` are the closed convoys with members that the vector unit has not completed;
`fetched` are the lines of the instruction cache and of the eight AIB caches, newest first;
`loads` are the plain loads without their data, oldest first; `reissue` are those that a resume is to issue again, each with
whether it has trapped doing so (R320); `released` says that a release was issued since the last
acquire (R105).  `dump` is set while it stops for a dump (R390).  `vpNow` is the virtual processor whose word executes, if
one does.  `stalled` is the model's own: the hart found that it must wait, and something else happens first
(log 4). -/
structure Hart where
  core : Nat
  regs : Vector Word 32
  pc : Word
  ir : BitVec 32
  pending : BitVec 32
  run : RunState
  waitDue : Option (Word × Nat)
  stopping : Option StopReason
  dump : Bool
  csr : Csr
  latch : CounterLatch
  owner : Option Owner
  vec : Vec
  restart : Restart
  held : Option Held
  queue : List Queued
  vseq : Nat
  vnow : Nat
  started : Bool
  stalled : Bool
  vf : Option VfRun
  vpNow : Option Nat
  convoy : Convoy
  closed : List DueConvoy
  sdm : Sparse 8
  spad : Sparse 8
  recv : Sparse 32
  buffer : List Store
  released : Bool
  loads : List LateLoad
  reissue : List (LateLoad × Bool)
  fetched : List (Nat × BitVec 512)
  tlb : List TlbEntry
  engines : List Engine
  launchReqs : List LaunchReq
  loop : Option Loop
  banks : Vector Bank 4
  quantum : Nat
  quantumStart : Nat
  trace : Trace
  deriving DecidableEq, Repr

/-! ### Memory, standing loads and the network -/

/-- A byte of a dirty scalar L1 line (R59, R60): the core that holds it, its physical address, and the byte
that the home had before the hart's scalar stores. -/
structure DirtyByte where
  core : Nat
  pa : Nat
  old : Byte
  deriving DecidableEq, Repr

/-- Where a packet is (R365, R367): in the mesh, on the adit lane, in a recovery buffer, or in its destination's
sequence window. -/
inductive Transit where
  | mesh | adit | recovery | window
  deriving DecidableEq, Repr

/-- The message classes of the mesh (R364). -/
inductive Message where
  | request | response | forward
  deriving DecidableEq, Repr

/-- A vector store element on its way to its slice (R92, R118): its number, the core and lane cluster of its
stream, the instruction and the element group it belongs to, its message and QoS classes (R363, R369), where it lands, its width in bytes,
where its second byte lies if that is on another page (R85), its data and the bits of them that it writes (R85), the
table entries whose D bit it sets, where it is, and since when it has not advanced (R366). -/
structure Packet where
  id : Nat
  core : Nat
  cluster : Nat
  seq : Nat
  group : Nat
  msg : Message
  qos : Nat
  place : Place
  second : Option Place
  size : Nat
  data : Nat
  mask : Nat
  entries : List (Nat × Bool)
  transit : Transit
  since : Nat
  deriving DecidableEq, Repr

/-- Who holds a subscription (R220, R311): a slot of a hart of a gang of a launch, or a dependence of a launch. -/
inductive Subscriber where
  | slot (core n part launch gang : Nat)
  | dependence (part launch d : Nat)
  deriving DecidableEq, Repr

/-- One subscription at its home (R221, R226): who, the pushes sent less those that came back, whether it is
parked, the latest newer write while it is (value, sequence), and, while a re-arm is due, the received count and
SEQ that came with it. -/
structure Sub where
  who : Subscriber
  sent : Nat
  parked : Bool
  latest : Option (Word × BitVec 32)
  rearm : Option (Nat × BitVec 32)
  deriving DecidableEq, Repr

/-- A home-directory entry (R221): the word's physical address, its sequence, its subscriptions. -/
structure DirEntry where
  pa : Nat
  seq : BitVec 32
  subs : List Sub
  deriving DecidableEq, Repr

/-- A push in flight (R221): a forward (R364), with its number, the QoS class of the write that caused it (R369), the
word, the subscriber, the value and sequence, where it is and since when it has not advanced. -/
structure Push where
  id : Nat
  qos : Nat
  pa : Nat
  who : Subscriber
  value : Word
  seq : BitVec 32
  transit : Transit
  since : Nat
  deriving DecidableEq, Repr

/-- The home's answer to a `STAND` or to an element of a `VSTAND` (R220, R397), and the pushes its slot holds
meanwhile: how many, and the one with the highest sequence. -/
structure StandAnswer where
  core : Nat
  slot : Nat
  part : Nat
  launch : Nat
  pa : Nat
  rd : Option SReg
  value : Word
  seq : BitVec 32
  refusal : Nat
  held : Nat
  kept : Option (Word × BitVec 32)
  deriving DecidableEq, Repr

/-- The home's answer to an `UNSTAND` (R224): the word of the subscription, the count of pushes sent, once it has arrived
or before. -/
structure Unstand where
  core : Nat
  slot : Nat
  part : Nat
  launch : Nat
  pa : Nat
  rd : SReg
  count : Nat
  arrived : Bool
  deriving DecidableEq, Repr

/-- The lamp's holder (R367): the router, the packet it sends over the adit lane, and how far the recovery
is: sent, or accepted by the destination. -/
structure LampHolder where
  router : Nat
  packet : Nat
  accepted : Bool
  deriving DecidableEq, Repr

/-! ### Launches, husks and partitions -/

/-- A dependence of a launch (R262, R311): the physical address of its word, whether its DONE has been seen,
whether the home refused the subscription, and when the arbiter last read it. -/
structure Dependence where
  pa : Nat
  done : Bool
  refused : Bool
  polled : Nat
  deriving DecidableEq, Repr

/-- An entry of the pending-launch store (R308, R309): partition and identifier, record fields, completion
word, dependences, gangs dispatched, harts that have ended or been stopped, harts that reached `END`, running
flags, current class, arrival and last rise, and how it ended: 0, 3 or, for firmware's launches, none. -/
structure Launch where
  part : Nat
  id : Nat
  entry : Word
  arg : Word
  size : Nat
  cls : Nat
  gangs : Nat
  completion : Option Nat
  deps : List Dependence
  dispatched : Nat
  gone : Nat
  ended : Nat
  flags : Nat
  current : Nat
  arrival : Nat
  rise : Nat
  hyper : Bool
  failed : Bool
  deriving DecidableEq, Repr

/-- A husk (R314, R318): its slot in a partition's pool, the hart image, whether it is parked and until when, whether
a wake for it is on its way, whether it is held, dump-held, already resumed from (a dump), runnable and since when
(arrival and last rise), and its class. -/
structure Husk where
  part : Nat
  slot : Nat
  image : Hart
  parked : Option Nat
  woken : Bool
  held : Bool
  dump : Bool
  resumed : Bool
  runnable : Bool
  arrival : Nat
  rise : Nat
  cls : Nat
  deriving DecidableEq, Repr

/-- A partition (R372, R374): its block in BAR0, the arbiter's aging threshold (R310), the next launch
identifier (R308), the stage-2 root of a partition under a hypervisor (R331). -/
structure Partition where
  cores : BitVec 128
  xmask : BitVec 128
  pcpAddr : Word
  mboxAddr : Word
  hostWin : Word
  active : Word
  age : Word
  nextId : Nat
  stage2 : Option Nat
  deriving DecidableEq, Repr

/-! ### Stacks, blocks, leases -/

/-- A near-bank command (R236): the core and the engine that issued it, its page with its virtual address, its fields, the
rows done with their flags, what stops it with the virtual address that it met, and the table entries whose D bit its writes
set. -/
structure NearCommand where
  core : Nat
  engine : Nat
  va : Word
  page : Nat
  op : Nat
  ty : Nat
  rm : Nat
  ftz : Bool
  dest : Nat
  off : Nat
  rows : Nat
  elems : Nat
  arg : Word
  done : Nat
  flags : Nat
  bad : Option (Nat × Word)
  entries : List (Nat × Bool)
  deriving DecidableEq, Repr

/-- What holds a stope engine (R348): a near-bank command, or the replay of the marked loop with that number, with the
first byte and the length of its footprint (R350). -/
inductive StopeJob where
  | near (c : NearCommand)
  | replay (loop lo len : Nat)
  deriving DecidableEq, Repr

/-- A stope engine in use (R348, R351): its number, its job and since when it has it, the pseudo-channel of its last
granule step, whether it is suspended and since when, the granules that the replayed iteration has read, and what its bank
accumulators hold: the stores of that iteration that its last step has still to write, by physical address (R349), with the
table entries whose D bit they set. -/
structure Stope where
  num : Nat
  job : StopeJob
  since : Nat
  chan : Nat
  suspended : Option Nat
  reads : List Nat
  accs : List (Nat × Byte)
  entries : List (Nat × Bool)
  deriving DecidableEq, Repr

/-- An open row of a bank (R341): pseudo-channel, bank, row, the segments open. -/
structure OpenRow where
  chan : Nat
  bank : Nat
  row : Nat
  segs : BitVec 8
  deriving DecidableEq, Repr

/-- A request queued at a stack's controller (R341, R343, R351, R369): pseudo-channel, bank, row, segment, whether it
covers the whole row, whether a refresh has started on its bank while it waits, its QoS class, and when it arrived. -/
structure Request where
  chan : Nat
  bank : Nat
  row : Nat
  seg : Nat
  whole : Bool
  refreshed : Bool
  qos : Nat
  arrived : Nat
  deriving DecidableEq, Repr

/-- Who makes a request (R369): the hart of a core, an engine, or the host. -/
inductive Requester where
  | core (c : Nat)
  | engine (id : Nat)
  | host
  deriving DecidableEq, Repr

/-- A stack (R336 to R352): its controller register, stope engines in use, waiting near-bank commands, the requests that
its gather unit holds (R352), open
rows, queued requests, how many grants of a pseudo-channel a class has waited through (R369), banks whose refresh is due,
banks refreshing (pseudo-channel, bank, until), pseudo-channels in self-refresh and since when, when each was last
busy, and until when one serves ordinary requests before an engine steps on it again (R351). -/
structure Stack where
  mcstk : Word
  stopes : List Stope
  queue : List NearCommand
  gathers : List Nat
  opened : List OpenRow
  requests : List Request
  passed : List (Nat × Nat × Nat)
  due : List (Nat × Nat)
  refreshing : List (Nat × Nat × Nat)
  asleep : List (Nat × Nat)
  busy : List (Nat × Nat)
  window : List (Nat × Nat)
  deriving DecidableEq, Repr

/-- The state of a 2 GiB block (R356). -/
inductive BlockState where
  | free
  | owned (p : Nat)
  | removing (q : Nat)
  | scrubbing (q : Nat)
  | lent
  deriving DecidableEq, Repr

/-- A lease-table entry (R354); OUTST is counted from what is in flight. -/
structure Lease where
  state : Nat
  owner : Nat
  port : Nat
  peer : Nat
  rblock : Nat
  deriving DecidableEq, Repr

/-! ### The module -/

/-- A pit-log record (R391). -/
structure PitRecord where
  seq : Nat
  time : Nat
  source : Nat
  unit : Nat
  code : Nat
  detail : Nat
  deriving DecidableEq, Repr

/-- A die's pit log (R391): its sequence, its last 4,096 records, newest first. -/
structure PitLog where
  seq : Nat
  records : List PitRecord
  deriving DecidableEq, Repr

/-- The corrected errors of a structure class on a die (R393): how many, the times of the last 65, whether the rate has been
crossed since the die last logged that, and when it did. -/
structure Corrected where
  die : Nat
  cls : Nat
  total : Nat
  recent : List Nat
  crossed : Bool
  logged : Option Nat
  deriving DecidableEq, Repr

/-- Where an uncorrectable error lies (R394): an 8-byte word of DRAM, a lost dirty L2 line, or a place in a
core. -/
inductive BadPlace where
  | dram (word : Nat)
  | lostLine (line : Nat)
  | sdm (core word : Nat)
  | spad (core word : Nat)
  | sreg (core r : Nat)
  | vslot (core slot : Nat)
  | mask (core m word : Nat)
  | acc (core n : Nat)
  deriving DecidableEq, Repr

/-- The SPDM responder (R380): how far the connection is, whether a session is open. -/
structure Spdm where
  stage : Nat
  handshake : Bool
  session : Bool
  deriving DecidableEq, Repr

/-- What the responder's algorithms do (R380). -/
inductive Algorithm where
  | signing (name : String) (vendorDefined : Bool)
  | hash (name : String)
  | keyExchange (name : String)
  | aead (name : String)
  deriving DecidableEq, Repr

/-- What leaves the module for the host, newest first: a CXL.mem read's bytes, an SPDM response (request,
accepted, body, the digest it carries and the algorithms it names), a line served to a peer, a word read from BAR0, an interrupt vector. -/
inductive Answer where
  | hostRead (pa : Nat) (bytes : List Byte)
  | hostFailed (pa : Nat)
  | spdm (request : Nat) (accepted : Bool) (body : BitVec 64) (digest : BitVec 256) (algorithms : List Algorithm)
  | peerLine (pa : Nat) (bytes : List Byte)
  | barRead (offset : Nat) (value : Word)
  | interrupt (vector : Nat)
  deriving DecidableEq, Repr

/-- What happens next, when not the default order (log 4): a hart takes a step; its control thread takes one that runs ahead
of the vector unit, or in which a plain load gets its data later; its vector unit works, to the end or to a group boundary;
the data of an outstanding load returns, as its word is or as it was before a running copy; a lane of its running `VF` takes
a step; an event of the table; core cycles pass (log 5); a dirty L1 line is written back; a line leaves the instruction
caches; a place becomes uncorrectable; a corrected error, an uncorrectable clean line or a timing-dependent counter event is counted; an ordinary request
reaches a stack's controller; a refresh falls due; a packet advances; the oldest interrupt of a partition is sent; the host
reads a word of BAR0, sets its decoder, or changes a byte of its own memory; firmware gives a free block to a partition; the
scrub of a moved block starts; a free block is lent to a peer, or taken back from it; an engine reads an element ahead,
moves a word of a copy ahead of its chunk, or serves a hop of a chain ahead; firmware holds a husk. -/
inductive Turn where
  | run (core : CoreId)
  | ahead (core : CoreId)
  | late (core : CoreId)
  | vector (core : CoreId) (stop : Option Nat)
  | loadReturn (core : CoreId) (k : Nat)
  | loadOld (core : CoreId) (k : Nat)
  | lane (core : CoreId) (l : Fin 64)
  | event (i : Instr)
  | pass (cycles : Nat)
  | writeBack (core : CoreId) (line : Nat)
  | dropFetch (core : CoreId) (pa : Nat)
  | upset (place : BadPlace)
  | corrected (core : CoreId) (cls : Fin 16)
  | cleanLine (core : Option CoreId) (pa : Nat)
  | count (core : CoreId) (event : BitVec 8) (cluster : Fin 9) (n : Nat)
  | request (stack : StackId) (who : Requester) (r : Request)
  | refreshDue (stack : StackId) (chan : Fin 64) (bank : Fin 16)
  | advance (packet : Nat)
  | interrupt (p : PartId)
  | barRead (offset : Nat)
  | decoder (base : Nat)
  | hostByte (addr : Nat) (b : Byte)
  | own (b : Fin 256) (p : PartId)
  | scrub (b : Fin 256)
  | lend (b : Fin 256)
  | takeBack (b : Fin 256)
  | readAhead (engine elem : Nat)
  | copyWord (engine k : Nat)
  | hop (engine k : Nat)
  | hold (p : PartId) (slot : Fin 128)
  deriving DecidableEq, Repr

/-- The whole module.  `hart` is the hart that acts, `others` the remaining ones; `severed` holds the counts of pushes
sent to slots whose directory entries were removed with their block (R357), `decoder` the host physical address at which
device memory begins (R373), `hostLines` the lines that the host caches, with whether a
device has written the line since (R94), `booting` the image that the boot ROM has taken up (R378), `raised` when the throttle
level last rose and `warm` when a limit was last met or the level last fell (R396). -/
structure State where
  hart : Hart
  others : List Hart
  mem : Sparse 8
  hostMem : Sparse 8
  dirty : List DirtyByte
  packets : List Packet
  serial : Nat
  directory : List DirEntry
  severed : List (Subscriber × Nat)
  pushes : List Push
  bounces : List Push
  stands : List StandAnswer
  unstands : List Unstand
  early : List Early
  olds : List OldWord
  launches : List Launch
  husks : List Husk
  parts : Vector Partition 16
  dieTlb : List (Nat × TlbEntry)
  hbm : Vector Stack 8
  blocks : Vector BlockState 256
  leases : Vector Lease 64
  moves : List (Nat × Nat × Nat)
  chainCtx : List (Nat × Nat × Nat)
  suspects : List (Nat × Nat)
  lamp : Nat
  lampHolder : Option LampHolder
  lampSeen : Nat
  netctl : Word
  pits : Vector PitLog 4
  corrected : List Corrected
  bad : List BadPlace
  bootst : Word
  booting : Option BootImage
  enstk : BitVec 8
  cxlMem : Bool
  decoder : Nat
  hostLines : List (Nat × Bool)
  requireIde : Bool
  ide : BitVec 4
  spdm : Spdm
  digests : BitVec 256 × BitVec 256 × BitVec 256
  msix : List Nat
  throttle : Nat
  raised : Option Nat
  warm : Nat
  thermal : Bool
  clock : Nat
  fresh : Nat
  outbox : List Answer
  agenda : List Turn
  deriving DecidableEq, Repr

/-! ### Outcomes other than a next state -/

/-- The machine stops with a fault. -/
inductive Fault where
  /-- Raised by `step` when firmware has stopped every die at 115 °C and the module waits for a cold reset
  that nothing in the agenda brings (R396).  Safe: the spec gives the module no further step. -/
  | thermalStop
  deriving DecidableEq, Repr

/-- No meaning for the instruction. -/
inductive Refusal where
  /-- Raised by an arm of `exec` whose instruction has no meaning yet.  Safe. -/
  | notModelled (mnemonic : String)
  deriving DecidableEq, Repr

/-! ### Reset -/

/-- The CSRs at hart start (R42); `tvec` is the partition's SVEC, 0 before any (log 2). -/
def Csr.start (core : Nat) (tvec : Word) : Csr where
  vl := 0
  vtype := 0
  vrcfg := 2
  mvl := 0
  tshape := 0
  fcsr := 0
  seed := BitVec.ofNat 64 (core + 1)
  slbase := 0x2FC000
  recn := 3
  cycle := 0
  status := 0
  tvec := tvec
  epc := 0
  cause := 0
  tval := 0
  topnd := 0

/-- The vector state at hart start (R41): all zero, untyped, complete. -/
def Vec.start : Vec where
  vrf := []
  tags := Vector.replicate 64 0
  index := Vector.replicate 64 0
  complete := BitVec.allOnes 64
  missing := []
  masks := Vector.replicate 8 0
  maskIndex := Vector.replicate 8 0
  maskComplete := BitVec.allOnes 8
  carry := []
  carryCount := 0
  acc := []
  matrix := false

/-- A free counter bank. -/
def Bank.start : Bank where
  holder := none
  selects := Vector.replicate 6 0
  counts := Vector.replicate 8 0

/-- A free trace unit. -/
def Trace.start : Trace where
  holder := none
  ctl := 0
  waddr := 0
  wctl := 0
  count := 0
  convoys := []
  sampled := 0
  hit := false

/-- The scalar registers at hart start (R41): the stack pointer at the top of scalar data memory, the
argument pointer in s3, all else 0. -/
def startRegs (arg : Word) : Vector Word 32 := ((Vector.replicate 32 0).set 2 0x10000).set 3 arg

/-- A core with no hart: every register at its hart-start value (log 2), every buffer zero (R41, R64). -/
def Hart.start (core : Nat) : Hart where
  core := core
  regs := startRegs 0
  pc := 0
  ir := 0
  pending := 0
  run := .idle
  waitDue := none
  stopping := none
  dump := false
  csr := Csr.start core 0
  latch := ⟨false, 0, 0⟩
  owner := none
  vec := Vec.start
  restart := ⟨0, false, none, none⟩
  held := none
  queue := []
  vseq := 0
  vnow := 0
  started := false
  stalled := false
  vf := none
  vpNow := none
  convoy := ⟨0, 0, [], 0, false⟩
  closed := []
  sdm := []
  spad := []
  recv := []
  buffer := []
  released := false
  loads := []
  reissue := []
  fetched := []
  tlb := []
  engines := []
  launchReqs := []
  loop := none
  banks := Vector.replicate 4 Bank.start
  quantum := 0
  quantumStart := 0
  trace := Trace.start

/-- A partition block before firmware writes it (R374); the aging threshold of R42. -/
def Partition.start : Partition where
  cores := 0
  xmask := 0
  pcpAddr := 0
  mboxAddr := 0
  hostWin := 0
  active := 0
  age := 0x01000000
  nextId := 1
  stage2 := none

/-- A stack after reset (R345): SRIDLE 0x1000, segmenting and scrub on, the stack enabled (log 2). -/
def Stack.start : Stack where
  mcstk := 0x100007
  stopes := []
  queue := []
  gathers := []
  opened := []
  requests := []
  passed := []
  due := []
  refreshing := []
  asleep := []
  busy := []
  window := []

/-- The module after reset and before its firmware has done anything (R378): no hart runs, nothing is
owned, memory lists nothing. -/
def State.reset : State where
  hart := Hart.start 0
  others := (List.range 127).map (fun i => Hart.start (i + 1))
  mem := []
  hostMem := []
  dirty := []
  packets := []
  serial := 0
  directory := []
  severed := []
  pushes := []
  bounces := []
  stands := []
  unstands := []
  early := []
  olds := []
  launches := []
  husks := []
  parts := Vector.replicate 16 Partition.start
  dieTlb := []
  hbm := Vector.replicate 8 Stack.start
  blocks := Vector.replicate 256 .free
  leases := Vector.replicate 64 ⟨0, 0, 0, 0, 0⟩
  moves := []
  chainCtx := []
  suspects := []
  lamp := 0
  lampHolder := none
  lampSeen := 0
  netctl := 0x20400
  pits := Vector.replicate 4 ⟨0, []⟩
  corrected := []
  bad := []
  bootst := 0
  booting := none
  enstk := 0xFF
  cxlMem := false
  decoder := 0
  hostLines := []
  requireIde := false
  ide := 0
  spdm := ⟨0, false, false⟩
  digests := (0, 0, 0)
  msix := []
  throttle := 0
  raised := none
  warm := 0
  thermal := false
  clock := 0
  fresh := 0
  outbox := []
  agenda := []

end Sys2Proof.Machine
end

