-- ==== Sys2Proof/Machine/Memory.lean ====
section
/-! DEFINITION. Harts by core number, and physical memory at its homes: who owns an address, reading, and the one
way in which a write is performed (coherence with dirty L1 bytes, sequencing and pushing of subscribed
words). -/

namespace Sys2Proof.Machine

/-! ### Harts by core -/

/-- All harts, the acting one first. -/
def State.harts (s : State) : List Hart := s.hart :: s.others

/-- The hart of core `c`. -/
def hartAt (s : State) (c : Nat) : Hart :=
  if s.hart.core = c then s.hart else ((s.others.find? (fun h => h.core == c)).getD (Hart.start c))

/-- The state with the hart of core `c` changed by `f`. -/
def onCore (s : State) (c : Nat) (f : Hart → Hart) : State :=
  if s.hart.core = c then { s with hart := f s.hart }
  else { s with others := s.others.map (fun h => if h.core = c then f h else h) }

/-- The state with every hart changed by `f`. -/
def onHarts (s : State) (f : Hart → Hart) : State :=
  { s with hart := f s.hart, others := s.others.map f }

/-- A list of harts in which `g` takes the place of the first hart of core `c`. -/
def swapIn (g : Hart) (c : Nat) (hs : List Hart) : List Hart :=
  match hs with
  | [] => []
  | h :: rest => if h.core = c then g :: rest else h :: swapIn g c rest

/-- The state in which the hart of core `c` is the one that acts. -/
def focus (s : State) (c : Nat) : State :=
  if s.hart.core = c then s
  else
    match s.others.find? (fun h => h.core == c) with
    | none => s
    | some h => { s with hart := h, others := swapIn s.hart c s.others }

/-- The die, and the cluster within the die, of a core (R3). -/
def dieOfCore (c : Nat) : Nat := c / 32
/-- The global cluster of a core (R6). -/
def clusterOfCore (c : Nat) : Nat := c / 8

/-! ### Places (R62, R338, R339, R356) -/

/-- How many stacks are enabled (R338). -/
def stackCount (s : State) : Nat := popCount s.enstk.toNat 8

/-- Bytes of local memory (R338). -/
def localBytes (s : State) : Nat := 2 ^ 36 * stackCount s

/-- The numbers of the enabled stacks, rising (R338). -/
def enabledStacks (s : State) : List Nat := (List.range 8).filter (fun i => s.enstk.toNat.testBit i)

/-- The stack that holds a local physical address (R338). -/
def stackOf (s : State) (pa : Nat) : Nat :=
  (enabledStacks s).getD (pa / 2 ^ 21 % stackCount s) 0

/-- The frame number within its stack (R338). -/
def frameInStack (s : State) (pa : Nat) : Nat := pa / 2 ^ 21 / stackCount s

/-- The pseudo-channel of an address (R339). -/
def channelOf (pa : Nat) : Nat := pa / 1024 % 2048 % 64
/-- The bank of an address within its pseudo-channel (R339). -/
def bankOf (pa : Nat) : Nat := pa / 1024 % 2048 / 64 % 16
/-- The row of an address in its bank (R339). -/
def rowOf (s : State) (pa : Nat) : Nat := 2 * frameInStack s pa + pa / 1024 % 2048 / 1024

/-- The exclusive or of the twelve 4-bit fields of a line number (R62). -/
def foldLine (l n : Nat) : Nat :=
  match n with
  | 0 => 0
  | n + 1 => (l % 16) ^^^ foldLine (l / 16) n

/-- The home of a physical address as (global cluster, bank) in one number, 31·cluster + bank (R6, R62). -/
def homeOf (pa : Nat) : Nat := 31 * foldLine (pa / 64) 12 + pa / 64 / 16 % 31

/-- The start of the global addresses (R44). -/
def globalBase : Nat := 0x400000

/-- The first address of the lease window (R338). -/
def leaseBase : Nat := 0x0008000000000000
/-- The first address of the host windows (R338). -/
def hostBase : Nat := 0x0009000000000000

/-- The lease entry of an address in the lease window. -/
def leaseOf (s : State) (pa : Nat) : Option Lease :=
  if leaseBase ≤ pa ∧ pa < leaseBase + 2 ^ 37 then s.leases[(pa - leaseBase) / 2 ^ 31]? else none

/-- The cause with which the home refuses an access of partition `part`, or none where it serves it
(R338, R354 to R356): memory of the partition, or a block leased to it. -/
def refusal (s : State) (part pa : Nat) : Option Nat :=
  if pa < localBytes s then
    (if s.blocks[pa / 2 ^ 31]? = some (.owned part) then none else some 0x09)
  else
    match leaseOf s pa with
    | none => some 0x09
    | some l =>
      if l.state = 0 then some 0x09 else if l.state = 3 then some 0x0A else if l.owner = part then none else some 0x09

/-- Whether an address lies in the host window of the partition, which only `COPY` reaches (R375), and the
host address behind it. -/
def hostWindow (s : State) (part pa : Nat) : Option Nat :=
  match s.parts[part]? with
  | none => none
  | some p =>
    let lg := bits p.hostWin 40 8
    let i := pa - (hostBase + 2 ^ 40 * part)
    if hostBase + 2 ^ 40 * part ≤ pa ∧ 12 ≤ lg ∧ lg ≤ 40 ∧ i < 2 ^ lg then some (bits p.hostWin 0 40 * 4096 + i)
    else none

/-! ### Uncorrectable places (R394) -/

/-- Whether some byte of [pa, pa + size) lies in an uncorrectable DRAM word or a lost L2 line. -/
def badMem (s : State) (pa size : Nat) : Bool :=
  s.bad.any (fun b =>
    match b with
    | .dram w => decide (w / 8 * 8 < pa + size ∧ pa < w / 8 * 8 + 8)
    | .lostLine l => decide (l / 64 * 64 < pa + size ∧ pa < l / 64 * 64 + 64)
    | _ => false)

/-- Whether the place of a core is uncorrectable. -/
def badPlace (s : State) (b : BadPlace) : Bool := s.bad.contains b

/-! ### The pit log (R391) -/

/-- Device time (R42): 100 MHz against 2.0 GHz core cycles (R2). -/
def deviceTime (s : State) : Nat := s.clock / 20

/-- The state with an event appended to the log of die `die`; the oldest record is overwritten. -/
def logPit (s : State) (die source unit code detail : Nat) : State :=
  match s.pits[die]? with
  | none => s
  | some p =>
    let r : PitRecord := ⟨p.seq, deviceTime s, source, unit, code, detail⟩
    { s with pits := s.pits.setIfInBounds die ⟨p.seq + 1, (r :: p.records).take 4096⟩ }

/-! ### Performing writes at the home (R97, R113) -/

/-- The 8-byte word at `pa`. -/
def word8 (s : State) (pa : Nat) : Word := word (sgetBytes s.mem (pa / 8 * 8) 8)

/-- A wake sent for the husk that holds the parked slot of a subscriber (R226, R314). -/
def wakeFor (who : Subscriber) (k : Husk) : Husk :=
  match who with
  | .slot core _ part launch gang =>
    if k.part = part ∧ k.image.core = core ∧ k.parked.isSome ∧
        (k.image.owner.map (fun o => (o.launch, o.gang))) = some (launch, gang) then
      { k with woken := true }
    else k
  | .dependence .. => k

/-- One subscription's part in a write of (v, q): kept as the latest while parked, else a push (R221, R226), of class 0
until the writer's class is given to it (log 36). -/
def stampSub (pa : Nat) (v : Word) (q : BitVec 32) (b : Sub) : Sub × List Push :=
  if b.parked then ({ b with latest := some (v, q) }, [])
  else ({ b with sent := b.sent + 1 }, [⟨0, 0, pa, b.who, v, q, .mesh, 0⟩])

/-- Pushes that leave now, numbered from `n` on. -/
def numberPushes (n now : Nat) (ps : List Push) : List Push :=
  match ps with
  | [] => []
  | p :: rest => { p with id := n, since := now } :: numberPushes (n + 1) now rest

/-- The next sequence number and the pushes of a write to the word at `pa`, if it is subscribed (R113). -/
def sequenceWord (s : State) (pa : Nat) : State :=
  match s.directory.find? (fun d => d.pa == pa / 8 * 8) with
  | none => s
  | some d =>
    let q := d.seq + 1
    let v := word8 s pa
    let stamped := d.subs.map (stampSub d.pa v q)
    let d' : DirEntry := { d with seq := q, subs := stamped.map (·.1) }
    let woken := d.subs.filter (fun b => b.parked && b.latest.isNone)
    let sent := (stamped.map (·.2)).flatten
    { s with
      directory := s.directory.map (fun e => if e.pa = d.pa then d' else e)
      pushes := s.pushes ++ numberPushes s.serial s.clock sent
      serial := s.serial + sent.length
      husks := s.husks.map (fun k => woken.foldl (fun k b => wakeFor b.who k) k) }

/-- A write of a mailbox's NOTIFY word raises an interrupt, which merges with one not yet sent for the same
vector (R376); a MBOXADDR of 0 is no mailbox (log 41). -/
def notifyWord (s : State) (pa : Nat) : State :=
  match (List.range 16).find? (fun p =>
      match s.parts[p]? with
      | some b => b.active != 0 && b.mboxAddr != 0 && decide (pa / 8 * 8 = b.mboxAddr.toNat + 8)
      | none => false) with
  | none => s
  | some p =>
    let vec := 32 * p + bits (word8 s pa) 0 5
    if s.msix.contains vec then s else { s with msix := s.msix ++ [vec] }

/-- Bytes written at their home by an agent, within one 8-byte word.  Dirty copies of the line that other
harts hold are written back, since the home already answers with them (R93): they stop hiding the word from
their hart's vector unit.  `keep` is the core whose own dirty bytes stay dirty.  A copy that the host holds is to be
back-invalidated (R94). -/
def writeHome (s : State) (keep : Option Nat) (pa size v : Nat) : State :=
  let s1 := { s with
    mem := ssetBytes s.mem pa size v
    dirty := s.dirty.filter (fun b => decide (b.pa / 64 ≠ pa / 64) || some b.core == keep)
    hostLines := s.hostLines.map (fun x => if x.1 = pa / 64 then (x.1, true) else x) }
  notifyWord (sequenceWord s1 pa) pa

/-- Bytes written at their homes, split at 8-byte words, which have their orders one by one (R96, R97). -/
def writeChunks (s : State) (keep : Option Nat) (pa : Nat) (bs : List Byte) (fuel : Nat) : State :=
  match fuel with
  | 0 => s
  | fuel + 1 =>
    if bs.isEmpty then s
    else
      let n := 8 - pa % 8
      let chunk := bs.take n
      writeChunks (writeHome s keep pa chunk.length (bytesNat chunk)) keep (pa + n) (bs.drop n) fuel

/-- Bytes written at their homes. -/
def writeBytes (s : State) (keep : Option Nat) (pa : Nat) (bs : List Byte) : State :=
  writeChunks s keep pa bs bs.length

/-- The pushes that a write caused carry its QoS class (R369): those in `t` that were not yet in flight before it. -/
def classPushes (before : Nat) (qos : Nat) (t : State) : State :=
  { t with pushes := t.pushes.take before ++ (t.pushes.drop before).map (fun p => { p with qos := qos }) }

/-- The QoS class of a hart's requests: its launch's current class (R310, R369). -/
def classOfHart (s : State) (h : Hart) : Nat :=
  match h.owner with
  | some o =>
    ((s.launches.find? (fun l => l.part == o.part && l.id == o.launch)).map (·.current)).getD o.cls
  | none => 0

/-- `n` bytes as their homes hold them. -/
def readBytes (s : State) (pa n : Nat) : List Byte := (List.range n).map (fun i => sget s.mem (pa + i))

/-! ### Accounts (R382 to R385) -/

/-- The banks of a core that are enabled: some select has an event (R382). -/
def enabledBanks (h : Hart) : List Nat :=
  (List.range 4).filter (fun b =>
    match h.banks[b]? with
    | some k => (List.range 6).any (fun n => bits (k.selects[n]?.getD 0) 0 8 != 0)
    | none => false)

/-- The banks that count now (R385): all with at most two enabled, else two by the quantum. -/
def countingBanks (h : Hart) : List Nat :=
  let e := enabledBanks h
  let k := e.length
  if k ≤ 2 then e
  else (e[2 * h.quantum % k]?).toList ++ (e[(2 * h.quantum + 1) % k]?).toList

/-- The quantum after a boundary that has come: 1,048,576 cycles with more than two banks enabled (R385). -/
def atQuantum (h : Hart) (now : Nat) : Hart :=
  if 2 < (enabledBanks h).length ∧ h.quantumStart + 1048576 ≤ now then
    { h with quantum := h.quantum + 1, quantumStart := h.quantumStart + 1048576 }
  else h

/-- The quantum restarts when the set of enabled banks has changed (R385). -/
def restartQuantum (old new : Hart) (now : Nat) : Hart :=
  if enabledBanks old = enabledBanks new then new else { new with quantum := 0, quantumStart := now }

/-- A bank with `n` events of a kind counted; `cluster` is the lane cluster for events marked L, and 8 for
those that belong to none (R382, R383). -/
def countBank (b : Bank) (event cluster n : Nat) : Bank :=
  { b with counts := Vector.ofFn (fun (i : Fin 8) =>
      let sel := b.selects[i.val]?.getD 0
      if i.val < 6 ∧ bits sel 0 8 = event ∧ (cluster = 8 ∨ bits sel 8 4 = 8 ∨ bits sel 8 4 = cluster) then
        b.counts[i] + word n
      else b.counts[i]) }

/-- A hart's core with events counted in the banks that count (R382). -/
def countHart (h : Hart) (event cluster n : Nat) : Hart :=
  if (enabledBanks h).isEmpty then h
  else { h with banks := Vector.ofFn (fun (i : Fin 4) =>
      if (countingBanks h).contains i.val then countBank h.banks[i] event cluster n else h.banks[i]) }

end Sys2Proof.Machine
end

