-- ==== Sys2Proof/Machine/Translate.lean ====
section
/-! DEFINITION. Address translation (R329 to R333): the two-stage walk, the cached translations, permissions, and
the A and D bits. -/

namespace Sys2Proof.Machine

/-- What an access wants of a page. -/
inductive Access where
  | read | write | exec
  deriving DecidableEq, Repr

/-- The outcome of a translation: a physical address; a non-resident page, with whether stage 2 misses; or a
refusal by its cause, with whether stage 2 refuses. -/
inductive Xlat where
  | ok (pa : Nat)
  | missing (stage2 : Bool)
  | denied (cause : Nat) (stage2 : Bool)
  deriving DecidableEq, Repr

/-- A leaf found by a walk: the entry, where it lies, the page's size and physical address. -/
structure Leaf where
  entry : Word
  at_ : Nat
  size : Nat
  pa : Nat
  deriving DecidableEq, Repr

/-- An entry that is valid as such: V set and the reserved bits clear (R330). -/
def entryValid (e : Word) : Bool := bits e 0 1 == 1 && bits e 2 2 == 0 && bits e 53 1 == 0

/-- The physical address field of an entry. -/
def entryPa (e : Word) : Nat := 4096 * bits e 12 40

/-- A leaf entry as a page of the given size, when its address is aligned to it (R330). -/
def leafPage (e : Word) (ea size : Nat) : Option Leaf :=
  if entryValid e && bits e 1 1 == 1 && entryPa e % size == 0 then some ⟨e, ea, size, entryPa e⟩ else none

/-- What a walk finds of an entry or a leaf, or why it does not. -/
abbrev Found (α : Type) := α ⊕ Xlat

/-- A leaf, or a page that is not resident. -/
def leafOr (l : Option Leaf) : Found Leaf :=
  match l with
  | some l => .inl l
  | none => .inr (.missing false)

/-- The index of the group entry of a contiguous page (R330); elsewhere the entry's own. -/
def groupIndex (level i : Nat) : Nat := if level = 1 then i / 32 * 32 else if level = 3 then i / 16 * 16 else i

/-- The size of a page at a level: single, or contiguous (R329, R330). -/
def levelSize (level : Nat) (group : Bool) : Nat :=
  if level = 1 then (if group then 2 ^ 35 else 2 ^ 30)
  else if level = 2 then 2 ^ 21
  else if group then 2 ^ 16 else 2 ^ 12

/-- A valid leaf with C at a level where C counts (R330). -/
def contiguous (level : Nat) (e : Word) : Bool :=
  (level == 1 || level == 3) && entryValid e && bits e 1 1 == 1 && bits e 11 1 == 1

/-- A walk from table `t` down the levels still to do, first level first (R329).  `rd` reads an entry.  A group entry
with C is the only one that is read of its contiguous page (R330). -/
def walk (rd : Nat → Found Word) (t va level : Nat) (todo : Nat) : Found Leaf :=
  match todo with
  | 0 => .inr (.missing false)
  | todo + 1 =>
    let i := va / 2 ^ (39 - 9 * level) % 512
    let g := groupIndex level i
    match rd (t + 8 * g) with
    | .inr x => .inr x
    | .inl ge =>
      if contiguous level ge then leafOr (leafPage ge (t + 8 * g) (levelSize level true))
      else
        match rd (t + 8 * i) with
        | .inr x => .inr x
        | .inl e =>
          if !entryValid e then .inr (.missing false)
          else if bits e 1 1 = 0 then walk rd (entryPa e) va (level + 1) todo
          else if level = 0 then .inr (.missing false)
          else if contiguous level e then leafOr (leafPage ge (t + 8 * g) (levelSize level true))
          else leafOr (leafPage e (t + 8 * i) (levelSize level false))

/-- The 8-byte entry at a local place; an uncorrectable one is met as a read of DRAM is (R394). -/
def readWord (s : State) (pa : Nat) (stage2 : Bool) : Found Word :=
  if badMem s pa 8 then .inr (.denied 0x0B stage2) else .inl (word8 s pa)

/-- Whether a partition runs under a hypervisor, so that its physical addresses come of stage 2 (R331). -/
def hasStage2 (s : State) (part : Nat) : Bool := ((s.parts[part]?).bind (·.stage2)).isSome

/-- A table entry read at its home, which checks the owner as on every access (R356); `stage2` where it is an entry of stage 2,
or its address comes of it. -/
def readEntry (s : State) (part pa : Nat) (stage2 : Bool) : Found Word :=
  match refusal s part pa with
  | some c => .inr (.denied c stage2)
  | none => readWord s pa stage2

/-- A fault of stage 2 says so (R331). -/
def inStage2 (x : Xlat) : Xlat :=
  match x with
  | .ok pa => .ok pa
  | .missing _ => .missing true
  | .denied c _ => .denied c true

/-- The stage-2 leaf of an intermediate physical address (R331). -/
def walk2 (s : State) (part root ipa : Nat) : Found Leaf :=
  match walk (fun pa => readEntry s part pa true) root ipa 0 4 with
  | .inl l => .inl l
  | .inr x => .inr (inStage2 x)

/-- A cached translation of an address of a stage among some entries. -/
def findStage (es : List TlbEntry) (stage part a : Nat) : Option TlbEntry :=
  es.find? (fun e => e.part == part && e.stage == stage && decide (e.page ≤ a) && decide (a < e.page + e.size))

/-- A cached translation of `va` among some entries. -/
def findEntry (es : List TlbEntry) (part va : Nat) : Option TlbEntry := findStage es 1 part va

/-- The entries that a core sees: its own TLB's, then its die's (R333). -/
def seenBy (s : State) (core : Nat) : List TlbEntry :=
  (hartAt s core).tlb ++ (s.dieTlb.filter (fun x => x.1 == dieOfCore core)).map (·.2)

/-- The stage-2 translation of an intermediate address for a core: cached, or walked afresh. -/
def stage2Of (s : State) (core part root ipa : Nat) : Found TlbEntry :=
  match findStage (seenBy s core) 2 part ipa with
  | some e => .inl e
  | none =>
    match walk2 s part root ipa with
    | .inr x => .inr x
    | .inl l => .inl ⟨part, 2, ipa / l.size * l.size, l.size, ipa / l.size * l.size, l.pa, bits l.entry 4 4, false,
        [(l.at_, true)], (l.size, l.size)⟩

/-- Where an intermediate address of stage 1 lies, for a read (R331). -/
def homeOfIpa (s : State) (core : Nat) (part : Nat) (p : Partition) (ipa : Nat) : Found Nat :=
  match p.stage2 with
  | none => .inl ipa
  | some root =>
    match stage2Of s core part root ipa with
    | .inr x => .inr x
    | .inl e => if e.perms.testBit 0 then .inl (e.pa + ipa % e.size) else .inr (.denied 0x09 true)

/-- Where the stage-2 leaf lies that maps an intermediate address of a stage-1 table. -/
def leafOfIpa (s : State) (core part root ipa : Nat) : List (Nat × Bool) :=
  match stage2Of s core part root ipa with
  | .inl e => e.entries
  | .inr _ => []

/-- A stage-1 table entry of a partition, its address translated by stage 2 where there is one. -/
def readEntry1 (s : State) (core part : Nat) (p : Partition) (ipa : Nat) : Found Word :=
  match homeOfIpa s core part p ipa with
  | .inr x => .inr x
  | .inl pa => readEntry s part pa p.stage2.isSome

/-- The permissions R, W, X and S of an entry as four bits. -/
def permBits (e : Word) : Nat := bits e 4 4

/-- Whether the permissions allow the access, S counting only where `checkS` (R330, R331). -/
def permits (perms : Nat) (a : Access) (super checkS : Bool) : Bool :=
  (match a with
    | .read => perms.testBit 0
    | .write => perms.testBit 1
    | .exec => perms.testBit 2) && (super || !checkS || !perms.testBit 3)

/-- The root of stage 1 (R307). -/
def root1 (s : State) (p : Partition) : Nat := (word8 s (p.pcpAddr.toNat + 0x10)).toNat

/-- Whether a leaf makes its page compute-capable (R330, R346): a pinned 2 MiB leaf with CC. -/
def leafCompute (l : Leaf) : Bool := l.size == 2 ^ 21 && bits l.entry 52 1 == 1 && bits l.entry 10 1 == 1

/-- The translation that a fresh walk gives for the page of `va`, with the stage-2 translation it came by; or why there is
none.  A compute-capable page is one local frame (R346).  Before the entry of stage 1 stands the leaf of stage 2 that maps it,
after it those that map the page. -/
def walkBoth (s : State) (core part va : Nat) : Found (TlbEntry × Option TlbEntry) :=
  match s.parts[part]? with
  | none => .inr (.missing false)
  | some p =>
    match walk (readEntry1 s core part p) (root1 s p) va 0 4 with
    | .inr x => .inr x
    | .inl l1 =>
      match p.stage2 with
      | none =>
        .inl (⟨part, 1, va / l1.size * l1.size, l1.size, l1.pa, l1.pa, permBits l1.entry + 16 * 7,
          leafCompute l1 && decide (l1.pa < localBytes s), [(l1.at_, false)], (l1.size, l1.size)⟩, none)
      | some root =>
        let ipa := l1.pa + va % l1.size
        match stage2Of s core part root ipa, homeOfIpa s core part p l1.at_, leafOfIpa s core part root l1.at_ with
        | .inr x, _, _ => .inr x
        | _, .inr x, _ => .inr x
        | .inl e2, .inl home, own =>
          let size := min l1.size e2.size
          let pa := e2.pa + (ipa / size * size) % e2.size
          .inl (⟨part, 1, va / size * size, size, ipa / size * size, pa, permBits l1.entry + 16 * e2.perms,
            leafCompute l1 && decide (size = 2 ^ 21) && decide (pa < localBytes s), own ++ (home, false) :: e2.entries,
            (l1.size, e2.size)⟩, some e2)

/-- The translation that a fresh walk gives for the page of `va`, or why there is none. -/
def walkPage (s : State) (core part va : Nat) : Found TlbEntry :=
  match walkBoth s core part va with
  | .inl e => .inl e.1
  | .inr x => .inr x

/-- How many entries of a page-size class a die's last-level TLB holds (R333). -/
def classEntries (size : Nat) : Nat :=
  if size ≤ 2 ^ 16 then 3072 else if size = 2 ^ 21 then 768 else if size = 2 ^ 30 then 244 else 12

/-- The class of a page size (R333). -/
def classOf (size : Nat) : Nat :=
  if size ≤ 2 ^ 16 then 0 else if size = 2 ^ 21 then 1 else if size = 2 ^ 30 then 2 else 3

/-- The last-level TLBs with one more entry for a die, the oldest of its class making room (log 11). -/
def addDie (l : List (Nat × TlbEntry)) (die : Nat) (e : TlbEntry) : List (Nat × TlbEntry) :=
  let same := l.filter (fun x => x.1 == die && classOf x.2.size == classOf e.size)
  let rest := l.filter (fun x => !(x.1 == die && classOf x.2.size == classOf e.size))
  (die, e) :: same.take (classEntries e.size - 1) ++ rest

/-- A translation that a walk found, cached in the core's TLB and its die's. -/
def cacheEntry (s : State) (core : Nat) (e : TlbEntry) : State :=
  { onCore s core (fun h => { h with tlb := (e :: h.tlb).take 64 }) with
    dieTlb := addDie s.dieTlb (dieOfCore core) e }

/-- The A bit, and for a write the D bit, set in one table entry, and whether that changed it; its home checks its owner (R330,
R356). -/
def markEntry (s : State) (part pa : Nat) (wr : Bool) : Bool × State :=
  let e := word8 s pa
  let e' := e ||| (if wr then 0x300#64 else 0x100#64)
  if e' = e || !entryValid e || (refusal s part pa).isSome then (false, s)
  else (true, writeHome s none (pa / 8 * 8) 8 e'.toNat)

/-- The A bit, and for a write the D bit, set at the entries of a translation (R330): first the leaf of stage 2 that maps the
entry of stage 1, which is written where that entry is (R331), then the entry, then the leaves that map the page. -/
def markUsed (s : State) (part : Nat) (entries : List (Nat × Bool)) (wr : Bool) : State :=
  match entries with
  | [] => s
  | (own, true) :: (e, false) :: rest =>
    let r := markEntry s part e wr
    markUsed (if r.1 then (markEntry r.2 part own true).2 else r.2) part rest wr
  | x :: rest => markUsed (markEntry s part x.1 wr).2 part rest wr

/-- The addresses of the entries that a walk reads (R329, R330). -/
def walkReads (rd : Nat → Found Word) (t va level : Nat) (todo : Nat) : List Nat :=
  match todo with
  | 0 => []
  | todo + 1 =>
    let i := va / 2 ^ (39 - 9 * level) % 512
    let g := groupIndex level i
    (t + 8 * g) :: (match rd (t + 8 * g) with
      | .inr _ => []
      | .inl ge =>
        if contiguous level ge then []
        else
          (t + 8 * i) :: (match rd (t + 8 * i) with
            | .inl e => if entryValid e && bits e 1 1 == 0 then walkReads rd (entryPa e) va (level + 1) todo else []
            | .inr _ => []))

/-- A walk of stage 1 reads its tables through stage 2, which sets A in the leaves that map them (R330, R331). -/
def markTables (s : State) (core part va : Nat) : State :=
  match s.parts[part]? with
  | none => s
  | some p =>
    match p.stage2 with
    | none => s
    | some root =>
      let leaves := (walkReads (readEntry1 s core part p) (root1 s p) va 0 4).flatMap (leafOfIpa s core part root)
      (leaves.map (·.1)).eraseDups.foldl (fun s x => (markEntry s part x false).2) s

/-- The translation a hart uses: cached in its core's TLB, whose misses are counted (R384), in its die's, or walked
afresh and then cached in both (R333).  A page that is not resident is never cached (R330). -/
def lookup (s : State) (core part va : Nat) : Found TlbEntry × State :=
  match findEntry (hartAt s core).tlb part va with
  | some e => (.inl e, s)
  | none =>
    let die := dieOfCore core
    let s1 := onCore s core (fun h => countHart h 0x0E 8 1)
    match findEntry ((s.dieTlb.filter (fun x => x.1 == die)).map (·.2)) part va with
    | some e => (.inl e, onCore s1 core (fun h => { h with tlb := (e :: h.tlb).take 64 }))
    | none =>
      let s2 := markTables s1 core part va
      match walkBoth s core part va with
      | .inr x => (.inr x, s2)
      | .inl e =>
        match e.2 with
        | some e2 => (.inl e.1, cacheEntry (cacheEntry s2 core e2) core e.1)
        | none => (.inl e.1, cacheEntry s2 core e.1)

/-- Whether a device may write the byte: of a partition control page only ROOT1 and SVEC (R307). -/
def byteWritable (s : State) (part pa : Nat) : Bool :=
  match s.parts[part]? with
  | none => true
  | some p =>
    let o := pa - p.pcpAddr.toNat
    !(p.active != 0 && decide (p.pcpAddr.toNat ≤ pa ∧ o < 0x8000)) || decide (o / 8 = 2 ∨ o / 8 = 5)

/-- Whether a device may write every one of `size` bytes from `pa` on, which span at most two 8-byte words (R307). -/
def pcpWritable (s : State) (part pa size : Nat) : Bool :=
  byteWritable s part pa && byteWritable s part (pa + size - 1)

/-- The address of an access translated, its permissions checked (R330, R331): the physical address, whatever lies
there, with the entries whose A and D bits the access sets. `super` is whether device supervisor code asks. -/
def permitted (s : State) (core part : Nat) (super : Bool) (va : Word) (a : Access) :
    (Xlat × List (Nat × Bool)) × State :=
  if bits va 48 16 ≠ 0 then ((.denied 0x09 false, []), s)
  else
    let r := lookup s core part va.toNat
    match r.1 with
    | .inr x => ((x, []), r.2)
    | .inl e =>
      if !permits (e.perms % 16) a super true then ((.denied 0x09 false, []), r.2)
      else if !permits (e.perms / 16) a true false then ((.denied 0x09 true, []), r.2)
      else ((.ok (e.pa + va.toNat % e.size), e.entries), r.2)

/-- Translation of one address for an access of `size` bytes (R161, R213, R330, R338, R356): the cause where it is
refused, and the state with what translation leaves behind.  Where stage 2 leads to memory that refuses the access, that is a
fault of stage 2 (R331, log 33). -/
def probe (s : State) (core part : Nat) (super : Bool) (va : Word) (size : Nat) (a : Access) :
    (Xlat × List (Nat × Bool)) × State :=
  let r := permitted s core part super va a
  match r.1.1 with
  | .ok pa =>
    (match refusal s part pa with
      | some c => ((.denied c (hasStage2 s part), []), r.2)
      | none => if a == .write && !pcpWritable s part pa size then ((.denied 0x09 false, []), r.2) else r)
  | _ => r

/-- Translation for an access that is performed: A is set, and D where the access is a write that is performed at once
(R330). -/
def translate (s : State) (core part : Nat) (super : Bool) (va : Word) (size : Nat) (a : Access) :
    (Xlat × List (Nat × Bool)) × State :=
  let r := probe s core part super va size a
  (r.1, markUsed r.2 part r.1.2 false)

end Sys2Proof.Machine
end

