-- ==== Sys2Proof/Machine/Ops.lean ====
section
/-! DEFINITION. The named operations over registers and memory that every meaning is built from: registers and
status, the store buffer and packets, fault records and page-fault batches, ending a launch, taking a trap
and returning from one. -/

namespace Sys2Proof.Machine

/-- How every operation answers. -/
abbrev Out := Host.Outcome State Fault Refusal

/-! ### Registers and status -/

/-- Firmware runs: it is started by step 4 of secure start and ready in state 5 (R378, R379). -/
def firmwareRuns (s : State) : Bool := s.bootst == 5

/-- What firmware does, where it runs (R379). -/
def byFirmware (s t : State) : Out := .next (if firmwareRuns s then t else s)

/-- A scalar register; s0 reads as zero (R41). -/
def getReg (s : State) (r : SReg) : Word := if r = 0 then 0 else s.hart.regs[r]

/-- A scalar register written; a write to s0 is discarded (R41, R148). -/
def setReg (s : State) (r : SReg) (v : Word) : State :=
  if r = 0 then s else { s with hart := { s.hart with regs := s.hart.regs.set r v } }

/-- The program counter set. -/
def setPc (s : State) (pc : Word) : State := { s with hart := { s.hart with pc := pc } }

/-- The hart cannot go on yet: the step lets something else happen and comes back (log 4). -/
def stall (s : State) : State := { s with hart := { s.hart with stalled := true } }

/-- An address as the program counter holds it, a multiple of 4 (R127): the low bits of what a handler wrote into a register
are not part of it (log 16). -/
def alignPc (v : Word) : Word := v &&& ~~~ 3#64

/-- The program counter moved past the instruction (R127). -/
def advance (s : State) : State := setPc s (s.hart.pc + 4)

/-- The CSRs changed. -/
def setCsr (s : State) (f : Csr → Csr) : State := { s with hart := { s.hart with csr := f s.hart.csr } }

/-- The mode of a hart (R321): 0 kernel, 1 supervisor, 2 hypervisor. -/
def modeOf (h : Hart) : Nat := bits h.csr.status 0 2

/-- Device supervisor code runs (R321): supervisor or hypervisor mode. -/
def supervisor (h : Hart) : Bool := modeOf h != 0

/-- A trap has been entered and not yet left (R321). -/
def nested (h : Hart) : Bool := bits h.csr.status 5 1 == 1

/-- The partition of a hart; a core that runs nothing belongs to none, and partition 0 stands for that. -/
def partOf (h : Hart) : Nat := (h.owner.map (·.part)).getD 0

/-- The launch identifier of a hart (R308). -/
def launchOf (h : Hart) : Nat := (h.owner.map (·.launch)).getD 0

/-- The gang of a hart within its launch (R38). -/
def gangOf (h : Hart) : Nat := (h.owner.map (·.gang)).getD 0

/-- The gang size of a hart (R38). -/
def gangSize (h : Hart) : Nat := (h.owner.map (·.size)).getD 1

/-- The member index of a hart (R38). -/
def memberOf (h : Hart) : Nat := (h.owner.map (·.member)).getD 0

/-- The leader's core (R38). -/
def leaderOf (h : Hart) : Nat := (h.owner.map (·.leader)).getD h.core

/-- The harts of the acting hart's gang, in member order (R38). -/
def gangMembers (s : State) : List Hart :=
  (List.range (gangSize s.hart)).filterMap (fun m =>
    s.harts.find? (fun h => match h.owner, s.hart.owner with
      | some o, some p => o.part == p.part && o.launch == p.launch && o.gang == p.gang && o.member == m
      | none, none => h.core == s.hart.core && m == 0
      | _, _ => false))

/-- The event latch of a hart set (R169): STATUS bit 6. -/
def latchHart (h : Hart) : Hart := { h with csr := { h.csr with status := setBits h.csr.status 6 1 1 } }

/-- The length of a vector instruction: VL, or MVL in matrix mode (R25, R174). -/
def lengthOf (h : Hart) : Nat := if h.vec.matrix then h.csr.mvl.toNat else h.csr.vl.toNat

/-! ### Standing slots (R56 to R58) -/

/-- The scratchpad offset of slot `n` (R56). -/
def slotOffset (h : Hart) (n : Nat) : Nat := h.csr.slbase.toNat - 0x100000 + 16 * n

/-- The STATE byte of a slot (R57). -/
def slotState (h : Hart) (n : Nat) : Nat := (sget h.spad (slotOffset h n + 14)).toNat

/-- Whether a `STAND` is outstanding on the slot (R397). -/
def standOutstanding (s : State) (core n : Nat) : Bool :=
  s.stands.any (fun a => a.core == core && a.slot == n)

/-- Whether a slot is ARMED, DRAINING or PARKED, or counts as ARMED (R58, R397). -/
def slotBusy (s : State) (h : Hart) (n : Nat) : Bool :=
  let st := slotState h n
  st == 1 || st == 2 || st == 4 || standOutstanding s h.core n

/-- Whether bytes of the scratchpad, from offset `o`, touch a busy slot (R58). -/
def touchesBusySlot (s : State) (h : Hart) (o size : Nat) : Bool :=
  let base := slotOffset h 0
  (List.range (size / 16 + 2)).any (fun i =>
    let b := o / 16 * 16 + 16 * i
    decide (b < o + size ∧ base ≤ b ∧ b < base + 16384) && slotBusy s h ((b - base) / 16))

/-- The fields of a slot written (R57). -/
def writeSlot (h : Hart) (n : Nat) (value : Word) (seq : BitVec 32) (ovr st flags : Nat) : Hart :=
  let o := slotOffset h n
  let v := value.toNat + 2 ^ 64 * seq.toNat + 2 ^ 96 * (ovr % 2 ^ 16) + 2 ^ 112 * st + 2 ^ 120 * flags
  { h with spad := ssetBytes h.spad o 16 v }

/-- A slot's VALUE. -/
def slotValue (h : Hart) (n : Nat) : Word := word (sgetBytes h.spad (slotOffset h n) 8)
/-- A slot's SEQ. -/
def slotSeq (h : Hart) (n : Nat) : BitVec 32 := BitVec.ofNat 32 (sgetBytes h.spad (slotOffset h n + 8) 4)
/-- A slot's OVR. -/
def slotOvr (h : Hart) (n : Nat) : Nat := sgetBytes h.spad (slotOffset h n + 12) 2
/-- A slot's FLAGS. -/
def slotFlags (h : Hart) (n : Nat) : Nat := sgetBytes h.spad (slotOffset h n + 15) 1

/-- A slot with only its STATE changed. -/
def setSlotState (h : Hart) (n st : Nat) : Hart :=
  { h with spad := sset h.spad (slotOffset h n + 14) (BitVec.ofNat 8 st) }

/-! ### Places of this hart -/

/-- The byte at a place, as its slice holds it. -/
def byteAt (s : State) (h : Hart) (p : Place) : Byte :=
  match p with
  | .sdm o => sget h.sdm o
  | .spad o => sget h.spad o
  | .phys pa => sget s.mem pa

/-- The place `i` bytes on. -/
def Place.plus (p : Place) (i : Nat) : Place :=
  match p with
  | .sdm o => .sdm (o + i)
  | .spad o => .spad (o + i)
  | .phys pa => .phys (pa + i)

/-- Whether a store covers the byte, and the byte it holds for it. -/
def storeByte (st : Store) (p : Place) : Option Byte :=
  let d : Option Nat := match st.place, p with
    | .sdm a, .sdm b => if a ≤ b then some (b - a) else none
    | .spad a, .spad b => if a ≤ b then some (b - a) else none
    | .phys a, .phys b => if a ≤ b then some (b - a) else none
    | _, _ => none
  match d with
  | some i => if i < st.size then some (BitVec.ofNat 8 (st.data.toNat / 256 ^ i)) else none
  | none => none

/-- The byte a scalar load of the hart sees: the youngest buffered store's, else the slice's (R93, R105). -/
def scalarByte (s : State) (h : Hart) (p : Place) : Byte :=
  match h.buffer.reverse.findSome? (fun st => storeByte st p) with
  | some b => b
  | none => byteAt s h p

/-- The byte that a load issued when the module's serial number was `n` sees: later stores of its hart are not for it
(R105). -/
def lateByte (s : State) (h : Hart) (n : Nat) (p : Place) : Byte :=
  scalarByte s { h with buffer := h.buffer.filter (fun st => decide (st.mark ≤ n)) } p

/-- `n` bytes as a scalar load sees them, little-endian (R8). -/
def scalarRead (s : State) (h : Hart) (p : Place) (n : Nat) : Nat :=
  bytesNat ((List.range n).map (fun i => scalarByte s h (p.plus i)))

/-- The byte that a vector load of the hart sees at its slice: before the hart's own scalar stores where the
L1 line is still dirty (R60). -/
def vectorByte (s : State) (h : Hart) (p : Place) : Byte :=
  match p with
  | .phys pa =>
    match s.dirty.find? (fun b => b.core == h.core && b.pa == pa) with
    | some b => b.old
    | none => sget s.mem pa
  | _ => byteAt s h p

/-- `n` bytes as a vector load sees them. -/
def vectorRead (s : State) (h : Hart) (p : Place) (n : Nat) : Nat :=
  bytesNat ((List.range n).map (fun i => vectorByte s h (p.plus i)))

/-- Whether some of `n` bytes at a place are uncorrectable (R394). -/
def badBytes (s : State) (h : Hart) (p : Place) (n : Nat) : Bool :=
  match p with
  | .phys pa => badMem s pa n
  | .sdm o => (List.range n).any (fun i => badPlace s (.sdm h.core ((o + i) / 8)))
  | .spad o => (List.range n).any (fun i => badPlace s (.spad h.core ((o + i) / 8)))

/-! ### Performing stores (R61, R93, R97) -/

/-- The dirty bytes a scalar store leaves in its hart's L1: each keeps the byte the hart's vector unit still
sees (R60). -/
def dirtyFor (s : State) (core pa size : Nat) : List DirtyByte :=
  (List.range size).filterMap (fun i =>
    if s.dirty.any (fun b => b.core == core && b.pa == pa + i) then none
    else some ⟨core, pa + i, sget s.mem (pa + i)⟩)

/-- The set of a line in the scalar L1 (R59). -/
def l1Set (pa : Nat) : Nat := pa / 64 % 64

/-- The dirty lines of a core in the set of an address, oldest first. -/
def dirtyLines (s : State) (core pa : Nat) : List Nat :=
  ((s.dirty.filter (fun b => b.core == core && l1Set b.pa == l1Set pa)).map (fun b => b.pa / 64)).eraseDups

/-- Room for a line in its set of 8 ways: where all hold other dirty lines, the oldest is written back (R59, log 9). -/
def roomInL1 (s : State) (core pa : Nat) : State :=
  let ls := dirtyLines s core pa
  if ls.contains (pa / 64) || decide (ls.length < 8) then s
  else
    match ls with
    | [] => s
    | l :: _ => { s with dirty := s.dirty.filter (fun b => !(b.core == core && b.pa / 64 == l)) }

/-- Whether a physical address lies in an operand row of a near-bank command, in either plane (R347, R359). -/
def NearCommand.covers (c : NearCommand) (pa : Nat) : Bool :=
  let o := (pa - c.page) % 2 ^ 20
  decide (c.page ≤ pa ∧ pa < c.page + 2 ^ 21 ∧ c.off ≤ o ∧ o < c.off + 1024 * c.rows)

/-- Whether a job of a stope engine keeps a line out of the caches: an operand row of its command (R359), or a line of
its loop's footprint (R350). -/
def StopeJob.covers (j : StopeJob) (pa : Nat) : Bool :=
  match j with
  | .near c => c.covers pa
  | .replay _ lo len => decide (lo / 64 ≤ pa / 64 ∧ pa / 64 * 64 < lo + len)

/-- Whether a line is in no cache: a stope engine's job keeps it out. -/
def uncached (s : State) (pa : Nat) : Bool := s.hbm.any (fun k => k.stopes.any (fun e => e.job.covers pa))

/-- The 8-byte word of a place. -/
def Place.word8 (p : Place) : Place :=
  match p with
  | .sdm o => .sdm (o / 8)
  | .spad o => .spad (o / 8)
  | .phys pa => .phys (pa / 8)

/-- What a running copy has replaced at a place, as core `core` may still read it (R112). -/
def oldAt (s : State) (core : Nat) (p : Place) : Option OldWord :=
  s.olds.find? (fun x => x.place.word8 == p.word8 && (match p with
    | .phys _ => true
    | _ => x.core == core))

/-- The byte at a place of such a word. -/
def OldWord.byte (x : OldWord) (p : Place) : Byte :=
  let o := match p with
    | .sdm o => o
    | .spad o => o
    | .phys pa => pa
  BitVec.ofNat 8 (x.value / 256 ^ (o % 8))

/-- No read returns a word's value from before a copy any more, once an access of core `core` has reached the value that the
copy wrote, or a later one (R97, R105, R112). -/
def dropOlds (s : State) (core : Nat) (p : Place) : State :=
  if s.olds.isEmpty then s
  else
    { s with olds := s.olds.filter (fun x =>
      !(x.place.word8 == p.word8 && (match p with
        | .phys _ => true
        | _ => x.core == core))) }

/-- A scalar store of a core performed at device scope (R93) or at its local memory.  It sets the D bits of its
translation (R330, R335), and its pushes carry its hart's class (R369).  In the footprint of a near-bank command or a
replay no line stays in the L1 (R350, R359). -/
def performStore (s : State) (core : Nat) (st : Store) : State :=
  let s := dropOlds s core st.place
  match st.place with
  | .sdm o => onCore s core (fun h => { h with sdm := ssetBytes h.sdm o st.size st.data.toNat })
  | .spad o => onCore s core (fun h => { h with spad := ssetBytes h.spad o st.size st.data.toNat })
  | .phys pa =>
    let h := hartAt s core
    let s0 := markUsed s (partOf h) st.entries true
    let s1 := if uncached s0 pa then s0
      else let s2 := roomInL1 s0 core pa; { s2 with dirty := s2.dirty ++ dirtyFor s2 core pa st.size }
    classPushes s1.pushes.length (classOfHart s1 h) (writeHome s1 (some core) pa st.size st.data.toNat)

/-- Old bytes with the written bits of a packet replaced (R85). -/
def mergeBits (size old data mask : Nat) : Nat :=
  let full := 2 ^ (8 * size) - 1
  (old &&& (full - (mask &&& full))) ||| (data &&& mask)

/-- Some bytes of a vector store element written where they lie: its hart's L1 loses them (R61). -/
def placeBytes (s : State) (core qos : Nat) (p : Place) (size data mask : Nat) : State :=
  let s := dropOlds s core p
  match p with
  | .sdm o => onCore s core (fun h => { h with
      sdm := ssetBytes h.sdm o size (mergeBits size (sgetBytes h.sdm o size) data mask) })
  | .spad o => onCore s core (fun h => { h with
      spad := ssetBytes h.spad o size (mergeBits size (sgetBytes h.spad o size) data mask) })
  | .phys pa =>
    let v := mergeBits size (sgetBytes s.mem pa size) data mask
    let s1 := classPushes s.pushes.length qos (writeBytes s (some core) pa (natBytes size v))
    { s1 with dirty := s1.dirty.filter (fun b => !(b.core == core && decide (pa ≤ b.pa ∧ b.pa < pa + size))) }

/-- A vector store element performed at its slice; one whose second byte lies on another page in one step all the same
(R96). -/
def performPacket (s : State) (p : Packet) : State :=
  let s := { s with
    packets := s.packets.filter (fun q => q.id != p.id), suspects := s.suspects.filter (fun x => x.2 != p.id) }
  let s := markUsed s (partOf (hartAt s p.core)) p.entries true
  match p.second with
  | none => placeBytes s p.core p.qos p.place p.size p.data p.mask
  | some q =>
    placeBytes (placeBytes s p.core p.qos p.place 1 (p.data % 256) (p.mask % 256)) p.core p.qos q 1 (p.data / 256)
      (p.mask / 256)

/-- The slice of a place (R91), as one number per kind. -/
def sliceOf (p : Place) : Nat :=
  match p with
  | .sdm _ => 2 ^ 20
  | .spad o => 2 ^ 21 + o / 4 % 64
  | .phys pa => homeOf pa

/-- The places of the bytes of a packet. -/
def Packet.places (p : Packet) : List Place :=
  (List.range p.size).map (fun i => match p.second with
    | some q => if i = 0 then p.place else q
    | none => p.place.plus i)

/-- Whether two sets of bytes meet in a slice, and in an 8-byte word. -/
def meet (a b : List Place) : Bool × Bool :=
  (a.any (fun x => b.any (fun y => sliceOf x == sliceOf y)), a.any (fun x => b.any (fun y => x.word8 == y.word8)))

/-- A packet to the scratchpad. -/
def Packet.inSpad (q : Packet) : Bool :=
  match q.place with
  | .spad _ => true
  | _ => false

/-- Whether packet `q` is performed before packet `p`: of one stream, earlier in program order and at a slice or a word of
it (R92, R95, R105); or of the same store, an element with a lower number at the same word (R99), or in the same group at the
same bank of the scratchpad (R47). -/
def Packet.precedes (q p : Packet) : Bool :=
  let m := meet q.places p.places
  q.core == p.core && decide (q.id < p.id) &&
    ((q.cluster == p.cluster && (m.1 || m.2)) ||
      (q.seq == p.seq && (m.2 || (m.1 && q.inSpad && q.group == p.group))))

/-- The packets that satisfy `f`, with those that are performed before them, in the order they were sent. -/
def withEarlier (ps : List Packet) (f : Packet → Bool) : List Packet :=
  ps.foldr (fun p acc => if f p || acc.any (fun q => p.precedes q) then p :: acc else acc) []

/-! ### Arrival at a destination (R118, R365, R367) -/

/-- The endpoint of a packet, as a number: the slice of its first byte. -/
def Packet.endpoint (p : Packet) : Nat := sliceOf p.place

/-- A packet suspect no more. -/
def unsuspect (s : State) (id : Nat) : State := { s with suspects := s.suspects.filter (fun x => x.2 != id) }

/-- A packet or a push with another transit state. -/
def setTransit (s : State) (id : Nat) (x : Transit) : State :=
  { s with
    packets := s.packets.map (fun p => if p.id = id then { p with transit := x } else p)
    pushes := s.pushes.map (fun p => if p.id = id then { p with transit := x } else p) }

/-- A packet that has arrived and that no packet still to be performed precedes (R118). -/
def nextInWindow (s : State) : Option Packet :=
  s.packets.find? (fun p => p.transit == .window && !s.packets.any (fun q => q.precedes p))

/-- What is next in the sequence windows performed, one packet after the other. -/
def performWindow (s : State) (fuel : Nat) : State :=
  match fuel with
  | 0 => s
  | fuel + 1 =>
    match nextInWindow s with
    | some p => performWindow (performPacket s p) fuel
    | none => s

/-- A packet at its destination: it takes its place in the sequence window, which performs what is next. -/
def arrive (s : State) (p : Packet) : State :=
  performWindow (setTransit (unsuspect s p.id) p.id .window) s.packets.length

/-- The recovery buffer of an endpoint drains: what it holds is handled like an arrival, ahead of the endpoint's ordinary input
(R367). -/
def drainRecovery (s : State) (e : Nat) : State :=
  (s.packets.filter (fun p => p.transit == .recovery && p.endpoint == e)).foldl arrive s

/-- The endpoint of a physical address takes an access that arrives: its recovery buffer comes first. -/
def atHomeOf (s : State) (p : Place) : State :=
  match p with
  | .phys pa => drainRecovery s (homeOf pa)
  | _ => s

/-- A packet performed at its slice, once its endpoint has drained what was recovered, which can be the packet itself. -/
def performNext (s : State) (p : Packet) : State :=
  let t := drainRecovery s p.endpoint
  if t.packets.any (fun q => q.id == p.id) then performPacket t p else t

/-- Every packet performed that satisfies `f`, and what comes before it, in the order they were sent. -/
def performPackets (s : State) (f : Packet → Bool) : State :=
  (withEarlier s.packets f).foldl performNext s

/-- The lines of which the host holds a copy from before a device write are back-invalidated (R94, R373). -/
def backInvalidate (s : State) : State := { s with hostLines := s.hostLines.filter (fun x => !x.2) }

/-- A store leaves the buffer: a release only after the vector stores of the instructions before it (R102), and one at
system scope once no host copy of a written line is left (R94). -/
def performBuffered (s : State) (core : Nat) (st : Store) : State :=
  let s1 := if st.release then performPackets s (fun p => p.core == core && decide (p.seq ≤ st.after)) else s
  let s2 := performStore (atHomeOf s1 st.place) core st
  if st.release && st.system then backInvalidate s2 else s2

/-- Whether an entry of the vector queue stays where the control thread rolls back to a later one: what is no vector
instruction (R172). -/
def Queued.stays (q : Queued) : Bool := q.work.item != .vector

/-- The vector queue from the oldest vector instruction that has not started on (R173); the handler of a started one puts
none there (R399). -/
def unstarted (h : Hart) : List Queued := if h.started then [] else h.queue.dropWhile Queued.stays

/-- The vector unit has work that is not done; in the handler of an instruction that has started, what it holds is none
(R399, log 8). -/
def vectorBusy (h : Hart) : Bool := !h.started && (!h.queue.isEmpty || h.held.isSome || h.vf.isSome)

/-- The registers of the hart that a gather engine has still to deliver. -/
def gatherRegs (h : Hart) : List Nat :=
  (h.engines.map (fun e => match e.kind with
    | .bgld rs .. => rs
    | .gxl rs .. => rs
    | _ => [])).flatten

/-- Whether a buffered store may be performed: no vector instruction before it has still to start (R173), every load
before it has its value (R106), and for a release the vector unit is done with what precedes it (R102); in a handler
what the vector unit holds is not waited for (log 8). -/
def storeReady (h : Hart) (st : Store) : Bool :=
  (unstarted h).all (fun q => decide (st.after < q.work.seq)) &&
  h.loads.all (fun l => decide (st.mark ≤ l.id)) &&
  (!st.release || h.started ||
    !(h.held.any (fun d => decide (d.seq ≤ st.after)) || h.vf.any (fun v => decide (v.seq ≤ st.after))))

/-- The oldest buffered store of a core performed, once it may be (R93). -/
def drainOne (s : State) (core : Nat) : State :=
  let h := hartAt s core
  match h.buffer with
  | [] => s
  | st :: rest =>
    if storeReady h st then performBuffered (onCore s core (fun h => { h with buffer := rest })) core st else s

/-- Every buffered store of a core that may be is performed, oldest first. -/
def drainBuffer (s : State) (core : Nat) : State :=
  let h := hartAt s core
  let out := h.buffer.takeWhile (storeReady h)
  out.foldl (fun s st => performBuffered s core st)
    (onCore s core (fun h => { h with buffer := h.buffer.drop out.length }))

/-- The L1 of a core written back: its vector unit sees every byte of its home (R60). -/
def cleanL1 (s : State) (core : Nat) : State := { s with dirty := s.dirty.filter (fun b => b.core != core) }

/-- An acquire of the acting hart (R101): one that follows a release comes after every access before that release, of any
kind (R103, R105), so that what its buffer, its packets and its L1 still hide is performed. -/
def acquireNow (s : State) : State :=
  if s.hart.released then
    let c := s.hart.core
    let t := cleanL1 (drainBuffer (performPackets s (fun p => p.core == c)) c) c
    { t with hart := { t.hart with released := false } }
  else s

/-- Every earlier access of all nine streams of a core performed at device scope (R100: `LSYNC`). -/
def flushHart (s : State) (core : Nat) : State :=
  drainBuffer (performPackets s (fun p => p.core == core)) core

/-! ### Fault records and batches (R326, R327) -/

/-- A word of the partition control page (R307). -/
def pcpWord (s : State) (part off : Nat) : Word :=
  match s.parts[part]? with
  | some p => word8 s (p.pcpAddr.toNat + off)
  | none => 0

/-- A word of the partition control page written by hardware (R307). -/
def setPcpWord (s : State) (part off : Nat) (v : Word) : State :=
  match s.parts[part]? with
  | some p => writeHome s none (p.pcpAddr.toNat + off) 8 v.toNat
  | none => s

/-- What a trap is to record: the CAUSE value, TVAL, TOPND, where the hart resumes, the faulting word and its
address, its convoy, and the record's flags (R323 to R326). -/
structure TrapInfo where
  cause : Nat
  tval : Word
  topnd : Word
  epc : Word
  pc : Word
  ir : BitVec 32
  head : Word
  members : Nat
  flags : Nat
  deriving DecidableEq, Repr

/-- The 64 bytes of a fault record (R326). -/
def faultRecord (s : State) (h : Hart) (t : TrapInfo) (n : Word) : List Byte :=
  natBytes 1 (h.core / 32) ++ natBytes 1 (h.core / 8 % 4) ++ natBytes 1 (h.core % 8) ++ natBytes 1 h.core ++
  natBytes 4 (launchOf h + 2 ^ 24 * partOf h) ++ natBytes 8 t.pc.toNat ++ natBytes 8 t.head.toNat ++
  natBytes 1 t.members ++ natBytes 1 (t.cause % 256) ++ natBytes 1 t.flags ++ natBytes 1 0 ++
  natBytes 4 t.ir.toNat ++ natBytes 8 t.topnd.toNat ++ natBytes 8 t.tval.toNat ++
  natBytes 8 (deviceTime s) ++ natBytes 8 n.toNat

/-- A fault record written into FRING and FHEAD advanced (R326). -/
def writeFaultRecord (s : State) (h : Hart) (t : TrapInfo) : State :=
  match s.parts[partOf h]? with
  | none => s
  | some p =>
    let n := pcpWord s (partOf h) 0x30
    let s1 := writeBytes s none (p.pcpAddr.toNat + 0x1000 + 64 * (n.toNat % 128)) (faultRecord s h t n)
    setPcpWord s1 (partOf h) 0x30 (n + 1)

/-- The batch ring is full: a writer waits (R327). -/
def ringFull (s : State) (part : Nat) : Bool :=
  pcpWord s part 0x38 - pcpWord s part 0x40 == 32

/-- A page-fault batch written: the frames lowest first, at most 56, with its done word at 0 (R327). -/
def writeBatch (s : State) (h : Hart) (frames : List Nat) (flags : Nat) : State :=
  match s.parts[partOf h]? with
  | none => s
  | some p =>
    let n := pcpWord s (partOf h) 0x38
    let fs := frames.take 56
    let body := natBytes 8 n.toNat ++ natBytes 4 (launchOf h) ++ natBytes 1 h.core ++ natBytes 1 fs.length ++
      natBytes 1 flags ++ natBytes 1 0 ++ natBytes 8 0 ++ natBytes 40 0 ++
      (fs.map (natBytes 8)).flatten
    let s1 := writeBytes s none (p.pcpAddr.toNat + 0x4000 + 512 * (n.toNat % 32))
      (body ++ natBytes (512 - body.length) 0)
    setPcpWord s1 (partOf h) 0x38 (n + 1)

/-- The done word of a batch (R327). -/
def batchDone (s : State) (part n : Nat) : Nat := (pcpWord s part (0x4000 + 512 * (n % 32) + 16)).toNat

/-! ### Trace records (R386 to R388) -/

/-- The partition whose trace area a core writes: its hart's, or with none the one that the core belongs to (R372, R386). -/
def tracePart (s : State) (h : Hart) : Nat :=
  match h.owner with
  | some o => o.part
  | none => ((List.finRange 16).find? (fun p => s.parts[p].cores.getLsbD h.core)).getD 0

/-- The base of a core's megabyte of the trace area (R386). -/
def traceBase (s : State) (h : Hart) : Nat :=
  let p := tracePart s h
  (pcpWord s p 0x18).toNat + 2 ^ 23 * (pcpWord s p 0x20).toNat + 2 ^ 20 * h.core

/-- The launch and the partition of a hart as a trace record names them (R388); a core that runs nothing has launch 0. -/
def traceName (s : State) (h : Hart) : Nat := launchOf h + 2 ^ 24 * tracePart s h

/-- A trace record written by a core's unit into the megabyte at `base`, then WCOUNT, at device scope (R387, R388). -/
def writeTraceAt (s : State) (core base who kind : Nat) (head : Word) (members elapsed : Nat) (tail : List Byte) : State :=
  let h := hartAt s core
  let rec_ := natBytes 1 kind ++ natBytes 1 core ++ natBytes 2 0 ++
    natBytes 4 who ++ natBytes 8 (deviceTime s) ++ natBytes 8 head.toNat ++
    natBytes 1 members ++ natBytes 3 0 ++ natBytes 4 elapsed ++ tail ++ natBytes (32 - tail.length) 0
  let s1 := writeBytes s none (base + 64 + 64 * (h.trace.count % 16383)) rec_
  let s2 := onCore s1 core (fun h => { h with trace := { h.trace with count := h.trace.count + 1 } })
  writeHome s2 none base 8 (h.trace.count + 1)

/-- A trace record of the hart that runs on a core. -/
def writeTrace (s : State) (core kind : Nat) (head : Word) (members elapsed : Nat) (tail : List Byte) : State :=
  let h := hartAt s core
  writeTraceAt s core (traceBase s h) (traceName s h) kind head members elapsed tail

/-- Whether a control bit of a claimed trace unit is set (R387). -/
def traceOn (h : Hart) (bitNo : Nat) : Bool := h.trace.holder.isSome && h.trace.ctl.toNat.testBit bitNo

/-! ### Convoys (R35, R36) -/

/-- The element groups of a length (R26). -/
def groupsOf (n : Nat) : Nat := ceilDiv n 64

/-- The open convoy of a hart closed; it completes when its last member does. -/
def closeHart (s : State) (h : Hart) : Hart :=
  if !h.convoy.forming then h
  else { h with
    convoy := { h.convoy with written := [], forming := false }
    closed := h.closed ++ [⟨h.convoy.head, h.convoy.count, h.convoy.groups, h.vseq, traceName s h, traceBase s h⟩] }

/-- The open convoy of the acting hart closed. -/
def closeConvoy (s : State) : State := { s with hart := closeHart s s.hart }

/-- Whether the vector unit of a hart has completed every instruction up to number `n`. -/
def unitDone (h : Hart) (n : Nat) : Bool :=
  !h.queue.any (fun q => decide (q.work.seq ≤ n)) && !h.held.any (fun d => decide (d.seq ≤ n)) &&
    !h.vf.any (fun r => decide (r.seq ≤ n))

/-- The convoys of a hart that have completed: each is counted, and its record is due where the trace unit keeps one (R384,
R388).  One that can take no more members closes by itself. -/
def settleConvoys (s : State) (h : Hart) : Hart :=
  let h1 := if h.convoy.written.isEmpty && unitDone h h.vseq then closeHart s h else h
  let done := h1.closed.filter (fun c => unitDone h1 c.last)
  if done.isEmpty then h1
  else
    countHart { h1 with
      closed := h1.closed.filter (fun c => !unitDone h1 c.last)
      trace := if traceOn h1 0 then { h1.trace with convoys := h1.trace.convoys ++ done } else h1.trace } 0x04 8 done.length

/-- The convoys of a hart whose instructions from number `n` on are discarded. -/
def cutConvoys (n : Nat) (h : Hart) : Hart :=
  let first := h.vseq + 1 - h.convoy.count
  { h with
    convoy := if h.convoy.forming && decide (first < n) then { h.convoy with count := n - first, written := [] }
      else ⟨0, 0, [], 0, false⟩
    closed := (h.closed.filter (fun c => decide (c.last + 1 - c.members < n))).map (fun c =>
      if c.last < n then c else { c with members := n - (c.last + 1 - c.members), last := n - 1 }) }

/-! ### Ending a launch (R323) -/

/-- A core whose buffers are zeroed, the core's own units kept (R64, R382). -/
def recycle (h : Hart) : Hart :=
  { Hart.start h.core with
    banks := h.banks, quantum := h.quantum, quantumStart := h.quantumStart, trace := h.trace, closed := h.closed
    tlb := h.tlb, fetched := h.fetched }

/-- A core whose hart has ended: what it held stands until a hart starts for another owner (R64). -/
def retire (h : Hart) : Hart :=
  { h with
    run := .idle, owner := none, waitDue := none, stopping := none, dump := false, pending := 0
    restart := ⟨0, false, none, none⟩, held := none, queue := [], started := false, stalled := false
    vf := none, vpNow := none, buffer := [], loads := [], reissue := [], engines := [], launchReqs := [], loop := none }

/-- Whether a hart runs for a launch. -/
def runsFor (h : Hart) (part launch : Nat) : Bool :=
  match h.owner with
  | some o => o.part == part && o.launch == launch
  | none => false

/-- Whether a hart runs for a gang of a launch. -/
def runsGang (h : Hart) (part launch gang : Nat) : Bool := runsFor h part launch && gangOf h == gang

/-- Whether a subscription belongs to a slot of a hart of a launch. -/
def Subscriber.ofLaunch (w : Subscriber) (part launch : Nat) : Bool :=
  match w with
  | .slot _ _ p l _ => p == part && l == launch
  | .dependence .. => false

/-- The subscriptions that satisfy `f` removed; an entry without subscribers is freed (R65, R221). -/
def dropSubs (s : State) (f : Nat → Subscriber → Bool) : State :=
  { s with
    directory := (s.directory.map (fun d =>
      { d with subs := d.subs.filter (fun b => !f d.pa b.who) })).filter (fun d => !d.subs.isEmpty)
    severed := s.severed.filter (fun x => !f 0 x.1) }

/-- The numbers of the engines and the marked loop of a hart. -/
def workOf (h : Hart) : List Nat := h.engines.map (·.id) ++ (h.loop.map (·.id)).toList

/-- The engine or loop that a stope job serves (R348). -/
def StopeJob.serves (j : StopeJob) : Nat :=
  match j with
  | .near c => c.engine
  | .replay l _ _ => l

/-- One 8-byte word written with the bytes of it that some stores give, the later ones last. -/
def writeWordOf (bytes : List (Nat × Byte)) (s : State) (w : Nat) : State :=
  writeHome s none (8 * w) 8
    (sgetBytes (bytes.foldl (fun m c => sset m c.1 c.2) (sslice s.mem (8 * w) (8 * w + 8) (8 * w))) (8 * w) 8)

/-- The stores of a replayed iteration that is finished, which its stope engine still holds, are performed (R323, R349). -/
def finishStores (part qos : Nat) (s : State) (e : Stope) : State :=
  if e.accs.isEmpty then s
  else
    let s1 := markUsed s part e.entries true
    classPushes s1.pushes.length qos ((e.accs.map (fun c => c.1 / 8)).eraseDups.foldl (writeWordOf e.accs) s1)

/-- What some engines and loops, and the slots of their launch, still have under way outside the cores, stopped at its
boundary (R323 step 3): near-bank commands, replays, chain contexts, answers and pushes, and what was done ahead. -/
def stopOutside (s : State) (part launch : Nat) (work : List Nat) : State :=
  let qos := ((s.launches.find? (fun l => l.part == part && l.id == launch)).map (·.current)).getD 0
  let s0 := (s.hbm.toList.flatMap (·.stopes)).foldl (fun s e =>
    if work.contains e.job.serves then finishStores part qos s e else s) s
  let s1 := dropSubs s0 (fun _ w => w.ofLaunch part launch)
  { s1 with
    hbm := s1.hbm.map (fun k => { k with
      stopes := k.stopes.filter (fun e => !work.contains e.job.serves)
      queue := k.queue.filter (fun c => !work.contains c.engine)
      gathers := k.gathers.filter (fun e => !work.contains e) })
    chainCtx := s1.chainCtx.filter (fun c => !work.contains c.2.1)
    stands := s1.stands.filter (fun a => !(a.part == part && a.launch == launch))
    unstands := s1.unstands.filter (fun a => !(a.part == part && a.launch == launch))
    pushes := s1.pushes.filter (fun p => !p.who.ofLaunch part launch)
    early := s1.early.filter (fun x => !work.contains x.engine)
    olds := s1.olds.filter (fun x => !work.contains x.engine) }

/-! ### Rolling back (R172, R399) -/

/-- The CSRs after a rollback: those of the checkpoint, but for what the vector unit writes, the time, the event latch, and
the flags that vector instructions have raised since, which are never undone. -/
def rolledCsr (h : Hart) (b : Checkpoint) : Csr :=
  { b.csr with
    vl := h.csr.vl, mvl := h.csr.mvl, tshape := h.csr.tshape, seed := h.csr.seed, cycle := h.csr.cycle
    fcsr := setBits b.csr.fcsr 0 5 (bits b.csr.fcsr 0 5 ||| b.flags)
    status := setBits b.csr.status 6 1 (bits b.csr.status 6 1 ||| bits h.csr.status 6 1) }

/-- The control thread rolled back to the oldest vector instruction that has not started, which is discarded with
everything after it: younger stores and plain loads are removed, and they execute again (R172). -/
def rollbackHart (h : Hart) : Hart :=
  match unstarted h with
  | [] => h
  | q :: _ =>
    { cutConvoys q.work.seq h with
      regs := q.back.regs, pending := q.back.pending, csr := rolledCsr h q.back, latch := q.back.latch, pc := q.work.pc
      run := match h.run with
        | .waitEvent _ => .running
        | .waitSlot .. => .running
        | r => r
      queue := h.queue.takeWhile Queued.stays
      vseq := q.work.seq - 1
      buffer := h.buffer.filter (fun st => decide (st.after < q.work.seq))
      loads := h.loads.filter (fun l => decide (l.after < q.work.seq)) }

/-- The acting hart's control thread rolled back. -/
def rollback (s : State) : State := { s with hart := rollbackHart s.hart }

/-! ### The end of a launch (R323) -/

/-- A hart at the stop point of a launch that ends (R323): rolled back as by a pre-emption (R172), with what it has under way
discarded but for its stores. -/
def stopShort (h : Hart) : Hart :=
  { rollbackHart h with loads := [], reissue := [], queue := [], held := none, vf := none, vpNow := none }

/-- A launch ended by the supervisor (R323): every gang stopped as by a pre-emption, its buffered stores performed, the flags of
each hart joined, gangs and husks discarded, engines stopped; its completion word is then due with STATE 3. -/
def endLaunchFor (s : State) (part launch : Nat) : State :=
  let s := onHarts s (fun h => if runsFor h part launch then stopShort h else h)
  let mine := s.harts.filter (fun h => runsFor h part launch)
  let cores := mine.map (·.core)
  let husks := s.husks.filter (fun k => k.part == part && runsFor k.image part launch && !k.resumed)
  let s1 := cores.foldl flushHart s
  let fl := (mine ++ husks.map (·.image)).foldl (fun f h => f ||| bits h.csr.fcsr 0 5) 0
  let s2 := stopOutside s1 part launch ((mine ++ husks.map (·.image)).map workOf).flatten
  let s3 := onHarts s2 (fun h => if runsFor h part launch then retire (closeHart s2 h) else h)
  { s3 with
    dirty := s3.dirty.filter (fun b => !cores.contains b.core)
    husks := s3.husks.filter (fun k => !(k.part == part && runsFor k.image part launch && !k.resumed))
    launches := s3.launches.map (fun l =>
      if l.part = part ∧ l.id = launch then
        { l with failed := true, flags := l.flags ||| fl, gone := l.size * l.gangs }
      else l) }

/-! ### Taking a trap and returning (R167, R323, R399) -/

/-- Status after trap entry: PMODE takes MODE, which becomes supervisor unless it is hypervisor; PVTYPE takes
VTYPE; NEST is set (R322, R323). -/
def trapStatus (c : Csr) : Word :=
  let m := bits c.status 0 2
  let s1 := setBits c.status 2 2 m
  let s2 := if m = 2 then s1 else setBits s1 0 2 1
  setBits (setBits s2 32 13 c.vtype.toNat) 5 1 1

/-- A scalar register has a result pending (R150). -/
def setPending (h : Hart) (r : SReg) : Hart :=
  if r = 0 then h else { h with pending := h.pending ||| (1#32 <<< r.val) }

/-- The scoreboard bit of a register cleared. -/
def notPending (p : BitVec 32) (r : SReg) : BitVec 32 := p &&& ~~~ (1#32 <<< r.val)

/-- A checkpoint of a vector instruction, which holds a result where what gives it came before the instruction (R172). -/
def Queued.given (q : Queued) (r : SReg) (v : Word) (after : Nat) : Queued :=
  if after < q.work.seq then
    { q with back := { q.back with regs := q.back.regs.set r v, pending := notPending q.back.pending r } }
  else q

/-- A pending register written by what it waited for (R150), which follows vector instruction `after`; the checkpoints of
later instructions hold the result too, since what produced it is not rolled back (R172). -/
def writeAfter (h : Hart) (r : SReg) (v : Word) (after : Nat) : Hart :=
  if r = 0 then h
  else
    { h with
      regs := h.regs.set r v, pending := notPending h.pending r, queue := h.queue.map (fun q => q.given r v after) }

/-- A pending register written by what it waited for and no rollback undoes. -/
def writePending (h : Hart) (r : SReg) (v : Word) : Hart := writeAfter h r v 0

/-- A marked loop that is recorded or awaits its verdict is declined: its status is written with the iteration and
the detail, and nothing is frozen (R240). -/
def declineLoop (h : Hart) (detail : Nat) : Hart :=
  match h.loop with
  | some l =>
    if l.phase = .recording ∨ l.phase = .verdict then
      let index := if l.phase = .verdict then l.iter - 1 else l.iter
      let status := word (7 * 2 ^ 60 + 2 ^ 56 + (index % 2 ^ 24) * 2 ^ 32 + detail % 2 ^ 32)
      let h1 : Hart := { h with loop := some { l with phase := .declined, cur := [], ops := [] } }
      let h2 : Hart := if l.rd = 0 then h1 else latchHart (writePending h1 l.rd status)
      countHart h2 0x14 8 1
    else h
  | none => h

/-- An uncorrectable error at a physical address logged: in an L2 bank or in a stack (R391, R394; log 35). -/
def logPlace (s : State) (pa : Nat) : State :=
  if s.bad.any (fun b => match b with
      | .lostLine l => l / 64 == pa / 64
      | _ => false) then logPit s (homeOf pa / 124) 1 (homeOf pa % 124) 0x10 pa
  else logPit s (stackOf s pa / 2) 2 (stackOf s pa) 0x10 pa

/-- The structures of R393 in its order: the class of a corrected error, and the detail of an uncorrectable one that has no
physical address (R391, log 35). -/
inductive SramClass where
  | registers | accumulators | scratchpad | scalarData | caches | l2 | tlbs | slots | stope
  deriving DecidableEq, Repr

/-- The number of a structure. -/
def SramClass.num (c : SramClass) : Nat :=
  match c with
  | .registers => 0
  | .accumulators => 1
  | .scratchpad => 2
  | .scalarData => 3
  | .caches => 4
  | .l2 => 5
  | .tlbs => 6
  | .slots => 7
  | .stope => 8

/-- The source of a record about a class on a die (R391, log 35): the cores, the L2 banks, or a stack. -/
def classSource (cls : Nat) : Nat := if cls = 5 then 1 else if 8 ≤ cls then 2 else 0

/-- An uncorrectable error in a structure of a core logged (R391, R394). -/
def logStructure (s : State) (core : Nat) (c : SramClass) : State :=
  logPit s (dieOfCore core) 0 (core % 32) 0x10 c.num

/-- An uncorrectable error logged where it was met by an access of core `core` to `va` (R391, R394): in a memory of the core,
in an L2 bank or in a stack (log 35). -/
def logError (s : State) (core : Nat) (va : Word) : State :=
  if va.toNat < globalBase then logStructure s core (if va.toNat < 0x100000 then .scalarData else .scratchpad)
  else
    match findEntry (hartAt s core).tlb (partOf (hartAt s core)) va.toNat with
    | none => logPit s (dieOfCore core) 0 (core % 32) 0x10 va.toNat
    | some e => logPlace s (e.pa + va.toNat % e.size)

/-- An access of the acting hart to `va` that a trap of that cause ends: an uncorrectable error is logged (R394). -/
def logCause (s : State) (cause : Nat) (va : Word) : State :=
  if cause = 0x0B then logError s s.hart.core va else s

/-- A trap taken by the acting hart (R323): the resume address, cause, value and operand saved; mode, PVTYPE
and NEST changed; a fault record written; the pc at TVEC.  A trap within a handler ends the launch. -/
def takeTrap (s : State) (t : TrapInfo) : State :=
  let h := s.hart
  if nested h then
    endLaunchFor (writeFaultRecord s h { t with flags := t.flags ||| 2 }) (partOf h) (launchOf h)
  else
    let s1 := closeConvoy (writeFaultRecord s h t)
    let s2 := if (t.cause = 0x18 ∨ t.cause = 0x1A) ∧ traceOn h 0 then
      writeTrace s1 h.core 4 t.head t.members 0 (natBytes 8 t.tval.toNat) else s1
    let h1 := declineLoop s2.hart 11
    let c : Csr := { h1.csr with
      epc := t.epc, cause := word t.cause, tval := t.tval, topnd := t.topnd, status := trapStatus h1.csr }
    { s2 with hart := { h1 with
        csr := c, pc := alignPc c.tvec, restart := ⟨0, false, none, none⟩ } }

/-- A precise trap of a scalar word, or of one that has not started: EPC is its own address (R149, R324). -/
def trapAt (s : State) (cause : Nat) (tval topnd : Word) : State :=
  takeTrap s ⟨cause, tval, topnd, s.hart.pc, s.hart.pc, s.hart.ir, 0, 0, 0⟩

/-- A trap whose TVAL is the instruction word (R324). -/
def trapWord (s : State) (cause : Nat) (topnd : Word) : State :=
  trapAt s cause (s.hart.ir.zeroExtend 64) topnd

/-- TOPND: register number, register file, element index (R325). -/
def operandWord (file r elem : Nat) : Word := word (r + file * 2 ^ 8 + elem * 2 ^ 32)

/-- TOPND of a scalar register. -/
def topndS (r : SReg) : Word := operandWord 1 r.val 0
/-- TOPND of a vector register and element. -/
def topndV (r elem : Nat) : Word := operandWord 2 r elem

/-- Return from a trap (R167, R323): mode, VTYPE and pc as they were, NEST clear.  The vector unit then goes
on with what it held (R399). -/
def trapReturn (s : State) : State :=
  let c := s.hart.csr
  let st := setBits (setBits c.status 0 2 (bits c.status 2 2)) 5 1 0
  { s with hart := { s.hart with
      csr := { c with status := st, vtype := word (bits c.status 32 13) }
      pc := alignPc c.epc, started := false } }

/-! ### Writing results (R149) -/

/-- A marked loop has the register frozen: between its skip-ahead and its `LJOIN` a carried scalar register
may not be written (R149, R242). -/
def frozen (h : Hart) (r : SReg) : Bool :=
  match h.loop with
  | some l =>
    (match l.phase with
      | .replaying | .over _ | .finished _ => true
      | _ => false) && r != 0 && (r == l.count || r == l.ind1 || r == l.ind2)
  | none => false

/-- The result written into a scalar register and the pc advanced, or the frozen-register trap (R149). -/
def writeResult (s : State) (d : SReg) (v : Word) : Out :=
  if frozen s.hart d then .next (trapWord s 0x0D (topndS d))
  else .next (advance (setReg s d v))

/-- The frozen-register check of an instruction that writes `d`, before anything else of it (R149). -/
def guardWrite (s : State) (d : SReg) (k : Out) : Out :=
  if frozen s.hart d then .next (trapWord s 0x0D (topndS d)) else k

/-- Code other than device supervisor code takes the protection trap (R149 step 2). -/
def privileged (s : State) (k : Out) : Out :=
  if supervisor s.hart then k else .next (trapWord s 0x09 0)

end Sys2Proof.Machine
end

