-- ==== Sys2Proof/Machine/Operands.lean ====
section
/-! DEFINITION. Operand forms: effective addresses of scalar accesses and the checks an access meets before it is
performed (R45, R161), vector operands and their elements (R18, R19), predicates. -/

namespace Sys2Proof.Machine

/-! ### Scalar addresses -/

/-- Where a checked access lands, or why it does not (R161). -/
inductive Reach where
  | ok (p : Place) (entries : List (Nat × Bool))
  | trap (cause : Nat) (stage2 : Bool)
  | missing (stage2 : Bool)
  deriving DecidableEq, Repr

/-- The base plus immediate address of a load or store (R130, R160). -/
def immAddr (s : State) (a : SReg) (i : BitVec 16) : Word := getReg s a + simm i

/-- The register-offset address; rs2 = s0 means no index (R132). -/
def regAddr (s : State) (a b : SReg) : Word := getReg s a + getReg s b


/-- A local address of the scalar path: scalar data memory, the scratchpad, or a gap (R44, R45); a store
into a busy standing slot is refused (R58). -/
def reachLocal (s : State) (va size : Nat) (a : Access) : Reach :=
  if va < 0x10000 then .ok (.sdm va) []
  else if 0x100000 ≤ va ∧ va < 0x300000 then
    (if a == .write && touchesBusySlot s s.hart (va - 0x100000) size then .trap 0x09 false
     else .ok (.spad (va - 0x100000)) [])
  else .trap 0x09 false

/-- The checks of a scalar access in the order of R161. -/
def reach (s : State) (va : Word) (size : Nat) (a : Access) : Reach × State :=
  if bits va 48 16 ≠ 0 then (.trap 0x09 false, s)
  else if va.toNat % size ≠ 0 then (.trap 0x06 false, s)
  else if va.toNat < globalBase then (reachLocal s va.toNat size a, s)
  else
    let r := translate s s.hart.core (partOf s.hart) (supervisor s.hart) va size a
    match r.1.1 with
    | .ok pa => (.ok (.phys pa) r.1.2, r.2)
    | .missing st => (.missing st, r.2)
    | .denied c st => (.trap c st, r.2)

/-- Whether the control thread's access meets the watchpoint, which traps one access for each claim (R389). -/
def watched (h : Hart) (va size : Nat) (a : Access) : Bool :=
  let len := 2 ^ bits h.trace.wctl 0 6
  let base := h.trace.waddr.toNat / len * len
  traceOn h 2 && !h.trace.hit && decide (va < base + len ∧ base < va + size) &&
    h.trace.wctl.toNat.testBit (if a == .write then 7 else 6)

/-- The trap of a scalar access that is refused, with the stage-2 flag of its record (R161, R331). -/
def addressTrap (s : State) (cause : Nat) (va : Word) (r : SReg) (stage2 : Bool) : State :=
  takeTrap (logCause s cause va) ⟨cause, va, topndS r, s.hart.pc, s.hart.pc, s.hart.ir, 0, 0, if stage2 then 4 else 0⟩

/-- The trap of an access that meets the watchpoint, before it is performed (R389). -/
def watchTrap (s : State) (va : Word) (r : SReg) : State :=
  addressTrap { s with hart := { s.hart with trace := { s.hart.trace with hit := true } } } 0x1A va r false

/-- The trap of a scalar access to a non-resident page (R161, R327): a batch of one frame, its number in
TVAL; the hart waits while the batch ring is full. -/
def pageTrap (s : State) (va : Word) (r : SReg) (wr stage2 : Bool) : State :=
  if ringFull s (partOf s.hart) then stall s
  else
    let n := pcpWord s (partOf s.hart) 0x38
    let s1 := writeBatch s s.hart [va.toNat / 4096 * 4096] ((if stage2 then 1 else 0) + (if wr then 2 else 0))
    takeTrap s1 ⟨0x08, n, topndS r, s.hart.pc, s.hart.pc, s.hart.ir, 0, 0, if stage2 then 4 else 0⟩

/-- The bytes whose errors an access meets: a load's own, a store's whole line (R161). -/
def dataBad (s : State) (p : Place) (size : Nat) (a : Access) : Bool :=
  match p with
  | .phys pa => if a == .write then badMem s (pa / 64 * 64) 64 else badMem s pa size
  | _ => if a == .write then false else badBytes s s.hart p size

/-- A scalar access: checked in order, then performed by `k` (R161, R389), which is given the table entries whose D bit a
write sets. `r` is the address register. -/
def access (s : State) (va : Word) (size : Nat) (a : Access) (r : SReg)
    (k : Place → List (Nat × Bool) → State → Out) : Out :=
  let x := reach s va size a
  match x.1 with
  | .trap c st => .next (addressTrap x.2 c va r st)
  | .missing st => .next (pageTrap x.2 va r (a == .write) st)
  | .ok p es =>
    if watched s.hart va.toNat size a then .next (watchTrap x.2 va r)
    else if dataBad x.2 p size a then .next (addressTrap x.2 0x0B va r false)
    else k p es x.2

/-- A scalar atomic's access, which needs its page for reading and writing: the checks of a store and of a load in the
order of R161, its own data last (R163, R164).  The watchpoint traps it where loads or stores are watched (log 30). -/
def accessBoth (s : State) (va : Word) (size : Nat) (r : SReg) (k : Place → List (Nat × Bool) → State → Out) : Out :=
  let x := reach s va size .write
  match x.1 with
  | .trap c st => .next (addressTrap x.2 c va r st)
  | .missing st => .next (pageTrap x.2 va r true st)
  | .ok p es =>
    match (reach x.2 va size .read).1 with
    | .trap c st => .next (addressTrap x.2 c va r st)
    | .missing st => .next (pageTrap x.2 va r true st)
    | .ok _ _ =>
      if watched s.hart va.toNat size .read || watched s.hart va.toNat size .write then
        .next (watchTrap x.2 va r)
      else if dataBad x.2 p size .read then .next (addressTrap x.2 0x0B va r false)
      else k p es x.2

/-! ### Vector configuration (R16 to R19, R23) -/

/-- The number of vector registers (R16). -/
def regCount (c : Csr) : Nat := 8 * 2 ^ bits c.vrcfg 0 2
/-- The 32-bit elements one register holds (R16). -/
def regLen (c : Csr) : Nat := 24576 / 2 ^ bits c.vrcfg 0 2
/-- The grouping G (R18, R23). -/
def groupOf (c : Csr) : Nat := 2 ^ bits c.vtype 0 3
/-- FTZ (R23). -/
def ftzOf (c : Csr) : Bool := c.vtype.toNat.testBit 3
/-- VRM (R23). -/
def vrmOf (c : Csr) : Rm := rmOf (bits c.vtype 4 2)
/-- TPOL (R23). -/
def tpolOf (c : Csr) : Nat := bits c.vtype 6 2
/-- IPOL (R23). -/
def ipolOf (c : Csr) : Bool := c.vtype.toNat.testBit 8
/-- DTAG (R23). -/
def dtagOf (c : Csr) : Nat := bits c.vtype 9 4
/-- Whether a tag's elements are 16 bits wide (R21). -/
def narrowTag (t : Nat) : Bool := t == 2 || t == 4
/-- The width in bytes of a tag's elements (R21). -/
def tagBytes (t : Nat) : Nat := if narrowTag t then 2 else 4
/-- The width in bits. -/
def tagBits (t : Nat) : Nat := 8 * tagBytes t
/-- VLMAX (R19). -/
def vlmax (c : Csr) : Nat := regLen c * groupOf c * (if narrowTag (dtagOf c) then 2 else 1)
/-- A VTYPE value that may be written (R23). -/
def vtypeOk (v : Word) : Bool := bits v 13 51 == 0 && bits v 0 3 < 4 && bits v 6 2 != 3 && bits v 9 4 < 5

/-! ### Elements (R18, R19) -/

/-- The slot that holds element `e` of the operand based at register `r` (R16, R18, R19). -/
def slotOf (c : Csr) (r : Nat) (narrow : Bool) (e : Nat) : Nat :=
  r * regLen c + (if narrow then 64 * (e / 128) + e % 64 else e)

/-- Element `e` of an operand (R19). -/
def getElem (h : Hart) (r : Nat) (narrow : Bool) (e : Nat) : Nat :=
  let w := (sget h.vec.vrf (slotOf h.csr r narrow e)).toNat
  if narrow then (if e / 64 % 2 = 0 then w % 2 ^ 16 else w / 2 ^ 16) else w

/-- The vector state with element `e` of an operand written (R19). -/
def putElem (c : Csr) (v : Vec) (r : Nat) (narrow : Bool) (e x : Nat) : Vec :=
  let k := slotOf c r narrow e
  let w := (sget v.vrf k).toNat
  let w' := if narrow then
      (if e / 64 % 2 = 0 then w / 2 ^ 16 * 2 ^ 16 + x % 2 ^ 16 else w % 2 ^ 16 + x % 2 ^ 16 * 2 ^ 16)
    else x
  { v with vrf := sset v.vrf k (BitVec.ofNat 32 w') }

/-- The hart with element `e` of an operand written. -/
def setElem (h : Hart) (r : Nat) (narrow : Bool) (e x : Nat) : Hart :=
  { h with vec := putElem h.csr h.vec r narrow e x }

/-- A register's tag (R21). -/
def tagOfReg (h : Hart) (r : Nat) : Nat := ((h.vec.tags[r]?).getD 0).toNat

/-- The members of an operand based at `r`, `g` registers. -/
def members (r g : Nat) : List Nat := (List.range g).map (fun i => r + i)

/-- The carried vector registers of a loop, members of groups included (R239, R242). -/
def carriedRegs (l : Loop) : List Nat := (l.carried.map (fun r => members r l.grp)).flatten

/-- The registers that a marked loop has frozen: the carried ones, from its skip-ahead to its `LJOIN` (R242). -/
def frozenRegs (h : Hart) : List Nat :=
  match h.loop with
  | some l =>
    (match l.phase with
      | .replaying | .over _ | .finished _ => carriedRegs l
      | _ => [])
  | none => []

/-- The lowest member of an operand that a marked loop has frozen (R242). -/
def frozenIn (h : Hart) (d : Nat) : Option Nat := (members d (groupOf h.csr)).find? (frozenRegs h).contains

/-- The tags of an operand's registers set (R21, R22). -/
def setTags (h : Hart) (r g t : Nat) : Hart :=
  { h with vec := { h.vec with
      tags := (members r g).foldl (fun ts i => ts.setIfInBounds i (BitVec.ofNat 4 t)) h.vec.tags } }

/-- An operand's capacity at a tag (R179). -/
def capacity (c : Csr) (t : Nat) : Nat := regLen c * groupOf c * (if narrowTag t then 2 else 1)

/-! ### Uncorrectable registers (R394) -/

/-- The elements of the operand based at `r` that lie in an uncorrectable slot. -/
def badElems (s : State) (r : Nat) : List Nat :=
  let c := s.hart.csr
  let lo := r * regLen c
  s.bad.flatMap (fun b => match b with
    | .vslot core k =>
      if core = s.hart.core ∧ lo ≤ k ∧ k < lo + groupOf c * regLen c then
        (if narrowTag (tagOfReg s.hart r) then [128 * ((k - lo) / 64) + (k - lo) % 64, 128 * ((k - lo) / 64) + (k - lo) % 64 + 64]
         else [k - lo])
      else []
    | _ => [])

/-- The lowest of some numbers that satisfies `p`. -/
def lowestOf (p : Nat → Bool) (xs : List Nat) : Option Nat :=
  (xs.filter p).foldl (fun m x => match m with
    | none => some x
    | some y => some (Nat.min x y)) none

/-- TOPND of the first of some vector registers that is uncorrectable in an element that is read. -/
def badRead (s : State) (reads : List (Nat × (Nat → Bool))) : Option Word :=
  if s.bad.isEmpty then none else reads.findSome? (fun x => (lowestOf x.2 (badElems s x.1)).map (topndV x.1))

/-- The bits of a mask register that lie in an uncorrectable word. -/
def badMaskBits (s : State) (m : Nat) : List Nat :=
  s.bad.flatMap (fun b => match b with
    | .mask core m' w => if core = s.hart.core ∧ m' = m then (List.range 64).map (64 * w + ·) else []
    | _ => [])

/-- TOPND of the first of some mask registers that is uncorrectable in a bit that is read. -/
def badMaskRead (s : State) (reads : List (Nat × (Nat → Bool))) : Option Word :=
  if s.bad.isEmpty then none
  else reads.findSome? (fun x => (lowestOf x.2 (badMaskBits s x.1)).map (operandWord 3 x.1))

/-! ### Masks (R41) -/

/-- Bit `e` of a mask register. -/
def maskBit (h : Hart) (m e : Nat) : Bool := ((h.vec.masks[m]?).getD 0).testBit e

/-- Whether element `e` is active under a mask field: 0 means unmasked (R41). -/
def active (h : Hart) (m : MReg) (e : Nat) : Bool := m == 0 || maskBit h m.val e

/-- The hart with a mask register replaced. -/
def setMask (h : Hart) (m v : Nat) : Hart :=
  { h with vec := { h.vec with masks := h.vec.masks.setIfInBounds m v } }

/-- The hart with bit `e` of a mask register replaced. -/
def setMaskBit (h : Hart) (m e : Nat) (b : Bool) : Hart :=
  setMask h m (putBit ((h.vec.masks[m]?).getD 0) e b)

/-! ### The matrix grant (R246, R247) -/

/-- A number rounded up to a multiple of 64. -/
def up64 (x : Nat) : Nat := (x + 63) / 64 * 64

/-- TILES of the grant (R246). -/
def tilesOf (c : Csr) : Nat := bits c.tshape 48 3
/-- Granted rows. -/
def grantM (c : Csr) : Nat := bits c.tshape 0 16
/-- Granted columns. -/
def grantN (c : Csr) : Nat := bits c.tshape 16 16
/-- SPLITM. -/
def splitM (c : Csr) : Bool := bits c.tshape 51 1 == 1
/-- SPLITN. -/
def splitN (c : Csr) : Bool := bits c.tshape 52 1 == 1
/-- M0 (R247). -/
def rows0 (c : Csr) : Nat := if splitM c then Nat.min (grantM c) 256 else grantM c
/-- N0 (R247). -/
def cols0 (c : Csr) : Nat := if splitN c then Nat.min (grantN c) 384 else grantN c

/-- Where part element (i, j) of a tile is held. -/
def accKey (t i j : Nat) : Nat := 98304 * t + 384 * i + j

/-- Where the accumulator array holds a tile entry: a tile takes the granted rows by the granted columns, both rounded up to
multiples of 64 (R247, log 34). -/
def arrayKey (c : Csr) (k : Nat) : Nat :=
  k / 98304 * (up64 (rows0 c) * up64 (cols0 c)) + k % 98304 / 384 * up64 (cols0 c) + k % 384

/-- The tile entry that the accumulator array holds at a place. -/
def tileKey (c : Csr) (n : Nat) : Nat :=
  let size := up64 (rows0 c) * up64 (cols0 c)
  accKey (n / size) (n % size / up64 (cols0 c)) (n % size % up64 (cols0 c))

end Sys2Proof.Machine
end

