-- ==== Sys2Proof/Machine/Convoy.lean ====
section
/-! DEFINITION. Convoys (R35, R36): which vector instructions run as one pipeline, as records and breakpoints name
them.  Convoy formation changes no result. -/

namespace Sys2Proof.Machine

/-- A vector instruction enters the queue: it joins the open convoy when it reads what a member wrote and
there is room, and opens a new one otherwise; `alone` marks those that form a convoy of one (R35), which has no register by
which another joins.  `n` is its length in elements. -/
def enterConvoy (s : State) (alone : Bool) (n : Nat) (reads writes : List Nat) : State :=
  let c := s.hart.convoy
  if !alone && c.forming && decide (c.count < 8) && reads.any (fun r => c.written.contains r) then
    { s with hart := { s.hart with convoy := { c with
      count := c.count + 1, written := if c.count = 7 then [] else c.written ++ writes
      groups := Nat.max c.groups (groupsOf n) } } }
  else
    let s1 := closeConvoy s
    { s1 with hart := { s1.hart with
        convoy := ⟨s.hart.pc, 1, if alone then [] else writes, groupsOf n, true⟩ } }

end Sys2Proof.Machine
end

