-- ==== Sys2Proof/Machine/Estimates.lean ====
section
/-! DEFINITION. The four estimates of R188: the exact result rounded toward zero to 13 significant bits, then
rounded once into the format.  2^a and log2 a are irrational but for the exact cases, so enough binary places
decide the 13 bits (log 17). -/

namespace Sys2Proof.Machine

/-- The leading 13 bits of m · 2^e, m not zero, and whether anything was cut. -/
def lead13 (m : Nat) (e : Int) : Nat × Int × Bool :=
  let drop := m.log2 - 12
  if m.log2 < 12 then (m, e, false) else (m / 2 ^ drop, e + drop, decide (m % 2 ^ drop ≠ 0))

/-- The final rounding of an estimate: NX when the result differs from the exact value, `cut` telling that
E already does. -/
def packEstimate (f : FloatFmt) (rm : Rm) (ftz neg : Bool) (m : Nat) (e : Int) (cut : Bool) : Nat × Nat :=
  let l := lead13 m e
  let r := roundFin f rm ftz neg l.1 l.2.1
  (r.1, if cut || l.2.2 then r.2 ||| flagNX else r.2)

/-- The estimate of 1/a. -/
def reciprocal (f : FloatFmt) (rm : Rm) (ftz : Bool) (a : Num) : Nat × Nat :=
  match a with
  | .nan s => (nanBits f, nanFlag (.nan s))
  | .inf neg => (signBit f neg, 0)
  | .fin neg m e =>
    if m = 0 then (infBits f neg, flagDZ)
    else
      let q : Nat := 2 ^ 80 / m
      packEstimate f rm ftz neg q (-80 - e) (decide ((2 : Nat) ^ 80 % m ≠ 0))

/-- The estimate of 1/√a. -/
def rsqrt (f : FloatFmt) (rm : Rm) (ftz : Bool) (a : Num) : Nat × Nat :=
  match a with
  | .nan s => (nanBits f, nanFlag (.nan s))
  | .inf neg => if neg then (nanBits f, flagNV) else (0, 0)
  | .fin neg m e =>
    if m = 0 then (infBits f neg, flagDZ)
    else if neg then (nanBits f, flagNV)
    else
      -- 1/√(m·2^e) with e made even: √(2^160/m') · 2^(-80 - e/2)
      let par := e % 2
      let m' := m * 2 ^ par.toNat
      let v : Nat := 2 ^ 160 / m'
      let r := isqrt v
      packEstimate f rm ftz false r (-80 - (e - par) / 2) (decide (r * r * m' ≠ 2 ^ 160))

/-- Binary places kept while forming 2^a. -/
def expPlaces : Nat := 96

/-- 2^f in units of 2^-96 for a fraction given by its bits below the point, highest first: the product of
the roots 2^(2^-i) of the set bits. -/
def expFrac (frac root acc : Nat) (n : Nat) : Nat :=
  match n with
  | 0 => acc
  | n + 1 =>
    let root' := isqrt (root * 2 ^ expPlaces)
    let acc' := if frac.testBit n then acc * root' / 2 ^ expPlaces else acc
    expFrac frac root' acc' n

/-- The estimate of 2^a. -/
def exp2 (f : FloatFmt) (rm : Rm) (ftz : Bool) (a : Num) : Nat × Nat :=
  match a with
  | .nan s => (nanBits f, nanFlag (.nan s))
  | .inf neg => if neg then (0, 0) else (infBits f false, 0)
  | .fin neg m e =>
    if m = 0 then packEstimate f rm ftz false 1 0 false
    else if 10 ≤ (m.log2 : Int) + e then
      -- |a| ≥ 1024: beyond every format's range
      if neg then packEstimate f rm ftz false 1 (-2000) true else packEstimate f rm ftz false 1 2000 true
    else
      -- |a| in units of 2^-64, cut; what is cut can matter only to a result just below a power of two
      let whole := quantize .rtz false m e (-64)
      let u := whole.1
      let ip : Nat := u / 2 ^ 64
      let fp : Nat := u % 2 ^ 64
      if fp = 0 && !whole.2 then
        packEstimate f rm ftz false 1 (if neg then -(ip : Int) else ip) false
      else if neg then
        -- 2^-(ip + fp) = 2^-(ip + 1) · 2^(1 - fp), the fraction 1 - fp cut below
        let g := if whole.2 || fp = 0 then 2 ^ 64 - fp - 1 else 2 ^ 64 - fp
        packEstimate f rm ftz false (expFrac g (2 * 2 ^ expPlaces) (2 ^ expPlaces) 64)
          (-(ip : Int) - 1 - expPlaces) true
      else
        packEstimate f rm ftz false (expFrac fp (2 * 2 ^ expPlaces) (2 ^ expPlaces) 64)
          ((ip : Int) - expPlaces) true

/-- Binary places kept while forming log2 a. -/
def logPlaces : Nat := 200

/-- `n` bits of log2 of x in [1, 2), x in units of 2^-200, by repeated squaring. -/
def logFrac (x acc : Nat) (n : Nat) : Nat :=
  match n with
  | 0 => acc
  | n + 1 =>
    let y := x * x / 2 ^ logPlaces
    if 2 * 2 ^ logPlaces ≤ y then logFrac (y / 2) (2 * acc + 1) n else logFrac y (2 * acc) n

/-- The estimate of log2 a. -/
def log2Est (f : FloatFmt) (rm : Rm) (ftz : Bool) (a : Num) : Nat × Nat :=
  match a with
  | .nan s => (nanBits f, nanFlag (.nan s))
  | .inf neg => if neg then (nanBits f, flagNV) else (infBits f false, 0)
  | .fin neg m e =>
    if m = 0 then (infBits f true, flagDZ)
    else if neg then (nanBits f, flagNV)
    else
      let k := m.log2
      let ip : Int := (k : Int) + e
      if m = 2 ^ k then packEstimate f rm ftz (decide (ip < 0)) ip.natAbs 0 false
      else
        let frac := logFrac (m * 2 ^ (logPlaces - k)) 0 72
        if 0 ≤ ip then packEstimate f rm ftz false (ip.natAbs * 2 ^ 72 + frac) (-72) true
        else
          -- |log2 a| = -ip - frac, cut below
          packEstimate f rm ftz true (ip.natAbs * 2 ^ 72 - frac - 1) (-72) true

end Sys2Proof.Machine
end

