-- ==== Sys2Proof/Machine/Flags.lean ====
section
/-! DEFINITION. Flag computations: the sticky flags of FCSR and the FP trap of a scalar operation (R71 to R73). -/

namespace Sys2Proof.Machine

/-- The scalar rounding mode (R71). -/
def scalarRm (h : Hart) : Rm := rmOf (bits h.csr.fcsr 10 2)
/-- The scalar flush bit (R71). -/
def scalarFtz (h : Hart) : Bool := h.csr.fcsr.toNat.testBit 12
/-- The trap enables (R71). -/
def enables (c : Csr) : Nat := bits c.fcsr 5 5

/-- Flags joined into FCSR.FLAGS (R72). -/
def orFlags (h : Hart) (fl : Nat) : Hart :=
  { h with csr := { h.csr with fcsr := h.csr.fcsr ||| word (fl % 32) } }

/-- The end of a scalar FP instruction: its flags are joined in, and either its enabled flag traps with the
raised flags in TVAL and the destination unwritten, or the result is written (R72, R73, R149). -/
def fpResult (s : State) (d : SReg) (v : Word) (fl : Nat) : Out :=
  guardWrite s d (
    let s1 := { s with hart := orFlags s.hart fl }
    if fl &&& enables s.hart.csr ≠ 0 then .next (trapAt s1 0x10 (word fl) (topndS d))
    else .next (advance (setReg s1 d v)))

/-- The FP32 value of a register as the governing flush bit reads it (R69, R148). -/
def single (s : State) (r : SReg) : Num := operand fp32 (scalarFtz s.hart) (bits (getReg s r) 0 32)

/-- An FP32 result rounded under FCSR.RM and written with bits [63:32] zero (R148, R155). -/
def singleResult (s : State) (d : SReg) (x : Num × Nat) : Out :=
  let r := pack fp32 (scalarRm s.hart) (scalarFtz s.hart) x
  fpResult s d (word r.1) r.2

end Sys2Proof.Machine
end

