-- ==== Sys2Proof/Machine/Vector.lean ====
section
/-! DEFINITION. What all vector instructions share: the checks of R20 and R179, the loop over elements with
predicate, flags and FP trap (R73, R175), tails (R30, R177), tags and progress (R22, R26), and the trap of an
instruction that has started (R399). -/

namespace Sys2Proof.Machine

/-! ### Traps of an instruction that has started (R399) -/

/-- The vector instruction that executes, as the vector unit holds it to go on at `at_` (R31): under the register tags it
issued under, and with what it is to compute again (R73). -/
def heldAt (h : Hart) (tags : Vector (BitVec 4) 64) (at_ : Nat) (useM0 : Bool) (undo : List Undo) : Held :=
  ⟨h.vnow, h.ir, h.pc, h.regs, tags, h.csr.vtype, h.csr.vrcfg, h.csr.vl, at_, useM0, undo, h.convoy.head, h.convoy.count,
    .vector⟩

/-- The trap of the vector instruction that executes, which the vector unit holds to resume at `at_`; the control
thread resumes after it (R399).  `tags` are the register tags it issued under. -/
def startedTrap (s : State) (tags : Vector (BitVec 4) 64) (cause : Nat) (tval topnd : Word) (at_ : Nat) (useM0 : Bool)
    (flags : Nat) (undo : List Undo := []) : State :=
  let h := s.hart
  let s1 : State := { s with hart := { h with held := some (heldAt h tags at_ useM0 undo), started := true } }
  takeTrap s1 ⟨cause, tval, topnd, h.restart.epc.getD (h.pc + 4), h.pc, h.ir, h.convoy.head, h.convoy.count, flags⟩

/-- The vector instruction that executes stopped at the boundary `at_`, for a pre-emption or another that is to come first
(R31). -/
def pauseAt (s : State) (tags : Vector (BitVec 4) 64) (at_ : Nat) (useM0 : Bool) : Out :=
  .next { s with hart := { s.hart with held := some (heldAt s.hart tags at_ useM0 []) } }

/-- The step or row at which an instruction of `n` stops: `n`, or the boundary asked for, at least one further (R31). -/
def unitStop (h : Hart) (n : Nat) : Nat :=
  match h.restart.stop with
  | some k => Nat.min n (Nat.max k (h.restart.start + 1))
  | none => n

/-- The element at which an instruction over `n` elements stops: `n`, or the group boundary asked for, at least one group
further (R31). -/
def groupStop (h : Hart) (n : Nat) : Nat :=
  match h.restart.stop with
  | some k => Nat.min n (64 * Nat.max k (h.restart.start / 64 + 1))
  | none => n

/-- A trap before anything is performed: precise, its own address in EPC (R139), its record with the convoy that the
instruction is in (R36); an instruction that resumes after a trap has started, and is held again (R399). -/
def vecTrapAt (s : State) (cause : Nat) (tval topnd : Word) : Out :=
  if s.hart.restart.epc.isSome then
    .next (startedTrap s s.hart.vec.tags cause tval topnd s.hart.restart.start s.hart.restart.useM0 0)
  else
    let h := s.hart
    .next (takeTrap s ⟨cause, tval, topnd, h.pc, h.pc, h.ir, h.convoy.head, h.convoy.count, 0⟩)

/-- The same with the instruction word in TVAL. -/
def vecTrap (s : State) (cause : Nat) (topnd : Word) : Out := vecTrapAt s cause (s.hart.ir.zeroExtend 64) topnd

/-- The trap of a vector or matrix instruction whose register or accumulator is uncorrectable: logged, with a free TVAL (log
23). -/
def registerTrap (s : State) (c : SramClass) (topnd : Word) : Out :=
  let s1 := logStructure s s.hart.core c
  vecTrapAt { s1 with fresh := s.fresh + 1 } 0x0B (Config.registerTval s.fresh) topnd

/-! ### Checks before an instruction starts -/

/-- Steps 1 and 2 of R20 on the vector register operands in position order: the cause and the register. -/
def regsFail (c : Csr) (rs : List Nat) : Option (Nat × Nat) :=
  match rs.find? (fun r => decide (regCount c < r + groupOf c)) with
  | some r => some (0x05, r)
  | none => (rs.find? (fun r => decide (r % groupOf c ≠ 0))).map (fun r => (0x01, r))

/-- Whether two operands share a register. -/
def shares (c : Csr) (r t : Nat) : Bool := decide (r < t + groupOf c ∧ t < r + groupOf c)

/-- The capacity check of R179 at a tag; an untyped operand counts as 32 bits wide (R187). -/
def overfull (h : Hart) (t : Nat) : Bool := decide (capacity h.csr t < lengthOf h)

/-- Whether the destination fails step 3 of R20 at its result tag (R179). -/
def destFails (h : Hart) (d t : Nat) (srcs : List Nat) : Bool :=
  overfull h t || srcs.any (fun r => tagOfReg h r != 0 && narrowTag (tagOfReg h r) != narrowTag t && shares h.csr d r)

/-- The first source that fails step 3 of R20 by its own tag or capacity, or because the tag table rejects the pair
it heads: `bad` is that source's position. -/
def sourceFails (h : Hart) (srcs : List Nat) (bad : Option Nat) (anyTag : Bool) : Option Nat :=
  (firstBelow srcs.length (fun i =>
    let r := srcs.getD i 0
    (!anyTag && tagOfReg h r == 0) || overfull h (tagOfReg h r) || bad == some i)).map (fun i => srcs.getD i 0)

/-- Step 3 of R20: `tag` is the result tag, where there is one, `bad` the position of the source whose pair is
rejected. The operand that fails, destination first. -/
def operandFails (h : Hart) (dst tag bad : Option Nat) (srcs : List Nat) (anyTag : Bool) : Option Nat :=
  match dst, tag with
  | some d, some t => if destFails h d t srcs then some d else sourceFails h srcs bad anyTag
  | _, _ => sourceFails h srcs bad anyTag

/-- The same where the tag table gives either a result tag or the position of the source whose pair is rejected. -/
def typeFails (h : Hart) (dst : Option Nat) (res : Nat ⊕ Nat) (srcs : List Nat) (anyTag : Bool) : Option Nat :=
  match res with
  | .inl t => operandFails h dst (some t) none srcs anyTag
  | .inr i => operandFails h dst none (some i) srcs anyTag

/-- The register checks of R20, then `k`. -/
def checkRegs (s : State) (rs : List Nat) (k : Out) : Out :=
  match regsFail s.hart.csr rs with
  | some x => vecTrap s x.1 (topndV x.2 0)
  | none => k

/-- The checks of a permutation or a reduction (R20, R196 to R198, R202): the registers; a destination that shares a
register with a source that it may not, cause 0x01 (log 15); the tags. -/
def checkApart (s : State) (d : Nat) (srcs own : List Nat) (tag bad : Option Nat) (k : Out) : Out :=
  checkRegs s (d :: srcs) (
    if own.any (fun r => shares s.hart.csr d r) then vecTrap s 0x01 (topndV d 0)
    else
      match operandFails s.hart (some d) tag bad srcs false with
      | some r => vecTrap s 0x03 (topndV r 0)
      | none => k)

/-- Every check of R20, then `k`. -/
def checkVec (s : State) (dst : Option Nat) (srcs : List Nat) (res : Nat ⊕ Nat) (anyTag : Bool) (k : Out) : Out :=
  checkRegs s (dst.toList ++ srcs) (
    match typeFails s.hart dst res srcs anyTag with
    | some r => vecTrap s 0x03 (topndV r 0)
    | none => k)

/-! ### Progress and tags -/

/-- A vector destination's progress: `g` groups, complete or not (R26). -/
def setProgress (h : Hart) (r g : Nat) (done : Bool) : Hart :=
  { h with vec := { h.vec with
      index := (members r (groupOf h.csr)).foldl (fun x i => x.setIfInBounds i g) h.vec.index
      complete := (members r (groupOf h.csr)).foldl (fun x i => setBits x i 1 (if done then 1 else 0)) h.vec.complete
      missing := if done then h.vec.missing.filter (fun p => !(members r (groupOf h.csr)).contains p.1)
        else h.vec.missing } }

/-- A mask destination's progress (R26). -/
def setMaskProgress (h : Hart) (m g : Nat) (done : Bool) : Hart :=
  { h with vec := { h.vec with
      maskIndex := h.vec.maskIndex.setIfInBounds m g
      maskComplete := setBits h.vec.maskComplete m 1 (if done then 1 else 0) } }

/-- A destination complete after a writer of length `n` (R25, R26). -/
def completed (h : Hart) (r n : Nat) : Hart := setProgress h r (groupsOf n) true

/-- A mask destination complete after a writer of length `n`. -/
def completedMask (h : Hart) (m n : Nat) : Hart := setMaskProgress h m (groupsOf n) true

/-! ### Tails (R30, R177) -/

/-- The vector state with the same value in elements `e` to `e + k - 1` of an operand. -/
def fillVec (c : Csr) (v : Vec) (r : Nat) (narrow : Bool) (e k x : Nat) : Vec :=
  match k with
  | 0 => v
  | k + 1 => fillVec c (putElem c v r narrow e x) r narrow (e + 1) k x

/-- The tail of a vector destination, from element `n` to its capacity at tag `t`, under TPOL. -/
def vecTail (h : Hart) (r t n : Nat) : Hart :=
  if tpolOf h.csr = 0 then h
  else
    let x := if tpolOf h.csr = 1 then 0 else 2 ^ tagBits t - 1
    { h with vec := fillVec h.csr h.vec r (narrowTag t) n (capacity h.csr t - n) x }

/-- The tail of a mask destination, bits `n` to VLMAX - 1, under TPOL (R177). -/
def maskTail (h : Hart) (m n : Nat) : Hart :=
  let v := (h.vec.masks[m]?).getD 0
  let top := 2 ^ (Nat.max n (vlmax h.csr)) - 2 ^ n
  if tpolOf h.csr = 0 then h
  else if tpolOf h.csr = 1 then setMask h m (v - (v &&& top))
  else setMask h m (v ||| top)

/-! ### The loop over elements (R175) -/

/-- What a loop over elements leaves: the vector state, the flags raised, and the element and flags at which an
enabled flag trapped. -/
structure Sweep where
  vec : Vec
  flags : Nat
  stop : Option (Nat × Nat)
  deriving DecidableEq, Repr

/-- Elements `e` to `e + k - 1` in order: an active one is computed and written, an inactive one follows IPOL, and
an enabled flag ends the loop with its element unwritten (R73). -/
def sweep (f : Nat → Nat × Nat) (act : Nat → Bool) (zero : Bool) (write : Vec → Nat → Nat → Vec) (en e k : Nat)
    (v : Vec) (fl : Nat) : Sweep :=
  match k with
  | 0 => ⟨v, fl, none⟩
  | k + 1 =>
    if act e then
      let r := f e
      if r.2 &&& en ≠ 0 then ⟨v, fl ||| r.2, some (e, r.2)⟩
      else sweep f act zero write en (e + 1) k (write v e r.1) (fl ||| r.2)
    else sweep f act zero write en (e + 1) k (if zero then write v e 0 else v) fl

/-- The vector state with bit `e` of a mask register written. -/
def putMaskBit (v : Vec) (m e x : Nat) : Vec :=
  { v with masks := v.masks.setIfInBounds m (putBit ((v.masks[m]?).getD 0) e (x != 0)) }

/-- What elements `e` up to `e + k - 1` of an operand hold. -/
def undoElems (h : Hart) (r : Nat) (narrow : Bool) (e k : Nat) : List Undo :=
  (List.range k).map (fun i => .elem r narrow (e + i) (getElem h r narrow (e + i)))

/-- The vector state with what was there before put back (R73). -/
def putUndo (c : Csr) (v : Vec) (u : List Undo) : Vec :=
  match u with
  | [] => v
  | .elem r narrow e x :: rest => putUndo c (putElem c v r narrow e x) rest
  | .bit m e b :: rest =>
    putUndo c { v with masks := v.masks.setIfInBounds m (putBit ((v.masks[m]?).getD 0) e b) } rest

/-- An instruction with a vector destination `d` of tag `t` that computes element `e` as `f e`: tag, elements,
flags, tail, progress; the FP trap at the element that raises an enabled flag, whose group is computed again (R73,
R175); or the stop at a group boundary (R31). -/
def vecLoop (s : State) (d t : Nat) (act : Nat → Bool) (zero : Bool) (f : Nat → Nat × Nat) : Out :=
  let h := setTags s.hart d (groupOf s.hart.csr) t
  let n := lengthOf h
  let st := h.restart.start
  let z := groupStop h n
  let w := sweep f act zero (fun v e x => putElem h.csr v d (narrowTag t) e x) (enables h.csr) st (z - st) h.vec 0
  let h1 := orFlags { h with vec := w.vec } w.flags
  match w.stop with
  | some (e, fl) =>
    .next (startedTrap { s with hart := setProgress h1 d (e / 64) false } s.hart.vec.tags 0x10 (word fl) (topndV d e)
      (e / 64 * 64) false 0 (undoElems h d (narrowTag t) (e / 64 * 64) (e % 64)))
  | none =>
    if z < n then pauseAt { s with hart := setProgress h1 d (z / 64) false } s.hart.vec.tags z false
    else .next (advance { s with hart := completed (if n = 0 then h1 else vecTail h1 d t n) d n })

/-- The same with a mask destination (R190). -/
def maskLoop (s : State) (d : Nat) (act : Nat → Bool) (zero : Bool) (f : Nat → Nat × Nat) : Out :=
  let h := s.hart
  let n := lengthOf h
  let st := h.restart.start
  let z := groupStop h n
  let w := sweep f act zero (fun v e x => putMaskBit v d e x) (enables h.csr) st (z - st) h.vec 0
  let h1 := orFlags { h with vec := w.vec } w.flags
  match w.stop with
  | some (e, fl) =>
    .next (startedTrap { s with hart := setMaskProgress h1 d (e / 64) false } h.vec.tags 0x10 (word fl)
      (operandWord 3 d e) (e / 64 * 64) false 0
      ((List.range (e % 64)).map (fun i => .bit d (e / 64 * 64 + i) (maskBit h d (e / 64 * 64 + i)))))
  | none =>
    if z < n then pauseAt { s with hart := setMaskProgress h1 d (z / 64) false } h.vec.tags z false
    else .next (advance { s with hart := completedMask (if n = 0 then h1 else maskTail h1 d n) d n })

end Sys2Proof.Machine
end

