-- ==== Sys2Proof/Machine/Elementwise.lean ====
section
/-! DEFINITION. The elementwise instructions (R185 to R193): which operation each performs on one element, the
tag-combination table, and the instructions themselves.  A virtual processor performs the same operations on its
own element (R203). -/

namespace Sys2Proof.Machine

/-- What an elementwise instruction computes. -/
inductive ElemOp where
  | add | sub | rsub | mul
  | mulh (u : Bool) | div (u : Bool) | rem (u : Bool) | min (u : Bool) | max (u : Bool)
  | abs | neg | and | or | xor | shl | shr | sra
  | sadd (u : Bool) | ssub (u : Bool)
  | sqrt | rece | rsqe | exp2 | log2
  | mov
  | fma | fms | fnma | clamp
  | sel
  | cmp (u : Bool) (c : Cond)
  | cvt (sat u : Bool) (t : DTag)
  | bcast (x : Word)
  deriving DecidableEq, Repr

/-- The classes of R185. -/
inductive TagClass where
  | a | f | i | b | s
  deriving DecidableEq, Repr

/-- The tag-combination table (R185): the result tag of two source tags, or none for T. -/
def classTag (k : TagClass) (t1 t2 : Nat) : Option Nat :=
  match k, t1, t2 with
  | .a, 1, 1 => some 1
  | .f, 1, 1 => some 1
  | .a, 1, 2 => some 1
  | .a, 2, 1 => some 1
  | .a, 2, 2 => some 2
  | .f, 2, 2 => some 2
  | .a, 3, 3 => some 3
  | .i, 3, 3 => some 3
  | .b, 3, 3 => some 3
  | .s, 3, 3 => some 3
  | .a, 3, 4 => some 3
  | .i, 3, 4 => some 3
  | .s, 3, 4 => some 3
  | .a, 4, 3 => some 3
  | .i, 4, 3 => some 3
  | .s, 4, 3 => some 4
  | .a, 4, 4 => some 4
  | .i, 4, 4 => some 4
  | .b, 4, 4 => some 4
  | .s, 4, 4 => some 4
  | _, _, _ => none

/-- The class of an operation that the table governs (R185). -/
def ElemOp.tagClass (o : ElemOp) : Option TagClass :=
  match o with
  | .add | .sub | .rsub | .mul | .abs | .neg | .fma | .fms | .fnma | .clamp => some .a
  | .mulh _ | .rem _ | .sadd _ | .ssub _ => some .i
  | .div u | .min u | .max u => some (if u then .i else .a)
  | .cmp u _ => some (if u then .i else .a)
  | .and | .or | .xor => some .b
  | .shl | .shr | .sra => some .s
  | .sqrt | .rece | .rsqe | .exp2 | .log2 => some .f
  | .mov | .sel | .cvt .. | .bcast _ => none

/-- The number of a destination tag (R21). -/
def dtagNum (t : DTag) : Nat :=
  match t with
  | .f32 => 1
  | .bf16 => 2
  | .i32 => 3
  | .i16 => 4

/-- Whether a conversion is defined (R191). -/
def cvtOk (src : Nat) (sat u : Bool) (dst : Nat) : Bool :=
  src != 0 && (!sat || (src == 3 && dst == 4)) && !(u && (src == 1 || src == 2) && (dst == 1 || dst == 2))

/-- The result tag of an operation, or the position of the source that is rejected (R185, R191, R192); a failing
`VBCAST` is rejected before this (R178).  A pair that is rejected names its first source (R20), on a VP path too (log 15). -/
def resultTag (o : ElemOp) (dtag : Nat) (ts : List Nat) : Nat ⊕ Nat :=
  let t1 := ts.getD 0 0
  let t2 := ts.getD 1 t1
  match o.tagClass with
  | some k =>
    if t1 = 0 ∨ t2 = 0 then .inr 3
    else
      match classTag k t1 t2 with
      | none => .inr 0
      | some r =>
        match ts[2]? with
        | none => .inl r
        | some t3 => if t3 = 0 then .inr 3 else
          match classTag k r t3 with
          | none => .inr 2
          | some q => .inl q
  | none =>
    match o with
    | .mov => .inl t1
    | .sel => if t1 = 0 ∨ t2 = 0 then .inr 3 else if t1 = t2 then .inl t1 else .inr 0
    | .cvt sat u t => if cvtOk t1 sat u (dtagNum t) then .inl (dtagNum t) else .inr 0
    | _ => .inl dtag

/-- The format of a float tag. -/
def tagFmt (t : Nat) : FloatFmt := if t = 2 then bf16 else fp32

/-- Whether a tag is a float. -/
def floatTag (t : Nat) : Bool := t == 1 || t == 2

/-- Whether the opcode reads its sources unsigned. -/
def ElemOp.unsigned (o : ElemOp) : Bool :=
  match o with
  | .mulh u | .div u | .rem u | .min u | .max u | .sadd u | .ssub u | .cmp u _ | .cvt _ u _ => u
  | _ => false

/-- An integer source element as the opcode reads it (R185). -/
def intElem (u : Bool) (t x : Nat) : Int := if u then (x : Int) else signed (tagBits t) x

/-- An integer in `w` bits. -/
def wrap (w : Nat) (v : Int) : Nat := (v % (2 ^ w : Nat)).toNat

/-- Division under R75. -/
def quotient (w : Nat) (a b : Int) : Nat := if b = 0 then 2 ^ w - 1 else wrap w (a.tdiv b)
/-- Remainder under R75. -/
def remainder (w : Nat) (a b : Int) : Nat := if b = 0 then wrap w a else wrap w (a.tmod b)

/-- A value clamped to the signed or unsigned range of `w` bits (R75). -/
def saturate (w : Nat) (u : Bool) (v : Int) : Nat :=
  let lo : Int := if u then 0 else -((2 ^ (w - 1) : Nat) : Int)
  let hi : Int := if u then ((2 ^ w : Nat) : Int) - 1 else ((2 ^ (w - 1) : Nat) : Int) - 1
  wrap w (max lo (min hi v))

/-- A comparison of integers. -/
def compareInt (c : Cond) (a b : Int) : Bool :=
  match c with
  | .eq => decide (a = b)
  | .ne => decide (a ≠ b)
  | .lt => decide (a < b)
  | .le => decide (a ≤ b)
  | .gt => decide (b < a)
  | .ge => decide (b ≤ a)

/-- An integer operation on `w` bits (R186, R189, R190). -/
def intOp (o : ElemOp) (w : Nat) (a b c : Int) : Nat :=
  match o with
  | .add => wrap w (a + b)
  | .sub => wrap w (a - b)
  | .rsub => wrap w (b - a)
  | .mul => wrap w (a * b)
  | .mulh _ => wrap w (a * b / (2 ^ w : Nat))
  | .div _ => quotient w a b
  | .rem _ => remainder w a b
  | .min _ => wrap w (min a b)
  | .max _ => wrap w (max a b)
  | .abs => wrap w (if a < 0 then -a else a)
  | .neg => wrap w (-a)
  | .and => wrap w a &&& wrap w b
  | .or => wrap w a ||| wrap w b
  | .xor => wrap w a ^^^ wrap w b
  | .shl => wrap w a * 2 ^ (wrap w b % w) % 2 ^ w
  | .shr => wrap w a / 2 ^ (wrap w b % w)
  | .sra => wrap w (a / (2 ^ (wrap w b % w) : Nat))
  | .sadd u => saturate w u (a + b)
  | .ssub u => saturate w u (a - b)
  | .fma => wrap w (a * b + c)
  | .fms => wrap w (a * b - c)
  | .fnma => wrap w (c - a * b)
  | .clamp => wrap w (min (max a b) c)
  | .cmp _ k => if compareInt k a b then 1 else 0
  | _ => 0

/-- A float operation rounded into `f`, with its flags (R186, R188 to R190). -/
def floatOp (o : ElemOp) (f : FloatFmt) (rm : Rm) (ftz : Bool) (a b c : Num) : Nat × Nat :=
  match o with
  | .add => pack f rm ftz (addNum rm a b)
  | .sub => pack f rm ftz (addNum rm a b.neg)
  | .rsub => pack f rm ftz (addNum rm b a.neg)
  | .mul => pack f rm ftz (mulNum a b)
  | .div _ => pack f rm ftz (divNum a b)
  | .min _ => pack f rm ftz (minNum a b)
  | .max _ => pack f rm ftz (maxNum a b)
  | .abs => pack f rm ftz (a.abs, nanFlag a)
  | .neg => pack f rm ftz (a.neg, nanFlag a)
  | .sqrt => pack f rm ftz (sqrtNum a)
  | .rece => reciprocal f rm ftz a
  | .rsqe => rsqrt f rm ftz a
  | .exp2 => exp2 f rm ftz a
  | .log2 => log2Est f rm ftz a
  | .fma => pack f rm ftz (fmaNum rm a b c)
  | .fms => pack f rm ftz (fmaNum rm a b c.neg)
  | .fnma => pack f rm ftz (fmaNum rm a.neg b c)
  | .clamp =>
    let m := maxNum a b
    let r := minNum m.1 c
    pack f rm ftz (r.1, m.2 ||| r.2)
  | .cmp _ k => let r := compareNum k a b; (if r.1 then 1 else 0, r.2)
  | _ => (0, 0)

/-- A conversion of element `x` of tag `src` (R76, R191). -/
def convert (c : Csr) (sat u : Bool) (src dst x : Nat) : Nat × Nat :=
  if floatTag src then
    let n := operand (tagFmt src) (ftzOf c) x
    if floatTag dst then pack (tagFmt dst) (vrmOf c) (ftzOf c) (n, nanFlag n)
    else
      let w := tagBits dst
      let r := if u then toInt (vrmOf c) 0 (((2 ^ w : Nat) : Int) - 1) n
        else toInt (vrmOf c) (-((2 ^ (w - 1) : Nat) : Int)) (((2 ^ (w - 1) : Nat) : Int) - 1) n
      (wrap w r.1, r.2)
  else if floatTag dst then pack (tagFmt dst) (vrmOf c) (ftzOf c) (ofInt (intElem u src x), 0)
  else if sat then (saturate 16 u (intElem u src x), 0)
  else (wrap (tagBits dst) (intElem u src x), 0)

/-- One element: sources with their tags, the result tag, the mask bit of the element (R175, R192). -/
def compute (o : ElemOp) (c : Csr) (ts : List Nat) (t : Nat) (xs : List Nat) (m : Bool) : Nat × Nat :=
  let x0 := xs.getD 0 0
  let x1 := xs.getD 1 0
  let x2 := xs.getD 2 0
  let t0 := ts.getD 0 0
  let t1 := ts.getD 1 0
  let t2 := ts.getD 2 0
  match o with
  | .mov => (x0, 0)
  | .sel => (if m then x0 else x1, 0)
  | .bcast x => (x.toNat % 2 ^ tagBits t, 0)
  | .cvt sat u _ => convert c sat u t0 t x0
  | _ =>
    if floatTag t then
      floatOp o (tagFmt t) (vrmOf c) (ftzOf c) (operand (tagFmt t0) (ftzOf c) x0) (operand (tagFmt t1) (ftzOf c) x1)
        (operand (tagFmt t2) (ftzOf c) x2)
    else
      let u := o.unsigned
      (intOp o (tagBits t) (intElem u t0 x0) (intElem u t1 x1) (intElem u t2 x2), 0)

/-- What one elementwise word asks for: the operation, its destination, its source registers, its mask field. -/
structure ElemWord where
  op : ElemOp
  d : Nat
  srcs : List Nat
  m : MReg
  deriving DecidableEq, Repr

/-- Whether the destination is a mask register. -/
def ElemWord.toMask (w : ElemWord) : Bool :=
  match w.op with
  | .cmp .. => true
  | _ => false

/-- The tags of the sources. -/
def ElemWord.tags (w : ElemWord) (h : Hart) : List Nat := w.srcs.map (tagOfReg h)

/-- The result tag under the hart's VTYPE. -/
def ElemWord.result (w : ElemWord) (h : Hart) : Nat ⊕ Nat := resultTag w.op (dtagOf h.csr) (w.tags h)

/-- Element `e` of the word. -/
def ElemWord.elem (w : ElemWord) (h : Hart) (ts : List Nat) (t e : Nat) : Nat × Nat :=
  let xs := (List.range w.srcs.length).map (fun i => getElem h (w.srcs.getD i 0) (narrowTag (ts.getD i 0)) e)
  compute w.op h.csr ts t xs (active h w.m e)

/-- The cause and TOPND with which R20, R178 or R179 reject the word, or none. -/
def ElemWord.rejects (w : ElemWord) (h : Hart) : Option (Nat × Word) :=
  let dst := if w.toMask then none else some w.d
  match regsFail h.csr (dst.toList ++ w.srcs) with
  | some x => some (x.1, topndV x.2 0)
  | none =>
    match w.op with
    | .bcast _ =>
      if dtagOf h.csr = 0 then some (0x03, topndV w.d 0)
      else (typeFails h dst (w.result h) [] false).map (fun r => (0x03, topndV r 0))
    | .mov => (typeFails h dst (w.result h) w.srcs true).map (fun r => (0x03, topndV r 0))
    | .cvt _ _ t =>
      let bad := match w.result h with
        | .inl _ => none
        | .inr i => some i
      (operandFails h dst (some (dtagNum t)) bad w.srcs false).map (fun r => (0x03, topndV r 0))
    | _ => (typeFails h dst (w.result h) w.srcs false).map (fun r => (0x03, topndV r 0))

/-- An elementwise instruction (R175). -/
def elementwise (s : State) (w : ElemWord) : Out :=
  match w.rejects s.hart with
  | some x => vecTrap s x.1 x.2
  | none =>
    let h := s.hart
    let ts := w.tags h
    let t := match w.result h with
      | .inl t => t
      | .inr _ => 0
    let act := if w.op == .sel then fun _ => true else active h w.m
    if w.toMask then maskLoop s w.d act (ipolOf h.csr) (w.elem h ts t)
    else vecLoop s w.d t act (ipolOf h.csr) (w.elem h ts t)

/-- A unary word. -/
def unary (o : ElemOp) (d a : VReg) (m : MReg) : ElemWord := ⟨o, d.val, [a.val], m⟩
/-- A binary word. -/
def binary (o : ElemOp) (d a b : VReg) (m : MReg) : ElemWord := ⟨o, d.val, [a.val, b.val], m⟩
/-- A ternary word. -/
def ternary (o : ElemOp) (d a b c : VReg) (m : MReg) : ElemWord := ⟨o, d.val, [a.val, b.val, c.val], m⟩

/-- VADD. -/
def execVadd (d a b : VReg) (m : MReg) (s : State) : Out := elementwise s (binary .add d a b m)
/-- VSUB. -/
def execVsub (d a b : VReg) (m : MReg) (s : State) : Out := elementwise s (binary .sub d a b m)
/-- VRSUB. -/
def execVrsub (d a b : VReg) (m : MReg) (s : State) : Out := elementwise s (binary .rsub d a b m)
/-- VMUL. -/
def execVmul (d a b : VReg) (m : MReg) (s : State) : Out := elementwise s (binary .mul d a b m)
/-- VMULH. -/
def execVmulh (d a b : VReg) (m : MReg) (s : State) : Out := elementwise s (binary (.mulh false) d a b m)
/-- VMULH.u. -/
def execVmulhU (d a b : VReg) (m : MReg) (s : State) : Out := elementwise s (binary (.mulh true) d a b m)
/-- VDIV. -/
def execVdiv (d a b : VReg) (m : MReg) (s : State) : Out := elementwise s (binary (.div false) d a b m)
/-- VDIV.u. -/
def execVdivU (d a b : VReg) (m : MReg) (s : State) : Out := elementwise s (binary (.div true) d a b m)
/-- VREM. -/
def execVrem (d a b : VReg) (m : MReg) (s : State) : Out := elementwise s (binary (.rem false) d a b m)
/-- VREM.u. -/
def execVremU (d a b : VReg) (m : MReg) (s : State) : Out := elementwise s (binary (.rem true) d a b m)
/-- VMIN. -/
def execVmin (d a b : VReg) (m : MReg) (s : State) : Out := elementwise s (binary (.min false) d a b m)
/-- VMIN.u. -/
def execVminU (d a b : VReg) (m : MReg) (s : State) : Out := elementwise s (binary (.min true) d a b m)
/-- VMAX. -/
def execVmax (d a b : VReg) (m : MReg) (s : State) : Out := elementwise s (binary (.max false) d a b m)
/-- VMAX.u. -/
def execVmaxU (d a b : VReg) (m : MReg) (s : State) : Out := elementwise s (binary (.max true) d a b m)
/-- VABS. -/
def execVabs (d a : VReg) (m : MReg) (s : State) : Out := elementwise s (unary .abs d a m)
/-- VNEG. -/
def execVneg (d a : VReg) (m : MReg) (s : State) : Out := elementwise s (unary .neg d a m)
/-- VAND. -/
def execVand (d a b : VReg) (m : MReg) (s : State) : Out := elementwise s (binary .and d a b m)
/-- VOR. -/
def execVor (d a b : VReg) (m : MReg) (s : State) : Out := elementwise s (binary .or d a b m)
/-- VXOR. -/
def execVxor (d a b : VReg) (m : MReg) (s : State) : Out := elementwise s (binary .xor d a b m)
/-- VSHL. -/
def execVshl (d a b : VReg) (m : MReg) (s : State) : Out := elementwise s (binary .shl d a b m)
/-- VSHR. -/
def execVshr (d a b : VReg) (m : MReg) (s : State) : Out := elementwise s (binary .shr d a b m)
/-- VSRA. -/
def execVsra (d a b : VReg) (m : MReg) (s : State) : Out := elementwise s (binary .sra d a b m)
/-- VSADD. -/
def execVsadd (d a b : VReg) (m : MReg) (s : State) : Out := elementwise s (binary (.sadd false) d a b m)
/-- VSADD.u. -/
def execVsaddU (d a b : VReg) (m : MReg) (s : State) : Out := elementwise s (binary (.sadd true) d a b m)
/-- VSSUB. -/
def execVssub (d a b : VReg) (m : MReg) (s : State) : Out := elementwise s (binary (.ssub false) d a b m)
/-- VSSUB.u. -/
def execVssubU (d a b : VReg) (m : MReg) (s : State) : Out := elementwise s (binary (.ssub true) d a b m)
/-- VSQRT. -/
def execVsqrt (d a : VReg) (m : MReg) (s : State) : Out := elementwise s (unary .sqrt d a m)
/-- VRECE. -/
def execVrece (d a : VReg) (m : MReg) (s : State) : Out := elementwise s (unary .rece d a m)
/-- VRSQE. -/
def execVrsqe (d a : VReg) (m : MReg) (s : State) : Out := elementwise s (unary .rsqe d a m)
/-- VEXP2. -/
def execVexp2 (d a : VReg) (m : MReg) (s : State) : Out := elementwise s (unary .exp2 d a m)
/-- VLOG2. -/
def execVlog2 (d a : VReg) (m : MReg) (s : State) : Out := elementwise s (unary .log2 d a m)
/-- VMOV. -/
def execVmov (d a : VReg) (m : MReg) (s : State) : Out := elementwise s (unary .mov d a m)
/-- VFMA. -/
def execVfma (d a b c : VReg) (m : MReg) (s : State) : Out := elementwise s (ternary .fma d a b c m)
/-- VFMS. -/
def execVfms (d a b c : VReg) (m : MReg) (s : State) : Out := elementwise s (ternary .fms d a b c m)
/-- VFNMA. -/
def execVfnma (d a b c : VReg) (m : MReg) (s : State) : Out := elementwise s (ternary .fnma d a b c m)
/-- VCLAMP. -/
def execVclamp (d a b c : VReg) (m : MReg) (s : State) : Out := elementwise s (ternary .clamp d a b c m)
/-- VSEL: every element is written, from vs1 or vs2 by the mask (R192). -/
def execVsel (d a b : VReg) (m : MReg) (s : State) : Out := elementwise s (binary .sel d a b m)
/-- VCMP (R190). -/
def execVcmp (d : MReg) (a b : VReg) (m : MReg) (u : Bool) (c : Cond) (s : State) : Out :=
  elementwise s ⟨.cmp u c, d.val, [a.val, b.val], m⟩
/-- VCVT (R191). -/
def execVcvt (d a : VReg) (m : MReg) (sat u : Bool) (t : DTag) (s : State) : Out :=
  elementwise s (unary (.cvt sat u t) d a m)
/-- VBCAST (R193). -/
def execVbcast (d : VReg) (r : SReg) (m : MReg) (s : State) : Out :=
  elementwise s ⟨.bcast (getReg s r), d.val, [], m⟩

/-- The elementwise word of an instruction that a virtual processor may execute (R140), with the scalar operand of
`VBCAST` as the control thread holds it. -/
def elemWordOf (s : State) (i : Instr) : Option ElemWord :=
  match i with
  | .vadd d a b m => some (binary .add d a b m)
  | .vsub d a b m => some (binary .sub d a b m)
  | .vrsub d a b m => some (binary .rsub d a b m)
  | .vmul d a b m => some (binary .mul d a b m)
  | .vmulh d a b m => some (binary (.mulh false) d a b m)
  | .vmulhU d a b m => some (binary (.mulh true) d a b m)
  | .vdiv d a b m => some (binary (.div false) d a b m)
  | .vdivU d a b m => some (binary (.div true) d a b m)
  | .vrem d a b m => some (binary (.rem false) d a b m)
  | .vremU d a b m => some (binary (.rem true) d a b m)
  | .vmin d a b m => some (binary (.min false) d a b m)
  | .vminU d a b m => some (binary (.min true) d a b m)
  | .vmax d a b m => some (binary (.max false) d a b m)
  | .vmaxU d a b m => some (binary (.max true) d a b m)
  | .vand d a b m => some (binary .and d a b m)
  | .vor d a b m => some (binary .or d a b m)
  | .vxor d a b m => some (binary .xor d a b m)
  | .vshl d a b m => some (binary .shl d a b m)
  | .vshr d a b m => some (binary .shr d a b m)
  | .vsra d a b m => some (binary .sra d a b m)
  | .vsadd d a b m => some (binary (.sadd false) d a b m)
  | .vsaddU d a b m => some (binary (.sadd true) d a b m)
  | .vssub d a b m => some (binary (.ssub false) d a b m)
  | .vssubU d a b m => some (binary (.ssub true) d a b m)
  | .vabs d a m => some (unary .abs d a m)
  | .vneg d a m => some (unary .neg d a m)
  | .vsqrt d a m => some (unary .sqrt d a m)
  | .vrece d a m => some (unary .rece d a m)
  | .vrsqe d a m => some (unary .rsqe d a m)
  | .vexp2 d a m => some (unary .exp2 d a m)
  | .vlog2 d a m => some (unary .log2 d a m)
  | .vmov d a m => some (unary .mov d a m)
  | .vfma d a b c m => some (ternary .fma d a b c m)
  | .vfms d a b c m => some (ternary .fms d a b c m)
  | .vfnma d a b c m => some (ternary .fnma d a b c m)
  | .vclamp d a b c m => some (ternary .clamp d a b c m)
  | .vsel d a b m => some (binary .sel d a b m)
  | .vcmp d a b m u c => some ⟨.cmp u c, d.val, [a.val, b.val], m⟩
  | .vcvt d a m sat u t => some (unary (.cvt sat u t) d a m)
  | .vbcast d r m => some ⟨.bcast (getReg s r), d.val, [], m⟩
  | _ => none

end Sys2Proof.Machine
end

