-- ==== Sys2Proof/Machine/Permute.lean ====
section
/-! DEFINITION. Index generation, slides, gather, compress, extract, insert and progress (R194, R196 to R201). -/

namespace Sys2Proof.Machine

/-- How many elements from `a` to `b - 1` a mask has set. -/
def countFrom (p : Nat → Bool) (a b : Nat) : Nat := countBelow (b - a) (fun i => p (a + i))

/-- The count that an instruction with a cross-element carry starts from (R31, R32): cleared when it starts. -/
def carriedCount (h : Hart) : Nat := if h.restart.start = 0 then 0 else h.vec.carryCount.toNat

/-- The carry taken by an instruction that uses it, with a count (R32). -/
def takeCarry (h : Hart) (n : Nat) : Hart := { h with vec := { h.vec with carry := [], carryCount := BitVec.ofNat 32 n } }

/-- VIOTA: element indices, or the number of active elements below, which the carry keeps (R194). -/
def execViota (d : VReg) (m : MReg) (s : State) : Out :=
  let h := s.hart
  let t := dtagOf h.csr
  checkRegs s [d.val] (
    if (t != 3 && t != 4) || overfull h t then vecTrap s 0x03 (topndV d.val 0)
    else
      let st := h.restart.start
      let c0 := carriedCount h
      let z := groupStop h (lengthOf h)
      let s1 := if m = 0 then s else { s with hart := takeCarry h (c0 + countFrom (active h m) st z) }
      vecLoop s1 d.val t (active h m) (ipolOf h.csr) (fun e =>
        let v := if m = 0 then e else c0 + countFrom (active h m) st e
        (v % 2 ^ tagBits t, 0)))

/-- The result tag of an instruction that takes vs1's tag. -/
def sameTag (h : Hart) (a : Nat) : Nat ⊕ Nat := if tagOfReg h a = 0 then .inr 9 else .inl (tagOfReg h a)

/-- A result tag, where the source that gives it has one. -/
def knownTag (t : Nat) : Option Nat := if t = 0 then none else some t

/-- VGATH: vs1 by the index vector vs2 (R197). -/
def execVgath (d a b : VReg) (m : MReg) (s : State) : Out :=
  let h := s.hart
  let t := tagOfReg h a.val
  let ti := tagOfReg h b.val
  checkApart s d.val [a.val, b.val] [a.val, b.val] (knownTag t) (if ti = 1 ∨ ti = 2 then some 1 else none) (
    vecLoop s d.val t (active h m) (ipolOf h.csr) (fun e =>
      let i := getElem h b.val (narrowTag ti) e
      (if i < lengthOf h then getElem h a.val (narrowTag t) i else 0, 0)))

/-- VSLUP and VSLDN: an element from below or above, or the fill (R196). -/
def slide (up : Bool) (d a : VReg) (r f : SReg) (m : MReg) (s : State) : Out :=
  let h := s.hart
  let t := tagOfReg h a.val
  let k := (getReg s r).toNat
  let fill := (getReg s f).toNat % 2 ^ tagBits t
  checkApart s d.val [a.val] [a.val] (knownTag t) none (
    vecLoop s d.val t (active h m) (ipolOf h.csr) (fun e =>
      (if up then (if k ≤ e then getElem h a.val (narrowTag t) (e - k) else fill)
       else if e + k < lengthOf h then getElem h a.val (narrowTag t) (e + k) else fill, 0)))

/-- VSLUP. -/
def execVslup (d a : VReg) (r f : SReg) (m : MReg) (s : State) : Out := slide true d a r f m s
/-- VSLDN. -/
def execVsldn (d a : VReg) (r f : SReg) (m : MReg) (s : State) : Out := slide false d a r f m s

/-- Values written to elements `e`, `e + 1`, ... of an operand. -/
def packVec (c : Csr) (v : Vec) (r : Nat) (narrow : Bool) (e : Nat) (xs : List Nat) : Vec :=
  match xs with
  | [] => v
  | x :: rest => packVec c (putElem c v r narrow e x) r narrow (e + 1) rest

/-- VCOMP: the active elements packed, the rest tail (R198); the carry keeps the output position, which has completed the
groups that it is past (R31). -/
def execVcomp (d a : VReg) (m : MReg) (s : State) : Out :=
  let h := s.hart
  let t := tagOfReg h a.val
  checkApart s d.val [a.val] [a.val] (knownTag t) none (
    let n := lengthOf h
    let st := h.restart.start
    let z := groupStop h n
    let c0 := carriedCount h
    let xs := (((List.range (z - st)).map (st + ·)).filter (active h m)).map (getElem h a.val (narrowTag t))
    let h1 := setTags h d.val (groupOf h.csr) t
    let h2 : Hart := { h1 with vec := packVec h.csr h1.vec d.val (narrowTag t) c0 xs }
    if z < n then
      pauseAt { s with hart := setProgress (takeCarry h2 (c0 + xs.length)) d.val ((c0 + xs.length) / 64) false } h.vec.tags z false
    else
      let h3 := takeCarry (if n = 0 then h1 else vecTail h2 d.val t (c0 + xs.length)) 0
      .next (advance { s with hart := completed h3 d.val n }))

/-- Element U(rs) of vs1 as a scalar (R199). -/
def extract (sx : Bool) (d : SReg) (a : VReg) (r : SReg) (s : State) : Out :=
  let h := s.hart
  let t := tagOfReg h a.val
  guardWrite s d (checkVec s none [a.val] (sameTag h a.val) false (
    let i := (getReg s r).toNat
    let x := if i < lengthOf h then getElem h a.val (narrowTag t) i else 0
    .next (advance (setReg s d (if sx && (t == 3 || t == 4) then sextWord (tagBits t) x else word x)))))

/-- VEXT. -/
def execVext (d : SReg) (a : VReg) (r : SReg) (s : State) : Out := extract true d a r s
/-- VEXT.u. -/
def execVextU (d : SReg) (a : VReg) (r : SReg) (s : State) : Out := extract false d a r s

/-- VINS: one element of a complete register, whose most recent writer it then is (R26, R200; log 30). -/
def execVins (d : VReg) (r v : SReg) (s : State) : Out :=
  let h := s.hart
  let t := tagOfReg h d.val
  checkVec s none [d.val] (sameTag h d.val) false (
    let i := (getReg s r).toNat
    let h1 := if i < lengthOf h then setElem h d.val (narrowTag t) i ((getReg s v).toNat % 2 ^ tagBits t) else h
    .next (advance { s with hart := completed h1 d.val (lengthOf h) }))

/-- VPROG: the progress of vs1, sampled (R201). -/
def execVprog (d : SReg) (a : VReg) (s : State) : Out :=
  guardWrite s d (checkRegs s [a.val] (
    let v := s.hart.vec
    .next (advance (setReg s d (word
      ((v.index[a.val]?).getD 0 + (if v.complete.toNat.testBit a.val then 2 ^ 32 else 0)))))))

end Sys2Proof.Machine
end

