-- ==== Sys2Proof/Machine/VectorMem.lean ====
section
/-! DEFINITION. Vector memory accesses: which elements an access performs, where each lands, what trims it and what
it traps on (R48 to R52, R207 to R214), and the plain loads and stores. -/

namespace Sys2Proof.Machine

/-! ### One element -/

/-- Bytes of an element in memory: a virtual address and how many. -/
structure Piece where
  addr : Word
  size : Nat
  deriving DecidableEq, Repr

/-- What the address pipeline finds for an element (R213): where its pieces lie; the 4 KiB frames that are not
resident; or the cause with which it is denied.  The flag is stage 2. -/
inductive Fate where
  | ok (places : List Place)
  | missing (frames : List Nat) (stage2 : Bool)
  | denied (cause : Nat) (stage2 : Bool)
  deriving DecidableEq, Repr

/-- The form of an access: its mask field, the alignment of its elements, whether it writes and whether it reads
memory, whether it is first-fault, and the file and register of its address operand. -/
structure Form where
  m : MReg
  w : Nat
  write : Bool
  read : Bool
  ff : Bool
  file : Nat
  reg : Nat
  deriving DecidableEq, Repr

/-- The address space an access asks in. -/
def Form.kind (f : Form) : Access := if f.write then .write else .read

/-- TOPND of an access at element `e`. -/
def Form.topnd (f : Form) (e : Nat) : Word := operandWord f.file f.reg e

/-- Whether a piece is out of range (R48). -/
def outOfRange (local_ : Bool) (p : Piece) : Bool :=
  if local_ then !(decide (0x100000 ≤ p.addr.toNat) && decide (p.addr.toNat + p.size ≤ 0x300000))
  else decide (p.addr.toNat < globalBase)

/-- A written line that is marked lost (R394): a partial write of it is denied. -/
def lostLine (s : State) (pa size : Nat) : Bool :=
  s.bad.any (fun b => match b with
    | .lostLine l => decide (l / 64 * 64 < pa + size ∧ pa < l / 64 * 64 + 64)
    | _ => false)

/-- The fate of one piece of an element in range (R213). -/
def pieceFate (s : State) (f : Form) (local_ : Bool) (p : Piece) : Fate × State :=
  if local_ then
    let o := p.addr.toNat - 0x100000
    (if f.write && touchesBusySlot s s.hart o p.size then .denied 0x09 false
     else if f.read && badBytes s s.hart (.spad o) p.size then .denied 0x0B false
     else .ok [.spad o], s)
  else
    let r := probe s s.hart.core (partOf s.hart) (supervisor s.hart) p.addr p.size f.kind
    let both := if f.read && f.write then
      (probe r.2 s.hart.core (partOf s.hart) (supervisor s.hart) p.addr p.size .read).1.1 else r.1.1
    match r.1.1, both with
    | .missing st, _ => (.missing [p.addr.toNat / 4096 * 4096] st, r.2)
    | .denied c st, _ => (.denied c st, r.2)
    | .ok _, .denied c st => (.denied c st, r.2)
    | .ok pa, _ =>
      (if (f.read && badMem s pa p.size) || (f.write && lostLine s pa p.size) then .denied 0x0B false
       else .ok [.phys pa], r.2)

/-- The fates of an element's pieces joined: denied before missing before resident. -/
def joinFate (a b : Fate) : Fate :=
  match a, b with
  | .denied c st, _ => .denied c st
  | _, .denied c st => .denied c st
  | .missing x s1, .missing y s2 => .missing (x ++ y) (s1 || s2)
  | .missing x s1, .ok _ => .missing x s1
  | .ok _, .missing y s2 => .missing y s2
  | .ok x, .ok y => .ok (x ++ y)

/-- The fate of an element (R213). -/
def elemFate (s : State) (f : Form) (local_ : Bool) (ps : List Piece) : Fate × State :=
  ps.foldl (fun acc p => let r := pieceFate acc.2 f local_ p; (joinFate acc.1 r.1, r.2)) (.ok [], s)

/-! ### Judging an access -/

/-- An element as judged: its number, its address, its fate. -/
structure Judged where
  e : Nat
  addr : Word
  fate : Fate
  deriving DecidableEq, Repr

/-- The active elements of an access as far as they are judged, the element at which the range ends it, and the
state with what translation leaves behind (R208). -/
structure Judgement where
  els : List Judged
  cut : Option (Nat × Word)
  deriving DecidableEq, Repr

/-- The address of an element: that of its first piece. -/
def addrOf (ps : List Piece) : Word := (ps.head?.map (·.addr)).getD 0

/-- The active elements judged in increasing order (R208). -/
def judge (s : State) (f : Form) (local_ : Bool) (pieces : Nat → List Piece) (es : List Nat) (acc : List Judged) :
    Judgement × State :=
  match es with
  | [] => (⟨acc.reverse, none⟩, s)
  | e :: rest =>
    let ps := pieces e
    if ps.any (outOfRange local_) then (⟨acc.reverse, some (e, addrOf ps)⟩, s)
    else if (addrOf ps).toNat % f.w ≠ 0 then judge s f local_ pieces rest (⟨e, addrOf ps, .denied 0x06 false⟩ :: acc)
    else
      let r := elemFate s f local_ ps
      judge r.2 f local_ pieces rest (⟨e, addrOf ps, r.1⟩ :: acc)

/-- An element's mask bit, and the m0 bit where the access resumes under m0 (R214). -/
def enabled (h : Hart) (m : MReg) (e : Nat) : Bool := active h m e && (!h.restart.useM0 || maskBit h 0 e)

/-- A trap that an access ends in: out of range in matrix mode (R52), a page-fault batch, or a denied element
(R213). -/
inductive AccessTrap where
  | range (e : Nat) (addr : Word)
  | batch (frames : List Nat) (e : Nat) (stage2 : Bool)
  | deny (cause e : Nat) (addr : Word) (stage2 : Bool)
  deriving DecidableEq, Repr

/-- What an access does: the elements it covers, the VL it leaves where it trims, the elements it performs with
their places, the trap it ends in, the elements that m0 then marks, and the group boundary at which it stops, if it
does. -/
structure Plan where
  len : Nat
  vl : Option Nat
  els : List (Nat × List Place)
  trap : Option AccessTrap
  marks : List Nat
  stop : Option Nat
  deriving DecidableEq, Repr

/-- The elements that are resident. -/
def resident (js : List Judged) : List (Nat × List Place) :=
  js.filterMap (fun j => match j.fate with
    | .ok ps => some (j.e, ps)
    | _ => none)

/-- Whether an element cannot be performed. -/
def Judged.failed (j : Judged) : Bool :=
  match j.fate with
  | .ok _ => false
  | _ => true

/-- A list of frames in rising order without repeats. -/
def insertFrame (x : Nat) (xs : List Nat) : List Nat :=
  match xs with
  | [] => [x]
  | y :: ys => if x < y then x :: y :: ys else if x = y then y :: ys else y :: insertFrame x ys

/-- The frames of every non-resident element (R327). -/
def missingFrames (js : List Judged) : List Nat :=
  js.foldl (fun acc j => match j.fate with
    | .missing fs _ => fs.foldl (fun a x => insertFrame x a) acc
    | _ => acc) []

/-- Whether a missing page misses in stage 2. -/
def missingStage2 (js : List Judged) : Bool :=
  js.any (fun j => match j.fate with
    | .missing _ st => st
    | _ => false)

/-- The first element that satisfies `p`. -/
def firstWhere (js : List Judged) (p : Judged → Bool) : Option Judged := js.find? p

/-- The plan of an access whose elements are judged (R50, R52, R211, R213).  `n` is its length, `es` its active elements. An
element that the range ends in matrix mode is met once those below it are performed (R52).  A `VLDFF` writes in
increasing order, and so nothing above a first element that cannot be loaded; what goes on at a later group has performed its
first element (R211). -/
def plan (s : State) (f : Form) (n : Nat) (es : List Nat) (x : Judgement) : Plan :=
  let ff := f.ff && !s.hart.vec.matrix
  let first := x.els.head?
  let firstBad := s.hart.restart.start == 0 && (first.map (·.failed)).getD false
  if ff && !firstBad && x.els.any (·.failed) then
    let e := ((firstWhere x.els (·.failed)).map (·.e)).getD n
    ⟨e, some e, resident (x.els.filter (fun j => j.e < e)), none, [], none⟩
  else
    let len := match x.cut with
      | some (e, _) => e
      | none => n
    let vl := match x.cut with
      | some (e, _) => if s.hart.vec.matrix then none else some e
      | none => none
    let denied := firstWhere x.els (fun j => match j.fate with
      | .denied .. => true
      | _ => false)
    let missing := firstWhere x.els (fun j => match j.fate with
      | .missing .. => true
      | _ => false)
    let bound := (denied.map (·.e)).getD len
    let run := if ff && firstBad then []
      else resident (x.els.filter (fun j => j.e < bound || Config.performsAbove s.fresh j.e))
    let covered := if vl.isSome then es.filter (· < len) else es
    let marks := covered.filter (fun e => !run.any (fun r => r.1 == e))
    let batch := match missing with
      | some j => if j.e < bound then some (AccessTrap.batch (missingFrames x.els) j.e (missingStage2 x.els)) else none
      | none => none
    match batch, denied with
    | some b, _ => ⟨len, vl, run, some b, marks, none⟩
    | none, some d =>
      (match d.fate with
        | .denied c st => ⟨len, vl, run, some (.deny c d.e d.addr st), marks, none⟩
        | _ => ⟨len, vl, run, none, [], none⟩)
    | none, none =>
      match x.cut with
      | some (e, a) =>
        if s.hart.vec.matrix then ⟨len, vl, resident x.els, some (.range e a), [], none⟩
        else ⟨len, vl, resident x.els, none, [], none⟩
      | none => ⟨len, vl, resident x.els, none, [], none⟩

/-- The element at which a `VLDFF` ends with no trap, logged where its data is uncorrectable (R211, R394). -/
def logTrim (s : State) (f : Form) (x : Judgement) (p : Plan) : State :=
  match p.trap, p.vl, firstWhere x.els (·.failed) with
  | none, some v, some ⟨e, va, .denied 0x0B _⟩ => if f.ff && v == e then logError s s.hart.core va else s
  | _, _, _ => s

/-- A plan without a trap that stops at the boundary `z`: what lies below it is performed (R31). -/
def Plan.upTo (p : Plan) (z : Nat) : Plan :=
  if p.trap.isNone && decide (z < p.len) then { p with els := p.els.filter (·.1 < z), stop := some z } else p

/-! ### Local data -/

/-- The number of the instruction that accesses memory: the running `VF`'s where a virtual processor does. -/
def sender (h : Hart) : Nat :=
  match h.vpNow, h.vf with
  | some _, some v => v.seq
  | _, _ => h.vnow

/-- A delivery into the scratchpad of the hart's core that a copy-tracking context follows (R53): its range, and whether the
byte at an offset in it is written: a `COPY` writes its chunks, or words of them ahead. -/
def tracked (s : State) (e : Engine) : Option (Nat × Nat × (Nat → Bool)) :=
  match e.kind with
  | .copy dst _ len _ chunks lost =>
    if dst.toNat < globalBase ∧ e.fault.isNone then
      let o := dst.toNat - 0x100000
      some (o, len, fun x => chunks.contains ((x - o) / 1024) || lost.contains ((x - o) / 1024) ||
        s.early.any (fun y => y.engine == e.id && y.written && y.n == (x - o) / 8))
    else none
  | _ => none

/-- Whether a byte of the scratchpad still waits, for vector instruction `n`, for a tracked delivery before it in program order
(R54): some row of its bank in the range, up to its own, is not written, so that the bank's arrival pointer does not exceed its
row (R53). -/
def copyCovers (s : State) (h : Hart) (n o : Nat) : Bool :=
  h.engines.any (fun e => match tracked s e with
    | none => false
    | some (lo, len, done) =>
      decide (e.after < n) && decide (lo ≤ o ∧ o < lo + len) &&
        (List.range (o / 256 - lo / 256 + 1)).any (fun i =>
          let x := o - 256 * i
          decide (lo ≤ x) && !done x))

/-- Whether a place of the access waits for a copy (R54), or is uncorrectable (R394). -/
def localPlace (ps : List Place) (f : Nat → Bool) : Bool :=
  ps.any (fun p => match p with
    | .spad o => f o
    | _ => false)

/-! ### The access -/

/-- The state that an access leaves when it ends: its trap taken with m0 and a place to resume from, or VL trimmed
and the pc advanced (R50, R213, R214). -/
def finish (s : State) (tags : Vector (BitVec 4) 64) (f : Form) (p : Plan) : Out :=
  let h0 := s.hart
  let h : Hart := match p.vl with
    | some v => { h0 with csr := { h0.csr with vl := word v } }
    | none => h0
  let s := { s with hart := h }
  let marked := setMask h 0 (p.marks.foldl (fun v x => putBit v x true) 0)
  match p.trap with
  | none =>
    (match p.stop with
      | some z => pauseAt s tags z h.restart.useM0
      | none => .next (advance { s with hart := if h.restart.useM0 then setMask h 0 0 else h }))
  | some (.range e a) =>
    .next (startedTrap s tags 0x0C a (f.topnd e) (if f.read && f.write then e else e / 64 * 64) h.restart.useM0 0)
  | some (.batch frames e st) =>
    let n := pcpWord s (partOf h) 0x38
    let s1 := writeBatch { s with hart := marked, fresh := s.fresh + 1 } h frames
      ((if st then 1 else 0) + (if f.write then 2 else 0))
    .next (startedTrap s1 tags 0x08 n (f.topnd e) h.restart.start true (if st then 4 else 0))
  | some (.deny c e a st) =>
    .next (startedTrap { logCause s c a with hart := marked, fresh := s.fresh + 1 } tags c a (f.topnd e) h.restart.start true
      (if st then 4 else 0))

/-- A vector access of length `n` (R208): the first active element's own checks, the judgement of all active elements as
the access leaves the queue (R51), and then `k` on the plan, up to the group boundary at which it stops, unless it traps.
What goes on behind such a boundary has passed the first element's checks. -/
def vecAccess (s : State) (f : Form) (n : Nat) (pieces : Nat → List Piece) (k : State → Plan → Out) : Out :=
  let h := s.hart
  let st := h.restart.start
  let z := groupStop h n
  let es := (List.range n).filter (fun e => decide (st ≤ e) && enabled h f.m e)
  match es with
  | [] => k s ⟨n, none, [], none, [], if z < n then some z else none⟩
  | e0 :: _ =>
    let ps := pieces e0
    let a := addrOf ps
    let lead := match (List.range n).find? (active h f.m) with
      | some e => addrOf (pieces e)
      | none => a
    let local_ := decide (lead.toNat < globalBase)
    if st = 0 ∧ a.toNat % f.w ≠ 0 then vecTrapAt s 0x06 a (f.topnd e0)
    else if st = 0 ∧ ps.any (outOfRange local_) then vecTrapAt s 0x0C a (f.topnd e0)
    else
      let j := judge s f local_ pieces es []
      let p := (plan s f n es j.1).upTo z
      if local_ && f.read && p.els.any (fun x => localPlace x.2 (copyCovers s h (sender h))) then .next (stall s)
      else
        match p.trap with
        | some (.batch ..) => if ringFull s (partOf h) then .next (stall s) else k j.2 p
        | _ => k (logTrim j.2 f j.1 p) p

/-! ### Chunk masks (R110, R124) -/

/-- The chunk mask that an engine names. -/
def EngineKind.maskOf (k : EngineKind) : Nat :=
  match k with
  | .copy _ _ _ m _ _ => m
  | _ => 0

/-- What the acting hart acquires that samples those bits of the masks `ms` that `f` holds of: no later access of it to a
chunk whose bit it finds set returns what was there before a running copy. -/
def acquireBits (s : State) (ms : List MReg) (f : Nat → Bool) : State :=
  if s.olds.isEmpty then s
  else
    let h := s.hart
    let samples := fun (o : OldWord) => f o.chunk && h.engines.any (fun e => e.id == o.engine &&
      ms.any (fun m => m != 0 && m.val == e.kind.maskOf && maskBit h m.val o.chunk))
    { s with olds := s.olds.filter (fun o => !(o.core == h.core && samples o)) }

/-! ### Performing elements -/

/-- The lane cluster of an element (R13). -/
def laneCluster (e : Nat) : Nat := e % 64 / 8

/-- The bytes of an access at a place. -/
def placeRange (p : Place) (size : Nat) : List Place := (List.range size).map p.plus

/-- The earlier packets of one lane cluster of the acting hart to a slice or a word of some bytes performed first (R92,
R95), and what their endpoint has recovered (R367). -/
def settle (s : State) (cluster : Nat) (ps : List Place) : State :=
  let s := atHomeOf s (ps.headD (.sdm 0))
  let f := fun (q : Packet) =>
    q.core == s.hart.core && q.cluster == cluster && (let m := meet q.places ps; m.1 || m.2)
  if s.packets.any f then performPackets s f else s

/-- A set for the pieces of an element of a global access, and the entries whose D bit the element sets when it is
performed (R330). -/
def markPieces (s : State) (f : Form) (ps : List Piece) : List (Nat × Bool) × State :=
  ps.foldl (fun acc p =>
    if p.addr.toNat < globalBase then acc
    else
      let r := translate acc.2 s.hart.core (partOf s.hart) (supervisor s.hart) p.addr p.size f.kind
      (acc.1 ++ r.1.2, r.2)) ([], s)

/-- The value at a place as a lane reads it: its stream's earlier packets there come first.  Of a running copy's destination it
returns either value (R112, log 45), and after the new one no access returns the old one (R97). -/
def laneRead (s : State) (e : Nat) (p : Place) (size : Nat) : Nat × State :=
  let s1 := settle s (laneCluster e) (placeRange p size)
  match oldAt s1 s1.hart.core p with
  | none => (vectorRead s1 s1.hart p size, s1)
  | some x =>
    let s2 := { s1 with fresh := s1.fresh + 1 }
    if Config.readsOld s1.fresh then (bytesNat ((List.range size).map (fun i => x.byte (p.plus i))), s2)
    else (vectorRead s1 s1.hart p size, dropOlds s2 s2.hart.core p)

/-- A packet sent to its slice.  A stream never has more than 32 that a slice has not performed (R365): the oldest is
performed before a further one is sent. -/
def sendPacket (s : State) (p : Packet) : State :=
  let mine := s.packets.filter (fun q => q.core == p.core && q.cluster == p.cluster && (meet q.places p.places).1)
  let s1 := match mine with
    | [] => s
    | q :: _ => if 32 ≤ mine.length then performPackets s (fun x => x.id == q.id) else s
  { s1 with packets := s1.packets ++ [p], serial := s1.serial + 1 }

/-- An element sent to its slice (R210), with its stream, its instruction and its class (R363, R369); `mask` are the bits
that it writes, `es` the entries whose D bit it sets. -/
def sendElem (s : State) (e : Nat) (p : Place) (second : Option Place) (size data mask : Nat) (es : List (Nat × Bool)) :
    State :=
  sendPacket s ⟨s.serial, s.hart.core, laneCluster e, sender s.hart, e / 64, .request, classOfHart s s.hart, p, second, size, data,
    mask, es, .mesh, s.clock⟩

/-- Elements loaded into the operand at `r` (R209). -/
def loadElems (s : State) (f : Form) (pieces : Nat → List Piece) (r : Nat) (narrow : Bool) (size : Nat)
    (els : List (Nat × List Place)) : State :=
  els.foldl (fun s x =>
    let s1 := (markPieces s f (pieces x.1)).2
    let v := laneRead s1 x.1 (x.2.headD (.sdm 0)) size
    { v.2 with hart := setElem v.2.hart r narrow x.1 v.1 }) s

/-- The elements below `len` that the access's own mask disables set to zero under IPOL (R209, R214). -/
def zeroInactive (h : Hart) (m : MReg) (r : Nat) (narrow : Bool) (len : Nat) : Hart :=
  if ipolOf h.csr && m != 0 then
    let off := (List.range len).filter (fun e => !active h m e)
    { h with vec := off.foldl (fun v e => putElem h.csr v r narrow e 0) h.vec }
  else h

/-- A load's destination complete: inactive elements, tail and progress (R209, R30). -/
def closeLoad (h : Hart) (m : MReg) (r t len n : Nat) : Hart :=
  if n = 0 then completed h r 0 else completed (vecTail (zeroInactive h m r (narrowTag t) len) r t len) r len

/-- A load's destination with the arrival bits of some groups clear (R28): its progress is the groups before the first of
them. -/
def setArrival (h : Hart) (r : Nat) (gs : List Nat) : Hart :=
  let h1 := setProgress h r (gs.foldl Nat.min (gs.headD 0)) false
  { h1 with vec := { h1.vec with
      missing := h1.vec.missing.filter (fun p => !(members r (groupOf h.csr)).contains p.1) ++ gs.map (fun g => (r, g)) } }

/-- The element groups that some elements, and everything from element `z` of `n` on, lie in. -/
def groupsMissing (marks : List Nat) (z n : Nat) : List Nat :=
  (List.range (groupsOf n)).filter (fun g => decide (z < Nat.min n (64 * (g + 1))) || marks.any (fun e => e / 64 == g))

/-- A load's destination as an access leaves it: complete, or with what has not arrived (R209, R213). -/
def loadLeft (h : Hart) (m : MReg) (r t n : Nat) (p : Plan) : Hart :=
  match p.trap, p.stop with
  | none, none => closeLoad h m r t p.len n
  | some (.range e _), _ => setArrival (zeroInactive h m r (narrowTag t) e) r (groupsMissing [] (e / 64 * 64) n)
  | some _, _ => setArrival (zeroInactive h m r (narrowTag t) p.len) r (groupsMissing p.marks n n)
  | none, some z => setArrival (zeroInactive h m r (narrowTag t) z) r (groupsMissing [] z p.len)

/-- Whether an index vector is refused: another tag than INT32 or INT16, or too short (R207, R179). -/
def indexFails (h : Hart) (v : Nat) : Bool :=
  (tagOfReg h v != 3 && tagOfReg h v != 4) || overfull h (tagOfReg h v)

/-- The cause and TOPND with which a vector load's operands are rejected (R20, R178, R207): a destination that shares a
register with the index vector (log 15); then the destination under DTAG, then the index vector. -/
def loadRejects (h : Hart) (t : VReg) (vi : Option VReg) : Option (Nat × Word) :=
  let dt := dtagOf h.csr
  let is := (vi.map (·.val)).toList
  match regsFail h.csr (t.val :: is) with
  | some x => some (x.1, topndV x.2 0)
  | none =>
    if is.any (fun v => shares h.csr t.val v) then some (0x01, topndV t.val 0)
    else if dt = 0 || destFails h t.val dt is then some (0x03, topndV t.val 0)
    else (is.find? (indexFails h)).map (fun v => (0x03, topndV v 0))

/-- The cause and TOPND with which a vector store's operands are rejected: the source's tag, then the index vector's
(R207, R179). -/
def storeRejects (h : Hart) (t : VReg) (vi : Option VReg) : Option (Nat × Word) :=
  let is := (vi.map (·.val)).toList
  match regsFail h.csr (t.val :: is) with
  | some x => some (x.1, topndV x.2 0)
  | none =>
    if tagOfReg h t.val = 0 || overfull h (tagOfReg h t.val) then some (0x03, topndV t.val 0)
    else
      match vi with
      | none => none
      | some v => if indexFails h v.val then some (0x03, topndV v.val 0) else none

/-- The checks of a load's operands, then `k`. -/
def checkLoad (s : State) (t : VReg) (vi : Option VReg) (k : Out) : Out :=
  match loadRejects s.hart t vi with
  | some x => vecTrap s x.1 x.2
  | none => k

/-- The checks of a store's operands, then `k`. -/
def checkStore (s : State) (t : VReg) (vi : Option VReg) (k : Out) : Out :=
  match storeRejects s.hart t vi with
  | some x => vecTrap s x.1 x.2
  | none => k

/-- A load of `n` elements whose element `e` lies at `addr e`. -/
def vecLoad (s : State) (t : VReg) (f : Form) (n : Nat) (addr : Nat → Word) : Out :=
  let dt := dtagOf s.hart.csr
  let pieces := fun e => [⟨addr e, tagBytes dt⟩]
  vecAccess s f n pieces (fun s1 p =>
    let h := setTags s1.hart t.val (groupOf s1.hart.csr) dt
    let s2 := loadElems { s1 with hart := h } f pieces t.val (narrowTag dt) (tagBytes dt) p.els
    finish { s2 with hart := loadLeft s2.hart f.m t.val dt n p } s.hart.vec.tags f p)

/-- Elements stored. -/
def storeElems (s : State) (f : Form) (pieces : Nat → List Piece) (r t : Nat) (els : List (Nat × List Place)) :
    State :=
  els.foldl (fun s x =>
    let s1 := markPieces s f (pieces x.1)
    let v := getElem s1.2.hart r (narrowTag t) x.1
    sendElem s1.2 x.1 (x.2.headD (.sdm 0)) none (tagBytes t) v (2 ^ tagBits t - 1) s1.1) s

/-- A store of `n` elements. -/
def vecStore (s : State) (t : VReg) (f : Form) (n : Nat) (addr : Nat → Word) : Out :=
  let tt := tagOfReg s.hart t.val
  let pieces := fun e => [⟨addr e, tagBytes tt⟩]
  vecAccess s f n pieces (fun s1 p =>
    finish (storeElems s1 f pieces t.val tt p.els) s.hart.vec.tags f p)

/-- Unit-stride addresses. -/
def unitAddr (s : State) (b : SReg) (w e : Nat) : Word := getReg s b + word (e * w)
/-- Strided addresses. -/
def strideAddr (s : State) (b r : SReg) (e : Nat) : Word := getReg s b + word e * getReg s r
/-- Indexed addresses: sign-extended byte offsets (R207). -/
def indexAddr (s : State) (b : SReg) (v : VReg) (e : Nat) : Word :=
  let t := tagOfReg s.hart v.val
  getReg s b + sextWord (tagBits t) (getElem s.hart v.val (narrowTag t) e)

/-- The form of a load of DTAG elements with its address in a scalar register. -/
def loadForm (s : State) (m : MReg) (ff : Bool) (b : SReg) : Form :=
  ⟨m, tagBytes (dtagOf s.hart.csr), false, true, ff, 1, b.val⟩
/-- The form of a store of vt's elements. -/
def storeForm (s : State) (m : MReg) (t : VReg) (b : SReg) : Form :=
  ⟨m, tagBytes (tagOfReg s.hart t.val), true, false, false, 1, b.val⟩

/-- VLD. -/
def execVld (t : VReg) (b : SReg) (m : MReg) (s : State) : Out :=
  checkLoad s t none (vecLoad s t (loadForm s m false b) (lengthOf s.hart)
    (unitAddr s b (tagBytes (dtagOf s.hart.csr))))
/-- VLDS. -/
def execVlds (t : VReg) (b r : SReg) (m : MReg) (s : State) : Out :=
  checkLoad s t none (vecLoad s t (loadForm s m false b) (lengthOf s.hart) (strideAddr s b r))
/-- VLDX: TOPND names the index vector (R213). -/
def execVldx (t : VReg) (b : SReg) (i : VReg) (m : MReg) (s : State) : Out :=
  checkLoad s t (some i) (vecLoad s t { loadForm s m false b with file := 2, reg := i.val } (lengthOf s.hart)
    (indexAddr s b i))
/-- VLDFF (R211). -/
def execVldff (t : VReg) (b : SReg) (m : MReg) (s : State) : Out :=
  checkLoad s t none (vecLoad s t (loadForm s m true b) (lengthOf s.hart)
    (unitAddr s b (tagBytes (dtagOf s.hart.csr))))
/-- VST. -/
def execVst (t : VReg) (b : SReg) (m : MReg) (s : State) : Out :=
  checkStore s t none (vecStore s t (storeForm s m t b) (lengthOf s.hart)
    (unitAddr s b (tagBytes (tagOfReg s.hart t.val))))
/-- VSTS. -/
def execVsts (t : VReg) (b r : SReg) (m : MReg) (s : State) : Out :=
  checkStore s t none (vecStore s t (storeForm s m t b) (lengthOf s.hart) (strideAddr s b r))
/-- VSTX. -/
def execVstx (t : VReg) (b : SReg) (i : VReg) (m : MReg) (s : State) : Out :=
  checkStore s t (some i) (vecStore s t { storeForm s m t b with file := 2, reg := i.val } (lengthOf s.hart)
    (indexAddr s b i))

end Sys2Proof.Machine
end

