-- ==== Sys2Proof/Machine/Matrix.lean ====
section
/-! DEFINITION. Matrix mode (R245 to R257): the grant and its division among a gang, entering and leaving, outer
products, and moving tiles. -/

namespace Sys2Proof.Machine

/-! ### The grant (R245 to R247) -/

/-- The TSHAPE value granted to a request of M rows, N columns and depth K in a gang of `g`. -/
def tileGrant (m n k g : Nat) : Word :=
  if m = 0 ∨ n = 0 ∨ k = 0 then 0
  else
    let rows := if g = 4 ∨ (g = 2 ∧ 256 < m) then 512 else 256
    let cols := if g = 4 ∨ (g = 2 ∧ m ≤ 256) then 768 else 384
    let gm := Nat.min m rows
    let gn := Nat.min n cols
    let sm := decide (2 ≤ g ∧ 256 < gm ∧ (g = 4 ∨ gn ≤ 384))
    let sn := decide (2 ≤ g ∧ 384 < gn ∧ (g = 4 ∨ gm ≤ 256))
    let m0 := if sm then Nat.min gm 256 else gm
    let n0 := if sn then Nat.min gn 384 else gn
    let tiles := Nat.min 4 (98304 / (up64 m0 * up64 n0))
    word (gm + 2 ^ 16 * gn + 2 ^ 32 * Nat.min k 65535 + 2 ^ 48 * tiles + (if sm then 2 ^ 51 else 0) +
      (if sn then 2 ^ 52 else 0))

/-- Mp: the rows of a member's part. -/
def partRows (h : Hart) : Nat :=
  let i := if gangSize h = 4 then memberOf h / 2 else memberOf h
  if splitM h.csr then Nat.min 256 (grantM h.csr - 256 * i) else grantM h.csr

/-- Np: the columns of a member's part. -/
def partCols (h : Hart) : Nat :=
  let i := if gangSize h = 4 then memberOf h % 2 else memberOf h
  if splitN h.csr then Nat.min 384 (grantN h.csr - 384 * i) else grantN h.csr

/-- A tile element of the part. -/
def getAcc (v : Vec) (t i j : Nat) : Nat := (sget v.acc (accKey t i j)).toNat

/-- A tile element written. -/
def putAcc (v : Vec) (t i j x : Nat) : Vec := { v with acc := sset v.acc (accKey t i j) (BitVec.ofNat 32 x) }

/-! ### Matrix mode (R245, R248, R249) -/

/-- TSHAPE. -/
def execTshape (d a b c : SReg) (s : State) : Out :=
  guardWrite s d (
    if s.hart.vec.matrix then vecTrap s 0x01 0
    else
      let w := tileGrant (getReg s a).toNat (getReg s b).toNat (getReg s c).toNat (gangSize s.hart)
      let h : Hart := { s.hart with
        csr := { s.hart.csr with tshape := w }, vec := { s.hart.vec with acc := [] } }
      .next (advance (setReg { s with hart := h } d w)))

/-- MENTER. -/
def execMenter (s : State) : Out :=
  let h := s.hart
  if h.vec.matrix then .next (advance s)
  else if tilesOf h.csr = 0 then vecTrap s 0x01 0
  else
    .next (advance { s with hart := { h with
      csr := { h.csr with mvl := word (Nat.max (rows0 h.csr) (cols0 h.csr)) }
      vec := { h.vec with matrix := true } } })

/-- The trap of a check that the control thread makes: its record names no convoy (R139, R250). -/
def threadTrap (s : State) (cause : Nat) (topnd : Word) : Out :=
  if s.hart.restart.epc.isSome then vecTrap s cause topnd else .next (trapWord s cause topnd)

/-- The matrix-disabled check (R250 step 2), then `k`. -/
def matrixOn (s : State) (k : Out) : Out :=
  if !s.hart.vec.matrix || bits s.hart.csr.status 4 1 = 0 then threadTrap s 0x04 0 else k

/-- MLEAVE. -/
def execMleave (s : State) : Out :=
  matrixOn s (
    let h := s.hart
    .next (advance { s with hart := { h with
      csr := { h.csr with mvl := 0 }, vec := { h.vec with acc := [], matrix := false } } }))

/-- TOPND of a tile element. -/
def topndTile (t : TileId) (e : Nat) : Word := operandWord 4 t.val e

/-- Steps 2 and 3 of R250, then `k`. -/
def matrixTile (s : State) (t : TileId) (k : Out) : Out :=
  matrixOn s (if tilesOf s.hart.csr ≤ t.val then threadTrap s 0x05 (topndTile t 0) else k)

/-- The elements of a tile that are uncorrectable and of which `reads` holds, numbered in their member's part. -/
def badCells (s : State) (t : TileId) (reads : Nat → Nat → Bool) : List Nat :=
  s.bad.filterMap (fun b => match b with
    | .acc c n =>
      let i := n % 98304 / 384
      let j := n % 384
      if c == s.hart.core && n / 98304 == t.val && reads i j then some (i * partCols s.hart + j) else none
    | _ => none)

/-- An uncorrectable accumulator traps an instruction that reads it: those elements of the part of which `reads` holds
(R394). -/
def readsTile (s : State) (t : TileId) (reads : Nat → Nat → Bool) (k : Out) : Out :=
  match lowestOf (fun _ => true) (badCells s t reads) with
  | some e => registerTrap s .accumulators (topndTile t e)
  | none => k

/-- The pairs that a K step accumulates (R251). -/
def pairRead (h : Hart) (mr mc : MReg) (i j : Nat) : Bool :=
  decide (i < partRows h) && decide (j < partCols h) && active h mr i && active h mc j

/-! ### Outer products (R251 to R253) -/

/-- What one K step leaves: the vector state, the flags, and the pair index and flags of the first enabled flag. -/
structure KStep where
  vec : Vec
  flags : Nat
  stop : Option (Nat × Nat)
  deriving DecidableEq, Repr

/-- One accumulation: acc + a × b or acc − a × b, rounded once to FP32 (R86). -/
def accumulate (c : Csr) (sub : Bool) (t acc a b : Nat) : Nat × Nat :=
  let x := operand (tagFmt t) (ftzOf c) a
  let y := operand (tagFmt t) (ftzOf c) b
  let z := operand fp32 (ftzOf c) acc
  pack fp32 (vrmOf c) (ftzOf c) (fmaNum (vrmOf c) (if sub then x.neg else x) y z)

/-- The pairs of a step in row-major order; an enabled flag ends it. -/
def kPairs (c : Csr) (sub : Bool) (tile np tag : Nat) (a b : Nat → Nat) (ps : List (Nat × Nat)) (v : Vec) (fl : Nat) :
    KStep :=
  match ps with
  | [] => ⟨v, fl, none⟩
  | (i, j) :: rest =>
    let r := accumulate c sub tag (getAcc v tile i j) (a i) (b j)
    if r.2 &&& enables c ≠ 0 then ⟨v, fl ||| r.2, some (i * np + j, r.2)⟩
    else kPairs c sub tile np tag a b rest (putAcc v tile i j r.1) (fl ||| r.2)

/-- One K step under its predicates: the part's pairs, and nothing written where an enabled flag is raised (R73). -/
def kStep (h : Hart) (sub : Bool) (tile tag : Nat) (a b : Nat → Nat) (mr mc : MReg) (fl : Nat) : KStep :=
  let np := partCols h
  let rows := (List.range (partRows h)).filter (active h mr)
  let cols := (List.range np).filter (active h mc)
  let ps := (rows.map (fun i => cols.map (fun j => (i, j)))).flatten
  let r := kPairs h.csr sub tile np tag a b ps h.vec fl
  match r.stop with
  | some _ => { r with vec := h.vec }
  | none => r

/-- The position of the source that R251 rejects: a tag other than FP32 and BF16, or two different ones. -/
def outerRejects (ta tb : Nat) : Nat ⊕ Nat :=
  if ta = 0 ∨ tb = 0 then .inr 9 else if floatTag ta && ta == tb then .inl ta else .inr 0

/-- MXADD and MXSUB. -/
def outer (sub : Bool) (t : TileId) (a b : VReg) (mr mc : MReg) (s : State) : Out :=
  matrixTile s t (
    let h := s.hart
    let ta := tagOfReg h a.val
    checkVec s none [a.val, b.val] (outerRejects ta (tagOfReg h b.val)) false (readsTile s t (pairRead h mr mc) (
      let r := kStep h sub t.val ta (getElem h a.val (narrowTag ta)) (getElem h b.val (narrowTag ta)) mr mc 0
      let h1 := orFlags { h with vec := r.vec } r.flags
      match r.stop with
      | some (e, fl) => .next (startedTrap { s with hart := h1 } h.vec.tags 0x10 (word fl) (topndTile t e) 0 false 0)
      | none => .next (advance { s with hart := h1 }))))

/-- MXADD. -/
def execMxadd (t : TileId) (a b : VReg) (r c : MReg) (s : State) : Out := outer false t a b r c s
/-- MXSUB. -/
def execMxsub (t : TileId) (a b : VReg) (r c : MReg) (s : State) : Out := outer true t a b r c s

/-- Element `i` of va as register storage holds it: +0 at or above its capacity (R253). -/
def slideElem (h : Hart) (a ta i : Nat) : Nat := if capacity h.csr ta ≤ i then 0 else getElem h a (narrowTag ta) i

/-- Steps `k` to `k + n - 1` of an `MXSLD`. -/
def slideSteps (h : Hart) (tile a b ta : Nat) (mr mc : MReg) (k n fl : Nat) : KStep × Nat :=
  match n with
  | 0 => (⟨h.vec, fl, none⟩, k)
  | n + 1 =>
    let r := kStep h false tile ta (fun i => slideElem h a ta (i + k)) (getElem h (b + k) (narrowTag ta)) mr mc fl
    match r.stop with
    | some _ => (r, k)
    | none => slideSteps { h with vec := r.vec } tile a b ta mr mc (k + 1) n r.flags

/-- The operand checks of `MXSLD` (R253). -/
def slideRejects (h : Hart) (a b n : Nat) : Option (Nat × Word) :=
  let rs := a :: (List.range n).map (fun i => b + i)
  let ta := tagOfReg h a
  match rs.find? (fun r => decide (regCount h.csr ≤ r)) with
  | some r => some (0x05, topndV r 0)
  | none =>
    if groupOf h.csr ≠ 1 then some (0x01, 0)
    else if !floatTag ta then some (0x03, topndV a 0)
    else (rs.find? (fun r => tagOfReg h r != ta)).map (fun r => (0x03, topndV r 0))

/-- MXSLD: it stops at a step boundary, for an enabled flag or a pre-emption, and goes on with that step. -/
def execMxsld (t : TileId) (a b : VReg) (r c : MReg) (k : Fin 64) (s : State) : Out :=
  matrixTile s t (
    let h := s.hart
    let n := k.val + 1
    match slideRejects h a.val b.val n with
    | some x => vecTrap s x.1 x.2
    | none =>
      readsTile s t (pairRead h r c) (
        let ta := tagOfReg h a.val
        let st := h.restart.start
        let z := unitStop h n
        let w := slideSteps h t.val a.val b.val ta r c st (z - st) 0
        let h1 := orFlags { h with vec := w.1.vec } w.1.flags
        match w.1.stop with
        | some (e, fl) => .next (startedTrap { s with hart := h1 } h.vec.tags 0x10 (word fl) (topndTile t e) w.2 false 0)
        | none => if z < n then pauseAt { s with hart := h1 } h.vec.tags z false else .next (advance { s with hart := h1 })))

/-! ### Tiles and vector registers (R254 to R256) -/

/-- The vector state with every element of a tile's part zero. -/
def zeroTile (h : Hart) (t : Nat) : Vec := { h.vec with acc := sclear h.vec.acc (98304 * t) (98304 * t + 98304) }

/-- MZERO. -/
def execMzero (t : TileId) (s : State) : Out :=
  matrixTile s t (.next (advance { s with hart := { s.hart with vec := zeroTile s.hart t.val } }))

/-- A slice of `n` tile elements into a vector register of DTAG, with its tail (R255); its progress counts the groups of
MVL (R26).  `reads` holds of the tile elements that it reads. -/
def tileSlice (t : TileId) (d : VReg) (n : Nat) (reads : Nat → Nat → Bool) (x : Nat → Nat) (s : State) : Out :=
  checkRegs s [d.val] (
    let h := s.hart
    let dt := dtagOf h.csr
    if !floatTag dt || overfull h dt then vecTrap s 0x03 (topndV d.val 0)
    else readsTile s t reads (
      let h0 := setTags h d.val (groupOf h.csr) dt
      let f := fun j => if dt = 1 then (x j, 0) else convert h.csr false false 1 2 (x j)
      let st := h.restart.start
      let z := groupStop h n
      let w := sweep f (fun _ => true) false (fun v e y => putElem h.csr v d.val (narrowTag dt) e y) (enables h.csr) st
        (z - st) h0.vec 0
      let h1 := orFlags { h0 with vec := w.vec } w.flags
      match w.stop with
      | some (e, fl) =>
        .next (startedTrap { s with hart := setProgress h1 d.val (e / 64) false } h.vec.tags 0x10 (word fl)
          (topndV d.val e) (e / 64 * 64) false 0)
      | none =>
        if z < n then pauseAt { s with hart := setProgress h1 d.val (z / 64) false } h.vec.tags z false
        else .next (advance { s with hart := completed (vecTail h1 d.val dt n) d.val (lengthOf h) })))

/-- MROW. -/
def execMrow (t : TileId) (d : VReg) (r : SReg) (s : State) : Out :=
  matrixTile s t (
    let q := (getReg s r).toNat
    tileSlice t d (partCols s.hart) (fun i j =>
      i == q && decide (q < partRows s.hart) && decide (s.hart.restart.start ≤ j) && decide (j < partCols s.hart)) (fun j => if q < partRows s.hart then getAcc s.hart.vec t.val q j else 0) s)

/-- MCOL. -/
def execMcol (t : TileId) (d : VReg) (r : SReg) (s : State) : Out :=
  matrixTile s t (
    let q := (getReg s r).toNat
    tileSlice t d (partRows s.hart) (fun i j =>
      j == q && decide (q < partCols s.hart) && decide (s.hart.restart.start ≤ i) && decide (i < partRows s.hart)) (fun i => if q < partCols s.hart then getAcc s.hart.vec t.val i q else 0) s)

/-- Elements `j` to `j + n - 1` of row `q` written. -/
def writeRow (v : Vec) (t q j n : Nat) (x : Nat → Nat) : Vec :=
  match n with
  | 0 => v
  | n + 1 => writeRow (putAcc v t q j (x j)) t q (j + 1) n x

/-- MWROW. -/
def execMwrow (t : TileId) (a : VReg) (r : SReg) (s : State) : Out :=
  matrixTile s t (
    let h := s.hart
    let ta := tagOfReg h a.val
    let res := if floatTag ta then .inl ta else .inr 0
    checkVec s none [a.val] res false (
      let q := (getReg s r).toNat
      let x := fun j => let v := getElem h a.val (narrowTag ta) j; if ta = 2 then v * 2 ^ 16 else v
      let v := if q < partRows h then writeRow h.vec t.val q 0 (partCols h) x else h.vec
      .next (advance { s with hart := { h with vec := v } })))

/-! ### Tiles and memory (R257) -/

/-- The trap of a tile access, the lowest element it names, and whether frames are missing. -/
def tileTrap (x : Judgement) : Option (Nat × AccessTrap) :=
  match firstWhere x.els (fun j => match j.fate with
    | .missing .. => true
    | _ => false) with
  | some j => some (j.e, .batch (missingFrames x.els) j.e (missingStage2 x.els))
  | none =>
    match firstWhere x.els (·.failed) with
    | some j =>
      (match j.fate with
        | .denied c st => some (j.e, .deny c j.e j.addr st)
        | _ => none)
    | none => x.cut.map (fun c => (c.1, .range c.1 c.2))

/-- The lowest element that cannot be performed. -/
def tileBound (x : Judgement) (n : Nat) : Nat :=
  match firstWhere x.els (·.failed), x.cut with
  | some j, _ => j.e
  | none, some c => c.1
  | none, none => n

/-- The end of a tile access: its trap, to resume at the row that failed; the stop at a row; or the next instruction. -/
def tileFinish (s : State) (f : Form) (np bound : Nat) (t : Option (Nat × AccessTrap)) (stop : Option Nat) : Out :=
  let row := bound / np
  let tags := s.hart.vec.tags
  match t with
  | none =>
    (match stop with
      | some z => pauseAt s tags z false
      | none => .next (advance s))
  | some (_, .range e a) => .next (startedTrap s tags 0x0C a (f.topnd e) row false 0)
  | some (_, .batch frames e st) =>
    let n := pcpWord s (partOf s.hart) 0x38
    let s1 := writeBatch s s.hart frames ((if st then 1 else 0) + (if f.write then 2 else 0))
    .next (startedTrap s1 tags 0x08 n (f.topnd e) row false (if st then 4 else 0))
  | some (_, .deny c e a st) => .next (startedTrap (logCause s c a) tags c a (f.topnd e) row false (if st then 4 else 0))

/-- A tile access: alignment, range and translation of the whole, then `k` on the elements performed, up to the row at which
it stops, unless it traps (R257). -/
def tileAccess (s : State) (f : Form) (a r : SReg) (k : State → List (Nat × List Place) → State) : Out :=
  let h := s.hart
  let np := partCols h
  let n := partRows h * np
  let base := getReg s a
  let st := getReg s r
  let addr := fun e => base + word (e / np) * st + word (4 * (e % np))
  let pieces := fun e => [(⟨addr e, 4⟩ : Piece)]
  let e0 := h.restart.start * np
  let local_ := decide (base.toNat < globalBase)
  if base.toNat % 4 ≠ 0 then vecTrapAt s 0x06 base (topndS a)
  else if st.toNat % 4 ≠ 0 then vecTrapAt s 0x06 st (topndS a)
  else if outOfRange local_ ⟨addr e0, 4⟩ then vecTrapAt s 0x0C (addr e0) (f.topnd e0)
  else
    let j := judge s f local_ pieces ((List.range n).filter (fun e => decide (e0 ≤ e))) []
    let b := tileBound j.1 n
    let t := tileTrap j.1
    let z := if t.isNone then unitStop h (partRows h) else partRows h
    let stop := if z < partRows h then some z else none
    let els := resident (j.1.els.filter (fun x => x.e < b && decide (x.e < z * np)))
    if f.read && local_ && els.any (fun x => localPlace x.2 (copyCovers s h (sender h))) then .next (stall s)
    else
      match t with
      | some (_, .batch ..) =>
        if ringFull s (partOf h) then .next (stall s)
        else tileFinish (k j.2 els) f np b t stop
      | _ => tileFinish (k j.2 els) f np b t stop

/-- The address of a tile element, marked as used, with the entries whose D bit it sets. -/
def markTile (s : State) (f : Form) (va : Word) : List (Nat × Bool) × State := markPieces s f [⟨va, 4⟩]

/-- MLDT. -/
def execMldt (t : TileId) (a r : SReg) (s : State) : Out :=
  matrixTile s t (
    let np := partCols s.hart
    let f : Form := ⟨0, 4, false, true, false, 1, a.val⟩
    let base := getReg s a
    let st := getReg s r
    tileAccess s f a r (fun s1 els => els.foldl (fun s x =>
      let s1 := (markTile s f (base + word (x.1 / np) * st + word (4 * (x.1 % np)))).2
      let v := laneRead s1 (x.1 % np) (x.2.headD (.sdm 0)) 4
      { v.2 with hart := { v.2.hart with vec := putAcc v.2.hart.vec t.val (x.1 / np) (x.1 % np) v.1 } }) s1))

/-- MSTT. -/
def execMstt (t : TileId) (a r : SReg) (s : State) : Out :=
  let stored := fun i j =>
    decide (s.hart.restart.start ≤ i) && decide (i < partRows s.hart) && decide (j < partCols s.hart)
  matrixTile s t (readsTile s t stored (
    let np := partCols s.hart
    let f : Form := ⟨0, 4, true, false, false, 1, a.val⟩
    let base := getReg s a
    let st := getReg s r
    tileAccess s f a r (fun s1 els => els.foldl (fun s x =>
      let s1 := markTile s f (base + word (x.1 / np) * st + word (4 * (x.1 % np)))
      let v := getAcc s1.2.hart.vec t.val (x.1 / np) (x.1 % np)
      sendElem s1.2 (x.1 % np) (x.2.headD (.sdm 0)) none 4 v (2 ^ 32 - 1) s1.1) s1)))

end Sys2Proof.Machine
end

