-- ==== Sys2Proof/Machine/Gang.lean ====
section
/-! DEFINITION. Gang exchanges (R258 to R261) and the trap of a gang (R40).  An exchange is one step of all members. -/

namespace Sys2Proof.Machine

/-- The members of the acting hart's gang as they are now, in member order; a lone hart is its own gang. -/
def gangNow (s : State) : List Hart := if gangSize s.hart = 1 then [s.hart] else gangMembers s

/-- The leader of the acting hart's gang. -/
def leaderNow (s : State) : Hart := (gangNow s).headD s.hart


/-- An action of every member in turn, each as the acting hart.  A member whose launch has ended meanwhile, by a trap of
another in a handler, does nothing more (R323). -/
def eachMember (s : State) (hs : List Hart) (k : State → Out) : State :=
  let t := hs.foldl (fun s h =>
    if (hartAt s h.core).owner = h.owner then
      match k (focus s h.core) with
      | .next u => u
      | _ => s
    else s) s
  focus t s.hart.core

/-- Members that did not trap when another did: cause 0x21, naming the lowest core that trapped (R40). -/
def spreadTraps (before after : State) (cores : List Nat) : State :=
  let trapped := cores.filter (fun c => !nested (hartAt before c) && nested (hartAt after c))
  match trapped with
  | [] => after
  | c0 :: _ =>
    let low := trapped.foldl Nat.min c0
    let rest := cores.filter (fun c => !trapped.contains c && (hartAt after c).owner.isSome)
    let t := rest.foldl (fun s c =>
      let s1 := focus s c
      takeTrap s1 ⟨0x21, word low, 0, s1.hart.pc, s1.hart.pc, s1.hart.ir, 0, 0, 0⟩) after
    focus t before.hart.core

/-- The frozen-register check of an instruction that the leader performs for every member (R149). -/
def jointGuard (s : State) (d : SReg) (k : Out) : Out :=
  let hs := gangNow s
  if hs.any (fun h => frozen h d) then
    .next (spreadTraps s (eachMember s hs (fun s1 =>
      .next (if frozen s1.hart d then trapWord s1 0x0D (topndS d) else s1))) (hs.map (·.core)))
  else k

/-- One trap of every member, as an instruction that only the leader performs takes it. -/
def jointTrap (s : State) (cause : Nat) (topnd : Word) : Out :=
  .next (eachMember s (gangNow s) (fun s1 => .next (trapWord s1 cause topnd)))

/-- A result of the leader's written into every member's register (R263, R264, R267). -/
def jointResult (s : State) (d : SReg) (v : Word) : State :=
  eachMember s (gangNow s) (fun s1 => .next (advance (setReg s1 d v)))

/-- A member's element of an exchange's source: 0 at or above its capacity (R258). -/
def exchangeElem (h : Hart) (a e : Nat) : Nat :=
  let t := tagOfReg h a
  if capacity h.csr t ≤ e then 0 else getElem h a (narrowTag t) e

/-- The checks of an exchange on one member (R20, R258): a member whose capacity is less than the leader's length is no
error (log 28). -/
def exchangeFails (h : Hart) (d a : Nat) (bad : Bool) : Option (Nat × Word) :=
  match regsFail h.csr [d, a] with
  | some x => some (x.1, topndV x.2 0)
  | none =>
    if shares h.csr d a then some (0x01, topndV d 0)
    else if tagOfReg h a = 0 || bad then some (0x03, topndV a 0)
    else none

/-- The flags that the elements of an exchange raise, from `e` on. -/
def flagsFrom (fl : Nat → Nat) (e k : Nat) : Nat := (List.range k).foldl (fun x i => x ||| fl (e + i)) 0

/-- A member's elements `e` to `e + k - 1` of an exchange, under its own predicate and IPOL; one at or above its capacity
is not held. -/
def exchangeElems (h : Hart) (d tag : Nat) (m : MReg) (f : Nat → Nat) (e k : Nat) : Hart :=
  let w := sweep (fun e => (f e % 2 ^ tagBits tag, 0)) (active h m) (ipolOf h.csr)
    (fun v e x => if capacity h.csr tag ≤ e then v else putElem h.csr v d (narrowTag tag) e x) 0 e k h.vec 0
  { h with vec := w.vec }

/-- The end of an exchange on one member, over elements up to `z` of `n`, or up to the element at which a flag enabled on
some member stops every member (R40, R258): a member on which it is enabled takes the FP trap, any other the gang member
fault, and both hold the exchange (log 28). -/
def exchangeEnd (s : State) (tags : Vector (BitVec 4) 64) (d tag n z low : Nat) (stop : Option (Nat × Nat)) : Out :=
  let h := s.hart
  match stop with
  | some (e, fl) =>
    let s1 := { s with hart := setProgress h d (e / 64) false }
    if fl &&& enables h.csr ≠ 0 then
      .next (startedTrap s1 tags 0x10 (word fl) (topndV d e) (e / 64 * 64) false 0)
    else .next (startedTrap s1 tags 0x21 (word low) 0 (e / 64 * 64) false 0)
  | none =>
    if z < n then pauseAt { s with hart := setProgress h d (z / 64) false } tags z false
    else .next (advance { s with hart := completed (if n = 0 then h else vecTail h d tag n) d n })

/-- TOPND of a register of the acting hart that an exchange reads and that is uncorrectable (R394): the bits of its own
predicate, and the elements of its source that a member reads from it, as `reads` says of reader, holder and element. -/
def exchangeBad (s : State) (hs : List Hart) (a : VReg) (m : MReg) (n st : Nat) (reads : Hart → Hart → Nat → Bool) :
    Option Word :=
  let now := fun (e : Nat) => decide (st ≤ e) && decide (e < n)
  match badMaskRead s (if m = 0 then [] else [(m.val, now)]) with
  | some t => some t
  | none => badRead s [(a.val, fun e => now e && hs.any (fun r => reads r s.hart e))]

/-- An uncorrectable register that an exchange reads traps its member, and the others with it, which hold the exchange where
it has started (R40, R394). -/
def exchangeGuard (s : State) (hs : List Hart) (a : VReg) (m : MReg) (n : Nat) (reads : Hart → Hart → Nat → Bool)
    (k : Out) : Out :=
  let st := s.hart.restart.start
  let bad := fun (c : Nat) => exchangeBad (focus s c) hs a m n st reads
  match if s.bad.isEmpty then [] else (hs.map (·.core)).filter (fun c => (bad c).isSome) with
  | [] => k
  | c0 :: rest =>
    let low := rest.foldl Nat.min c0
    .next (spreadTraps s (eachMember s hs (fun s1 =>
      match bad s1.hart.core with
      | some t => registerTrap s1 .registers t
      | none =>
        if s1.hart.restart.epc.isSome then .next (startedTrap s1 s1.hart.vec.tags 0x21 (word low) 0 st false 0) else .next s1))
      (hs.map (·.core)))

/-- An exchange on every member under the leader's length (R258): `f` gives a member's value of an element, `fl` the flags
of an element, which are the same on every member, and `reads` says which elements of whose source a member reads.  Where the checks
of one member fail, none writes. -/
def exchange (s : State) (d a : VReg) (m : MReg) (bad : Bool) (reads : Hart → Hart → Nat → Bool) (f : Hart → Nat → Nat)
    (fl : Nat → Nat) : Out :=
  let hs := gangNow s
  if hs.any (fun h => (exchangeFails h d.val a.val bad).isSome) then
    .next (spreadTraps s (eachMember s hs (fun s1 =>
      match exchangeFails s1.hart d.val a.val bad with
      | some x => vecTrap s1 x.1 x.2
      | none => .next s1)) (hs.map (·.core)))
  else exchangeGuard s hs a m (lengthOf (leaderNow s)) reads (
    let n := lengthOf (leaderNow s)
    let st := s.hart.restart.start
    let z := groupStop s.hart n
    let stop := (firstBelow (z - st) (fun i => hs.any (fun h => fl (st + i) &&& enables h.csr != 0))).map
      (fun i => (st + i, fl (st + i)))
    let low := ((hs.filter (fun h => (stop.getD (0, 0)).2 &&& enables h.csr != 0)).map (·.core)).foldl Nat.min 127
    let k := match stop with
      | some x => x.1 - st
      | none => z - st
    .next (eachMember s hs (fun s1 =>
      let h := s1.hart
      let tag := tagOfReg h a.val
      let h1 := exchangeElems (setTags h d.val (groupOf h.csr) tag) d.val tag m (f h) st k
      let h2 := orFlags h1 (flagsFrom fl st (if stop.isSome then k + 1 else k))
      exchangeEnd { s1 with hart := h2 } h.vec.tags d.val tag n z low stop)))

/-- GPERM (R259). -/
def execGperm (d a : VReg) (r : SReg) (m : MReg) (s : State) : Out :=
  let hs := gangNow s
  let src := fun (h : Hart) => hs.getD ((if r = 0 then 0 else h.regs[r].toNat) % hs.length) h
  exchange s d a m false (fun r h e => (src r).core == h.core && active r m e) (fun h e => exchangeElem (src h) a.val e) (fun _ => 0)

/-- GBCAST (R259). -/
def execGbcast (d a : VReg) (r : SReg) (m : MReg) (s : State) : Out :=
  let hs := gangNow s
  let q := (if r = 0 then 0 else (leaderNow s).regs[r].toNat) % hs.length
  exchange s d a m false (fun r h e => (hs.getD q r).core == h.core && active r m e) (fun h e => exchangeElem (hs.getD q h) a.val e) (fun _ => 0)

/-- A sum of two partials of a gang reduction: patterns of the formats `f` and `g`, rounded to `out`. -/
def gangAdd (c : Csr) (f g out : FloatFmt) (a b : Nat) : Nat × Nat :=
  pack out (vrmOf c) (ftzOf c) (addNum (vrmOf c) (operand f (ftzOf c) a) (operand g (ftzOf c) b))

/-- The sum of the members' values of an element in the order of R88. -/
def gangSum (c : Csr) (t : Nat) (xs : List Nat) : Nat × Nat :=
  match xs with
  | [a] => (a, 0)
  | [a, b] =>
    if floatTag t then gangAdd c (tagFmt t) (tagFmt t) (tagFmt t) a b else ((a + b) % 2 ^ tagBits t, 0)
  | [a, b, x, y] =>
    if floatTag t then
      let p := gangAdd c (tagFmt t) (tagFmt t) fp32 a b
      let q := gangAdd c (tagFmt t) (tagFmt t) fp32 x y
      let r := gangAdd c fp32 fp32 (tagFmt t) p.1 q.1
      (r.1, p.2 ||| q.2 ||| r.2)
    else ((a + b + x + y) % 2 ^ tagBits t, 0)
  | _ => (0, 0)

/-- GRED (R260): the sums and their flags are over every element, whatever the predicates. -/
def execGred (d a : VReg) (m : MReg) (s : State) : Out :=
  let hs := gangNow s
  let l := leaderNow s
  let t := tagOfReg l a.val
  let sum := fun e => gangSum l.csr t (hs.map (fun g => exchangeElem g a.val e))
  exchange s d a m (hs.any (fun g => tagOfReg g a.val != t)) (fun _ _ _ => true) (fun _ e => (sum e).1) (fun e => (sum e).2)

/-- GSYNC: every member's accesses performed, and then all go on (R104, R261). -/
def execGsync (s : State) : Out :=
  .next (eachMember s (gangNow s) (fun s1 =>
    .next (advance (cleanL1 (flushHart s1 s1.hart.core) s1.hart.core))))

end Sys2Proof.Machine
end

