-- ==== Sys2Proof/Machine/Csr.lean ====
section
/-! DEFINITION. The control and status registers: what a read gives (R42, R166), the checks of a write (R165) and
its effect, for the CSR instructions and for the steps that stand for a write of one register. -/

namespace Sys2Proof.Machine

/-! ### Reading -/

/-- GANGID (R38): the leader's core and the member index. -/
def gangId (h : Hart) : Word := word (leaderOf h + 256 * memberOf h)

/-- LAUNCHID (R312): launch identifier, partition, gang index; 0 for a core that runs nothing (log 2). -/
def launchId (h : Hart) : Word :=
  match h.owner with
  | some o => word (o.launch + 2 ^ 24 * o.part + 2 ^ 32 * o.gang)
  | none => 0

/-- The aging threshold of the hart's partition (R310). -/
def ageOf (s : State) : Word :=
  match s.parts[partOf s.hart]? with
  | some p => p.age
  | none => 0

/-- The CSR numbered `c`, or none where R42 lists no such number. -/
def csrRead (s : State) (c : Nat) : Option Word :=
  let r := s.hart.csr
  match c with
  | 0x001 => some r.vl
  | 0x002 => some r.vtype
  | 0x003 => some r.vrcfg
  | 0x004 => some r.mvl
  | 0x005 => some r.tshape
  | 0x010 => some r.fcsr
  | 0x011 => some r.seed
  | 0x020 => some r.slbase
  | 0x021 => some r.recn
  | 0x030 => some (ageOf s)
  | 0x040 => some (word s.hart.core)
  | 0x041 => some (word s.hart.core)
  | 0x042 => some (gangId s.hart)
  | 0x043 => some (word (gangSize s.hart))
  | 0x044 => some (launchId s.hart)
  | 0x050 => some r.cycle
  | 0x051 => some (word (deviceTime s))
  | 0x100 => some r.status
  | 0x101 => some r.tvec
  | 0x102 => some r.epc
  | 0x103 => some r.cause
  | 0x104 => some r.tval
  | 0x105 => some r.topnd
  | _ => none

/-- The registers of access S (R42). -/
def csrSupervisor (c : Nat) : Bool := c == 0x030 || (decide (0x100 ≤ c) && decide (c ≤ 0x105))

/-- The registers of access RO (R42). -/
def csrReadOnly (c : Nat) : Bool :=
  c == 0x001 || c == 0x004 || c == 0x005 || (decide (0x040 ≤ c) && decide (c ≤ 0x051))

/-! ### Writing -/

/-- Some standing slot is ARMED, DRAINING or PARKED (R56). -/
def anySlotBusy (s : State) : Bool := (List.range 1024).any (fun n => slotBusy s s.hart n)

/-- A legal SLBASE value (R56). -/
def slbaseOk (v : Word) : Bool :=
  bits v 22 42 == 0 && bits v 0 14 == 0 && decide (0x40 ≤ bits v 14 8) && decide (bits v 14 8 ≤ 0xBF)

/-- The vector state zeroed and the configuration set (R17). -/
def configure (h : Hart) (n : Nat) : Hart :=
  { h with
    csr := { h.csr with vrcfg := word n, vl := 0 }
    vec := { Vec.start with acc := h.vec.acc, matrix := h.vec.matrix } }

/-- A new VTYPE; VL is cut to the new VLMAX (R43). -/
def retype (h : Hart) (v : Word) : Hart :=
  let c : Csr := { h.csr with vtype := v }
  { h with csr := { c with vl := if vlmax c < c.vl.toNat then word (vlmax c) else c.vl } }

/-- STATUS after a supervisor's write (R321): only PVTYPE, MEN and PMODE take the new value. -/
def statusWritten (old v : Word) : Word :=
  setBits (setBits (setBits old 32 13 (bits v 32 13)) 4 1 (bits v 4 1)) 2 2 (bits v 2 2)

/-- The cause with which a value is refused by the register's own rule, or none (R165 step 4). -/
def csrRefuses (s : State) (c : Nat) (v : Word) : Option Nat :=
  match c with
  | 0x002 => if vtypeOk v then none else some 0x02
  | 0x003 => if v.toNat < 4 then none else some 0x02
  | 0x010 => if bits v 13 51 = 0 then none else some 0x02
  | 0x020 => if !slbaseOk v then some 0x02 else if anySlotBusy s then some 0x01 else none
  | 0x021 => if 2 ≤ v.toNat ∧ v.toNat ≤ 8 then none else some 0x02
  | 0x100 =>
    if bits v 2 2 = 3 then some 0x02
    else if bits v 2 2 = 2 ∧ modeOf s.hart ≠ 2 then some 0x09
    else none
  | _ => none

/-- The register with the value, every check passed. -/
def csrWrite (s : State) (c : Nat) (v : Word) : State :=
  match c with
  | 0x002 => let s := closeConvoy s; { s with hart := retype s.hart v }
  | 0x003 => let s := closeConvoy s; { s with hart := configure s.hart v.toNat }
  | 0x010 => setCsr s (fun r => { r with fcsr := v })
  | 0x011 => setCsr s (fun r => { r with seed := v })
  | 0x020 => setCsr s (fun r => { r with slbase := v })
  | 0x021 => setCsr s (fun r => { r with recn := v })
  | 0x030 => { s with parts := (match s.parts[partOf s.hart]? with
      | some p => s.parts.setIfInBounds (partOf s.hart) { p with age := v }
      | none => s.parts) }
  | 0x100 => setCsr s (fun r => { r with status := statusWritten r.status v })
  | 0x101 => setCsr s (fun r => { r with tvec := v })
  | 0x102 => setCsr s (fun r => { r with epc := v })
  | 0x103 => setCsr s (fun r => { r with cause := v })
  | 0x104 => setCsr s (fun r => { r with tval := v })
  | 0x105 => setCsr s (fun r => { r with topnd := v })
  | _ => s

/-- A write, set or clear: the checks of R165 in order on the combined value, then the write and `k`. -/
def csrPut (s : State) (c : Nat) (f : Word → Word) (k : State → State) : Out :=
  match csrRead s c with
  | none => .next (trapWord s 0x01 0)
  | some old =>
    if csrReadOnly c then .next (trapWord s 0x01 0)
    else if csrSupervisor c && !supervisor s.hart then .next (trapWord s 0x09 0)
    else
      match csrRefuses s c (f old) with
      | some cause => .next (trapWord s cause 0)
      | none => .next (k (csrWrite s c (f old)))

/-- CSRR: the protection check, the frozen register, then the register's existence (R149, R165). -/
def execCsrr (d : SReg) (c : BitVec 12) (s : State) : Out :=
  if csrSupervisor c.toNat && !supervisor s.hart then .next (trapWord s 0x09 0)
  else guardWrite s d (
    match csrRead s c.toNat with
    | none => .next (trapWord s 0x01 0)
    | some v => .next (advance (setReg s d v)))
/-- CSRW. -/
def execCsrw (a : SReg) (c : BitVec 12) (s : State) : Out := csrPut s c.toNat (fun _ => getReg s a) advance
/-- CSRS. -/
def execCsrs (a : SReg) (c : BitVec 12) (s : State) : Out :=
  csrPut s c.toNat (fun old => old ||| getReg s a) advance
/-- CSRC. -/
def execCsrc (a : SReg) (c : BitVec 12) (s : State) : Out :=
  csrPut s c.toNat (fun old => old &&& ~~~ getReg s a) advance

/-! ### The write of one register as a step of its own -/

/-- `k` once every earlier vector instruction of the acting hart has completed, the deliveries of its gathers among them. -/
def afterVector (s : State) (k : Out) : Out :=
  if vectorBusy s.hart || !(gatherRegs s.hart).isEmpty then .next (stall s) else k

/-- VRCFG_CSR_WRITE (R17, R43). -/
def execVrcfgCsrWrite (v : Word) (s : State) : Out := afterVector s (csrPut s 0x003 (fun _ => v) id)
/-- VTYPE_CSR_WRITE (R23, R43), whose cut of VL comes after the lengths of the vector instructions before it. -/
def execVtypeCsrWrite (v : Word) (s : State) : Out := afterVector s (csrPut s 0x002 (fun _ => v) id)
/-- FCSR_WRITE (R71, R72). -/
def execFcsrWrite (v : Word) (s : State) : Out := csrPut s 0x010 (fun _ => v) id
/-- SEED_WRITE (R84). -/
def execSeedWrite (v : Word) (s : State) : Out := csrPut s 0x011 (fun _ => v) id
/-- SLBASE_WRITE (R56). -/
def execSlbaseWrite (v : Word) (s : State) : Out := csrPut s 0x020 (fun _ => v) id
/-- AGE_WRITE (R310). -/
def execAgeWrite (v : Word) (s : State) : Out := csrPut s 0x030 (fun _ => v) id
/-- STATUS_WRITE (R321). -/
def execStatusWrite (v : Word) (s : State) : Out := csrPut s 0x100 (fun _ => v) id
/-- REGISTER_WRITE (R42, R165); of VTYPE or VRCFG as their own rows. -/
def execRegisterWrite (c : BitVec 12) (v : Word) (s : State) : Out :=
  let k := csrPut s c.toNat (fun _ => v) id
  if c.toNat = 0x002 ∨ c.toNat = 0x003 then afterVector s k else k

end Sys2Proof.Machine
end

