-- ==== Sys2Proof/Machine/Husk.lean ====
section
/-! DEFINITION. The image of a husk in memory (R318): header, control pages, local memories, masks, vector registers,
accumulators and the VP path table, written at a save; the memory regions are read back at a resume.  Within the control
pages R318 gives an order and no places: the fields follow one another (log 34), and the husk's record holds them too. -/

namespace Sys2Proof.Machine

/-- The bytes of a number from number `k` on, as cells. -/
def numCells (v k fuel : Nat) : Sparse 8 :=
  match fuel with
  | 0 => []
  | fuel + 1 =>
    if v = 0 then []
    else if v % 256 = 0 then numCells (v / 256) (k + 1) fuel
    else (k, BitVec.ofNat 8 v) :: numCells (v / 256) (k + 1) fuel

/-- Entries of 32 bits as bytes, entry `k` at `start` + 4k. -/
def wordCells (m : Sparse 32) (start : Nat) : Sparse 8 :=
  (m.map (fun e => numCells e.2.toNat (start + 4 * e.1) 4)).flatten

/-- Bytes gathered into entries of 32 bits. -/
def packWords (m : Sparse 8) : Sparse 32 :=
  match m with
  | [] => []
  | (o, b) :: rest =>
    let w : BitVec 32 := BitVec.ofNat 32 (b.toNat * 2 ^ (8 * (o % 4)))
    match packWords rest with
    | [] => [(o / 4, w)]
    | (k, x) :: more => if k = o / 4 then (k, x ||| w) :: more else (o / 4, w) :: (k, x) :: more

/-- Bytes gathered into one number. -/
def packNum (m : Sparse 8) : Nat := m.foldl (fun acc e => acc + e.2.toNat * 256 ^ e.1) 0

/-- The VPs on a path: 8 bytes each (R318). -/
def pathCells (h : Hart) : Sparse 8 :=
  match h.vf with
  | none => []
  | some r =>
    let paths := r.vps.filter (fun v => v.word.isNone)
    (paths.mapIdx (fun i v => numCells (v.elem + 2 ^ 32 * bits v.pc 0 32) (0x398000 + 8 * i) 8)).flatten

/-- Bytes from `k` on, as cells. -/
def byteCells (k : Nat) (bs : List Byte) : Sparse 8 :=
  match bs with
  | [] => []
  | b :: rest => if b = 0 then byteCells (k + 1) rest else (k, b) :: byteCells (k + 1) rest

/-- The header (R318): magic, version, launch, core, gang size and member index, flags, VP path entries; flag 4 marks a
dump-held husk (R390). -/
def headerBytes (h : Hart) (parked dump : Bool) : List Byte :=
  let paths := match h.vf with
    | some r => r.vps.countP (fun v => v.word.isNone)
    | none => 0
  let flags := (if h.vec.matrix then 1 else 0) + (if parked then 2 else 0) + (if h.loop.isSome then 4 else 0) +
    (if paths ≠ 0 then 8 else 0) + (if dump then 16 else 0)
  ([0x4B535548, 1, launchOf h, h.core, gangSize h, memberOf h, flags, paths].map (natBytes 4)).flatten

/-- The numbers of the registers of R42. -/
def csrNumbers : List Nat :=
  [0x001, 0x002, 0x003, 0x004, 0x005, 0x010, 0x011, 0x020, 0x021, 0x030, 0x040, 0x041, 0x042, 0x043, 0x044, 0x050, 0x051,
    0x100, 0x101, 0x102, 0x103, 0x104, 0x105]

/-- The scalar page (R318): registers, pc, CSRs by number, the counter latch, the scoreboard, the pending plain loads.  The
event latch is bit 6 of STATUS. -/
def scalarBytes (s : State) (h : Hart) : List Byte :=
  (h.regs.toList.map (fun v => natBytes 8 v.toNat)).flatten ++ natBytes 8 h.pc.toNat ++
  (csrNumbers.map (fun n => natBytes 8 ((csrRead { s with hart := h } n).getD 0).toNat)).flatten ++
  natBytes 1 h.latch.valid.toNat ++ natBytes 3 h.latch.n ++ natBytes 4 h.latch.high.toNat ++ natBytes 4 h.pending.toNat ++
  natBytes 4 (h.loads ++ h.reissue.map (·.1)).length ++
  ((h.loads ++ h.reissue.map (·.1)).map (fun l => natBytes 8 l.rd.val ++ natBytes 8 l.addr.toNat ++ natBytes 8 l.size)).flatten

/-- One entry of the engine table (R318): status register, completed-flag, status word, chunk mask. -/
def tableEntry (rd : SReg) (status : Option Word) (mask : Nat) : List Byte :=
  natBytes 8 rd.val ++ natBytes 8 status.isSome.toNat ++ natBytes 8 (status.getD 0).toNat ++ natBytes 8 mask ++ natBytes 32 0

/-- The engine and replay table (R318): sixteen entries of engines, one of the open marked loop. -/
def tableBytes (h : Hart) : List Byte :=
  let es := h.engines.take 16
  (es.map (fun e => tableEntry e.rd e.status e.kind.maskOf)).flatten ++ natBytes (64 * (16 - es.length)) 0 ++
  (match h.loop with
    | some l =>
      tableEntry l.rd (match l.phase with
        | .finished w => some w
        | _ => none) 0
    | none => [])

/-- The bit of an arrival bitmap (R28): the groups of register `r` follow those of the registers before it. -/
def arrivalBit (c : Csr) (r g : Nat) : Nat := r * (regLen c / 32) + g

/-- A number with the bits of some places set. -/
def bitsOf (ks : List Nat) : Nat := ks.foldl (fun v k => putBit v k true) 0

/-- One entry of the table of started vector instructions (R318): word, address, convoy head, member index, next group, K step
or row. -/
def startedEntry (ir : Nat) (pc head : Word) (members group step : Nat) : List Byte :=
  natBytes 8 ir ++ natBytes 8 pc.toNat ++ natBytes 8 head.toNat ++ natBytes 8 members ++ natBytes 8 group ++ natBytes 8 step ++
    natBytes 16 0

/-- Whether an instruction goes on at a K step or a row, not at an element group (R31). -/
def bySteps (ir : BitVec 32) : Bool :=
  match decode ir.toNat with
  | .ok (.mxsld ..) | .ok (.mldt ..) | .ok (.mstt ..) => true
  | _ => false

/-- The entry of the instruction that the vector unit holds. -/
def heldEntry (d : Held) : List Byte :=
  startedEntry d.ir.toNat d.pc d.head d.members (if bySteps d.ir then 0 else d.start / 64) (if bySteps d.ir then d.start else 0)

/-- The entry of a running `VF`: it goes on with the group of its lowest unfinished VP. -/
def vfEntry (r : VfRun) : List Byte :=
  startedEntry r.ir.toNat r.pc r.pc 1 ((r.vps.map (·.elem)).foldl Nat.min ((r.vps.headD ⟨0, 0, none, 0⟩).elem) / 64) 0

/-- A copy-tracking context (R53): its range and its 64 arrival pointers. -/
def contextBytes (s : State) (e : Engine) : List Byte :=
  match tracked s e with
  | none => []
  | some (lo, len, done) =>
    let rows := List.range ((lo + len) / 256 - lo / 256 + 1)
    let aptr := fun b => ((rows.find? (fun i =>
      let x := (lo / 256 + i) * 256 + 4 * b
      decide (lo ≤ x ∧ x < lo + len) && !done x)).map (fun i => lo / 256 + i)).getD ((lo + len) / 256 + 1)
    natBytes 8 lo ++ natBytes 8 len ++ ((List.range 64).map (fun b => natBytes 2 (aptr b))).flatten

/-- A stream's binding and cursor. -/
def streamBytes (e : Engine) : List Byte :=
  match e.kind with
  | .stream p a _ cur => natBytes 8 p ++ natBytes 8 a.toNat ++ natBytes 8 cur
  | _ => []

/-- The vector control region (R318). -/
def vectorBytes (s : State) (h : Hart) : List Byte :=
  (h.vec.tags.toList.map (fun t => natBytes 1 t.toNat)).flatten ++
  (h.vec.index.toList.map (natBytes 2)).flatten ++ natBytes 8 h.vec.complete.toNat ++
  natBytes 768 (2 ^ 6144 - 1 - bitsOf (h.vec.missing.map (fun p => arrivalBit h.csr p.1 p.2))) ++
  (h.vec.maskIndex.toList.map (natBytes 2)).flatten ++ natBytes 8 h.vec.maskComplete.toNat ++
  ((List.range 64).map (fun l => natBytes 4 (((h.vec.carry.find? (fun x => x.1 == l)).map (·.2.toNat)).getD 0))).flatten ++
  natBytes 4 h.vec.carryCount.toNat ++
  (h.held.toList.map heldEntry).flatten ++ (h.vf.toList.map vfEntry).flatten ++
  natBytes (64 * (16 - h.held.toList.length - h.vf.toList.length)) 0 ++
  (((h.engines.filter (fun e => (tracked s e).isSome)).take 4).map (contextBytes s)).flatten ++
  (List.range 1024).flatMap (fun n => natBytes 4 (sget h.recv n).toNat) ++
  (h.engines.map streamBytes).flatten

/-- The image of a hart but for its header, by offset in its husk slot (R318). -/
def imageCells (s : State) (h : Hart) : Sparse 8 :=
  byteCells 0x1000 (scalarBytes s h) ++ byteCells 0x2000 (tableBytes h) ++ byteCells 0x3000 (vectorBytes s h) ++
  sslice h.sdm 0 0x10000 0x8000 ++
  ((List.range 8).map (fun m => numCells (h.vec.masks[m]?.getD 0) (0x18000 + 49152 * m) 49152)).flatten ++
  wordCells h.vec.vrf 0x78000 ++
  (if h.vec.matrix then wordCells (h.vec.acc.map (fun e => (arrayKey h.csr e.1, e.2))) 0x138000 else []) ++
  sslice h.spad 0 0x200000 0x198000 ++
  pathCells h

/-- The address of a husk slot of a partition (R318). -/
def huskBase (s : State) (part slot : Nat) : Nat := (pcpWord s part 0x18).toNat + 2 ^ 23 * slot

/-- The image written into its slot, its header last and at device scope (R319); what is unused is zero. -/
def writeImage (s : State) (part slot : Nat) (parked dump : Bool) (h : Hart) : State :=
  let b := huskBase s part slot
  let cells : Sparse 8 := (imageCells s h).map (fun e => (b + e.1, e.2))
  writeBytes { s with mem := soverlay (sclear s.mem b (b + 2 ^ 23)) cells } none b (headerBytes h parked dump)

/-- The CSRs as the scalar page of a husk holds them by number; what only names the hart, AGE and TIME are not the hart's. -/
def readCsrs (c : Csr) (f : Nat → Word) : Csr :=
  { c with
    vl := f 0, vtype := f 1, vrcfg := f 2, mvl := f 3, tshape := f 4, fcsr := f 5, seed := f 6, slbase := f 7, recn := f 8
    cycle := f 15, status := f 17, tvec := f 18, epc := f 19, cause := f 20, tval := f 21, topnd := f 22 }

/-- A hart with what its slot holds of its image (R320); of the control pages the registers, the pc, the CSRs, the counter
latch, the scoreboard, and the tags and progress of the vector and mask registers (log 34). -/
def readImage (s : State) (part slot : Nat) (h : Hart) : Hart :=
  let b := huskBase s part slot
  let at_ := fun lo hi => sslice s.mem (b + lo) (b + hi) 0
  let num := fun o n => sgetBytes s.mem (b + o) n
  { h with
    regs := Vector.ofFn (fun (i : Fin 32) => word (num (0x1000 + 8 * i.val) 8))
    pc := word (num 0x1100 8)
    csr := readCsrs h.csr (fun i => word (num (0x1108 + 8 * i) 8))
    latch := ⟨num 0x11C0 1 != 0, num 0x11C1 3, BitVec.ofNat 32 (num 0x11C4 4)⟩
    pending := BitVec.ofNat 32 (num 0x11C8 4)
    sdm := at_ 0x8000 0x18000
    spad := at_ 0x198000 0x398000
    vec := { h.vec with
      tags := Vector.ofFn (fun (i : Fin 64) => BitVec.ofNat 4 (num (0x3000 + i.val) 1))
      index := Vector.ofFn (fun (i : Fin 64) => num (0x3040 + 2 * i.val) 2)
      complete := BitVec.ofNat 64 (num 0x30C0 8)
      maskIndex := Vector.ofFn (fun (i : Fin 8) => num (0x33C8 + 2 * i.val) 2)
      maskComplete := BitVec.ofNat 8 (num 0x33D8 8)
      masks := Vector.ofFn (fun (m : Fin 8) => packNum (at_ (0x18000 + 49152 * m.val) (0x18000 + 49152 * (m.val + 1))))
      vrf := packWords (at_ 0x78000 0x138000)
      acc := (packWords (at_ 0x138000 0x198000)).map (fun e => (tileKey h.csr e.1, e.2)) } }

/-- Some word of a husk slot is uncorrectable (R394). -/
def badImage (s : State) (part slot : Nat) : Bool := badMem s (huskBase s part slot) (2 ^ 23)

/-- A husk's image changed, in its record and in memory (R319). -/
def onHusk (s : State) (i : Nat) (f : Hart → Hart) : State :=
  match s.husks[i]? with
  | none => s
  | some k =>
    let h := f k.image
    if h = k.image then s
    else writeImage { s with husks := s.husks.set i { k with image := h } } k.part k.slot k.parked.isSome k.dump h

end Sys2Proof.Machine
end

