-- ==== Sys2Proof/Machine/Standing.lean ====
section
/-! DEFINITION. Standing loads (R219 to R227, R397): subscribing, the home's answers and pushes, taking and waiting,
and ending a subscription. -/

namespace Sys2Proof.Machine

/-! ### Status words (R230) -/

/-- A status word: kind, state, index saturating at 0xFF_FFFF where `sat`, detail (R230). -/
def statusWord (kind st index detail : Nat) : Word :=
  word (kind * 2 ^ 60 + st * 2 ^ 56 + Nat.min index 0xFFFFFF * 2 ^ 32 + detail % 2 ^ 32)

/-! ### Slots -/

/-- TOPND of a slot operand: the register that holds its number (R325). -/
def topndSlot (r : SReg) : Word := operandWord 6 r.val 0

/-- Whether a buffered store writes into the slot region of the hart (R56). -/
def storesSlot (h : Hart) (st : Store) : Bool :=
  match st.place with
  | .spad o => decide (slotOffset h 0 < o + st.size ∧ o < slotOffset h 1024)
  | _ => false

/-- The hart's own buffered stores that satisfy `f`, and those before them, performed before `k`; it waits while they may
not be yet (R93, R105). -/
def afterStores (s : State) (f : Store → Bool) (k : State → Out) : Out :=
  if s.hart.buffer.any f then
    let t := drainBuffer s s.hart.core
    if t.hart.buffer.any f then .next (stall s) else k t
  else k s

/-- The checks every standing instruction starts with: the frozen register, the slot number, and the wait for an
outstanding answer on the slot (R219, R397); then `k`, with the hart's own buffered stores to its slots in place.  Other
buffered stores stay, but for an acquire (R103, log 8). -/
def withSlot (s : State) (d r : SReg) (k : State → Nat → Out) : Out :=
  guardWrite s d (
    let v := getReg s r
    if 1024 ≤ v.toNat then .next (trapAt s 0x09 v (topndSlot r))
    else if standOutstanding s s.hart.core v.toNat then .next (stall s)
    else afterStores s (storesSlot s.hart) (fun t => k t v.toNat))

/-- The slots of a subscriber's core that a write of the home directory names. -/
def slotOwner (h : Hart) (n : Nat) : Subscriber := .slot h.core n (partOf h) (launchOf h) (gangOf h)

/-! ### STAND (R220) -/

/-- The entries of a home bank in use (R220). -/
def bankEntries (s : State) (pa : Nat) : Nat := s.directory.countP (fun d => homeOf d.pa == homeOf pa)

/-- The home's decision on a subscription of `who` to the word at `pa`: the refusal cause, 0 when it is accepted,
the entry's sequence, and the directory with the subscriber added (R220). -/
def subscribe (s : State) (who : Subscriber) (pa : Nat) : Nat × BitVec 32 × State :=
  let a := pa / 8 * 8
  if leaseBase ≤ a then (3, 0, s)
  else
    match s.directory.find? (fun d => d.pa == a) with
    | some d =>
      if 8 ≤ d.subs.length then (1, 0, s)
      else
        let d' : DirEntry := { d with subs := d.subs ++ [⟨who, 0, false, none, none⟩] }
        (0, d.seq, { s with directory := s.directory.map (fun e => if e.pa = a then d' else e) })
    | none =>
      if 1024 ≤ bankEntries s a then (2, 0, s)
      else (0, 0, { s with directory := s.directory ++ [⟨a, 0, [⟨who, 0, false, none, none⟩]⟩] })

/-- A request for slot `n` decided at its home, its answer on the way; an acquire of the write that the word holds (R220). -/
def requestStand (s : State) (n pa : Nat) (rd : Option SReg) : Word × State :=
  let s := dropOlds s s.hart.core (.phys pa)
  let v := word8 s pa
  let r := subscribe s (slotOwner s.hart n) pa
  let a : StandAnswer := ⟨s.hart.core, n, partOf s.hart, launchOf s.hart, pa / 8 * 8, rd, v, r.2.1, r.1, 0, none⟩
  (v, { r.2.2 with stands := r.2.2.stands ++ [a] })

/-- STAND: slot state, address, translation; then the request, an acquire (R220). -/
def execStand (d a b : SReg) (s : State) : Out :=
  withSlot s d b (fun s n =>
    let va := getReg s a
    let st := slotState s.hart n
    if st = 1 ∨ st = 2 ∨ st = 4 then .next (trapAt s 0x09 (word n) (topndSlot b))
    else if bits va 48 16 ≠ 0 then .next (addressTrap s 0x09 va a false)
    else if va.toNat % 8 ≠ 0 then .next (addressTrap s 0x06 va a false)
    else if va.toNat < globalBase then .next (addressTrap s 0x09 va a false)
    else
      let r := translate s s.hart.core (partOf s.hart) (supervisor s.hart) va 8 .read
      match r.1.1 with
      | .missing st2 => .next (pageTrap r.2 va a false st2)
      | .denied c st2 => .next (addressTrap r.2 c va a st2)
      | .ok pa =>
        if badMem r.2 pa 8 then .next (addressTrap r.2 0x0B va a false)
        else
          afterStores r.2 (fun st => st.place.word8 == (Place.phys pa).word8) (fun t =>
            let q := requestStand (acquireNow t) n pa (some d)
            .next (advance { q.2 with hart := setPending q.2.hart d })))

/-! ### Pushes (R221) -/

/-- Whether sequence `q` is newer than `p` (R221). -/
def newer (q p : BitVec 32) : Bool := decide (1 ≤ (q - p).toNat ∧ (q - p).toNat ≤ 2 ^ 31)

/-- A push applied to an ARMED or DRAINING slot (R221). -/
def applyPush (h : Hart) (n : Nat) (v : Word) (q : BitVec 32) : Hart :=
  if newer q (slotSeq h n) then
    let fl := slotFlags h n
    let fresh := fl % 2 = 1
    let ovr := if fresh then Nat.min (slotOvr h n + 1) 0xFFFF else slotOvr h n
    let fl' := (if fresh then fl ||| 2 else fl) ||| 1
    let h1 := latchHart (writeSlot h n v q ovr (slotState h n) fl')
    countHart (if fresh then countHart h1 0x12 8 1 else h1) 0x10 8 1
  else countHart h 0x11 8 1

/-- The received count of a slot (R221). -/
def received (h : Hart) (n : Nat) : Nat := (sget h.recv n).toNat

/-- The received count of a slot raised. -/
def receive (h : Hart) (n k : Nat) : Hart := { h with recv := sset h.recv n (BitVec.ofNat 32 (received h n + k)) }

/-- A DRAINING slot whose count is complete becomes IDLE and its status is written (R224). -/
def settleDrain (s : State) (core n : Nat) : State :=
  let h := hartAt s core
  match s.unstands.find? (fun u => u.core == core && u.slot == n && u.arrived) with
  | none => s
  | some u =>
    if slotState h n = 2 ∧ received h n = u.count then
      let s1 := { s with unstands := s.unstands.filter (fun x => !(x.core == core && x.slot == n)) }
      onCore s1 core (fun h =>
        writePending (setSlotState h n 0) u.rd (statusWord 8 0 u.count (slotSeq h n).toNat))
    else s

/-- Whether a subscription is parked at its home (R226). -/
def parkedAt (s : State) (pa : Nat) (who : Subscriber) : Bool :=
  s.directory.any (fun d => d.pa == pa && d.subs.any (fun b => b.who == who && b.parked))

/-- The outstanding answer that a push belongs to, with the push held (R397). -/
def holdPush (a : StandAnswer) (v : Word) (q : BitVec 32) : StandAnswer :=
  let k := match a.kept with
    | none => (v, q)
    | some x => if newer q x.2 then (v, q) else x
  { a with held := a.held + 1, kept := some k }

/-- The subscriptions of a launch's dependences removed once it has left WAITING (R311). -/
def settleLaunch (s : State) (part launch : Nat) : State :=
  match s.launches.find? (fun l => l.part == part && l.id == launch) with
  | none => s
  | some l =>
    if l.deps.all (·.done) then
      let t := dropSubs s (fun _ w => match w with
        | .dependence p i _ => p == part && i == launch
        | .slot .. => false)
      { t with pushes := t.pushes.filter (fun x => match x.who with
        | .dependence p i _ => !(p == part && i == launch)
        | .slot .. => true) }
    else s

/-- A push delivered at its subscriber (R65, R221, R226, R397). -/
def deliver (s : State) (p : Push) : State :=
  match p.who with
  | .dependence part launch d =>
    settleLaunch { s with launches := s.launches.map (fun l =>
        if l.part = part ∧ l.id = launch ∧ p.value.toNat.testBit 63 then
          { l with deps := l.deps.mapIdx (fun i x => if i = d then { x with done := true } else x) }
        else l) } part launch
  | .slot core n part launch gang =>
    if s.stands.any (fun a => a.core == core && a.slot == n && a.part == part && a.launch == launch && a.pa == p.pa) then
      { s with stands := s.stands.map (fun a =>
          if a.core == core && a.slot == n && a.pa == p.pa then holdPush a p.value p.seq else a) }
    else if parkedAt s p.pa p.who then { s with bounces := s.bounces ++ [p] }
    else
      let h := hartAt s core
      if runsGang h part launch gang && (slotState h n == 1 || slotState h n == 2) then
        settleDrain (onCore s core (fun h => applyPush (receive h n 1) n p.value p.seq)) core n
      else s

/-! ### Endpoints (R365, R367) -/

/-- The endpoint of a push, as a number: its subscriber's core, or the arbiter of the partition. -/
def Push.endpoint (p : Push) : Nat :=
  match p.who with
  | .slot core .. => 2 ^ 22 + core
  | .dependence part .. => 2 ^ 23 + part

/-- How many packets the recovery buffer of an endpoint holds (R367). -/
def recovering (s : State) (e : Nat) : Nat :=
  s.packets.countP (fun p => p.transit == .recovery && p.endpoint == e) +
    s.pushes.countP (fun p => p.transit == .recovery && p.endpoint == e)

/-- PUSH_ARRIVAL: the k-th push in flight arrives, unless a recovered packet is before it (R367). -/
def execPushArrival (k : Nat) (s : State) : Out :=
  match s.pushes[k]? with
  | none => .next s
  | some p =>
    .next (if p.transit = .mesh ∧ recovering s p.endpoint = 0 then
      deliver (unsuspect { s with pushes := s.pushes.eraseIdx k } p.id) p
    else s)

/-- A re-arm completed at the home once the received count is the count sent: the latest value is pushed if it is
newer than the slot's (R226). -/
def completeRearm (pa : Nat) (b : Sub) : Sub × List Push :=
  match b.rearm with
  | none => (b, [])
  | some (r, q) =>
    if r ≠ b.sent then (b, [])
    else
      let b1 : Sub := { b with parked := false, rearm := none, latest := none }
      match b.latest with
      | none => (b1, [])
      | some (v, x) =>
        if newer x q then ({ b1 with sent := b1.sent + 1 }, [⟨0, 0, pa, b.who, v, x, .mesh, 0⟩]) else (b1, [])

/-- The QoS class of what a subscriber's request causes (R369). -/
def classOfSub (s : State) (who : Subscriber) : Nat :=
  match who with
  | .slot core .. => classOfHart s (hartAt s core)
  | .dependence .. => 0

/-- A subscription at the home of `pa` changed by `f`, and re-armed if that completes its re-arm. -/
def atHome (s : State) (pa : Nat) (who : Subscriber) (f : Sub → Sub) : State :=
  match s.directory.find? (fun d => d.pa == pa) with
  | none => s
  | some d =>
    let r := d.subs.map (fun b => if b.who = who then completeRearm pa (f b) else (b, []))
    let sent := ((r.map (·.2)).flatten).map (fun p => { p with qos := classOfSub s who })
    { s with
      directory := s.directory.map (fun e => if e.pa = pa then { d with subs := r.map (·.1) } else e)
      pushes := s.pushes ++ numberPushes s.serial s.clock sent
      serial := s.serial + sent.length }

/-- A push that came back, at its home (R226): it no longer counts as sent, and the home keeps the newest value. -/
def bounceSub (p : Push) (b : Sub) : Sub :=
  let latest := match b.latest with
    | none => some (p.value, p.seq)
    | some x => if newer p.seq x.2 then some (p.value, p.seq) else some x
  { b with sent := b.sent - 1, latest := if b.parked then latest else b.latest }

/-- The count of an `UNSTAND` less a push that came back (R226). -/
def bounceDrain (s : State) (p : Push) : State :=
  match p.who with
  | .slot core n part launch _ =>
    settleDrain { s with unstands := s.unstands.map (fun u =>
      if u.core = core ∧ u.slot = n ∧ u.part = part ∧ u.launch = launch then { u with count := u.count - 1 } else u) } core n
  | .dependence .. => s

/-- PUSH_BOUNCE: the k-th returned push reaches its home, and wakes the parked husk (R226, R314). -/
def execPushBounce (k : Nat) (s : State) : Out :=
  match s.bounces[k]? with
  | none => .next s
  | some p =>
    let s1 := { s with bounces := s.bounces.eraseIdx k, husks := s.husks.map (wakeFor p.who) }
    .next (bounceDrain (atHome s1 p.pa p.who (bounceSub p)) p)

/-- The slot as the home's answer leaves it (R220, R397). -/
def answerSlot (h : Hart) (a : StandAnswer) : Hart :=
  if a.refusal = 0 then
    let h1 := writeSlot h a.slot a.value a.seq 0 1 0
    let h2 := { h1 with recv := sset h1.recv a.slot (BitVec.ofNat 32 a.held) }
    match a.kept with
    | none => h2
    | some x => applyPush h2 a.slot x.1 x.2
  else writeSlot h a.slot a.value 0 a.refusal 3 0

/-- STAND_ANSWER: the k-th answer is written into its slot, held pushes applied, and then rd (R220, R397). -/
def execStandAnswer (k : Nat) (s : State) : Out :=
  match s.stands[k]? with
  | none => .next s
  | some a =>
    let s1 := { s with stands := s.stands.eraseIdx k }
    .next (onCore s1 a.core (fun h =>
      let h1 := answerSlot h a
      match a.rd with
      | some r => writePending h1 r a.value
      | none => h1))

/-! ### TAKE and WAITSL (R222, R223) -/

/-- A slot with FRESH cleared. -/
def clearFresh (h : Hart) (n : Nat) : Hart :=
  { h with spad := sset h.spad (slotOffset h n + 15) (BitVec.ofNat 8 (slotFlags h n / 2 * 2)) }

/-- A slot that is ARMED or DRAINING: to take its value is an acquire (R222, R227). -/
def slotLive (h : Hart) (n : Nat) : Bool := slotState h n == 1 || slotState h n == 2

/-- The words that a slot of the acting hart is subscribed to, or was before its `UNSTAND`. -/
def slotWords (s : State) (n : Nat) : List Nat :=
  (s.directory.filter (fun d => d.subs.any (fun b => b.who == slotOwner s.hart n))).map (·.pa) ++
    (s.unstands.filter (fun u => u.core == s.hart.core && u.slot == n)).map (·.pa)

/-- The value of slot `n` acquired: no later access of the hart returns what its word held before the write that gave it
(R113). -/
def acquireSlot (s : State) (n : Nat) : State :=
  if s.olds.isEmpty then s
  else
    let q := slotSeq s.hart n
    { s with olds := s.olds.filter (fun x => match x.place with
      | .phys pa => !((slotWords s n).contains (pa / 8 * 8) && !newer x.seq q)
      | _ => true) }

/-- TAKE. -/
def execTake (d a : SReg) (s : State) : Out :=
  withSlot s d a (fun s n =>
    let t := if slotLive s.hart n then acquireSlot (acquireNow s) n else s
    let v := slotValue t.hart n
    .next (advance (setReg { t with hart := clearFresh t.hart n } d v)))

/-- What a `WAITSL` answers now, or none while it waits (R223). -/
def waitAnswer (h : Hart) (n now due : Nat) : Option Nat :=
  let st := slotState h n
  if st ≠ 1 ∧ st ≠ 2 then some 2
  else if slotFlags h n % 2 = 1 then some 1
  else if due ≤ now then some 0
  else none

/-- The timeout point of a `WAITSL` that starts now, or that starts again after a pre-emption (R223). -/
def waitPoint (s : State) (timeout : Word) : Nat :=
  match s.hart.waitDue with
  | some (pc, due) => if pc = s.hart.pc then due else s.clock + timeout.toNat
  | none => s.clock + timeout.toNat

/-- WAITSL: answers at once, or the control thread stalls at it.  The answer 1 is an acquire (R223). -/
def execWaitsl (d a b : SReg) (s : State) : Out :=
  withSlot s d a (fun s n =>
    let due := waitPoint s (getReg s b)
    let s1 := { s with hart := { s.hart with waitDue := none } }
    match waitAnswer s.hart n s.clock due with
    | some v => .next (advance (setReg (if v = 1 then acquireSlot (acquireNow s1) n else s1) d (word v)))
    | none => .next { s1 with hart := { s1.hart with run := .waitSlot d n s.clock due } })

/-- What a stalled `WAITSL` answers now, or none while it stays: it waits for FRESH or its timeout, whatever becomes of the
slot meanwhile (R223). -/
def stallAnswer (h : Hart) (n now due : Nat) : Option Nat :=
  if slotFlags h n % 2 = 1 then some 1
  else if due ≤ now then some 0
  else none

/-- A stalled `WAITSL` looked at again: it answers and the hart goes on, or it stays (R223). -/
def pollWait (s : State) : State :=
  match s.hart.run with
  | .waitSlot d n _ due =>
    match stallAnswer s.hart n s.clock due with
    | some v =>
      let t := if v = 1 then acquireSlot (acquireNow s) n else s
      advance (setReg { t with hart := { t.hart with run := .running } } d (word v))
    | none => s
  | _ => s

/-- WAITSL_TIMEOUT: the timeout of a stalled `WAITSL` has passed without FRESH (R223). -/
def execWaitslTimeout (core : CoreId) (s : State) : Out :=
  .next (onCore s core.val (fun h =>
    match h.run with
    | .waitSlot d n _ due =>
      if stallAnswer h n s.clock due = some 0 then
        { h with run := .running, pc := h.pc + 4, regs := if d = 0 then h.regs else h.regs.set d 0 }
      else h
    | _ => h))

/-! ### UNSTAND (R224) -/

/-- The count of pushes that the home sent to a slot since it was armed (R226). -/
def sentTo (s : State) (who : Subscriber) : Nat :=
  (s.severed.filter (fun x => x.1 == who)).foldl (fun a x => a + x.2)
    (s.directory.foldl (fun acc d => acc + (d.subs.filter (fun b => b.who == who)).foldl (fun a b => a + b.sent) 0) 0)

/-- UNSTAND. -/
def execUnstand (d a : SReg) (s : State) : Out :=
  withSlot s d a (fun s n =>
    let h := s.hart
    let st := slotState h n
    if st = 1 ∨ st = 4 then
      let who := slotOwner h n
      let c := sentTo s who
      let s1 := dropSubs s (fun _ w => w == who)
      let u : Unstand := ⟨h.core, n, partOf h, launchOf h, (slotWords s n).headD 0, d, c, false⟩
      .next (advance { s1 with unstands := s1.unstands ++ [u], hart := setPending (setSlotState s1.hart n 2) d })
    else if st = 3 then
      .next (advance (setReg { s with hart := setSlotState h n 0 } d (statusWord 8 0 0 (slotSeq h n).toNat)))
    else .next (advance (setReg s d (statusWord 8 4 0 (if st = 2 then 2 else 1)))))

/-- UNSTAND_ANSWER: the k-th count arrives; the slot drains until it has received that many (R224). -/
def execUnstandAnswer (k : Nat) (s : State) : Out :=
  match s.unstands[k]? with
  | none => .next s
  | some u =>
    let s1 := { s with unstands := s.unstands.set k { u with arrived := true } }
    .next (settleDrain s1 u.core u.slot)

/-! ### VSTAND and VTAKE (R227) -/

/-- The slots of the active elements from the restart boundary up to `z`, from the slot in rsl on. -/
def activeSlots (s : State) (m : MReg) (sl z : Nat) : List (Nat × Nat) :=
  ((List.range z).filter (fun e => decide (s.hart.restart.start ≤ e) && enabled s.hart m e)).map (fun e => (e, sl + e))

/-- The fate of an element of `VSTAND` (R220, R213): slot state, address, translation, data. -/
def standFate (s : State) (va : Word) (slot : Nat) : Fate × State :=
  let st := slotState s.hart slot
  if st = 1 ∨ st = 2 ∨ st = 4 ∨ bits va 48 16 ≠ 0 then (.denied 0x09 false, s)
  else if va.toNat % 8 ≠ 0 then (.denied 0x06 false, s)
  else if va.toNat < globalBase then (.denied 0x09 false, s)
  else
    let r := probe s s.hart.core (partOf s.hart) (supervisor s.hart) va 8 .read
    match r.1.1 with
    | .missing x => (.missing [va.toNat / 4096 * 4096] x, r.2)
    | .denied c x => (.denied c x, r.2)
    | .ok pa => (if badMem r.2 pa 8 then .denied 0x0B false else .ok [.phys pa], r.2)

/-- The elements of a `VSTAND` judged in order. -/
def judgeStands (s : State) (addr : Nat → Word) (es : List (Nat × Nat)) (acc : List Judged) : List Judged × State :=
  match es with
  | [] => (acc.reverse, s)
  | (e, sl) :: rest =>
    let r := standFate s (addr e) sl
    judgeStands r.2 addr rest (⟨e, addr e, r.1⟩ :: acc)

/-- The requests of a `VSTAND` sent, each after its lane's stores to the word (R95), and the returned values written. -/
def standElems (s : State) (f : Form) (addr : Nat → Word) (t : VReg) (narrow : Bool) (w sl : Nat)
    (els : List (Nat × List Place)) : State :=
  els.foldl (fun s x =>
    let s1 := (markPieces s f [⟨addr x.1, 8⟩]).2
    match x.2 with
    | .phys pa :: _ =>
      let q := requestStand (settle s1 (laneCluster x.1) (placeRange (.phys pa) 8)) (sl + x.1) pa none
      { q.2 with hart := setElem q.2.hart t.val narrow x.1 (q.1.toNat % 2 ^ w) }
    | _ => s1) s

/-- The operand checks of `VSTAND` and `VTAKE` (R20, R178, R227). -/
def standRejects (h : Hart) (t : VReg) (vi : Option VReg) : Option (Nat × Word) :=
  let dt := dtagOf h.csr
  let is := (vi.map (·.val)).toList
  match regsFail h.csr (t.val :: is) with
  | some x => some (x.1, topndV x.2 0)
  | none =>
    if dt = 0 || destFails h t.val dt is then some (0x03, topndV t.val 0)
    else
      match vi with
      | none => none
      | some v => if indexFails h v.val then some (0x03, topndV v.val 0) else none

/-- Buffered releases that an acquire of the vector unit comes after (R103) but that may not be performed yet. -/
def releaseWaits (h : Hart) : Bool := h.released && !h.buffer.all (storeReady h)

/-- VSTAND: per element, R220. -/
def execVstand (t : VReg) (b : SReg) (i : VReg) (m : MReg) (sl : SReg) (s : State) : Out :=
  let h := s.hart
  let n := lengthOf h
  let dt := dtagOf h.csr
  let base := (getReg s sl).toNat
  match standRejects h t (some i) with
  | some x => vecTrap s x.1 x.2
  | none =>
    if 1024 < base + n then vecTrapAt s 0x09 (getReg s sl) (topndSlot sl)
    else
      let es := activeSlots s m base n
      if es.any (fun x => standOutstanding s h.core x.2) || releaseWaits h then .next (stall s)
      else
        let f : Form := ⟨m, 8, false, true, false, 2, i.val⟩
        let addr := indexAddr s b i
        let j := judgeStands (acquireNow s) addr es []
        let p := (plan s f n (es.map (·.1)) ⟨j.1, none⟩).upTo (groupStop h n)
        let s1 := { j.2 with hart := setTags j.2.hart t.val (groupOf h.csr) dt }
        let s2 := standElems s1 f addr t (narrowTag dt) (tagBits dt) base p.els
        let out := finish { s2 with hart := loadLeft s2.hart m t.val dt n p } h.vec.tags f p
        match p.trap with
        | some (.batch ..) => if ringFull s (partOf h) then .next (stall s) else out
        | _ => out

/-- VTAKE: per element, R222, each after its lane's stores to the slot (R95). -/
def execVtake (t : VReg) (m : MReg) (sl : SReg) (s : State) : Out :=
  let h := s.hart
  let n := lengthOf h
  let dt := dtagOf h.csr
  let base := (getReg s sl).toNat
  match standRejects h t none with
  | some x => vecTrap s x.1 x.2
  | none =>
    if 1024 < base + n then vecTrapAt s 0x09 (getReg s sl) (topndSlot sl)
    else
      let z := groupStop h n
      let es := activeSlots s m base z
      let live := es.any (fun x => slotLive h x.2)
      if es.any (fun x => standOutstanding s h.core x.2) || (live && releaseWaits h) then .next (stall s)
      else
        let s1 := es.foldl (fun s x =>
          let t := settle s (laneCluster x.1) (placeRange (.spad (slotOffset s.hart x.2)) 16)
          if slotLive h x.2 then acquireSlot t x.2 else t) (if live then acquireNow s else s)
        let h1 := setTags s1.hart t.val (groupOf h.csr) dt
        let h2 := es.foldl (fun g x =>
          clearFresh (setElem g t.val (narrowTag dt) x.1 ((slotValue g x.2).toNat % 2 ^ tagBits dt)) x.2) h1
        let p : Plan := ⟨n, none, [], none, [], if z < n then some z else none⟩
        finish { s1 with hart := loadLeft h2 m t.val dt n p } h.vec.tags ⟨m, 8, false, true, false, 6, sl.val⟩ p

end Sys2Proof.Machine
end

