-- ==== Sys2Proof/Machine/Engine.lean ====
section
/-! DEFINITION. What all engine instructions share (R229 to R231): issue, the hart or husk that owns an engine, the
addresses an engine reaches, waiting for pages, faults and the status word. -/

namespace Sys2Proof.Machine

/-! ### Issue (R229) -/

/-- An engine set off by the acting hart, its status register pending. -/
def startEngine (s : State) (d : SReg) (k : EngineKind) : State :=
  let h := s.hart
  let e : Engine := ⟨s.serial, h.vseq, d, k, h.pc, h.ir, supervisor h, none, none, none⟩
  { s with hart := { setPending h d with engines := h.engines ++ [e] }, serial := s.serial + 1 }

/-- The status of an engine instruction that is rejected as it issues: state 4 in its register (R229, R230). -/
def rejectNow (s : State) (d : SReg) (kind code : Nat) : State :=
  let s1 := setReg s d (statusWord kind 4 0 code)
  if d = 0 then s1 else { s1 with hart := latchHart s1.hart }

/-- The frozen-register check and the limit of 16 engine instructions in flight (R229). -/
def issueEngine (s : State) (d : SReg) (k : Out) : Out :=
  guardWrite s d (if 16 ≤ s.hart.engines.length then .next (stall s) else k)

/-- `k` once every scalar access of the hart is performed (R111): the model performs the buffered stores as the engine
instruction issues, and waits for those that may not be performed yet (log 8). -/
def afterScalars (s : State) (k : State → Out) : Out :=
  let t := drainBuffer s s.hart.core
  if t.hart.buffer.isEmpty && t.hart.loads.isEmpty then k t else .next (stall s)

/-! ### The owner of an engine (R172, R229) -/

/-- An engine with its hart: the one that runs, or the image in a husk, by its place among the husks. -/
structure Owned where
  husk : Option Nat
  hart : Hart
  eng : Engine
  deriving DecidableEq, Repr

/-- Whether an engine is the one numbered `e`, and has not completed into a husk. -/
def Engine.is (x : Engine) (e : Nat) : Bool := x.id == e && x.status.isNone

/-- The engine numbered `e` with its owner. -/
def engineOf (s : State) (e : Nat) : Option Owned :=
  match s.harts.find? (fun h => h.engines.any (fun x => x.is e)) with
  | some h => (h.engines.find? (fun x => x.is e)).map (fun x => ⟨none, h, x⟩)
  | none =>
    (firstBelow s.husks.length (fun i =>
        ((s.husks[i]?).map (fun k => !k.resumed && k.image.engines.any (fun x => x.is e))).getD false)).bind
      (fun i => (s.husks[i]?).bind (fun k => (k.image.engines.find? (fun x => x.is e)).map (fun x => ⟨some i, k.image, x⟩)))

/-- The engine numbered `e` of core `core`, or what the module does when there is none: nothing. -/
def withEngine (s : State) (core e : Nat) (k : Owned → State) : Out :=
  match engineOf s e with
  | some o => .next (if o.hart.core = core then k o else s)
  | none => .next s

/-- A hart changed by `f`: the image in husk `husk`, or the hart that runs on a core. -/
def onPlace (s : State) (husk : Option Nat) (core : Nat) (f : Hart → Hart) : State :=
  match husk with
  | none => onCore s core f
  | some i => onHusk s i f

/-- The owner of an engine changed by `f`. -/
def onOwner (s : State) (o : Owned) (f : Hart → Hart) : State := onPlace s o.husk o.hart.core f

/-- The owner of an engine as it is now. -/
def ownerNow (s : State) (o : Owned) : Hart :=
  match o.husk with
  | none => hartAt s o.hart.core
  | some i => ((s.husks[i]?).map (·.image)).getD o.hart

/-- A wake sent for a parked husk that a status word or a chunk bit completes into (R314). -/
def wakePlace (s : State) (husk : Option Nat) : State :=
  match husk with
  | none => s
  | some i => { s with husks := s.husks.modify i (fun k => if k.parked.isSome then { k with woken := true } else k) }

/-- The parked husk of an engine's owner woken. -/
def wakeOwner (s : State) (o : Owned) : State := wakePlace s o.husk

/-- An engine changed. -/
def setEngine (s : State) (o : Owned) (f : Engine → Engine) : State :=
  onOwner s o (fun h => { h with engines := h.engines.map (fun x => if x.id = o.eng.id then f x else x) })

/-- The kind of an engine (R230). -/
def EngineKind.code (k : EngineKind) : Nat :=
  match k with
  | .copy .. => 1
  | .stream .. => 2
  | .bgld .. => 3
  | .gxl .. => 4
  | .chain .. => 5
  | .nbx .. => 6

/-- A fault record of an engine, at its instruction, with the address it met and whether stage 2 refuses it (R230, R326,
R331). -/
def engineRecord (s : State) (o : Owned) (cause : Nat) (va : Word) (stage2 : Bool) : State :=
  writeFaultRecord (if cause = 0x0B then logError s o.hart.core va else s) o.hart
    ⟨cause, va, 0, 0, o.eng.pc, o.eng.ir, 0, 0, if stage2 then 12 else 8⟩

/-- A completed engine's status word written into its register, which sets the event latch (R109, R169). -/
def deliverStatus (h : Hart) (e : Nat) (d : SReg) (w : Word) : Hart :=
  let h1 := { h with engines := h.engines.filter (fun x => x.id != e) }
  if d = 0 then h1 else latchHart (writePending h1 d w)

/-- An engine ends: its status word goes into its register, or, while a husk owns it, into the engine table, from which the
resume writes the register (R230, R319, R320). -/
def endEngine (s : State) (o : Owned) (st index detail : Nat) : State :=
  let d := o.eng.rd
  let e := o.eng.id
  let w := statusWord o.eng.kind.code st index detail
  let s0 := { s with
    early := s.early.filter (fun x => x.engine != e), olds := s.olds.filter (fun x => x.engine != e)
    hbm := s.hbm.map (fun k => { k with gathers := k.gathers.filter (· != e) }) }
  match o.husk with
  | none => onOwner s0 o (fun h => deliverStatus h e d w)
  | some _ =>
    let s1 := onOwner s0 o (fun h => { h with
      engines := h.engines.map (fun x => if x.id = e then { x with status := some w } else x) })
    if d = 0 then s1 else wakeOwner s1 o

/-- The engines that completed into a husk write their status into the registers (R320). -/
def deliverTable (h : Hart) : Hart :=
  h.engines.foldl (fun h x => match x.status with
    | some w => deliverStatus h x.id x.rd w
    | none => h) h

/-- An engine ends in state 3, its fault recorded. -/
def endFault (s : State) (o : Owned) (cause index : Nat) (va : Word) (stage2 : Bool) : State :=
  endEngine (engineRecord s o cause va stage2) o 3 index cause

/-- A fault of an engine whose statement gives no INDEX for state 3: a free value (log 22). -/
def endFaultFree (s : State) (o : Owned) (cause : Nat) (va : Word) (stage2 : Bool) : State :=
  endFault { s with fresh := s.fresh + 1 } o cause (Config.faultIndex s.fresh).toNat va stage2

/-! ### What an engine has done ahead of its step (R112) -/

/-- What an engine has recorded of element or word `n`. -/
def earlyOf (s : State) (e n : Nat) : Option Nat := (s.early.find? (fun x => x.engine == e && x.n == n)).map (·.value)

/-- Element or word `n` of an engine read ahead. -/
def addEarly (s : State) (e n value : Nat) : State := { s with early := s.early ++ [⟨e, n, value, false⟩] }

/-- Whether word `n` of a copy is written already. -/
def earlyWritten (s : State) (e n : Nat) : Bool := s.early.any (fun x => x.engine == e && x.n == n && x.written)

/-- Word `n` of a copy written. -/
def markWritten (s : State) (e n : Nat) : State :=
  { s with early := s.early.map (fun x => if x.engine = e ∧ x.n = n then { x with written := true } else x) }

/-! ### Addresses (R229, R231) -/

/-- Where an engine's access lands: the owner's scratchpad, physical memory with the entries it marks, the host; or
why it does not: a page that is not resident, a refusal, a host window that the engine does not reach (R375). -/
inductive Spot where
  | spad (o : Nat)
  | phys (pa : Nat) (entries : List (Nat × Bool))
  | host (ha : Nat)
  | missing (stage2 : Bool)
  | denied (cause : Nat) (stage2 : Bool)
  | window
  deriving DecidableEq, Repr

/-- The spot of `size` bytes at `va` for an engine; `host` where the engine reaches the host window (R375).  Scalar data memory and the gaps
below global memory are denied there, as R234 has a denied element, and no rejection (log 44). -/
def engineSpot (s : State) (o : Owned) (va : Word) (size : Nat) (a : Access) (host : Bool) : Spot × State :=
  if va.toNat < globalBase then
    (if 0x100000 ≤ va.toNat ∧ va.toNat + size ≤ 0x300000 then .spad (va.toNat - 0x100000) else .denied 0x09 false, s)
  else
    let part := partOf o.hart
    let r := permitted s o.hart.core part o.eng.super va a
    match r.1.1 with
    | .missing st => (.missing st, r.2)
    | .denied c st => (.denied c st, r.2)
    | .ok pa =>
      match hostWindow s part pa with
      | some ha => (if host then .host ha else .window, r.2)
      | none =>
        match refusal s part pa with
        | some c => (.denied c (hasStage2 s part), r.2)
        | none => (if a == .write && !pcpWritable s part pa size then .denied 0x09 false else .phys pa r.1.2, r.2)

/-- Whether the bytes at a spot are uncorrectable (R394). -/
def spotBad (s : State) (core : Nat) (p : Spot) (size : Nat) : Bool :=
  match p with
  | .spad o => (List.range size).any (fun i => badPlace s (.spad core ((o + i) / 8)))
  | .phys pa _ => badMem s pa size
  | _ => false

/-- The bytes at a spot as one number. -/
def spotRead (s : State) (h : Hart) (p : Spot) (size : Nat) : Nat :=
  match p with
  | .spad o => sgetBytes h.spad o size
  | .phys pa _ => sgetBytes s.mem pa size
  | .host ha => sgetBytes s.hostMem ha size
  | _ => 0

/-- A and D set for a spot that is accessed (R330). -/
def spotMark (s : State) (o : Owned) (p : Spot) (wr : Bool) : State :=
  match p with
  | .phys pa es => markUsed (atHomeOf s (.phys pa)) (partOf o.hart) es wr
  | _ => s

/-- An engine waits for pages: a batch of the frames, lowest first, and the address that it met (R231, R327).  While
the batch ring is full it does nothing. -/
def engineBatch (s : State) (o : Owned) (frames : List Nat) (va : Word) (wr stage2 : Bool) : State :=
  let part := partOf o.hart
  if ringFull s part then s
  else
    let n := (pcpWord s part 0x38).toNat
    let s1 := writeBatch s o.hart frames ((if stage2 then 1 else 0) + (if wr then 2 else 0) + 4)
    setEngine s1 o (fun e => { e with batch := some (n, va, stage2) })

/-! ### Copy-tracking contexts (R53) -/

/-- The deliveries of a hart into scratchpads, in issue order: copies into its own, and chains (R53, log 45). -/
def localCopies (h : Hart) : List Engine :=
  h.engines.filter (fun e => match e.kind with
    | .copy dst .. => decide (dst.toNat < globalBase)
    | .chain .. => true
    | _ => false)

/-- Whether a copy may run: the first four deliveries into scratchpads hold the contexts (R53). -/
def hasContext (h : Hart) (e : Engine) : Bool :=
  !(localCopies h).any (fun x => x.id == e.id) || ((localCopies h).take 4).any (fun x => x.id == e.id)

/-- The first of a list's elements that `f` maps to a value. -/
def firstSome {α β : Type} (f : α → Option β) (l : List α) : Option β := l.findSome? f

/-- The lowest chunk of a copy that did not finish (R232). -/
def lowestChunk (n : Nat) (chunks : List Nat) : Nat := (firstBelow n (fun c => !chunks.contains c)).getD n

/-- The index that a fault of the engine's own batch reports: for `COPY` the lowest unfinished chunk. -/
def EngineKind.faultIndex (k : EngineKind) : Nat :=
  match k with
  | .copy _ _ len _ chunks _ => lowestChunk (ceilDiv len 1024) chunks
  | _ => 0

/-- ENGINE_BATCH_RESUME: the engine sees its batch's done word, and goes on or meets a fault (R231). -/
def execEngineBatchResume (core : CoreId) (e : Nat) (s : State) : Out :=
  withEngine s core.val e (fun o =>
    match o.eng.batch with
    | none => s
    | some (n, va, st) =>
      let d := batchDone s (partOf o.hart) n
      if d = 1 then setEngine s o (fun x => { x with batch := none })
      else if d = 2 then
        setEngine s o (fun x => { x with batch := none, fault := some (0x08, o.eng.kind.faultIndex, va, st) })
      else s)

end Sys2Proof.Machine
end

