-- ==== Sys2Proof/Machine/Gather.lean ====
section
/-! DEFINITION. `BGLD` and `GXL` (R234, R235): gathers by an engine, and the gather units of the stacks (R352). -/

namespace Sys2Proof.Machine

/-- The progress of some registers set, no arrival bit of them clear (R26, R28). -/
def progressOf (h : Hart) (rs : List Nat) (g : Nat) (done : Bool) : Hart :=
  { h with vec := { h.vec with
      index := rs.foldl (fun x i => x.setIfInBounds i g) h.vec.index
      complete := rs.foldl (fun x i => setBits x i 1 (if done then 1 else 0)) h.vec.complete
      missing := h.vec.missing.filter (fun p => !rs.contains p.1) } }

/-- The arrival bits of some groups of a destination clear, all others set: its progress is the groups before the first of
them (R28). -/
def arrivals (h : Hart) (rs : List Nat) (n : Nat) (gs : List Nat) : Hart :=
  match gs with
  | [] => progressOf h rs (groupsOf n) true
  | g :: more =>
    let h1 := progressOf h rs (more.foldl Nat.min g) false
    { h1 with vec := { h1.vec with missing := h1.vec.missing ++ gs.map (fun g => (rs.headD 0, g)) } }

/-- The groups of some elements. -/
def groupsIn (es : List Nat) : List Nat := (es.map (fun e => e / 64)).eraseDups

/-- A hart under the VTYPE that a gather issued with, changed by `f`. -/
def underType (h : Hart) (vtype : Word) (f : Hart → Hart) : Hart :=
  let t := f { h with csr := { h.csr with vtype := vtype } }
  { t with csr := { t.csr with vtype := h.csr.vtype } }

/-- The duplicate-index mask: bit e is set when some element below has the same address (R234). -/
def duplicates (addrs : List (Nat × Word)) (seen : List Word) (m : Nat) : Nat :=
  match addrs with
  | [] => m
  | (e, a) :: rest => duplicates rest (a :: seen) (putBit m e (seen.contains a))

/-- The duplicate mask written and complete, with its tail. -/
def duplicateMask (h : Hart) (md : MReg) (n : Nat) (addrs : List (Nat × Word)) : Hart :=
  if md = 0 then h
  else
    let old := (h.vec.masks[md.val]?).getD 0
    let h1 := setMask h md.val (duplicates addrs [] old)
    completedMask (if n = 0 then h1 else maskTail h1 md.val n) md.val n

/-- The destination as a gather's issue leaves it: typed, every arrival bit clear; with no element it is complete (R25,
R28). -/
def openGather (h : Hart) (t dt n : Nat) : Hart :=
  let h1 := setTags h t (groupOf h.csr) dt
  arrivals h1 (members t (groupOf h.csr)) n (List.range (groupsOf n))

/-- The last group of a gather has arrived: its tail is written, and it is complete (R30). -/
def closeGather (h : Hart) (rs : List Nat) (n : Nat) (vtype : Word) : Hart :=
  let h1 := if n = 0 then h else underType h vtype (fun h => vecTail h (rs.headD 0) (dtagOf h.csr) n)
  progressOf h1 rs (groupsOf n) true

/-- BGLD. -/
def execBgld (t : VReg) (b : SReg) (i : VReg) (m : MReg) (d : SReg) (s : State) : Out :=
  issueEngine s d (checkLoad s t (some i) (
    let h := s.hart
    let n := lengthOf h
    let dt := dtagOf h.csr
    let addrs := (List.range n).map (fun e => (e, indexAddr s b i e))
    let h1 := duplicateMask (openGather h t.val dt n) m n addrs
    let rs := members t.val (groupOf h.csr)
    if addrs.any (fun a => a.2.toNat % tagBytes dt != 0) then
      .next (advance (rejectNow { s with hart := progressOf h1 rs (groupsOf n) true } d 3 1))
    else .next (advance (startEngine { s with hart := h1 } d (.bgld rs (tagBytes dt) n h.csr.vtype addrs)))))

/-- GXL. -/
def execGxl (t : VReg) (b : SReg) (i : VReg) (m : MReg) (d : SReg) (s : State) : Out :=
  issueEngine s d (checkLoad s t (some i) (
    let h := s.hart
    let n := lengthOf h
    let dt := dtagOf h.csr
    let addrs := ((List.range n).filter (active h m)).map (fun e => (e, indexAddr s b i e))
    let rs := members t.val (groupOf h.csr)
    let reject := fun code =>
      let h1 := progressOf (setTags h t.val (groupOf h.csr) dt) rs (groupsOf n) true
      Host.Outcome.next (advance (rejectNow { s with hart := h1 } d 4 code))
    if addrs.any (fun a => a.2.toNat % tagBytes dt != 0) then reject 1
    else if addrs.any (fun a => decide (a.2.toNat < globalBase)) then reject 4
    else
      .next (advance (startEngine { s with hart := openGather h t.val dt n } d
        (.gxl rs (tagBytes dt) n h.csr.vtype addrs none)))))

/-- An element's spot. -/
structure GatherElem where
  e : Nat
  addr : Word
  spot : Spot
  deriving DecidableEq, Repr

/-- The elements of a gather translated in order; uncorrectable data denies an element (R234). -/
def gatherSpots (s : State) (o : Owned) (w : Nat) (addrs : List (Nat × Word)) (acc : List GatherElem) :
    List GatherElem × State :=
  match addrs with
  | [] => (acc.reverse, s)
  | (e, a) :: rest =>
    let r := engineSpot s o a w .read false
    let spot := if spotBad r.2 o.hart.core r.1 w then Spot.denied 0x0B false else r.1
    gatherSpots r.2 o w rest (⟨e, a, spot⟩ :: acc)

/-- The cause that denies an element; a page that the host did not make resident denies it with 0x08 (R231). -/
def GatherElem.cause (g : GatherElem) : Option (Nat × Bool) :=
  match g.spot with
  | .denied c st => some (c, st)
  | .missing st => some (0x08, st)
  | _ => none

/-- Whether an element lies in a host window (R375). -/
def GatherElem.inWindow (g : GatherElem) : Bool :=
  match g.spot with
  | .window => true
  | _ => false

/-- The frames that are not resident. -/
def gatherFrames (gs : List GatherElem) : List Nat :=
  gs.foldl (fun acc g => match g.spot with
    | .missing _ => insertFrame (g.addr.toNat / 4096 * 4096) acc
    | _ => acc) []

/-- Whether a page is not resident because of stage 2. -/
def gatherStage2 (gs : List GatherElem) : Bool :=
  gs.any (fun g => match g.spot with
    | .missing st => st
    | _ => false)

/-- The elements of a gather once no page of them is awaited, or the state that waits for a batch. -/
def gatherReady (s : State) (o : Owned) (w : Nat) (addrs : List (Nat × Word)) :
    State ⊕ (List GatherElem × State) :=
  let g := gatherSpots s o w addrs []
  match gatherFrames g.1 with
  | [] => .inr g
  | f :: fs =>
    if (o.eng.fault.map (·.1)) = some 0x08 then .inr g
    else .inl (engineBatch g.2 o (f :: fs) (word f) false (gatherStage2 g.1))

/-- The value of an element delivered: what its place holds, or zero for a denied one (R234). -/
def deliverElem (s : State) (o : Owned) (rs : List Nat) (w : Nat) (g : GatherElem) : State :=
  let v := if g.cause.isSome then 0 else spotRead s (ownerNow s o) g.spot w
  onOwner (spotMark s o g.spot false) o (fun h => setElem h (rs.headD 0) (w == 2) g.e v)

/-- A fault that an element met: cause, element, address, whether of stage 2. -/
abbrev ElemFault := Nat × Nat × Word × Bool

/-- A gather's status: done with INDEX n, or the lowest denied element (R234, R235). -/
def gatherEnd (s : State) (o : Owned) (rs : List Nat) (n : Nat) (vtype : Word) (low : Option ElemFault) : State :=
  let s1 := onOwner s o (fun h => closeGather h rs n vtype)
  match low with
  | none => endEngine s1 o 0 n 0
  | some (c, e, va, st) => endFault s1 o c e va st

/-- A gather that is rejected after its issue: no element more is written, and every arrival bit is set (R235, R375). -/
def gatherReject (s : State) (o : Owned) (rs : List Nat) (n code : Nat) : State :=
  endEngine (onOwner s o (fun h => progressOf h rs (groupsOf n) true)) o 4 0 code

/-- The lowest denied element. -/
def lowestDenied (gs : List GatherElem) : Option ElemFault :=
  gs.findSome? (fun g => g.cause.map (fun c => (c.1, g.e, g.addr, c.2)))

/-- The lower of two faults. -/
def lowerFault (a b : Option ElemFault) : Option ElemFault :=
  match a, b with
  | some x, some y => if y.2.1 < x.2.1 then some y else some x
  | none, y => y
  | x, none => x

/-- Element `k` of a `BGLD` read and delivered before the others (R28, R234): one that is denied or not resident is left to
the end. -/
def bgldAhead (s : State) (e k : Nat) : State :=
  match engineOf s e with
  | none => s
  | some o =>
    match o.eng.kind, o.eng.batch with
    | .bgld rs w n vt addrs, none =>
      (match gatherSpots s o w (addrs.filter (fun a => a.1 == k)) [] with
        | ([g], s1) =>
          if g.cause.isSome || g.inWindow then s
          else
            let rest := addrs.filter (fun a => a.1 != k)
            let s2 := onOwner (deliverElem s1 o rs w g) o (fun h =>
              if rest.isEmpty then closeGather h rs n vt else arrivals h rs n (groupsIn (rest.map (·.1))))
            setEngine s2 o (fun x => { x with kind := .bgld rs w n vt rest })
        | _ => s)
    | _, _ => s

/-- BGLD_DONE. -/
def execBgldDone (core : CoreId) (e : Nat) (s : State) : Out :=
  withEngine s core.val e (fun o =>
    match o.eng.kind, o.eng.batch with
    | .bgld rs w n vt addrs, none =>
      (match gatherReady s o w addrs with
        | .inl s1 => s1
        | .inr (gs, s1) =>
          if gs.any (·.inWindow) then gatherReject s1 o rs n 4
          else gatherEnd (gs.foldl (fun s g => deliverElem s o rs w g) s1) o rs n vt (lowestDenied gs))
    | _, _ => s)

/-- The elements of a gather set to zero that are inactive, under IPOL (R235). -/
def gatherInactive (h : Hart) (rs : List Nat) (w n : Nat) (vtype : Word) (addrs : List (Nat × Word)) : Hart :=
  if ipolOf { h.csr with vtype := vtype } then
    let off := (List.range n).filter (fun e => !addrs.any (fun a => a.1 == e))
    { h with vec := off.foldl (fun v e => putElem h.csr v (rs.headD 0) (w == 2) e 0) h.vec }
  else h

/-- The arrival bits of a gather with some elements still to come. -/
def gatherLeft (h : Hart) (rs : List Nat) (n : Nat) (vtype : Word) (es : List Nat) : Hart :=
  if es.isEmpty then closeGather h rs n vtype else arrivals h rs n (groupsIn es)

/-- The place of an element whose translation has been dropped: no physical address (R267). -/
def noPlace : Nat := 2 ^ 52

/-- Elements of a `GXL` translated, `es` of them beside those in `keep`: all as it reaches its first gather unit, later those
whose translation was dropped.  One in a leased block, or in a host window, rejects it; denied ones become zero (R235,
R375). -/
def judgeGxl (s : State) (o : Owned) (rs : List Nat) (w n : Nat) (vt : Word) (addrs es : List (Nat × Word))
    (keep : Option (List (Nat × Nat))) : State :=
  match gatherReady s o w es with
  | .inl s1 => s1
  | .inr (gs, s1) =>
    if gs.any (·.inWindow) then gatherReject s1 o rs n 4
    else if gs.any (fun g => match g.spot with
        | .phys pa _ => decide (leaseBase ≤ pa)
        | _ => false) then gatherReject s1 o rs n 8
    else
      let s2 := (gs.filter (fun g => g.cause.isSome)).foldl (fun s g => deliverElem s o rs w g) s1
      let places := keep.getD [] ++ gs.filterMap (fun g => match g.spot with
        | .phys pa _ => some (g.e, pa)
        | _ => none)
      let s3 := gs.foldl (fun s g => spotMark s o g.spot false) s2
      let s4 := onOwner s3 o (fun h =>
        gatherLeft (if keep.isNone then gatherInactive h rs w n vt addrs else h) rs n vt (places.map (·.1)))
      setEngine s4 o (fun x => { x with
        kind := .gxl rs w n vt addrs (some places), fault := lowerFault x.fault (lowestDenied gs) })

/-- One element read by a gather unit and sent to the core: its home checks the owner on this access too (R356). -/
def unitElem (s : State) (o : Owned) (rs : List Nat) (w : Nat) (addrs : List (Nat × Word)) (p : Nat × Nat) : State :=
  match refusal s (partOf o.hart) p.2 with
  | none => onOwner s o (fun h => setElem h (rs.headD 0) (w == 2) p.1 (sgetBytes s.mem p.2 w))
  | some c =>
    let va := ((addrs.find? (fun a => a.1 == p.1)).map (·.2)).getD 0
    setEngine (onOwner s o (fun h => setElem h (rs.headD 0) (w == 2) p.1 0)) o
      (fun x => { x with fault := lowerFault x.fault (some (c, p.1, va, false)) })

/-- The elements of a gather that stack `k` holds, sorted by pseudo-channel (R352). -/
def unitPart (s : State) (k : Nat) (ps : List (Nat × Nat)) : List (Nat × Nat) :=
  (List.range 64).flatMap (fun c =>
    ps.filter (fun p => decide (p.2 < noPlace) && stackOf s p.2 == k && channelOf p.2 == c))

/-- The gather unit of a stack changed. -/
def onUnit (s : State) (k : Nat) (f : List Nat → List Nat) : State :=
  { s with hbm := s.hbm.mapIdx (fun i x => if i = k then { x with gathers := f x.gathers } else x) }

/-- The unit of stack `k` reads and delivers up to 512 elements of a `GXL` that it holds (R352): it holds at most 8, and
a further one waits. -/
def gatherUnit (s : State) (o : Owned) (k : Nat) : State :=
  match o.eng.kind with
  | .gxl rs w n vt addrs (some ps) =>
    let mine := unitPart s k ps
    let held := ((s.hbm[k]?).map (·.gathers)).getD []
    if mine.isEmpty || (!held.contains o.eng.id && decide (8 ≤ held.length)) then s
    else
      let now := mine.take 512
      let rest := ps.filter (fun p => !now.contains p)
      let s1 := now.foldl (fun s p => unitElem s o rs w addrs p) s
      let s2 := onOwner s1 o (fun h => gatherLeft h rs n vt (rest.map (·.1)))
      let s3 := onUnit s2 k (fun l =>
        if (unitPart s k rest).isEmpty then l.filter (· != o.eng.id) else if l.contains o.eng.id then l else l ++ [o.eng.id])
      setEngine s3 o (fun x => { x with kind := .gxl rs w n vt addrs (some rest) })
  | _ => s

/-- GATHER_UNIT_REQUEST: the unit of stack `k` accepts the request and delivers its part. The first is the unit of
the first element's stack (R352). -/
def execGatherUnitRequest (core : CoreId) (e : Nat) (k : StackId) (s : State) : Out :=
  withEngine s core.val e (fun o =>
    match o.eng.kind, o.eng.batch with
    | .gxl rs w n vt addrs none, none =>
      let s1 := judgeGxl s o rs w n vt addrs addrs none
      (match engineOf s1 e with
        | some o1 =>
          (match o1.eng.kind with
            | .gxl _ _ _ _ _ (some ((_, pa) :: _)) => if stackOf s1 pa = k.val then gatherUnit s1 o1 k.val else s1
            | _ => s1)
        | none => s1)
    | .gxl rs w n vt addrs (some ps), none =>
      let lost := ps.filter (fun p => decide (noPlace ≤ p.2))
      if lost.isEmpty then gatherUnit s o k.val
      else
        judgeGxl s o rs w n vt addrs (addrs.filter (fun a => lost.any (fun p => p.1 == a.1)))
          (some (ps.filter (fun p => decide (p.2 < noPlace))))
    | _, _ => s)

/-- GXL_DONE: every unit has delivered. -/
def execGxlDone (core : CoreId) (e : Nat) (s : State) : Out :=
  withEngine s core.val e (fun o =>
    match o.eng.kind with
    | .gxl rs _ n vt _ (some []) => gatherEnd s o rs n vt o.eng.fault
    | _ => s)

/-- The translations of a `GXL` dropped for the elements whose addresses satisfy `f` (R267): what its units have still to
deliver is translated afresh. -/
def dropPlaces (f : Word → Bool) (e : Engine) : Engine :=
  match e.kind with
  | .gxl rs w n vt addrs (some ps) =>
    let gone := fun (k : Nat) => addrs.any (fun a => a.1 == k && f a.2)
    { e with kind := .gxl rs w n vt addrs (some (ps.map (fun p => if gone p.1 then (p.1, noPlace) else p))) }
  | _ => e

end Sys2Proof.Machine
end

