-- ==== Sys2Proof/Machine/System.lean ====
section
/-! DEFINITION. The system instructions (R267 to R269, R331, R334, R335, R382 to R387): cached translations, the dirty
harvest, claims, and counters. -/

namespace Sys2Proof.Machine

/-- The protection check of an instruction that the leader performs for the gang. -/
def jointPrivileged (s : State) (k : Out) : Out :=
  if supervisor s.hart then k else jointTrap s 0x09 0

/-! ### SFENCE.T (R267, R334) -/

/-- Whether `SFENCE.T` drops a cached translation: in supervisor mode one of stage 1, in hypervisor mode whatever comes of
stage 2 (R331): all of the partition, or those that lie in the page of that stage that holds `va`. -/
def fenced (part : Nat) (hyper : Bool) (va : Option Nat) (e : TlbEntry) : Bool :=
  e.part == part && (hyper || e.stage == 1) &&
    (match va with
      | none => true
      | some a => if hyper then a / e.spans.2 == e.ipa / e.spans.2 else a / e.spans.1 == e.page / e.spans.1)

/-- SFENCE.T. -/
def execSfenceT (a : SReg) (s : State) : Out :=
  jointPrivileged s (
    let l := leaderNow s
    let va := if a = 0 then none else some (getReg (focus s l.core) a).toNat
    let s1 := flushHart s l.core
    let drop := fenced (partOf l) (modeOf l == 2) va
    let fresh := fun (h : Hart) => if partOf h = partOf l then h.engines.map (dropPlaces (fun _ => true)) else h.engines
    let s2 := onHarts { s1 with
      dieTlb := s1.dieTlb.filter (fun x => !drop x.2)
      husks := s1.husks.map (fun k => { k with image := { k.image with engines := fresh k.image } }) } (fun h =>
      { h with tlb := h.tlb.filter (fun e => !drop e), engines := fresh h })
    .next (eachMember s2 (gangNow s2) (fun t => .next (advance t))))

/-! ### HARVEST (R267, R335) -/

/-- The bytes of a page of a size class. -/
def classSize (c : Nat) : Nat :=
  match c with
  | 0 => 2 ^ 12
  | 1 => 2 ^ 16
  | 2 => 2 ^ 21
  | 3 => 2 ^ 30
  | _ => 2 ^ 35

/-- Where the entry lies that maps an address at a page size, of stage 1, or in hypervisor mode of stage 2; for one of stage 1
with the leaf of stage 2 that maps it. -/
def mappingEntry (s : State) (core part : Nat) (hyper : Bool) (va size : Nat) : Option (Nat × List Nat) :=
  match s.parts[part]? with
  | none => none
  | some p =>
    if 2 ^ 48 ≤ va then none
    else if hyper then
      match p.stage2 with
      | none => none
      | some root =>
        (match walk2 s part root va with
          | .inl l => if l.size = size then some (l.at_, []) else none
          | .inr _ => none)
    else
      match walk (readEntry1 s core part p) (root1 s p) va 0 4 with
      | .inr _ => none
      | .inl l =>
        if l.size ≠ size then none
        else
          match homeOfIpa s core part p l.at_ with
          | .inl pa => some (pa, match p.stage2 with
            | some root => (leafOfIpa s core part root l.at_).map (·.1)
            | none => [])
          | .inr _ => none

/-- The D bits of 64 pages from page `i` on, read and cleared one by one. -/
def harvest (s : State) (core part : Nat) (hyper : Bool) (base size : Nat) : Nat × State :=
  (List.range 64).foldl (fun (acc : Nat × State) i =>
    match mappingEntry acc.2 core part hyper (base + i * size) size with
    | none => acc
    | some (ea, own) =>
      let e := word8 acc.2 ea
      if bits e 9 1 = 1 then
        (acc.1 + 2 ^ i, own.foldl (fun s x => (markEntry s part x true).2) (writeHome acc.2 none ea 8 (setBits e 9 1 0).toNat))
      else acc) (0, s)

/-- HARVEST. -/
def execHarvest (d a : SReg) (s : State) : Out :=
  jointPrivileged s (jointGuard s d (
    let l := leaderNow s
    let v := (getReg (focus s l.core) a).toNat
    if 5 ≤ v % 8 then .next (jointResult s d 0)
    else
      let size := classSize (v % 8)
      let r := harvest s l.core (partOf l) (modeOf l == 2) (v / (64 * size) * (64 * size)) size
      .next (jointResult r.2 d (word r.1))))

/-! ### CLAIM and UNCLAIM (R268, R382, R387) -/

/-- Whether the acting hart is a hypervisor hart (R322): its launch is one that firmware started as such. -/
def onHyper (s : State) : Bool :=
  s.launches.any (fun l => l.hyper && runsFor s.hart l.part l.id)

/-- The world of the code that the acting hart runs (R268, R269, R322): the hypervisor's whatever mode its hart is in. -/
def worldOf (s : State) : World := if onHyper s then .hypervisor else .guest

/-- CLAIM and UNCLAIM are for device supervisor code and for the hypervisor, in whatever mode (R268, R322). -/
def mayClaim (s : State) (k : Out) : Out :=
  if supervisor s.hart || onHyper s then k else .next (trapWord s 0x09 0)

/-- The holder of the resource numbered `n`. -/
def holderOf (h : Hart) (n : Nat) : Option World :=
  if n = 4 then h.trace.holder else (h.banks[n]?).bind (·.holder)

/-- The bank numbered `n` replaced. -/
def setBank (h : Hart) (n : Nat) (b : Bank) : Hart := { h with banks := h.banks.setIfInBounds n b }

/-- The words that the trace unit reads at a grant, all zero where R387 makes it idle. -/
def grantTrace (s : State) (h : Hart) (w : World) : Trace :=
  let base := traceBase s h
  let ctl := word8 s (base + 8)
  let wctl := word8 s (base + 24)
  let lg := bits wctl 0 6
  let bad := bits ctl 12 52 ≠ 0 || bits ctl 3 5 ≠ 0 || lg < 3 || 21 < lg || bits wctl 8 56 ≠ 0
  { holder := some w
    ctl := if bad then 0 else ctl
    waddr := word8 s (base + 16)
    wctl := if bad then 0 else wctl
    count := 0
    convoys := []
    sampled := s.clock
    hit := false }

/-- A free resource granted: a bank zeroed (R382), or the trace unit with WCOUNT 0 (R387). -/
def grantResource (s : State) (n : Nat) (w : World) : State :=
  let h := s.hart
  if n = 4 then
    writeHome { s with hart := { h with trace := grantTrace s h w } } none (traceBase s h) 8 0
  else
    { s with hart := restartQuantum h (setBank h n { Bank.start with holder := some w }) s.clock }

/-- CLAIM. -/
def execClaim (d a : SReg) (s : State) : Out :=
  mayClaim s (guardWrite s d (
    let n := (getReg s a).toNat
    let w := worldOf s
    if 4 < n then .next (advance (setReg s d 2))
    else
      match holderOf s.hart n with
      | none => .next (advance (setReg (grantResource s n w) d 0))
      | some x => .next (advance (setReg s d (if x = w then 0 else 1)))))

/-- A resource given up. -/
def releaseResource (h : Hart) (n : Nat) : Hart :=
  if n = 4 then { h with trace := { h.trace with holder := none, convoys := [] } }
  else
    match h.banks[n]? with
    | some b => setBank h n { b with holder := none }
    | none => h

/-- UNCLAIM. -/
def execUnclaim (d a : SReg) (s : State) : Out :=
  mayClaim s (guardWrite s d (
    let n := (getReg s a).toNat
    if 4 < n then .next (advance (setReg s d 2))
    else if holderOf s.hart n = some (worldOf s) then
      .next (advance (setReg { s with hart := releaseResource s.hart n } d 0))
    else .next (advance (setReg s d 3))))

/-! ### Counters (R269, R382, R383) -/

/-- The count of counter `n`, or none where it does not exist; the bank it lies in is `n / 8`. -/
def counterOf (h : Hart) (n : Nat) : Option Word := (h.banks[n / 8]?).bind (fun b => b.counts[n % 8]?)

/-- The checks of a counter access: that it exists, and that the caller's world holds its bank (R269). -/
def withCounter (s : State) (n : Nat) (k : Word → Out) : Out :=
  match counterOf s.hart n with
  | none => .next (trapWord s 0x01 0)
  | some v => if holderOf s.hart (n / 8) = some (worldOf s) then k v else .next (trapWord s 0x09 0)

/-- CRD. -/
def execCrd (d : SReg) (n : BitVec 12) (s : State) : Out :=
  guardWrite s d (withCounter s n.toNat (fun v => .next (advance (setReg s d v))))

/-- CRDLO: the latch takes the high half. -/
def execCrdlo (d : SReg) (n : BitVec 12) (s : State) : Out :=
  guardWrite s d (withCounter s n.toNat (fun v =>
    let s1 := { s with hart := { s.hart with latch := ⟨true, n.toNat, BitVec.ofNat 32 (bits v 32 32)⟩ } }
    .next (advance (setReg s1 d (word (bits v 0 32))))))

/-- CRDHI: the latched high half, or the current one. -/
def execCrdhi (d : SReg) (n : BitVec 12) (s : State) : Out :=
  guardWrite s d (withCounter s n.toNat (fun v =>
    let l := s.hart.latch
    let x := if l.valid && l.n == n.toNat then l.high.toNat else bits v 32 32
    let s1 := { s with hart := { s.hart with latch := ⟨false, l.n, l.high⟩ } }
    .next (advance (setReg s1 d (word x)))))

/-- Whether a select is legal (R383). -/
def selectOk (v : Nat) : Bool :=
  let e := v % 256
  let f := v / 256 % 16
  v / 4096 == 0 && decide (e ≤ 0x18) && (if 5 ≤ e ∧ e ≤ 9 then decide (f ≤ 8) else f == 0)

/-- CEVT: the select written and its count zeroed. -/
def execCevt (a : SReg) (n : BitVec 12) (s : State) : Out :=
  privileged s (withCounter s n.toNat (fun _ =>
    let s := { s with hart := atQuantum s.hart s.clock }
    let c := n.toNat % 8
    let v := bits (getReg s a) 0 16
    if 6 ≤ c then .next (trapWord s 0x01 0)
    else if !selectOk v then .next (trapWord s 0x02 0)
    else
      match s.hart.banks[n.toNat / 8]? with
      | none => .next s
      | some b =>
        let b1 : Bank := { b with
          selects := b.selects.setIfInBounds c (BitVec.ofNat 16 v), counts := b.counts.setIfInBounds c 0 }
        .next (advance { s with hart := restartQuantum s.hart (setBank s.hart (n.toNat / 8) b1) s.clock })))

end Sys2Proof.Machine
end

