-- ==== Sys2Proof/Machine/LoadStore.lean ====
section
/-! DEFINITION. Scalar loads and stores (R160 to R162).  A store waits in the store buffer until it drains (R93);
a load takes its value when it executes, or a plain one later, when its data returns (R106, R172). -/

namespace Sys2Proof.Machine

/-- An earlier load of the same word has no value yet: a later one waits for it (R105). -/
def loadsWord (h : Hart) (p : Place) : Bool := h.loads.any (fun l => l.place.word8 == p.word8)

/-- The value that a load of `size` bytes puts into a register. -/
def extendTo (size : Nat) (sx : Bool) (v : Nat) : Word := if sx then sextWord (8 * size) v else word v

/-- A scalar load of `size` bytes from `va` (R161): sign- or zero-extended into rd. -/
def load (s : State) (d r : SReg) (va : Word) (size : Nat) (sx : Bool) : Out :=
  guardWrite s d (access s va size .read r (fun p _ s1 =>
    if loadsWord s1.hart p then .next (stall s)
    else
      let s2 := atHomeOf s1 p
      .next (advance (setReg (dropOlds s2 s2.hart.core p) d (extendTo size sx (scalarRead s2 s2.hart p size))))))

/-- A plain load that is checked and issued without its data (R106, R172): its register is pending. -/
def loadLater (s : State) (d r : SReg) (va : Word) (size : Nat) (sx : Bool) : Out :=
  guardWrite s d (access s va size .read r (fun p _ s1 =>
    if loadsWord s1.hart p then .next (stall s)
    else
      let l : LateLoad := ⟨s1.serial, s1.hart.vseq, d, va, p, size, sx⟩
      .next (advance { s1 with
        serial := s1.serial + 1, hart := { setPending s1.hart d with loads := s1.hart.loads ++ [l] } })))

/-- The byte that a load of the hart reads where it meets a running copy's destination from before the copy (R112): a store
of its own hides it. -/
def oldByte (s : State) (h : Hart) (n : Nat) (p : Place) : Byte :=
  match oldAt s h.core p with
  | some x => (h.buffer.filter (fun st => decide (st.mark ≤ n))).reverse.findSome? (fun st => storeByte st p) |>.getD (x.byte p)
  | none => lateByte s h n p

/-- The data of a core's `k`-th outstanding load returns: the value of its word now, or, where `old` is set, what a running
copy has replaced there (R112, R150, R172). -/
def returnLoad (s : State) (core k : Nat) (old : Bool) : State :=
  match (hartAt s core).loads[k]? with
  | none => s
  | some l =>
    let s := atHomeOf s l.place
    let h := hartAt s core
    let v := bytesNat ((List.range l.size).map (fun i =>
      if old then oldByte s h l.id (l.place.plus i) else lateByte s h l.id (l.place.plus i)))
    onCore (if old then s else dropOlds s core l.place) core (fun h =>
      writeAfter { h with loads := h.loads.eraseIdx k } l.rd (extendTo l.size l.sx v) l.after)

/-- A scalar store of `size` bytes: it enters the store buffer once every check has passed (R161); a release
waits for the vector stores of the instructions before it (R102). -/
def store (s : State) (d r : SReg) (va : Word) (size : Nat) (release system : Bool) : Out :=
  access s va size .write r (fun p es s1 =>
    let h := s1.hart
    let st : Store := ⟨p, size, getReg s1 d, release, system, s1.serial, h.vseq, es⟩
    .next (advance { s1 with hart := { h with buffer := h.buffer ++ [st], released := h.released || release } }))

/-- LDB. -/
def execLdb (d a : SReg) (i : BitVec 16) (s : State) : Out := load s d a (immAddr s a i) 1 true
/-- LDH. -/
def execLdh (d a : SReg) (i : BitVec 16) (s : State) : Out := load s d a (immAddr s a i) 2 true
/-- LDW. -/
def execLdw (d a : SReg) (i : BitVec 16) (s : State) : Out := load s d a (immAddr s a i) 4 true
/-- LDD. -/
def execLdd (d a : SReg) (i : BitVec 16) (s : State) : Out := load s d a (immAddr s a i) 8 false
/-- LDBU. -/
def execLdbu (d a : SReg) (i : BitVec 16) (s : State) : Out := load s d a (immAddr s a i) 1 false
/-- LDHU. -/
def execLdhu (d a : SReg) (i : BitVec 16) (s : State) : Out := load s d a (immAddr s a i) 2 false
/-- LDWU. -/
def execLdwu (d a : SReg) (i : BitVec 16) (s : State) : Out := load s d a (immAddr s a i) 4 false
/-- STB. -/
def execStb (d a : SReg) (i : BitVec 16) (s : State) : Out := store s d a (immAddr s a i) 1 false false
/-- STH. -/
def execSth (d a : SReg) (i : BitVec 16) (s : State) : Out := store s d a (immAddr s a i) 2 false false
/-- STW. -/
def execStw (d a : SReg) (i : BitVec 16) (s : State) : Out := store s d a (immAddr s a i) 4 false false
/-- STD. -/
def execStd (d a : SReg) (i : BitVec 16) (s : State) : Out := store s d a (immAddr s a i) 8 false false

/-- An ordered or register-offset load (R132, R162).  An acquire follows every release before it (R103). -/
def loadReg (s : State) (d a b : SReg) (k : OrdKind) (size : Nat) (sx : Bool) : Out :=
  load (if k == .acq then acquireNow s else s) d a (regAddr s a b) size sx

/-- A register-offset store, a release where it says so (R102). -/
def storeReg (s : State) (d a b : SReg) (k : OrdKind) (sc : Scope) (size : Nat) : Out :=
  store s d a (regAddr s a b) size (k == .rel) (k == .rel && sc == .system)

/-- LDB, register form. -/
def execLdbReg (d a b : SReg) (k : OrdKind) (_sc : Scope) (s : State) : Out := loadReg s d a b k 1 true
/-- LDH, register form. -/
def execLdhReg (d a b : SReg) (k : OrdKind) (_sc : Scope) (s : State) : Out := loadReg s d a b k 2 true
/-- LDW, register form. -/
def execLdwReg (d a b : SReg) (k : OrdKind) (_sc : Scope) (s : State) : Out := loadReg s d a b k 4 true
/-- LDD, register form. -/
def execLddReg (d a b : SReg) (k : OrdKind) (_sc : Scope) (s : State) : Out := loadReg s d a b k 8 false
/-- LDBU, register form. -/
def execLdbuReg (d a b : SReg) (k : OrdKind) (_sc : Scope) (s : State) : Out := loadReg s d a b k 1 false
/-- LDHU, register form. -/
def execLdhuReg (d a b : SReg) (k : OrdKind) (_sc : Scope) (s : State) : Out := loadReg s d a b k 2 false
/-- LDWU, register form. -/
def execLdwuReg (d a b : SReg) (k : OrdKind) (_sc : Scope) (s : State) : Out := loadReg s d a b k 4 false
/-- STB, register form. -/
def execStbReg (d a b : SReg) (k : OrdKind) (sc : Scope) (s : State) : Out := storeReg s d a b k sc 1
/-- STH, register form. -/
def execSthReg (d a b : SReg) (k : OrdKind) (sc : Scope) (s : State) : Out := storeReg s d a b k sc 2
/-- STW, register form. -/
def execStwReg (d a b : SReg) (k : OrdKind) (sc : Scope) (s : State) : Out := storeReg s d a b k sc 4
/-- STD, register form. -/
def execStdReg (d a b : SReg) (k : OrdKind) (sc : Scope) (s : State) : Out := storeReg s d a b k sc 8

end Sys2Proof.Machine
end

