-- ==== Sys2Proof/Machine/Atomic.lean ====
section
/-! DEFINITION. Scalar atomics (R163, R164): one indivisible read and write at the home, after the hart's buffered
stores (R93), and after its vector stores where it is a release (R102). -/

namespace Sys2Proof.Machine

/-- The operations of R163. -/
inductive AmoOp where
  | add | swap | cas | min | max | and | or
  deriving DecidableEq, Repr

/-- The new value of `n` bits, or none where `CAS` fails (R163). -/
def amoNew (op : AmoOp) (n old src expected : Nat) : Option Nat :=
  match op with
  | .add => some ((old + src) % 2 ^ n)
  | .swap => some (src % 2 ^ n)
  | .cas => if old = expected % 2 ^ n then some (src % 2 ^ n) else none
  | .min => some (if signed n src < signed n old then src % 2 ^ n else old)
  | .max => some (if signed n old < signed n src then src % 2 ^ n else old)
  | .and => some (old &&& src % 2 ^ n)
  | .or => some (old ||| src % 2 ^ n)

/-- A write of an atomic at a place: at its home, where the hart's own copy of the line is given up (R59). -/
def writeAtomic (s : State) (p : Place) (size v : Nat) : State :=
  match p with
  | .sdm o => { s with hart := { s.hart with sdm := ssetBytes s.hart.sdm o size v } }
  | .spad o => { s with hart := { s.hart with spad := ssetBytes s.hart.spad o size v } }
  | .phys pa => classPushes s.pushes.length (classOfHart s s.hart) (writeHome s none pa size v)

/-- The line of a place written back from the hart's own L1 (R59). -/
def writeBackOwn (s : State) (p : Place) : State :=
  match p with
  | .phys pa =>
    { s with dirty := s.dirty.filter (fun b => !(b.core == s.hart.core && b.pa / 64 == pa / 64)) }
  | _ => s

/-- What an atomic comes after: the hart's buffered stores (R93); a release also after its vector stores (R102); an acquire
after every release before it (R103). -/
def beforeAtomic (s : State) (k : OrdKind) : State :=
  let rel := k == .rel || k == .ar
  let s1 := if rel then flushHart s s.hart.core else drainBuffer s s.hart.core
  let s2 := { s1 with hart := { s1.hart with released := s1.hart.released || rel } }
  if k == .acq || k == .ar then acquireNow s2 else s2

/-- A release at system scope is performed with everything before it: no copy of a written line is left in the host (R94). -/
def afterAtomic (s : State) (k : OrdKind) (sc : Scope) : State :=
  if (k == .rel || k == .ar) && sc == .system then backInvalidate s else s

/-- A scalar atomic (R163, R164): the checks of a load and of a store, then the indivisible step. -/
def atomic (op : AmoOp) (d a b : SReg) (k : OrdKind) (sc : Scope) (dw : Bool) (s : State) : Out :=
  let size := if dw then 8 else 4
  let va := getReg s a
  guardWrite s d (accessBoth s va size a (fun p es s1 =>
    let s2 := atHomeOf (beforeAtomic s1 k) p
    let s3 := dropOlds (writeBackOwn s2 p) s2.hart.core p
    let old := scalarRead s3 s3.hart p size
    let s4 := match amoNew op (8 * size) old (getReg s b).toNat (getReg s d).toNat with
      | some v => writeAtomic (markUsed s3 (partOf s3.hart) es true) p size v
      | none => s3
    .next (advance (setReg (afterAtomic s4 k sc) d (sextWord (8 * size) old)))))

/-- AMO.ADD. -/
def execAmoAdd (d a b : SReg) (k : OrdKind) (sc : Scope) (z : Bool) (s : State) : Out := atomic .add d a b k sc z s
/-- AMO.SWAP. -/
def execAmoSwap (d a b : SReg) (k : OrdKind) (sc : Scope) (z : Bool) (s : State) : Out := atomic .swap d a b k sc z s
/-- AMO.CAS. -/
def execAmoCas (d a b : SReg) (k : OrdKind) (sc : Scope) (z : Bool) (s : State) : Out := atomic .cas d a b k sc z s
/-- AMO.MIN. -/
def execAmoMin (d a b : SReg) (k : OrdKind) (sc : Scope) (z : Bool) (s : State) : Out := atomic .min d a b k sc z s
/-- AMO.MAX. -/
def execAmoMax (d a b : SReg) (k : OrdKind) (sc : Scope) (z : Bool) (s : State) : Out := atomic .max d a b k sc z s
/-- AMO.AND. -/
def execAmoAnd (d a b : SReg) (k : OrdKind) (sc : Scope) (z : Bool) (s : State) : Out := atomic .and d a b k sc z s
/-- AMO.OR. -/
def execAmoOr (d a b : SReg) (k : OrdKind) (sc : Scope) (z : Bool) (s : State) : Out := atomic .or d a b k sc z s

end Sys2Proof.Machine
end

