-- ==== Sys2Proof/Machine/Branch.lean ====
section
/-! DEFINITION. Branches and jumps (R158, R159).  In a gang each member computes its own outcome and then follows
the leader's program counter (R37), which the gang's step sees to. -/

namespace Sys2Proof.Machine

/-- The target of a PC-relative transfer by a signed word count (R130). -/
def target {n : Nat} (s : State) (o : BitVec n) : Word := s.hart.pc + (o.signExtend 64 <<< 2)

/-- A conditional branch (R158). -/
def branchIf (s : State) (c : Bool) (o : BitVec 13) : Out :=
  .next (if c then setPc s (target s o) else advance s)

/-- BEQ. -/
def execBeq (a b : SReg) (o : BitVec 13) (s : State) : Out := branchIf s (getReg s a == getReg s b) o
/-- BNE. -/
def execBne (a b : SReg) (o : BitVec 13) (s : State) : Out := branchIf s (getReg s a != getReg s b) o
/-- BLT. -/
def execBlt (a b : SReg) (o : BitVec 13) (s : State) : Out := branchIf s ((getReg s a).slt (getReg s b)) o
/-- BGE. -/
def execBge (a b : SReg) (o : BitVec 13) (s : State) : Out := branchIf s (!(getReg s a).slt (getReg s b)) o
/-- BLTU. -/
def execBltu (a b : SReg) (o : BitVec 13) (s : State) : Out := branchIf s ((getReg s a).ult (getReg s b)) o
/-- BGEU. -/
def execBgeu (a b : SReg) (o : BitVec 13) (s : State) : Out := branchIf s (!(getReg s a).ult (getReg s b)) o
/-- JMP. -/
def execJmp (o : BitVec 26) (s : State) : Out := .next (setPc s (target s o))
/-- CALL: s1 takes the return address (R159), under the frozen-register check (R149). -/
def execCall (o : BitVec 26) (s : State) : Out :=
  guardWrite s 1 (.next (setPc (setReg s 1 (s.hart.pc + 4)) (target s o)))

/-- An indirect jump: a misaligned or out-of-range target traps at the jump (R127, R159). -/
def jumpTo (s : State) (a : SReg) (k : Word → Out) : Out :=
  let t := getReg s a
  if bits t 0 2 ≠ 0 then .next (trapAt s 0x06 t (topndS a))
  else if bits t 48 16 ≠ 0 then .next (trapAt s 0x09 t (topndS a))
  else k t

/-- JR. -/
def execJr (a : SReg) (s : State) : Out := jumpTo s a (fun t => .next (setPc s t))
/-- CALLR: the target is read before s1 is written, and s1 stays when the jump traps (R159). -/
def execCallr (a : SReg) (s : State) : Out :=
  guardWrite s 1 (jumpTo s a (fun t => .next (setPc (setReg s 1 (s.hart.pc + 4)) t)))

end Sys2Proof.Machine
end

