-- ==== Sys2Proof/Machine/NearBank.lean ====
section
/-! DEFINITION. `NBX` (R236): judging a near-bank command at its stack (R360), the stope engines and their queue (R348),
granule steps (R349) and suspension (R351). -/

namespace Sys2Proof.Machine

/-! ### Stacks -/

/-- The stack numbered `k` changed by `f`. -/
def onStack (s : State) (k : Nat) (f : Stack → Stack) : State :=
  match s.hbm[k]? with
  | some x => { s with hbm := s.hbm.setIfInBounds k (f x) }
  | none => s

/-- The stack numbered `k`. -/
def stackAt (s : State) (k : Nat) : Stack := (s.hbm[k]?).getD Stack.start

/-- The lowest free stope engine of a stack (R348). -/
def freeStope (k : Stack) : Option Nat := firstBelow 64 (fun g => !k.stopes.any (fun e => e.num == g))

/-- A stope engine takes a job, of which no hart keeps a dirty line (R350, R359). -/
def takeStope (s : State) (k g : Nat) (j : StopeJob) : State :=
  let s1 := { s with dirty := s.dirty.filter (fun b => !j.covers b.pa) }
  onStack s1 k (fun x => { x with stopes := x.stopes ++ [⟨g, j, s.clock, 0, none, [], [], []⟩] })

/-- A stope engine released, its accumulators with it (R348, R64). -/
def releaseStope (s : State) (k g : Nat) : State :=
  onStack s k (fun x => { x with stopes := x.stopes.filter (fun e => e.num != g) })

/-- The stope engine `g` of stack `k`. -/
def stopeAt (s : State) (k g : Nat) : Option Stope := (stackAt s k).stopes.find? (fun e => e.num == g)

/-- A stope engine in use changed. -/
def setStope (s : State) (k g : Nat) (f : Stope → Stope) : State :=
  onStack s k (fun x => { x with stopes := x.stopes.map (fun e => if e.num = g then f e else e) })

/-! ### Issue and judgement (R236, R360) -/

/-- NBX. -/
def execNbx (d a b : SReg) (s : State) : Out :=
  issueEngine s d (afterScalars s (fun s => .next (advance (startEngine s d (.nbx (getReg s a) (getReg s b) false)))))

/-- A near-bank command as its descriptor names it: the page's virtual address and the command. -/
def nearCommand (v : Nat) (o : Owned) (arg : Word) : Word × NearCommand :=
  let f := fun lo n => v / 256 ^ lo % 256 ^ n
  let ty := f 9 1
  (word (f 0 8), ⟨o.hart.core, o.eng.id, word (f 0 8), 0, f 8 1, ty, f 10 1 % 4, (f 10 1).testBit 2, f 11 1, f 12 4, f 16 4, f 20 4,
    word (if ty = 2 then bits arg 0 16 else bits arg 0 32), 0, 0, none, []⟩)

/-- Step 2 of the order of R236: a reserved byte or bit, or a field outside its table. -/
def nearReserved (v : Nat) : Bool :=
  let f := fun lo n => v / 256 ^ lo % 256 ^ n
  f 24 8 != 0 || decide (8 ≤ f 10 1) || decide (f 8 1 = 0 ∨ 7 < f 8 1) || decide (f 9 1 = 0 ∨ 3 < f 9 1)
    || decide (1 < f 11 1)

/-- The size of a near-bank element in bytes. -/
def nearWidth (ty : Nat) : Nat := if ty = 2 then 2 else 4

/-- Step 6: a row count, an element count or an offset outside its limit. -/
def nearLimits (c : NearCommand) : Bool :=
  decide (c.rows = 0 ∨ c.elems = 0 ∨ 1024 / nearWidth c.ty < c.elems ∨ 2 ^ 20 ≤ c.off)

/-- A fault of a command: R236 gives no INDEX for it. -/
def nearFault (s : State) (o : Owned) (cause : Nat) (va : Word) (stage2 : Bool) : State :=
  endFaultFree s o cause va stage2

/-- A judged command given an engine, or queued (R348). -/
def nearAccept (s : State) (o : Owned) (c : NearCommand) : State :=
  let k := stackOf s c.page
  let s1 := setEngine s o (fun x => match x.kind with
    | .nbx a b _ => { x with kind := .nbx a b true }
    | _ => x)
  match (if (stackAt s k).queue.isEmpty then freeStope (stackAt s k) else none) with
  | some g => takeStope s1 k g (.near c)
  | none => onStack s1 k (fun x => { x with queue := x.queue ++ [c] })

/-- The page of a command: rejections 5 to 7 of R236 in order, the wait for the page, and its permissions. -/
def nearPage (s : State) (o : Owned) (va : Word) (c : NearCommand) : State :=
  let part := partOf o.hart
  let r := lookup s o.hart.core part va.toNat
  if bits va 48 16 ≠ 0 then nearFault s o 0x09 va false
  else
    match r.1 with
    | .inr (.denied k st) => nearFault r.2 o k va st
    | .inr x => engineBatch r.2 o [va.toNat / 4096 * 4096] va true (x == .missing true)
    | .inl e =>
      let pa := e.pa + va.toNat % e.size
      if leaseBase ≤ pa ∧ pa < leaseBase + 2 ^ 37 then endEngine r.2 o 4 0 8
      else if nearLimits c then endEngine r.2 o 4 0 2
      else if (hostWindow s part pa).isSome then endEngine r.2 o 4 0 4
      else if !e.cc || decide (2 ^ 20 < c.off + 1024 * c.rows) then endEngine r.2 o 4 0 5
      else
        let w := probe r.2 o.hart.core part o.eng.super va 1 .write
        let q := probe w.2 o.hart.core part o.eng.super va 1 .read
        match w.1.1, q.1.1 with
        | .denied k st, _ => nearFault q.2 o k va st
        | _, .denied k st => nearFault q.2 o k va st
        | .ok _, .ok _ => nearAccept (markUsed q.2 part w.1.2 false) o { c with page := pa, entries := w.1.2 }
        | _, _ => q.2

/-- NBX_ARRIVAL: the descriptor is read and judged in the order of R236. -/
def execNbxArrival (core : CoreId) (e : Nat) (s : State) : Out :=
  withEngine s core.val e (fun o =>
    match o.eng.kind, o.eng.batch, o.eng.fault with
    | .nbx _ _ false, none, some (c, _, va, st) => nearFault s o c va st
    | .nbx da arg false, none, none =>
      if da.toNat % 32 ≠ 0 then endEngine s o 4 0 1
      else if da.toNat < globalBase ∧ ¬(0x100000 ≤ da.toNat ∧ da.toNat < 0x300000) then endEngine s o 4 0 4
      else
        let r := engineSpot s o da 32 .read false
        (match r.1 with
          | .missing st => engineBatch r.2 o [da.toNat / 4096 * 4096] da false st
          | .denied c st => nearFault r.2 o c da st
          | .window => endEngine r.2 o 4 0 4
          | spot =>
            if spotBad r.2 core.val spot 32 then nearFault r.2 o 0x0B da false
            else
              let v := spotRead r.2 o.hart spot 32
              let s1 := spotMark r.2 o spot false
              let x := nearCommand v o arg
              if nearReserved v then endEngine s1 o 4 0 6
              else if x.1.toNat < globalBase then endEngine s1 o 4 0 4
              else if x.1.toNat % 2 ^ 21 ≠ 0 ∨ x.2.off % 1024 ≠ 0 then endEngine s1 o 4 0 1
              else nearPage s1 o x.1 x.2)
    | _, _, _ => s)

/-- The near-bank command that took an engine of a stack last, in this very cycle. -/
def newestGrant (s : State) (k : Nat) : Option (Nat × NearCommand) :=
  (stackAt s k).stopes.reverse.findSome? (fun e => match e.job with
    | .near c => if e.since = s.clock then some (e.num, c) else none
    | .replay .. => none)

/-- NBX_ENGINE_GRANT: the first waiting command takes the lowest free engine (R348). -/
def execNbxEngineGrant (k : StackId) (s : State) : Out :=
  let x := stackAt s k.val
  .next (match x.queue, freeStope x with
    | c :: rest, some g => takeStope (onStack s k.val (fun x => { x with queue := rest })) k.val g (.near c)
    | _, _ => s)

/-! ### Steps (R347, R349, R351) -/

/-- The operation of a command (R236). -/
def nearOp (op : Nat) : ElemOp :=
  match op with
  | 1 => .add
  | 2 => .fma
  | 3 => .mul
  | 4 => .max false
  | 5 => .min false
  | 6 => .mul
  | _ => .mov

/-- One element of a command: its value and flags. -/
def nearElem (c : NearCommand) (x y : Nat) : Nat × Nat :=
  let a := c.arg.toNat
  let csr : Csr := { Csr.start 0 0 with vtype := word (16 * c.rm + (if c.ftz then 8 else 0)) }
  let xs := if c.op = 2 then [a, x, y] else if c.op = 6 then [a, x] else [x, y]
  compute (nearOp c.op) csr (xs.map (fun _ => c.ty)) c.ty xs true

/-- A row's elements computed from the first on: its bytes and flags. -/
def nearRow (c : NearCommand) (w x y n : Nat) (acc : List Byte) (fl : Nat) : List Byte × Nat :=
  match n with
  | 0 => (acc, fl)
  | n + 1 =>
    let r := nearElem c (x % 256 ^ w) (y % 256 ^ w)
    nearRow c w (x / 256 ^ w) (y / 256 ^ w) n (acc ++ natBytes w r.1) (fl ||| r.2)

/-- An ordinary request waits for the pseudo-channel (R351). -/
def requestWaits (k : Stack) (chan : Nat) : Bool := k.requests.any (fun r => r.chan == chan)

/-- Whether a granule step may be granted: no refresh of the granule's bank is in progress (R343), and its pseudo-channel
does not serve ordinary requests after a suspension (R351). -/
def stepReady (s : State) (k a : Nat) : Bool :=
  let st := stackAt s k
  !st.refreshing.any (fun r => r.1 == channelOf a && r.2.1 == bankOf a && decide (s.clock < r.2.2)) &&
  !(requestWaits st (channelOf a) && st.window.any (fun w => w.1 == channelOf a && decide (s.clock < w.2)))

/-- A pseudo-channel leaves self-refresh, with no row open (R344). -/
def wakeChannel (x : Stack) (c : Nat) : Stack :=
  if x.asleep.any (fun z => z.1 == c) then
    { x with asleep := x.asleep.filter (fun z => z.1 != c), opened := x.opened.filter (fun z => z.chan != c) }
  else x

/-- A granule step works on a granule: its pseudo-channel is awake and busy (R344), its row open as a whole (R341). -/
def openGranule (s : State) (k a : Nat) : State :=
  let c := channelOf a
  onStack s k (fun x =>
    let y := wakeChannel x c
    { y with
      busy := (c, s.clock) :: y.busy.filter (fun z => z.1 != c)
      opened := ⟨c, bankOf a, rowOf s a, 0xFF⟩ :: y.opened.filter (fun z => !(z.chan == c && z.bank == bankOf a)) })

/-- A granule step is over: where an ordinary request waits for its pseudo-channel the engine is suspended, and the channel
serves ordinary requests for 256 cycles (R351). -/
def closeGranule (s : State) (k g a : Nat) : State :=
  let c := channelOf a
  if requestWaits (stackAt s k) c then
    onStack (setStope s k g (fun e => { e with chan := c, suspended := some s.clock })) k
      (fun x => { x with window := (c, s.clock + 256) :: x.window.filter (fun z => z.1 != c) })
  else s

/-- Whether the row that a command writes may be written: its block is the partition's (R356), and no word of it is one of a
partition control page that a device may not write (R307). -/
def nearRefused (s : State) (part d size : Nat) : Option Nat :=
  match refusal s part d with
  | some c => some c
  | none => if (List.range (ceilDiv size 8)).all (fun i => byteWritable s part (d + 8 * i)) then none else some 0x09

/-- The next row of a near-bank command: one granule step (R236, R349). -/
def nearStep (s : State) (k g : Nat) (c : NearCommand) : State :=
  let x0 := c.page + c.off + 1024 * c.done
  let y0 := x0 + 2 ^ 20
  let w := nearWidth c.ty
  let size := c.elems * w
  let d := if c.dest = 1 then y0 else x0
  let part := ((engineOf s c.engine).map (fun o => partOf o.hart)).getD 0
  if c.rows ≤ c.done || c.bad.isSome || !stepReady s k x0 then s
  else
    let s0 := openGranule s k x0
    let stop := fun cause (pa : Nat) => setStope s0 k g (fun e => { e with
      job := .near { c with bad := some (cause, c.va + word (pa - c.page)) } })
    match nearRefused s part d size with
    | some cause => stop cause d
    | none =>
      match (if badMem s0 x0 size then some x0 else if c.op < 6 ∧ badMem s0 y0 size then some y0 else none) with
      | some row => stop 0x0B (((List.range c.elems).map (fun i => row + i * w)).find? (badMem s0 · w) |>.getD row)
      | none =>
        let r := nearRow c w (sgetBytes s0.mem x0 size) (sgetBytes s0.mem y0 size) c.elems [] 0
        let qos := ((engineOf s c.engine).map (fun o => classOfHart s o.hart)).getD 0
        let s1 := markUsed (openGranule s0 k d) part c.entries true
        let s2 := classPushes s1.pushes.length qos (writeBytes s1 none d r.1)
        closeGranule (setStope s2 k g (fun e => { e with
          job := .near { c with done := c.done + 1, flags := c.flags ||| r.2 } })) k g x0

/-! ### The stores of a replay (R116, R349) -/

/-- The granules that a replay's accumulators hold stores for. -/
def Stope.granules (e : Stope) : List Nat := (e.accs.map (fun c => c.1 / 1024)).eraseDups

/-- The stores that a replay holds for a granule are written, one word at a time, by a step on it (R116, R349). -/
def writeGranule (s : State) (k g part qos q : Nat) : State :=
  match stopeAt s k g with
  | none => s
  | some e =>
    let bytes := e.accs.filter (fun c => c.1 / 1024 == q)
    let s1 := markUsed (openGranule s k (1024 * q)) part e.entries true
    let s2 := classPushes s1.pushes.length qos ((bytes.map (fun c => c.1 / 8)).eraseDups.foldl (writeWordOf bytes) s1)
    setStope s2 k g (fun e => { e with accs := e.accs.filter (fun c => c.1 / 1024 != q) })

/-- The hart or husk image whose marked loop has the number `l`. -/
def loopHart (s : State) (l : Nat) : Option Hart :=
  (s.harts ++ (s.husks.filter (fun x => !x.resumed)).map (·.image)).find? (fun h => (h.loop.map (·.id)) == some l)

/-- The last step of a replayed iteration writes: any of the granules that the accumulators hold stores for (R349). -/
def replayWrite (s : State) (k g loop : Nat) (e : Stope) : State :=
  let qs := e.granules
  let q := qs.getD (Config.granulePick s.fresh % qs.length) 0
  if qs.isEmpty || !stepReady s k (1024 * q) then s
  else
    let h := loopHart s loop
    let s1 := { s with fresh := s.fresh + 1 }
    closeGranule (writeGranule s1 k g ((h.map partOf).getD 0) ((h.map (classOfHart s)).getD 0) q) k g (1024 * q)

/-- STOPE_STEP: the next row of a near-bank command, or a write of what a replayed iteration has stored (R349).  The lines of
its rows are written back first (R359), so that no step falls into the cycle in which the engine was taken. -/
def execStopeStep (k : StackId) (g : Fin 64) (s : State) : Out :=
  .next (match stopeAt s k.val g.val with
    | some e =>
      if e.suspended.isSome || decide (s.clock ≤ e.since) then s
      else
        (match e.job with
          | .near c => nearStep s k.val g.val c
          | .replay l _ _ => replayWrite s k.val g.val l e)
    | none => s)

/-- STOPE_RESUME: after 256 cycles, or with no ordinary request left on the pseudo-channel, the next step is granted
(R351). -/
def execStopeResume (k : StackId) (g : Fin 64) (s : State) : Out :=
  .next (match stopeAt s k.val g.val with
    | some e =>
      (match e.suspended with
        | some since =>
          if since + 256 ≤ s.clock || !requestWaits (stackAt s k.val) e.chan then
            setStope s k.val g.val (fun e => { e with suspended := none })
          else s
        | none => s)
    | none => s)

/-- NBX_DONE: the status of a command whose rows are done, or that met uncorrectable data; its engine is released
(R236, R348). -/
def execNbxDone (k : StackId) (g : Fin 64) (s : State) : Out :=
  .next (match stopeAt s k.val g.val with
    | some e =>
      (match e.job with
        | .near c =>
          if c.done < c.rows ∧ c.bad.isNone then s
          else
            let s1 := releaseStope s k.val g.val
            match engineOf s1 c.engine with
            | none => s1
            | some o =>
              match c.bad with
              | some (cause, va) => nearFault s1 o cause va false
              | none => endEngine s1 o 0 c.rows c.flags
        | .replay .. => s)
    | none => s)

end Sys2Proof.Machine
end

