-- ==== Sys2Proof/Machine/Dram.lean ====
section
/-! DEFINITION. The stacks' controllers (R336 to R345, R393): activates, refresh, self-refresh, scrub, MCSTK.  None of them
changes what a read returns (R342). -/

namespace Sys2Proof.Machine

/-- Whether a bank is being refreshed. -/
def refreshingNow (s : State) (st : Stack) (c b : Nat) : Bool :=
  st.refreshing.any (fun r => r.1 == c && r.2.1 == b && decide (s.clock < r.2.2))

/-- Whether a pseudo-channel is in self-refresh. -/
def sleeping (st : Stack) (c : Nat) : Bool := st.asleep.any (fun x => x.1 == c)

/-- Whether a stack's commands can go to a bank now. -/
def bankReady (s : State) (st : Stack) (c b : Nat) : Bool := !sleeping st c && !refreshingNow s st c b

/-- The segments of a row that requests ask for, as eight bits. -/
def segmentMask (rs : List Request) : BitVec 8 :=
  rs.foldl (fun m r => m ||| (if r.whole then 0xFF#8 else 1#8 <<< r.seg)) 0

/-- The open row of a bank. -/
def openRow (st : Stack) (c b : Nat) : Option OpenRow := st.opened.find? (fun o => o.chan == c && o.bank == b)

/-- A bank with another open row. -/
def setRow (st : Stack) (o : OpenRow) : Stack :=
  { st with opened := o :: st.opened.filter (fun x => !(x.chan == o.chan && x.bank == o.bank)) }

/-- A pseudo-channel that had something to do at a cycle. -/
def touchChannel (st : Stack) (c now : Nat) : Stack :=
  { st with busy := (c, now) :: st.busy.filter (fun x => x.1 != c) }

/-! ### Grants (R369) -/

/-- How many grants of a pseudo-channel have passed since a class had one. -/
def passedOf (st : Stack) (c q : Nat) : Nat := ((st.passed.find? (fun x => x.1 == c && x.2.1 == q)).map (·.2.2)).getD 0

/-- The request that the arbiter of a pseudo-channel grants next: the oldest of the highest class that waits for a bank that
is ready; but a class that waits and had none of the last 63 grants comes first, the lowest such class before all
(R369). -/
def nextGrant (s : State) (st : Stack) (c : Nat) : Option Request :=
  let waiting := st.requests.filter (fun r => r.chan == c && bankReady s st c r.bank)
  let has := fun q => waiting.any (fun r => r.qos == q)
  let q := match firstBelow 4 (fun q => has q && decide (63 ≤ passedOf st c q)) with
    | some q => q
    | none => (waiting.map (·.qos)).foldl Nat.max 0
  waiting.find? (fun r => r.qos == q)

/-- A request granted: it leaves the queue, and every other class of its pseudo-channel has waited through one more grant.
With the last of them the time for ordinary requests after a suspension ends (R351). -/
def grantRequest (st : Stack) (r : Request) (now : Nat) : Stack :=
  let rest := st.requests.erase r
  touchChannel { st with
    requests := rest
    window := if rest.any (fun x => x.chan == r.chan) then st.window else st.window.filter (fun x => x.1 != r.chan)
    passed := (List.range 4).map (fun q => (r.chan, q, if q = r.qos then 0 else passedOf st r.chan q + 1)) ++
      st.passed.filter (fun x => x.1 != r.chan) } r.chan now

/-- Whether the open row of a request's bank has its segment open. -/
def rowHit (st : Stack) (r : Request) : Bool :=
  match openRow st r.chan r.bank with
  | some o => o.row == r.row && segmentMask [r] &&& o.segs == segmentMask [r]
  | none => false

/-- The requests that are granted one after the other as long as their segments are open. -/
def serve (s : State) (c fuel : Nat) (st : Stack) : Stack :=
  match fuel with
  | 0 => st
  | fuel + 1 =>
    match nextGrant s st c with
    | some r => if rowHit st r then serve s c fuel (grantRequest st r s.clock) else st
    | none => st

/-- A row of a bank opened, and what it serves granted. -/
def openAndServe (s : State) (k : Nat) (o : OpenRow) : State :=
  onStack s k (fun st => serve s o.chan st.requests.length (touchChannel (setRow st o) o.chan s.clock))

/-- SEGMENT_MASK_ACTIVATE: the row of the request that is granted next is opened: the segments that it and the requests
queued for the row ask for, but those that arrive in the same cycle (R342), or all eight while SEGACT is 0
(R341, R345). -/
def execSegmentMaskActivate (k : StackId) (c : Fin 64) (b : Fin 16) (s : State) : Out :=
  let st := stackAt s k.val
  match nextGrant s st c.val with
  | none => .next s
  | some r =>
    if r.bank ≠ b.val || ((openRow st c.val b.val).map (·.row)) == some r.row then .next s
    else
      let mine := st.requests.filter (fun x =>
        x.chan == c.val && x.bank == b.val && x.row == r.row && decide (x.arrived < s.clock))
      .next (openAndServe s k.val
        ⟨c.val, b.val, r.row, if bits st.mcstk 2 1 = 1 then segmentMask (r :: mine) else 0xFF⟩)

/-- SUPPLEMENTARY_ACTIVATE: the segments of the open row that the request granted next finds closed are opened (R342), or all
eight while SEGACT is 0 (R345). -/
def execSupplementaryActivate (k : StackId) (c : Fin 64) (b : Fin 16) (s : State) : Out :=
  let st := stackAt s k.val
  match openRow st c.val b.val, nextGrant s st c.val with
  | some o, some r =>
    .next (if r.bank ≠ b.val ∨ r.row ≠ o.row then s
      else openAndServe s k.val { o with segs := if bits st.mcstk 2 1 = 1 then o.segs ||| segmentMask [r] else 0xFF })
  | _, _ => .next s

/-! ### Refresh and self-refresh (R343, R344) -/

/-- REFRESH: a refresh of a bank starts, at most one while a request waits for the bank (R343). -/
def execRefresh (k : StackId) (c : Fin 64) (b : Fin 16) (s : State) : Out :=
  let st := stackAt s k.val
  let mine := fun (r : Request) => r.chan == c.val && r.bank == b.val
  if !bankReady s st c.val b.val || st.requests.any (fun r => mine r && r.refreshed) then .next s
  else .next (onStack s k.val (fun st => { st with
    due := st.due.filter (· != (c.val, b.val))
    refreshing := (c.val, b.val, s.clock + 560) :: st.refreshing.filter (fun r => decide (s.clock < r.2.2))
    opened := st.opened.filter (fun o => !(o.chan == c.val && o.bank == b.val))
    requests := st.requests.map (fun r => if mine r then { r with refreshed := true } else r)
    busy := (c.val, s.clock) :: st.busy.filter (fun x => x.1 != c.val) }))

/-- Since when a pseudo-channel has been idle. -/
def idleSince (st : Stack) (c : Nat) : Nat := ((st.busy.find? (fun x => x.1 == c)).map (·.2)).getD 0

/-- SELF_REFRESH_ENTRY: a pseudo-channel idle for SRIDLE × 16 cycles sleeps, unless a refresh is due on it or an engine is
suspended on it (R344). -/
def execSelfRefreshEntry (k : StackId) (c : Fin 64) (s : State) : Out :=
  let st := stackAt s k.val
  let sridle := bits st.mcstk 8 24
  let held := st.stopes.any (fun e => e.suspended.isSome && e.chan == c.val)
  if sridle = 0 || requestWaits st c.val || held || sleeping st c.val || st.due.any (fun x => x.1 == c.val) ||
      st.refreshing.any (fun r => r.1 == c.val && decide (s.clock < r.2.2)) ||
      decide (s.clock < idleSince st c.val + 16 * sridle) then .next s
  else .next (onStack s k.val (fun st => { st with asleep := st.asleep ++ [(c.val, s.clock)] }))

/-- SELF_REFRESH_EXIT: a queued request wakes its pseudo-channel (R344). -/
def execSelfRefreshExit (k : StackId) (c : Fin 64) (s : State) : Out :=
  let st := stackAt s k.val
  .next (if sleeping st c.val && requestWaits st c.val then
    onStack s k.val (fun st => touchChannel (wakeChannel st c.val) c.val s.clock)
  else s)

/-- The class of a request (R369): of the launch of its hart, or of the hart whose engine makes it, or HOSTQ of NETCTL
(R370). -/
def requestClass (s : State) (who : Requester) : Nat :=
  match who with
  | .core c => classOfHart s (hartAt s c)
  | .engine e => ((engineOf s e).map (fun o => classOfHart s o.hart)).getD 0
  | .host => bits s.netctl 16 2

/-- An ordinary request reaches its controller and is granted at once where it is next and its segment is open; a
self-refresh that was entered in the same cycle does not happen (R344). -/
def queueRequest (s : State) (k : Nat) (who : Requester) (r : Request) : State :=
  let r1 := { r with refreshed := false, qos := requestClass s who, arrived := s.clock }
  onStack s k (fun st =>
    serve s r.chan 1 (touchChannel { st with
      requests := st.requests ++ [r1], asleep := st.asleep.filter (· != (r.chan, s.clock)) } r.chan s.clock))

/-- A refresh of a bank falls due (R344). -/
def refreshFallsDue (s : State) (k c b : Nat) : State :=
  onStack s k (fun st => if st.due.contains (c, b) then st else { st with due := st.due ++ [(c, b)] })

/-! ### Scrub and MCSTK -/

/-- ERROR_CHECK_SCRUB: a word of an enabled stack is scrubbed while ECS is 1: its row is open whole (R341), and an
uncorrectable word is logged only (R393, R394). -/
def execErrorCheckScrub (k : StackId) (pa : PAddr) (s : State) : Out :=
  let st := stackAt s k.val
  let a := pa.toNat
  if localBytes s ≤ a || stackOf s a != k.val || bits st.mcstk 1 1 = 0 ||
      !bankReady s st (channelOf a) (bankOf a) then .next s
  else
    let s1 := openAndServe s k.val ⟨channelOf a, bankOf a, rowOf s a, 0xFF⟩
    .next (if s.bad.any (fun b => match b with
        | .dram w => w / 8 == a / 8
        | _ => false) then logPit s1 (k.val / 2) 2 k.val 0x10 a
      else s1)

/-- MCSTK_WRITE: ignored as a whole where it sets a reserved bit; EN stays (R345). -/
def execMcstkWrite (k : StackId) (v : Word) (s : State) : Out :=
  .next (if bits v 32 32 ≠ 0 ∨ bits v 3 5 ≠ 0 then s
    else onStack s k.val (fun st => { st with mcstk := setBits v 0 1 (bits st.mcstk 0 1) }))

end Sys2Proof.Machine
end

