-- ==== Sys2Proof/Machine/Fleet.lean ====
section
/-! DEFINITION. Operating the module (R382 to R396): cycles that pass, counter quanta, trace records, throttling, corrected
and uncorrectable errors, and a trap entry as a step of its own. -/

namespace Sys2Proof.Machine

/-- TRAP_ENTRY: the acting hart takes a trap of R324's table, and its gang with it (R40, R323).  Codes outside the table
are never written. -/
def execTrapEntry (cause : BitVec 8) (tval topnd : Word) (s : State) : Out :=
  let c := cause.toNat
  let h := s.hart
  let known := [0x01, 0x02, 0x03, 0x04, 0x05, 0x06, 0x08, 0x09, 0x0A, 0x0B, 0x0C, 0x0D, 0x0E, 0x10, 0x18, 0x19, 0x1A, 0x21]
  if !known.contains c then .next s
  else
    let epc := if c = 0x19 then h.pc + 4 else h.pc
    let t := takeTrap (logCause s c tval) ⟨c, tval, topnd, epc, h.pc, h.ir, 0, 0, 0⟩
    .next (spreadTraps s t ((gangNow s).map (·.core)))

/-! ### Cycles (R42, R382, R385) -/

/-- Of the cycles from `now` on those in which the arithmetic slots are held idle: the first `level` of every four (R396, log
5). -/
def heldCycles (level now n : Nat) : Nat :=
  let upTo := fun c => c / 4 * level + Nat.min (c % 4) level
  upTo (now + n) - upTo now

/-- Bank counters 6 and 7 and the events of time over `n` cycles of one quantum. -/
def countSpan (h : Hart) (level now n : Nat) : Hart :=
  let e := enabledBanks h
  let c := countingBanks h
  let h1 : Hart := { h with banks := h.banks.mapFinIdx (fun i b _ =>
    { b with counts := b.counts.mapFinIdx (fun j v _ =>
        if (j = 6 ∧ e.contains i) ∨ (j = 7 ∧ c.contains i) then v + word n else v) }) }
  countHart (countHart h1 0x01 8 n) 0x18 8 (heldCycles level now n)

/-- The same over any number of cycles from `now` on, quantum by quantum. -/
def bankCycles (h : Hart) (level now n fuel : Nat) : Hart :=
  if (enabledBanks h).isEmpty then h
  else
    match fuel with
    | 0 => countSpan h level now n
    | fuel + 1 =>
      let h1 := atQuantum h now
      let left := if 2 < (enabledBanks h1).length then h1.quantumStart + 1048576 - now else n
      if n ≤ left then countSpan h1 level now n
      else bankCycles (countSpan h1 level now left) level (now + left) (n - left) fuel

/-- A hart over the next `n` cycles: its completed convoys are counted, and the cycles, among them those of the throttle (R396);
CYCLE counts while it is dispatched. -/
def hartCycles (s : State) (n : Nat) (h : Hart) : Hart :=
  let h1 := bankCycles (settleConvoys s h) s.throttle s.clock n (n / 1048576 + 2)
  if h.owner.isNone then h1 else { h1 with csr := { h1.csr with cycle := h1.csr.cycle + word n } }

/-- `n` core cycles pass. -/
def passCycles (s : State) (n : Nat) : State := onHarts { s with clock := s.clock + n } (hartCycles s n)

/-- COUNTER_QUANTUM: the quantum of a core has lasted 1,048,576 cycles and more than two banks are enabled. -/
def execCounterQuantum (core : CoreId) (s : State) : Out := .next (onCore s core.val (fun h => atQuantum h s.clock))

/-! ### Trace (R388) -/

/-- Four accounts of lane clusters from `c` on, as 32 bytes. -/
def sampleBytes (k c : Nat) : List Byte :=
  (List.range 4).flatMap (fun i => natBytes 8 (Config.sampleAccount k (c + i)).toNat)

/-- The head and the member count of the convoy that a sample names: the oldest that has started and not completed, or that
completed in this cycle; none with the count 0 (R388). -/
def sampledConvoy (h : Hart) : Word × Nat :=
  let started := fun first => !h.queue.any (fun q => q.work.seq == first)
  match h.trace.convoys ++ h.closed with
  | c :: _ => if h.trace.convoys.isEmpty && !started (c.last + 1 - c.members) then (0, 0) else (c.head, c.members)
  | [] => if h.convoy.forming && started (h.vseq + 1 - h.convoy.count) then (h.convoy.head, h.convoy.count) else (0, 0)

/-- The cycles between two samples (R387). -/
def samplePeriod (h : Hart) : Nat := 2 ^ (bits h.trace.ctl 8 4 + 12)

/-- A sample of a core is due: a period has passed since the last one fell due. -/
def sampleDue (s : State) (h : Hart) : Bool := traceOn h 1 && decide (h.trace.sampled + samplePeriod h ≤ s.clock)

/-- TRACE_SAMPLE: a sample falls due, in a kind 2 and a kind 3 record. -/
def execTraceSample (core : CoreId) (s : State) : Out :=
  let h := hartAt s core.val
  if !sampleDue s h then .next s
  else
    let c := sampledConvoy h
    let el := (Config.convoyCycles s.fresh).toNat
    let s1 := onCore { s with fresh := s.fresh + 1 } core.val (fun g =>
      { g with trace := { g.trace with sampled := g.trace.sampled + samplePeriod h } })
    let s2 := writeTrace s1 core.val 2 c.1 c.2 el (sampleBytes s.fresh 0)
    .next (writeTrace s2 core.val 3 c.1 c.2 el (sampleBytes s.fresh 4))

/-- TRACE_CONVOY_RECORD: the record of the oldest completed convoy, while the unit is claimed for it, after a sample that is
due.  Its count of element groups is one byte (log 35). -/
def execTraceConvoyRecord (core : CoreId) (s : State) : Out :=
  let h := hartAt s core.val
  match h.trace.convoys with
  | [] => .next s
  | c :: rest =>
    if !traceOn h 0 || sampleDue s h then .next s
    else
    let s1 := onCore { s with fresh := s.fresh + 1 } core.val (fun g => { g with trace := { g.trace with convoys := rest } })
    .next (writeTraceAt s1 core.val c.base c.who 1 c.head c.members (Config.convoyCycles s.fresh).toNat
      (natBytes 1 0 ++ natBytes 3 0 ++ natBytes 1 c.groups))

/-! ### Throttle (R396) -/

/-- A new throttle level, logged. -/
def setThrottle (s : State) (level : Nat) : State := logPit { s with throttle := level } 0 6 0 0x30 level

/-- THROTTLE_RAISE: firmware meets a limit and raises the level, up to 3 and at most once per millisecond. -/
def execThrottleRaise (s : State) : Out :=
  let s1 := { s with warm := s.clock }
  let soon := match s.raised with
    | some t => decide (s.clock < t + 2000000)
    | none => false
  byFirmware s (if decide (3 ≤ s.throttle) || soon then s1 else setThrottle { s1 with raised := some s.clock } (s.throttle + 1))

/-- THROTTLE_LOWER: the level falls by one 10 ms after a limit was last met, or after it fell last (log 5). -/
def execThrottleLower (s : State) : Out :=
  byFirmware s (if s.throttle = 0 ∨ s.clock < s.warm + 20000000 then s else setThrottle { s with warm := s.clock } (s.throttle - 1))

/-- THERMAL_STOP: firmware stops every die; the module needs a cold reset. -/
def execThermalStop (s : State) : Out := byFirmware s (logPit { s with thermal := true } 0 6 0 0x31 0)

/-! ### Corrected errors (R393) -/

/-- The corrected errors of a class on a die. -/
def correctedOf (s : State) (die cls : Nat) : Corrected :=
  (s.corrected.find? (fun c => c.die == die && c.cls == cls)).getD ⟨die, cls, 0, [], false, none⟩

/-- The corrected errors of a class on a die replaced. -/
def setCorrected (s : State) (c : Corrected) : State :=
  { s with corrected := c :: s.corrected.filter (fun x => !(x.die == c.die && x.cls == c.cls)) }

/-- Whether a class has been quiet for a second: it has not logged a crossing since (R393). -/
def Corrected.quiet (c : Corrected) (now : Nat) : Bool :=
  match c.logged with
  | some t => decide (t + 100000000 ≤ now)
  | none => true

/-- One more correction: with more than 64 within 10^8 TIME units the class crosses the rate, once per second (R393). -/
def countCorrected (s : State) (die cls : Nat) : State :=
  let c := correctedOf s die cls
  let now := deviceTime s
  let recent := (now :: c.recent).take 65
  let many := match recent[64]? with
    | some t => decide (now < t + 100000000)
    | none => false
  setCorrected s { c with total := c.total + 1, recent := recent, crossed := c.crossed || (many && c.quiet now) }

/-- An error corrected in a structure of core `core`, or of its die where the class is no core's; the core's own SRAMs are counted
in its banks as well (R384, R393). -/
def correctedAt (s : State) (core cls : Nat) : State :=
  let t := countCorrected s (dieOfCore core) cls
  if classSource cls = 0 then onCore t core (fun h => countHart h 0x17 8 1) else t

/-- ERROR_RATE_CROSSED: the die logs a class that has crossed the rate, with the source that the class belongs to (log 35). -/
def execErrorRateCrossed (die : DieId) (cls : Fin 16) (s : State) : Out :=
  let c := correctedOf s die.val cls.val
  .next (if c.crossed then
    logPit (setCorrected s { c with crossed := false, logged := some (deviceTime s) }) die.val (classSource cls.val) 0 0x11 cls.val
  else s)

/-- A line gone from the instruction cache and the AIB caches of a core. -/
def dropLine (s : State) (core pa : Nat) : State :=
  onCore s core (fun h => { h with fetched := h.fetched.filter (fun x => x.1 % 2 ^ 52 != pa / 64 * 64) })

/-- An uncorrectable error in a clean line, of a core's L1 caches or of L2: the line is discarded, to be fetched again, the
error is counted as corrected, and logged (R394).  A dirty line is not this case. -/
def cleanLine (s : State) (core : Option Nat) (pa : Nat) : State :=
  match core with
  | some c =>
    if s.dirty.any (fun b => b.core == c && b.pa / 64 == pa / 64) then s
    else logPit (correctedAt (dropLine s c pa) c SramClass.caches.num) (dieOfCore c) 0 (c % 32) 0x10 pa
  | none =>
    if s.bad.any (fun b => match b with
        | .lostLine l => l / 64 == pa / 64
        | _ => false) then s
    else
      logPit (countCorrected s (homeOf pa / 124) SramClass.l2.num) (homeOf pa / 124) 1 (homeOf pa % 124) 0x10 pa

end Sys2Proof.Machine
end

