-- ==== Sys2Proof/Machine/Capacity.lean ====
section
/-! DEFINITION. Leases and capacity moves (R353 to R357, R377): the lease table, blocks lent and reclaimed, and a block
that moves between partitions. -/

namespace Sys2Proof.Machine

/-! ### Ranges of physical memory -/

/-- Whether a place lies in a physical range. -/
def placeIn (lo hi : Nat) (p : Place) : Bool :=
  match p with
  | .phys pa => decide (lo ≤ pa ∧ pa < hi)
  | _ => false

/-- What is in flight to a physical range: packets, buffered stores, and plain loads without their data (OUTST of R354). -/
def inFlight (s : State) (lo hi : Nat) : Nat :=
  s.packets.countP (fun p => p.places.any (placeIn lo hi)) +
    s.harts.foldl (fun n h => n + h.buffer.countP (fun st => placeIn lo hi st.place) +
      h.loads.countP (fun l => placeIn lo hi l.place)) 0

/-- The plain loads of a hart from a physical range get their data. -/
def returnRange (s : State) (lo hi core : Nat) : State :=
  let h := hartAt s core
  (((List.range h.loads.length).filter (fun k => (h.loads[k]?).any (fun l => placeIn lo hi l.place))).reverse).foldl
    (fun s k => returnLoad s core k false) s

/-- What is in flight to a physical range performed, as far as it may be (R355). -/
def settleRange (s : State) (lo hi : Nat) : State :=
  let s1 := performPackets s (fun p => p.places.any (placeIn lo hi))
  s1.harts.foldl (fun s h =>
    let s2 := returnRange s lo hi h.core
    if h.buffer.any (fun st => placeIn lo hi st.place) then drainBuffer s2 h.core else s2) s1

/-- A physical range written with zeros, its error marks gone (R64, R357). -/
def zeroRange (s : State) (lo hi : Nat) : State :=
  { s with
    mem := sclear s.mem lo hi
    dirty := s.dirty.filter (fun b => !decide (lo ≤ b.pa ∧ b.pa < hi))
    bad := s.bad.filter (fun b => match b with
      | .dram w => !decide (lo ≤ w ∧ w < hi)
      | .lostLine l => !decide (lo ≤ l ∧ l < hi)
      | _ => true) }

/-- The first address of block `b`, and the one after its last. -/
def blockLo (b : Nat) : Nat := 2 ^ 31 * b
def blockHi (b : Nat) : Nat := 2 ^ 31 * (b + 1)

/-! ### The lease table (R354, R355) -/

/-- The window of lease entry `i` (R353). -/
def leaseLo (i : Nat) : Nat := leaseBase + 2 ^ 31 * i
def leaseHi (i : Nat) : Nat := leaseBase + 2 ^ 31 * (i + 1)

/-- The two words of a lease entry as the management path reads them (R354). -/
def leaseWords (s : State) (i : Nat) : Word × Word :=
  match s.leases[i]? with
  | some l =>
    (word (l.state * 2 ^ 61 + l.owner % 16 * 2 ^ 57 + l.port % 8 * 2 ^ 48 + l.peer % 256 * 2 ^ 40 + l.rblock % 2 ^ 32),
      word (Nat.min 0xFFFF (inFlight s (leaseLo i) (leaseHi i))))
  | none => (0, 0)

/-- The die of a UALink port (log 35). -/
def portDie (port : Nat) : Nat := port / 2

/-- A lease entry's state changed, and the change logged (R391). -/
def setLease (s : State) (i : Nat) (l : Lease) (port : Nat) : State :=
  logPit { s with leases := s.leases.setIfInBounds i l } (portDie port) 5 port 0x21 (i + 2 ^ 32 * l.state)

/-- LEASE_GRANT: a free entry maps a peer's block, which was zeroed and marked LENT there. -/
def execLeaseGrant (i : Fin 64) (p : PartId) (port : Fin 8) (peer : BitVec 8) (rblock : BitVec 32) (s : State) : Out :=
  byFirmware s (if s.leases[i].state = 0 then
    setLease (zeroRange s (leaseLo i.val) (leaseHi i.val)) i.val ⟨1, p.val, port.val, peer.toNat, rblock.toNat⟩ port.val
  else s)

/-- LEASE_REVOKE: either module begins; accesses still go on. -/
def execLeaseRevoke (i : Fin 64) (s : State) : Out :=
  let l := s.leases[i]
  .next (if l.state = 1 then setLease s i.val { l with state := 2 } l.port else s)

/-- REVOCATION_POINT: what was past translation is performed and written back; with the cycle that begins, accesses take 0x0A, so
that none of that cycle is served before it (R355, log 49). -/
def execRevocationPoint (i : Fin 64) (s : State) : Out :=
  let l := s.leases[i]
  .next (if l.state = 2 then
    setLease (passCycles (settleRange s (leaseLo i.val) (leaseHi i.val)) 1) i.val { l with state := 3 } l.port
  else s)

/-- LEASE_RELEASE: with nothing in flight the lessee acknowledges, the lender zeroes the block, the entry is free. -/
def execLeaseRelease (i : Fin 64) (s : State) : Out :=
  let l := s.leases[i]
  .next (if l.state = 3 ∧ inFlight s (leaseLo i.val) (leaseHi i.val) = 0 then
    setLease (zeroRange s (leaseLo i.val) (leaseHi i.val)) i.val ⟨0, 0, 0, 0, 0⟩ l.port
  else s)

/-- UALINK_PORT_DOWN: every GRANTED lease on the port is REVOKED at once (R377). -/
def execUalinkPortDown (port : Fin 8) (s : State) : Out :=
  let s1 := logPit s (portDie port.val) 5 port.val 0x03 port.val
  .next ((List.range 64).foldl (fun s i =>
    match s.leases[i]? with
    | some l => if l.state = 1 ∧ l.port = port.val then setLease s i { l with state := 3 } l.port else s
    | none => s) s1)

/-! ### The lender's side (R354, R355, R377) -/

/-- A block's state changed. -/
def setBlock (s : State) (b : Nat) (x : BlockState) : State := { s with blocks := s.blocks.setIfInBounds b x }

/-- A free block zeroed and marked LENT for a peer (R354). -/
def lendBlock (s : State) (b : Nat) : State :=
  if s.blocks[b]? = some .free then setBlock (zeroRange s (blockLo b) (blockHi b)) b .lent else s

/-- A LENT block zeroed and returned to the pool (R355). -/
def returnBlock (s : State) (b : Nat) : State :=
  if s.blocks[b]? = some .lent then setBlock (zeroRange s (blockLo b) (blockHi b)) b .free else s

/-- LEASE_RECLAIM: firmware takes a block back that stayed LENT after its port went down (R377). -/
def execLeaseReclaim (b : Fin 256) (s : State) : Out := byFirmware s (returnBlock s b.val)

/-- PEER_LINE_FILL_OR_WRITE_BACK: a lessee's access to a line of a LENT block, served at the DRAM (R377). -/
def execPeerLineFillOrWriteBack (pa : PAddr) (w : Option (List Byte)) (s : State) : Out :=
  let a := pa.toNat / 64 * 64
  if s.blocks[a / 2 ^ 31]? ≠ some .lent ∨ localBytes s ≤ a then .next s
  else
    match w with
    | none => .next { s with outbox := .peerLine a (readBytes s a 64) :: s.outbox }
    | some bs => .next (writeBytes s none a (bs.take 64))

/-! ### Blocks of partitions (R356, R357) -/

/-- Firmware gives a free block to a partition. -/
def ownBlock (s : State) (b p : Nat) : State :=
  if s.blocks[b]? = some .free then setBlock s b (.owned p) else s

/-- Whether two ranges meet. -/
def meets (lo hi a b : Nat) : Bool := decide (lo < b ∧ a < hi)

/-- Whether a marked loop that is recorded or judged uses a compute-capable page of a physical range (R346). -/
def loopUses (s : State) (lo hi : Nat) (h : Hart) : Bool :=
  match h.loop with
  | none => false
  | some l =>
    (l.phase == .recording || l.phase == .verdict) && (l.cur ++ l.ops.flatten).any (fun o => match o.base with
      | none => false
      | some va =>
        match walkPage s h.core (partOf h) va.toNat with
        | .inl e => e.cc && meets lo hi e.pa (e.pa + e.size)
        | .inr _ => false)

/-- Whether a block must stay: a near-bank command, a replay or a marked loop uses a page of it, or it holds a husk pool, a
trace area or a partition control page (R357). -/
def blockPinned (s : State) (b : Nat) : Bool :=
  let m := meets (blockLo b) (blockHi b)
  s.hbm.any (fun k => (k.stopes.any (fun e => match e.job with
      | .near c => m c.page (c.page + 2 ^ 21)
      | .replay _ lo len => m lo (lo + len))) || k.queue.any (fun c => m c.page (c.page + 2 ^ 21))) ||
  s.harts.any (loopUses s (blockLo b) (blockHi b)) ||
  (List.range 16).any (fun p => match s.parts[p]? with
    | some x =>
      let base := (pcpWord s p 0x18).toNat
      let n := (pcpWord s p 0x20).toNat
      x.active != 0 && (m x.pcpAddr.toNat (x.pcpAddr.toNat + 0x8000) || m base (base + 2 ^ 23 * n + 2 ^ 27))
    | none => false)

/-- A step of a capacity move logged: the block and the step (R391). -/
def logMove (s : State) (b step : Nat) : State := logPit s 0 7 0 0x20 (b + 2 ^ 32 * step)

/-- CAPACITY_MOVE: firmware asks partition `p`'s guest to give up a block for partition `q` (step 1). -/
def execCapacityMove (b : Fin 256) (p q : PartId) (s : State) : Out :=
  let runs := fun (x : PartId) => s.parts[x].active != 0
  byFirmware s (if s.blocks[b] = .owned p.val ∧ p ≠ q ∧ runs p ∧ runs q ∧ !blockPinned s b.val ∧
      !s.moves.any (fun m => m.1 == b.val) then
    logMove { s with moves := s.moves ++ [(b.val, p.val, q.val)] } b.val 1
  else s)

/-- The directory entries of a range removed; the counts they held stay for `UNSTAND` (R224, R357). -/
def severRange (s : State) (lo hi : Nat) : State :=
  let gone := s.directory.filter (fun d => decide (lo ≤ d.pa ∧ d.pa < hi))
  { s with
    directory := s.directory.filter (fun d => !decide (lo ≤ d.pa ∧ d.pa < hi))
    severed := s.severed ++ (gone.map (fun d => d.subs.map (fun b => (b.who, b.sent)))).flatten }

/-- HOT_REMOVE_ACK: the owner change point (step 2), unless something uses the block meanwhile (R357).  It stands at the start of
a cycle, so that no access of that cycle is served before it, and comes once nothing that was past translation is left in
flight (log 49). -/
def execHotRemoveAck (b : Fin 256) (s : State) : Out :=
  match s.moves.find? (fun m => m.1 == b.val) with
  | some (_, _, q) =>
    let lo := blockLo b.val
    let hi := blockHi b.val
    let s0 := passCycles (settleRange s lo hi) 1
    let s1 := severRange s0 lo hi
    .next (if blockPinned s b.val || inFlight s0 lo hi != 0 then s
      else logMove (setBlock { s1 with moves := s1.moves.filter (fun m => m.1 != b.val) } b.val (.removing q)) b.val 2)
  | none => .next s

/-- HOT_REMOVE_TIMEOUT: the guest has not acknowledged and the move is abandoned. -/
def execHotRemoveTimeout (b : Fin 256) (s : State) : Out :=
  byFirmware s { s with moves := s.moves.filter (fun m => m.1 != b.val) }

/-- The scrub of a removed block starts (step 3). -/
def startScrub (s : State) (b : Nat) : State :=
  match s.blocks[b]? with
  | some (.removing q) => logMove (setBlock s b (.scrubbing q)) b 3
  | _ => s

/-- BLOCK_SCRUB_DONE: every row holds zeros and the block is handed over (step 4). -/
def execBlockScrubDone (b : Fin 256) (s : State) : Out :=
  match s.blocks[b] with
  | .scrubbing q => .next (logMove (setBlock (zeroRange s (blockLo b.val) (blockHi b.val)) b.val (.owned q)) b.val 4)
  | _ => .next s

end Sys2Proof.Machine
end

