-- ==== Sys2Proof/Machine/Chain.lean ====
section
/-! DEFINITION. `CHAIN` (R237): its checks, the reservation of contexts (R371), and the hops. -/

namespace Sys2Proof.Machine

/-- The hops of a header word: bytes up to the first whose valid bit is clear. -/
def chainHops (v n : Nat) : List Nat :=
  match n with
  | 0 => []
  | n + 1 => if 128 ≤ v % 256 then v % 128 :: chainHops (v / 256) n else []

/-- Whether a list repeats a number. -/
def repeats (l : List Nat) : Bool :=
  match l with
  | [] => false
  | x :: xs => xs.contains x || repeats xs

/-- Whether the acting hart may send to a core (R237, R372). -/
def mayReach (s : State) (c : Nat) : Bool :=
  match s.parts[partOf s.hart]? with
  | some p => p.cores.toNat.testBit c && p.xmask.toNat.testBit c
  | none => false

/-- The rejection code of a chain, or none: in the order of the codes (R230, R237). -/
def chainRejects (s : State) (a hdr arg : Word) : Option Nat :=
  let len := bits arg 0 24
  let hops := chainHops hdr.toNat 8
  if a.toNat % 64 ≠ 0 ∨ len % 64 ≠ 0 then some 1
  else if len < 64 ∨ 65536 < len then some 2
  else if ¬(0x100000 ≤ a.toNat ∧ a.toNat + len ≤ 0x300000) then some 4
  else if bits arg 43 21 ≠ 0 then some 6
  else if hops.isEmpty || hops.contains s.hart.core || repeats hops then some 6
  else if hops.any (fun c => !mayReach s c) then some 7
  else none

/-- CHAIN. -/
def execChain (d a b c : SReg) (s : State) : Out :=
  issueEngine s d (
    let addr := getReg s a
    let hdr := getReg s b
    let arg := getReg s c
    afterScalars s (fun s1 =>
      match chainRejects s addr hdr arg with
      | some code => .next (advance (rejectNow s1 d 5 code))
      | none =>
        let w := if bits arg 42 1 = 1 then some (bits arg 24 18) else none
        .next (advance (startEngine s1 d
          (.chain (addr.toNat - 0x100000) (bits arg 0 24) w (chainHops hdr.toNat 8) none 0 0 0)))))

/-- The contexts in use at a hop. -/
def contextsAt (s : State) (c : Nat) : Nat := s.chainCtx.countP (fun x => x.1 == c && x.2.2 == 1)

/-- Waiting reservations at a hop take what contexts are free, in the order they arrived (R371). -/
def serveHop (s : State) (c : Nat) : State :=
  if contextsAt s c < 4 then
    match s.chainCtx.find? (fun x => x.1 == c && x.2.2 == 0) with
    | some y => { s with chainCtx := s.chainCtx.map (fun x => if x = y then (x.1, x.2.1, 1) else x) }
    | none => s
  else s

/-- A chain's context at a hop freed. -/
def freeContext (s : State) (c e : Nat) : State :=
  serveHop { s with chainCtx := s.chainCtx.filter (fun x => !(x.1 == c && x.2.1 == e)) } c

/-- A chain holds its context at a hop. -/
def holdsContext (s : State) (c e : Nat) : Bool := s.chainCtx.contains (c, e, 1)

/-- The hops in increasing core number. -/
def risingHops (hops : List Nat) : List Nat := (List.range 128).filter (fun c => hops.contains c)

/-- CHAIN_RESERVATION: once the chain holds a copy-tracking context of its own core (R53, log 45), the reservation arrives at
the lowest hop it has not visited, and takes a context there or waits (R371); once every hop holds one, the block
leaves. -/
def execChainReservation (core : CoreId) (e : Nat) (s : State) : Out :=
  withEngine s core.val e (fun o =>
    match o.eng.kind with
    | .chain off len w hops none p st sk =>
      if !hasContext o.hart o.eng then s
      else
      (match (risingHops hops).find? (fun c => !holdsContext s c e) with
        | some c =>
          if s.chainCtx.any (fun x => x.1 == c && x.2.1 == e) then serveHop s c
          else serveHop { s with chainCtx := s.chainCtx ++ [(c, e, 0)] } c
        | none =>
          if (List.range len).any (fun i => badPlace s (.spad o.hart.core ((off + i) / 8))) then
            setEngine s o (fun x => { x with fault := some (0x0B, 0, word (0x100000 + off), false) })
          else
            setEngine s o (fun x => { x with
              kind := .chain off len w hops (some (sslice o.hart.spad off (off + len) 0)) p st sk }))
    | _ => s)

/-- Whether a hop stores the block: its core runs a hart of the launch, and no busy slot is written (R237). -/
def hopStores (s : State) (o : Owned) (c off len : Nat) (w : Option Nat) : Bool :=
  let h := hartAt s c
  h.owner.isSome && runsFor h (partOf o.hart) (launchOf o.hart) && !touchesBusySlot s h off len &&
    (match w with
      | some i => !touchesBusySlot s h (8 * i) 8
      | none => true)

/-- The block stored at a hop, and its arrival word bumped (R237). -/
def hopStore (h : Hart) (off len : Nat) (block : Sparse 8) (w : Option Nat) : Hart :=
  let h1 := { h with spad := soverlay (sclear h.spad off (off + len)) (block.map (fun p => (p.1 + off, p.2))) }
  match w with
  | none => h1
  | some i => latchHart { h1 with spad := ssetBytes h1.spad (8 * i) 8 ((sgetBytes h1.spad (8 * i) 8 + 1) % 2 ^ 64) }

/-- The contexts freed of the hops that are served and whose next hop, if any, is (R371). -/
def freePassed (s : State) (e : Nat) (hops : List Nat) (served : Nat) : State :=
  (List.range hops.length).foldl (fun s i =>
    if served.testBit i && (i + 1 == hops.length || served.testBit (i + 1)) then freeContext s (hops.getD i 0) e else s) s

/-- Hop `k` of a chain stores the block or skips it (R237, R371). -/
def serveChain (s : State) (o : Owned) (k : Nat) : State :=
  match o.eng.kind with
  | .chain off len w hops (some b) p st sk =>
    (match hops[k]? with
      | none => s
      | some c =>
        if p.testBit k then s
        else
          let ok := hopStores s o c off len w
          let s1 := if ok then onCore s c (fun h => hopStore h off len b w) else s
          let p1 := putBit p k true
          let s2 := setEngine s1 o (fun x => { x with
            kind := .chain off len w hops (some b) p1 (if ok then st + 1 else st) (if ok then sk else sk + 2 ^ k) })
          freePassed s2 o.eng.id hops p1)
  | _ => s

/-- CHAIN_HOP_STORE: the next hop in list order that has not stored the block stores it or skips it, and passes it on. -/
def execChainHopStore (core : CoreId) (e : Nat) (s : State) : Out :=
  withEngine s core.val e (fun o =>
    match o.eng.kind with
    | .chain _ _ _ hops _ p _ _ => serveChain s o ((firstBelow hops.length (fun i => !p.testBit i)).getD hops.length)
    | _ => s)

/-- A hop of the chain of engine `e` is served out of turn: the deliveries keep no order among themselves (R119). -/
def hopAhead (s : State) (e k : Nat) : State :=
  match engineOf s e with
  | some o => serveChain s o k
  | none => s

/-- CHAIN_DONE: every hop has stored or skipped the block (R237). -/
def execChainDone (core : CoreId) (e : Nat) (s : State) : Out :=
  withEngine s core.val e (fun o =>
    match o.eng.kind with
    | .chain off _ _ hops b p st sk =>
      (match o.eng.fault with
        | some (c, _, va, x2) =>
          let s1 := hops.foldl (fun s h => freeContext s h e) s
          endEngine (engineRecord s1 o c va x2) o 3 0 (2 ^ hops.length - 1 + 256 * c)
        | none =>
          if b.isNone ∨ p + 1 < 2 ^ hops.length then s
          else if st = hops.length then endEngine s o 0 st 0
          else endEngine (engineRecord s o 0x09 (word (0x100000 + off)) false) o 3 st (sk + 256 * 0x09))
    | _ => s)

end Sys2Proof.Machine
end

