-- ==== Sys2Proof/Machine/Control.lean ====
section
/-! DEFINITION. Traps, breakpoints, return, waiting, and instruction fetch after code is written (R167 to R171). -/

namespace Sys2Proof.Machine

/-- TRAP: cause 0x19, the code in TVAL, EPC the next instruction (R167). -/
def execTrap (c : BitVec 12) (s : State) : Out :=
  .next (takeTrap s ⟨0x19, c.zeroExtend 64, 0, s.hart.pc + 4, s.hart.pc, s.hart.ir, 0, 0, 0⟩)

/-- BKPT: cause 0x18 at its own address; the record names the convoy before it (R36, R167). -/
def execBkpt (c : BitVec 12) (s : State) : Out :=
  let v := s.hart.convoy
  .next (takeTrap s ⟨0x18, c.zeroExtend 64, 0, s.hart.pc, s.hart.pc, s.hart.ir, v.head, v.count, 0⟩)

/-- TRET: the return, for device supervisor code and an aligned EPC (R167, R168). -/
def execTret (s : State) : Out :=
  privileged s (
    let e := s.hart.csr.epc
    if bits e 0 2 ≠ 0 then .next (trapAt s 0x06 e 0) else .next (trapReturn s))

/-- The event latch (R169). -/
def latched (h : Hart) : Bool := bits h.csr.status 6 1 == 1

/-- The event latch cleared and the hart running. -/
def endWait (h : Hart) : Hart :=
  { h with csr := { h.csr with status := setBits h.csr.status 6 1 0 }, run := .running }

/-- WAIT: goes on at once where the latch is set, and otherwise stops fetch until it is (R169). -/
def execWait (s : State) : Out :=
  let s1 := advance s
  .next (if latched s.hart then { s1 with hart := endWait s1.hart }
    else { s1 with hart := { s1.hart with run := .waitEvent s.clock } })

/-- WAIT_TIMEOUT: a `WAIT` that began 65,536 cycles ago ends (R169). -/
def execWaitTimeout (core : CoreId) (s : State) : Out :=
  .next (onCore s core.val (fun h =>
    match h.run with
    | .waitEvent since => if since + 65536 ≤ s.clock then endWait h else h
    | _ => h))

/-- FENCE.I: every earlier store performed and written back, then the cached instruction words invalidated
(R171). -/
def execFenceI (s : State) : Out :=
  let s1 := cleanL1 (flushHart s s.hart.core) s.hart.core
  .next (advance { s1 with hart := { s1.hart with fetched := [] } })

end Sys2Proof.Machine
end

