-- ==== Sys2Proof/Machine/Copy.lean ====
section
/-! DEFINITION. `COPY` (R232) with its chunk mask (R110) and tracking contexts (R53), a chunk at a time. -/

namespace Sys2Proof.Machine

/-- The chunk mask cleared, complete (R110, R232). -/
def clearChunkMask (h : Hart) (m : MReg) : Hart :=
  if m = 0 then h else setMaskProgress (setMask h m.val 0) m.val (groupsOf (lengthOf h)) true

/-- A local range that lies inside the scratchpad, or a range that is not local (R232). -/
def copyLocalOk (a : Word) (len : Nat) : Bool :=
  decide (globalBase ≤ a.toNat) || (decide (0x100000 ≤ a.toNat) && decide (a.toNat + len ≤ 0x300000))

/-- The rejection code of a copy, or none (R232). -/
def copyRejects (dst src : Word) (len : Nat) : Option Nat :=
  if dst.toNat % 8 ≠ 0 ∨ src.toNat % 8 ≠ 0 ∨ len % 8 ≠ 0 then some 1
  else if len < 8 ∨ 2 ^ 26 < len then some 2
  else if dst.toNat < src.toNat + len ∧ src.toNat < dst.toNat + len then some 3
  else if !copyLocalOk dst len || !copyLocalOk src len then some 4
  else none

/-- The clear of a chunk mask by engine `e`, as it stands in the vector queue. -/
def clearEntry (h : Hart) (m : MReg) (e : Nat) : Queued :=
  ⟨{ heldAt h h.vec.tags 0 false [] with seq := h.vseq + 1, start := m.val, item := .clear e },
    ⟨h.regs, h.csr, h.pending, h.latch, 0⟩⟩

/-- The chunk mask cleared in vector-queue order (R110): at once where the vector unit is done with what comes before, else
behind it in the queue. -/
def queueClear (h : Hart) (m : MReg) (e : Nat) : Hart :=
  if m = 0 then h
  else
    let h1 := if h.held.isNone && h.vf.isNone && h.queue.isEmpty then clearChunkMask h m
      else { h with queue := h.queue ++ [clearEntry h m e] }
    { h1 with vseq := h.vseq + 1 }

/-- COPY: it reads its source once every earlier scalar access is performed (R111). -/
def execCopy (d a b c : SReg) (m : MReg) (s : State) : Out :=
  issueEngine s d (afterScalars s (fun s1 =>
    let dst := getReg s1 a
    let src := getReg s1 b
    let len := (getReg s1 c).toNat
    let s2 : State := { s1 with hart := queueClear s1.hart m s1.serial }
    match copyRejects dst src len with
    | some code => .next (advance (rejectNow { s2 with serial := s2.serial + 1 } d 1 code))
    | none => .next (advance (startEngine s2 d (.copy dst src len m.val [] [])))))

/-- Whether the vector queue holds instruction `n` for a copy before it that waits for a context (R53). -/
def copyHolds (h : Hart) (n : Nat) : Bool := ((localCopies h).drop 4).any (fun e => decide (e.after < n))

/-- One 8-byte word of a chunk: destination and source, virtual, and the spots of both. -/
structure CopyWord where
  dst : Word
  src : Word
  to_ : Spot
  from_ : Spot
  deriving DecidableEq, Repr

/-- The words of a chunk judged in order. -/
def copyJudge (s : State) (o : Owned) (dst src : Word) (i n : Nat) (acc : List CopyWord) : List CopyWord × State :=
  match n with
  | 0 => (acc.reverse, s)
  | n + 1 =>
    let va := dst + word (8 * i)
    let vb := src + word (8 * i)
    let r := engineSpot s o vb 8 .read true
    let w := engineSpot r.2 o va 8 .write true
    copyJudge w.2 o dst src (i + 1) n (⟨va, vb, w.1, r.1⟩ :: acc)

/-- The fault of a judged word: the source before the destination, then data (R230); with whether stage 2 refuses. -/
def CopyWord.fault (s : State) (core : Nat) (full : Nat → Bool) (w : CopyWord) : Option (Nat × Word × Bool) :=
  match w.from_, w.to_ with
  | .denied c st, _ => some (c, w.src, st)
  | _, .denied c st => some (c, w.dst, st)
  | f, t =>
    if spotBad s core f 8 then some (0x0B, w.src, false)
    else
      match t with
      | .phys pa _ => if badMem s (pa / 64 * 64) 64 && !full (pa / 64) then some (0x0B, w.dst, false) else none
      | _ => none

/-- The frames of a word that are not resident, with whether a write needs them. -/
def CopyWord.frames (w : CopyWord) : List (Word × Bool × Bool) :=
  (match w.from_ with
    | .missing st => [(w.src, false, st)]
    | _ => []) ++
  (match w.to_ with
    | .missing st => [(w.dst, true, st)]
    | _ => [])

/-- Whether some word needs the host window while CXL.cache is disabled (R375, R381). -/
def windowShut (s : State) (ws : List CopyWord) : Bool :=
  !s.cxlMem && ws.any (fun w => match w.from_, w.to_ with
    | .host _, _ => true
    | _, .host _ => true
    | _, _ => false)

/-- Whether all eight words of a line are among the destinations of the chunk. -/
def lineCovered (ws : List CopyWord) (line : Nat) : Bool :=
  decide (ws.countP (fun w => match w.to_ with
    | .phys pa _ => pa / 64 == line
    | _ => false) = 8)

/-- Whether the source of a copy shares the physical word at `pa` through another mapping (R232). -/
def sourceShares (s : State) (o : Owned) (src : Word) (len pa : Nat) : Bool :=
  (List.range (len / 4096 + 2)).any (fun i =>
    let f := src.toNat / 4096 * 4096 + 4096 * i
    let va := f + pa % 4096
    decide (src.toNat ≤ va ∧ va < src.toNat + len) &&
      (match (engineSpot s o (word va) 8 .read true).1 with
        | .phys q _ => q / 8 == pa / 8
        | _ => false))

/-- The value a destination word ends with: the source word's, or where ranges share bytes that of some word of the
source (R232, log 19). -/
def copyValue (s : State) (o : Owned) (src : Word) (len : Nat) (w : CopyWord) (v : Nat) : Nat :=
  match w.to_ with
  | .phys pa _ =>
    if sourceShares s o src len pa then
      let k := (Config.overlapWord (s.fresh + w.dst.toNat)).toNat % (len / 8)
      spotRead s (ownerNow s o) (engineSpot s o (src + word (8 * k)) 8 .read true).1 8
    else v
  | _ => v

/-- A line that is written whole loses its error mark (R394). -/
def clearLine (s : State) (line : Nat) : State :=
  { s with bad := s.bad.filter (fun b => match b with
      | .lostLine l => l / 64 != line
      | .dram w => w / 64 != line
      | _ => true) }

/-- The sequence that the next write of the word at `pa` gets, if it is subscribed (R113). -/
def nextSeq (s : State) (pa : Nat) : BitVec 32 := ((s.directory.find? (fun d => d.pa == pa / 8 * 8)).map (·.seq + 1)).getD 0

/-- A word of chunk `c` written; false where it falls in a busy slot and is not (R58).  What it replaces may still be read
(R112). -/
def copyWrite (s : State) (o : Owned) (c : Nat) (full : Nat → Bool) (w : CopyWord) (v : Nat) : State × Bool :=
  let s0 := spotMark s o w.from_ false
  let olds := fun (p : Place) (x : Nat) (q : BitVec 32) => s0.olds ++ [(⟨o.eng.id, c, o.hart.core, p, x, q⟩ : OldWord)]
  match w.to_ with
  | .spad p =>
    if touchesBusySlot s0 (ownerNow s0 o) p 8 then (s0, false)
    else
      let x := sgetBytes (ownerNow s0 o).spad p 8
      (onOwner { s0 with olds := olds (.spad p) x 0 } o (fun h => { h with spad := ssetBytes h.spad p 8 v }), true)
  | .phys pa es =>
    let s1 := if full (pa / 64) then clearLine s0 (pa / 64) else s0
    let s1 := atHomeOf s1 (.phys pa)
    let s2 := markUsed { s1 with olds := olds (.phys pa) (sgetBytes s1.mem pa 8) (nextSeq s1 pa) } (partOf o.hart) es true
    (classPushes s2.pushes.length (classOfHart s2 o.hart) (writeHome s2 none pa 8 v), true)
  | .host ha => ({ s0 with hostMem := ssetBytes s0.hostMem ha 8 v }, true)
  | _ => (s0, true)

/-- The words of a chunk written; whether all were. -/
def copyWrites (s : State) (o : Owned) (c : Nat) (full : Nat → Bool) (ws : List (CopyWord × Nat)) : State × Bool :=
  ws.foldl (fun acc x => let r := copyWrite acc.1 o c full x.1 x.2; (r.1, acc.2 && r.2)) (s, true)

/-- The clear of an engine's chunk mask has still to come in the vector queue (R110). -/
def clearDue (h : Hart) (e : Nat) : Bool := h.queue.any (fun q => q.work.item == .clear e)

/-- The bit of a finished chunk set, unless the clear of the mask has still to come (R110). -/
def setChunkBit (h : Hart) (e mask c : Nat) : Hart :=
  if clearDue h e then latchHart h
  else latchHart (setMask h mask (putBit ((h.vec.masks[mask]?).getD 0) c true))

/-- The clear that stands at the head of the vector queue takes effect, and the bits of the chunks that have finished
meanwhile are set (R110). -/
def clearNow (h : Hart) (m e : Nat) : Hart :=
  let h1 := clearChunkMask h (mreg m 0)
  match h.engines.find? (fun x => x.id == e) with
  | some x =>
    (match x.kind with
      | .copy _ _ _ _ cs _ => setMask h1 m (cs.foldl (fun v c => putBit v c true) ((h1.vec.masks[m]?).getD 0))
      | _ => h1)
  | none => h1

/-- The words of a copy whose source lies in the same 64-byte line as that of word `k`. -/
def lineWords (src : Word) (len k : Nat) : List Nat :=
  let j := (src.toNat + 8 * k) % 64 / 8
  (List.range 8).filterMap (fun i => if j ≤ k + i ∧ 8 * (k + i - j) < len then some (k + i - j) else none)

/-- The source line of word `k` read at its home in one step (R335): each of its words of the copy that is not read yet
and can be. -/
def readLine (s : State) (o : Owned) (src : Word) (len k : Nat) (done : List Nat) : State :=
  (lineWords src len k).foldl (fun s i =>
    if (earlyOf s o.eng.id i).isSome || done.contains (i / 128) then s
    else
      let r := engineSpot s o (src + word (8 * i)) 8 .read true
      match r.1 with
      | .spad _ | .phys .. | .host _ =>
        if spotBad r.2 o.hart.core r.1 8 then s else addEarly r.2 o.eng.id i (spotRead r.2 (ownerNow r.2 o) r.1 8)
      | _ => s) s

/-- The number of a word of a copy. -/
def CopyWord.num (w : CopyWord) (dst : Word) : Nat := (w.dst - dst).toNat / 8

/-- A chunk whose words are judged and free of faults: its source lines read, its words written, its bit set (R110,
R232). -/
def copyChunk (s : State) (o : Owned) (dst src : Word) (len mask c : Nat) (done : List Nat) (ws : List CopyWord) : State :=
  let full := lineCovered ws
  let s0 := ws.foldl (fun s w =>
    if (earlyOf s o.eng.id (w.num dst)).isSome then s else readLine s o src len (w.num dst) done) s
  let vs := ws.map (fun w => (w, copyValue s0 o src len w ((earlyOf s0 o.eng.id (w.num dst)).getD 0)))
  let r := copyWrites { s0 with fresh := s0.fresh + 1 } o c full vs
  let s1 := setEngine r.1 o (fun e => match e.kind with
    | .copy a b l m cs ls =>
      { e with kind := if r.2 then .copy a b l m (cs ++ [c]) ls else .copy a b l m cs (ls ++ [c]) }
    | _ => e)
  let s2 := { s1 with early := s1.early.filter (fun x => !(x.engine == o.eng.id && x.n / 128 == c)) }
  if r.2 && mask != 0 then wakeOwner (onOwner s2 o (fun h => setChunkBit h o.eng.id mask c)) o else s2

/-- Whether the earlier words of the copy in the banks of word `k` are written: each bank is written in increasing row
order (R53). -/
def inRowOrder (s : State) (e k : Nat) (done : List Nat) : Bool :=
  (List.range (k / 32)).all (fun i => let j := k - 32 * (i + 1); done.contains (j / 128) || earlyWritten s e j)

/-- One word of a copy moved ahead of its chunk (R112), with its source line read: into the scratchpad, in the order of its
bank (R53).  A word that meets a fault, a page that is not resident, a busy slot or a closed host window is left to its
chunk. -/
def copyWordAhead (s : State) (e k : Nat) : State :=
  match engineOf s e with
  | none => s
  | some o =>
    match o.eng.kind with
    | .copy dst src len _ chunks lost =>
      let done := chunks ++ lost
      if len ≤ 8 * k || done.contains (k / 128) || earlyWritten s e k || o.eng.batch.isSome || o.eng.fault.isSome
          || !hasContext o.hart o.eng || (decide (dst.toNat < globalBase) && !inRowOrder s e k done) then s
      else
        let j := copyJudge s o (dst + word (8 * k)) (src + word (8 * k)) 0 1 []
        match j.1 with
        | [w] =>
          if (CopyWord.fault s o.hart.core (fun _ => false) w).isSome || !w.frames.isEmpty || windowShut j.2 [w] then s
          else
            let s1 := readLine j.2 o src len k done
            let v := copyValue s1 o src len w ((earlyOf s1 e k).getD 0)
            let r := copyWrite { s1 with fresh := s1.fresh + 1 } o (k / 128) (fun _ => false) w v
            if r.2 then markWritten r.1 e k else s
        | _ => s
    | _ => s

/-- COPY_CHUNK_DONE: what is left of chunk `c` is copied. Into the scratchpad, chunks finish in order (R53).  While CXL.cache
is disabled, a chunk in the host window waits (R381). -/
def execCopyChunkDone (core : CoreId) (e c : Nat) (s : State) : Out :=
  withEngine s core.val e (fun o =>
    match o.eng.kind with
    | .copy dst src len mask chunks lost =>
      let n := ceilDiv len 1024
      let done := chunks ++ lost
      if n ≤ c || done.contains c || o.eng.batch.isSome || o.eng.fault.isSome || !hasContext o.hart o.eng
          || (decide (dst.toNat < globalBase) && done.length != c) then s
      else
        let off := 1024 * c
        let words := Nat.min 1024 (len - off) / 8
        let j0 := copyJudge s o (dst + word off) (src + word off) 0 words []
        let j := (j0.1.filter (fun w => !earlyWritten s e (w.num dst)), j0.2)
        if windowShut s j.1 then s
        else match firstSome (CopyWord.fault s core.val (lineCovered j.1)) j.1 with
        | some (cause, va, st) =>
          setEngine j.2 o (fun x => { x with fault := some (cause, lowestChunk n chunks, va, st) })
        | none =>
          let fs := (j.1.map CopyWord.frames).flatten
          match fs with
          | [] => copyChunk j.2 o dst src len mask c done j.1
          | (va, _, _) :: _ =>
            let frames := fs.foldl (fun acc f => insertFrame (f.1.toNat / 4096 * 4096) acc) []
            engineBatch j.2 o frames va (fs.any (·.2.1)) (fs.any (·.2.2))
    | _ => s)

/-- COPY_DONE: every chunk has finished, or a fault ends the copy; the status is written (R232), after every chunk bit, and so
after the clear of the mask (R109, R110). -/
def execCopyDone (core : CoreId) (e : Nat) (s : State) : Out :=
  withEngine s core.val e (fun o =>
    match o.eng.kind with
    | .copy dst _ len _ chunks lost =>
      let n := ceilDiv len 1024
      if clearDue (ownerNow s o) e then s
      else (match o.eng.fault with
        | some (cause, _, va, st) => endFault s o cause (lowestChunk n chunks) va st
        | none =>
          if chunks.length + lost.length < n then s
          else if lost.isEmpty then endEngine s o 0 n 0
          else
            let c := lowestChunk n chunks
            endFault s o 0x09 c (dst + word (1024 * c)) false)
    | _ => s)

end Sys2Proof.Machine
end

