-- ==== Sys2Proof/Machine/Stream.lean ====
section
/-! DEFINITION. `STREAM` and its ports (R233), and the port forms of the vector load and store (R212). -/

namespace Sys2Proof.Machine

/-- The streams bound to a port, the active one first (R233). -/
def portStreams (h : Hart) (p : Nat) : List Engine :=
  h.engines.filter (fun e => match e.kind with
    | .stream q .. => q == p
    | _ => false)

/-- The elements of a pattern. -/
def StreamDesc.total (d : StreamDesc) : Nat := d.counts.1 * d.counts.2.1 * d.counts.2.2

/-- The address of element `k` of a pattern: index 0 innermost (R233). -/
def StreamDesc.addr (d : StreamDesc) (k : Nat) : Word :=
  let i0 := k % d.counts.1
  let i1 := k / d.counts.1 % d.counts.2.1
  let i2 := k / d.counts.1 / d.counts.2.1
  d.base + word i2 * d.strides.2.2 + word i1 * d.strides.2.1 + word i0 * d.strides.1

/-- A descriptor's 64 bytes as a pattern, or none where a field is invalid (R233). -/
def streamDesc (v : Nat) : Option StreamDesc :=
  let f := fun lo n => v / 256 ^ lo % 256 ^ n
  let d : StreamDesc := ⟨word (f 0 8), (f 8 4, f 12 4, f 16 4), (word (f 24 8), word (f 32 8), word (f 40 8)),
    f 48 1 == 1, f 49 1⟩
  if f 20 4 ≠ 0 ∨ f 50 14 ≠ 0 ∨ 1 < f 48 1 ∨ (f 49 1 ≠ 2 ∧ f 49 1 ≠ 4) then none
  else if d.total = 0 ∨ 2 ^ 32 < d.total then none
  else some d

/-- The stream numbered `e` starts: its descriptor is read; a bad one ends it (R233). -/
def startStream (s : State) (e : Nat) : State :=
  match engineOf s e with
  | none => s
  | some o =>
    match o.eng.kind, o.eng.batch, o.eng.fault with
    | .stream _ _ none _, none, some (c, _, va, st) => endFaultFree s o c va st
    | .stream p da none cur, none, none =>
      if da.toNat % 64 ≠ 0 then endEngine s o 4 0 1
      else if da.toNat < globalBase ∧ ¬(0x100000 ≤ da.toNat ∧ da.toNat + 64 ≤ 0x300000) then endEngine s o 4 0 4
      else
        let r := engineSpot s o da 64 .read false
        (match r.1 with
          | .missing st => engineBatch r.2 o [da.toNat / 4096 * 4096] da false st
          | .denied c st => endFaultFree r.2 o c da st
          | .window => endEngine r.2 o 4 0 4
          | spot =>
            if spotBad r.2 o.hart.core spot 64 then endFaultFree r.2 o 0x0B da false
            else
              match streamDesc (spotRead r.2 o.hart spot 64) with
              | none => endEngine r.2 o 4 0 6
              | some d =>
                setEngine (spotMark r.2 o spot false) o (fun x => { x with kind := .stream p da (some d) cur }))
    | _, _, _ => s

/-- The next stream of a port of an owner starts once the active one has ended (R233). -/
def nextStream (s : State) (o : Owned) (p fuel : Nat) : State :=
  match fuel with
  | 0 => s
  | fuel + 1 =>
    match portStreams (ownerNow s o) p with
    | [] => s
    | x :: _ =>
      let s1 := startStream s x.id
      if (engineOf s1 x.id).isSome then s1 else nextStream s1 o p fuel

/-- STREAM. -/
def execStream (d : SReg) (p : PortId) (b : SReg) (s : State) : Out :=
  issueEngine s d (
    if 2 ≤ (portStreams s.hart p.val).length then .next (stall s)
    else
      afterScalars s (fun s0 =>
        let n := s0.serial
        let first := (portStreams s0.hart p.val).isEmpty
        let s1 := startEngine s0 d (.stream p.val (getReg s0 b) none 0)
        let s2 := if first then startStream s1 n else s1
        .next (advance s2)))

/-- STREAM_END: a stream that waited for its descriptor starts or ends; an active one whose last element is consumed,
or performed, ends, and the next one starts (R233). -/
def execStreamEnd (core : CoreId) (e : Nat) (s : State) : Out :=
  withEngine s core.val e (fun o =>
    match o.eng.kind with
    | .stream p _ desc cur =>
      if ((portStreams o.hart p).head?.map (·.id)) ≠ some e then s
      else
        (match desc with
          | none => nextStream s o p 3
          | some d =>
            if cur < d.total then s
            else
              let s1 := if d.store then performPackets s (fun q => q.core == core.val) else s
              nextStream (endEngine s1 o 0 d.total 0) o p 3)
    | _ => s)

/-- A stream cancelled: state 7 with the elements consumed (R233, R265). -/
def cancelStreams (s : State) (core : Nat) : State :=
  (hartAt s core).engines.foldl (fun s x =>
    match x.kind with
    | .stream _ _ _ cur => endEngine s ⟨none, hartAt s core, x⟩ 7 cur 0
    | _ => s) s

/-! ### VLDP and VSTP (R212) -/

/-- TOPND of a port. -/
def topndPort (p : PortId) : Word := operandWord 5 p.val 0

/-- The stream a port access meets: none where the access ends or waits, with the outcome. -/
def portStream (s : State) (p : PortId) (store : Bool) (k : Engine → StreamDesc → Nat → Out) : Out :=
  match portStreams s.hart p.val with
  | [] => vecTrap s 0x01 (topndPort p)
  | x :: _ =>
    match x.kind with
    | .stream _ _ (some d) cur =>
      if d.store != store then
        let o : Owned := ⟨none, s.hart, x⟩
        let s1 := nextStream (endEngine s o 4 0 6) o p.val 3
        if (portStreams s1.hart p.val).isEmpty then vecTrap s1 0x01 (topndPort p) else .next (stall s1)
      else if d.total ≤ cur then .next (stall s)
      else k x d cur
    | _ => .next (stall s)

/-- Element `k` of the active load stream of a running hart read ahead of the `VLDP` that consumes it (R233); a fault is left to that `VLDP`. -/
def readAhead (s : State) (e k : Nat) : State :=
  match engineOf s e with
  | none => s
  | some o =>
    match o.eng.kind with
    | .stream p _ (some d) cur =>
      let a := d.addr k
      if o.husk.isSome || d.store || k < cur || d.total ≤ k || (earlyOf s e k).isSome || decide (a.toNat % d.size ≠ 0) ||
          ((portStreams o.hart p).head?.map (·.id)) != some e then s
      else
        let r := engineSpot s o a d.size .read false
        match r.1 with
        | .spad _ | .phys _ _ =>
          if spotBad r.2 o.hart.core r.1 d.size then s else addEarly (spotMark r.2 o r.1 false) e k (spotRead r.2 o.hart r.1 d.size)
        | _ => s
    | _ => s

/-- The elements of a port load that the stream `e` has read ahead take the values it read (R112, R233). -/
def takeAhead (s : State) (e cur r : Nat) (narrow : Bool) (els : List (Nat × List Place)) : State :=
  els.foldl (fun s x =>
    match earlyOf s e (cur + x.1) with
    | some v => { s with hart := setElem s.hart r narrow x.1 v }
    | none => s) s

/-- A stream's cursor advanced by `n`. -/
def moveCursor (s : State) (e n : Nat) : State :=
  { s with hart := { s.hart with engines := s.hart.engines.map (fun x =>
      if x.id = e then
        match x.kind with
        | .stream p a d c => { x with kind := .stream p a d (c + n) }
        | _ => x
      else x) } }

/-- The plan of a port access of `r` elements where `n` were asked for: VL takes what remains (R50, R212). -/
def portPlan (h : Hart) (p : Plan) (r n : Nat) : Plan :=
  if r < n && !h.vec.matrix && p.vl.isNone then { p with vl := some r } else p

/-- VLDP: the destination under DTAG (R20, R178, R208), then the port and its stream (R212). -/
def execVldp (t : VReg) (p : PortId) (m : MReg) (s : State) : Out :=
  let h := s.hart
  let dt := dtagOf h.csr
  checkLoad s t none (portStream s p false (fun x d cur =>
    if tagBytes dt ≠ d.size then vecTrap s 0x03 (topndPort p)
    else
      let n := lengthOf h
      let r := Nat.min n (d.total - cur)
      let f : Form := ⟨m, tagBytes dt, false, true, false, 5, p.val⟩
      let pieces := fun e => [(⟨d.addr (cur + e), tagBytes dt⟩ : Piece)]
      vecAccess s f r pieces (fun s1 pl =>
        let pl := portPlan h pl r n
        let s2 := { s1 with hart := setTags s1.hart t.val (groupOf h.csr) dt }
        let s3 := takeAhead (loadElems s2 f pieces t.val (narrowTag dt) (tagBytes dt) pl.els) x.id cur t.val (narrowTag dt) pl.els
        let s4 := if pl.trap.isNone && pl.stop.isNone then moveCursor s3 x.id pl.len else s3
        finish { s4 with hart := loadLeft s4.hart m t.val dt n pl } h.vec.tags f pl)))

/-- VSTP: the source (R20, R179, R208), then the port and its stream (R212). -/
def execVstp (t : VReg) (p : PortId) (m : MReg) (s : State) : Out :=
  let h := s.hart
  let tt := tagOfReg h t.val
  checkStore s t none (portStream s p true (fun x d cur =>
    if tagBytes tt ≠ d.size then vecTrap s 0x03 (topndPort p)
    else
      let n := lengthOf h
      let r := Nat.min n (d.total - cur)
      let f : Form := ⟨m, tagBytes tt, true, false, false, 5, p.val⟩
      let pieces := fun e => [(⟨d.addr (cur + e), tagBytes tt⟩ : Piece)]
      vecAccess s f r pieces (fun s1 pl =>
        let pl := portPlan h pl r n
        let s2 := storeElems s1 f pieces t.val tt pl.els
        finish (if pl.trap.isNone && pl.stop.isNone then moveCursor s2 x.id pl.len else s2) h.vec.tags f pl)))

end Sys2Proof.Machine
end

