-- ==== Sys2Proof/Machine/Launch.lean ====
section
/-! DEFINITION. Launches (R262 to R266, R308, R309, R311): offering a record to the pending-launch store, its answer,
withdrawing a launch, the end of a gang and of a launch, and the completion word. -/

namespace Sys2Proof.Machine

/-! ### The store -/

/-- The entries that the store holds: firmware's own launches take none (log 32). -/
def entriesHeld (s : State) : Nat := s.launches.countP (fun l => l.completion.isSome)

/-- The entries that a partition holds. -/
def entriesOf (s : State) (part : Nat) : Nat := s.launches.countP (fun l => l.completion.isSome && l.part == part)

/-- Entries that a partition may still make (R307). -/
def freeOf (s : State) (part : Nat) : Nat :=
  Nat.min (4096 - entriesHeld s) ((pcpWord s part 8).toNat - entriesOf s part)

/-- FREE of every running partition, written where it changes (R307, R308). -/
def updateFree (s : State) : State :=
  (List.range 16).foldl (fun s p =>
    match s.parts[p]? with
    | none => s
    | some b =>
      let v := word (freeOf s p)
      if b.active = 0 || pcpWord s p 0 = v then s else setPcpWord s p 0 v) s

/-- The entry of a launch. -/
def launchAt (s : State) (part id : Nat) : Option Launch := s.launches.find? (fun l => l.part == part && l.id == id)

/-- The next identifier from `i` that no entry of the partition holds (R308). -/
def freeId (s : State) (part i fuel : Nat) : Nat :=
  match fuel with
  | 0 => i
  | fuel + 1 => if (launchAt s part i).isSome then freeId s part ((i + 1) % 2 ^ 24) fuel else i

/-- The states of an entry (R309). -/
inductive EntryState where
  | waiting | ready | active | running | ended
  deriving DecidableEq, Repr

/-- The state of an entry (R309). -/
def entryState (l : Launch) : EntryState :=
  if l.failed || decide (l.size * l.gangs ≤ l.gone) then .ended
  else if l.dispatched = l.gangs then .running
  else if 0 < l.dispatched then .active
  else if l.deps.all (·.done) then .ready
  else .waiting

/-- A launch identifier is held by a launch that has not ended. -/
def Launch.live (l : Launch) : Bool := entryState l != .ended

/-- The entry and its dependences' subscriptions removed (R64, R311). -/
def removeLaunch (s : State) (part id : Nat) : State :=
  let t := dropSubs s (fun _ w => match w with
    | .dependence p i _ => p == part && i == id
    | .slot .. => false)
  updateFree { t with launches := t.launches.filter (fun l => !(l.part == part && l.id == id)) }

/-- The completion word of a launch (R266). -/
def completionWord (harts st flags : Nat) : Word := word (2 ^ 63 + harts % 2 ^ 24 * 2 ^ 32 + st * 2 ^ 24 + flags % 32)

/-! ### LAUNCH (R263) -/

/-- LAUNCH: the leader's earlier accesses are performed and the request is on its way. -/
def execLaunch (d a : SReg) (s : State) : Out :=
  jointGuard s d (
    let l := leaderNow s
    let req : LaunchReq := ⟨d, getReg (focus s l.core) a, supervisor l, none, none⟩
    let s1 := cleanL1 (flushHart s l.core) l.core
    .next (eachMember s1 (gangNow s1) (fun t =>
      let h := setPending t.hart d
      .next (advance { t with hart := if h.core = l.core then { h with launchReqs := h.launchReqs ++ [req] } else h }))))

/-- A launch record's fields (R262). -/
structure Record where
  entry : Word
  arg : Word
  size : Nat
  cls : Nat
  gangs : Nat
  valid : Nat
  completion : Word
  deps : List Word
  zero : Nat
  deriving DecidableEq, Repr

/-- The fields of the 64 bytes of a record. -/
def recordOf (bs : List Byte) : Record :=
  let f := fun i n => bytesNat ((bs.drop i).take n)
  { entry := word (f 0 8), arg := word (f 8 8), size := f 16 1, cls := f 17 1, gangs := f 18 2, valid := f 20 1,
    completion := word (f 24 8),
    deps := (if f 20 1 % 2 = 1 then [word (f 32 8)] else []) ++ (if f 20 1 / 2 % 2 = 1 then [word (f 40 8)] else []),
    zero := f 20 1 / 4 + f 21 3 + f 48 8 + f 56 8 }

/-- An address that is not a global one of 48 bits. -/
def notGlobal (a : Word) : Bool := decide (a.toNat < globalBase) || bits a 48 16 != 0

/-- The rejection code of a record's fields, in the order of R263's table, or 0. -/
def recordRejects (r : Record) (cores : Nat) : Nat :=
  let words := r.completion :: r.deps
  if r.entry.toNat % 4 ≠ 0 || words.any (fun a => a.toNat % 8 != 0) then 1
  else if !(r.size = 1 || r.size = 2 || r.size = 4) || decide (3 < r.cls) || r.gangs = 0 ||
      decide (128 / r.size < r.gangs) || decide (cores < r.size * r.gangs) then 2
  else if (r.entry :: words).any notGlobal then 4
  else if r.zero ≠ 0 then 6
  else 0

/-- The status of a `LAUNCH` written into its register on every member of the gang, and the request gone. -/
def answerLaunch (s : State) (h : Hart) (q : LaunchReq) (v : Word) : State :=
  let cores := (gangNow (focus s h.core)).map (·.core)
  let s1 := onCore s h.core (fun g => { g with launchReqs := g.launchReqs.drop 1 })
  onHarts s1 (fun g => if cores.contains g.core then writePending g q.rd v else g)

/-- The oldest request of a hart changed. -/
def setReq (s : State) (core : Nat) (q : LaunchReq) : State :=
  onCore s core (fun g => { g with launchReqs := q :: g.launchReqs.drop 1 })

/-- The arbiter waits for pages of a `LAUNCH` (R231, R263): a batch of the frames, unless the ring is full. -/
def launchBatch (s : State) (h : Hart) (q : LaunchReq) (frames : List Nat) (wr stage2 : Bool) : State :=
  if ringFull s (partOf h) then s
  else
    let n := (pcpWord s (partOf h) 0x38).toNat
    setReq (writeBatch s h frames ((if stage2 then 1 else 0) + (if wr then 2 else 0) + 4)) h.core { q with batch := some n }

/-- Frames without repeats, lowest first. -/
def sortFrames (l : List Nat) : List Nat :=
  l.foldl (fun acc x => if acc.contains x then acc else acc.filter (· < x) ++ x :: acc.filter (x < ·)) []

/-- The launch of a record that passed every check, entered with its words at `pas` (R308, R311). -/
def enterLaunch (s : State) (part : Nat) (r : Record) (pas : List Nat) : Nat × State :=
  match s.parts[part]? with
  | none => (0, s)
  | some p =>
    let id := freeId s part p.nextId 4097
    let subs := (pas.drop 1).foldl (fun (acc : List Dependence × State) pa =>
      let done := (word8 acc.2 pa).toNat.testBit 63
      let q := subscribe acc.2 (.dependence part id acc.1.length) pa
      (acc.1 ++ [⟨pa, done, q.1 != 0, s.clock⟩], q.2.2)) ([], s)
    let l : Launch := {
      part := part, id := id, entry := r.entry, arg := r.arg, size := r.size, cls := r.cls, gangs := r.gangs,
      completion := pas.head?, deps := subs.1, dispatched := 0, gone := 0, ended := 0, flags := 0, current := r.cls,
      arrival := s.clock, rise := s.clock, hyper := false, failed := false }
    let s1 := subs.2
    let s2 := { s1 with
      launches := s1.launches ++ [l]
      parts := s1.parts.setIfInBounds part { p with nextId := (id + 1) % 2 ^ 24 } }
    (id, updateFree (settleLaunch s2 part id))

/-- The words of a record translated: the completion word for writing, the dependences for reading (R263). -/
def launchWords (s : State) (h : Hart) (super : Bool) (r : Record) : List (Xlat × List (Nat × Bool) × Word) × State :=
  (r.completion :: r.deps).foldl (fun (acc : List (Xlat × List (Nat × Bool) × Word) × State) a =>
    let x := probe acc.2 h.core (partOf h) super a 8 (if acc.1.isEmpty then .write else .read)
    (acc.1 ++ [(x.1.1, x.1.2, a)], x.2)) ([], s)

/-- The uncorrectable words of a record logged (R394). -/
def logWords (s : State) (core : Nat) (ws : List (Xlat × List (Nat × Bool) × Word)) : State :=
  ws.foldl (fun s x => match x.1 with
    | .ok pa => if badMem s pa 8 then logPlace s pa else s
    | .denied 0x0B _ => logError s core x.2.2
    | _ => s) s

/-- A record judged: its fields, then its words, then room (R263). -/
def judgeLaunch (s : State) (h : Hart) (q : LaunchReq) (bs : List Byte) : State :=
  let part := partOf h
  let r := recordOf bs
  let cores := match s.parts[part]? with
    | some p => popCount p.cores.toNat 128
    | none => 0
  let no := fun (t : State) st detail => answerLaunch t h q (statusWord 9 st 0 detail)
  let code := recordRejects r cores
  if code ≠ 0 then no s 4 code
  else
    let w := launchWords s h q.super r
    let denied := w.1.any (fun x => match x.1 with
      | .denied .. => true
      | .ok pa => badMem s pa 8
      | .missing _ => false)
    let missing := w.1.filterMap (fun x => match x.1 with
      | .missing _ => some (x.2.2.toNat / 4096 * 4096)
      | _ => none)
    if denied then no (logWords w.2 h.core w.1) 4 7
    else if !missing.isEmpty then
      launchBatch w.2 h q (sortFrames missing)
        (match w.1.head? with
          | some (.missing _, _) => true
          | _ => false)
        (w.1.any (fun x => x.1 == .missing true))
    else if 4096 ≤ entriesHeld s then no w.2 5 1
    else if (pcpWord s part 8).toNat ≤ entriesOf s part then no w.2 5 2
    else
      let marked := w.1.foldl (fun (acc : State × Bool) x => (markUsed acc.1 part x.2.1 acc.2, false)) (w.2, true)
      let pas := w.1.filterMap (fun x => match x.1 with
        | .ok pa => some pa
        | _ => none)
      let e := enterLaunch marked.1 part r pas
      answerLaunch e.2 h q (statusWord 9 0 e.1 0)

/-- A request looked at: its record is read, and judged (R263). -/
def considerLaunch (s : State) (h : Hart) (q : LaunchReq) : State :=
  match q.record with
  | some bs => judgeLaunch s h q bs
  | none =>
    let no := fun (t : State) detail => answerLaunch t h q (statusWord 9 4 0 detail)
    if q.addr.toNat % 64 ≠ 0 then no s 1
    else if notGlobal q.addr then no s 4
    else
      let r := translate s h.core (partOf h) q.super q.addr 64 .read
      match r.1.1 with
      | .missing st => launchBatch r.2 h q [q.addr.toNat / 4096 * 4096] false st
      | .denied .. => no r.2 7
      | .ok pa =>
        if badMem r.2 pa 64 then no (logPlace r.2 pa) 7
        else
          let bs := readBytes r.2 pa 64
          let q1 := { q with record := some bs }
          judgeLaunch (setReq r.2 h.core q1) h q1 bs

/-- LAUNCH_ANSWER: the store judges the oldest `LAUNCH` of a hart, once the batch it waits for is done (R263). -/
def execLaunchAnswer (core : CoreId) (s : State) : Out :=
  let h := hartAt s core.val
  match h.launchReqs with
  | [] => .next s
  | q :: _ =>
    match q.batch with
    | none => .next (considerLaunch s h q)
    | some n =>
      let d := batchDone s (partOf h) n
      if d = 2 then .next (answerLaunch s h q (statusWord 9 4 0 7))
      else if d = 1 then
        let q1 := { q with batch := none }
        .next (considerLaunch (setReq s h.core q1) h q1)
      else .next s

/-- The completion word of a launch written at its home, which refuses it where the block is no longer the partition's (R356,
log 49). -/
def writeCompletion (s : State) (l : Launch) (v : Word) : State :=
  match l.completion with
  | some pa => if (refusal s l.part pa).isSome then s else backInvalidate (writeHome s none pa 8 v.toNat)
  | none => s

/-! ### CANCEL (R264) -/

/-- What `CANCEL` finds of identifier `id`: STATE and DETAIL, and the state after. -/
def cancelLaunch (s : State) (part id : Nat) : Nat × Nat × State :=
  match launchAt s part id with
  | some l =>
    if 0 < l.dispatched || l.failed then (6, 0, s)
    else
      let s1 := removeLaunch s part id
      (7, 0, writeCompletion s1 l (completionWord 0 7 0))
  | none => if s.launches.any (fun l => l.id == id) then (4, 7, s) else (4, 2, s)

/-- CANCEL: the leader's. -/
def execCancel (d a : SReg) (s : State) : Out :=
  jointGuard s d (
    let l := leaderNow s
    let v := getReg (focus s l.core) a
    let id := bits v 0 24
    if bits v 24 40 ≠ 0 then .next (jointResult s d (statusWord 10 4 id 6))
    else
      let r := cancelLaunch s (partOf l) id
      .next (jointResult r.2.2 d (statusWord 10 r.1 id r.2.1)))

/-! ### END (R265) -/

/-- What a hart still waits for at `END` (R265 step 2): in a handler, what the vector unit holds is none of it (log 8). -/
def endWaits (h : Hart) : Bool :=
  !h.queue.isEmpty || (!h.started && (h.held.isSome || h.vf.isSome)) || !h.loads.isEmpty || !h.engines.isEmpty ||
    !h.launchReqs.isEmpty

/-- A launch with a change of its entry. -/
def onLaunch (s : State) (part id : Nat) (f : Launch → Launch) : State :=
  { s with launches := s.launches.map (fun l => if l.part = part ∧ l.id = id then f l else l) }

/-- One hart ended: subscriptions removed and flags joined (R65, R265).  What the core held stands until another owner's hart
starts there (R64). -/
def endHart (s : State) (core : Nat) : State :=
  let h := hartAt s core
  let part := partOf h
  let id := launchOf h
  let mine := fun (w : Subscriber) => match w with
    | .slot c _ p l g => c == core && p == part && l == id && g == gangOf h
    | .dependence .. => false
  let s1 := dropSubs (cleanL1 (flushHart s core) core) (fun _ w => mine w)
  let s2 := { s1 with
    stands := s1.stands.filter (fun a => !(a.core == core && a.part == part && a.launch == id))
    unstands := s1.unstands.filter (fun a => !(a.core == core && a.part == part && a.launch == id))
    pushes := s1.pushes.filter (fun p => !mine p.who) }
  onCore (onLaunch s2 part id (fun l => { l with
    gone := l.gone + 1, ended := l.ended + 1, flags := l.flags ||| bits h.csr.fcsr 0 5 })) core (fun h => retire (closeHart s h))

/-- END: the gang's streams are cancelled, what it still waits for ends, and then its harts end. -/
def execEndProg (s : State) : Out :=
  let hs := gangNow s
  if hs.any (fun h => h.loop.isSome) then
    .next (spreadTraps s (eachMember s hs (fun s1 =>
      .next (if s1.hart.loop.isSome then trapWord s1 0x0E 0 else s1))) (hs.map (·.core)))
  else
    let s1 := hs.foldl (fun s h => cancelStreams s h.core) s
    if (gangNow s1).any endWaits then .next (stall s1)
    else .next (hs.foldl (fun s h => endHart s h.core) s1)

/-! ### The end of a launch (R266, R323) -/

/-- END_LAUNCH: the supervisor ends a launch; what it has under way stops (R323). -/
def execEndLaunch (p : PartId) (id : BitVec 24) (s : State) : Out :=
  match launchAt s p.val id.toNat with
  | none => .next s
  | some l =>
    if !l.live then .next s
    else
      let s1 := endLaunchFor s p.val id.toNat
      .next (dropSubs s1 (fun _ w => match w with
        | .dependence q i _ => q == p.val && i == id.toNat
        | .slot .. => false))

/-- Whether everything of a launch is gone (R107, R266). -/
def launchOver (s : State) (l : Launch) : Bool :=
  decide (l.size * l.gangs ≤ l.gone) && !s.harts.any (fun h => runsFor h l.part l.id)

/-- COMPLETION_WORD_WRITE: the word written, the entry freed (R266, R308). -/
def execCompletionWordWrite (p : PartId) (id : BitVec 24) (s : State) : Out :=
  match launchAt s p.val id.toNat with
  | none => .next s
  | some l =>
    if !launchOver s l then .next s
    else
      let s1 := writeCompletion s l (completionWord l.ended (if l.failed then 3 else 0) l.flags)
      .next (removeLaunch s1 p.val id.toNat)

end Sys2Proof.Machine
end

