-- ==== Sys2Proof/Machine/Preempt.lean ====
section
/-! DEFINITION. Stopping a gang and saving its husks, waking and releasing husks, dumps, and resuming (R172, R225, R226,
R314 to R320, R390, R394). -/

namespace Sys2Proof.Machine

/-! ### Husk slots and groups -/

/-- The husks of one gang, in member order, that it has not resumed from. -/
def groupHusks (s : State) (part launch gang : Nat) : List Husk :=
  s.husks.filter (fun k => k.part == part && !k.resumed &&
    (match k.image.owner with
      | some o => o.launch == launch && o.gang == gang
      | none => false))

/-- The launch and the gang index of a husk. -/
def huskGang (k : Husk) : Nat × Nat := (k.image.owner.map (fun o => (o.launch, o.gang))).getD (0, 0)

/-- The husk in slot `i` of a partition. -/
def huskIn (s : State) (part i : Nat) : Option Husk := s.husks.find? (fun k => k.part == part && k.slot == i)

/-- Every husk of a gang changed. -/
def onGroup (s : State) (k : Husk) (f : Husk → Husk) : State :=
  { s with husks := s.husks.map (fun x => if x.part = k.part ∧ !x.resumed ∧ huskGang x = huskGang k then f x else x) }

/-- The husk slots of a partition that no husk holds, lowest first (R307, R318). -/
def emptySlots (s : State) (part : Nat) : List Nat :=
  (List.range (Nat.min 128 (pcpWord s part 0x20).toNat)).filter (fun i => (huskIn s part i).isNone)

/-- How many husk slots are free: a gang that is being stopped counts as holding its own (R314). -/
def freeSlots (s : State) (part : Nat) : Nat :=
  (emptySlots s part).length - s.harts.countP (fun h => h.owner.isSome && partOf h == part && h.stopping.isSome)

/-! ### The stop point (R172, R315) -/

/-- The slot and the timeout point of a hart stalled in `WAITSL`. -/
def stallOf (h : Hart) : Option (Nat × Nat) :=
  match h.run with
  | .waitSlot _ n _ due => some (n, due)
  | _ => none

/-- One hart at its stop point: a recording loop is declined, a `WAIT` ends, the event latch is set (R169). -/
def stopHart (s : State) (core : Nat) (r : StopReason) (pc : Word) (due : Option Nat) : State :=
  let t := focus (closeConvoy (focus s core)) s.hart.core
  onCore t core (fun h =>
    let h1 := declineLoop h 11
    let h2 := match h1.run with
      | .waitEvent _ => endWait h1
      | _ => latchHart h1
    countHart { h2 with
      run := .stopped (stallOf h), stopping := some r, stalled := false, pc := pc
      waitDue := (due.map (fun d => (pc, d))).or h2.waitDue } 0x16 8 1)

/-- A gang at its stop point: what has not started is rolled back (R172).  Where a member stalls in `WAITSL`, every member
stands at that `WAITSL` (R223). -/
def stopGang (s : State) (core : Nat) (r : StopReason) : State :=
  let s := (gangNow (focus s core)).foldl (fun s h => onCore s h.core rollbackHart) s
  let hs := gangNow (focus s core)
  match hs.find? (fun h => (stallOf h).isSome) with
  | some w => hs.foldl (fun s h => stopHart s h.core r w.pc (some (((stallOf h).map (·.2)).getD s.clock))) s
  | none => hs.foldl (fun s h => stopHart s h.core r h.pc none) s

/-- A stop on its way to every member of a gang (R315). -/
def requestStop (s : State) (core : Nat) (r : StopReason) : State :=
  (gangNow (focus s core)).foldl (fun s h => onCore s h.core (fun g => { g with stopping := some r })) s

/-- A waiting husk held by a stop request, which ends its parking (R314). -/
def holdHusk (s : State) (k : Husk) : State :=
  onGroup s k (fun x => { x with parked := none, woken := false, runnable := false, held := true })

/-- PREEMPT_REQUEST: the stop that is on its way to the gang on a core arrives; or, with none on its way, firmware or the
hypervisor asks to stop that gang, or the husk that left this core (R314). -/
def execPreemptRequest (core : CoreId) (s : State) : Out :=
  let h := hartAt s core.val
  match h.owner with
  | none =>
    (match s.husks.find? (fun k => k.image.core == core.val && !k.resumed && !k.held) with
      | some k => .next (holdHusk s k)
      | none => .next s)
  | some o =>
    match h.run, h.stopping with
    | .stopped _, _ => .next (requestStop s core.val .hold)
    | _, some r => .next (stopGang s core.val r)
    | _, none => .next (if o.size ≤ freeSlots s o.part then stopGang s core.val .hold else s)

/-! ### Saving (R225, R226, R319) -/

/-- The park notice at the home of a slot's word (R226). -/
def parkAtHome (s : State) (who : Subscriber) : State :=
  { s with directory := s.directory.map (fun d => { d with subs := d.subs.map (fun b =>
      if b.who = who then { b with parked := true, rearm := none, latest := if b.parked then b.latest else none } else b) }) }

/-- A slot at switch-out (R225): ARMED becomes PARKED; DRAINING is completed, the pushes on their way to it back at the home
and counted, its status in the husk. -/
def switchOut (s : State) (core n : Nat) : State :=
  let h := hartAt s core
  if slotState h n = 1 then onCore (parkAtHome s (slotOwner h n)) core (fun h => setSlotState h n 4)
  else if slotState h n = 2 then
    let who := slotOwner h n
    let s1 := { s with
      pushes := s.pushes.filter (fun p => p.who != who), bounces := s.bounces.filter (fun p => p.who != who) }
    match s1.unstands.find? (fun u => u.core == core && u.slot == n) with
    | some u =>
      onCore { s1 with unstands := s1.unstands.filter (fun x => !(x.core == core && x.slot == n)) } core (fun h =>
        writePending (setSlotState h n 0) u.rd (statusWord 8 0 (received h n) (slotSeq h n).toNat))
    | none => onCore s1 core (fun h => setSlotState h n 0)
  else s

/-- Marks of uncorrectable words in a core's own memories gone when they are zeroed (R64, R394). -/
def clearBad (s : State) (core : Nat) : State :=
  { s with bad := s.bad.filter (fun b => match b with
      | .sdm c _ | .spad c _ | .sreg c _ | .vslot c _ | .mask c .. | .acc c _ => c != core
      | _ => true) }

/-- The image of a stopped hart: its accumulators only in matrix mode (R318). -/
def imageOf (h : Hart) : Hart :=
  { h with
    run := .running, stopping := none, dump := false
    vec := { h.vec with acc := if h.vec.matrix then h.vec.acc else [] } }

/-- The timeout point of a stopped hart whose `WAITSL` still waits. -/
def stillWaits (s : State) (h : Hart) : Option Nat :=
  match h.run with
  | .stopped (some (n, due)) => if (stallAnswer h n s.clock due).isNone then some due else none
  | _ => none

/-- One hart saved into a slot (R319), and its core freed. -/
def saveHart (s : State) (core slot : Nat) (parked : Option Nat) : State :=
  let s1 := cleanL1 (flushHart s core) core
  let s2 := (List.range 1024).foldl (fun s n => switchOut s core n) s1
  let h := hartAt s2 core
  let image := imageOf h
  let k : Husk := {
    part := partOf h, slot := slot, image := image, parked := parked, woken := false, held := h.stopping == some .hold,
    dump := h.dump, resumed := false, runnable := parked.isNone && h.stopping != some .hold,
    arrival := s.clock, rise := s.clock, cls := (h.owner.map (·.cls)).getD 0 }
  let s3 := writeImage { s2 with husks := s2.husks ++ [k] } (partOf h) slot parked.isSome h.dump image
  clearBad (onCore s3 core recycle) core

/-- What a stopped gang still waits for before its close point (R316): the store buffer drains, so that a plain load before
a store that it holds has its data; other plain loads are recorded as pending (R172). -/
def owed (s : State) (hs : List Hart) : Bool :=
  hs.any (fun h => !h.launchReqs.isEmpty || s.stands.any (fun a => a.core == h.core) ||
    h.loads.any (fun l => h.buffer.any (fun st => decide (l.id < st.mark))))

/-- HUSK_SAVE: the gang on a core reaches its close point; every member is saved and the cores are freed. -/
def execHuskSave (core : CoreId) (s : State) : Out :=
  let hs := gangNow (focus s core.val)
  let h := hartAt s core.val
  match h.run, h.owner with
  | .stopped _, some o =>
    if owed s hs then .next s
    else
      let parked := if h.stopping = some .park then (hs.filterMap (stillWaits s)).min? else none
      let slots := emptySlots s o.part
      if slots.length < hs.length then .next s
      else .next (((hs.map (·.core)).zip slots).foldl (fun s x => saveHart s x.1 x.2 parked) s)
  | _, _ => .next s

/-! ### Waking and releasing (R314, R390) -/

/-- A husk's gang becomes runnable: it arrives now (R310). -/
def makeRunnable (s : State) (k : Husk) : State :=
  onGroup s k (fun x => { x with runnable := true, woken := false, held := false, arrival := s.clock, rise := s.clock })

/-- HUSK_WAKE: a wake for a parked husk arrives. -/
def execHuskWake (p : PartId) (i : Fin 128) (s : State) : Out :=
  match huskIn s p.val i.val with
  | some k => .next (if k.woken && k.parked.isSome && !k.held && !k.runnable then makeRunnable s k else s)
  | none => .next s

/-- PARK_TIMEOUT: the timeout recorded with a parked husk falls due. -/
def execParkTimeout (p : PartId) (i : Fin 128) (s : State) : Out :=
  match huskIn s p.val i.val with
  | some k =>
    (match k.parked with
      | some due => .next (if due ≤ s.clock && !k.held && !k.runnable && !k.resumed then makeRunnable s k else s)
      | none => .next s)
  | none => .next s

/-- HUSK_RELEASE: the requester releases a held husk. -/
def execHuskRelease (p : PartId) (i : Fin 128) (s : State) : Out :=
  match huskIn s p.val i.val with
  | some k => .next (if k.held then makeRunnable s k else s)
  | none => .next s

/-- DUMP_REQUEST: one gang is stopped for a dump, if a husk slot is free; a gang that is being stopped, or is a husk
already, is dumped from the one husk (R390). -/
def execDumpRequest (p : PartId) (id : BitVec 24) (g : Fin 128) (s : State) : Out :=
  match s.harts.find? (fun h => match h.owner with
      | some o => o.part == p.val && o.launch == id.toNat && o.gang == g.val && o.member == 0
      | none => false) with
  | some h =>
    let hs := gangNow (focus s h.core)
    let mark := fun (s : State) => hs.foldl (fun s x => onCore s x.core (fun y => { y with dump := true })) s
    if h.stopping.isSome then .next (mark s)
    else .next (if hs.length ≤ freeSlots s p.val then mark (requestStop s h.core .preempt) else s)
  | none =>
    .next ((groupHusks s p.val id.toNat g.val).foldl (fun s k =>
      writeImage { s with husks := s.husks.map (fun x => if x.part = k.part ∧ x.slot = k.slot then { x with dump := true } else x) }
        k.part k.slot k.parked.isSome true k.image) s)

/-- DUMP_RELEASE: firmware gives a dump-held slot back. -/
def execDumpRelease (p : PartId) (i : Fin 128) (s : State) : Out :=
  match huskIn s p.val i.val with
  | some k =>
    if !k.dump then .next s
    else if k.resumed then
      .next { s with husks := s.husks.filter (fun x => !(x.part == p.val && x.slot == i.val)) }
    else .next { s with husks := s.husks.map (fun x => if x.part = p.val ∧ x.slot = i.val then { x with dump := false } else x) }
  | none => .next s

/-! ### Resuming (R225, R226, R320) -/

/-- The re-arm of a PARKED slot sent to its home with its received count. -/
def rearmSlot (s : State) (h : Hart) (n : Nat) : State :=
  let who := slotOwner h n
  (s.directory.filter (fun d => d.subs.any (fun b => b.who == who))).foldl (fun s d =>
    atHome s d.pa who (fun b => if b.parked then { b with rearm := some (received h n, slotSeq h n) } else b)) s

/-- A husk restored to its core, with the status words that its engines have completed into it; the core's own units stay
the core's.  Its pending plain loads are to be issued again. -/
def resumeHart (s : State) (k : Husk) : State :=
  let c := hartAt s k.image.core
  let h := deliverTable (readImage s k.part k.slot k.image)
  let parked := (List.range 1024).filter (fun n => slotState h n == 4)
  let h1 := parked.foldl (fun h n => setSlotState h n 1) h
  let h2 : Hart := { h1 with
    owner := h1.owner.map (fun o => { o with cls := k.cls, since := s.clock })
    banks := c.banks, quantum := c.quantum, quantumStart := c.quantumStart, trace := c.trace, closed := c.closed
    tlb := c.tlb, fetched := c.fetched
    loads := [], reissue := h1.reissue ++ h1.loads.map (fun l => (l, false)) }
  parked.foldl (fun s n => rearmSlot s h n) (onCore (clearBad s k.image.core) k.image.core (fun _ => h2))

/-- The husk records once their gang has resumed: those of a dump stay, without what is under way (R390). -/
def dropHusks (s : State) (k : Husk) : State :=
  { s with husks := s.husks.filterMap (fun x =>
      if x.part = k.part ∧ !x.resumed ∧ huskGang x = huskGang k then
        (if x.dump then some { x with
            resumed := true, runnable := false, parked := none, image := { x.image with engines := [], loop := none } }
          else none)
      else some x) }

/-- A gang resumed from its husks; a husk with an uncorrectable word ends its launch instead, and its slot is kept as if
dump-held; each is logged (R394). -/
def resumeGroup (s : State) (part launch gang : Nat) : State :=
  let ks := groupHusks s part launch gang
  match ks with
  | [] => s
  | k :: _ =>
    if ks.any (fun x => badImage s part x.slot) then
      let kept := (ks.filter (fun x => badImage s part x.slot)).map (fun x => { x with
        dump := true, resumed := true, runnable := false, parked := none,
        image := { x.image with engines := [], loop := none } })
      let u := kept.foldl (fun s x => logPlace s (huskBase s part x.slot)) s
      let t := endLaunchFor u part launch
      { t with husks := t.husks ++ kept }
    else dropHusks (ks.foldl resumeHart s) k

end Sys2Proof.Machine
end

