-- ==== Sys2Proof/Machine/Dispatcher.lean ====
section
/-! DEFINITION. The arbiter (R4, R170, R310 to R314, R322, R372): candidates, aging, dependences, dispatch rounds,
pre-emption by class, parking, and `YIELD`. -/

namespace Sys2Proof.Machine

/-! ### Cores -/

/-- The core sets of R4 for a gang size, by their lowest core. -/
def coreSet (size c : Nat) : Option (List Nat) :=
  if size = 1 then some [c]
  else if size = 2 then (if c % 2 = 0 then some [c, c + 1] else none)
  else if c % 8 = 0 ∨ c % 8 = 2 then some [c, c + 1, c + 4, c + 5]
  else none

/-- Whether a partition may dispatch a gang onto a core: it lies in CORES and in XMASK (R372). -/
def mayDispatch (s : State) (part c : Nat) : Bool :=
  match s.parts[part]? with
  | some p => p.cores.getLsbD c && p.xmask.getLsbD c
  | none => false

/-- A core on which nothing runs. -/
def idleCore (s : State) (c : Nat) : Bool := (hartAt s c).owner.isNone

/-- The lowest-numbered set of cores for a gang among those that `avail` allows (R4, R310). -/
def fitSet (s : State) (part size : Nat) (avail : Nat → Bool) : Option (List Nat) :=
  (List.range 128).findSome? (fun c =>
    (coreSet size c).bind (fun cs => if cs.all (fun x => mayDispatch s part x && avail x) then some cs else none))

/-! ### Candidates (R310) -/

/-- A dispatch candidate: the next gang of a launch, or the runnable husks of a gang; its class and its arrival. -/
structure Candidate where
  husk : Bool
  launch : Nat
  gang : Nat
  size : Nat
  cls : Nat
  arrival : Nat
  rise : Nat
  deriving DecidableEq, Repr

/-- The class that a dispatch round uses of a candidate: in the cycle of a rise the class before it (R313). -/
def roundClass (s : State) (cls arrival rise : Nat) : Nat :=
  if rise = s.clock ∧ arrival < rise then cls - 1 else cls

/-- The candidates of a partition: launches in order of entry, then husks. -/
def candidates (s : State) (part : Nat) : List Candidate :=
  (s.launches.filter (fun l => l.part == part && (entryState l == .ready || entryState l == .active))).map
    (fun l => ⟨false, l.id, l.dispatched, l.size, roundClass s l.current l.arrival l.rise, l.arrival, l.rise⟩) ++
  s.husks.filterMap (fun k => match k.image.owner with
    | some o =>
      if k.part = part ∧ k.runnable ∧ !k.resumed ∧ o.member = 0 then
        some ⟨true, o.launch, o.gang, o.size, roundClass s k.cls k.arrival k.rise, k.arrival, k.rise⟩
      else none
    | none => none)

/-- Whether a candidate comes before another: higher class, then earlier arrival. -/
def comesBefore (a b : Candidate) : Bool := decide (b.cls < a.cls ∨ (a.cls = b.cls ∧ a.arrival < b.arrival))

/-- The first of some candidates; of equals the first listed. -/
def firstOf (cs : List Candidate) : Option Candidate :=
  match cs with
  | [] => none
  | c :: rest => some (rest.foldl (fun m x => if comesBefore x m then x else m) c)

/-- The cores that a husk candidate left (R317). -/
def huskCores (s : State) (part : Nat) (c : Candidate) : List Nat :=
  (groupHusks s part c.launch c.gang).map (fun k => k.image.core)

/-- Whether a candidate fits the cores that `avail` allows. -/
def fitsIn (s : State) (part : Nat) (c : Candidate) (avail : Nat → Bool) : Bool :=
  if c.husk then (huskCores s part c).all avail else (fitSet s part c.size avail).isSome

/-- AGING_RISE: the k-th candidate has waited AGE cycles and rises one class, up to 3, once in a cycle. -/
def execAgingRise (p : PartId) (k : Nat) (s : State) : Out :=
  match (candidates s p.val)[k]?, s.parts[p.val]? with
  | some c, some b =>
    if c.rise + b.age.toNat ≤ s.clock ∧ c.rise < s.clock ∧ c.cls < 3 then
      .next (if c.husk then
        { s with husks := s.husks.map (fun x =>
            if x.part = p.val ∧ !x.resumed ∧ huskGang x = (c.launch, c.gang) then { x with cls := x.cls + 1, rise := s.clock } else x) }
      else onLaunch s p.val c.launch (fun l => { l with current := l.current + 1, rise := s.clock }))
    else .next s
  | _, _ => .next s

/-! ### Dependences (R311) -/

/-- DEPENDENCE_SATISFIED: the oldest push on a dependence's word arrives at the arbiter. -/
def execDependenceSatisfied (p : PartId) (id : BitVec 24) (d : Fin 2) (s : State) : Out :=
  let who : Subscriber := .dependence p.val id.toNat d.val
  match s.pushes.find? (fun x => x.who == who && x.transit == .mesh) with
  | none => .next s
  | some x =>
    .next (if recovering s x.endpoint = 0 then deliver (unsuspect { s with pushes := s.pushes.erase x } x.id) x else s)

/-- DEPENDENCE_POLL: the arbiter reads a word whose subscription its home refused, every 4,096 cycles. -/
def execDependencePoll (p : PartId) (id : BitVec 24) (d : Fin 2) (s : State) : Out :=
  match (launchAt s p.val id.toNat).bind (fun l => l.deps[d.val]?) with
  | none => .next s
  | some x =>
    if x.refused ∧ !x.done ∧ x.polled + 4096 ≤ s.clock then
      let y : Dependence := { x with done := (word8 s x.pa).toNat.testBit 63, polled := s.clock }
      .next (settleLaunch (onLaunch s p.val id.toNat (fun l => { l with deps := l.deps.set d.val y })) p.val id.toNat)
    else .next s

/-! ### Dispatch (R41, R310, R320, R322) -/

/-- A hart at its start (R41): zeroed, in kernel mode at the launch's entry, TVEC from SVEC; the hypervisor hart in
hypervisor mode, with a TVEC that it sets itself (R322).  Its local memories are zeroed whoever ran on the core before, the same
launch too (log 2). -/
def startHart (s : State) (l : Launch) (leader core member : Nat) : State :=
  let svec := if l.hyper then 0 else pcpWord s l.part 0x28
  clearBad (onCore s core (fun g =>
    let h := recycle g
    { h with
      regs := startRegs l.arg
      pc := alignPc l.entry
      run := .running
      csr := { Csr.start core svec with status := if l.hyper then 2 else 0 }
      owner := some ⟨l.part, l.id, l.dispatched, member, l.size, leader, l.current, s.clock⟩ })) core

/-- The next gang of a launch dispatched onto some cores. -/
def startGang (s : State) (l : Launch) (cores : List Nat) : State :=
  let t := (cores.zipIdx).foldl (fun s x => startHart s l (cores.headD 0) x.1 x.2) s
  onLaunch t l.part l.id (fun l => { l with dispatched := l.dispatched + 1 })

/-- A candidate dispatched. -/
def dispatch (s : State) (part : Nat) (c : Candidate) : State :=
  if c.husk then resumeGroup s part c.launch c.gang
  else
    match launchAt s part c.launch, fitSet s part c.size (idleCore s) with
    | some l, some cores => startGang s l cores
    | _, _ => s

/-! ### Pre-emption (R314) -/

/-- The leaders of the gangs of a partition that run and are not being stopped. -/
def runningLeaders (s : State) (part : Nat) : List Hart :=
  s.harts.filter (fun h => match h.owner with
    | some o => o.part == part && o.member == 0 && h.stopping.isNone
    | none => false)

/-- The class that counts for a hart (R310). -/
def classHeld (h : Hart) : Nat := (h.owner.map (·.cls)).getD 0

/-- When a hart was dispatched. -/
def sinceOf (h : Hart) : Nat := (h.owner.map (·.since)).getD 0

/-- Whether `a` is pre-empted before `b`: lower class, then more recently dispatched. -/
def yieldsBefore (a b : Hart) : Bool :=
  decide (classHeld a < classHeld b ∨ (classHeld a = classHeld b ∧ sinceOf b < sinceOf a))

/-- The first of some harts under an order. -/
def firstHart (before : Hart → Hart → Bool) (hs : List Hart) : Option Hart :=
  match hs with
  | [] => none
  | h :: rest => some (rest.foldl (fun m x => if before x m then x else m) h)

/-- Cores that are free, or that a stop under way frees. -/
def freeing (s : State) (c : Nat) : Bool := idleCore s c || (hartAt s c).stopping.isSome

/-- Gangs of lower class stopped one by one until a gang of `size` fits, while husk slots last. -/
def evict (s : State) (part size cls fuel : Nat) : State :=
  match fuel with
  | 0 => s
  | fuel + 1 =>
    if (fitSet s part size (freeing s)).isSome then s
    else
      match firstHart yieldsBefore ((runningLeaders s part).filter (fun h =>
          decide (classHeld h < cls ∧ gangSize h ≤ freeSlots s part))) with
      | none => s
      | some v => evict (requestStop s v.core .preempt) part size cls fuel

/-- Pre-emption for the first candidate, which does not fit. -/
def preemptFor (s : State) (part : Nat) (c : Candidate) : State :=
  if c.husk then
    let cores := huskCores s part c
    let vs := (runningLeaders s part).filter (fun h => (gangNow (focus s h.core)).any (fun g => cores.contains g.core))
    let need := vs.foldl (fun n h => n + gangSize h) 0
    if vs.all (fun h => decide (classHeld h < c.cls)) && decide (need ≤ freeSlots s part) then
      vs.foldl (fun s h => requestStop s h.core .preempt) s
    else s
  else evict s part c.size c.cls 128

/-- When a gang began to stall in `WAITSL`, if one of its harts does. -/
def stalledSince (s : State) (h : Hart) : Option Nat :=
  (gangNow (focus s h.core)).findSome? (fun g => match g.run with
    | .waitSlot _ _ since _ => some since
    | _ => none)

/-- Whether `a` is parked before `b`: lower class, then longer stalled, then the lower core (R314). -/
def parksBefore (s : State) (a b : Hart) : Bool :=
  let t := fun h => (stalledSince s h).getD 0
  decide (classHeld a < classHeld b ∨ (classHeld a = classHeld b ∧ (t a < t b ∨ (t a = t b ∧ a.core < b.core))))

/-- One gang that stalls in `WAITSL` parked, if there is one and its slots are free. -/
def parkOne (s : State) (part : Nat) : State :=
  match firstHart (parksBefore s) ((runningLeaders s part).filter (fun h =>
      (stalledSince s h).isSome && decide (gangSize h ≤ freeSlots s part))) with
  | some h => requestStop s h.core .park
  | none => s

/-- DISPATCH_ROUND: the first candidate that fits is dispatched; where the first does not fit, lower classes are
pre-empted for it; where some candidate does not fit, a stalled gang is parked. -/
def execDispatchRound (p : PartId) (s : State) : Out :=
  let part := p.val
  let cs := candidates s part
  let fits := fun c => fitsIn s part c (idleCore s)
  match firstOf cs with
  | none => .next s
  | some f =>
    let s1 := if fits f then s else preemptFor s part f
    let s2 := if cs.all fits then s1 else parkOne s1 part
    match firstOf (cs.filter fits) with
    | none => .next s2
    | some c => .next (dispatch s2 part c)

/-! ### YIELD (R170) -/

/-- Whether the arbiter takes the cores that a gang's `YIELD` offers: a ready launch of its class or higher whose gang
fits them, and husk slots. -/
def yieldTaken (s : State) (l : Hart) : Bool :=
  let part := partOf l
  let cores := (gangNow (focus s l.core)).map (·.core)
  decide (gangSize l ≤ freeSlots s part) && l.stopping.isNone &&
    (candidates s part).any (fun c => !c.husk && decide (classHeld l ≤ c.cls) &&
      (fitSet s part c.size (fun x => cores.contains x)).isSome)

/-- YIELD: the leader's offer; the gang stops at the next instruction if it is taken. -/
def execYield (s : State) : Out :=
  let s1 := eachMember s (gangNow s) (fun t => .next (advance t))
  let l := leaderNow s
  .next (if l.owner.isSome && yieldTaken s l then stopGang s1 l.core .preempt else s1)

end Sys2Proof.Machine
end

