-- ==== Sys2Proof/Machine/HostLink.lean ====
section
/-! DEFINITION. What the host and partition firmware do (R307, R322, R372 to R381, R391): CXL.mem, the mailbox, partition
blocks, starting a partition, resets, secure start, SPDM and IDE. -/

namespace Sys2Proof.Machine

/-! ### CXL.mem (R108, R373, R394) -/

/-- Whether a lost line lies in a range that does not cover it whole: such a write is not performed (R394). -/
def partialLost (s : State) (pa n : Nat) : Bool :=
  s.bad.any (fun b => match b with
    | .lostLine l =>
      let lo := l / 64 * 64
      decide (lo < pa + n ∧ pa < lo + 64) && !decide (pa ≤ lo ∧ lo + 64 ≤ pa + n)
    | _ => false)

/-- Lines that a range covers whole lose their marks (R394). -/
def clearCovered (s : State) (pa n : Nat) : State :=
  { s with bad := s.bad.filter (fun b => match b with
      | .lostLine l => let lo := l / 64 * 64; !decide (pa ≤ lo ∧ lo + 64 ≤ pa + n)
      | _ => true) }

/-- The device physical address behind a host physical address, where the decoder covers it (R373). -/
def devicePa (s : State) (pa : PAddr) : Option Nat :=
  if s.decoder ≤ pa.toNat ∧ pa.toNat - s.decoder < localBytes s then some (pa.toNat - s.decoder) else none

/-- HOST_MEM_WRITE: up to 64 bytes within a line of local memory, performed at their home.  The host's own copy of the line
is no older than what it writes. -/
def execHostMemWrite (pa : PAddr) (bs : List Byte) (s : State) : Out :=
  let n := bs.length
  .next (match devicePa s pa with
    | none => s
    | some a =>
      if !s.cxlMem || decide (localBytes s < a + n) || decide (64 < a % 64 + n) || partialLost s a n then s
      else
        let qos := bits s.netctl 16 2
        let s := atHomeOf s (.phys a)
        let t := classPushes s.pushes.length qos (writeBytes (clearCovered s a n) none a bs)
        { t with hostLines := s.hostLines })

/-- The host keeps a copy of the lines of a range that it has read (R94), but of none in the footprint of a near-bank command or
a replay (R350). -/
def hostCopies (s : State) (a n : Nat) : List (Nat × Bool) :=
  let ls := (List.range ((a + n + 63) / 64 - a / 64)).map (fun i => a / 64 + i)
  s.hostLines.filter (fun x => !ls.contains x.1) ++ (ls.filter (fun l => !uncached s (64 * l))).map (fun l => (l, false))

/-- HOST_MEM_READ: the bytes that the home holds go to the host, or it is told that they are uncorrectable. -/
def execHostMemRead (pa : PAddr) (n : Fin 65) (s : State) : Out :=
  .next (match devicePa s pa with
    | none => s
    | some a =>
      if !s.cxlMem || decide (localBytes s < a + n.val) then s
      else
      let s := atHomeOf (atHomeOf s (.phys a)) (.phys (a + n.val - 1))
      if badMem s a n.val then
        logPlace { s with outbox := .hostFailed a :: s.outbox } a
      else { s with outbox := .hostRead a (readBytes s a n.val) :: s.outbox, hostLines := hostCopies s a n.val })

/-- NOTIFY: the mailbox word written, which raises its vector (R376). -/
def execNotify (p : PartId) (v : Word) (s : State) : Out :=
  let b := s.parts[p]
  .next (if b.active = 0 ∨ b.mboxAddr = 0 then s else writeHome s none (b.mboxAddr.toNat + 8) 8 v.toNat)

/-- The oldest interrupt message of a partition sent (R376); those of different partitions keep no order (R119). -/
def sendInterrupt (s : State) (p : Nat) : State :=
  match s.msix.find? (fun v => v / 32 == p) with
  | some v => { s with msix := s.msix.erase v, outbox := .interrupt v :: s.outbox }
  | none => s

/-- BDONE_WRITE: the host advances BDONE over CXL.mem (R307, R327). -/
def execBdoneWrite (p : PartId) (v : Word) (s : State) : Out :=
  .next (if s.cxlMem && s.parts[p].active != 0 then setPcpWord s p.val 0x40 v else s)

/-! ### BAR0 (R373, R374) -/

/-- The 8-byte word at an offset of a partition's block. -/
def partWord (p : Partition) (o : Nat) : Word :=
  match o / 8 with
  | 0 => p.cores.extractLsb' 0 64
  | 1 => p.cores.extractLsb' 64 64
  | 2 => p.xmask.extractLsb' 0 64
  | 3 => p.xmask.extractLsb' 64 64
  | 4 => p.pcpAddr
  | 5 => p.mboxAddr
  | 6 => p.hostWin
  | 7 => p.active
  | _ => 0

/-- The 8-byte word at an offset of BAR0. -/
def barWord (s : State) (o : Nat) : Word :=
  if o / 8 = 0 then Config.ident
  else if o / 8 = 1 then Config.stepId
  else if o / 8 = 2 then s.enstk.zeroExtend 64
  else if o / 8 = 3 then s.bootst
  else if o / 8 = 0x200 then s.netctl
  else if 0x2000 ≤ o ∧ o < 0x2040 then ((s.hbm[(o - 0x2000) / 8]?).map (·.mcstk)).getD 0
  else if 0x3000 ≤ o ∧ o < 0x3400 then
    let w := leaseWords s ((o - 0x3000) / 16)
    if o / 8 % 2 = 0 then w.1 else w.2
  else if 0x10000 ≤ o ∧ o < 0x20000 then ((s.parts[(o - 0x10000) / 0x1000]?).map (fun p => partWord p (o % 0x1000))).getD 0
  else 0

/-- The host reads a word of BAR0. -/
def readBar (s : State) (o : Nat) : State := { s with outbox := .barRead o (barWord s o) :: s.outbox }

/-! ### Partition blocks (R372, R374) -/

/-- A partition changed. -/
def setPart (s : State) (p : PartId) (f : Partition → Partition) : State :=
  { s with parts := s.parts.set p (f s.parts[p]) }

/-- A core that a hart or a husk uses. -/
def coreUsed (s : State) (c : Nat) : Bool := (hartAt s c).owner.isSome || s.husks.any (fun k => k.image.core == c)

/-- A core that another partition has. -/
def coreElsewhere (s : State) (p : PartId) (c : Nat) : Bool :=
  (List.finRange 16).any (fun q => q != p && s.parts[q].cores.getLsbD c)

/-- A core that leaves its partition: the guest's claims are released, and its banks, whoever holds them, zeroed (R382). -/
def leavePartition (h : Hart) : Hart :=
  { h with
    banks := h.banks.map (fun b => { Bank.start with holder := if b.holder = some .guest then none else b.holder })
    trace := if h.trace.holder = some .guest then Trace.start else h.trace }

/-- CORES_WRITE: ignored as a whole where it moves a core in use, or takes one that another partition has. -/
def execCoresWrite (p : PartId) (v : BitVec 128) (s : State) : Out :=
  let old := s.parts[p].cores
  let moved := (List.range 128).filter (fun c => old.getLsbD c != v.getLsbD c)
  .next (if moved.any (fun c => coreUsed s c || (v.getLsbD c && coreElsewhere s p c)) then s
    else onHarts (setPart s p (fun b => { b with cores := v })) (fun h =>
      if old.getLsbD h.core && !v.getLsbD h.core then restartQuantum h (leavePartition h) s.clock else h))

/-- XMASK_WRITE: bits of other partitions' cores are ignored. -/
def execXmaskWrite (p : PartId) (v : BitVec 128) (s : State) : Out :=
  let others := (List.finRange 16).foldl (fun m q => if q = p then m else m ||| s.parts[q].cores) 0#128
  .next (setPart s p (fun b => { b with xmask := v &&& ~~~ others }))

/-- PARTITION_BLOCK_WRITE: while ACTIVE is 0 (R374).  The word is stored as written, a misaligned MBOXADDR too (log 41). -/
def execPartitionBlockWrite (p : PartId) (f : BlockField) (v : Word) (s : State) : Out :=
  .next (if s.parts[p].active ≠ 0 then s
    else setPart s p (fun b => match f with
      | .pcpAddr => { b with pcpAddr := v }
      | .mboxAddr => { b with mboxAddr := v }
      | .hostWin => { b with hostWin := v }))

/-- A launch that firmware starts, of one hart in class 3, with no completion word and no entry of the store (R322, R376,
log 32). -/
def firmwareLaunch (s : State) (p id : Nat) (entry arg : Word) (hyper : Bool) : Launch where
  part := p
  id := id
  entry := entry
  arg := arg
  size := 1
  cls := 3
  gangs := 1
  completion := none
  deps := []
  dispatched := 0
  gone := 0
  ended := 0
  flags := 0
  current := 3
  arrival := s.clock
  rise := s.clock
  hyper := hyper
  failed := false

/-- ACTIVE_WRITE: ACTIVE written, once firmware runs; when it becomes set, the partition's foreman and any hypervisor hart start, and
its identifiers start at 1 (R308, R322, R376, R379). -/
def execActiveWrite (p : PartId) (v : Word) (fw : FirmwareStart) (s : State) : Out :=
  let old := s.parts[p].active
  let s1 := setPart s p (fun b => { b with active := v })
  if !firmwareRuns s then .next s
  else if old ≠ 0 ∨ v = 0 then .next s1
  else
    let hyper := match fw.hypervisor with
      | some (e, a, _) => [firmwareLaunch s p.val 0xFFFFFF e a true]
      | none => []
    let s2 := setPart s1 p (fun b => { b with nextId := 1, stage2 := fw.hypervisor.map (fun x => x.2.2.toNat) })
    .next (updateFree { s2 with
      launches := s2.launches ++ hyper ++ [firmwareLaunch s p.val 0 fw.foremanEntry fw.foremanArg false] })

/-! ### Resets and secure start (R378, R379, R391) -/

/-- COLD_RESET: the module as at power-on; the host's own memory and what it was sent are the host's. -/
def execColdReset (s : State) : Out :=
  .next { State.reset with
    hostMem := s.hostMem, outbox := s.outbox, decoder := s.decoder, fresh := s.fresh, agenda := s.agenda }

/-- WARM_RESET: the compute dies are reset; DRAM, the stacks enabled, device time and the pit logs stay, and so does a failed
boot (R379); every die logs the reset (log 37). -/
def execWarmReset (s : State) : Out :=
  let t : State := { State.reset with
    mem := s.mem, decoder := s.decoder, bad := s.bad.filter (fun b => match b with
      | .dram _ => true
      | _ => false)
    hostMem := s.hostMem, outbox := s.outbox, fresh := s.fresh, agenda := s.agenda, enstk := s.enstk,
    hbm := s.hbm.map (fun k => { Stack.start with mcstk := setBits Stack.start.mcstk 0 1 (bits k.mcstk 0 1) })
    clock := s.clock, lampSeen := s.clock, pits := s.pits, bootst := if bits s.bootst 0 8 = 0xF then s.bootst else 0 }
  .next ((List.range 4).foldl (fun s d => logPit s d 6 0 0x40 0) t)

/-- Whether the boot ROM's step `k` passes: the image is read from flash, its signature verified, its security version checked against
the fused rollback counter, firmware measured and started and the stacks and links brought up (R378). -/
def bootPasses (fw : BootImage) (k : Nat) : Bool :=
  match k with
  | 1 => fw.readable
  | 2 => fw.signatureOk
  | 3 => decide (fw.rollback ≤ fw.version)
  | _ => fw.bringUpOk

/-- What step 4 brings up: the measurements, the stacks that are enabled, CXL.mem unless IDE is required (R378, R380, R381). -/
def bringUp (s : State) (fw : BootImage) : State :=
  { s with
    enstk := fw.enabled, requireIde := fw.requireIde, cxlMem := !fw.requireIde
    digests := (fw.romDigest, fw.imageDigest, fw.foremanDigest)
    hbm := s.hbm.mapFinIdx (fun k st _ => { st with
      mcstk := setBits st.mcstk 0 1 (if fw.enabled.getLsbD k then 1 else 0) }) }

/-- POWER_ON: the boot ROM takes up an image at BOOTST 0 and then ends the step that BOOTST reports, with that image: the next step,
firmware ready after step 4, or 0xF with the step that failed, until a cold reset (R378, R379). -/
def execPowerOn (fw : BootImage) (s : State) : Out :=
  let k := s.bootst.toNat
  let x := s.booting.getD fw
  .next (if k = 0 then { s with bootst := 1, booting := some fw }
    else if 5 ≤ k then s
    else if !bootPasses x k then { s with bootst := word (0xF + 256 * k), booting := none }
    else if k < 4 then { s with bootst := word (k + 1) }
    else { bringUp s x with bootst := 5, booting := none })

/-! ### SPDM and IDE (R380, R381; log 21) -/

/-- The algorithms that the responder supports (R380). -/
def spdmAlgorithms : List Algorithm :=
  [.signing "SLH-DSA-SHA2-128s" true, .hash "SHA-256", .keyExchange "DHE secp384r1", .aead "AES-256-GCM"]

/-- What the SPDM responder answers: the request's number, whether it accepts it, what the spec leaves open of the
answer, a measurement's digest, and to `NEGOTIATE_ALGORITHMS` (request 3) the algorithms. -/
def respond (s : State) (request : Nat) (ok : Bool) (digest : BitVec 256) (next : Spdm) : Out :=
  .next { s with
    outbox := .spdm request ok (Config.spdmBody s.fresh) digest (if ok && request == 3 then spdmAlgorithms else []) :: s.outbox
    fresh := s.fresh + 1, spdm := if ok then next else s.spdm }

/-- A connection is negotiated. -/
def negotiated (s : State) : Bool := firmwareRuns s && s.spdm.stage == 3

/-- GET_VERSION: starts a connection. -/
def execGetVersion (s : State) : Out := respond s 1 (firmwareRuns s) 0 ⟨1, false, false⟩
/-- GET_CAPABILITIES. -/
def execGetCapabilities (s : State) : Out := respond s 2 (firmwareRuns s && s.spdm.stage == 1) 0 { s.spdm with stage := 2 }
/-- NEGOTIATE_ALGORITHMS. -/
def execNegotiateAlgorithms (s : State) : Out :=
  respond s 3 (firmwareRuns s && s.spdm.stage == 2) 0 { s.spdm with stage := 3 }
/-- GET_DIGESTS. -/
def execGetDigests (s : State) : Out := respond s 4 (negotiated s) 0 s.spdm
/-- GET_CERTIFICATE. -/
def execGetCertificate (s : State) : Out := respond s 5 (negotiated s) 0 s.spdm
/-- CHALLENGE. -/
def execChallenge (s : State) : Out := respond s 6 (negotiated s) 0 s.spdm

/-- What measurement 3 covers: CORES, XMASK and block ownership (R380). -/
def configText (s : State) : List Nat :=
  (List.finRange 16).flatMap (fun p => [s.parts[p].cores.toNat, s.parts[p].xmask.toNat]) ++
  s.blocks.toList.map (fun b => match b with
    | .free => 0
    | .owned p => 16 + p
    | .removing p => 32 + p
    | .scrubbing p => 48 + p
    | .lent => 1)

/-- GET_MEASUREMENTS: the digest with index `m` (R380). -/
def execGetMeasurements (m : BitVec 8) (s : State) : Out :=
  let d := s.digests
  let x : Option (BitVec 256) := match m.toNat with
    | 1 => some d.1
    | 2 => some d.2.1
    | 3 => some (Config.configDigest (configText s))
    | 4 => some d.2.2
    | _ => none
  respond s 7 (negotiated s && x.isSome) (x.getD 0) s.spdm

/-- KEY_EXCHANGE. -/
def execKeyExchange (s : State) : Out := respond s 8 (negotiated s) 0 { s.spdm with handshake := true }
/-- FINISH: the session of a key exchange stands. -/
def execFinish (s : State) : Out :=
  respond s 9 (negotiated s && s.spdm.handshake) 0 { s.spdm with handshake := false, session := true }
/-- END_SESSION. -/
def execEndSession (s : State) : Out := respond s 10 (negotiated s && s.spdm.session) 0 { s.spdm with session := false }

/-- IDE_KM: keys for a module's stream, within a session; the link opens once all four have one. -/
def execIdeKm (m : Fin 4) (s : State) : Out :=
  .next (if !s.spdm.session then s
    else
      let ide := s.ide ||| (1#4 <<< m.val)
      { s with ide := ide, cxlMem := s.cxlMem || (s.requireIde && ide == 0xF) })

/-- IDE_STREAM_FAILURE: where IDE is required the link closes again; the event is logged. -/
def execIdeStreamFailure (m : Fin 4) (s : State) : Out :=
  .next (if !s.ide.getLsbD m.val then s
    else logPit { s with
      ide := s.ide &&& ~~~ (1#4 <<< m.val), cxlMem := s.cxlMem && !s.requireIde } 0 4 m.val 0x02 0)

end Sys2Proof.Machine
end

