-- ==== Sys2Proof/Machine/Integer.lean ====
section
/-! DEFINITION. The integer register and immediate instructions (R152 to R154). -/

namespace Sys2Proof.Machine

/-- The count of a shift: the low six bits (R152). -/
def shiftCount (y : Word) : Nat := y.toNat % 64

/-- Signed quotient under R153. -/
def sdiv (x y : Word) : Word := if y = 0 then BitVec.allOnes 64 else wordI (x.toInt.tdiv y.toInt)
/-- Unsigned quotient under R153. -/
def udiv (x y : Word) : Word := if y = 0 then BitVec.allOnes 64 else word (x.toNat / y.toNat)
/-- Signed remainder under R153. -/
def srem (x y : Word) : Word := if y = 0 then x else wordI (x.toInt.tmod y.toInt)
/-- Unsigned remainder under R153. -/
def urem (x y : Word) : Word := if y = 0 then x else word (x.toNat % y.toNat)

/-- ADD. -/
def execAdd (d a b : SReg) (s : State) : Out := writeResult s d (getReg s a + getReg s b)
/-- SUB. -/
def execSub (d a b : SReg) (s : State) : Out := writeResult s d (getReg s a - getReg s b)
/-- MUL. -/
def execMul (d a b : SReg) (s : State) : Out := writeResult s d (getReg s a * getReg s b)
/-- MULH. -/
def execMulh (d a b : SReg) (s : State) : Out :=
  writeResult s d (wordI ((getReg s a).toInt * (getReg s b).toInt / 2 ^ 64))
/-- MULHU. -/
def execMulhu (d a b : SReg) (s : State) : Out :=
  writeResult s d (word ((getReg s a).toNat * (getReg s b).toNat / 2 ^ 64))
/-- DIV. -/
def execDiv (d a b : SReg) (s : State) : Out := writeResult s d (sdiv (getReg s a) (getReg s b))
/-- DIVU. -/
def execDivu (d a b : SReg) (s : State) : Out := writeResult s d (udiv (getReg s a) (getReg s b))
/-- REM. -/
def execRem (d a b : SReg) (s : State) : Out := writeResult s d (srem (getReg s a) (getReg s b))
/-- REMU. -/
def execRemu (d a b : SReg) (s : State) : Out := writeResult s d (urem (getReg s a) (getReg s b))
/-- AND. -/
def execAnd (d a b : SReg) (s : State) : Out := writeResult s d (getReg s a &&& getReg s b)
/-- OR. -/
def execOr (d a b : SReg) (s : State) : Out := writeResult s d (getReg s a ||| getReg s b)
/-- XOR. -/
def execXor (d a b : SReg) (s : State) : Out := writeResult s d (getReg s a ^^^ getReg s b)
/-- SHL. -/
def execShl (d a b : SReg) (s : State) : Out := writeResult s d (getReg s a <<< shiftCount (getReg s b))
/-- SHR. -/
def execShr (d a b : SReg) (s : State) : Out := writeResult s d (getReg s a >>> shiftCount (getReg s b))
/-- SRA. -/
def execSra (d a b : SReg) (s : State) : Out :=
  writeResult s d ((getReg s a).sshiftRight (shiftCount (getReg s b)))
/-- SLT. -/
def execSlt (d a b : SReg) (s : State) : Out := writeResult s d (bit ((getReg s a).slt (getReg s b)))
/-- SLTU. -/
def execSltu (d a b : SReg) (s : State) : Out := writeResult s d (bit ((getReg s a).ult (getReg s b)))
/-- MIN. -/
def execMin (d a b : SReg) (s : State) : Out :=
  writeResult s d (if (getReg s b).slt (getReg s a) then getReg s b else getReg s a)
/-- MAX. -/
def execMax (d a b : SReg) (s : State) : Out :=
  writeResult s d (if (getReg s a).slt (getReg s b) then getReg s b else getReg s a)
/-- MINU. -/
def execMinu (d a b : SReg) (s : State) : Out :=
  writeResult s d (if (getReg s b).ult (getReg s a) then getReg s b else getReg s a)
/-- MAXU. -/
def execMaxu (d a b : SReg) (s : State) : Out :=
  writeResult s d (if (getReg s a).ult (getReg s b) then getReg s b else getReg s a)
/-- CLZ. -/
def execClz (d a : SReg) (s : State) : Out := writeResult s d (word (leadingZeros (getReg s a)))
/-- CTZ. -/
def execCtz (d a : SReg) (s : State) : Out := writeResult s d (word (trailingZeros (getReg s a)))
/-- POPC. -/
def execPopc (d a : SReg) (s : State) : Out := writeResult s d (word (popCount (getReg s a).toNat 64))

/-- ADDI. -/
def execAddi (d a : SReg) (i : BitVec 16) (s : State) : Out := writeResult s d (getReg s a + simm i)
/-- ANDI. -/
def execAndi (d a : SReg) (i : BitVec 16) (s : State) : Out := writeResult s d (getReg s a &&& zimm i)
/-- ORI. -/
def execOri (d a : SReg) (i : BitVec 16) (s : State) : Out := writeResult s d (getReg s a ||| zimm i)
/-- XORI. -/
def execXori (d a : SReg) (i : BitVec 16) (s : State) : Out := writeResult s d (getReg s a ^^^ zimm i)
/-- SLTI. -/
def execSlti (d a : SReg) (i : BitVec 16) (s : State) : Out := writeResult s d (bit ((getReg s a).slt (simm i)))
/-- SLTIU. -/
def execSltiu (d a : SReg) (i : BitVec 16) (s : State) : Out := writeResult s d (bit ((getReg s a).ult (simm i)))
/-- SHLI. -/
def execShli (d a : SReg) (n : Fin 64) (s : State) : Out := writeResult s d (getReg s a <<< n.val)
/-- SHRI. -/
def execShri (d a : SReg) (n : Fin 64) (s : State) : Out := writeResult s d (getReg s a >>> n.val)
/-- SRAI. -/
def execSrai (d a : SReg) (n : Fin 64) (s : State) : Out := writeResult s d ((getReg s a).sshiftRight n.val)
/-- MOVHI: bits [31:16], the rest zero (R154). -/
def execMovhi (d : SReg) (i : BitVec 16) (s : State) : Out := writeResult s d (zimm i <<< 16)
/-- MOVK: halfword h replaced, the other three kept (R154). -/
def execMovk (d : SReg) (h : Fin 4) (i : BitVec 16) (s : State) : Out :=
  writeResult s d (setBits (getReg s d) (16 * h.val) 16 i.toNat)

end Sys2Proof.Machine
end

