-- ==== Sys2Proof/Machine/Masks.lean ====
section
/-! DEFINITION. Vector configuration (R181 to R184) and the mask instructions (R195). -/

namespace Sys2Proof.Machine

/-! ### Configuration -/

/-- VL granted for a request under the VTYPE and VRCFG in force, and written to rd (R181). -/
def grant (s : State) (d : SReg) (req : Word) : State :=
  let v := word (Nat.min req.toNat (vlmax s.hart.csr))
  advance (setReg (setCsr s (fun c => { c with vl := v })) d v)

/-- VSETVL. -/
def execVsetvl (d a : SReg) (s : State) : Out := guardWrite s d (.next (grant s d (getReg s a)))

/-- VSETVT: VTYPE is checked and written, then VL granted under it (R182). -/
def execVsetvt (d a : SReg) (i : BitVec 13) (s : State) : Out :=
  guardWrite s d (
    let v : Word := i.zeroExtend 64
    if vtypeOk v then .next (grant (setCsr s (fun c => { c with vtype := v })) d (getReg s a))
    else vecTrap s 0x02 0)

/-- VRCFG (R183). -/
def execVrcfg (n : Fin 4) (s : State) : Out :=
  .next (advance { s with hart := configure s.hart n.val })

/-- VTAG: the tag of a register or group, its bits unchanged (R184). -/
def execVtag (d : VReg) (t : Fin 16) (s : State) : Out :=
  if 5 ≤ t.val then vecTrap s 0x02 0
  else checkRegs s [d.val] (
    .next (advance { s with hart := setTags s.hart d.val (groupOf s.hart.csr) t.val }))

/-! ### Masks -/

/-- A mask register as a bit set. -/
def maskOf (h : Hart) (m : MReg) : Nat := (h.vec.masks[m.val]?).getD 0

/-- A bit set with bits `a` to `b - 1` taken from another. -/
def spliceBits (old v a b : Nat) : Nat := old % 2 ^ a + v % 2 ^ b / 2 ^ a * 2 ^ a + old / 2 ^ b * 2 ^ b

/-- Bits 0 to n - 1 of a mask written, then its tail (R177, R195). -/
def writeMask (s : State) (d : MReg) (v : Nat) : Out :=
  let h := s.hart
  let n := lengthOf h
  let z := groupStop h n
  let h1 := setMask h d.val (spliceBits (maskOf h d) v (Nat.min h.restart.start z) z)
  if z < n then pauseAt { s with hart := setMaskProgress h1 d.val (z / 64) false } h.vec.tags z false
  else .next (advance { s with hart := completedMask (if n = 0 then h else maskTail h1 d.val n) d.val n })

/-- MAND. -/
def execMand (d a b : MReg) (s : State) : Out := writeMask s d (maskOf s.hart a &&& maskOf s.hart b)
/-- MOR. -/
def execMor (d a b : MReg) (s : State) : Out := writeMask s d (maskOf s.hart a ||| maskOf s.hart b)
/-- MXOR. -/
def execMxor (d a b : MReg) (s : State) : Out := writeMask s d (maskOf s.hart a ^^^ maskOf s.hart b)
/-- The complement of the low n bits of a mask. -/
def maskNot (h : Hart) (m : MReg) : Nat := 2 ^ lengthOf h - 1 - maskOf h m % 2 ^ lengthOf h
/-- MANDN. -/
def execMandn (d a b : MReg) (s : State) : Out := writeMask s d (maskOf s.hart a &&& maskNot s.hart b)
/-- MNOT. -/
def execMnot (d a : MReg) (s : State) : Out := writeMask s d (maskNot s.hart a)
/-- MMOV. -/
def execMmov (d a : MReg) (s : State) : Out := writeMask s d (maskOf s.hart a)
/-- MPOPC: the count so far is the carry's (R31, R32). -/
def execMpopc (d : SReg) (a : MReg) (s : State) : Out :=
  guardWrite s d (
    let h := s.hart
    let n := lengthOf h
    let z := groupStop h n
    let c := carriedCount h + countFrom (maskBit h a.val) h.restart.start z
    if z < n then pauseAt { s with hart := takeCarry h c } h.vec.tags z false
    else .next (advance (setReg { s with hart := takeCarry h 0 } d (word c))))
/-- The lowest set bit of a mask from a restart boundary to an element. -/
def firstSet (h : Hart) (m : MReg) (z : Nat) : Option Nat :=
  (firstBelow (z - h.restart.start) (fun i => maskBit h m.val (h.restart.start + i))).map (h.restart.start + ·)
/-- A search for the lowest set bit of a mask below n: what to do with it, unless it stops before it has found any. -/
def searchMask (s : State) (a : MReg) (k : State → Option Nat → Out) : Out :=
  let h := s.hart
  let n := lengthOf h
  let z := groupStop h n
  match firstSet h a z with
  | some e => k { s with hart := takeCarry h 0 } (some e)
  | none => if z < n then pauseAt { s with hart := takeCarry h 0 } h.vec.tags z false
    else k { s with hart := takeCarry h 0 } none
/-- MFIRST. -/
def execMfirst (d : SReg) (a : MReg) (s : State) : Out :=
  guardWrite s d (searchMask s a (fun s r => .next (advance (setReg s d (match r with
    | some e => word e
    | none => BitVec.allOnes 64)))))
/-- MSETVL. -/
def execMsetvl (d : SReg) (a : MReg) (s : State) : Out :=
  guardWrite s d (searchMask s a (fun s r =>
    let v := match r with
      | some e => word (e + 1)
      | none => s.hart.csr.vl
    .next (advance (setReg (setCsr s (fun c => { c with vl := v })) d v))))

end Sys2Proof.Machine
end

