-- ==== Sys2Proof/Machine/Reduce.lean ====
section
/-! DEFINITION. Reductions (R202), in the one order of R87: lane partials group by group, then a fixed tree over the
lanes, then the initial value. -/

namespace Sys2Proof.Machine

/-- The operations of R202. -/
inductive RedOp where
  | sum
  | max (u : Bool)
  | min (u : Bool)
  deriving DecidableEq, Repr

/-- Two partials combined: 32-bit patterns, FP32 for float sources and INT32 for integers (R87). -/
def combine (o : RedOp) (c : Csr) (float : Bool) (a b : Nat) : Nat × Nat :=
  if float then
    let x := operand fp32 (ftzOf c) a
    let y := operand fp32 (ftzOf c) b
    match o with
    | .sum => pack fp32 (vrmOf c) (ftzOf c) (addNum (vrmOf c) x y)
    | .max _ => pack fp32 (vrmOf c) (ftzOf c) (maxNum x y)
    | .min _ => pack fp32 (vrmOf c) (ftzOf c) (minNum x y)
  else
    match o with
    | .sum => ((a + b) % 2 ^ 32, 0)
    | .max u => (if u then Nat.max a b else wrap 32 (max (signed 32 a) (signed 32 b)), 0)
    | .min u => (if u then Nat.min a b else wrap 32 (min (signed 32 a) (signed 32 b)), 0)

/-- The last combination, with the initial value, rounded to the result format (R87). -/
def combineLast (o : RedOp) (c : Csr) (t a b : Nat) : Nat × Nat :=
  if floatTag t then
    let x := operand fp32 (ftzOf c) a
    let y := operand fp32 (ftzOf c) b
    let f := tagFmt t
    match o with
    | .sum => pack f (vrmOf c) (ftzOf c) (addNum (vrmOf c) x y)
    | .max _ => pack f (vrmOf c) (ftzOf c) (maxNum x y)
    | .min _ => pack f (vrmOf c) (ftzOf c) (minNum x y)
  else let r := combine o c false a b; (r.1 % 2 ^ tagBits t, 0)

/-- A source element as a 32-bit partial. -/
def toPartial (o : RedOp) (t x : Nat) : Nat :=
  match t, o with
  | 2, _ => x * 2 ^ 16
  | 4, .sum => wrap 32 (signed 16 x)
  | 4, .max u => if u then x else wrap 32 (signed 16 x)
  | 4, .min u => if u then x else wrap 32 (signed 16 x)
  | _, _ => x

/-- Partials by lane; a lane that is not listed is EMPTY. -/
abbrev Partials := List (Nat × BitVec 32)

/-- The partial of a lane. -/
def partialAt (p : Partials) (l : Nat) : Option Nat := (p.find? (fun x => x.1 == l)).map (fun x => x.2.toNat)

/-- The partials with that of one lane replaced. -/
def putPartial (p : Partials) (l v : Nat) : Partials :=
  (l, BitVec.ofNat 32 v) :: p.filter (fun x => x.1 != l)

/-- Combine of R87, where EMPTY gives way. -/
def combineOpt (o : RedOp) (c : Csr) (float : Bool) (a b : Option Nat) : Option Nat × Nat :=
  match a, b with
  | some x, some y => let r := combine o c float x y; (some r.1, r.2)
  | some x, none => (some x, 0)
  | none, y => (y, 0)

/-- What folding some elements leaves: partials, flags, and the element and flags of an enabled flag. -/
structure Fold where
  parts : Partials
  flags : Nat
  stop : Option (Nat × Nat)
  deriving DecidableEq, Repr

/-- Elements `e` to `e + k - 1` folded into the lane partials (R87). -/
def foldElems (o : RedOp) (h : Hart) (a t : Nat) (m : MReg) (e k : Nat) (p : Partials) (fl : Nat) : Fold :=
  match k with
  | 0 => ⟨p, fl, none⟩
  | k + 1 =>
    if active h m e then
      let x := toPartial o t (getElem h a (narrowTag t) e)
      let r := combineOpt o h.csr (floatTag t) (partialAt p (e % 64)) (some x)
      if r.2 &&& enables h.csr ≠ 0 then ⟨p, fl ||| r.2, some (e, r.2)⟩
      else foldElems o h a t m (e + 1) k (putPartial p (e % 64) (r.1.getD 0)) (fl ||| r.2)
    else foldElems o h a t m (e + 1) k p fl

/-- Groups `g` to `g + k - 1` folded, a group that traps not at all (R73). -/
def foldGroups (o : RedOp) (h : Hart) (a t : Nat) (m : MReg) (g k : Nat) (p : Partials) (fl : Nat) : Fold :=
  match k with
  | 0 => ⟨p, fl, none⟩
  | k + 1 =>
    let r := foldElems o h a t m (64 * g) (Nat.min 64 (lengthOf h - 64 * g)) p fl
    match r.stop with
    | some x => ⟨p, r.flags, some x⟩
    | none => foldGroups o h a t m (g + 1) k r.parts r.flags

/-- One level of the tree over the lanes: lanes 0 to w - 1 take those w above. -/
def treeLevel (o : RedOp) (c : Csr) (float : Bool) (w l k : Nat) (p : Partials) (fl : Nat) : Partials × Nat :=
  match k with
  | 0 => (p, fl)
  | k + 1 =>
    let r := combineOpt o c float (partialAt p l) (partialAt p (l + w))
    treeLevel o c float w (l + 1) k (match r.1 with
      | some v => putPartial p l v
      | none => p) (fl ||| r.2)

/-- The tree over the lanes (R87). -/
def tree (o : RedOp) (c : Csr) (float : Bool) (p : Partials) : Partials × Nat :=
  [32, 16, 8, 4, 2, 1].foldl (fun x w => treeLevel o c float w 0 w x.1 x.2) (p, 0)

/-- Whether the operation is a `.u` form. -/
def RedOp.unsigned (o : RedOp) : Bool :=
  match o with
  | .sum => false
  | .max u => u
  | .min u => u

/-- The hart with the carry set (R31). -/
def setCarry (h : Hart) (p : Partials) : Hart := { h with vec := { h.vec with carry := p, carryCount := 0 } }

/-- A reduction (R202): checks, folding in the carry, the tree, the initial value, element 0 and the tail.  An enabled flag
that the tree or the last combination raises traps naming element 0, with all their flags, and resumes at the tree
(log 16). -/
def reduction (o : RedOp) (d a b : VReg) (m : MReg) (s : State) : Out :=
  let h := s.hart
  let t := tagOfReg h a.val
  let tb := tagOfReg h b.val
  let bad := if t ≠ 0 ∧ tb ≠ 0 ∧ (t ≠ tb ∨ (o.unsigned && floatTag t)) then some 0 else none
  checkApart s d.val [a.val, b.val] [a.val] (knownTag t) bad (
    let n := lengthOf h
    let h0 := setTags h d.val (groupOf h.csr) t
    if n = 0 then .next (advance { s with hart := completed h0 d.val 0 })
    else
      let g := h.restart.start / 64
      let carry := if g = 0 then [] else h.vec.carry
      let z := groupsOf (groupStop h n)
      let r := foldGroups o h a.val t m g (z - g) carry 0
      match r.stop with
      | some (e, fl) =>
        let h1 := orFlags (setProgress (setCarry h0 r.parts) d.val (e / 64) false) r.flags
        .next (startedTrap { s with hart := h1 } h.vec.tags 0x10 (word fl) (topndV d.val e) (e / 64 * 64) false 0)
      | none =>
        if z < groupsOf n then
          pauseAt { s with hart := orFlags (setProgress (setCarry h0 r.parts) d.val z false) r.flags } h.vec.tags (64 * z) false
        else
        let tr := tree o h.csr (floatTag t) r.parts
        let init := getElem h b.val (narrowTag t) 0
        let z := match partialAt tr.1 0 with
          | none => (init, 0)
          | some v => combineLast o h.csr t (toPartial o t init) v
        let fl := tr.2 ||| z.2
        let h1 := orFlags (setCarry h0 r.parts) (r.flags ||| fl)
        if fl &&& enables h.csr ≠ 0 then
          .next (startedTrap { s with hart := setProgress h1 d.val (groupsOf n) false } h.vec.tags 0x10 (word fl)
            (topndV d.val 0) (64 * groupsOf n) false 0)
        else
          let h2 := setElem (setCarry h1 []) d.val (narrowTag t) 0 z.1
          .next (advance { s with hart := completed (vecTail h2 d.val t 1) d.val n }))

/-- VREDSUM. -/
def execVredsum (d a b : VReg) (m : MReg) (s : State) : Out := reduction .sum d a b m s
/-- VREDMAX. -/
def execVredmax (d a b : VReg) (m : MReg) (s : State) : Out := reduction (.max false) d a b m s
/-- VREDMAX.u. -/
def execVredmaxU (d a b : VReg) (m : MReg) (s : State) : Out := reduction (.max true) d a b m s
/-- VREDMIN. -/
def execVredmin (d a b : VReg) (m : MReg) (s : State) : Out := reduction (.min false) d a b m s
/-- VREDMIN.u. -/
def execVredminU (d a b : VReg) (m : MReg) (s : State) : Out := reduction (.min true) d a b m s

end Sys2Proof.Machine
end

