-- ==== Sys2Proof/Machine/Uses.lean ====
section
/-! DEFINITION. Which registers each instruction reads and writes, as the scoreboard (R150), the convoys (R35), marked
loops (R241, R242) and the engines beside the vector unit (R28) need to know. -/

namespace Sys2Proof.Machine

/-- The registers an instruction names: scalar registers it reads and the one it writes, vector and mask registers it
reads and writes by their base; whether it goes through the vector queue (R12). -/
structure Uses where
  sr : List SReg := []
  sw : Option SReg := none
  vr : List VReg := []
  vw : List VReg := []
  mr : List MReg := []
  mw : List MReg := []
  queue : Bool := false
  deriving DecidableEq, Repr

/-- The registers that the steps of an `MXSLD` read beside va (R253). -/
def slideRegs (b : VReg) (k : Fin 64) : List VReg :=
  (List.range (k.val + 1)).filterMap (fun i => if h : b.val + i < 64 then some ⟨b.val + i, h⟩ else none)

/-- The registers of an instruction (R133 to R137); steps that the module takes on its own name none. -/
def uses (x : Instr) : Uses :=
  match x with
  | .add d a b => { sr := [a, b], sw := some d }
  | .sub d a b => { sr := [a, b], sw := some d }
  | .mul d a b => { sr := [a, b], sw := some d }
  | .mulh d a b => { sr := [a, b], sw := some d }
  | .mulhu d a b => { sr := [a, b], sw := some d }
  | .div d a b => { sr := [a, b], sw := some d }
  | .divu d a b => { sr := [a, b], sw := some d }
  | .rem d a b => { sr := [a, b], sw := some d }
  | .remu d a b => { sr := [a, b], sw := some d }
  | .and d a b => { sr := [a, b], sw := some d }
  | .or d a b => { sr := [a, b], sw := some d }
  | .xor d a b => { sr := [a, b], sw := some d }
  | .shl d a b => { sr := [a, b], sw := some d }
  | .shr d a b => { sr := [a, b], sw := some d }
  | .sra d a b => { sr := [a, b], sw := some d }
  | .slt d a b => { sr := [a, b], sw := some d }
  | .sltu d a b => { sr := [a, b], sw := some d }
  | .min d a b => { sr := [a, b], sw := some d }
  | .max d a b => { sr := [a, b], sw := some d }
  | .minu d a b => { sr := [a, b], sw := some d }
  | .maxu d a b => { sr := [a, b], sw := some d }
  | .clz d a => { sr := [a], sw := some d }
  | .ctz d a => { sr := [a], sw := some d }
  | .popc d a => { sr := [a], sw := some d }
  | .fadd d a b => { sr := [a, b], sw := some d }
  | .fsub d a b => { sr := [a, b], sw := some d }
  | .fmul d a b => { sr := [a, b], sw := some d }
  | .ffma d a b c => { sr := [a, b, c], sw := some d }
  | .fdiv d a b => { sr := [a, b], sw := some d }
  | .fsqrt d a => { sr := [a], sw := some d }
  | .fmin d a b => { sr := [a, b], sw := some d }
  | .fmax d a b => { sr := [a, b], sw := some d }
  | .fcmp d a b _ => { sr := [a, b], sw := some d }
  | .fcvtIF d a => { sr := [a], sw := some d }
  | .fcvtIuF d a => { sr := [a], sw := some d }
  | .fcvtFI d a => { sr := [a], sw := some d }
  | .fcvtFIu d a => { sr := [a], sw := some d }
  | .fcvtBfF d a => { sr := [a], sw := some d }
  | .fcvtFBf d a => { sr := [a], sw := some d }
  | .addi d a _ => { sr := [a], sw := some d }
  | .andi d a _ => { sr := [a], sw := some d }
  | .ori d a _ => { sr := [a], sw := some d }
  | .xori d a _ => { sr := [a], sw := some d }
  | .slti d a _ => { sr := [a], sw := some d }
  | .sltiu d a _ => { sr := [a], sw := some d }
  | .shli d a _ => { sr := [a], sw := some d }
  | .shri d a _ => { sr := [a], sw := some d }
  | .srai d a _ => { sr := [a], sw := some d }
  | .movhi d _ => { sw := some d }
  | .movk d _ _ => { sr := [d], sw := some d }
  | .ldb d a _ => { sr := [a], sw := some d }
  | .ldh d a _ => { sr := [a], sw := some d }
  | .ldw d a _ => { sr := [a], sw := some d }
  | .ldd d a _ => { sr := [a], sw := some d }
  | .ldbu d a _ => { sr := [a], sw := some d }
  | .ldhu d a _ => { sr := [a], sw := some d }
  | .ldwu d a _ => { sr := [a], sw := some d }
  | .stb d a _ => { sr := [d, a] }
  | .sth d a _ => { sr := [d, a] }
  | .stw d a _ => { sr := [d, a] }
  | .std d a _ => { sr := [d, a] }
  | .ldbReg d a b _ _ => { sr := [a, b], sw := some d }
  | .ldhReg d a b _ _ => { sr := [a, b], sw := some d }
  | .ldwReg d a b _ _ => { sr := [a, b], sw := some d }
  | .lddReg d a b _ _ => { sr := [a, b], sw := some d }
  | .ldbuReg d a b _ _ => { sr := [a, b], sw := some d }
  | .ldhuReg d a b _ _ => { sr := [a, b], sw := some d }
  | .ldwuReg d a b _ _ => { sr := [a, b], sw := some d }
  | .stbReg d a b _ _ => { sr := [d, a, b] }
  | .sthReg d a b _ _ => { sr := [d, a, b] }
  | .stwReg d a b _ _ => { sr := [d, a, b] }
  | .stdReg d a b _ _ => { sr := [d, a, b] }
  | .amoAdd d a b _ _ _ => { sr := [a, b], sw := some d }
  | .amoSwap d a b _ _ _ => { sr := [a, b], sw := some d }
  | .amoCas d a b _ _ _ => { sr := [d, a, b], sw := some d }
  | .amoMin d a b _ _ _ => { sr := [a, b], sw := some d }
  | .amoMax d a b _ _ _ => { sr := [a, b], sw := some d }
  | .amoAnd d a b _ _ _ => { sr := [a, b], sw := some d }
  | .amoOr d a b _ _ _ => { sr := [a, b], sw := some d }
  | .beq a b _ => { sr := [a, b] }
  | .bne a b _ => { sr := [a, b] }
  | .blt a b _ => { sr := [a, b] }
  | .bge a b _ => { sr := [a, b] }
  | .bltu a b _ => { sr := [a, b] }
  | .bgeu a b _ => { sr := [a, b] }
  | .jmp _ => { }
  | .call _ => { sw := some 1 }
  | .jr a => { sr := [a] }
  | .callr a => { sr := [a], sw := some 1 }
  | .csrr d _ => { sw := some d }
  | .csrw a _ => { sr := [a] }
  | .csrs a _ => { sr := [a] }
  | .csrc a _ => { sr := [a] }
  | .trap _ => { }
  | .tret => { }
  | .bkpt _ => { }
  | .wait => { }
  | .yield => { }
  | .fenceI => { }
  | .gperm d a r m => { sr := [r], vr := [a], vw := [d], mr := [m], queue := true }
  | .gred d a m => { vr := [a], vw := [d], mr := [m], queue := true }
  | .gbcast d a r m => { sr := [r], vr := [a], vw := [d], mr := [m], queue := true }
  | .gsync => { queue := true }
  | .lnext a _ => { sr := [a], sw := some a }
  | .ljoin a _ => { sr := [a] }
  | .vadd d a b m => { vr := [a, b], vw := [d], mr := [m], queue := true }
  | .vsub d a b m => { vr := [a, b], vw := [d], mr := [m], queue := true }
  | .vrsub d a b m => { vr := [a, b], vw := [d], mr := [m], queue := true }
  | .vmul d a b m => { vr := [a, b], vw := [d], mr := [m], queue := true }
  | .vmulh d a b m => { vr := [a, b], vw := [d], mr := [m], queue := true }
  | .vmulhU d a b m => { vr := [a, b], vw := [d], mr := [m], queue := true }
  | .vdiv d a b m => { vr := [a, b], vw := [d], mr := [m], queue := true }
  | .vdivU d a b m => { vr := [a, b], vw := [d], mr := [m], queue := true }
  | .vrem d a b m => { vr := [a, b], vw := [d], mr := [m], queue := true }
  | .vremU d a b m => { vr := [a, b], vw := [d], mr := [m], queue := true }
  | .vmin d a b m => { vr := [a, b], vw := [d], mr := [m], queue := true }
  | .vminU d a b m => { vr := [a, b], vw := [d], mr := [m], queue := true }
  | .vmax d a b m => { vr := [a, b], vw := [d], mr := [m], queue := true }
  | .vmaxU d a b m => { vr := [a, b], vw := [d], mr := [m], queue := true }
  | .vabs d a m => { vr := [a], vw := [d], mr := [m], queue := true }
  | .vneg d a m => { vr := [a], vw := [d], mr := [m], queue := true }
  | .vand d a b m => { vr := [a, b], vw := [d], mr := [m], queue := true }
  | .vor d a b m => { vr := [a, b], vw := [d], mr := [m], queue := true }
  | .vxor d a b m => { vr := [a, b], vw := [d], mr := [m], queue := true }
  | .vshl d a b m => { vr := [a, b], vw := [d], mr := [m], queue := true }
  | .vshr d a b m => { vr := [a, b], vw := [d], mr := [m], queue := true }
  | .vsra d a b m => { vr := [a, b], vw := [d], mr := [m], queue := true }
  | .vsadd d a b m => { vr := [a, b], vw := [d], mr := [m], queue := true }
  | .vsaddU d a b m => { vr := [a, b], vw := [d], mr := [m], queue := true }
  | .vssub d a b m => { vr := [a, b], vw := [d], mr := [m], queue := true }
  | .vssubU d a b m => { vr := [a, b], vw := [d], mr := [m], queue := true }
  | .vsqrt d a m => { vr := [a], vw := [d], mr := [m], queue := true }
  | .vrece d a m => { vr := [a], vw := [d], mr := [m], queue := true }
  | .vrsqe d a m => { vr := [a], vw := [d], mr := [m], queue := true }
  | .vexp2 d a m => { vr := [a], vw := [d], mr := [m], queue := true }
  | .vlog2 d a m => { vr := [a], vw := [d], mr := [m], queue := true }
  | .vmov d a m => { vr := [a], vw := [d], mr := [m], queue := true }
  | .vsel d a b m => { vr := [a, b], vw := [d], mr := [m], queue := true }
  | .viota d m => { vw := [d], mr := [m], queue := true }
  | .vgath d a b m => { vr := [a, b], vw := [d], mr := [m], queue := true }
  | .vcomp d a m => { vr := [a], vw := [d], mr := [m], queue := true }
  | .vredsum d a b m => { vr := [a, b], vw := [d], mr := [m], queue := true }
  | .vredmax d a b m => { vr := [a, b], vw := [d], mr := [m], queue := true }
  | .vredmaxU d a b m => { vr := [a, b], vw := [d], mr := [m], queue := true }
  | .vredmin d a b m => { vr := [a, b], vw := [d], mr := [m], queue := true }
  | .vredminU d a b m => { vr := [a, b], vw := [d], mr := [m], queue := true }
  | .vtag d _ => { vw := [d], queue := true }
  | .vcmp d a b m _ _ => { vr := [a, b], mr := [m], mw := [d], queue := true }
  | .vcvt d a m _ _ _ => { vr := [a], vw := [d], mr := [m], queue := true }
  | .vbcast d r m => { sr := [r], vw := [d], mr := [m], queue := true }
  | .vext d a r => { sr := [r], sw := some d, vr := [a], queue := true }
  | .vextU d a r => { sr := [r], sw := some d, vr := [a], queue := true }
  | .vprog d _ => { sw := some d }
  | .vsetvl d a => { sr := [a], sw := some d }
  | .vsetvt d a _ => { sr := [a], sw := some d }
  | .vrcfg _ => { queue := true }
  | .mand d a b => { mr := [a, b], mw := [d], queue := true }
  | .mor d a b => { mr := [a, b], mw := [d], queue := true }
  | .mxor d a b => { mr := [a, b], mw := [d], queue := true }
  | .mandn d a b => { mr := [a, b], mw := [d], queue := true }
  | .mnot d a => { mr := [a], mw := [d], queue := true }
  | .mmov d a => { mr := [a], mw := [d], queue := true }
  | .mpopc d a => { sw := some d, mr := [a], queue := true }
  | .mfirst d a => { sw := some d, mr := [a], queue := true }
  | .msetvl d a => { sw := some d, mr := [a], queue := true }
  | .vslup d a r sx m => { sr := [r, sx], vr := [a], vw := [d], mr := [m], queue := true }
  | .vsldn d a r sx m => { sr := [r, sx], vr := [a], vw := [d], mr := [m], queue := true }
  | .vins d r sx => { sr := [r, sx], vr := [d], vw := [d], queue := true }
  | .vf m _ _ => { mr := [m], queue := true }
  | .vpf _ _ => { }
  | .vpstop => { }
  | .vpjoin => { }
  | .mxadd _ a b r c => { vr := [a, b], mr := [r, c], queue := true }
  | .mxsub _ a b r c => { vr := [a, b], mr := [r, c], queue := true }
  | .mzero _ => { queue := true }
  | .mrow _ d r => { sr := [r], vw := [d], queue := true }
  | .mcol _ d r => { sr := [r], vw := [d], queue := true }
  | .mwrow _ a r => { sr := [r], vr := [a], queue := true }
  | .mldt _ a b => { sr := [a, b], queue := true }
  | .mstt _ a b => { sr := [a, b], queue := true }
  | .mxsld _ a b r c k => { vr := a :: slideRegs b k, mr := [r, c], queue := true }
  | .fenceSv => { queue := true }
  | .fenceVs => { queue := true }
  | .fenceVv => { queue := true }
  | .lsync => { queue := true }
  | .sfenceT a => { sr := [a] }
  | .harvest d a => { sr := [a], sw := some d }
  | .claim d a => { sr := [a], sw := some d }
  | .unclaim d a => { sr := [a], sw := some d }
  | .crd d _ => { sw := some d }
  | .crdlo d _ => { sw := some d }
  | .crdhi d _ => { sw := some d }
  | .cevt a _ => { sr := [a] }
  | .tshape d a b c => { sr := [a, b, c], sw := some d, queue := true }
  | .menter => { queue := true }
  | .mleave => { queue := true }
  | .launch d a => { sr := [a], sw := some d }
  | .cancel d a => { sr := [a], sw := some d }
  | .endProg => { }
  | .vld t b m => { sr := [b], vw := [t], mr := [m], queue := true }
  | .vlds t b sx m => { sr := [b, sx], vw := [t], mr := [m], queue := true }
  | .vldx t b imm m => { sr := [b], vr := [imm], vw := [t], mr := [m], queue := true }
  | .vldff t b m => { sr := [b], vw := [t], mr := [m], queue := true }
  | .vldp t _ m => { vw := [t], mr := [m], queue := true }
  | .vst t b m => { sr := [b], vr := [t], mr := [m], queue := true }
  | .vsts t b sx m => { sr := [b, sx], vr := [t], mr := [m], queue := true }
  | .vstx t b imm m => { sr := [b], vr := [t, imm], mr := [m], queue := true }
  | .vstp t _ m => { vr := [t], mr := [m], queue := true }
  | .vldn t b sx m _ _ => { sr := [b, sx], vw := [t], mr := [m], queue := true }
  | .vstn t b sx m _ _ => { sr := [b, sx], vr := [t], mr := [m], queue := true }
  | .vldns t b sx r _ _ => { sr := [b, sx, r], vw := [t], queue := true }
  | .vamoadd t b imm m => { sr := [b], vr := [t, imm], vw := [t], mr := [m], queue := true }
  | .vamomax t b imm m => { sr := [b], vr := [t, imm], vw := [t], mr := [m], queue := true }
  | .vamomaxU t b imm m => { sr := [b], vr := [t, imm], vw := [t], mr := [m], queue := true }
  | .vamomin t b imm m => { sr := [b], vr := [t, imm], vw := [t], mr := [m], queue := true }
  | .vamominU t b imm m => { sr := [b], vr := [t, imm], vw := [t], mr := [m], queue := true }
  | .stand d a b => { sr := [a, b], sw := some d }
  | .unstand d a => { sr := [a], sw := some d }
  | .take d a => { sr := [a], sw := some d }
  | .waitsl d a b => { sr := [a, b], sw := some d }
  | .vstand t b imm m sx => { sr := [b, sx], vr := [imm], vw := [t], mr := [m], queue := true }
  | .vtake t m sx => { sr := [sx], vw := [t], mr := [m], queue := true }
  | .copy d a b c m => { sr := [a, b, c], sw := some d, mw := [m] }
  | .stream d _ b => { sr := [b], sw := some d }
  | .nbx d a b => { sr := [a, b], sw := some d }
  | .chain d a b c => { sr := [a, b, c], sw := some d }
  | .lmark d a b c => { sr := [a, b, c], sw := some d }
  | .bgld t b imm m sx => { sr := [b], sw := some sx, vr := [imm], vw := [t], mw := [m], queue := true }
  | .gxl t b imm m sx => { sr := [b], sw := some sx, vr := [imm], vw := [t], mr := [m], queue := true }
  | .vfma d a b c m => { vr := [a, b, c], vw := [d], mr := [m], queue := true }
  | .vfms d a b c m => { vr := [a, b, c], vw := [d], mr := [m], queue := true }
  | .vfnma d a b c m => { vr := [a, b, c], vw := [d], mr := [m], queue := true }
  | .vclamp d a b c m => { vr := [a, b, c], vw := [d], mr := [m], queue := true }
  | .vrcfgCsrWrite .. | .vtypeCsrWrite .. | .fcsrWrite .. | .seedWrite ..
  | .slbaseWrite .. | .ageWrite .. | .statusWrite .. | .registerWrite ..
  | .storeBufferDrain .. | .standAnswer .. | .pushArrival .. | .pushBounce ..
  | .unstandAnswer .. | .waitslTimeout .. | .waitTimeout .. | .copyChunkDone ..
  | .copyDone .. | .engineBatchResume .. | .streamEnd .. | .bgldDone ..
  | .gatherUnitRequest .. | .gxlDone .. | .nbxArrival .. | .nbxEngineGrant ..
  | .stopeStep .. | .stopeResume .. | .nbxDone .. | .chainReservation ..
  | .chainHopStore .. | .chainDone .. | .loopVerdict .. | .replayIteration ..
  | .loopStatusWrite .. | .trapEntry .. | .endLaunch .. | .completionWordWrite ..
  | .dispatchRound .. | .agingRise .. | .dependenceSatisfied .. | .dependencePoll ..
  | .preemptRequest .. | .huskSave .. | .huskWake .. | .parkTimeout ..
  | .huskRelease .. | .dumpRequest .. | .dumpRelease .. | .packetArrival ..
  | .blockSuspect .. | .lampHop | .recoveryBufferAccept | .lampRelease
  | .recoveryBufferDrain .. | .lampRegenerate | .segmentMaskActivate .. | .supplementaryActivate ..
  | .refresh .. | .selfRefreshEntry .. | .selfRefreshExit .. | .errorCheckScrub ..
  | .errorRateCrossed .. | .leaseGrant .. | .leaseRevoke .. | .revocationPoint ..
  | .leaseRelease .. | .ualinkPortDown .. | .capacityMove .. | .hotRemoveAck ..
  | .hotRemoveTimeout .. | .blockScrubDone .. | .hostMemWrite .. | .hostMemRead ..
  | .notify .. | .bdoneWrite .. | .netctlWrite .. | .mcstkWrite ..
  | .coresWrite .. | .xmaskWrite .. | .activeWrite .. | .coldReset
  | .warmReset | .powerOn .. | .getVersion | .getCapabilities
  | .negotiateAlgorithms | .getDigests | .getCertificate | .challenge
  | .getMeasurements .. | .keyExchange | .finish | .endSession
  | .ideKm .. | .ideStreamFailure .. | .counterQuantum .. | .traceSample ..
  | .traceConvoyRecord .. | .throttleRaise | .throttleLower | .thermalStop
  | .launchAnswer .. | .partitionBlockWrite .. | .peerLineFillOrWriteBack .. | .leaseReclaim .. => { }

/-- The masks that predicate a word: those it names, unless they are its operands (R112, R124). -/
def predicates (x : Instr) : List MReg :=
  match x with
  | .mand .. | .mor .. | .mxor .. | .mandn .. | .mnot .. | .mmov .. | .mpopc .. | .mfirst .. | .msetvl .. => []
  | _ => (uses x).mr

end Sys2Proof.Machine
end

