-- ==== Sys2Proof/Machine/Loop.lean ====
section
/-! DEFINITION. Marked loops (R238 to R244, R398): opening, recording, the verdict, replay on a stope engine, and the
join. -/

namespace Sys2Proof.Machine

/-! ### What a body may hold (R241, R282) -/

/-- The part an instruction plays in a marked loop's body. -/
inductive LoopRole where
  | mem (store : Bool) (t : VReg) (b : SReg) (stride : Option SReg)
  | plain
  | reduce (d init : VReg)
  | induct (d a : SReg) (b : Option SReg)
  | guardReg (d : SReg)
  | guard (a b : SReg)
  | last (a : SReg) (o : BitVec 13)
  | other
  deriving DecidableEq, Repr

/-- The role of an instruction and the stope operations it compiles to. -/
def loopRole (x : Instr) : LoopRole × Nat :=
  match x with
  | .vld t b _ => (.mem false t b none, 1)
  | .vst t b _ => (.mem true t b none, 1)
  | .vlds t b r _ => (.mem false t b (some r), 2)
  | .vsts t b r _ => (.mem true t b (some r), 2)
  | .vadd .. | .vsub .. | .vmul .. | .vfma .. | .vmin .. | .vmax .. | .vcmp .. | .vsel .. | .vcvt .. | .vmov .. =>
    (.plain, 1)
  | .mand .. | .mor .. | .mnot .. => (.plain, 1)
  | .vclamp .. => (.plain, 2)
  | .vbcast .. => (.plain, 0)
  | .vredsum d _ b _ | .vredmax d _ b _ => (.reduce d b, 2)
  | .add d a b => (.induct d a (some b), 0)
  | .addi d a _ => (.induct d a none, 0)
  | .sub d a b => (.induct d a (some b), 0)
  | .mpopc d _ | .mfirst d _ | .vext d _ _ => (.guardReg d, 1)
  | .beq a b _ | .bne a b _ | .blt a b _ | .bge a b _ | .bltu a b _ | .bgeu a b _ => (.guard a b, 1)
  | .lnext a o => (.last a o, 0)
  | _ => (.other, 0)

/-- Whether a guard branch of the acting hart is taken. -/
def guardTaken (s : State) (x : Instr) : Bool :=
  match x with
  | .beq a b _ => getReg s a == getReg s b
  | .bne a b _ => getReg s a != getReg s b
  | .blt a b _ => (getReg s a).slt (getReg s b)
  | .bge a b _ => !(getReg s a).slt (getReg s b)
  | .bltu a b _ => (getReg s a).ult (getReg s b)
  | .bgeu a b _ => !(getReg s a).ult (getReg s b)
  | _ => false

/-- The induction registers of a loop. -/
def Loop.inds (l : Loop) : List SReg := [l.ind1, l.ind2].filter (· != 0)

/-- An induction step: a carried induction register from itself, once, and another operand; `SUB` from itself first
(R241). -/
def inductOk (l : Loop) (x : Instr) (d a : SReg) (b : Option SReg) : Bool :=
  l.inds.contains d &&
    (match x, b with
      | .add .., some b => (d == a) != (d == b)
      | .sub .., some b => d == a && d != b
      | _, _ => d == a)

/-- Whether an instruction names the status register of a loop, which the loop's own end writes, so that it is no
invariant register (R241, log 46). -/
def namesStatus (l : Loop) (x : Instr) : Bool :=
  l.rd != 0 && ((uses x).sr.contains l.rd || (uses x).sw == some l.rd)

/-- Whether an instruction is outside what a body may hold, as far as its own word tells (R241). -/
def loopRefuses (s : State) (l : Loop) (x : Instr) : Bool :=
  namesStatus l x ||
  match (loopRole x).1 with
  | .mem .. => false
  | .plain => false
  | .reduce d b => d != b
  | .induct d a b => !inductOk l x d a b
  | .guardReg d => l.inds.contains d || d == l.count
  | .guard a b => decide (0 < l.iter) && !l.guards.contains a && !l.guards.contains b
  | .last a o => a != l.count || target s o != l.top
  | .other => true

/-- The instruction of a recorded word. -/
def loopInstr (o : LoopOp) : Option Instr :=
  match decode o.ir.toNat with
  | .ok i => some i
  | _ => none

/-- Whether a recorded instruction reads only invariant registers where R241 asks for them, given what the body
writes. -/
def rolesOk (l : Loop) (written : List SReg) (x : Instr) : Bool :=
  let reads := (uses x).sr.filter (fun r => r != 0 && written.contains r)
  match (loopRole x).1 with
  | .last .. => true
  | .mem _ _ b r => (!written.contains b || l.inds.contains b || b == 0) &&
      (match r with
        | some r => r == 0 || !written.contains r
        | none => true)
  | .induct d .. => reads.all (fun r => r == d)
  | .guard a b =>
    (l.guards.contains a && (b == 0 || !written.contains b)) || (l.guards.contains b && (a == 0 || !written.contains a))
  | _ => reads.isEmpty

/-- The scalar registers that a body writes: the count register, the guard registers, and what it steps. -/
def loopWrites (l : Loop) (ops : List LoopOp) : List SReg :=
  l.count :: l.guards ++ ops.filterMap (fun o => (loopInstr o).bind (fun i => match (loopRole i).1 with
    | .induct d .. => some d
    | _ => none))

/-- The word offset from the top of the first instruction of a body that breaks a role (R240 code 2). -/
def roleFault (l : Loop) (ops : List LoopOp) : Option Nat :=
  let w := loopWrites l ops
  (ops.find? (fun o => match loopInstr o with
    | some i => !rolesOk l w i
    | none => true)).map (fun o => (o.pc - l.top).toNat / 4)

/-! ### Opening and recording (R239, R240) -/

/-- LMARK. -/
def execLmark (d a b c : SReg) (s : State) : Out :=
  guardWrite s d (
    if s.hart.loop.isSome then .next (trapWord s 0x01 0)
    else
      let h := s.hart
      let n := (getReg s a).toNat
      let l : Loop := ⟨s.serial, d, a, b, c, h.pc + 4, none, n, 0, [], [], none, false, [], [], groupOf h.csr, h.csr,
        .recording, 0, 0, supervisor h, h.regs, Vec.start, 0⟩
      let h1 : Hart := { setPending h d with loop := some l }
      let h2 := if n ≤ h.csr.recn.toNat ∨ 2 ^ 24 ≤ n then declineLoop h1 1 else h1
      .next (advance { s with hart := h2, serial := s.serial + 1 }))

/-- The stack that holds the page of an access, where it is mapped (R240). -/
def accessStack (s : State) (va : Word) : Nat :=
  match walkPage s s.hart.core (partOf s.hart) va.toNat with
  | .inl e => stackOf s (e.pa + va.toNat % e.size)
  | .inr _ => 0

/-- The loops that the assay unit of a stack tracks: recorded, judged or replayed (R348). -/
def trackedLoops (s : State) (k : Nat) : Nat :=
  (s.harts ++ (s.husks.filter (fun x => !x.resumed)).map (·.image)).countP (fun h => match h.loop with
    | some l => l.stack == some k && !l.late && (match l.phase with
      | .recording | .verdict | .replaying | .over _ => true
      | _ => false)
    | none => false)

/-- The span of an access of the hart: the offset of its lowest byte from the base, its length, whether it stores;
over all elements, whatever the mask (R398). -/
def accessSpan (s : State) (store : Bool) (t : VReg) (stride : Option SReg) : Option (Int × Nat × Bool) :=
  let n := lengthOf s.hart
  let w := tagBytes (if store then tagOfReg s.hart t.val else dtagOf s.hart.csr)
  let st : Int := match stride with
    | some r => (getReg s r).toInt
    | none => (w : Int)
  if n = 0 then none
  else
    let far := st * (n - 1 : Nat)
    some (min 0 far, far.natAbs + w, store)

/-- The loop with the instruction recorded. -/
def recordOp (s : State) (l : Loop) (x : Instr) : Loop :=
  let op : LoopOp := ⟨s.hart.vseq + 1, s.hart.pc, s.hart.ir, guardTaken s x, none, none⟩
  match (loopRole x).1 with
  | .mem store t b r =>
    let va := getReg s b
    let k := accessStack s va
    let l1 := if l.stack.isNone then { l with stack := some k, late := decide (16 ≤ trackedLoops s k) } else l
    { l1 with cur := l1.cur ++ [{ op with base := some va, span := accessSpan s store t r }] }
  | .reduce d _ =>
    { l with cur := l.cur ++ [op], carried := if l.carried.contains d.val then l.carried else l.carried ++ [d.val] }
  | .guardReg d => { l with cur := l.cur ++ [op], guards := if l.guards.contains d then l.guards else l.guards ++ [d] }
  | _ => { l with cur := l.cur ++ [op] }

/-- The instruction `x` met by the loop that is being recorded, before it waits for any register: the loop declined where it
may not hold it (R240 codes 2, 10 and 12).  An `LJOIN` means that control left the body. -/
def observe (s : State) (x : Instr) : State :=
  match s.hart.loop with
  | none => s
  | some l =>
    if l.phase ≠ .recording then s
    else
      let h := s.hart
      let off := (h.pc - l.top).toNat / 4
      let beyond := match l.endPc with
        | some e => decide (e.toNat < h.pc.toNat)
        | none => false
      let decline := fun detail => { s with hart := declineLoop h detail }
      match x with
      | .ljoin a _ => if a = l.rd then decline 12 else decline (2 + 256 * off)
      | _ =>
        if h.csr.vl ≠ l.csr.vl then decline 10
        else if decide (h.pc.toNat < l.top.toNat) || beyond then decline 12
        else if loopRefuses s l x then decline (2 + 256 * off)
        else s

/-- The instruction `x` recorded as it issues, while the loop records (R240). -/
def recordWord (s : State) (x : Instr) : State :=
  match s.hart.loop with
  | some l => if l.phase = .recording then { s with hart := { s.hart with loop := some (recordOp s l x) } } else s
  | none => s

/-- The span of the recorded store that the acting hart's vector unit has just executed as number `n`, over the elements that
it then had: an earlier word of the queue may have changed their width since the store entered (R398). -/
def respan (s : State) (n : Nat) (x : Instr) : State :=
  match s.hart.loop, (loopRole x).1 with
  | some l, .mem true t _ r =>
    let fix := fun (o : LoopOp) => if o.seq = n ∧ o.base.isSome then { o with span := accessSpan s true t r } else o
    { s with hart := { s.hart with loop := some { l with cur := l.cur.map fix, ops := l.ops.map (·.map fix) } } }
  | _, _ => s

/-- The `LNEXT` that closes an iteration (R240): the roles of the body's words are judged as far as it has been met, its
accesses after the first, and the verdict is awaited after the last recorded one. -/
def closeIteration (s : State) (l : Loop) (pc : Word) : State :=
  let h := s.hart
  match roleFault l (l.cur ++ l.ops.flatten) with
  | some off => { s with hart := declineLoop h (2 + 256 * off) }
  | none =>
    if l.iter = 0 ∧ l.stack.isNone then { s with hart := declineLoop h 14 }
    else
      let l1 : Loop := { l with iter := l.iter + 1, ops := l.ops ++ [l.cur], cur := [], endPc := some pc }
      let done := decide (h.csr.recn.toNat ≤ l1.iter)
      { s with hart := { h with loop := some { l1 with phase := if done then .verdict else .recording } } }

/-- LNEXT (R238, R239). -/
def execLnext (a : SReg) (o : BitVec 13) (s : State) : Out :=
  guardWrite s a (
    let v := getReg s a - 1
    let s1 := setReg s a v
    let s2 := if v = 0 then advance s1 else setPc s1 (target s o)
    match s.hart.loop with
    | some l =>
      if l.phase = .recording ∧ a = l.count ∧ target s o = l.top then .next (closeIteration s2 l s.hart.pc)
      else .next s2
    | none => .next s2)

/-! ### The verdict (R240, R398) -/

/-- The bases of an iteration's accesses. -/
def basesOf (ops : List LoopOp) : List Word := ops.filterMap (·.base)

/-- The differences of two lists of bases. -/
def deltas (a b : List Word) : List Word := List.zipWith (fun x y => y - x) a b

/-- Whether the recorded iterations agree in ops and advance every base by a constant. -/
def iterationsAgree (its : List (List LoopOp)) : Bool :=
  let key := fun (it : List LoopOp) => it.map (fun o => (o.pc, o.ir, o.taken))
  match its with
  | a :: b :: _ =>
    its.all (fun it => key it == key a) &&
      (List.range (its.length - 1)).all (fun i =>
        deltas (basesOf (its.getD i [])) (basesOf (its.getD (i + 1) [])) == deltas (basesOf a) (basesOf b))
  | _ => true

/-- The constant advance of each access of a loop. -/
def baseSteps (its : List (List LoopOp)) : List Int :=
  (deltas (basesOf (its.getD 0 [])) (basesOf (its.getD 1 []))).map BitVec.toInt

/-- The ranges of the accesses of iteration `i`: lowest byte, length, whether it stores. -/
def rangesAt (its : List (List LoopOp)) (i : Nat) : List (Int × Nat × Bool) :=
  let mems := (its.getD 0 []).filter (fun o => o.base.isSome)
  (List.zipWith (fun (o : LoopOp) d => (o.span, (o.base.getD 0).toNat + d * (i : Int))) mems (baseSteps its)).filterMap
    (fun x => x.1.map (fun sp => (x.2 + sp.1, sp.2.1, sp.2.2)))

/-- The span from the lowest to the highest byte of iterations 0 and n - 1. -/
def footprint (its : List (List LoopOp)) (n : Nat) : Option (Int × Int) :=
  match rangesAt its 0 ++ rangesAt its (n - 1) with
  | [] => none
  | r :: rs => some (rs.foldl (fun m x => min m x.1) r.1, rs.foldl (fun m x => max m (x.1 + x.2.1 - 1)) (r.1 + r.2.1 - 1))

/-- Whether a virtual address lies in a compute-capable page (R346). -/
def computePage (s : State) (core part va : Nat) : Bool :=
  match walkPage s core part va with
  | .inl e => e.cc
  | .inr _ => false

/-- The distinct granules that the loads, or the stores, of iteration `i` touch (R398). -/
def granulesAt (its : List (List LoopOp)) (i : Nat) (store : Bool) : List Nat :=
  let gs := ((rangesAt its i).filter (·.2.2 == store)).map (fun r =>
    let lo := r.1.toNat / 1024
    (List.range ((r.1.toNat + r.2.1 - 1) / 1024 + 1 - lo)).map (· + lo))
  gs.flatten.foldl (fun acc g => insertFrame g acc) []

/-- The stope operations of a body (R282). -/
def loopCost (ops : List LoopOp) : Nat :=
  ops.foldl (fun n o => n + ((loopInstr o).map (fun i => (loopRole i).2)).getD 0) 0

/-- The decline code of a verdict, the lowest that holds, or none (R240). -/
def verdictCode (s : State) (h : Hart) (l : Loop) : Option Nat :=
  let recn := l.iter
  let fp := footprint l.ops l.n
  let page := fun (x : Int) => x.toNat / 2 ^ 21
  let outside := match fp with
    | none => false
    | some (lo, hi) => decide (lo < (globalBase : Int)) ||
        (List.range (page hi - page lo + 1)).any (fun i => !computePage s h.core (partOf h) ((page lo + i) * 2 ^ 21))
  let crosses := match fp with
    | none => false
    | some (lo, hi) => decide (page lo ≠ page hi)
  if !iterationsAgree l.ops then some 3
  else if outside then some 4
  else if crosses then some 5
  else if (freeStope (stackAt s (l.stack.getD 0))).isNone && (newestGrant s (l.stack.getD 0)).isNone then some 6
  else if l.late then some 7
  else if 32 < loopCost (l.ops.getD 0 []) then some 8
  else if 4 < l.carried.length then some 9
  else if (List.range (l.n - recn)).any (fun i => decide (4 < (granulesAt l.ops (recn + i) true).length)) then some 13
  else none

/-- The first byte and the length of a loop's footprint in physical memory, which lies in one page (R350, R398). -/
def physicalSpan (s : State) (h : Hart) (l : Loop) : Nat × Nat :=
  match footprint l.ops l.n with
  | none => (0, 0)
  | some (lo, hi) =>
    match walkPage s h.core (partOf h) lo.toNat with
    | .inl e => (e.pa + lo.toNat % e.size, (hi - lo).toNat + 1)
    | .inr _ => (0, 0)

/-- A near-bank command that took the last free engine in this very cycle gives way and stays first in the queue
(R348). -/
def yieldEngine (s : State) (k : Nat) : State :=
  if (freeStope (stackAt s k)).isSome then s
  else
    match newestGrant s k with
    | some (g, c) => onStack (releaseStope s k g) k (fun x => { x with queue := c :: x.queue })
    | none => s

/-- A loop confirmed: its stores performed and its L1 written back (R350), a stope engine taken, its carried registers
frozen, the control thread past the `LNEXT` (R242). -/
def confirmLoop (s : State) (core : Nat) (l : Loop) : State :=
  let k := l.stack.getD 0
  let s0 := yieldEngine (cleanL1 (flushHart s core) core) k
  let g := (freeStope (stackAt s0 k)).getD 0
  let span := physicalSpan s0 (hartAt s core) l
  let s1 := takeStope s0 k g (.replay l.id span.1 span.2)
  onCore s1 core (fun h => countHart { h with
    pc := l.endPc.getD 0 + 4
    loop := some { l with
      phase := .replaying, csr := h.csr, stope := g, next := l.iter, super := supervisor h, regs := h.regs, vec := h.vec, flags := 0 } }
    0x13 8 1)

/-- LOOP_VERDICT: once every vector instruction of the recorded iterations has started (R242). -/
def execLoopVerdict (core : CoreId) (s : State) : Out :=
  let h := hartAt s core.val
  .next (match h.loop with
    | some l =>
      if l.phase = .verdict ∧ (unstarted h).isEmpty ∧ h.held.isNone ∧ h.vf.isNone ∧ h.loads.isEmpty then
        match (if h.csr.vl ≠ l.csr.vl then some 10 else verdictCode s h l) with
        | some c => onCore s core.val (fun h => declineLoop h c)
        | none => confirmLoop s core.val l
      else s
    | none => s)

/-! ### Replay (R116, R242) -/

/-- Where the loop that core `core` has under replay is held: the running hart or a husk. -/
def loopPlace (s : State) (core : Nat) (f : LoopPhase → Bool) : Option (Option Nat × Hart × Loop) :=
  let has := fun (h : Hart) => match h.loop with
    | some l => h.core == core && f l.phase
    | none => false
  if has (hartAt s core) then ((hartAt s core).loop).map (fun l => (none, hartAt s core, l))
  else
    (firstBelow s.husks.length (fun i => ((s.husks[i]?).map (fun k => !k.resumed && has k.image)).getD false)).bind (fun i =>
      (s.husks[i]?).bind (fun k => k.image.loop.map (fun l => (some i, k.image, l))))

/-- The hart as which the stope engine replays: its own registers and vector state, no trap handler that could be
mistaken for the next word. -/
def replayHart (h : Hart) (l : Loop) : Hart :=
  { h with
    regs := l.regs
    vec := l.vec
    csr := { l.csr with fcsr := setBits l.csr.fcsr 0 5 0, status := if l.super then 1 else 0, tvec := 1 }
    run := .running, stopping := none, restart := ⟨0, false, none, none⟩, held := none, queue := []
    started := false, stalled := false
    vf := none, vpNow := none, convoy := ⟨0, 0, [], 0, false⟩, closed := [], buffer := [], released := false, loads := [], reissue := []
    engines := [], loop := none, trace := Trace.start }

/-- The meaning of an eligible instruction other than a guard or the loop's end (R241). -/
def replayInstr (x : Instr) (s : State) : Out :=
  match x with
  | .vld t b m => execVld t b m s
  | .vst t b m => execVst t b m s
  | .vlds t b r m => execVlds t b r m s
  | .vsts t b r m => execVsts t b r m s
  | .vadd d a b m => execVadd d a b m s
  | .vsub d a b m => execVsub d a b m s
  | .vmul d a b m => execVmul d a b m s
  | .vfma d a b c m => execVfma d a b c m s
  | .vmin d a b m => execVmin d a b m s
  | .vmax d a b m => execVmax d a b m s
  | .vclamp d a b c m => execVclamp d a b c m s
  | .vcmp d a b m u c => execVcmp d a b m u c s
  | .vsel d a b m => execVsel d a b m s
  | .vcvt d a m st u t => execVcvt d a m st u t s
  | .vmov d a m => execVmov d a m s
  | .vbcast d r m => execVbcast d r m s
  | .vredsum d a b m => execVredsum d a b m s
  | .vredmax d a b m => execVredmax d a b m s
  | .mand d a b => execMand d a b s
  | .mor d a b => execMor d a b s
  | .mnot d a => execMnot d a s
  | .add d a b => execAdd d a b s
  | .addi d a i => execAddi d a i s
  | .sub d a b => execSub d a b s
  | .mpopc d a => execMpopc d a s
  | .mfirst d a => execMfirst d a s
  | .vext d a r => execVext d a r s
  | _ => .next (advance s)

/-- The departure cause of a trap (R242). -/
def departure (cause : Nat) : Nat :=
  if cause = 0x10 then 2 else if cause = 0x0B then 4 + 256 * 0x0B else 3 + 256 * cause

/-- The bytes that some packets write, by physical address, the later of two for one address (R89, R99). -/
def packetBytes (ps : List Packet) : List (Nat × Byte) :=
  ps.foldl (fun l p => match p.place with
    | .phys pa =>
      l.filter (fun c => !(decide (pa ≤ c.1) && decide (c.1 < pa + p.size))) ++
        (List.range p.size).map (fun i => (pa + i, BitVec.ofNat 8 (p.data / 256 ^ i)))
    | _ => l) []

/-- Memory with some bytes in it. -/
def overlayBytes (m : Sparse 8) (bs : List (Nat × Byte)) : Sparse 8 := bs.foldl (fun m c => sset m c.1 c.2) m

/-- What a replayed iteration has stored so far: its bytes and the table entries whose D bit they set. -/
structure Stored where
  bytes : List (Nat × Byte)
  entries : List (Nat × Bool)
  deriving DecidableEq, Repr

/-- The stores of one instruction taken from its packets: the iteration's later loads see them in memory. -/
def takeStores (t : State) (w : Stored) : State × Stored :=
  let bs := packetBytes t.packets
  ({ t with mem := overlayBytes t.mem bs, packets := [] },
    ⟨w.bytes.filter (fun c => !bs.any (fun d => d.1 == c.1)) ++ bs, (w.entries ++ (t.packets.map (·.entries)).flatten).eraseDups⟩)

/-- The body of one iteration from its recorded operations: the state it leaves with what it has stored, or the departure
cause and the state it left off in. -/
def replayOps (s : State) (w : Stored) (ops : List LoopOp) : (State × Stored) ⊕ (Nat × State) :=
  match ops with
  | [] => .inl (s, w)
  | o :: rest =>
    let s1 := { s with hart := { s.hart with pc := o.pc, ir := o.ir } }
    match loopInstr o with
    | none => .inl (s, w)
    | some (.lnext a _) => replayOps (setReg s1 a (getReg s1 a - 1)) w rest
    | some i =>
      match (loopRole i).1 with
      | .guard .. => if guardTaken s1 i != o.taken then .inr (1, s1) else replayOps s1 w rest
      | _ =>
        match replayInstr i s1 with
        | .next t =>
          if t.hart.stalled then .inr (departure 0x08, t)
          else if t.hart.pc = o.pc + 4 then let r := takeStores t w; replayOps r.1 r.2 rest
          else .inr (departure (bits t.hart.csr.cause 0 8), t)
        | _ => .inr (3, s1)

/-- Memory as it was where an iteration has stored (R349). -/
def withoutBytes (m now : Sparse 8) (bs : List (Nat × Byte)) : Sparse 8 := bs.foldl (fun m c => sset m c.1 (sget now c.1)) m

/-- The physical granules that iteration `i` of a replay reads (R349): its loads, in the page of its footprint. -/
def replayReads (l : Loop) (e : Stope) : List Nat :=
  match e.job with
  | .replay _ lo _ => (granulesAt l.ops l.next false).map (fun g => lo / 2 ^ 21 * 2048 + g % 2048)
  | .near _ => []

/-- A status word of a marked loop. -/
def loopStatus (st index detail : Nat) : Word := statusWord 7 st index detail

/-- An iteration of a replay computed as if the core ran it, with what its steps have read; its own stores go into the
accumulators once its guards have passed, for its last step to write (R116, R349).  An uncorrectable error that it meets is
logged (R394). -/
def replayIteration (s : State) (husk : Option Nat) (h : Hart) (l : Loop) : State :=
  let core := h.core
  let t0 : State := { s with hart := replayHart h l, packets := [], dirty := s.dirty.filter (fun b => b.core != core) }
  match replayOps t0 ⟨[], []⟩ (l.ops.getD 0 []) with
  | .inr (cause, t) =>
    onPlace { s with pits := t.pits } husk core (fun h =>
      { h with loop := some { l with phase := .over (loopStatus 2 l.next cause) } })
  | .inl (t, w) =>
    let l1 : Loop := { l with
      next := l.next + 1, regs := t.hart.regs, vec := t.hart.vec, flags := l.flags ||| bits t.hart.csr.fcsr 0 5 }
    let t1 : State := { t with
      hart := s.hart, others := s.others, mem := withoutBytes t.mem s.mem w.bytes, packets := s.packets, dirty := s.dirty }
    let t2 := setStope t1 (l.stack.getD 0) l.stope (fun e => { e with reads := [], accs := w.bytes, entries := w.entries })
    onPlace t2 husk core (fun h => { h with loop := some l1 })

/-- REPLAY_ITERATION: the next granule step that reads for an iteration, once the one before has written what it stored; with
the last of them the iteration is computed, or the replay departs before it (R116, R242, R349). -/
def execReplayIteration (core : CoreId) (s : State) : Out :=
  .next (match loopPlace s core.val (· == .replaying) with
    | none => s
    | some (husk, h, l) =>
      let k := l.stack.getD 0
      match stopeAt s k l.stope with
      | none => s
      | some e =>
        if l.n ≤ l.next || e.suspended.isSome || decide (s.clock ≤ e.since) || !e.accs.isEmpty then s
        else
          match (replayReads l e).filter (fun q => !e.reads.contains q) with
          | [] => replayIteration s husk h l
          | q :: rest =>
            if !stepReady s k (1024 * q) then s
            else
              let s1 := setStope (openGranule s k (1024 * q)) k l.stope (fun e => { e with reads := e.reads ++ [q] })
              closeGranule (if rest.isEmpty then replayIteration s1 husk h l else s1) k l.stope (1024 * q))

/-- LOOP_STATUS_WRITE: the replay is over, its stores performed; its status is written and its engine released
(R243, R348). -/
def execLoopStatusWrite (core : CoreId) (s : State) : Out :=
  let due := fun (p : LoopPhase) => match p with
    | .over _ | .replaying => true
    | _ => false
  .next (match loopPlace s core.val due with
    | none => s
    | some (husk, _, l) =>
      let held := match stopeAt s (l.stack.getD 0) l.stope with
        | some e => !e.accs.isEmpty
        | none => false
      let status := if held then none else match l.phase with
        | .over w => some w
        | _ => if l.n ≤ l.next then some (loopStatus 0 l.n 0) else none
      match status with
      | none => s
      | some w =>
        let s1 := releaseStope s (l.stack.getD 0) l.stope
        let s2 := onPlace s1 husk core.val (fun h =>
          let h1 : Hart := { h with loop := some { l with phase := .finished w, cur := [], ops := [] } }
          let h2 := if bits w 56 4 = 2 then countHart h1 0x15 8 1 else h1
          if l.rd = 0 then h2 else latchHart (writePending h2 l.rd w))
        if l.rd = 0 then s2 else wakePlace s2 husk)

/-! ### The join (R243, R244) -/

/-- A carried reduction handed back: its registers with their tags and progress. -/
def handRegister (l : Loop) (c : Csr) (v : Vec) (r : Nat) : Vec :=
  let from_ := l.vec
  let lo := r * regLen c
  let src := r * regLen l.csr
  { v with
    vrf := soverlay (sclear v.vrf lo (lo + regLen c)) (sslice from_.vrf src (src + Nat.min (regLen c) (regLen l.csr)) lo)
    tags := v.tags.setIfInBounds r ((from_.tags[r]?).getD 0)
    index := v.index.setIfInBounds r ((from_.index[r]?).getD 0)
    complete := setBits v.complete r 1 1 }


/-- The hart after the hand-back: carried scalars and reductions, and the flags of replay; the loop closed. -/
def handBack (h : Hart) (l : Loop) : Hart :=
  let put := fun (rs : Vector Word 32) (r : SReg) => if r = 0 then rs else rs.set r l.regs[r]
  let v := (carriedRegs l).foldl (fun v r => handRegister l h.csr v r) h.vec
  orFlags { h with regs := put (put (put h.regs l.count) l.ind1) l.ind2, vec := v, loop := none } l.flags

/-- LJOIN: one that takes the status is an acquire, after every release before it (R103, R116). -/
def execLjoin (a : SReg) (o : BitVec 13) (s : State) : Out :=
  match s.hart.loop with
  | none => .next (trapWord s 0x01 0)
  | some l =>
    if a ≠ l.rd then .next (trapWord s 0x01 0)
    else
      match l.phase with
      | .recording => .next (advance { s with hart := { declineLoop s.hart 12 with loop := none } })
      | .declined => .next (advance { s with hart := { s.hart with loop := none } })
      | .finished w =>
        let s0 := acquireNow s
        let s1 := { s0 with hart := handBack s0.hart l }
        .next (if bits w 56 4 = 2 then setPc s1 (target s o) else advance s1)
      | _ => .next (stall s)

/-- Whether an instruction sets every vector register to zero (R17): a write of VRCFG. -/
def clearsRegs (x : Instr) : Bool :=
  match x with
  | .vrcfg _ => true
  | .csrw _ n => n == 0x003
  | .csrs _ n => n == 0x003
  | .csrc _ n => n == 0x003
  | _ => false

/-- A carried vector register that an instruction would write (R242), checked as it issues: the lowest.  The words of a
block are checked as the block is taken, those of a path as a virtual processor reaches them. -/
def frozenVector (h : Hart) (x : Instr) : Option Nat :=
  if clearsRegs x then (List.range 64).find? (frozenRegs h).contains
  else (uses x).vw.findSome? (fun d => frozenIn h d.val)

end Sys2Proof.Machine
end

