-- ==== Sys2Proof/Machine/Narrow.lean ====
section
/-! DEFINITION. The narrow formats (R77 to R85): decoding, widening, scales, and narrowing to the bit. -/

namespace Sys2Proof.Machine

/-- The width in bits of a format's elements (R77). -/
def fmtBits (f : Fmt) : Nat :=
  match f with
  | .fp16 => 16
  | .e4m3 | .e5m2 | .int8 => 8
  | .e3m2 | .e2m3 => 6
  | .e2m1 | .int4 => 4

/-- Whether a format is an integer. -/
def fmtInt (f : Fmt) : Bool := f == .int8 || f == .int4

/-- The exponent and fraction widths of a float format (R77). -/
def fmtFloat (f : Fmt) : FloatFmt :=
  match f with
  | .fp16 => fp16
  | .e4m3 => ⟨4, 3⟩
  | .e5m2 => ⟨5, 2⟩
  | .e3m2 => ⟨3, 2⟩
  | .e2m3 => ⟨2, 3⟩
  | .e2m1 => ⟨2, 1⟩
  | .int8 => ⟨8, 7⟩
  | .int4 => ⟨4, 3⟩

/-- emax (R77). -/
def fmtEmax (f : Fmt) : Int :=
  match f with
  | .fp16 => 15
  | .e4m3 => 8
  | .e5m2 => 15
  | .e3m2 => 4
  | .e2m3 => 2
  | .e2m1 => 2
  | .int8 => 6
  | .int4 => 2

/-- The code of the largest finite magnitude of a format without infinities (R77). -/
def fmtTop (f : Fmt) : Nat :=
  match f with
  | .e4m3 => 126
  | .e2m1 => 7
  | _ => 31

/-- The alignment of a narrow access's base (R78). -/
def fmtAlign (f : Fmt) : Nat :=
  match f with
  | .fp16 => 2
  | .e3m2 | .e2m3 => 4
  | _ => 1

/-- The number that a code stands for, before its scale (R77). -/
def decodeNarrow (f : Fmt) (v : Nat) : Num :=
  if fmtInt f then ofInt (signed (fmtBits f) v)
  else if f == .fp16 || f == .e5m2 then unpack (fmtFloat f) v
  else if f == .e4m3 && v % 128 == 127 then .nan false
  else
    let g := fmtFloat f
    let neg := v.testBit (g.eb + g.mb)
    let ex := v / 2 ^ g.mb % 2 ^ g.eb
    let m := v % 2 ^ g.mb
    if ex = 0 then .fin neg m g.qmin else .fin neg (m + 2 ^ g.mb) (g.qmin + (ex - 1 : Nat))

/-- A number times 2^x. -/
def scaleNum (n : Num) (x : Int) : Num :=
  match n with
  | .fin neg m e => .fin neg m (e + x)
  | _ => n

/-- An element widened to tag `t` under scale byte `b` (R80). -/
def widenNarrow (c : Csr) (f : Fmt) (t v b : Nat) : Nat × Nat :=
  if floatTag t then
    let n := decodeNarrow f v
    if f == .fp16 then pack (tagFmt t) (vrmOf c) (ftzOf c) (n, nanFlag n)
    else if b = 255 then (nanBits (tagFmt t), 0)
    else pack (tagFmt t) (vrmOf c) (ftzOf c) (scaleNum n ((b : Int) - 127), nanFlag n)
  else (wrap (tagBits t) (signed (fmtBits f) v), 0)

/-! ### Narrowing -/

/-- The bits of SEED's draw for an element (R84). -/
def mix (seed : Word) (e : Nat) : Nat :=
  let z := seed + word e
  let z1 := (z ^^^ (z >>> 30)) * 0xBF58476D1CE4E5B9#64
  let z2 := (z1 ^^^ (z1 >>> 27)) * 0x94D049BB133111EB#64
  bits (z2 ^^^ (z2 >>> 31)) 0 16

/-- The rounding of an element under the selector of a narrow store (R81, R84). -/
def narrowRm (r : NRound) (seed : Word) (e : Nat) : Rm :=
  match r with
  | .rne => .rne
  | .rtz => .rtz
  | .rdn => .rdn
  | .rup => .rup
  | .sr => .sr (mix seed e)

/-- floor(log2) of a number that is finite and not zero. -/
def exponentOf (n : Num) : Option Int :=
  match n with
  | .fin _ m e => if m = 0 then none else some ((m.log2 : Int) + e)
  | _ => none

/-- The larger of two optional exponents. -/
def maxExp (a b : Option Int) : Option Int :=
  match a, b with
  | some x, some y => some (max x y)
  | some x, none => some x
  | none, y => y

/-- The scale byte of a block from its active elements, as R69 reads them (R82). -/
def scaleByte (f : Fmt) (xs : List Num) : Nat :=
  if xs.any (fun n => n.isNan) then 255
  else
    match xs.foldl (fun acc n => maxExp acc (exponentOf n)) none with
    | none => 127
    | some k => (max (-127) (min 127 (k - fmtEmax f)) + 127).toNat

/-- ±m · 2^e rounded into a float format without infinities, saturating (R82). -/
def roundSat (f : Fmt) (rm : Rm) (neg : Bool) (m : Nat) (e : Int) : Nat × Nat :=
  let g := fmtFloat f
  let sign := signBit g neg
  if m = 0 then (sign, 0)
  else
    let top : Int := (m.log2 : Int) + e
    let q := max (top - g.mb) g.qmin
    let r := quantize rm neg m e q
    let mag := r.1 + (q - g.qmin).toNat * 2 ^ g.mb
    if fmtTop f < mag then (sign + fmtTop f, flagOF ||| flagNX)
    else
      let unbounded := (quantize rm neg m e (top - g.mb)).1
      let lead := if 2 ^ (g.mb + 1) ≤ unbounded then top + 1 else top
      let tiny := decide (lead < g.qmin + g.mb)
      (sign + mag, if r.2 then (if tiny then flagNX ||| flagUF else flagNX) else 0)

/-- A float rounded to a narrow integer and clamped (R82). -/
def roundInt (f : Fmt) (rm : Rm) (n : Num) : Nat × Nat :=
  let w := fmtBits f
  let lo : Int := -((2 ^ (w - 1) : Nat) : Int)
  let hi : Int := ((2 ^ (w - 1) : Nat) : Int) - 1
  match n with
  | .nan _ => (0, 0)
  | .inf neg => (wrap w (if neg then lo else hi), flagOF ||| flagNX)
  | .fin neg m e =>
    let r := quantize rm neg m e 0
    let v : Int := if neg then -(r.1 : Int) else r.1
    if v < lo then (wrap w lo, flagOF ||| flagNX) else if hi < v then (wrap w hi, flagOF ||| flagNX)
    else (wrap w v, if r.2 then flagNX else 0)

/-- An element narrowed under its block's scale byte (R82, R83). -/
def narrowElem (f : Fmt) (rm : Rm) (b : Nat) (n : Num) : Nat × Nat :=
  if f == .fp16 then
    (match n with
      | .nan s => (0x7E00, nanFlag (.nan s))
      | _ => pack fp16 rm false (n, 0))
  else if b = 255 then (0, 0)
  else
    let x := scaleNum n (127 - (b : Int))
    if fmtInt f then roundInt f rm x
    else if f == .e5m2 then pack (fmtFloat f) rm false (x, 0)
    else
      match x with
      | .inf neg => (signBit (fmtFloat f) neg + fmtTop f, flagOF ||| flagNX)
      | .fin neg m e => roundSat f rm neg m e
      | .nan _ => (0, 0)

/-- An integer element clamped into a narrow integer format (R81). -/
def clampInt (f : Fmt) (v : Int) : Nat := saturate (fmtBits f) false v

end Sys2Proof.Machine
end

