-- ==== Sys2Proof/Machine/NarrowMem.lean ====
section
/-! DEFINITION. The narrow loads and stores (R78, R215, R216): where elements and scale bytes lie, and the three
instructions. -/

namespace Sys2Proof.Machine

/-- Where element `q` of a run of elements starts: its byte offset, its first bit in that byte, and the bytes it
touches (R78). -/
def narrowSpot (f : Fmt) (q : Nat) : Nat × Nat × Nat :=
  let w := fmtBits f
  if w = 6 then
    let b := 96 * (q / 16) + 6 * (q % 16)
    (b / 8, b % 8, if b % 8 + 6 > 8 then 2 else 1)
  else (q * w / 8, q * w % 8, ceilDiv w 8)

/-- Bytes at an address, cut at a page boundary. -/
def cutPieces (a : Word) (n : Nat) : List Piece :=
  if n = 2 ∧ a.toNat % 4096 = 4095 then [⟨a, 1⟩, ⟨a + 1, 1⟩] else [⟨a, n⟩]

/-- The data address of element `e` of a narrow access: blocks follow one another, or a stride apart (R215). -/
def narrowAddr (f : Fmt) (base : Word) (stride : Option Word) (e : Nat) : Word :=
  match stride with
  | none => base + word (narrowSpot f e).1
  | some st => base + word (e / 16) * st + word (narrowSpot f (e % 16)).1

/-- The pieces of element `e`: its data bytes, and its block's scale byte (R215). -/
def narrowPieces (f : Fmt) (base : Word) (stride scale : Option Word) (e : Nat) : List Piece :=
  cutPieces (narrowAddr f base stride e) (narrowSpot f e).2.2 ++
    (match scale with
      | none => []
      | some sc => [⟨sc + word (e / 16), 1⟩])

/-- What belongs to an element's data, and to its scale byte. -/
def splitScale {α : Type} (scaled_ : Bool) (xs : List α) : List α × Option α :=
  if scaled_ then (xs.dropLast, xs.getLast?) else (xs, none)

/-- Bytes read by a lane at the places of an element's data. -/
def narrowRead (s : State) (e : Nat) (ps : List Place) (n : Nat) : Nat × State :=
  match ps with
  | [p, q] =>
    let a := laneRead s e p 1
    let b := laneRead a.2 e q 1
    (a.1 + 256 * b.1, b.2)
  | p :: _ => laneRead s e p n
  | [] => (0, s)

/-- What the elements of a narrow access leave: the state, and where an enabled flag ended them, the element, its
flags, and the flags that its trap ORs in. -/
structure NarrowSweep where
  state : State
  stop : Option (Nat × Nat × Nat)

/-- Elements read, widened and written in order, up to an enabled flag (R72, R73, R216).  `scale` is the block and the
scale byte read last: a block's is read once. -/
def narrowElems (s : State) (f : Fmt) (fm : Form) (pieces : Nat → List Piece) (r t : Nat) (scaled_ : Bool)
    (scale : Option (Nat × Nat)) (els : List (Nat × List Place)) : NarrowSweep :=
  match els with
  | [] => ⟨s, none⟩
  | (e, ps) :: rest =>
    let s1 := (markPieces s fm (pieces e)).2
    let sp := splitScale scaled_ ps
    let spot := narrowSpot f e
    let d := narrowRead s1 e sp.1 spot.2.2
    let b := match sp.2, scale with
      | some p, some x => if x.1 = e / 16 then (x.2, d.2) else laneRead d.2 e p 1
      | some p, none => laneRead d.2 e p 1
      | none, _ => (127, d.2)
    let v := d.1 / 2 ^ spot.2.1 % 2 ^ fmtBits f
    let x := widenNarrow b.2.hart.csr f t v b.1
    if x.2 &&& enables b.2.hart.csr ≠ 0 then ⟨b.2, some (e, x.2, x.2)⟩
    else narrowElems { b.2 with hart := setElem (orFlags b.2.hart x.2) r (narrowTag t) e x.1 } f fm pieces r t scaled_
      (some (e / 16, b.1)) rest

/-- The element at which an access ends. -/
def AccessTrap.elem (t : AccessTrap) : Nat :=
  match t with
  | .range e _ => e
  | .batch _ e _ => e
  | .deny _ e _ _ => e

/-- Whether the trap of an enabled flag at element `e` comes before the trap of the access itself: the lower element's
comes first (log 29). -/
def flagFirst (p : Plan) (e : Nat) : Bool :=
  match p.trap with
  | some t => decide (e < t.elem)
  | none => true

/-- A plan whose elements from `z` on are not performed after all: m0 marks them for the access that is issued again. -/
def Plan.cutAt (p : Plan) (z : Nat) : Plan :=
  { p with marks := p.marks ++ (p.els.map (·.1)).filter (fun e => decide (z ≤ e)) }

/-- A narrow load (R215, R216).  An enabled flag traps at its element, and the element's group is loaded again (R73). -/
def narrowLoad (s : State) (f : Fmt) (g : DTag) (t : VReg) (b sc : SReg) (stride : Option SReg) (m : MReg) : Out :=
  let h := s.hart
  let tag := dtagNum g
  let n := lengthOf h
  let scaled_ := !unscaled f g
  let base := getReg s b
  let st := stride.map (getReg s)
  if !narrowPair f g then vecTrap s 0x01 0
  else checkRegs s [t.val] (
    if overfull h tag then vecTrap s 0x03 (topndV t.val 0)
    else if n ≠ 0 ∧ base.toNat % fmtAlign f ≠ 0 then vecTrapAt s 0x06 base (topndS b)
    else if n ≠ 0 ∧ (st.map (fun x => decide (x.toNat % fmtAlign f ≠ 0))).getD false then
      vecTrapAt s 0x06 (st.getD 0) (topndS (stride.getD 0))
    else
      let fm : Form := ⟨m, 1, false, true, false, 1, b.val⟩
      let pieces := narrowPieces f base st (if scaled_ then some (getReg s sc) else none)
      vecAccess s fm n pieces (fun s1 p =>
        let h1 := setTags s1.hart t.val (groupOf s1.hart.csr) tag
        let w := narrowElems { s1 with hart := h1 } f fm pieces t.val tag scaled_ none p.els
        let s2 := w.state
        match w.stop with
        | some (e, fl, all) =>
          if flagFirst p e then
            let h2 := setArrival (zeroInactive (orFlags s2.hart all) m t.val (narrowTag tag) e) t.val
              (groupsMissing [] (e / 64 * 64) n)
            .next (startedTrap { s2 with hart := h2 } h.vec.tags 0x10 (word fl) (topndV t.val e)
              (Nat.max h.restart.start (e / 64 * 64)) h.restart.useM0 0)
          else
            let p1 := p.cutAt e
            finish { s2 with hart := loadLeft s2.hart m t.val tag n p1 } h.vec.tags fm p1
        | none => finish { s2 with hart := loadLeft s2.hart m t.val tag n p } h.vec.tags fm p))

/-- VLDN. -/
def execVldn (t : VReg) (b sc : SReg) (m : MReg) (f : Fmt) (g : DTag) (s : State) : Out :=
  narrowLoad s f g t b sc none m
/-- VLDNS. -/
def execVldns (t : VReg) (b sc r : SReg) (f : Fmt) (g : DTag) (s : State) : Out :=
  narrowLoad s f g t b sc (some r) 0

/-! ### Stores -/

/-- Whether a source tag may be stored in a format (R80, R81). -/
def narrowSource (f : Fmt) (t : Nat) : Bool := floatTag t || ((t == 3 || t == 4) && fmtInt f)

/-- The code of a store's element: an integer clamped, or a float narrowed under the block's scale. -/
def narrowCode (c : Csr) (f : Fmt) (r : NRound) (t b e x : Nat) : Nat × Nat :=
  if floatTag t then
    narrowElem f (narrowRm r c.seed e) b (operand (tagFmt t) (ftzOf c) x)
  else (clampInt f (signed (tagBits t) x), 0)

/-- The data of an element sent to its places as one packet, with the bits it writes (R85, R96). -/
def sendNarrow (s : State) (f : Fmt) (e code : Nat) (ps : List Place) (es : List (Nat × Bool)) : State :=
  let spot := narrowSpot f e
  let d := code * 2 ^ spot.2.1
  let k := (2 ^ fmtBits f - 1) * 2 ^ spot.2.1
  match ps with
  | [p, q] => sendElem s e p (some q) 2 d k es
  | p :: _ => sendElem s e p none spot.2.2 d k es
  | [] => s

/-- One block's elements with their codes and flags, under the scale byte of the block. -/
def blockCodes (h : Hart) (f : Fmt) (r : NRound) (vt t b : Nat) (els : List (Nat × List Place)) :
    List (Nat × Nat × Nat) :=
  els.map (fun x =>
    let c := narrowCode h.csr f r t b x.1 (getElem h vt (narrowTag t) x.1)
    (x.1, c.1, c.2))

/-- A narrow store's blocks narrowed and sent in order, up to one in which an enabled flag is raised (R73, R216). -/
def storeBlocks (s : State) (f : Fmt) (r : NRound) (fm : Form) (pieces : Nat → List Piece) (vt t : Nat)
    (scaled_ : Bool) (act : Nat → Bool) (n : Nat) (els : List (Nat × List Place)) (j k : Nat) : NarrowSweep :=
  match k with
  | 0 => ⟨s, none⟩
  | k + 1 =>
    let mine := els.filter (fun x => x.1 / 16 == j)
    if mine.isEmpty then storeBlocks s f r fm pieces vt t scaled_ act n els (j + 1) k
    else
      let h := s.hart
      let live := ((List.range 16).map (fun q => 16 * j + q)).filter (fun e => decide (e < n) && act e)
      let b := if scaled_ then scaleByte f (live.map (fun e =>
        operand (tagFmt t) (ftzOf h.csr) (getElem h vt (narrowTag t) e))) else 127
      let codes := blockCodes h f r vt t b mine
      match codes.find? (fun c => c.2.2 &&& enables h.csr ≠ 0) with
      | some (e, _, fl) =>
        ⟨s, some (e, fl, codes.foldl (fun a c => if c.1 ≤ e then a ||| c.2.2 else a) 0)⟩
      | none =>
        let s1 := mine.foldl (fun s x =>
          let c := (codes.find? (fun c => c.1 == x.1)).getD (0, 0, 0)
          let k := markPieces s fm (splitScale scaled_ (pieces x.1)).1
          sendNarrow k.2 f x.1 c.2.1 (splitScale scaled_ x.2).1 k.1) s
        let s2 := match (mine.head?.bind (fun x => (splitScale scaled_ x.2).2)) with
          | some p =>
            let k := markPieces s1 fm (splitScale scaled_ (pieces (16 * j))).2.toList
            sendElem k.2 (16 * j) p none 1 b 255 k.1
          | none => s1
        let fl := codes.foldl (fun a c => a ||| c.2.2) 0
        storeBlocks { s2 with hart := orFlags s2.hart fl } f r fm pieces vt t scaled_ act n els (j + 1) k

/-- VSTN: blocks narrowed and stored in order; SEED advances when a stochastic store completes (R82 to R85,
R216), one of integers too, whose elements round nothing (log 29).  The trap of an enabled flag names the source register
(log 29), and the element's group is stored again (R73). -/
def execVstn (t : VReg) (b sc : SReg) (m : MReg) (f : Fmt) (r : NRound) (s : State) : Out :=
  let h := s.hart
  let tag := tagOfReg h t.val
  let n := lengthOf h
  let scaled_ := floatTag tag && f != .fp16
  let base := getReg s b
  checkRegs s [t.val] (
    if !narrowSource f tag || overfull h tag then vecTrap s 0x03 (topndV t.val 0)
    else if n ≠ 0 ∧ base.toNat % fmtAlign f ≠ 0 then vecTrapAt s 0x06 base (topndS b)
    else
      let fm : Form := ⟨m, 1, true, false, false, 1, b.val⟩
      let pieces := narrowPieces f base none (if scaled_ then some (getReg s sc) else none)
      vecAccess s fm n pieces (fun s1 p =>
        let act := fun e => enabled h m e && decide (h.restart.start ≤ e) && decide (e < p.len)
        let w := storeBlocks s1 f r fm pieces t.val tag scaled_ act n p.els 0 (ceilDiv n 16)
        let s2 := w.state
        match w.stop with
        | some (e, fl, all) =>
          if flagFirst p e then
            .next (startedTrap { s2 with hart := orFlags s2.hart all } h.vec.tags 0x10 (word fl) (topndV t.val e)
              (Nat.max h.restart.start (e / 64 * 64)) h.restart.useM0 0)
          else finish s2 h.vec.tags fm (p.cutAt (e / 16 * 16))
        | none =>
          let seed := if r == .sr && p.trap.isNone && p.stop.isNone then s2.hart.csr.seed + word p.len
            else s2.hart.csr.seed
          finish (setCsr s2 (fun c => { c with seed := seed })) h.vec.tags fm p))

end Sys2Proof.Machine
end

