-- ==== Sys2Proof/Machine/Network.lean ====
section
/-! DEFINITION. The package network (R7, R118, R363 to R370): packets that arrive and wait in their window, suspect
packets, the lamp and the adit lane, and NETCTL; and stores leaving the store buffer (R93). -/

namespace Sys2Proof.Machine

/-- STORE_BUFFER_DRAIN: the oldest buffered store of a core is performed (R93). -/
def execStoreBufferDrain (core : CoreId) (s : State) : Out := .next (drainOne s core.val)

/-! ### Arrival (R118, R365) -/

/-- PACKET_ARRIVAL: the k-th packet reaches its slice through the mesh, unless a recovered packet is before it (R367). -/
def execPacketArrival (k : Nat) (s : State) : Out :=
  match s.packets[k]? with
  | some p => .next (if p.transit = .mesh ∧ recovering s p.endpoint = 0 then arrive s p else s)
  | none => .next s

/-! ### Routers (R7, R363, R364) -/

/-- The mesh coordinates of a router number. -/
def routerXY (r : Nat) : Nat × Nat := (r % 16, r / 16)

/-- The die of a router. -/
def routerDie (r : Nat) : Nat := r % 16 / 8 + 2 * (r / 16 / 8)

/-- The lamp's position at a router, and the router at a position (R366). -/
def lampRouter (p : Nat) : Nat :=
  if p < 240 then
    let y := p / 15
    let x := if y % 2 = 0 then p % 15 + 1 else 15 - p % 15
    16 * y + x
  else 16 * (255 - p)

/-! ### Suspects and the lamp (R366 to R368) -/

/-- A packet that crosses the mesh: local windows lie within their core. -/
def crossesMesh (p : Packet) : Bool :=
  match p.place with
  | .phys _ => true
  | _ => false

/-- The stores and pushes in the mesh, each with its number and since when it has not advanced (R366). -/
def inMesh (s : State) : List (Nat × Nat) :=
  (s.packets.filter (fun p => p.transit == .mesh && crossesMesh p)).map (fun p => (p.id, p.since)) ++
    (s.pushes.filter (fun p => p.transit == .mesh)).map (fun p => (p.id, p.since))

/-- BLOCK_SUSPECT: the oldest packet that has not advanced for BLKT cycles and that no router suspects yet becomes suspect
at router `r` (log 36). -/
def execBlockSuspect (r : RouterId) (s : State) : Out :=
  let blkt := bits s.netctl 0 16
  let late := (inMesh s).filter (fun p => decide (p.2 + blkt ≤ s.clock) && !s.suspects.any (fun x => x.2 == p.1))
  match (late.map (·.1)).min? with
  | some id => .next (if s.suspects.any (fun x => x.1 == r.val) then s else { s with suspects := s.suspects ++ [(r.val, id)] })
  | none => .next s

/-- A packet in the mesh advances: its router's count starts again, and it is not suspect (R366). -/
def advancePacket (s : State) (id : Nat) : State :=
  unsuspect { s with
    packets := s.packets.map (fun p => if p.id = id ∧ p.transit = .mesh then { p with since := s.clock } else p)
    pushes := s.pushes.map (fun p => if p.id = id ∧ p.transit = .mesh then { p with since := s.clock } else p) } id

/-- LAMP_HOP: the lamp moves on, unless a router holds it, and is captured where a suspect packet waits. -/
def execLampHop (s : State) : Out :=
  match s.lampHolder with
  | some _ => .next s
  | none =>
    let p := (s.lamp + 1) % 256
    let r := lampRouter p
    let s1 := { s with lamp := p, lampSeen := if routerDie r = 0 then s.clock else s.lampSeen }
    match s1.suspects.find? (fun x => x.1 == r) with
    | some x =>
      .next (setTransit { s1 with
        lampHolder := some ⟨r, x.2, false⟩, suspects := s1.suspects.filter (fun y => y.2 != x.2) } x.2 .adit)
    | none => .next s1

/-- The endpoint of the packet or push numbered `id`. -/
def endpointOf (s : State) (id : Nat) : Option Nat :=
  match s.packets.find? (fun p => p.id == id) with
  | some p => some p.endpoint
  | none => (s.pushes.find? (fun p => p.id == id)).map Push.endpoint

/-- RECOVERY_BUFFER_ACCEPT: the packet on the adit lane takes one of the destination's four entries, and the
acknowledgement is on its way. -/
def execRecoveryBufferAccept (s : State) : Out :=
  match s.lampHolder with
  | some l =>
    if l.accepted then .next s
    else
      let done := { s with lampHolder := some { l with accepted := true } }
      match endpointOf s l.packet with
      | some e => .next (if recovering s e < 4 then setTransit done l.packet .recovery else s)
      | none => .next done
  | none => .next s

/-- LAMP_RELEASE: the acknowledgement arrives; the lamp moves on from its router. -/
def execLampRelease (s : State) : Out :=
  match s.lampHolder with
  | some l => .next (if l.accepted then { s with lampHolder := none } else s)
  | none => .next s

/-- RECOVERY_BUFFER_DRAIN: the k-th of the packets and, after them, the pushes, from a recovery buffer, is handled like an
arrival. -/
def execRecoveryBufferDrain (k : Nat) (s : State) : Out :=
  match s.packets[k]? with
  | some p => .next (if p.transit = .recovery then arrive s p else s)
  | none =>
    match s.pushes[k - s.packets.length]? with
    | some p =>
      .next (if p.transit = .recovery then
        deliver (unsuspect { s with pushes := s.pushes.eraseIdx (k - s.packets.length) } p.id) p
      else s)
    | none => .next s

/-- LAMP_REGENERATE: die 0 has not seen the lamp for 131,072 cycles; the new one starts at position 0 (log 36), and
the router there is the unit of the record (log 35). -/
def execLampRegenerate (s : State) : Out :=
  .next (if s.lampHolder.isNone && decide (s.lampSeen + 131072 ≤ s.clock) then
    logPit { s with lamp := 0, lampSeen := s.clock } 0 3 (lampRouter 0) 0x01 0
  else s)

/-- NETCTL_WRITE (R370). -/
def execNetctlWrite (v : Word) (s : State) : Out :=
  .next (if bits v 18 46 ≠ 0 ∨ bits v 0 16 < 64 then s else { s with netctl := v })

end Sys2Proof.Machine
end

