-- ==== Sys2Proof/Machine/ScalarFloat.lean ====
section
/-! DEFINITION. The scalar FP32 instructions (R155 to R157). -/

namespace Sys2Proof.Machine

/-- FADD. -/
def execFadd (d a b : SReg) (s : State) : Out :=
  singleResult s d (addNum (scalarRm s.hart) (single s a) (single s b))
/-- FSUB. -/
def execFsub (d a b : SReg) (s : State) : Out :=
  singleResult s d (addNum (scalarRm s.hart) (single s a) (single s b).neg)
/-- FMUL. -/
def execFmul (d a b : SReg) (s : State) : Out := singleResult s d (mulNum (single s a) (single s b))
/-- FFMA: one rounding. -/
def execFfma (d a b c : SReg) (s : State) : Out :=
  singleResult s d (fmaNum (scalarRm s.hart) (single s a) (single s b) (single s c))
/-- FDIV. -/
def execFdiv (d a b : SReg) (s : State) : Out := singleResult s d (divNum (single s a) (single s b))
/-- FSQRT. -/
def execFsqrt (d a : SReg) (s : State) : Out := singleResult s d (sqrtNum (single s a))
/-- FMIN. -/
def execFmin (d a b : SReg) (s : State) : Out := singleResult s d (minNum (single s a) (single s b))
/-- FMAX. -/
def execFmax (d a b : SReg) (s : State) : Out := singleResult s d (maxNum (single s a) (single s b))
/-- FCMP. -/
def execFcmp (d a b : SReg) (c : Cond) (s : State) : Out :=
  let r := compareNum c (single s a) (single s b)
  fpResult s d (bit r.1) r.2
/-- FCVT.i.f: to a signed 64-bit integer (R157). -/
def execFcvtIF (d a : SReg) (s : State) : Out :=
  let r := toInt (scalarRm s.hart) (-2 ^ 63) (2 ^ 63 - 1) (single s a)
  fpResult s d (wordI r.1) r.2
/-- FCVT.iu.f: to an unsigned 64-bit integer (R157). -/
def execFcvtIuF (d a : SReg) (s : State) : Out :=
  let r := toInt (scalarRm s.hart) 0 (2 ^ 64 - 1) (single s a)
  fpResult s d (wordI r.1) r.2
/-- FCVT.f.i. -/
def execFcvtFI (d a : SReg) (s : State) : Out := singleResult s d (ofInt (getReg s a).toInt, 0)
/-- FCVT.f.iu. -/
def execFcvtFIu (d a : SReg) (s : State) : Out := singleResult s d (ofInt (getReg s a).toNat, 0)
/-- FCVT.bf.f: FP32 to BF16 in bits [15:0] (R148). -/
def execFcvtBfF (d a : SReg) (s : State) : Out :=
  let x := single s a
  let r := pack bf16 (scalarRm s.hart) (scalarFtz s.hart) (x, nanFlag x)
  fpResult s d (word r.1) r.2
/-- FCVT.f.bf: BF16 from bits [15:0], exact (R76). -/
def execFcvtFBf (d a : SReg) (s : State) : Out :=
  let x := operand bf16 (scalarFtz s.hart) (bits (getReg s a) 0 16)
  singleResult s d (x, nanFlag x)

end Sys2Proof.Machine
end

