-- ==== Sys2Proof/Machine/VectorAtomic.lean ====
section
/-! DEFINITION. Vector atomics (R217) and the four fences (R100, R218). -/

namespace Sys2Proof.Machine

/-- The operations of R217. -/
inductive VamoOp where
  | add
  | max (u : Bool)
  | min (u : Bool)
  deriving DecidableEq, Repr

/-- The new value of `n` bits (R217). -/
def vamoNew (o : VamoOp) (n old x : Nat) : Nat :=
  match o with
  | .add => (old + x) % 2 ^ n
  | .max true => Nat.max old x
  | .max false => if signed n old < signed n x then x else old
  | .min true => Nat.min old x
  | .min false => if signed n x < signed n old then x else old

/-- Elements in the order in which the homes perform them (R99): by rank, equal ranks in element order.  A scratchpad
serves them in element order (R47). -/
def rankInsert (k : Nat) (x : Nat × List Place) (xs : List (Nat × List Place)) : List (Nat × List Place) :=
  match xs with
  | [] => [x]
  | y :: ys =>
    if Config.atomicRank k x.1 < Config.atomicRank k y.1 then x :: y :: ys else y :: rankInsert k x ys

/-- The elements of a vector atomic in their order. -/
def ranked (k : Nat) (els : List (Nat × List Place)) : List (Nat × List Place) :=
  match els with
  | (_, .phys _ :: _) :: _ => els.foldl (fun acc x => rankInsert k x acc) []
  | _ => els

/-- One element: read and write at the home as one step, which sets the A and D bits (R330); the hart's own L1 loses the
bytes (R61, R99). -/
def vamoElem (o : VamoOp) (s : State) (r t e : Nat) (p : Place) (entries : List (Nat × Bool)) : State :=
  let size := tagBytes t
  let s1 := markUsed (settle s (laneCluster e) (placeRange p size)) (partOf s.hart) entries true
  let old := bytesNat ((List.range size).map (fun i => byteAt s1 s1.hart (p.plus i)))
  let new := vamoNew o (tagBits t) old (getElem s1.hart r (narrowTag t) e)
  let s2 := placeBytes s1 s1.hart.core (classOfHart s1 s1.hart) p size new (2 ^ tagBits t - 1)
  { s2 with hart := setElem s2.hart r (narrowTag t) e old }

/-- A vector atomic: each active element performed once, in an order the spec leaves open (log 14); no tag changes (R217). -/
def vamo (o : VamoOp) (t : VReg) (b : SReg) (i : VReg) (m : MReg) (s : State) : Out :=
  let h := s.hart
  let tt := tagOfReg h t.val
  checkRegs s [t.val, i.val] (
    if shares h.csr t.val i.val then vecTrap s 0x01 (topndV t.val 0)
    else if (tt != 3 && tt != 4) || overfull h tt then vecTrap s 0x03 (topndV t.val 0)
    else if indexFails h i.val then vecTrap s 0x03 (topndV i.val 0)
    else
      let n := lengthOf h
      let f : Form := ⟨m, tagBytes tt, true, true, false, 2, i.val⟩
      let pieces := fun e => [⟨indexAddr s b i e, tagBytes tt⟩]
      vecAccess s f n pieces (fun s1 p =>
        let s2 := (ranked s1.fresh p.els).foldl (fun s x =>
          let k := markPieces s f (pieces x.1)
          vamoElem o k.2 t.val tt x.1 (x.2.headD (.sdm 0)) k.1) s1
        finish { s2 with hart := loadLeft s2.hart m t.val tt n p, fresh := s2.fresh + 1 } h.vec.tags f p))

/-- VAMOADD. -/
def execVamoadd (t : VReg) (b : SReg) (i : VReg) (m : MReg) (s : State) : Out := vamo .add t b i m s
/-- VAMOMAX. -/
def execVamomax (t : VReg) (b : SReg) (i : VReg) (m : MReg) (s : State) : Out := vamo (.max false) t b i m s
/-- VAMOMAX.u. -/
def execVamomaxU (t : VReg) (b : SReg) (i : VReg) (m : MReg) (s : State) : Out := vamo (.max true) t b i m s
/-- VAMOMIN. -/
def execVamomin (t : VReg) (b : SReg) (i : VReg) (m : MReg) (s : State) : Out := vamo (.min false) t b i m s
/-- VAMOMIN.u. -/
def execVamominU (t : VReg) (b : SReg) (i : VReg) (m : MReg) (s : State) : Out := vamo (.min true) t b i m s

/-! ### Fences -/

/-- FENCE.SV: the scalar stores that it follows performed, and the L1 written back, before later vector accesses.  The
vector unit waits for those that may not be performed yet, and for the loads without their data. -/
def execFenceSv (s : State) : Out :=
  let t := drainBuffer s s.hart.core
  if t.hart.buffer.any (fun st => decide (st.after < t.hart.vnow)) || t.hart.loads.any (fun l => decide (l.after < t.hart.vnow)) then
    .next (stall s)
  else .next (advance (cleanL1 t s.hart.core))
/-- FENCE.VS: the hart's vector accesses performed before later scalar accesses; it waits until the vector unit is done
with them. -/
def execFenceVs (s : State) : Out := .next (advance (performPackets s (fun p => p.core == s.hart.core)))
/-- FENCE.VV: the hart's vector accesses performed before later ones of any lane cluster. -/
def execFenceVv (s : State) : Out := .next (advance (performPackets s (fun p => p.core == s.hart.core)))
/-- LSYNC: every access of the hart performed. -/
def execLsync (s : State) : Out := .next (advance (cleanL1 (flushHart s s.hart.core) s.hart.core))

end Sys2Proof.Machine
end

