-- ==== Sys2Proof/Machine/Fetch.lean ====
section
/-! DEFINITION. Fetching an instruction word (R127, R159, R171): translation for execution, and the words that an
instruction cache already holds. -/

namespace Sys2Proof.Machine

/-- A fetch: the word, or why there is none. -/
inductive Fetched where
  | word (w : BitVec 32)
  | trap (cause : Nat) (stage2 : Bool)
  | missing (stage2 : Bool)
  deriving DecidableEq, Repr

/-- A line of a cache that a fetch goes through: 0 the instruction cache, 1 + c the AIB cache of lane cluster c. -/
def cacheKey (cache pa : Nat) : Nat := 2 ^ 52 * cache + pa / 64 * 64

/-- The lines that a cache holds (R1): 64 KiB, or 16 KiB for an AIB cache. -/
def cacheLines (cache : Nat) : Nat := if cache = 0 then 1024 else 256

/-- The caches with one more line of one of them, which loses its oldest where it is full (log 10). -/
def addLine (ls : List (Nat × BitVec 512)) (cache pa : Nat) (w : BitVec 512) : List (Nat × BitVec 512) :=
  let own := fun (x : Nat × BitVec 512) => x.1 / 2 ^ 52 == cache
  (cacheKey cache pa, w) :: (ls.filter own).take (cacheLines cache - 1) ++ ls.filter (fun x => !own x)

/-- The word at an address of a line. -/
def wordIn (w : BitVec 512) (pa : Nat) : BitVec 32 := BitVec.ofNat 32 (w.toNat / 2 ^ (8 * (pa % 64)))

/-- The word at `va` for the acting hart.  A line that the cache holds is not read again until the cache loses it
(R171); one with uncorrectable data does not enter it (R394), nor one in the footprint of a stope engine's job (R350, R359). -/
def fetch (s : State) (cache : Nat) (va : Word) : Fetched × State :=
  if bits va 48 16 ≠ 0 then (.trap 0x09 false, s)
  else if bits va 0 2 ≠ 0 then (.trap 0x06 false, s)
  else if va.toNat < globalBase then (.trap 0x09 false, s)
  else
    let r := translate s s.hart.core (partOf s.hart) (supervisor s.hart) va 4 .exec
    match r.1.1 with
    | .missing st => (.missing st, r.2)
    | .denied c st => (.trap c st, r.2)
    | .ok pa =>
      match r.2.hart.fetched.find? (fun x => x.1 == cacheKey cache pa) with
      | some x => (.word (wordIn x.2 pa), r.2)
      | none =>
        if badMem r.2 pa 4 then (.trap 0x0B false, r.2)
        else
          let w := BitVec.ofNat 512 (sgetBytes r.2.mem (pa / 64 * 64) 64)
          (.word (wordIn w pa),
            if badMem r.2 (pa / 64 * 64) 64 || uncached r.2 pa then r.2
            else { r.2 with hart := { r.2.hart with fetched := addLine r.2.hart.fetched cache pa w } })

end Sys2Proof.Machine
end

