-- ==== Sys2Proof/Machine/VirtualProc.lean ====
section
/-! DEFINITION. `VF` and its virtual processors (R14, R15, R203 to R206): taking a block, one word of one VP, paths,
and VP traps (R325, R399). -/

namespace Sys2Proof.Machine

/-! ### Taking a block -/

/-- The operands with which a block word is rejected, with the register tags of `h` (R204). -/
def vpRejects (s : State) (i : Instr) : Option (Nat × Word) :=
  match i with
  | .vldx t _ v _ => loadRejects s.hart t (some v)
  | .vstx t _ v _ => storeRejects s.hart t (some v)
  | _ =>
    match elemWordOf s i with
    | some w => w.rejects s.hart
    | none => none

/-- The mask destination of a block word. -/
def vpMask (s : State) (i : Instr) : Option Nat :=
  match elemWordOf s i with
  | some w => if w.toMask then some w.d else none
  | none => none

/-- The vector destination of a block word and its result tag. -/
def vpDest (s : State) (i : Instr) : Option (Nat × Nat) :=
  match i with
  | .vldx t _ _ _ => some (t.val, dtagOf s.hart.csr)
  | _ =>
    match elemWordOf s i with
    | some w =>
      if w.toMask then none
      else
        match w.result s.hart with
        | .inl t => some (w.d, t)
        | .inr _ => none
    | none => none

/-- The address of a `VF` or `VPF` target: a signed word count from its own address (R130). -/
def vpTarget (pc : Word) (o : BitVec 19) : Word := pc + (o.signExtend 64 <<< 2)

/-- Whether the control thread's subset for VPs has the instruction (R140). -/
def vpPermits (s : State) (i : Instr) : Bool :=
  match i with
  | .vldx .. | .vstx .. | .vpf .. | .vpstop => true
  | _ => (elemWordOf s i).isSome

/-- What a block's word is: a control word, an access of an element, or another (R203). -/
inductive VpForm where
  | goto (l : Fin 16) (o : BitVec 19)
  | stop
  | load (t : VReg) (b : SReg) (i : VReg) (m : MReg)
  | store (t : VReg) (b : SReg) (i : VReg) (m : MReg)
  | other
  deriving DecidableEq, Repr

/-- The form of a word of a block. -/
def vpForm (i : Instr) : VpForm :=
  match i with
  | .vpf l o => .goto l o
  | .vpstop => .stop
  | .vldx t b vi m => .load t b vi m
  | .vstx t b vi m => .store t b vi m
  | _ => .other

/-! ### The words that a `VF` reaches (R14, R15, R205) -/

/-- The word that a fetch at `va` through a cache would give, if any. -/
def peekWord (s : State) (cache : Nat) (va : Word) : Option (BitVec 32) :=
  match (fetch s cache va).1 with
  | .word w => some w
  | _ => none

/-- Instructions that a `VF` reaches, and whether every word up to their end could be fetched. -/
structure Reached where
  instrs : List Instr
  known : Bool
  deriving DecidableEq, Repr

/-- The instructions of a VP's path from `va` on, which has come through the targets `seen`: to its `VPSTOP`, to a word that
traps, or to a target that it has come through before. -/
def pathFrom (s : State) (cache : Nat) (va : Word) (seen : List Word) (fuel : Nat) : Reached :=
  match fuel with
  | 0 => ⟨[], false⟩
  | fuel + 1 =>
    match peekWord s cache va with
    | none => ⟨[], false⟩
    | some w =>
      match decode w.toNat with
      | .ok i =>
        (match vpForm i with
          | .goto _ o =>
            let t := vpTarget va o
            if seen.contains t then ⟨[], true⟩ else pathFrom s cache t (t :: seen) fuel
          | .stop => ⟨[], true⟩
          | _ =>
            if vpPermits s i then
              let r := pathFrom s cache (va + 4) seen fuel
              ⟨i :: r.instrs, r.known⟩
            else ⟨[], true⟩)
      | _ => ⟨[], true⟩

/-- The instructions of the path on which a block at `va` sends its VPs, if one of its words is a `VPF` that they meet. -/
def blockPath (s : State) (cache : Nat) (va : Word) (len : Nat) : Reached :=
  match len with
  | 0 => ⟨[], true⟩
  | len + 1 =>
    match peekWord s cache va with
    | none => ⟨[], false⟩
    | some w =>
      match decode w.toNat with
      | .ok i =>
        (match vpForm i with
          | .goto _ o => let t := vpTarget va o; pathFrom s cache t [t] 65536
          | .stop => ⟨[], true⟩
          | _ => blockPath s cache (va + 4) len)
      | _ => ⟨[], true⟩

/-- The instructions of a block at `va`. -/
def blockInstrs (s : State) (cache : Nat) (va : Word) (len : Nat) : Reached :=
  match len with
  | 0 => ⟨[], true⟩
  | len + 1 =>
    let r := blockInstrs s cache (va + 4) len
    match peekWord s cache va with
    | none => ⟨r.instrs, false⟩
    | some w =>
      match decode w.toNat with
      | .ok i => ⟨i :: r.instrs, r.known⟩
      | _ => r

/-- The instructions that a block at `va` and its path hold, as the caches of the eight lane clusters have them. -/
def vfReaches (s : State) (va : Word) (len : Nat) : Reached :=
  (List.range 8).foldl (fun r c =>
    let b := blockInstrs s (1 + c) va len
    let p := blockPath s (1 + c) va len
    ⟨r.instrs ++ (b.instrs ++ p.instrs).filter (fun i => !r.instrs.contains i), r.known && b.known && p.known⟩) ⟨[], true⟩

/-- A block taken word by word: its words with the tags they run under, the tags it leaves, the vector and mask registers
it writes, and the word that fails R20 (R204).  A word that cannot be fetched or decoded is met by the VP that reaches it
(R139). -/
structure Block where
  state : State
  words : List BlockWord
  dests : List Nat
  masks : List Nat
  fail : Option (Nat × Word × Word)

/-- The checks of one block word: R20, and a destination that a marked loop has frozen (R242). -/
def wordFails (s : State) (i : Instr) : Option (Nat × Word) :=
  match (vpDest s i).bind (fun x => frozenIn s.hart x.1) with
  | some r => some (0x0D, topndV r 0)
  | none => vpRejects s i

/-- The words of a block from `va` on, through the AIB cache of a lane cluster. -/
def takeBlock (s : State) (cluster : Nat) (va : Word) (len : Nat) (k : Block) : Block :=
  match len with
  | 0 => { k with state := s }
  | len + 1 =>
    let r := fetch s (1 + cluster) va
    let tags := r.2.hart.vec.tags
    match r.1 with
    | .word w =>
      let k1 := { k with words := k.words ++ [⟨some w, tags⟩] }
      (match decode w.toNat with
        | .ok i =>
          (match wordFails r.2 i with
            | some x => { k with state := r.2, fail := some (x.1, va, x.2) }
            | none =>
              match vpDest r.2 i, vpMask r.2 i with
              | some (d, t), _ =>
                let h := setTags r.2.hart d (groupOf r.2.hart.csr) t
                takeBlock { r.2 with hart := h } cluster (va + 4) len { k1 with dests := k1.dests ++ [d] }
              | none, some m => takeBlock r.2 cluster (va + 4) len { k1 with masks := k1.masks ++ [m] }
              | none, none => takeBlock r.2 cluster (va + 4) len k1)
        | _ => takeBlock r.2 cluster (va + 4) len k1)
    | _ => takeBlock r.2 cluster (va + 4) len { k with words := k.words ++ [⟨none, tags⟩] }

/-- What the lane clusters take of a block: the words of each, the registers that they and their paths write, the tags that the block
leaves, and the failure of the first that meets one. -/
structure BlockSet where
  state : State
  words : List (Nat × List BlockWord)
  dests : List Nat
  masks : List Nat
  fail : Option (Nat × Word × Word)

/-- The vector and mask registers that the path of a block writes (R15). -/
def pathDests (s : State) (cluster : Nat) (va : Word) (len : Nat) : List Nat × List Nat :=
  let is := (blockPath s (1 + cluster) va len).instrs
  (is.filterMap (fun i => (vpDest s i).map (·.1)), is.filterMap (vpMask s))

/-- The block taken by some lane clusters, each from the same tags. -/
def takeBlocks (s : State) (va : Word) (len : Nat) (cs : List Nat) (k : BlockSet) : BlockSet :=
  match cs with
  | [] => k
  | c :: rest =>
    let tags := k.state.hart.vec.tags
    let u := { k.state with hart := { k.state.hart with vec := { k.state.hart.vec with tags := s.hart.vec.tags } } }
    let b := takeBlock u c va len ⟨u, [], [], [], none⟩
    match b.fail with
    | some x => { k with state := b.state, fail := some x }
    | none =>
      let tags1 := if k.words.isEmpty then b.state.hart.vec.tags else tags
      let p := pathDests b.state c va len
      takeBlocks s va len rest {
        state := { b.state with hart := { b.state.hart with vec := { b.state.hart.vec with tags := tags1 } } }
        words := k.words ++ [(c, b.words)], dests := (k.dests ++ b.dests ++ p.1).eraseDups
        masks := (k.masks ++ b.masks ++ p.2).eraseDups, fail := none }

/-- The progress of the vector and mask registers that a `VF` writes: the groups below the lowest unfinished VP (R15). -/
def vfProgress (h : Hart) (ds ms : List Nat) (vps : List Vp) (n : Nat) : Hart :=
  match vps with
  | [] => ms.foldl (fun h m => completedMask h m n) (ds.foldl (fun h d => completed h d n) h)
  | v :: rest =>
    let low := rest.foldl (fun m x => Nat.min m x.elem) v.elem
    ms.foldl (fun h m => setMaskProgress h m (low / 64) false) (ds.foldl (fun h d => setProgress h d (low / 64) false) h)

/-- VF: the block is taken and every active VP starts on it (R203, R204). -/
def execVf (m : MReg) (l : Fin 16) (o : BitVec 19) (s : State) : Out :=
  if s.hart.vf.isSome then .next (stall s)
  else
    let h := s.hart
    let n := lengthOf h
    let b := vpTarget h.pc o
    let es := (List.range n).filter (active h m)
    let cs := if es.isEmpty then [0] else (es.map laneCluster).eraseDups
    let k := takeBlocks s b (l.val + 1) cs ⟨s, [], [], [], none⟩
    match k.fail with
    | some (c, va, top) => vecTrapAt { k.state with hart := { k.state.hart with vec := h.vec } } c va top
    | none =>
      let vps : List Vp := es.map (fun e => ⟨e, b, some 0, 0⟩)
      let h1 := vfProgress k.state.hart k.dests k.masks vps n
      let run : VfRun := ⟨h.vnow, h.ir, h.pc, b, l.val + 1, k.words, h.regs, h.csr.vtype, h.csr.vl, vps, k.dests, k.masks⟩
      .next (advance { k.state with hart := { h1 with vf := if vps.isEmpty then none else some run } })

/-- VPJOIN: the control thread waits until every `VF` has completed (R206). -/
def execVpjoin (s : State) : Out := if s.hart.vf.isSome then .next (stall s) else .next (advance s)

/-! ### One word of one VP -/

/-- The VP of element `e` replaced, or removed when it has finished. -/
def putVp (s : State) (e : Nat) (v : Option Vp) : State :=
  match s.hart.vf with
  | none => s
  | some r =>
    let vps := match v with
      | some x => r.vps.map (fun y => if y.elem = e then x else y)
      | none => r.vps.filter (fun y => y.elem != e)
    { s with hart := { s.hart with vf := some { r with vps := vps } } }

/-- The VP that executes. -/
def vpOf (s : State) : Option Vp :=
  match s.hart.vf, s.hart.vpNow with
  | some r, some e => r.vps.find? (fun v => v.elem == e)
  | _, _ => none

/-- The end of a VP: its flags are joined in and the progress of the block's registers moves; with the last VP the
`VF` completes (R15, R203). -/
def finishVp (s : State) (v : Vp) : State :=
  let s1 := putVp s v.elem none
  match s1.hart.vf with
  | none => s1
  | some r =>
    let h := vfProgress (orFlags s1.hart v.flags) r.dests r.maskDests r.vps
      (if s1.hart.vec.matrix then s1.hart.csr.mvl.toNat else r.vl.toNat)
    { s1 with hart := { h with vf := if r.vps.isEmpty then none else some r } }

/-- VPF: the executing VP leaves its block for the target (R205); for the control thread, cause 0x01 (R138). -/
def execVpf (_l : Fin 16) (o : BitVec 19) (s : State) : Out :=
  match vpOf s with
  | none => .next (trapWord s 0x01 0)
  | some v => .next (putVp s v.elem (some { v with pc := vpTarget v.pc o, word := none }))

/-- VPSTOP: the executing VP ends (R205); for the control thread, cause 0x01 (R138). -/
def execVpstop (s : State) : Out :=
  match vpOf s with
  | none => .next (trapWord s 0x01 0)
  | some v => .next (finishVp s v)

/-- The trap of a VP (R325, R399): VP in CAUSE, the record's PC at the word and its convoy head at the `VF`. -/
def vpTrap (s : State) (r : VfRun) (v : Vp) (ir : BitVec 32) (cause : Nat) (tval topnd : Word) (flags : Nat) : State :=
  let s1 := { s with hart := { s.hart with started := true } }
  takeTrap s1 ⟨cause + 256, tval, topnd, s1.hart.pc, v.pc, ir, r.pc, 1, 1 + flags⟩

/-- A TOPND with its element index set. -/
def atElement (t : Word) (e : Nat) : Word := setBits t 32 24 e

/-- The VP past its word: the next word of its block, the end of the block, or the next word of its path. -/
def nextWord (s : State) (r : VfRun) (v : Vp) : State :=
  match v.word with
  | none => putVp s v.elem (some { v with pc := v.pc + 4 })
  | some k =>
    if k + 1 < r.len then putVp s v.elem (some { v with pc := v.pc + 4, word := some (k + 1) })
    else finishVp s v

/-- The state in which a block word runs: the registers, VTYPE, VL and tags of the `VF` (R203, R204). -/
def underVf (s : State) (r : VfRun) (tags : Vector (BitVec 4) 64) : State :=
  let h := s.hart
  { s with hart := { h with
      regs := r.regs
      csr := { h.csr with vtype := r.vtype, vl := r.vl }
      vec := { h.vec with tags := tags } } }

/-- The hart of `s` with the vector data of `t`, whose registers and CSRs were the `VF`'s. -/
def backFromVf (s t : State) : State :=
  { t with hart := { t.hart with
      regs := s.hart.regs
      csr := { t.hart.csr with vtype := s.hart.csr.vtype, vl := s.hart.csr.vl }
      vec := { t.hart.vec with tags := s.hart.vec.tags } } }

/-- The element of a VP counted: a lane has processed it (R384). -/
def countVp (s : State) (v : Vp) : State :=
  if (enabledBanks s.hart).isEmpty then s else { s with hart := countHart s.hart 0x05 (laneCluster v.elem) 1 }

/-- TOPND of a register that a word of a VP reads and that is uncorrectable in the VP's element: its mask, or a source. -/
def vpBad (u : State) (srcs : List Nat) (m : MReg) (e : Nat) : Option Word :=
  match badMaskRead u (if m = 0 then [] else [(m.val, (· == e))]) with
  | some t => some t
  | none => if m ≠ 0 ∧ !active u.hart m e then none else badRead u (srcs.map (fun r => (r, (· == e))))

/-- The trap of a VP whose register is uncorrectable (R394). -/
def vpRegister (s : State) (r : VfRun) (v : Vp) (ir : BitVec 32) (top : Word) : State :=
  let s1 := logStructure s s.hart.core .registers
  vpTrap { s1 with fresh := s.fresh + 1 } r v ir 0x0B (Config.registerTval s.fresh) top 0

/-- The mark of an element that a VP has written gone. -/
def clearElem (s : State) (toMask : Bool) (r : Nat) (narrow : Bool) (e : Nat) : State :=
  let b := if toMask then BadPlace.mask s.hart.core r (e / 64) else .vslot s.hart.core (slotOf s.hart.csr r narrow e)
  { s with bad := s.bad.filter (· != b) }

/-- The sources of an elementwise word that its element takes: of `VSEL` the one that the mask selects. -/
def ElemWord.taken (w : ElemWord) (h : Hart) (e : Nat) : List Nat :=
  match w.op, w.srcs with
  | .sel, [a, b] => [if active h w.m e then a else b]
  | _, rs => rs

/-- An elementwise word on a VP's own element (R203): skipped where its mask bit is clear; an enabled flag traps
the VP with its element unwritten (R73).  The bit that it samples of a chunk mask acquires its chunk (R110). -/
def vpElem (s : State) (r : VfRun) (v : Vp) (tags : Vector (BitVec 4) 64) (ir : BitVec 32) (w : ElemWord) : State :=
  let s := acquireBits s [w.m] (· == v.elem)
  let u := underVf s r tags
  let h := u.hart
  match vpBad u (w.taken h v.elem) w.m v.elem with
  | some top => vpRegister s r v ir top
  | none =>
  if w.m ≠ 0 ∧ !active h w.m v.elem then nextWord s r v
  else
    let t := match w.result h with
      | .inl t => t
      | .inr _ => 0
    let x := w.elem h (w.tags h) t v.elem
    let v1 : Vp := { v with flags := v.flags ||| x.2 }
    if x.2 &&& enables h.csr ≠ 0 then
      vpTrap { s with hart := orFlags s.hart x.2 } r v ir 0x10 (word x.2)
        (operandWord (if w.toMask then 3 else 2) w.d v.elem) 0
    else
      let vec := if w.toMask then putMaskBit h.vec w.d v.elem x.1 else putElem h.csr h.vec w.d (narrowTag t) v.elem x.1
      let s1 := clearElem (backFromVf s { u with hart := { h with vec := vec } }) w.toMask w.d (narrowTag t) v.elem
      nextWord (putVp (countVp s1 v) v.elem (some v1)) r v1

/-- `VLDX` and `VSTX` on a VP's own element (R140, R208, R213), which acquires as `vpElem` does. -/
def vpAccess (s : State) (r : VfRun) (v : Vp) (tags : Vector (BitVec 4) 64) (ir : BitVec 32) (t : VReg) (b : SReg)
    (i : VReg) (m : MReg) (wr : Bool) : State :=
  let s := acquireBits s [m] (· == v.elem)
  let u := underVf s r tags
  let h := u.hart
  match vpBad u (if wr then [t.val, i.val] else [i.val]) m v.elem with
  | some top => vpRegister s r v ir top
  | none =>
  if m ≠ 0 ∧ !active h m v.elem then nextWord s r v
  else
    let tag := if wr then tagOfReg h t.val else dtagOf h.csr
    let f : Form := ⟨m, tagBytes tag, wr, !wr, false, 2, i.val⟩
    let p : Piece := ⟨indexAddr u b i v.elem, tagBytes tag⟩
    let local_ := decide (p.addr.toNat < globalBase)
    if p.addr.toNat % f.w ≠ 0 then vpTrap s r v ir 0x06 p.addr (f.topnd v.elem) 0
    else if outOfRange local_ p then vpTrap s r v ir 0x0C p.addr (f.topnd v.elem) 0
    else
      let x := elemFate u f local_ [p]
      match x.1 with
      | .denied c st => vpTrap (logCause (backFromVf s x.2) c p.addr) r v ir c p.addr (f.topnd v.elem) (if st then 4 else 0)
      | .missing fr st =>
        if ringFull s (partOf h) then stall s
        else
          let n := pcpWord s (partOf h) 0x38
          let s1 := writeBatch (backFromVf s x.2) h fr ((if st then 1 else 0) + (if wr then 2 else 0))
          vpTrap s1 r v ir 0x08 n (f.topnd v.elem) (if st then 4 else 0)
      | .ok ps =>
        if local_ && f.read && localPlace ps (copyCovers s h (sender h)) then stall s
        else if wr then
          nextWord (countVp (backFromVf s (storeElems x.2 f (fun _ => [p]) t.val tag [(v.elem, ps)])) v) r v
        else
          let s1 := backFromVf s (loadElems x.2 f (fun _ => [p]) t.val (narrowTag tag) f.w [(v.elem, ps)])
          nextWord (countVp (clearElem s1 false t.val (narrowTag tag) v.elem) v) r v

/-- The checks of a path word: those of a block word, and a result tag that differs from its destination's (R205). -/
def pathRejects (s : State) (i : Instr) : Option (Nat × Word) :=
  match wordFails s i with
  | some x => some x
  | none =>
    match vpDest s i with
    | some (d, t) => if tagOfReg s.hart d = t then none else some (0x03, topndV d 0)
    | none => none

/-- A word other than an access and the control words: an elementwise one, else illegal (R203). -/
def vpOther (s : State) (r : VfRun) (v : Vp) (tags : Vector (BitVec 4) 64) (ir : BitVec 32) (w : Option ElemWord) : State :=
  match w with
  | some w => vpElem s r v tags ir w
  | none => vpTrap s r v ir 0x01 (ir.zeroExtend 64) (operandWord 0 0 v.elem) 0

/-- The vector registers that a word names, groups included. -/
def regsNamed (c : Csr) (i : Instr) : List Nat := ((uses i).vr ++ (uses i).vw).flatMap (fun r => members r.val (groupOf c))

/-- An engine has still to deliver into a register that the word names (R27, R28). -/
def deliveryDue (h : Hart) (i : Instr) : Bool :=
  let rs := gatherRegs h
  !rs.isEmpty && (regsNamed h.csr i).any rs.contains

/-- A register that a word writes and that was not known as its `VF` issued, since the word could not be fetched then, is
from now on one of those that the `VF` writes (R15, R26). -/
def withDest (s u : State) (i : Instr) : State :=
  match s.hart.vf with
  | none => s
  | some r =>
    let ds := ((vpDest u i).map (·.1)).toList.filter (fun d => !r.dests.contains d)
    let ms := (vpMask u i).toList.filter (fun m => !r.maskDests.contains m)
    if ds.isEmpty && ms.isEmpty then s
    else
      let h := vfProgress s.hart ds ms r.vps 0
      { s with hart := { h with vf := some { r with dests := r.dests ++ ds, maskDests := r.maskDests ++ ms } } }

/-- The instruction `i` executed by VP `v` (R140, R203, R205); `checked` for a block word that R204 has checked. -/
def vpExec (s : State) (r : VfRun) (v : Vp) (ir : BitVec 32) (tags : Vector (BitVec 4) 64) (checked : Bool)
    (i : Instr) : Out :=
  let u := underVf s r tags
  match if checked then none else pathRejects u i with
  | some x => .next (vpTrap s r v ir x.1 (ir.zeroExtend 64) (atElement x.2 v.elem) 0)
  | none =>
    if deliveryDue u.hart i then .next (stall s)
    else
      let s := if checked then s else withDest s u i
      match vpForm i with
      | .goto l o => execVpf l o s
      | .stop => execVpstop s
      | .load t b vi m => .next (vpAccess s r v tags ir t b vi m false)
      | .store t b vi m => .next (vpAccess s r v tags ir t b vi m true)
      | .other => .next (vpOther s r v tags ir (elemWordOf u i))

/-- A word executed by a VP: the decode steps of R138, in their order, then the instruction. -/
def vpWord (s : State) (r : VfRun) (v : Vp) (ir : BitVec 32) (tags : Vector (BitVec 4) 64) (checked : Bool) : Out :=
  let bad := fun c => Host.Outcome.next (vpTrap s r v ir c (ir.zeroExtend 64) (operandWord 0 0 v.elem) 0)
  match decode ir.toNat with
  | .illegal => bad 0x01
  | .reserved (some i) => if vpPermits s i then bad 0x02 else bad 0x01
  | .reserved none => bad 0x01
  | .ok i => if vpPermits s i then vpExec s r v ir tags checked i else bad 0x01

/-- A VP's next word: the block's as taken, or fetched at its own counter through its lane cluster's cache (R14, R205). -/
def vpFetch (s : State) (r : VfRun) (v : Vp) : Out :=
  let x := fetch s (1 + laneCluster v.elem) v.pc
  match x.1 with
  | .word w => vpWord x.2 r v w x.2.hart.vec.tags false
  | .trap c st => .next (vpTrap (logCause x.2 c v.pc) r v 0 c v.pc (operandWord 0 0 v.elem) (if st then 4 else 0))
  | .missing st =>
    if ringFull s (partOf s.hart) then .next (stall s)
    else
      let n := pcpWord s (partOf s.hart) 0x38
      let s1 := writeBatch x.2 x.2.hart [v.pc.toNat / 4096 * 4096] (if st then 1 else 0)
      .next (vpTrap s1 r v 0 0x08 n (operandWord 0 0 v.elem) (if st then 4 else 0))

/-- One word of VP `v` of the running `VF`. -/
def vpStep (s : State) (r : VfRun) (v : Vp) : Out :=
  let s1 := { s with hart := { s.hart with vpNow := some v.elem } }
  let mine := ((r.words.find? (fun x => x.1 == laneCluster v.elem)).map (·.2)).getD []
  let out := match v.word.bind (fun k => mine[k]?) with
    | some ⟨some w, tags⟩ => vpWord s1 r v w tags true
    | _ => vpFetch s1 r v
  match out with
  | .next t => .next { t with hart := { t.hart with vpNow := none } }
  | o => o

/-- One word of the lowest unfinished VP of a lane, or of the whole core (R14). -/
def vfStep (s : State) (lane : Option Nat) : Out :=
  match s.hart.vf with
  | none => .next s
  | some r =>
    match r.vps.find? (fun v => match lane with
        | some l => v.elem % 64 == l
        | none => true) with
    | none => .next s
    | some v => vpStep s r v

end Sys2Proof.Machine
end

