-- ==== Sys2Proof/Machine/Dispatch.lean ====
section
/-! DEFINITION. The dispatch of every instruction to its meaning, one arm per constructor. -/

namespace Sys2Proof.Machine

/-- What an instruction, or a step the module takes on its own, does. -/
def exec (i : Instr) (s : State) : Host.Outcome State Fault Refusal :=
  match i with
  | .add d a b => Sys2Proof.Machine.execAdd d a b s
  | .sub d a b => Sys2Proof.Machine.execSub d a b s
  | .mul d a b => Sys2Proof.Machine.execMul d a b s
  | .mulh d a b => Sys2Proof.Machine.execMulh d a b s
  | .mulhu d a b => Sys2Proof.Machine.execMulhu d a b s
  | .div d a b => Sys2Proof.Machine.execDiv d a b s
  | .divu d a b => Sys2Proof.Machine.execDivu d a b s
  | .rem d a b => Sys2Proof.Machine.execRem d a b s
  | .remu d a b => Sys2Proof.Machine.execRemu d a b s
  | .and d a b => Sys2Proof.Machine.execAnd d a b s
  | .or d a b => Sys2Proof.Machine.execOr d a b s
  | .xor d a b => Sys2Proof.Machine.execXor d a b s
  | .shl d a b => Sys2Proof.Machine.execShl d a b s
  | .shr d a b => Sys2Proof.Machine.execShr d a b s
  | .sra d a b => Sys2Proof.Machine.execSra d a b s
  | .slt d a b => Sys2Proof.Machine.execSlt d a b s
  | .sltu d a b => Sys2Proof.Machine.execSltu d a b s
  | .min d a b => Sys2Proof.Machine.execMin d a b s
  | .max d a b => Sys2Proof.Machine.execMax d a b s
  | .minu d a b => Sys2Proof.Machine.execMinu d a b s
  | .maxu d a b => Sys2Proof.Machine.execMaxu d a b s
  | .clz d a => Sys2Proof.Machine.execClz d a s
  | .ctz d a => Sys2Proof.Machine.execCtz d a s
  | .popc d a => Sys2Proof.Machine.execPopc d a s
  | .fadd d a b => Sys2Proof.Machine.execFadd d a b s
  | .fsub d a b => Sys2Proof.Machine.execFsub d a b s
  | .fmul d a b => Sys2Proof.Machine.execFmul d a b s
  | .ffma d a b c => Sys2Proof.Machine.execFfma d a b c s
  | .fdiv d a b => Sys2Proof.Machine.execFdiv d a b s
  | .fsqrt d a => Sys2Proof.Machine.execFsqrt d a s
  | .fmin d a b => Sys2Proof.Machine.execFmin d a b s
  | .fmax d a b => Sys2Proof.Machine.execFmax d a b s
  | .fcmp d a b c => Sys2Proof.Machine.execFcmp d a b c s
  | .fcvtIF d a => Sys2Proof.Machine.execFcvtIF d a s
  | .fcvtIuF d a => Sys2Proof.Machine.execFcvtIuF d a s
  | .fcvtFI d a => Sys2Proof.Machine.execFcvtFI d a s
  | .fcvtFIu d a => Sys2Proof.Machine.execFcvtFIu d a s
  | .fcvtBfF d a => Sys2Proof.Machine.execFcvtBfF d a s
  | .fcvtFBf d a => Sys2Proof.Machine.execFcvtFBf d a s
  | .addi d a imm => Sys2Proof.Machine.execAddi d a imm s
  | .andi d a imm => Sys2Proof.Machine.execAndi d a imm s
  | .ori d a imm => Sys2Proof.Machine.execOri d a imm s
  | .xori d a imm => Sys2Proof.Machine.execXori d a imm s
  | .slti d a imm => Sys2Proof.Machine.execSlti d a imm s
  | .sltiu d a imm => Sys2Proof.Machine.execSltiu d a imm s
  | .shli d a n => Sys2Proof.Machine.execShli d a n s
  | .shri d a n => Sys2Proof.Machine.execShri d a n s
  | .srai d a n => Sys2Proof.Machine.execSrai d a n s
  | .movhi d imm => Sys2Proof.Machine.execMovhi d imm s
  | .movk d h imm => Sys2Proof.Machine.execMovk d h imm s
  | .ldb d a imm => Sys2Proof.Machine.execLdb d a imm s
  | .ldh d a imm => Sys2Proof.Machine.execLdh d a imm s
  | .ldw d a imm => Sys2Proof.Machine.execLdw d a imm s
  | .ldd d a imm => Sys2Proof.Machine.execLdd d a imm s
  | .ldbu d a imm => Sys2Proof.Machine.execLdbu d a imm s
  | .ldhu d a imm => Sys2Proof.Machine.execLdhu d a imm s
  | .ldwu d a imm => Sys2Proof.Machine.execLdwu d a imm s
  | .stb d a imm => Sys2Proof.Machine.execStb d a imm s
  | .sth d a imm => Sys2Proof.Machine.execSth d a imm s
  | .stw d a imm => Sys2Proof.Machine.execStw d a imm s
  | .std d a imm => Sys2Proof.Machine.execStd d a imm s
  | .ldbReg d a b k sx => Sys2Proof.Machine.execLdbReg d a b k sx s
  | .ldhReg d a b k sx => Sys2Proof.Machine.execLdhReg d a b k sx s
  | .ldwReg d a b k sx => Sys2Proof.Machine.execLdwReg d a b k sx s
  | .lddReg d a b k sx => Sys2Proof.Machine.execLddReg d a b k sx s
  | .ldbuReg d a b k sx => Sys2Proof.Machine.execLdbuReg d a b k sx s
  | .ldhuReg d a b k sx => Sys2Proof.Machine.execLdhuReg d a b k sx s
  | .ldwuReg d a b k sx => Sys2Proof.Machine.execLdwuReg d a b k sx s
  | .stbReg d a b k sx => Sys2Proof.Machine.execStbReg d a b k sx s
  | .sthReg d a b k sx => Sys2Proof.Machine.execSthReg d a b k sx s
  | .stwReg d a b k sx => Sys2Proof.Machine.execStwReg d a b k sx s
  | .stdReg d a b k sx => Sys2Proof.Machine.execStdReg d a b k sx s
  | .amoAdd d a b k sx z => Sys2Proof.Machine.execAmoAdd d a b k sx z s
  | .amoSwap d a b k sx z => Sys2Proof.Machine.execAmoSwap d a b k sx z s
  | .amoCas d a b k sx z => Sys2Proof.Machine.execAmoCas d a b k sx z s
  | .amoMin d a b k sx z => Sys2Proof.Machine.execAmoMin d a b k sx z s
  | .amoMax d a b k sx z => Sys2Proof.Machine.execAmoMax d a b k sx z s
  | .amoAnd d a b k sx z => Sys2Proof.Machine.execAmoAnd d a b k sx z s
  | .amoOr d a b k sx z => Sys2Proof.Machine.execAmoOr d a b k sx z s
  | .beq a b o => Sys2Proof.Machine.execBeq a b o s
  | .bne a b o => Sys2Proof.Machine.execBne a b o s
  | .blt a b o => Sys2Proof.Machine.execBlt a b o s
  | .bge a b o => Sys2Proof.Machine.execBge a b o s
  | .bltu a b o => Sys2Proof.Machine.execBltu a b o s
  | .bgeu a b o => Sys2Proof.Machine.execBgeu a b o s
  | .jmp o => Sys2Proof.Machine.execJmp o s
  | .call o => Sys2Proof.Machine.execCall o s
  | .jr a => Sys2Proof.Machine.execJr a s
  | .callr a => Sys2Proof.Machine.execCallr a s
  | .csrr d c => Sys2Proof.Machine.execCsrr d c s
  | .csrw a c => Sys2Proof.Machine.execCsrw a c s
  | .csrs a c => Sys2Proof.Machine.execCsrs a c s
  | .csrc a c => Sys2Proof.Machine.execCsrc a c s
  | .trap c => Sys2Proof.Machine.execTrap c s
  | .tret => Sys2Proof.Machine.execTret s
  | .bkpt c => Sys2Proof.Machine.execBkpt c s
  | .wait => Sys2Proof.Machine.execWait s
  | .yield => Sys2Proof.Machine.execYield s
  | .fenceI => Sys2Proof.Machine.execFenceI s
  | .gperm d a r m => Sys2Proof.Machine.execGperm d a r m s
  | .gred d a m => Sys2Proof.Machine.execGred d a m s
  | .gbcast d a r m => Sys2Proof.Machine.execGbcast d a r m s
  | .gsync => Sys2Proof.Machine.execGsync s
  | .lnext a o => Sys2Proof.Machine.execLnext a o s
  | .ljoin a o => Sys2Proof.Machine.execLjoin a o s
  | .vadd d a b m => Sys2Proof.Machine.execVadd d a b m s
  | .vsub d a b m => Sys2Proof.Machine.execVsub d a b m s
  | .vrsub d a b m => Sys2Proof.Machine.execVrsub d a b m s
  | .vmul d a b m => Sys2Proof.Machine.execVmul d a b m s
  | .vmulh d a b m => Sys2Proof.Machine.execVmulh d a b m s
  | .vmulhU d a b m => Sys2Proof.Machine.execVmulhU d a b m s
  | .vdiv d a b m => Sys2Proof.Machine.execVdiv d a b m s
  | .vdivU d a b m => Sys2Proof.Machine.execVdivU d a b m s
  | .vrem d a b m => Sys2Proof.Machine.execVrem d a b m s
  | .vremU d a b m => Sys2Proof.Machine.execVremU d a b m s
  | .vmin d a b m => Sys2Proof.Machine.execVmin d a b m s
  | .vminU d a b m => Sys2Proof.Machine.execVminU d a b m s
  | .vmax d a b m => Sys2Proof.Machine.execVmax d a b m s
  | .vmaxU d a b m => Sys2Proof.Machine.execVmaxU d a b m s
  | .vabs d a m => Sys2Proof.Machine.execVabs d a m s
  | .vneg d a m => Sys2Proof.Machine.execVneg d a m s
  | .vand d a b m => Sys2Proof.Machine.execVand d a b m s
  | .vor d a b m => Sys2Proof.Machine.execVor d a b m s
  | .vxor d a b m => Sys2Proof.Machine.execVxor d a b m s
  | .vshl d a b m => Sys2Proof.Machine.execVshl d a b m s
  | .vshr d a b m => Sys2Proof.Machine.execVshr d a b m s
  | .vsra d a b m => Sys2Proof.Machine.execVsra d a b m s
  | .vsadd d a b m => Sys2Proof.Machine.execVsadd d a b m s
  | .vsaddU d a b m => Sys2Proof.Machine.execVsaddU d a b m s
  | .vssub d a b m => Sys2Proof.Machine.execVssub d a b m s
  | .vssubU d a b m => Sys2Proof.Machine.execVssubU d a b m s
  | .vsqrt d a m => Sys2Proof.Machine.execVsqrt d a m s
  | .vrece d a m => Sys2Proof.Machine.execVrece d a m s
  | .vrsqe d a m => Sys2Proof.Machine.execVrsqe d a m s
  | .vexp2 d a m => Sys2Proof.Machine.execVexp2 d a m s
  | .vlog2 d a m => Sys2Proof.Machine.execVlog2 d a m s
  | .vmov d a m => Sys2Proof.Machine.execVmov d a m s
  | .vsel d a b m => Sys2Proof.Machine.execVsel d a b m s
  | .viota d m => Sys2Proof.Machine.execViota d m s
  | .vgath d a b m => Sys2Proof.Machine.execVgath d a b m s
  | .vcomp d a m => Sys2Proof.Machine.execVcomp d a m s
  | .vredsum d a b m => Sys2Proof.Machine.execVredsum d a b m s
  | .vredmax d a b m => Sys2Proof.Machine.execVredmax d a b m s
  | .vredmaxU d a b m => Sys2Proof.Machine.execVredmaxU d a b m s
  | .vredmin d a b m => Sys2Proof.Machine.execVredmin d a b m s
  | .vredminU d a b m => Sys2Proof.Machine.execVredminU d a b m s
  | .vtag d t => Sys2Proof.Machine.execVtag d t s
  | .vcmp d a b m u c => Sys2Proof.Machine.execVcmp d a b m u c s
  | .vcvt d a m sx u t => Sys2Proof.Machine.execVcvt d a m sx u t s
  | .vbcast d r m => Sys2Proof.Machine.execVbcast d r m s
  | .vext d a r => Sys2Proof.Machine.execVext d a r s
  | .vextU d a r => Sys2Proof.Machine.execVextU d a r s
  | .vprog d a => Sys2Proof.Machine.execVprog d a s
  | .vsetvl d a => Sys2Proof.Machine.execVsetvl d a s
  | .vsetvt d a imm => Sys2Proof.Machine.execVsetvt d a imm s
  | .vrcfg n => Sys2Proof.Machine.execVrcfg n s
  | .mand d a b => Sys2Proof.Machine.execMand d a b s
  | .mor d a b => Sys2Proof.Machine.execMor d a b s
  | .mxor d a b => Sys2Proof.Machine.execMxor d a b s
  | .mandn d a b => Sys2Proof.Machine.execMandn d a b s
  | .mnot d a => Sys2Proof.Machine.execMnot d a s
  | .mmov d a => Sys2Proof.Machine.execMmov d a s
  | .mpopc d a => Sys2Proof.Machine.execMpopc d a s
  | .mfirst d a => Sys2Proof.Machine.execMfirst d a s
  | .msetvl d a => Sys2Proof.Machine.execMsetvl d a s
  | .vslup d a r sx m => Sys2Proof.Machine.execVslup d a r sx m s
  | .vsldn d a r sx m => Sys2Proof.Machine.execVsldn d a r sx m s
  | .vins d r sx => Sys2Proof.Machine.execVins d r sx s
  | .vf m l o => Sys2Proof.Machine.execVf m l o s
  | .vpf l o => Sys2Proof.Machine.execVpf l o s
  | .vpstop => Sys2Proof.Machine.execVpstop s
  | .vpjoin => Sys2Proof.Machine.execVpjoin s
  | .mxadd t a b r c => Sys2Proof.Machine.execMxadd t a b r c s
  | .mxsub t a b r c => Sys2Proof.Machine.execMxsub t a b r c s
  | .mzero t => Sys2Proof.Machine.execMzero t s
  | .mrow t d r => Sys2Proof.Machine.execMrow t d r s
  | .mcol t d r => Sys2Proof.Machine.execMcol t d r s
  | .mwrow t a r => Sys2Proof.Machine.execMwrow t a r s
  | .mldt t a b => Sys2Proof.Machine.execMldt t a b s
  | .mstt t a b => Sys2Proof.Machine.execMstt t a b s
  | .mxsld t a b r c sx => Sys2Proof.Machine.execMxsld t a b r c sx s
  | .fenceSv => Sys2Proof.Machine.execFenceSv s
  | .fenceVs => Sys2Proof.Machine.execFenceVs s
  | .fenceVv => Sys2Proof.Machine.execFenceVv s
  | .lsync => Sys2Proof.Machine.execLsync s
  | .sfenceT a => Sys2Proof.Machine.execSfenceT a s
  | .harvest d a => Sys2Proof.Machine.execHarvest d a s
  | .claim d a => Sys2Proof.Machine.execClaim d a s
  | .unclaim d a => Sys2Proof.Machine.execUnclaim d a s
  | .crd d n => Sys2Proof.Machine.execCrd d n s
  | .crdlo d n => Sys2Proof.Machine.execCrdlo d n s
  | .crdhi d n => Sys2Proof.Machine.execCrdhi d n s
  | .cevt a n => Sys2Proof.Machine.execCevt a n s
  | .tshape d a b c => Sys2Proof.Machine.execTshape d a b c s
  | .menter => Sys2Proof.Machine.execMenter s
  | .mleave => Sys2Proof.Machine.execMleave s
  | .launch d a => Sys2Proof.Machine.execLaunch d a s
  | .cancel d a => Sys2Proof.Machine.execCancel d a s
  | .endProg => Sys2Proof.Machine.execEndProg s
  | .vld t b m => Sys2Proof.Machine.execVld t b m s
  | .vlds t b sx m => Sys2Proof.Machine.execVlds t b sx m s
  | .vldx t b imm m => Sys2Proof.Machine.execVldx t b imm m s
  | .vldff t b m => Sys2Proof.Machine.execVldff t b m s
  | .vldp t p m => Sys2Proof.Machine.execVldp t p m s
  | .vst t b m => Sys2Proof.Machine.execVst t b m s
  | .vsts t b sx m => Sys2Proof.Machine.execVsts t b sx m s
  | .vstx t b imm m => Sys2Proof.Machine.execVstx t b imm m s
  | .vstp t p m => Sys2Proof.Machine.execVstp t p m s
  | .vldn t b sx m f g => Sys2Proof.Machine.execVldn t b sx m f g s
  | .vstn t b sx m f g => Sys2Proof.Machine.execVstn t b sx m f g s
  | .vldns t b sx r f g => Sys2Proof.Machine.execVldns t b sx r f g s
  | .vamoadd t b imm m => Sys2Proof.Machine.execVamoadd t b imm m s
  | .vamomax t b imm m => Sys2Proof.Machine.execVamomax t b imm m s
  | .vamomaxU t b imm m => Sys2Proof.Machine.execVamomaxU t b imm m s
  | .vamomin t b imm m => Sys2Proof.Machine.execVamomin t b imm m s
  | .vamominU t b imm m => Sys2Proof.Machine.execVamominU t b imm m s
  | .stand d a b => Sys2Proof.Machine.execStand d a b s
  | .unstand d a => Sys2Proof.Machine.execUnstand d a s
  | .take d a => Sys2Proof.Machine.execTake d a s
  | .waitsl d a b => Sys2Proof.Machine.execWaitsl d a b s
  | .vstand t b imm m sx => Sys2Proof.Machine.execVstand t b imm m sx s
  | .vtake t m sx => Sys2Proof.Machine.execVtake t m sx s
  | .copy d a b c m => Sys2Proof.Machine.execCopy d a b c m s
  | .stream d p b => Sys2Proof.Machine.execStream d p b s
  | .nbx d a b => Sys2Proof.Machine.execNbx d a b s
  | .chain d a b c => Sys2Proof.Machine.execChain d a b c s
  | .lmark d a b c => Sys2Proof.Machine.execLmark d a b c s
  | .bgld t b imm m sx => Sys2Proof.Machine.execBgld t b imm m sx s
  | .gxl t b imm m sx => Sys2Proof.Machine.execGxl t b imm m sx s
  | .vfma d a b c m => Sys2Proof.Machine.execVfma d a b c m s
  | .vfms d a b c m => Sys2Proof.Machine.execVfms d a b c m s
  | .vfnma d a b c m => Sys2Proof.Machine.execVfnma d a b c m s
  | .vclamp d a b c m => Sys2Proof.Machine.execVclamp d a b c m s
  | .vrcfgCsrWrite v => Sys2Proof.Machine.execVrcfgCsrWrite v s
  | .vtypeCsrWrite v => Sys2Proof.Machine.execVtypeCsrWrite v s
  | .fcsrWrite v => Sys2Proof.Machine.execFcsrWrite v s
  | .seedWrite v => Sys2Proof.Machine.execSeedWrite v s
  | .slbaseWrite v => Sys2Proof.Machine.execSlbaseWrite v s
  | .ageWrite v => Sys2Proof.Machine.execAgeWrite v s
  | .statusWrite v => Sys2Proof.Machine.execStatusWrite v s
  | .registerWrite c v => Sys2Proof.Machine.execRegisterWrite c v s
  | .storeBufferDrain core => Sys2Proof.Machine.execStoreBufferDrain core s
  | .standAnswer k => Sys2Proof.Machine.execStandAnswer k s
  | .pushArrival k => Sys2Proof.Machine.execPushArrival k s
  | .pushBounce k => Sys2Proof.Machine.execPushBounce k s
  | .unstandAnswer k => Sys2Proof.Machine.execUnstandAnswer k s
  | .waitslTimeout core => Sys2Proof.Machine.execWaitslTimeout core s
  | .waitTimeout core => Sys2Proof.Machine.execWaitTimeout core s
  | .copyChunkDone core e c => Sys2Proof.Machine.execCopyChunkDone core e c s
  | .copyDone core e => Sys2Proof.Machine.execCopyDone core e s
  | .engineBatchResume core e => Sys2Proof.Machine.execEngineBatchResume core e s
  | .streamEnd core e => Sys2Proof.Machine.execStreamEnd core e s
  | .bgldDone core e => Sys2Proof.Machine.execBgldDone core e s
  | .gatherUnitRequest core e k => Sys2Proof.Machine.execGatherUnitRequest core e k s
  | .gxlDone core e => Sys2Proof.Machine.execGxlDone core e s
  | .nbxArrival core e => Sys2Proof.Machine.execNbxArrival core e s
  | .nbxEngineGrant k => Sys2Proof.Machine.execNbxEngineGrant k s
  | .stopeStep k g => Sys2Proof.Machine.execStopeStep k g s
  | .stopeResume k g => Sys2Proof.Machine.execStopeResume k g s
  | .nbxDone k g => Sys2Proof.Machine.execNbxDone k g s
  | .chainReservation core e => Sys2Proof.Machine.execChainReservation core e s
  | .chainHopStore core e => Sys2Proof.Machine.execChainHopStore core e s
  | .chainDone core e => Sys2Proof.Machine.execChainDone core e s
  | .loopVerdict core => Sys2Proof.Machine.execLoopVerdict core s
  | .replayIteration core => Sys2Proof.Machine.execReplayIteration core s
  | .loopStatusWrite core => Sys2Proof.Machine.execLoopStatusWrite core s
  | .trapEntry cause tval topnd => Sys2Proof.Machine.execTrapEntry cause tval topnd s
  | .endLaunch p id => Sys2Proof.Machine.execEndLaunch p id s
  | .completionWordWrite p id => Sys2Proof.Machine.execCompletionWordWrite p id s
  | .dispatchRound p => Sys2Proof.Machine.execDispatchRound p s
  | .agingRise p k => Sys2Proof.Machine.execAgingRise p k s
  | .dependenceSatisfied p id d => Sys2Proof.Machine.execDependenceSatisfied p id d s
  | .dependencePoll p id d => Sys2Proof.Machine.execDependencePoll p id d s
  | .preemptRequest core => Sys2Proof.Machine.execPreemptRequest core s
  | .huskSave core => Sys2Proof.Machine.execHuskSave core s
  | .huskWake p h => Sys2Proof.Machine.execHuskWake p h s
  | .parkTimeout p h => Sys2Proof.Machine.execParkTimeout p h s
  | .huskRelease p h => Sys2Proof.Machine.execHuskRelease p h s
  | .dumpRequest p id g => Sys2Proof.Machine.execDumpRequest p id g s
  | .dumpRelease p h => Sys2Proof.Machine.execDumpRelease p h s
  | .packetArrival k => Sys2Proof.Machine.execPacketArrival k s
  | .blockSuspect r => Sys2Proof.Machine.execBlockSuspect r s
  | .lampHop => Sys2Proof.Machine.execLampHop s
  | .recoveryBufferAccept => Sys2Proof.Machine.execRecoveryBufferAccept s
  | .lampRelease => Sys2Proof.Machine.execLampRelease s
  | .recoveryBufferDrain k => Sys2Proof.Machine.execRecoveryBufferDrain k s
  | .lampRegenerate => Sys2Proof.Machine.execLampRegenerate s
  | .segmentMaskActivate k c b => Sys2Proof.Machine.execSegmentMaskActivate k c b s
  | .supplementaryActivate k c b => Sys2Proof.Machine.execSupplementaryActivate k c b s
  | .refresh k c b => Sys2Proof.Machine.execRefresh k c b s
  | .selfRefreshEntry k c => Sys2Proof.Machine.execSelfRefreshEntry k c s
  | .selfRefreshExit k c => Sys2Proof.Machine.execSelfRefreshExit k c s
  | .errorCheckScrub k pa => Sys2Proof.Machine.execErrorCheckScrub k pa s
  | .errorRateCrossed die cls => Sys2Proof.Machine.execErrorRateCrossed die cls s
  | .leaseGrant imm p port peer rblock => Sys2Proof.Machine.execLeaseGrant imm p port peer rblock s
  | .leaseRevoke imm => Sys2Proof.Machine.execLeaseRevoke imm s
  | .revocationPoint imm => Sys2Proof.Machine.execRevocationPoint imm s
  | .leaseRelease imm => Sys2Proof.Machine.execLeaseRelease imm s
  | .ualinkPortDown port => Sys2Proof.Machine.execUalinkPortDown port s
  | .capacityMove b p q => Sys2Proof.Machine.execCapacityMove b p q s
  | .hotRemoveAck b => Sys2Proof.Machine.execHotRemoveAck b s
  | .hotRemoveTimeout b => Sys2Proof.Machine.execHotRemoveTimeout b s
  | .blockScrubDone b => Sys2Proof.Machine.execBlockScrubDone b s
  | .hostMemWrite pa bs => Sys2Proof.Machine.execHostMemWrite pa bs s
  | .hostMemRead pa n => Sys2Proof.Machine.execHostMemRead pa n s
  | .notify p v => Sys2Proof.Machine.execNotify p v s
  | .bdoneWrite p v => Sys2Proof.Machine.execBdoneWrite p v s
  | .netctlWrite v => Sys2Proof.Machine.execNetctlWrite v s
  | .mcstkWrite k v => Sys2Proof.Machine.execMcstkWrite k v s
  | .coresWrite p v => Sys2Proof.Machine.execCoresWrite p v s
  | .xmaskWrite p v => Sys2Proof.Machine.execXmaskWrite p v s
  | .activeWrite p v fw => Sys2Proof.Machine.execActiveWrite p v fw s
  | .coldReset => Sys2Proof.Machine.execColdReset s
  | .warmReset => Sys2Proof.Machine.execWarmReset s
  | .powerOn fw => Sys2Proof.Machine.execPowerOn fw s
  | .getVersion => Sys2Proof.Machine.execGetVersion s
  | .getCapabilities => Sys2Proof.Machine.execGetCapabilities s
  | .negotiateAlgorithms => Sys2Proof.Machine.execNegotiateAlgorithms s
  | .getDigests => Sys2Proof.Machine.execGetDigests s
  | .getCertificate => Sys2Proof.Machine.execGetCertificate s
  | .challenge => Sys2Proof.Machine.execChallenge s
  | .getMeasurements m => Sys2Proof.Machine.execGetMeasurements m s
  | .keyExchange => Sys2Proof.Machine.execKeyExchange s
  | .finish => Sys2Proof.Machine.execFinish s
  | .endSession => Sys2Proof.Machine.execEndSession s
  | .ideKm module => Sys2Proof.Machine.execIdeKm module s
  | .ideStreamFailure module => Sys2Proof.Machine.execIdeStreamFailure module s
  | .counterQuantum core => Sys2Proof.Machine.execCounterQuantum core s
  | .traceSample core => Sys2Proof.Machine.execTraceSample core s
  | .traceConvoyRecord core => Sys2Proof.Machine.execTraceConvoyRecord core s
  | .throttleRaise => Sys2Proof.Machine.execThrottleRaise s
  | .throttleLower => Sys2Proof.Machine.execThrottleLower s
  | .thermalStop => Sys2Proof.Machine.execThermalStop s
  | .launchAnswer core => Sys2Proof.Machine.execLaunchAnswer core s
  | .partitionBlockWrite p f v => Sys2Proof.Machine.execPartitionBlockWrite p f v s
  | .peerLineFillOrWriteBack pa w => Sys2Proof.Machine.execPeerLineFillOrWriteBack pa w s
  | .leaseReclaim b => Sys2Proof.Machine.execLeaseReclaim b s

end Sys2Proof.Machine
end

