-- ==== Sys2Proof/Machine/Waits.lean ====
section
/-! DEFINITION. What a word is to the control thread and to the vector unit: which words enter the vector queue (R12), what
each waits for before it issues, and the uncorrectable registers it reads (R394). -/

namespace Sys2Proof.Machine

/-! ### What a word is -/

/-- The vector and matrix instructions (R12, R399). -/
def isVector (x : Instr) : Bool :=
  match x with
  | .vsetvl .. | .vsetvt .. | .vprog .. | .vpjoin => true
  | _ => (uses x).queue

/-- The CSR that a word accesses, and whether it writes it. -/
def csrOf (x : Instr) : Option (Nat × Bool) :=
  match x with
  | .csrr _ c => some (c.toNat, false)
  | .csrw _ c | .csrs _ c | .csrc _ c => some (c.toNat, true)
  | _ => none

/-- A CSR write of VTYPE or VRCFG, which has a place in vector program order (R35, R166). -/
def writesType (x : Instr) : Bool := csrOf x == some (0x002, true) || csrOf x == some (0x003, true)

/-- The words that enter the vector queue; the fences that the control thread waits at do not (R12, R100, R206, R261). -/
def queueWord (x : Instr) : Bool :=
  match x with
  | .vpjoin | .fenceVs | .lsync | .gsync => false
  | _ => isVector x || writesType x

/-- The instructions that form a convoy of one (R35). -/
def aloneInConvoy (x : Instr) : Bool :=
  match x with
  | .vsetvl .. | .vsetvt .. | .vrcfg .. | .vtag .. | .vf .. | .vpjoin
  | .fenceSv | .fenceVs | .fenceVv | .lsync
  | .tshape .. | .menter | .mleave | .mxadd .. | .mxsub .. | .mxsld .. | .mzero .. | .mrow .. | .mcol .. | .mwrow ..
  | .mldt .. | .mstt .. => true
  | _ => false

/-- The instructions that only the leader performs, or that all members perform as one (R37, R151, R258 to R265, R267). -/
def isJoint (x : Instr) : Bool :=
  match x with
  | .gperm .. | .gred .. | .gbcast .. | .gsync | .launch .. | .cancel .. | .endProg | .sfenceT .. | .harvest .. | .yield => true
  | _ => false

/-- A scalar access of memory: a load with its destination, address register, address, size, extension and order; a store;
an atomic with its order (R160 to R163). -/
inductive ScalarAccess where
  | load (d a : SReg) (va : Word) (size : Nat) (sx : Bool) (k : OrdKind)
  | store
  | atomic (k : OrdKind)
  deriving DecidableEq, Repr

/-- The scalar access that a word of the acting hart makes. -/
def scalarAccess (s : State) (x : Instr) : Option ScalarAccess :=
  match x with
  | .ldb d a i => some (.load d a (immAddr s a i) 1 true .plain)
  | .ldh d a i => some (.load d a (immAddr s a i) 2 true .plain)
  | .ldw d a i => some (.load d a (immAddr s a i) 4 true .plain)
  | .ldd d a i => some (.load d a (immAddr s a i) 8 false .plain)
  | .ldbu d a i => some (.load d a (immAddr s a i) 1 false .plain)
  | .ldhu d a i => some (.load d a (immAddr s a i) 2 false .plain)
  | .ldwu d a i => some (.load d a (immAddr s a i) 4 false .plain)
  | .ldbReg d a b k _ => some (.load d a (regAddr s a b) 1 true k)
  | .ldhReg d a b k _ => some (.load d a (regAddr s a b) 2 true k)
  | .ldwReg d a b k _ => some (.load d a (regAddr s a b) 4 true k)
  | .lddReg d a b k _ => some (.load d a (regAddr s a b) 8 false k)
  | .ldbuReg d a b k _ => some (.load d a (regAddr s a b) 1 false k)
  | .ldhuReg d a b k _ => some (.load d a (regAddr s a b) 2 false k)
  | .ldwuReg d a b k _ => some (.load d a (regAddr s a b) 4 false k)
  | .stb .. | .sth .. | .stw .. | .std .. | .stbReg .. | .sthReg .. | .stwReg .. | .stdReg .. => some .store
  | .amoAdd _ _ _ k _ _ | .amoSwap _ _ _ k _ _ | .amoCas _ _ _ k _ _ | .amoMin _ _ _ k _ _ | .amoMax _ _ _ k _ _
  | .amoAnd _ _ _ k _ _ | .amoOr _ _ _ k _ _ => some (.atomic k)
  | _ => none

/-- The scalar words of majors 0x34 and 0x36 (R173). -/
def engineWord (x : Instr) : Bool :=
  match x with
  | .stand .. | .unstand .. | .take .. | .waitsl .. | .copy .. | .stream .. | .nbx .. | .chain .. | .lmark .. => true
  | _ => false

/-- The words whose work in the vector unit accesses memory or orders accesses. -/
def vectorAccess (x : Instr) : Bool :=
  match x with
  | .vld .. | .vlds .. | .vldx .. | .vldff .. | .vldp .. | .vst .. | .vsts .. | .vstx .. | .vstp ..
  | .vldn .. | .vstn .. | .vldns .. | .vamoadd .. | .vamomax .. | .vamomaxU .. | .vamomin .. | .vamominU ..
  | .vstand .. | .vtake .. | .bgld .. | .gxl .. | .mldt .. | .mstt .. | .vf .. | .fenceSv | .fenceVv => true
  | _ => false

/-! ### Registers (R28, R150) -/

/-- What is known of the instructions that a word of the acting hart brings into the vector unit: itself, and those that its
block and their paths hold. -/
def broughtBy (s : State) (x : Instr) : Reached :=
  match x with
  | .vf _ l o => let r := vfReaches s (vpTarget s.hart.pc o) (l.val + 1); { r with instrs := x :: r.instrs }
  | _ => ⟨[x], true⟩

/-- The scalar registers that a status word is due in, which a later instruction of the control thread may have to come
first for: those of a stream, a chain and the marked loop. -/
def dueStatus (h : Hart) : List SReg :=
  h.engines.filterMap (fun e => match e.kind with
    | .stream .. | .chain .. => some e.rd
    | _ => none) ++ (h.loop.map (·.rd)).toList

/-- A register that the word reads or writes has a result pending (R150); a `VF` reads those of the words that its VPs
reach (R140), and any where a word cannot be fetched yet (log 53). -/
def registerPending (s : State) (x : Instr) : Bool :=
  let h := s.hart
  let r := broughtBy s x
  r.instrs.any (fun i => ((uses i).sr ++ (uses i).sw.toList).any (fun r => h.pending.getLsbD r.val)) ||
    (!r.known && (List.range 32).any (fun n => h.pending.getLsbD n && !(dueStatus h).any (fun d => d.val == n)))

/-- The vector registers that a word reads or writes, groups included; a write of VRCFG touches all. -/
def touches (c : Csr) (x : Instr) : List Nat := if clearsRegs x then List.range 64 else regsNamed c x

/-- An engine holds back the word, number `n`: a copy before it without a tracking context (R53), or registers still to be
delivered (R28). -/
def engineHolds (s : State) (n : Nat) (x : Instr) : Bool :=
  let rs := gatherRegs s.hart
  copyHolds s.hart n ||
    (!rs.isEmpty && (broughtBy s x).instrs.any (fun i => (touches s.hart.csr i).any rs.contains))

/-! ### The vector unit -/

/-- The words of the vector queue that wait until a running `VF` has completed: all but those that read and write no vector
state (R15, R203). -/
def waitsForVf (x : Instr) : Bool :=
  match x with
  | .vsetvl .. | .vsetvt .. | .vprog .. => false
  | _ => true

/-- A `VF` runs or is still to start (R206). -/
def vfDue (h : Hart) : Bool :=
  h.vf.isSome || (!h.started && (h.held.toList ++ h.queue.map (·.work)).any (fun d => match decode d.ir.toNat with
    | .ok (.vf ..) => true
    | _ => false))

/-- A `STAND` of a core still waits for its answer (R220). -/
def standDue (s : State) (c : Nat) : Bool := s.stands.any (fun a => a.core == c)

/-- Whether an instruction of the vector unit is an acquire (R113, R227). -/
def vectorAcquire (d : Held) : Bool :=
  match decode d.ir.toNat with
  | .ok (.vstand ..) | .ok (.vtake ..) => true
  | _ => false

/-- An acquire is under way in the vector unit. -/
def acquireQueued (h : Hart) : Bool := !h.started && (h.held.any vectorAcquire || h.queue.any (fun q => vectorAcquire q.work))

/-! ### What a word waits for -/

/-- Waits for the vector unit that a word's own statement names (R12, R100, R166, R167, R171, R206, R261, R263, R265,
R267): for all its work, or for what is queued only. -/
def waitsForUnit (h : Hart) (x : Instr) : Bool :=
  match x with
  | .trap .. | .bkpt .. | .endProg | .sfenceT .. | .fenceI | .fenceVs | .lsync | .gsync | .launch .. => vectorBusy h
  | .vpjoin => vfDue h
  | _ =>
    match csrOf x with
    | some (0x010, _) | some (0x011, _) => vectorBusy h
    | some (0x001, false) | some (0x004, false) | some (0x005, false) =>
      !h.started && (!h.queue.isEmpty || h.held.isSome)
    | _ => false

/-- Whether an access is ordered (R162, R163). -/
def ScalarAccess.acquires (a : ScalarAccess) : Bool :=
  match a with
  | .load _ _ _ _ _ k => k == .acq
  | .store => false
  | .atomic k => k == .acq || k == .ar

/-- The irrevocable instructions that wait at issue (R173); `LJOIN`, whose hand-back no rollback undoes, is one of them
(log 8). -/
def irrevocable (s : State) (x : Instr) : Bool :=
  engineWord x ||
  (match scalarAccess s x with
    | some (.atomic _) => true
    | some a => a.acquires
    | none => false) ||
  (match x with
    | .launch .. | .cancel .. | .yield | .trap .. | .sfenceT .. | .harvest .. | .claim .. | .unclaim .. | .cevt .. | .ljoin .. => true
    | _ => csrOf x == some (0x030, true))

/-- The words that wait for the data of every earlier plain load: what follows it in the same hart's order (R106), and what
performs everything before it (R100, R171, R261, R265, R267). -/
def waitsForLoads (s : State) (x : Instr) : Bool :=
  match x with
  | .copy .. | .stream .. | .nbx .. | .chain .. | .lsync | .endProg | .sfenceT .. | .gsync | .launch .. | .fenceI => true
  | _ =>
    match scalarAccess s x with
    | some (.atomic _) => true
    | _ => false

/-- The buffered stores that the word comes after cannot be performed yet (R93, R103). -/
def waitsForStores (s : State) (x : Instr) : Bool :=
  let h := s.hart
  let acquire := match x with
    | .take .. | .waitsl .. | .stand .. | .ljoin .. => h.released
    | _ =>
      match scalarAccess s x with
      | some (.atomic _) => true
      | some a => a.acquires && h.released
      | none => false
  acquire && !h.buffer.all (storeReady h)

/-- A release that is performed as it issues comes after the vector unit's earlier accesses: a running `VF`'s and those of an
instruction that it holds (R102). -/
def waitsForRelease (s : State) (x : Instr) : Bool :=
  match scalarAccess s x with
  | some (.atomic k) => (k == .rel || k == .ar) && vectorBusy s.hart
  | _ => false

/-- A word's access comes after an acquire that is still under way (R101, R220, R227). -/
def waitsForAcquire (s : State) (x : Instr) : Bool :=
  ((scalarAccess s x).isSome || engineWord x) && (standDue s s.hart.core || acquireQueued s.hart)

/-- The word cannot issue yet. -/
def mustWait (s : State) (x : Instr) : Bool :=
  registerPending s x || waitsForUnit s.hart x || (irrevocable s x && !(unstarted s.hart).isEmpty) ||
    (waitsForLoads s x && !s.hart.loads.isEmpty) || waitsForStores s x || waitsForRelease s x || waitsForAcquire s x

/-! ### Frozen registers (R149, R242) -/

/-- TOPND of the register that a word of the vector queue would write and that a marked loop has frozen. -/
def frozenTop (h : Hart) (x : Instr) : Option Word :=
  match frozenVector h x with
  | some r => some (topndV r 0)
  | none => if queueWord x then ((uses x).sw.filter (frozen h)).map topndS else none

end Sys2Proof.Machine
end

