-- ==== Sys2Proof/Machine/Uncorrectable.lean ====
section
/-! DEFINITION. Uncorrectable errors in registers (R394): which elements and mask bits an instruction reads, and which
uncorrectable places it writes anew. -/

namespace Sys2Proof.Machine

/-- The elements of its vector registers that an instruction reads, register by register in operand order; the exchanges of a
gang look at their members themselves. -/
def vectorReads (s : State) (x : Instr) : List (Nat × (Nat → Bool)) :=
  let h := s.hart
  let n := lengthOf h
  let st := h.restart.start
  let now := fun (e : Nat) => decide (st ≤ e) && decide (e < n)
  let masked := fun (m : MReg) (e : Nat) => now e && enabled h m e
  let amount := fun (r : SReg) => (getReg s r).toNat
  let rows := fun (m : MReg) (i : Nat) => decide (i < partRows h) && active h m i
  let cols := fun (m : MReg) (j : Nat) => decide (j < partCols h) && active h m j
  let some_ := fun (p : Nat → Bool) (k : Nat) => (List.range k).any p
  let fold := fun (a b : VReg) (m : MReg) => [(a.val, masked m), (b.val, fun (e : Nat) => e == 0 && n != 0)]
  let outer := fun (a b : VReg) (r c : MReg) =>
    [(a.val, fun i => rows r i && some_ (cols c) (partCols h)), (b.val, fun j => cols c j && some_ (rows r) (partRows h))]
  match x with
  | .gperm .. | .gbcast .. | .gred .. | .vins .. | .vtag .. | .vf .. => []
  | .vsel _ a b m => [(a.val, fun e => now e && active h m e), (b.val, fun e => now e && !active h m e)]
  | .vext _ a r | .vextU _ a r => [(a.val, fun e => e == amount r && decide (e < n))]
  | .vgath _ a b m =>
    [(a.val, fun e => decide (e < n) && some_ (fun i => masked m i && getElem h b.val (narrowTag (tagOfReg h b.val)) i == e) n),
      (b.val, masked m)]
  | .vslup _ a r _ m => [(a.val, fun e => masked m (e + amount r))]
  | .vsldn _ a r _ m => [(a.val, fun e => decide (e < n) && decide (amount r ≤ e) && masked m (e - amount r))]
  | .vredsum _ a b m | .vredmax _ a b m | .vredmaxU _ a b m | .vredmin _ a b m | .vredminU _ a b m => fold a b m
  | .mxadd _ a b r c | .mxsub _ a b r c => outer a b r c
  | .mxsld _ a b r c k =>
    let steps := (List.range (k.val + 1)).filter (fun t => decide (st ≤ t))
    (a.val, fun e => steps.any (fun t => decide (t ≤ e) && rows r (e - t)) && some_ (cols c) (partCols h)) ::
      steps.map (fun t => (b.val + t, fun j => cols c j && some_ (rows r) (partRows h)))
  | .mwrow _ a r => [(a.val, fun j => decide (amount r < partRows h) && decide (j < partCols h))]
  | _ => (uses x).vr.map (fun r => (r.val, masked ((predicates x).headD 0)))

/-- The bits of its mask registers that an instruction reads: of a predicate those of its elements, none where it is not
masked (R41), and m0 where it is issued again (R213). -/
def maskReads (h : Hart) (x : Instr) : List (Nat × (Nat → Bool)) :=
  let n := lengthOf h
  let st := h.restart.start
  let now := fun (e : Nat) => decide (st ≤ e) && decide (e < n)
  match x with
  | .gperm .. | .gbcast .. | .gred .. => []
  | .mxadd _ _ _ r c | .mxsub _ _ _ r c | .mxsld _ _ _ r c _ =>
    (if r = 0 then [] else [(r.val, fun i => decide (i < partRows h))]) ++
      (if c = 0 then [] else [(c.val, fun j => decide (j < partCols h))])
  | _ =>
    if h.restart.useM0 then [(0, now)]
    else
      ((uses x).mr.filter (fun m => m != 0 || (predicates x).isEmpty)).map (fun m => (m.val, now))

/-- TOPND of the first vector or mask register that a word reads where it is uncorrectable. -/
def badVector (s : State) (x : Instr) : Option Word :=
  if s.bad.isEmpty then none
  else
    match badRead s (vectorReads s x) with
    | some t => some t
    | none => badMaskRead s (maskReads s.hart x)

/-- A privileged form of a word that the acting hart may not execute (R149 step 2). -/
def forbidden (s : State) (x : Instr) : Bool :=
  match x with
  | .tret | .sfenceT .. | .harvest .. | .cevt .. => !supervisor s.hart
  | .claim .. | .unclaim .. => !supervisor s.hart && !onHyper s
  | _ => !supervisor s.hart && (csrOf x).any (fun c => csrSupervisor c.1)

/-- TOPND of the first scalar register that a word reads and that is uncorrectable, where no earlier check of R149 fails. -/
def badScalar (s : State) (x : Instr) : Option Word :=
  if s.bad.isEmpty || forbidden s x || (uses x).sw.any (frozen s.hart) then none
  else ((uses x).sr.find? (fun r => r != 0 && badPlace s (.sreg s.hart.core r.val))).map topndS

/-- Whether a word that has completed has written an element of its vector destination anew: one of its length where it is
active or zeroed, and its tail where TPOL writes one; of `VINS` the one element. -/
def writesElem (s : State) (x : Instr) (e : Nat) : Bool :=
  let h := s.hart
  let n := lengthOf h
  match x with
  | .vins _ r _ => e == (getReg s r).toNat
  | .vtag .. => false
  | .vsel .. => decide (e < n) || tpolOf h.csr != 0
  | _ => if e < n then active h ((predicates x).headD 0) e || ipolOf h.csr else tpolOf h.csr != 0

/-- The marks of the registers and accumulators that a word of the acting hart of `s` wrote, gone: `h` is the hart that
executed it. -/
def clearWritten (h : Hart) (s : State) (x : Instr) : State :=
  if s.bad.isEmpty then s
  else
    let core := s.hart.core
    let before := { s with hart := h }
    let kept := (uses x).vw.flatMap (fun r => (badElems s r.val).filter (fun e => !writesElem before x e) |>.map (fun e =>
      slotOf s.hart.csr r.val (narrowTag (tagOfReg s.hart r.val)) e))
    let c := s.hart.csr
    { s with bad := s.bad.filter (fun b => match b with
        | .sreg k r => !(k == core && ((uses x).sw.map (·.val)) == some r)
        | .vslot k i => !(k == core && (uses x).vw.any (fun r =>
            decide (r.val * regLen c ≤ i ∧ i < (r.val + groupOf c) * regLen c)) && !kept.contains i)
        | .mask k m w => !(k == core && (uses x).mw.any (fun r => r.val == m) && decide (64 * w < lengthOf h))
        | .acc k i => !(k == core && (match x with
            | .mzero t => i / 98304 == t.val
            | .mldt t _ _ => i / 98304 == t.val && decide (i % 98304 / 384 < partRows h) && decide (i % 384 < partCols h)
            | .mwrow t _ r => i / 98304 == t.val && i % 98304 / 384 == (getReg before r).toNat && decide (i % 384 < partCols h)
            | .tshape .. | .mleave => true
            | _ => false))
        | _ => true) }

end Sys2Proof.Machine
end

