-- ==== Sys2Proof/Machine/Queue.lean ====
section
/-! DEFINITION. The vector queue and the vector unit (R12, R31, R172, R399): entering the queue with a checkpoint, the unit's
next work and what it runs under, and what the control thread keeps when that work ends, stops or traps. -/

namespace Sys2Proof.Machine

/-! ### Performing a word -/

/-- A vector instruction predicated on chunk masks acquires the chunks among those below `n` whose bits it samples as set
(R110). -/
def acquireChunks (s : State) (x : Instr) (n : Nat) : State := acquireBits s (predicates x) (fun c => decide (c < n))

/-- What a word acquires that has been performed from `s` to `t`: nothing where it stalled or trapped before its first
element; where it stopped at a group with no access of memory, the chunks up to that group (R29, R110). -/
def acquired (s t : State) (x : Instr) : State :=
  if s.olds.isEmpty then t
  else
    let g := t.hart
    if g.stalled || (!nested s.hart && nested g && !g.started) then { t with olds := s.olds }
    else
      match g.held with
      | some d =>
        if vectorAccess x then t
        else { t with olds := (acquireChunks s x (d.start + if g.started then 64 else 0)).olds }
      | none => t

/-- A word performed by the unit that executes it, with the chunks it acquires; a vector register that it reads and that is
uncorrectable comes first (R394). -/
def perform (x : Instr) (s : State) : Out :=
  match badVector s x with
  | some t => registerTrap s .registers t
  | none =>
    match exec x (acquireChunks s x (lengthOf s.hart)) with
    | .next t => .next (acquired s t x)
    | o => o

/-- What the members of a gang acquire with a word that is performed for all of them. -/
def acquireAll (s : State) (cores : List Nat) (x : Instr) : State :=
  if s.olds.isEmpty then s
  else cores.foldl (fun s c => focus (acquireChunks (focus s c) x (lengthOf (hartAt s c))) s.hart.core) s

/-- The mask field under which the elements of a word pass the lanes, if they do (R13, R29); `VSEL` and `VLDNS` take every
element. -/
def laneMask (x : Instr) : Option MReg :=
  match x with
  | .vsel .. | .vldns .. => some 0
  | .mxadd .. | .mxsub .. | .mxsld .. | .vf .. | .gxl .. => none
  | _ => if (uses x).queue then (predicates x)[0]? else none

/-- The outer-product steps of a word. -/
def productSteps (x : Instr) : Nat :=
  match x with
  | .mxadd .. | .mxsub .. => 1
  | .mxsld _ _ _ _ _ k => k.val + 1
  | _ => 0

/-- What the lanes did for a word that `h` executed and `g` has completed, counted by lane cluster: its active elements, and
the groups of which none is active (R29, R384). -/
def countElements (h g : Hart) (x : Instr) : Hart :=
  match laneMask x with
  | none => g
  | some m =>
    let n := lengthOf g
    let act := (List.range n).filter (active h m)
    let skipped := (List.range (groupsOf n)).filter (fun k =>
      (List.range 64).all (fun i => decide (n ≤ 64 * k + i) || !active h m (64 * k + i)))
    (List.range 8).foldl (fun g c =>
      countHart (countHart g 0x05 c (act.countP (fun e => laneCluster e == c))) 0x06 c skipped.length) g

/-- A word of the acting hart, which was `h`, counted as completed where a bank counts (R384). -/
def countCompleted (h : Hart) (s : State) (x : Instr) : State :=
  if (enabledBanks s.hart).isEmpty then s
  else
    let g := countHart (countElements h s.hart x) 0x0A 8 (productSteps x)
    { s with hart := countHart g (if isVector x then 0x03 else 0x02) 8 1 }

/-- What is left to do once a word of the hart that was `h` has completed. -/
def complete (h : Hart) (s : State) (x : Instr) : State := countCompleted h (clearWritten h s x) x

/-! ### Entering (R12, R35, R173) -/

/-- The registers that a word reads and by which it joins a convoy, mask register m as 64 + m: a mask field of 0 names none
where it predicates (R35, R41).  A scalar register that a member writes is none either (log 54). -/
def convoyReads (x : Instr) : List Nat :=
  (uses x).vr.map (·.val) ++ ((uses x).mr.filter (fun m => m != 0 || (predicates x).isEmpty)).map (fun m => 64 + m.val)

/-- The registers that a word writes and by which a later one joins its convoy; a gather's mask field of 0 names none. -/
def convoyWrites (x : Instr) : List Nat :=
  let named := fun (m : MReg) => m != 0 || (match x with
    | .bgld .. => false
    | _ => true)
  (uses x).vw.map (·.val) ++ ((uses x).mw.filter named).map (fun m => 64 + m.val)

/-- A grant of VL writes its scalar register as it issues, with no wait for the vector unit (R181, R182). -/
def grantsLength (x : Instr) : Bool :=
  match x with
  | .vsetvl .. | .vsetvt .. => true
  | _ => false

/-- The scalar register that the vector unit writes for a word of its queue. -/
def unitResult (x : Instr) : Option SReg := if grantsLength x then none else (uses x).sw

/-- A word that takes a place in vector program order: it enters a convoy, or closes the open one (R35).  Only vector
and mask registers are reads of a member's result (log 54). -/
def joinConvoy (s : State) (x : Instr) : State :=
  if isVector x then
    enterConvoy s (aloneInConvoy x) (lengthOf s.hart)
      (convoyReads x) (convoyWrites x)
  else closeConvoy s

/-- The control thread's own VTYPE and VRCFG after a word that is queued (R166); in a handler, where the held
instructions keep theirs, its VL too. -/
def typesAfter (h g : Hart) : Csr :=
  { h.csr with vtype := g.csr.vtype, vrcfg := g.csr.vrcfg, vl := if h.started then g.csr.vl else h.csr.vl }

/-- A word put into the vector queue with a checkpoint, its scalar destination pending, or written where it is a grant of VL;
`g` is the hart as the word would leave it. -/
def pushQueue (s : State) (x : Instr) (g : Hart) : State :=
  let t := joinConvoy (recordWord s x) x
  let h := t.hart
  let item : QueueItem := if isVector x then .vector else .csrWrite
  let q : Queued :=
    ⟨{ heldAt h h.vec.tags 0 false [] with seq := h.vseq + 1, item := item }, ⟨h.regs, h.csr, h.pending, h.latch, 0⟩⟩
  let h1 := match (uses x).sw with
    | some r => if grantsLength x then { h with regs := if r = 0 then h.regs else h.regs.set r g.regs[r] } else setPending h r
    | none => h
  advance { t with hart := { h1 with queue := h.queue ++ [q], vseq := h.vseq + 1, csr := typesAfter h g } }

/-- Whether a word sets VTYPE or VRCFG, or grants VL, so that later words of the control thread see the new value at once. -/
def changesType (x : Instr) : Bool :=
  match x with
  | .vsetvl .. | .vsetvt .. | .vrcfg .. => true
  | _ => writesType x

/-- A word enters the vector queue, or waits: for room (R12), and where its own checks refuse the new VTYPE or VRCFG, until
the vector unit is done, to trap in its turn (R139, R149). -/
def enterQueue (s : State) (x : Instr) : State :=
  if 256 ≤ s.hart.queue.length then stall s
  else if !changesType x then pushQueue s x s.hart
  else
    match exec x { s with hart := { s.hart with loop := none, vf := none } } with
    | .next t => if t.hart.pc = s.hart.pc + 4 ∧ t.hart.owner = s.hart.owner then pushQueue s x t.hart else stall s
    | _ => stall s

/-! ### The unit's next work -/

/-- Whether a queued word is a `VPROG`, which waits for no writer of the register that it samples (R201). -/
def samples (q : Queued) : Bool :=
  match decode q.work.ir.toNat with
  | .ok (.vprog ..) => true
  | _ => false

/-- What stands first in a hart's vector unit: the instruction it holds, else the head of the queue with its checkpoint; where
the unit goes on only to a boundary (`stops`), a `VPROG` behind the instruction it holds comes first (R201, log 6). -/
def headWork (h : Hart) (stops : Bool) : Option (Held × Option Checkpoint) :=
  match h.held, h.queue with
  | some d, q :: _ => if stops && samples q then some (q.work, some q.back) else some (d, none)
  | some d, [] => some (d, none)
  | none, q :: _ => some (q.work, some q.back)
  | none, [] => none

/-- The hart with the types of a queued word. -/
def underTypes (h : Hart) (d : Held) : Hart := { h with pc := d.pc, csr := { h.csr with vtype := d.vtype, vrcfg := d.vrcfg } }

/-- Whether the acting hart's unit may go on with the instruction `x`, number `seq`: no `VF` runs that it waits for, no engine
holds it, no earlier plain load (R106) and no earlier acquire (R220) is still to come. -/
def workReady (s : State) (seq : Nat) (x : Instr) : Bool :=
  let h := s.hart
  !(h.vf.isSome && waitsForVf x) && !engineHolds s seq x &&
    !(vectorAccess x && (standDue s h.core || h.loads.any (fun l => decide (l.after < seq))))

/-- The vector unit of a hart works: a core that has no hart and one that is stopped do not, nor does it until `TRET` in the
handler of an instruction that has started (R399). -/
def unitWorks (h : Hart) : Bool :=
  !h.started && (match h.run with
    | .idle | .stopped _ => false
    | _ => true)

/-! ### What queued work runs under -/

/-- The flags of FCSR. -/
def flagsOf (h : Hart) : Nat := bits h.csr.fcsr 0 5

/-- A hart with no flag raised. -/
def noFlags (h : Hart) : Hart := { h with csr := { h.csr with fcsr := setBits h.csr.fcsr 0 5 0 } }

/-- The CSRs of a queued word: those of its checkpoint, with what the vector unit itself writes, and the trap state of the
control thread. -/
def queuedCsr (h : Hart) (b : Checkpoint) : Csr :=
  let c := rolledCsr h b
  { c with status := setBits c.status 5 1 (bits h.csr.status 5 1) }

/-- The hart in which the unit's work `d` executes, up to the group boundary `stop`: the operands, types and length it
entered or issued with, no flag raised, its scalar destination `sw` free, and no marked loop that is still recorded. -/
def underWork (h : Hart) (d : Held) (b : Option Checkpoint) (sw : Option SReg) (stop : Option Nat) : Hart :=
  let c := match b with
    | some b => queuedCsr h b
    | none => { h.csr with vtype := d.vtype, vrcfg := d.vrcfg, vl := d.vl }
  let h1 : Hart := { h with
    regs := d.regs, pc := d.pc, ir := d.ir, csr := c, vnow := d.seq, held := none
    queue := if b.isSome then h.queue.drop 1 else h.queue
    pending := match sw with
      | some r => notPending h.pending r
      | none => h.pending
    restart := ⟨d.start, d.useM0, if b.isSome then none else some h.pc, stop⟩
    convoy := ⟨d.head, d.members, [], 0, false⟩, run := .running, stalled := false
    loop := h.loop.filter (fun l => match l.phase with
      | .recording | .verdict => false
      | _ => true)
    vec := if b.isSome then h.vec else putUndo c { h.vec with tags := d.tags } d.undo }
  noFlags h1

/-! ### What the control thread keeps -/

/-- Flags raised by the vector unit: in FCSR, and in every checkpoint, since they are never undone (R72, R172). -/
def joinFlags (h : Hart) (fl : Nat) : Hart :=
  let h1 := orFlags h fl
  { h1 with queue := h1.queue.map (fun q => { q with back := { q.back with flags := q.back.flags ||| fl } }) }

/-- The hart after its vector unit has worked as `g`, the control thread being `h`: the unit's state is `g`'s, the control
thread's own stays but for what the unit writes, the scalar destination among it. -/
def backTo (h g : Hart) (sw : Option SReg) (resumed : Option Held) : Hart :=
  let h1 : Hart := { g with
    regs := h.regs, pc := h.pc, ir := h.ir, run := h.run, convoy := h.convoy, restart := ⟨0, false, none, none⟩
    closed := h.closed, loop := h.loop, started := h.started
    held := if resumed.isNone && h.held.isSome then h.held else g.held
    csr := { h.csr with
      vl := match resumed with
        | some d => if g.csr.vl = d.vl then h.csr.vl else g.csr.vl
        | none => g.csr.vl
      mvl := g.csr.mvl, tshape := g.csr.tshape, seed := g.csr.seed
      status := setBits h.csr.status 6 1 (bits g.csr.status 6 1) }
    vec := if resumed.isSome then { g.vec with tags := h.vec.tags } else g.vec }
  let h2 := joinFlags h1 (flagsOf g)
  match sw with
  | none => h2
  | some r =>
    if g.held.isSome then setPending h2 r
    else if g.pending.getLsbD r.val then h2
    else writePending h2 r g.regs[r]

/-- A hart that waits waits no more: a `WAIT` ends, a `WAITSL` is evaluated again (R172, R223). -/
def endStall (h : Hart) : Hart :=
  match h.run with
  | .waitEvent _ => endWait h
  | .waitSlot _ _ _ due => { h with run := .running, waitDue := some (h.pc, due) }
  | _ => h

/-- The control thread `h` in the trap that its vector unit has taken as `g`: rolled back to the oldest instruction that has
not started, and then as R323 says (R399). -/
def enterTrap (h g : Hart) : Hart :=
  let r := declineLoop (endStall (rollbackHart h)) 11
  { r with
    csr := { r.csr with
      epc := r.pc, cause := g.csr.cause, tval := g.csr.tval, topnd := g.csr.topnd, status := trapStatus r.csr }
    pc := alignPc r.csr.tvec, started := g.started, restart := ⟨0, false, none, none⟩ }

/-- A trap has been entered between two states of a hart. -/
def trappedHart (h g : Hart) : Bool := !nested h && nested g

/-- The flags of a launch that has ended meanwhile, with those of a hart of it (R323). -/
def keepFlags (t : State) (h : Hart) : State := onLaunch t (partOf h) (launchOf h) (fun l => { l with flags := l.flags ||| flagsOf h })

/-- The control thread `k` of core `h.core` in the trap of its vector unit `g`, its open convoy closed. -/
def putTrap (t : State) (k g : Hart) : State :=
  focus (closeConvoy (focus (onCore t k.core (fun _ => enterTrap k g)) k.core)) t.hart.core

/-- The state after the unit of core `h.core` has done its work as in `t`; none where it must wait. A trap of a queued
instruction before it has started is precise (R139): it stands first in the queue again, is rolled back to, and comes after a
running `VF`. -/
def afterWork (t : State) (h : Hart) (queued : Bool) (sw : Option SReg) (resumed : Option Held) : Option State :=
  let g := hartAt t h.core
  if g.owner ≠ h.owner then some (keepFlags t h)
  else if g.stalled then none
  else if !trappedHart h g then some (onCore t h.core (fun _ => backTo h g sw resumed))
  else if g.started || !queued then some (putTrap t (backTo h g sw resumed) g)
  else if h.vf.isSome || h.held.isSome then none
  else some (putTrap t { backTo h g none none with queue := h.queue } g)

/-! ### One step of the vector units of a gang -/

/-- The word of the work that stands first in a hart's vector unit. -/
def workWord (d : Held) : Option Instr :=
  match decode d.ir.toNat with
  | .ok x => some x
  | _ => none

/-- The instruction of the acting hart completed, unless it has stalled, trapped, stopped, or ended its launch. -/
def completeWork (u t : State) (x : Instr) : State :=
  let g := t.hart
  if g.owner ≠ u.hart.owner || g.stalled || trappedHart u.hart g || g.held.isSome then t else complete u.hart t x

/-- The work of one member performed. -/
def memberWork (s : State) (d : Held) (b : Option Checkpoint) (stop : Option Nat) (x : Instr) : State :=
  let u := { s with hart := underWork s.hart d b (unitResult x) stop }
  match perform x u with
  | .next t => completeWork u t x
  | _ => u

/-- The members whose vector unit stands at the oldest instruction of the gang. -/
def oldestWork (s : State) (cores : List Nat) (stops : Bool) : List (Nat × Held × Option Checkpoint) :=
  let ws := cores.filterMap (fun c =>
    if unitWorks (hartAt s c) then (headWork (hartAt s c) stops).map (fun w => (c, w)) else none)
  let low := (ws.map (fun w => w.2.1.seq)).min?
  ws.filter (fun w => some w.2.1.seq == low)

/-- Whether the work of a member may go on now. -/
def mayWork (s : State) (w : Nat × Held × Option Checkpoint) : Bool :=
  match w.2.1.item, workWord w.2.1 with
  | .clear _, _ => (hartAt s w.1).vf.isNone
  | _, some x =>
    let t := focus s w.1
    workReady { t with hart := underTypes t.hart w.2.1 } w.2.1.seq x
  | _, none => true

/-- The oldest work of some members done as `x`, in the state `s`: jointly where it is one instruction of the whole gang
(R258), else by each. -/
def workTogether (s : State) (ws : List (Nat × Held × Option Checkpoint)) (stop : Option Nat) (x : Instr) : State :=
  if isJoint x then
    let u := acquireAll (ws.foldl (fun s w => onCore s w.1 (fun h => underWork h w.2.1 w.2.2 (unitResult x) stop)) s)
      (ws.map (·.1)) x
    match perform x (focus u ((ws.map (·.1)).headD s.hart.core)) with
    | .next t =>
      ws.foldl (fun t w => focus (completeWork (focus u w.1) (focus t w.1) x) s.hart.core) (focus t s.hart.core)
    | _ => u
  else ws.foldl (fun s w => focus (memberWork (focus s w.1) w.2.1 w.2.2 stop x) s.hart.core) s

/-- The recorded spans of a store that some members have executed, each as its number there (R398). -/
def respanAll (s : State) (ws : List (Nat × Held × Option Checkpoint)) (x : Instr) : State :=
  ws.foldl (fun s w =>
    if (hartAt s w.1).loop.isSome then focus (respan (focus s w.1) w.2.1.seq x) s.hart.core else s) s

/-- What each member keeps of the work done in `t`, from its hart in `s`; none where one must wait. -/
def keepWork (s t : State) (ws : List (Nat × Held × Option Checkpoint)) (x : Instr) : Option State :=
  ws.foldl (fun acc w => acc.bind (fun u =>
    afterWork u (hartAt s w.1) w.2.2.isSome (unitResult x) (if w.2.2.isSome then none else some w.2.1)))
    (some t) |>.map (fun u => respanAll u ws x)

/-- The members that have trapped between two states. -/
def trappedCores (s t : State) (cores : List Nat) : List Nat :=
  cores.filter (fun c => trappedHart (hartAt s c) (hartAt t c))

/-- The other members of a gang stopped when some trap: rolled back, then cause 0x21 (R40, R399). -/
def stopRest (s t : State) (cores : List Nat) : State :=
  let hit := trappedCores s t cores
  if hit.isEmpty then t
  else
    let held := hit.any (fun c => (hartAt t c).started)
    let rest := cores.filter (fun c => !hit.contains c && (hartAt t c).owner.isSome)
    let u := rest.foldl (fun u c => onCore u c (fun h => { endStall (rollbackHart h) with started := h.started || held })) t
    spreadTraps s u cores

/-- Where some members have trapped precisely, only they have executed: the others stand at the same word (log 28). -/
def onlyTrapped {α : Type} (s t : State) (cores : List Nat) (ws : List α) (core : α → Nat) (again : List α → Option State) :
    Option State :=
  let hit := trappedCores s t cores
  if hit.isEmpty || hit.any (fun c => (hartAt t c).started) || hit.length = ws.length then some t
  else
    match again (ws.filter (fun w => hit.contains (core w))) with
    | some u => if trappedCores s u cores = hit then some u else some t
    | none => some t

/-- The members of a gang number their vector instructions alike again after some have executed one that others have not, in
a handler or where it trapped (R37, log 28): all go on from the highest number. -/
def evenNumbers (s : State) (cores : List Nat) : State :=
  let top := cores.foldl (fun n c => Nat.max n (hartAt s c).vseq) 0
  if cores.all (fun c => (hartAt s c).vseq == top) then s
  else cores.foldl (fun s c =>
    if (hartAt s c).vseq = top then s
    else onCore s c (fun h => { closeHart s h with vseq := top })) s

/-- A mask clear that stands first in some members' queues done. -/
def clearTogether (s : State) (ws : List (Nat × Held × Option Checkpoint)) : State :=
  ws.foldl (fun s w => match w.2.1.item with
    | .clear e => onCore s w.1 (fun h => clearNow { h with queue := h.queue.drop 1 } w.2.1.start e)
    | _ => s) s

/-- One piece of work of the vector units of some cores that form a gang, the oldest first, all members together (R37); none
where there is none, or it must wait. -/
def unitStep (s : State) (cores : List Nat) (stop : Option Nat) : Option State :=
  match oldestWork s cores stop.isSome with
  | [] => none
  | w :: rest =>
    let ws := w :: rest
    if !ws.all (mayWork s) then none
    else
      match w.2.1.item, workWord w.2.1 with
      | .clear _, _ => some (clearTogether s ws)
      | _, none => none
      | _, some x =>
        let run := fun ws => keepWork s (workTogether s ws stop x) ws x
        ((run ws).bind (fun t => onlyTrapped s t cores ws (·.1) run)).map (fun t => stopRest s t cores)

/-! ### Virtual processors -/

/-- One word of a VP of the acting hart's `VF`, the control thread's state kept as it is (R14, R399); a trap of it stops the
gang. -/
def runVf (s : State) (lane : Option Nat) : Out :=
  let h := s.hart
  if !unitWorks h then .next s
  else
    match vfStep { s with hart := { noFlags h with stalled := false } } lane with
    | .next t =>
      (match afterWork t h false none none with
        | some u => .next (stopRest s u ((gangNow s).map (·.core)))
        | none => .next (stall s))
    | o => o

end Sys2Proof.Machine
end

