-- ==== Sys2Proof/Machine/Run.lean ====
section
/-! DEFINITION. Fetching and issuing: one word of a hart with the waits before it issues, a hart that runs alone, and a gang
(R37, R127, R149 to R151, R173). -/

namespace Sys2Proof.Machine

/-! ### Issue -/

/-- How a hart takes its step (log 6): as the vector unit is done with what it holds; its control thread running ahead of the
vector unit; the same with plain loads that get their data later. -/
inductive Pace where
  | now | ahead | late
  deriving DecidableEq, Repr

/-- A trap has been entered between two states of the acting hart. -/
def trapped (s t : State) : Bool := trappedHart s.hart t.hart

/-- What executing a word answers: where it must wait nothing of it has happened but what waits with it; a trap waits
until the vector unit is done, whose own trap would come first (R139, R149); else it is counted. -/
def afterExec (s : State) (x : Instr) (o : Out) : Out :=
  match o with
  | .next t =>
    let h := s.hart
    if t.hart.stalled then
      .next { t with hart := { t.hart with
        loop := h.loop, convoy := h.convoy, vseq := h.vseq, vnow := h.vnow, closed := h.closed, banks := h.banks, trace := h.trace } }
    else if trapped s t then .next (if vectorBusy h then stall s else t)
    else .next (complete h t x)
  | o => o

/-- The acting hart with the next vector instruction under way. -/
def startVector (s : State) (x : Instr) : State :=
  if isVector x then
    let t := joinConvoy s x
    { t with hart := { t.hart with vseq := t.hart.vseq + 1, vnow := t.hart.vseq + 1 } }
  else s

/-- A word executed as it issues; a plain load in its pace. -/
def execute (p : Pace) (s : State) (x : Instr) : Out :=
  let t := startVector (recordWord s x) x
  afterExec s x (
    match p, scalarAccess t x with
    | .late, some (.load d a va size sx .plain) => loadLater t d a va size sx
    | _, _ => perform x t)

/-- What comes before a word's execution: the handler of a started vector instruction issues none (R399); the waits; the
frozen registers of a queued word (R149, R242) and uncorrectable scalar registers (R394), whose traps wait for the vector
unit.  The state that it leaves, or none where the word goes on. -/
def precheck (s : State) (x : Instr) : Option State :=
  if s.hart.started && isVector x then some (trapWord s 0x01 0)
  else if mustWait s x then some (stall s)
  else
    match frozenTop s.hart x, badScalar s x with
    | some r, _ => some (if vectorBusy s.hart then stall s else trapWord s 0x0D r)
    | none, some t =>
      some (if vectorBusy s.hart then stall s
        else trapAt { logStructure s s.hart.core .registers with fresh := s.fresh + 1 } 0x0B (Config.registerTval s.fresh) t)
    | none, none => none

/-- Whether a word executes as it issues: every word that does not enter the vector queue, and one that does where the
control thread waits for it and the vector unit is free for it. -/
def direct (p : Pace) (s : State) (x : Instr) : Bool :=
  let h := s.hart
  !queueWord x ||
    (p == .now && h.queue.isEmpty && h.held.isNone && h.vf.isNone && workReady s (h.vseq + 1) x)

/-- The instruction `x` of the acting hart issued, once the loop that is being recorded has met it (R240). -/
def issue (p : Pace) (s : State) (x : Instr) : Out :=
  let s := observe s x
  match precheck s x with
  | some t => .next t
  | none => if direct p s x then execute p s x else .next (enterQueue s x)

/-- A trap at decode, once every earlier vector instruction has completed (R139). -/
def decodeTrap (s : State) (cause : Nat) : Out :=
  .next (if vectorBusy s.hart then stall s else trapWord s cause 0)

/-- The acting hart with the word `w` to execute. -/
def withWord (s : State) (w : BitVec 32) : State := { s with hart := { s.hart with ir := w } }

/-- The trap of a word with a reserved field set (R138): a VP's control word is illegal outside a `VF` all the same (R203). -/
def reservedCause (r : Option Instr) : Nat :=
  match r with
  | some (.vpf ..) | some .vpstop => 0x01
  | _ => 0x02

/-- The word `w` at the pc of the acting hart: the decode steps of R138, then the instruction. -/
def runWord (p : Pace) (s : State) (w : BitVec 32) : Out :=
  match decode w.toNat with
  | .ok x => issue p (withWord s w) x
  | .illegal => decodeTrap (withWord s w) 0x01
  | .reserved r => decodeTrap (withWord s w) (reservedCause r)

/-- A fetch of the acting hart that failed (R161, R327): the trap, with a batch where the page is not resident, once every
earlier vector instruction has completed. -/
def fetchFails (s : State) (f : Fetched) : Out :=
  let s1 := withWord s 0
  let h := s1.hart
  if vectorBusy h then .next (stall s)
  else
    match f with
    | .word _ => .next s
    | .trap c st => .next (takeTrap (logCause s1 c h.pc) ⟨c, h.pc, 0, h.pc, h.pc, 0, 0, 0, if st then 4 else 0⟩)
    | .missing st =>
      if ringFull s1 (partOf h) then .next (stall s)
      else
        let n := pcpWord s1 (partOf h) 0x38
        let s2 := writeBatch s1 h [h.pc.toNat / 4096 * 4096] (if st then 1 else 0)
        .next (takeTrap s2 ⟨0x08, n, 0, h.pc, h.pc, 0, 0, 0, if st then 4 else 0⟩)

/-! ### One hart (R127, R169, R223) -/

/-- A verdict is awaited: fetch stands still (R240). -/
def awaitsVerdict (h : Hart) : Bool := (h.loop.map (fun l => l.phase == .verdict)).getD false

/-- The next word of the acting hart fetched and run. -/
def fetchAndRun (p : Pace) (s : State) : Out :=
  let r := fetch s 0 s.hart.pc
  match r.1 with
  | .word w => runWord p r.2 w
  | f => fetchFails r.2 f

/-- Pending plain loads that a resume left are still to be issued again: before anything else, and one that has trapped once its
handler has returned (R320, log 40). -/
def reissueDue (h : Hart) : Bool :=
  match h.reissue with
  | [] => false
  | (_, tried) :: _ => !tried || !nested h

/-- The oldest of those loads issued again, with the checks of R161: its address is translated afresh (R320). -/
def reissueLoad (s : State) : State :=
  match s.hart.reissue with
  | [] => s
  | (l, _) :: rest =>
    let x := reach s l.addr l.size .read
    let trap := fun (t : State) cause (tval : Word) (stage2 : Bool) =>
      if vectorBusy s.hart then stall s
      else
        let u := { t with hart := { t.hart with reissue := (l, true) :: rest } }
        takeTrap u ⟨cause, tval, 0, u.hart.pc, u.hart.pc, 0, 0, 0, if stage2 then 4 else 0⟩
    match x.1 with
    | .trap c st => trap (logCause x.2 c l.addr) c l.addr st
    | .missing st =>
      if ringFull s (partOf s.hart) then stall s
      else
        trap (writeBatch x.2 x.2.hart [l.addr.toNat / 4096 * 4096] (if st then 1 else 0)) 0x08 (pcpWord s (partOf s.hart) 0x38) st
    | .ok p _ =>
      if dataBad x.2 p l.size .read then trap (logCause x.2 0x0B l.addr) 0x0B l.addr false
      else { x.2 with hart := { x.2.hart with reissue := rest, loads := x.2.hart.loads ++ [{ l with place := p }] } }

/-- A step of the control thread of a hart that runs alone. -/
def runAlone (p : Pace) (s : State) : Out :=
  match s.hart.run with
  | .running =>
    if awaitsVerdict s.hart then .next (stall s)
    else if reissueDue s.hart then .next (reissueLoad s)
    else fetchAndRun p s
  | .waitEvent _ => if latched s.hart then .next { s with hart := endWait s.hart } else .next (stall s)
  | .waitSlot .. =>
    let t := pollWait s
    .next (if t.hart.run = .running then t else stall s)
  | _ => .next (stall s)

/-! ### A gang (R37, R40, R151) -/

/-- The cores of the acting hart's gang; of a hart that runs alone its own. -/
def gangCores (s : State) : List Nat :=
  if s.hart.owner.isSome && gangSize s.hart != 1 then (gangNow s).map (·.core) else [s.hart.core]

/-- Members that run on follow the leader's pc. -/
def followLeader (s : State) (cores : List Nat) : State :=
  match cores with
  | [] => s
  | l :: rest =>
    let pc := (hartAt s l).pc
    rest.foldl (fun s c => onCore s c (fun h => if h.run = .running then { h with pc := pc } else h)) s

/-- What a step of some members leaves: where some trap the others stop with them (R40); else all go on with the leader. -/
def afterGang (s t : State) (cores : List Nat) : State :=
  if (trappedCores s t cores).isEmpty then followLeader t cores else stopRest s t cores

/-- A step of some members, which waits where one must wait, and where one traps while the vector unit of another is not
done (R149). -/
def orStall (s t : State) (cores : List Nat) : State :=
  if cores.any (fun c => (hartAt t c).stalled) then stall s
  else if !(trappedCores s t cores).isEmpty && cores.any (fun c => vectorBusy (hartAt s c)) then stall s
  else t

/-- A member's part in a scalar word: a jump through a register takes the leader's target, so that any other member only
keeps its return address (R151). -/
def memberExecutes (p : Pace) (lead : Nat) (x : Instr) (u : State) : Out :=
  if u.hart.core = lead then execute p u x
  else
    match x with
    | .jr _ => afterExec u x (.next (advance u))
    | .callr _ => afterExec u x (guardWrite u 1 (.next (advance (setReg u 1 (u.hart.pc + 4)))))
    | _ => execute p u x

/-- A word that the members `cs` execute each for itself; where some trap precisely, only they have executed it (log 28). -/
def executeEach (p : Pace) (s : State) (cores : List Nat) (x : Instr) : State :=
  let run := fun cs => eachMember s (cs.map (hartAt s)) (memberExecutes p (cores.headD s.hart.core) x)
  (onlyTrapped s (run cores) cores cores id (fun cs => some (run cs))).getD (run cores)

/-- A word that the leader `lead` has executed for all, from `s` to `t`, completed on the other members too (R384). -/
def completeRest (s t : State) (lead : Nat) (cores : List Nat) (x : Instr) : State :=
  if t.hart.stalled || !(trappedCores s t cores).isEmpty then t
  else (cores.filter (· != lead)).foldl (fun u c =>
    if (hartAt u c).owner = (hartAt s c).owner then focus (complete (hartAt s c) (focus u c) x) lead else u) t

/-- A word that the leader executes for all. -/
def executeJoint (p : Pace) (s : State) (cores : List Nat) (x : Instr) : Out :=
  let u := if isVector x then
      eachMember s (cores.map (hartAt s)) (fun u => .next (startVector (recordWord u x) x))
    else s
  let lead := cores.headD s.hart.core
  let v := focus (acquireAll u cores x) lead
  match (if isVector x then afterExec v x (perform x v) else execute p v x) with
  | .next t => .next (focus (completeRest v t lead cores x) s.hart.core)
  | o => o

/-- One word of every member. -/
def gangWord (p : Pace) (s : State) (cores : List Nat) (w : BitVec 32) (x : Instr) : Out :=
  let s := if isVector x || queueWord x then evenNumbers s cores else s
  let s1 := eachMember s (cores.map (hartAt s)) (fun u => .next (observe (withWord u w) x))
  let checked := eachMember s1 (cores.map (hartAt s1)) (fun u => .next ((precheck u x).getD u))
  if cores.any (fun c => (precheck (focus s1 c) x).isSome) then
    .next (afterGang s1 (orStall s1 checked cores) cores)
  else if !cores.all (fun c => direct p (focus s1 c) x) then
    let t := eachMember s1 (cores.map (hartAt s1)) (fun u => .next (enterQueue u x))
    .next (followLeader (orStall s1 t cores) cores)
  else if isJoint x then
    match executeJoint p s1 cores x with
    | .next t => .next (afterGang s1 t cores)
    | o => o
  else .next (afterGang s1 (orStall s1 (executeEach p s1 cores x) cores) cores)

/-- The waits of the members that wait looked at. -/
def gangWaits (s : State) (cores : List Nat) : Out :=
  let t := eachMember s (cores.map (hartAt s)) (fun u => if u.hart.run = .running then .next u else runAlone .now u)
  let u := onHarts t (fun h => if cores.contains h.core then { h with stalled := false } else h)
  .next (if cores.all (fun c => (hartAt u c).run = .running) then followLeader u cores else stall u)

/-- A step of the control threads of a gang: the leader fetches. -/
def runGang (p : Pace) (s : State) (cores : List Nat) : Out :=
  let lead := cores.headD s.hart.core
  if cores.any (fun c => (hartAt s c).run != .running) then gangWaits s cores
  else if cores.any (fun c => awaitsVerdict (hartAt s c)) then .next (stall s)
  else if cores.any (fun c => reissueDue (hartAt s c)) then
    let t := eachMember s (cores.map (hartAt s)) (fun u => .next (if reissueDue u.hart then reissueLoad u else u))
    .next (afterGang s (orStall s t cores) cores)
  else
    let r := fetch (focus s lead) 0 (hartAt s lead).pc
    let s1 := focus r.2 s.hart.core
    match r.1 with
    | .word w =>
      (match decode w.toNat with
        | .ok x => gangWord p s1 cores w x
        | _ => .next (afterGang s1 (orStall s1 (eachMember s1 (cores.map (hartAt s1)) (fun u => runWord p u w)) cores) cores))
    | f =>
      match fetchFails r.2 f with
      | .next t => .next (afterGang s1 (orStall s1 (focus t s.hart.core) cores) cores)
      | o => o

/-- A step of the acting hart, or of its gang: unless its control thread runs ahead, its vector unit does what it can
first. -/
def runHart (p : Pace) (s : State) : Out :=
  let s1 := { s with hart := { s.hart with stalled := false } }
  let cores := gangCores s1
  match (if p = .now then unitStep s1 cores none else none) with
  | some t => .next t
  | none => if cores.length ≤ 1 then runAlone p s1 else runGang p s1 cores

end Sys2Proof.Machine
end

