-- ==== Sys2Proof/Machine/Agenda.lean ====
section
/-! DEFINITION. What happens next: the steps that the module takes on its own, in the default order; the turns of the agenda
(log 4); one step of the module; and a word where the next instruction is fetched. -/

namespace Sys2Proof.Machine

/-! ### Steps that the module takes on its own, in the default order (log 4) -/

/-- A step that may be due: its meaning with its operands. -/
abbrev Due := State → Out

/-- A core number as an operand. -/
def coreId (c : Nat) : CoreId := Fin.ofNat 128 c

/-- What may be due for the engines and the replayed loop of a hart. -/
def engineEvents (h : Hart) (c : CoreId) : List Due :=
  h.engines.flatMap (fun e =>
    if e.status.isSome then []
    else if e.batch.isSome then [execEngineBatchResume c e.id]
    else
      match e.kind with
      | .copy _ _ len .. => (List.range (ceilDiv len 1024)).map (fun k => execCopyChunkDone c e.id k) ++ [execCopyDone c e.id]
      | .stream .. => [execStreamEnd c e.id]
      | .bgld .. => [execBgldDone c e.id]
      | .gxl .. => (List.finRange 8).map (fun k => execGatherUnitRequest c e.id k) ++ [execGxlDone c e.id]
      | .nbx .. => [execNbxArrival c e.id]
      | .chain .. => [execChainReservation c e.id, execChainHopStore c e.id, execChainDone c e.id]) ++
  (if h.loop.isSome then [execReplayIteration c, execLoopStatusWrite c] else [])

/-- The oldest outstanding load of a core returns. -/
def loadReturns (c : CoreId) : Due := fun s => .next (returnLoad s c.val 0 false)

/-- What may be due for a hart. -/
def hartEvents (h : Hart) (c : CoreId) : List Due :=
  (if h.stopping.isSome then
    (match h.run with
      | .stopped _ => [execHuskSave c]
      | _ => [execPreemptRequest c]) else []) ++
  (if h.buffer.isEmpty then [] else [execStoreBufferDrain c]) ++
  (if h.loads.isEmpty then [] else [loadReturns c]) ++
  (if h.launchReqs.isEmpty then [] else [execLaunchAnswer c]) ++
  engineEvents h c ++
  (match h.run with
    | .waitEvent _ => [execWaitTimeout c]
    | .waitSlot .. => [execWaitslTimeout c]
    | _ => []) ++
  (if traceOn h 1 then [execTraceSample c] else []) ++
  (if h.trace.convoys.isEmpty then [] else [execTraceConvoyRecord c]) ++
  (if 2 < (enabledBanks h).length then [execCounterQuantum c] else [])

/-- What may be due for the arbiters: in one cycle the round comes before the rise (R313). -/
def arbiterEvents (s : State) : List Due :=
  s.launches.flatMap (fun l =>
    let p : PartId := Fin.ofNat 16 l.part
    let i := BitVec.ofNat 24 l.id
    [execCompletionWordWrite p i, execDependencePoll p i 0, execDependencePoll p i 1]) ++
  s.husks.flatMap (fun k =>
    let p : PartId := Fin.ofNat 16 k.part
    [execHuskWake p (Fin.ofNat 128 k.slot), execParkTimeout p (Fin.ofNat 128 k.slot)]) ++
  (List.finRange 16).flatMap (fun p =>
    let cs := candidates s p.val
    (if cs.isEmpty then [] else [execDispatchRound p]) ++ (List.range cs.length).map (fun k => execAgingRise p k))

/-- What may be due at a stack: refreshes, its engines, the grants. -/
def stackEvents (s : State) (k : StackId) : List Due :=
  let st := stackAt s k.val
  st.due.map (fun d => execRefresh k (Fin.ofNat 64 d.1) (Fin.ofNat 16 d.2)) ++
  (if st.queue.isEmpty then [] else [execNbxEngineGrant k]) ++
  st.stopes.flatMap (fun e =>
    let g : Fin 64 := Fin.ofNat 64 e.num
    [execStopeResume k g, execStopeStep k g, execNbxDone k g])

/-- What may be due at the homes, in the network and in the stacks. -/
def moduleEvents (s : State) : List Due :=
  (List.range s.stands.length).map execStandAnswer ++
  (if s.lampHolder.isSome then [execRecoveryBufferAccept, execLampRelease] else []) ++
  (List.range (s.packets.length + s.pushes.length)).map execRecoveryBufferDrain ++
  (List.range s.pushes.length).map execPushArrival ++
  (List.range s.bounces.length).map execPushBounce ++
  (List.range s.unstands.length).map execUnstandAnswer ++
  (List.range s.packets.length).map execPacketArrival ++
  (List.finRange 8).flatMap (stackEvents s) ++
  (if s.blocks.any (fun b => match b with
      | .scrubbing _ => true
      | _ => false) then (List.finRange 256).map execBlockScrubDone else []) ++
  (s.corrected.filter (·.crossed)).map (fun c => execErrorRateCrossed (Fin.ofNat 4 c.die) (Fin.ofNat 16 c.cls)) ++
  s.booting.toList.map execPowerOn

/-- What may be due, in the default order; a verdict comes before a grant of the same cycle (R348). -/
def dueEvents (s : State) : List Due :=
  s.harts.flatMap (fun h => if h.loop.isSome then [execLoopVerdict (coreId h.core)] else []) ++
  moduleEvents s ++
  s.harts.flatMap (fun h => hartEvents h (coreId h.core)) ++
  s.husks.flatMap (fun k => if k.resumed then [] else engineEvents k.image (coreId k.image.core)) ++
  arbiterEvents s

/-- The first of some steps that changes the module. -/
def firstChange (s : State) (xs : List Due) : Option State :=
  match xs with
  | [] => none
  | x :: rest =>
    match x s with
    | .next t => if t = s then firstChange s rest else some t
    | _ => firstChange s rest

/-- The module with the next running gang's leader, or hart, in core order as the one that acts. -/
def rotate (s : State) : State :=
  let c := s.hart.core
  let lead := fun (h : Hart) => h.owner.isSome && memberOf h == 0
  match ((List.range 128).map (fun i => (c + 1 + i) % 128)).find? (fun d => lead (hartAt s d)) with
  | some d => focus s d
  | none => s

/-- The next step of the acting hart's gang in the default order: a word of the first member's `VF` that runs, else a step of
the gang. -/
def nextOfGang (s : State) : Out :=
  match (gangCores s).find? (fun c => (hartAt s c).vf.isSome && unitWorks (hartAt s c)) with
  | some c =>
    (match runVf (focus s c) none with
      | .next t => .next (focus t s.hart.core)
      | o => o)
  | none => runHart .now s

/-- The default order: what is due; then the acting hart's gang; a cycle passes with each, and the next hart acts. -/
def defaultTurn (s : State) : Out :=
  match firstChange s (dueEvents s) with
  | some t => .next t
  | none =>
    match nextOfGang s with
    | .next t => .next (rotate (passCycles t 1))
    | o => o

/-! ### Turns of the agenda (log 4) -/

/-- A row of the opcode table without a machine word: a step that the module takes on its own. -/
def isEvent (x : Instr) : Bool := (encode x).isNone

/-- A dirty L1 line written back (R60). -/
def writeBackLine (s : State) (core line : Nat) : State :=
  { s with dirty := s.dirty.filter (fun b => !(b.core == core && b.pa / 64 == line)) }

/-- What a turn does. -/
def takeTurn (s : State) (t : Turn) : Out :=
  match t with
  | .run c => runHart .now (focus s c.val)
  | .ahead c => runHart .ahead (focus s c.val)
  | .late c => runHart .late (focus s c.val)
  | .vector c stop => let u := focus s c.val; .next ((unitStep u (gangCores u) stop).getD u)
  | .loadReturn c k => .next (returnLoad s c.val k false)
  | .loadOld c k => .next (returnLoad s c.val k true)
  | .lane c l => runVf (focus s c.val) (some l.val)
  | .event x => if isEvent x then exec x s else .next s
  | .pass n => .next (passCycles s n)
  | .writeBack c line => .next (writeBackLine s c.val line)
  | .dropFetch c pa => .next (dropLine s c.val pa)
  | .upset b => .next { s with bad := b :: s.bad }
  | .corrected c k => .next (correctedAt s c.val k.val)
  | .cleanLine c pa => .next (cleanLine s (c.map (·.val)) pa)
  | .count c e l n => .next (onCore s c.val (fun h => countHart h e.toNat l.val n))
  | .request k who r => .next (queueRequest s k.val who r)
  | .refreshDue k c b => .next (refreshFallsDue s k.val c.val b.val)
  | .advance id => .next (advancePacket s id)
  | .interrupt p => .next (sendInterrupt s p.val)
  | .barRead o => .next (readBar s o)
  | .decoder b => .next { s with decoder := b }
  | .hostByte a b => .next { s with hostMem := sset s.hostMem a b }
  | .own b p => byFirmware s (ownBlock s b.val p.val)
  | .scrub b => .next (startScrub s b.val)
  | .lend b => byFirmware s (lendBlock s b.val)
  | .takeBack b => .next (returnBlock s b.val)
  | .readAhead e k => .next (bgldAhead (readAhead s e k) e k)
  | .copyWord e k => .next (copyWordAhead s e k)
  | .hop e k => .next (hopAhead s e k)
  | .hold p i => .next (((huskIn s p.val i.val).map (holdHusk s)).getD s)

/-- One step of the module: the agenda's next turn, or the default order.  Once thermally stopped the module only takes
a cold reset (R396). -/
def runStep (s : State) : Out :=
  if s.thermal then
    match s.agenda with
    | [] => .fault .thermalStop
    | .event .coldReset :: rest => exec .coldReset { s with agenda := rest }
    | _ :: rest => .next { s with agenda := rest }
  else
    match s.agenda with
    | [] => defaultTurn s
    | t :: rest => takeTurn { s with agenda := rest } t

/-! ### A word where the next instruction is fetched -/

/-- The address at which `placeWord` puts its word. -/
def wordAddr : Nat := 0x400000

/-- The hart of core 0 about to fetch at `wordAddr`, with nothing that holds it back. -/
def fetchHart (h : Hart) : Hart :=
  { h with
    pc := word wordAddr, run := .running, owner := some ⟨0, 1, 0, 0, 1, h.core, 0, 0⟩, pending := 0
    stopping := none, started := false, held := none, queue := [], stalled := false, vf := none, vpNow := none, loop := none
    restart := ⟨0, false, none, none⟩, buffer := [], released := false, loads := [], reissue := [], engines := [], fetched := [], tlb := [] }

/-- Memory with a partition control page whose tables map the first GiB onto itself, and a word at `wordAddr`. -/
def fetchMem (m : Sparse 8) (w : Nat) : Sparse 8 :=
  ssetBytes (ssetBytes (ssetBytes (ssetBytes m 0x8010 8 0x10000) 0x10000 8 0x11001) 0x11000 8 0x373) wordAddr 4 w

/-- The module with the word `w` placed where the next step fetches (log 3): partition 0 runs with block 0, and the acting
hart is the hart of a launch of it. -/
def placeWord (s : State) (w : Nat) : State :=
  { s with
    hart := fetchHart s.hart
    mem := fetchMem s.mem w
    parts := s.parts.set 0 { s.parts[0] with pcpAddr := 0x8000, active := 1, stage2 := none }
    blocks := s.blocks.set 0 (.owned 0)
    stands := [], enstk := 0xFF, dieTlb := [], bad := [], thermal := false, agenda := [.run (coreId s.hart.core)] }

end Sys2Proof.Machine
end

