-- ==== Sys2Proof/Safety.lean ====
section
/-! DEFINITION. What counts as a safe run, and the words that claims about one instruction share. -/

namespace Sys2Proof.Machine

/-- A step that neither faults nor is refused. -/
def State.steps (s : State) : Prop := ∃ t, step s = .next t

/-- The instruction completes and writes one scalar register: `d` holds `v` (s0 takes nothing, R41), every other register
is as it was, the pc is `pc`, and nothing else of the module has changed. -/
def State.onlyResult (s t : State) (d : SReg) (v pc : Word) : Prop :=
  getReg t d = (if d = 0 then 0 else v) ∧ (∀ r, r ≠ d → getReg t r = getReg s r) ∧ t.hart.pc = pc ∧
    t = { s with hart := { s.hart with regs := t.hart.regs, pc := t.hart.pc } }

/-- Nothing of the module has changed but the acting hart's pc. -/
def State.onlyPc (s t : State) (pc : Word) : Prop := t = { s with hart := { s.hart with pc := pc } }

/-- Every byte of memory outside [lo, lo + n) reads as before. -/
def State.sameOutside (s t : State) (lo n : Nat) : Prop :=
  ∀ a, ¬(lo ≤ a ∧ a < lo + n) → sget t.mem a = sget s.mem a

/-- The number with bits `k` as `f` says, for the `n` lowest. -/
def bitsAgree (w : Word) (f : Nat → Bool) : Prop := ∀ k, k < 64 → w.getLsbD k = f k

end Sys2Proof.Machine
end

