-- ==== Sys2Proof/WellFormed.lean ====
section
/-! DEFINITION. Well-formed instructions: those whose operands some word, or some event of the module, has.
Most operands are exact by their types; the conditions here are the ones that tie fields together. -/

namespace Sys2Proof

/-- An ordered load pairs `.acq` with a scope, or has neither (R132). -/
def wfLoadOrder (k : OrdKind) (s : Scope) : Bool := (k == .plain || k == .acq) && pairedOrder k s
/-- An ordered store pairs `.rel` with a scope, or has neither (R132). -/
def wfStoreOrder (k : OrdKind) (s : Scope) : Bool := (k == .plain || k == .rel) && pairedOrder k s
/-- A narrow load names an allowed pair, and s0 where rsc is reserved (R80, R135). -/
def wfNarrowLoad (f : Fmt) (t : DTag) (sc : SReg) : Bool := narrowPair f t && (!unscaled f t || sc == 0)

/-- The conditions that tie an instruction's fields together. -/
def Instr.wf (i : Instr) : Bool :=
  match i with
  | .add _ _ _ => true
  | .sub _ _ _ => true
  | .mul _ _ _ => true
  | .mulh _ _ _ => true
  | .mulhu _ _ _ => true
  | .div _ _ _ => true
  | .divu _ _ _ => true
  | .rem _ _ _ => true
  | .remu _ _ _ => true
  | .and _ _ _ => true
  | .or _ _ _ => true
  | .xor _ _ _ => true
  | .shl _ _ _ => true
  | .shr _ _ _ => true
  | .sra _ _ _ => true
  | .slt _ _ _ => true
  | .sltu _ _ _ => true
  | .min _ _ _ => true
  | .max _ _ _ => true
  | .minu _ _ _ => true
  | .maxu _ _ _ => true
  | .clz _ _ => true
  | .ctz _ _ => true
  | .popc _ _ => true
  | .fadd _ _ _ => true
  | .fsub _ _ _ => true
  | .fmul _ _ _ => true
  | .ffma _ _ _ _ => true
  | .fdiv _ _ _ => true
  | .fsqrt _ _ => true
  | .fmin _ _ _ => true
  | .fmax _ _ _ => true
  | .fcmp _ _ _ _ => true
  | .fcvtIF _ _ => true
  | .fcvtIuF _ _ => true
  | .fcvtFI _ _ => true
  | .fcvtFIu _ _ => true
  | .fcvtBfF _ _ => true
  | .fcvtFBf _ _ => true
  | .addi _ _ _ => true
  | .andi _ _ _ => true
  | .ori _ _ _ => true
  | .xori _ _ _ => true
  | .slti _ _ _ => true
  | .sltiu _ _ _ => true
  | .shli _ _ _ => true
  | .shri _ _ _ => true
  | .srai _ _ _ => true
  | .movhi _ _ => true
  | .movk _ _ _ => true
  | .ldb _ _ _ => true
  | .ldh _ _ _ => true
  | .ldw _ _ _ => true
  | .ldd _ _ _ => true
  | .ldbu _ _ _ => true
  | .ldhu _ _ _ => true
  | .ldwu _ _ _ => true
  | .stb _ _ _ => true
  | .sth _ _ _ => true
  | .stw _ _ _ => true
  | .std _ _ _ => true
  | .ldbReg _ _ _ k s => wfLoadOrder k s
  | .ldhReg _ _ _ k s => wfLoadOrder k s
  | .ldwReg _ _ _ k s => wfLoadOrder k s
  | .lddReg _ _ _ k s => wfLoadOrder k s
  | .ldbuReg _ _ _ k s => wfLoadOrder k s
  | .ldhuReg _ _ _ k s => wfLoadOrder k s
  | .ldwuReg _ _ _ k s => wfLoadOrder k s
  | .stbReg _ _ _ k s => wfStoreOrder k s
  | .sthReg _ _ _ k s => wfStoreOrder k s
  | .stwReg _ _ _ k s => wfStoreOrder k s
  | .stdReg _ _ _ k s => wfStoreOrder k s
  | .amoAdd _ _ _ k s _ => pairedOrder k s
  | .amoSwap _ _ _ k s _ => pairedOrder k s
  | .amoCas _ _ _ k s _ => pairedOrder k s
  | .amoMin _ _ _ k s _ => pairedOrder k s
  | .amoMax _ _ _ k s _ => pairedOrder k s
  | .amoAnd _ _ _ k s _ => pairedOrder k s
  | .amoOr _ _ _ k s _ => pairedOrder k s
  | .beq _ _ _ => true
  | .bne _ _ _ => true
  | .blt _ _ _ => true
  | .bge _ _ _ => true
  | .bltu _ _ _ => true
  | .bgeu _ _ _ => true
  | .jmp _ => true
  | .call _ => true
  | .jr _ => true
  | .callr _ => true
  | .csrr _ _ => true
  | .csrw _ _ => true
  | .csrs _ _ => true
  | .csrc _ _ => true
  | .trap _ => true
  | .tret => true
  | .bkpt _ => true
  | .wait => true
  | .yield => true
  | .fenceI => true
  | .gperm _ _ _ _ => true
  | .gred _ _ _ => true
  | .gbcast _ _ _ _ => true
  | .gsync => true
  | .lnext _ _ => true
  | .ljoin _ _ => true
  | .vadd _ _ _ _ => true
  | .vsub _ _ _ _ => true
  | .vrsub _ _ _ _ => true
  | .vmul _ _ _ _ => true
  | .vmulh _ _ _ _ => true
  | .vmulhU _ _ _ _ => true
  | .vdiv _ _ _ _ => true
  | .vdivU _ _ _ _ => true
  | .vrem _ _ _ _ => true
  | .vremU _ _ _ _ => true
  | .vmin _ _ _ _ => true
  | .vminU _ _ _ _ => true
  | .vmax _ _ _ _ => true
  | .vmaxU _ _ _ _ => true
  | .vabs _ _ _ => true
  | .vneg _ _ _ => true
  | .vand _ _ _ _ => true
  | .vor _ _ _ _ => true
  | .vxor _ _ _ _ => true
  | .vshl _ _ _ _ => true
  | .vshr _ _ _ _ => true
  | .vsra _ _ _ _ => true
  | .vsadd _ _ _ _ => true
  | .vsaddU _ _ _ _ => true
  | .vssub _ _ _ _ => true
  | .vssubU _ _ _ _ => true
  | .vsqrt _ _ _ => true
  | .vrece _ _ _ => true
  | .vrsqe _ _ _ => true
  | .vexp2 _ _ _ => true
  | .vlog2 _ _ _ => true
  | .vmov _ _ _ => true
  | .vsel _ _ _ m => m != 0
  | .viota _ _ => true
  | .vgath _ _ _ _ => true
  | .vcomp _ _ m => m != 0
  | .vredsum _ _ _ _ => true
  | .vredmax _ _ _ _ => true
  | .vredmaxU _ _ _ _ => true
  | .vredmin _ _ _ _ => true
  | .vredminU _ _ _ _ => true
  | .vtag _ t => t < 5
  | .vcmp _ _ _ _ _ _ => true
  | .vcvt _ _ _ _ _ _ => true
  | .vbcast _ _ _ => true
  | .vext _ _ _ => true
  | .vextU _ _ _ => true
  | .vprog _ _ => true
  | .vsetvl _ _ => true
  | .vsetvt _ _ _ => true
  | .vrcfg _ => true
  | .mand _ _ _ => true
  | .mor _ _ _ => true
  | .mxor _ _ _ => true
  | .mandn _ _ _ => true
  | .mnot _ _ => true
  | .mmov _ _ => true
  | .mpopc _ _ => true
  | .mfirst _ _ => true
  | .msetvl _ _ => true
  | .vslup _ _ _ _ _ => true
  | .vsldn _ _ _ _ _ => true
  | .vins _ _ _ => true
  | .vf _ _ _ => true
  | .vpf _ _ => true
  | .vpstop => true
  | .vpjoin => true
  | .mxadd _ _ _ _ _ => true
  | .mxsub _ _ _ _ _ => true
  | .mzero _ => true
  | .mrow _ _ _ => true
  | .mcol _ _ _ => true
  | .mwrow _ _ _ => true
  | .mldt _ _ _ => true
  | .mstt _ _ _ => true
  | .mxsld _ _ _ _ _ _ => true
  | .fenceSv => true
  | .fenceVs => true
  | .fenceVv => true
  | .lsync => true
  | .sfenceT _ => true
  | .harvest _ _ => true
  | .claim _ _ => true
  | .unclaim _ _ => true
  | .crd _ _ => true
  | .crdlo _ _ => true
  | .crdhi _ _ => true
  | .cevt _ _ => true
  | .tshape _ _ _ _ => true
  | .menter => true
  | .mleave => true
  | .launch _ _ => true
  | .cancel _ _ => true
  | .endProg => true
  | .vld _ _ _ => true
  | .vlds _ _ _ _ => true
  | .vldx _ _ _ _ => true
  | .vldff _ _ _ => true
  | .vldp _ _ _ => true
  | .vst _ _ _ => true
  | .vsts _ _ _ _ => true
  | .vstx _ _ _ _ => true
  | .vstp _ _ _ => true
  | .vldn _ _ s _ f g => wfNarrowLoad f g s
  | .vstn _ _ s _ f _ => f != .fp16 || s == 0
  | .vldns _ _ s _ f g => wfNarrowLoad f g s
  | .vamoadd _ _ _ _ => true
  | .vamomax _ _ _ _ => true
  | .vamomaxU _ _ _ _ => true
  | .vamomin _ _ _ _ => true
  | .vamominU _ _ _ _ => true
  | .stand _ _ _ => true
  | .unstand _ _ => true
  | .take _ _ => true
  | .waitsl _ _ _ => true
  | .vstand _ _ _ _ _ => true
  | .vtake _ _ _ => true
  | .copy _ _ _ _ _ => true
  | .stream _ _ _ => true
  | .nbx _ _ _ => true
  | .chain _ _ _ _ => true
  | .lmark _ _ _ _ => true
  | .bgld _ _ _ _ _ => true
  | .gxl _ _ _ _ _ => true
  | .vfma _ _ _ _ _ => true
  | .vfms _ _ _ _ _ => true
  | .vfnma _ _ _ _ _ => true
  | .vclamp _ _ _ _ _ => true
  | .vrcfgCsrWrite _ => true
  | .vtypeCsrWrite _ => true
  | .fcsrWrite _ => true
  | .seedWrite _ => true
  | .slbaseWrite _ => true
  | .ageWrite _ => true
  | .statusWrite _ => true
  | .registerWrite _ _ => true
  | .storeBufferDrain _ => true
  | .standAnswer _ => true
  | .pushArrival _ => true
  | .pushBounce _ => true
  | .unstandAnswer _ => true
  | .waitslTimeout _ => true
  | .waitTimeout _ => true
  | .copyChunkDone _ _ _ => true
  | .copyDone _ _ => true
  | .engineBatchResume _ _ => true
  | .streamEnd _ _ => true
  | .bgldDone _ _ => true
  | .gatherUnitRequest _ _ _ => true
  | .gxlDone _ _ => true
  | .nbxArrival _ _ => true
  | .nbxEngineGrant _ => true
  | .stopeStep _ _ => true
  | .stopeResume _ _ => true
  | .nbxDone _ _ => true
  | .chainReservation _ _ => true
  | .chainHopStore _ _ => true
  | .chainDone _ _ => true
  | .loopVerdict _ => true
  | .replayIteration _ => true
  | .loopStatusWrite _ => true
  | .trapEntry _ _ _ => true
  | .endLaunch _ _ => true
  | .completionWordWrite _ _ => true
  | .dispatchRound _ => true
  | .agingRise _ _ => true
  | .dependenceSatisfied _ _ _ => true
  | .dependencePoll _ _ _ => true
  | .preemptRequest _ => true
  | .huskSave _ => true
  | .huskWake _ _ => true
  | .parkTimeout _ _ => true
  | .huskRelease _ _ => true
  | .dumpRequest _ _ _ => true
  | .dumpRelease _ _ => true
  | .packetArrival _ => true
  | .blockSuspect _ => true
  | .lampHop => true
  | .recoveryBufferAccept => true
  | .lampRelease => true
  | .recoveryBufferDrain _ => true
  | .lampRegenerate => true
  | .segmentMaskActivate _ _ _ => true
  | .supplementaryActivate _ _ _ => true
  | .refresh _ _ _ => true
  | .selfRefreshEntry _ _ => true
  | .selfRefreshExit _ _ => true
  | .errorCheckScrub _ _ => true
  | .errorRateCrossed _ _ => true
  | .leaseGrant _ _ _ _ _ => true
  | .leaseRevoke _ => true
  | .revocationPoint _ => true
  | .leaseRelease _ => true
  | .ualinkPortDown _ => true
  | .capacityMove _ _ _ => true
  | .hotRemoveAck _ => true
  | .hotRemoveTimeout _ => true
  | .blockScrubDone _ => true
  | .hostMemWrite pa bs => 1 ≤ bs.length && bs.length ≤ 64 && pa.toNat % 64 + bs.length ≤ 64
  | .hostMemRead pa n => 1 ≤ n.val && pa.toNat % 64 + n.val ≤ 64
  | .notify _ _ => true
  | .bdoneWrite _ _ => true
  | .netctlWrite _ => true
  | .mcstkWrite _ _ => true
  | .coresWrite _ _ => true
  | .xmaskWrite _ _ => true
  | .activeWrite _ _ _ => true
  | .coldReset => true
  | .warmReset => true
  | .powerOn _ => true
  | .getVersion => true
  | .getCapabilities => true
  | .negotiateAlgorithms => true
  | .getDigests => true
  | .getCertificate => true
  | .challenge => true
  | .getMeasurements _ => true
  | .keyExchange => true
  | .finish => true
  | .endSession => true
  | .ideKm _ => true
  | .ideStreamFailure _ => true
  | .counterQuantum _ => true
  | .traceSample _ => true
  | .traceConvoyRecord _ => true
  | .throttleRaise => true
  | .throttleLower => true
  | .thermalStop => true
  | .launchAnswer _ => true
  | .partitionBlockWrite _ _ _ => true
  | .peerLineFillOrWriteBack pa w => pa.toNat % 64 == 0 && (w.map List.length).getD 64 == 64
  | .leaseReclaim _ => true

end Sys2Proof
end

