-- ==== Sys2Proof/Certificates/Slice0/Obligations.lean ====
section
/-! DEFINITION. The statements for the provers.  Each table of expected results is written from the rules it cites, over the
operands as a program sees them. -/

namespace Sys2Proof.Claims

open Sys2Proof.Machine

/-! ### Scalar results -/

/-- How many bits from the top are zero before the first set one (R152). -/
def zerosAbove (x : Word) : Nat := ((List.range 64).takeWhile (fun k => !x.getLsbD (63 - k))).length

/-- How many bits from the bottom are zero before the first set one (R152). -/
def zerosBelow (x : Word) : Nat := ((List.range 64).takeWhile (fun k => !x.getLsbD k)).length

/-- What the integer instructions write, from the registers as read (R152 to R154): the destination and the value. -/
def integer (R : SReg → Word) (i : Instr) : Option (SReg × Word) :=
  match i with
  | .add d a b => some (d, R a + R b)
  | .sub d a b => some (d, R a - R b)
  | .mul d a b => some (d, R a * R b)
  | .mulh d a b => some (d, (((R a).signExtend 128 * (R b).signExtend 128) >>> 64).setWidth 64)
  | .mulhu d a b => some (d, (((R a).zeroExtend 128 * (R b).zeroExtend 128) >>> 64).setWidth 64)
  | .div d a b => some (d, if R b = 0 then -1 else (R a).sdiv (R b))
  | .divu d a b => some (d, if R b = 0 then -1 else R a / R b)
  | .rem d a b => some (d, if R b = 0 then R a else (R a).srem (R b))
  | .remu d a b => some (d, if R b = 0 then R a else R a % R b)
  | .and d a b => some (d, R a &&& R b)
  | .or d a b => some (d, R a ||| R b)
  | .xor d a b => some (d, R a ^^^ R b)
  | .shl d a b => some (d, R a <<< (R b &&& 63).toNat)
  | .shr d a b => some (d, R a >>> (R b &&& 63).toNat)
  | .sra d a b => some (d, (R a).sshiftRight (R b &&& 63).toNat)
  | .slt d a b => some (d, if (R a).toInt < (R b).toInt then 1 else 0)
  | .sltu d a b => some (d, if R a < R b then 1 else 0)
  | .min d a b => some (d, if (R a).toInt ≤ (R b).toInt then R a else R b)
  | .max d a b => some (d, if (R a).toInt ≤ (R b).toInt then R b else R a)
  | .minu d a b => some (d, if R a ≤ R b then R a else R b)
  | .maxu d a b => some (d, if R a ≤ R b then R b else R a)
  | .clz d a => some (d, BitVec.ofNat 64 (zerosAbove (R a)))
  | .ctz d a => some (d, BitVec.ofNat 64 (zerosBelow (R a)))
  | .popc d a => some (d, BitVec.ofNat 64 ((List.range 64).countP (R a).getLsbD))
  | .addi d a i => some (d, R a + i.signExtend 64)
  | .andi d a i => some (d, R a &&& i.zeroExtend 64)
  | .ori d a i => some (d, R a ||| i.zeroExtend 64)
  | .xori d a i => some (d, R a ^^^ i.zeroExtend 64)
  | .slti d a i => some (d, if (R a).toInt < i.toInt then 1 else 0)
  | .sltiu d a i => some (d, if R a < i.signExtend 64 then 1 else 0)
  | .shli d a n => some (d, R a <<< n.val)
  | .shri d a n => some (d, R a >>> n.val)
  | .srai d a n => some (d, (R a).sshiftRight n.val)
  | .movhi d i => some (d, i.zeroExtend 64 <<< 16)
  | .movk d h i =>
    some (d, (R d &&& ~~~(0xFFFF#64 <<< (16 * h.val))) ||| (i.zeroExtend 64 <<< (16 * h.val)))
  | _ => none

/-- What the scalar FP instructions compute, from the register operands in FP32 under FCSR's rounding mode and flush bit (R71,
R155 to R157): the destination, its 64 bits, and the flags raised. -/
def floating (s : State) (i : Instr) : Option (SReg × Word × Nat) :=
  let rm := scalarRm s.hart
  let ftz := scalarFtz s.hart
  let x := fun (r : SReg) => operand fp32 ftz ((getReg s r).toNat % 2 ^ 32)
  let out := fun (d : SReg) (f : FloatFmt) (n : Machine.Num × Nat) => some (d, word (pack f rm ftz n).1, (pack f rm ftz n).2)
  match i with
  | .fadd d a b => out d fp32 (addNum rm (x a) (x b))
  | .fsub d a b => out d fp32 (addNum rm (x a) (x b).neg)
  | .fmul d a b => out d fp32 (mulNum (x a) (x b))
  | .ffma d a b c => out d fp32 (fmaNum rm (x a) (x b) (x c))
  | .fdiv d a b => out d fp32 (divNum (x a) (x b))
  | .fsqrt d a => out d fp32 (sqrtNum (x a))
  | .fmin d a b => out d fp32 (minNum (x a) (x b))
  | .fmax d a b => out d fp32 (maxNum (x a) (x b))
  | .fcmp d a b c => some (d, if (compareNum c (x a) (x b)).1 then 1 else 0, (compareNum c (x a) (x b)).2)
  | .fcvtIF d a =>
    some (d, wordI (toInt rm (-2 ^ 63) (2 ^ 63 - 1) (x a)).1, (toInt rm (-2 ^ 63) (2 ^ 63 - 1) (x a)).2)
  | .fcvtIuF d a => some (d, wordI (toInt rm 0 (2 ^ 64 - 1) (x a)).1, (toInt rm 0 (2 ^ 64 - 1) (x a)).2)
  | .fcvtFI d a => out d fp32 (ofInt (getReg s a).toInt, 0)
  | .fcvtFIu d a => out d fp32 (ofInt (getReg s a).toNat, 0)
  | .fcvtBfF d a => out d bf16 (x a, nanFlag (x a))
  | .fcvtFBf d a =>
    let y := operand bf16 ftz ((getReg s a).toNat % 2 ^ 16)
    out d fp32 (y, nanFlag y)
  | _ => none

/-! ### Transfers of control -/

/-- Whether a conditional branch is taken, and its offset in words (R158). -/
def branch (R : SReg → Word) (i : Instr) : Option (Bool × BitVec 13) :=
  match i with
  | .beq a b o => some (decide (R a = R b), o)
  | .bne a b o => some (decide (R a ≠ R b), o)
  | .blt a b o => some (decide ((R a).toInt < (R b).toInt), o)
  | .bge a b o => some (decide ((R b).toInt ≤ (R a).toInt), o)
  | .bltu a b o => some (decide (R a < R b), o)
  | .bgeu a b o => some (decide (R b ≤ R a), o)
  | _ => none

/-! ### Scalar memory -/

/-- A scalar load (R160, R162): destination, address register, address, bytes, whether the value is sign-extended, and
whether it is an acquire. -/
def loadOf (R : SReg → Word) (i : Instr) : Option (SReg × SReg × Word × Nat × Bool × Bool) :=
  match i with
  | .ldb d a i => some (d, a, R a + i.signExtend 64, 1, true, false)
  | .ldh d a i => some (d, a, R a + i.signExtend 64, 2, true, false)
  | .ldw d a i => some (d, a, R a + i.signExtend 64, 4, true, false)
  | .ldd d a i => some (d, a, R a + i.signExtend 64, 8, false, false)
  | .ldbu d a i => some (d, a, R a + i.signExtend 64, 1, false, false)
  | .ldhu d a i => some (d, a, R a + i.signExtend 64, 2, false, false)
  | .ldwu d a i => some (d, a, R a + i.signExtend 64, 4, false, false)
  | .ldbReg d a b k _ => some (d, a, R a + R b, 1, true, k == .acq)
  | .ldhReg d a b k _ => some (d, a, R a + R b, 2, true, k == .acq)
  | .ldwReg d a b k _ => some (d, a, R a + R b, 4, true, k == .acq)
  | .lddReg d a b k _ => some (d, a, R a + R b, 8, false, k == .acq)
  | .ldbuReg d a b k _ => some (d, a, R a + R b, 1, false, k == .acq)
  | .ldhuReg d a b k _ => some (d, a, R a + R b, 2, false, k == .acq)
  | .ldwuReg d a b k _ => some (d, a, R a + R b, 4, false, k == .acq)
  | _ => none

/-- A scalar store (R160, R162): data register, address register, address, bytes, whether it is a release, and whether that is
at system scope (R94). -/
def storeOf (R : SReg → Word) (i : Instr) : Option (SReg × SReg × Word × Nat × Bool × Bool) :=
  match i with
  | .stb d a i => some (d, a, R a + i.signExtend 64, 1, false, false)
  | .sth d a i => some (d, a, R a + i.signExtend 64, 2, false, false)
  | .stw d a i => some (d, a, R a + i.signExtend 64, 4, false, false)
  | .std d a i => some (d, a, R a + i.signExtend 64, 8, false, false)
  | .stbReg d a b k c => some (d, a, R a + R b, 1, k == .rel, k == .rel && c == .system)
  | .sthReg d a b k c => some (d, a, R a + R b, 2, k == .rel, k == .rel && c == .system)
  | .stwReg d a b k c => some (d, a, R a + R b, 4, k == .rel, k == .rel && c == .system)
  | .stdReg d a b k c => some (d, a, R a + R b, 8, k == .rel, k == .rel && c == .system)
  | _ => none

/-- Every check of a scalar access passes (R161, R389), at a place, with the table entries that a write marks (R330), and in the
state that translation leaves. -/
def served (s : State) (va : Word) (size : Nat) (a : Access) (p : Place) (es : List (Nat × Bool)) (u : State) : Prop :=
  reach s va size a = (.ok p es, u) ∧ watched s.hart va.toNat size a = false ∧ dataBad u p size a = false

/-- Every buffered store of a hart may be performed now: no vector instruction or load that it follows is still to be done
(R93, R102, R106, R173). -/
def drains (h : Hart) : Prop := ∀ st ∈ h.buffer, storeReady h st = true

/-- No load without its data is of the word at a place, which a later load of it would wait for (R105, R150). -/
def wordFree (h : Hart) (p : Place) : Prop := loadsWord h p = false

/-- A number of `n` bytes as a load writes it (R160). -/
def extended (n : Nat) (sx : Bool) (v : Nat) : Word :=
  if sx ∧ 2 ^ (8 * n - 1) ≤ v then BitVec.ofInt 64 ((v : Int) - 2 ^ (8 * n)) else BitVec.ofNat 64 v

/-- A scalar atomic (R163): its operation, destination, address and source registers, kind, scope, and whether it is 8 bytes
wide. -/
def atomicOf (i : Instr) : Option (AmoOp × SReg × SReg × SReg × OrdKind × Scope × Bool) :=
  match i with
  | .amoAdd d a b k c z => some (.add, d, a, b, k, c, z)
  | .amoSwap d a b k c z => some (.swap, d, a, b, k, c, z)
  | .amoCas d a b k c z => some (.cas, d, a, b, k, c, z)
  | .amoMin d a b k c z => some (.min, d, a, b, k, c, z)
  | .amoMax d a b k c z => some (.max, d, a, b, k, c, z)
  | .amoAnd d a b k c z => some (.and, d, a, b, k, c, z)
  | .amoOr d a b k c z => some (.or, d, a, b, k, c, z)
  | _ => none

/-- What an atomic leaves in its `n`-bit word (R163): old value, source, expected value. -/
def amoLeaves (o : AmoOp) (n old src expected : Nat) : Nat :=
  let x := src % 2 ^ n
  match o with
  | .add => (old + src) % 2 ^ n
  | .swap => x
  | .cas => if old = expected % 2 ^ n then x else old
  | .min => if signed n x < signed n old then x else old
  | .max => if signed n old < signed n x then x else old
  | .and => old &&& x
  | .or => old ||| x

/-! ### Control and status registers -/

/-- A write, set or clear of a CSR: its number, the new value from the old one, and how far the pc moves (R166); the rows
without a word write one register and leave the pc. -/
def csrChange (R : SReg → Word) (i : Instr) : Option (Nat × (Word → Word) × Word) :=
  match i with
  | .csrw a c => some (c.toNat, fun _ => R a, 4)
  | .csrs a c => some (c.toNat, fun old => old ||| R a, 4)
  | .csrc a c => some (c.toNat, fun old => old &&& ~~~ R a, 4)
  | .vtypeCsrWrite v => some (0x002, fun _ => v, 0)
  | .vrcfgCsrWrite v => some (0x003, fun _ => v, 0)
  | .fcsrWrite v => some (0x010, fun _ => v, 0)
  | .seedWrite v => some (0x011, fun _ => v, 0)
  | .slbaseWrite v => some (0x020, fun _ => v, 0)
  | .ageWrite v => some (0x030, fun _ => v, 0)
  | .statusWrite v => some (0x100, fun _ => v, 0)
  | .registerWrite c v => some (c.toNat, fun _ => v, 0)
  | _ => none

/-- The vector unit of a hart is done, and every gather has delivered (R17). -/
def vectorDone (h : Hart) : Prop := vectorBusy h = false ∧ gatherRegs h = []

/-- A row that writes VTYPE or VRCFG comes to its turn: the vector instructions before it have completed (R17, R43); a CSR
instruction has its place in the vector queue instead. -/
def rowMayWrite (s : State) (c : Nat) (step : Word) : Prop := step = 0 → c = 0x002 ∨ c = 0x003 → vectorDone s.hart

/-- The CSRs that a program may write, of access RW and of access S (R42). -/
def csrWritable (c : Nat) : Bool :=
  [0x002, 0x003, 0x010, 0x011, 0x020, 0x021].contains c || csrForSupervisor c
where
  /-- Those of access S. -/
  csrForSupervisor (c : Nat) : Bool := [0x030, 0x100, 0x101, 0x102, 0x103, 0x104, 0x105].contains c

/-- Whether a CSR takes a value, by its own rule (R17, R23, R42, R56, R71, R321): no reserved bit set, no reserved code,
no busy slot under SLBASE, and PMODE = 10 from hypervisor mode alone. -/
def csrTakes (s : State) (c : Nat) (v : Word) : Bool :=
  match c with
  | 0x002 => decide (v.toNat < 2 ^ 13 ∧ v.toNat % 8 < 4 ∧ v.toNat / 64 % 4 < 3 ∧ v.toNat / 512 % 16 < 5)
  | 0x003 => decide (v.toNat < 4)
  | 0x010 => decide (v.toNat < 2 ^ 13)
  | 0x020 => decide (v.toNat % 16384 = 0 ∧ 0x100000 ≤ v.toNat ∧ v.toNat ≤ 0x2FC000) && !anySlotBusy s
  | 0x021 => decide (2 ≤ v.toNat ∧ v.toNat ≤ 8)
  | 0x100 => decide (v.toNat / 4 % 4 ≠ 3 ∧ (v.toNat / 4 % 4 = 2 → modeOf s.hart = 2))
  | _ => true

/-! ### Traps -/

/-- STATUS after trap entry, bit by bit: MODE, PMODE, NEST, PVTYPE, and the rest as before (R321 to R323). -/
def enteredStatus (c : Csr) (k : Nat) : Bool :=
  if k = 0 then decide (c.status.toNat % 4 ≠ 2)
  else if k = 1 then decide (c.status.toNat % 4 = 2)
  else if k < 4 then c.status.getLsbD (k - 2)
  else if k = 5 then true
  else if 32 ≤ k ∧ k < 45 then c.vtype.getLsbD (k - 32)
  else c.status.getLsbD k

/-- Where trap entry goes: TVEC, whose two low bits the pc does not hold (R323; the low bits are the model's choice, log 16). -/
def handler (h : Hart) : Word := h.csr.tvec &&& 0xFFFFFFFFFFFFFFFC

/-- A hart has entered a trap (R323): what it saves, where it goes, and that its registers and vector state stay. -/
def enteredBy (h g : Hart) (cause : Nat) (tval topnd epc : Word) : Prop :=
  g.csr = { h.csr with status := g.csr.status, epc := epc, cause := BitVec.ofNat 64 cause, tval := tval, topnd := topnd } ∧
  bitsAgree g.csr.status (enteredStatus h.csr) ∧ g.pc = handler h ∧ g.regs = h.regs ∧ g.vec = h.vec

/-- The acting hart has entered a trap. -/
def entered (s t : State) (cause : Nat) (tval topnd epc : Word) : Prop := enteredBy s.hart t.hart cause tval topnd epc

/-- The batch numbered `k` stands in the ring of a control page, as R327 lays it out: its number, launch, core, count of frames and
flags, no answer yet, and the frames. -/
def batchIs (t : State) (h : Hart) (p : Partition) (k : Word) (frames : List Nat) (flags : Nat) : Prop :=
  let b := p.pcpAddr.toNat + 0x4000 + 512 * (k.toNat % 32)
  word8 t b = k ∧ bytesNat (readBytes t (b + 8) 4) = launchOf h % 2 ^ 32 ∧ sget t.mem (b + 12) = BitVec.ofNat 8 h.core ∧
    sget t.mem (b + 13) = BitVec.ofNat 8 frames.length ∧ sget t.mem (b + 14) = BitVec.ofNat 8 flags ∧
    word8 t (b + 16) = 0 ∧ (∀ i f, frames[i]? = some f → word8 t (b + 64 + 8 * i) = word f) ∧
    ∀ j, (j = 15 ∨ (24 ≤ j ∧ j < 64) ∨ (64 + 8 * frames.length ≤ j ∧ j < 512)) → sget t.mem (b + j) = 0

/-- Nothing of the hart changes what trap entry does: no trap is open and no marked loop. -/
def mayEnter (h : Hart) : Prop := nested h = false ∧ h.loop = none

/-- The scalar register that an instruction writes, checked before anything else of it but its privilege (R149): of `LNEXT` its
count register, of `LMARK` and the engine instructions their status register, of the instructions that only a leader performs that
of a hart that runs alone. -/
def plainTarget (s : State) (i : Instr) : Option SReg :=
  match i with
  | .call _ | .callr _ => some 1
  | .lnext a _ => some a
  | .csrr d c => if csrWritable.csrForSupervisor c.toNat ∧ supervisor s.hart = false then none else some d
  | .crd d _ | .crdlo d _ | .crdhi d _ => some d
  | .claim d _ | .unclaim d _ => if supervisor s.hart ∨ onHyper s then some d else none
  | .harvest d _ => if supervisor s.hart ∧ gangSize s.hart = 1 then some d else none
  | .launch d _ | .cancel d _ => if gangSize s.hart = 1 then some d else none
  | .copy d .. | .stream d .. | .nbx d .. | .chain d .. | .lmark d .. | .tshape d .. => some d
  | .vsetvl d _ | .vsetvt d _ _ | .vext d _ _ | .vextU d _ _ | .vprog d _ | .mpopc d _ | .mfirst d _ | .msetvl d _ => some d
  | .stand d _ _ | .unstand d _ | .take d _ | .waitsl d _ _ => some d
  | i =>
    match integer (getReg s) i, floating s i, loadOf (getReg s) i, atomicOf i with
    | some x, _, _, _ => some x.1
    | none, some x, _, _ => some x.1
    | none, none, some x, _ => some x.1
    | none, none, none, some x => some x.2.1
    | none, none, none, none => none

/-! ### Gangs -/

/-- Core numbers tell the harts apart, as in every state that a module reaches. -/
def coresApart (s : State) : Prop := (s.harts.map (·.core)).Nodup

/-- Every member of the acting hart's gang has gone on to the next word with `f` of it. -/
def membersNow (s t : State) (f : Hart → Hart → Prop) : Prop :=
  ∀ h ∈ gangNow s, (hartAt t h.core).pc = h.pc + 4 ∧ f h (hartAt t h.core)

/-- What a fence waits for and drops (R100, R101, R171): buffered stores, vector stores on their way, dirty lines of the
scalar L1, fetched words. -/
def fenceOf (i : Instr) : Option (Bool × Bool × Bool × Bool) :=
  match i with
  | .fenceSv => some (true, false, true, false)
  | .fenceVs => some (false, true, false, false)
  | .fenceVv => some (false, true, false, false)
  | .lsync => some (true, true, true, false)
  | .fenceI => some (true, true, true, true)
  | _ => none

/-! ### Vector instructions -/

/-- The vector instruction that executes is new, and is not to stop at a boundary: it resumes nothing (R31, R399). -/
def freshStart (h : Hart) : Prop := h.restart = ⟨0, false, none, none⟩

/-- The carry of a cross-element instruction cleared, as where it ends (R31, R32). -/
def carryDone (s : State) : State :=
  { s with hart := { s.hart with vec := { s.hart.vec with carry := [], carryCount := 0 } } }

/-- What the elementwise instructions compute (R186 to R193): the operation, the destination, the sources, the mask. -/
def elemRow (R : SReg → Word) (i : Instr) : Option (ElemOp × Nat × List Nat × MReg) :=
  match i with
  | .vadd d a b m => some (.add, d.val, [a.val, b.val], m)
  | .vsub d a b m => some (.sub, d.val, [a.val, b.val], m)
  | .vrsub d a b m => some (.rsub, d.val, [a.val, b.val], m)
  | .vmul d a b m => some (.mul, d.val, [a.val, b.val], m)
  | .vmulh d a b m => some (.mulh false, d.val, [a.val, b.val], m)
  | .vmulhU d a b m => some (.mulh true, d.val, [a.val, b.val], m)
  | .vdiv d a b m => some (.div false, d.val, [a.val, b.val], m)
  | .vdivU d a b m => some (.div true, d.val, [a.val, b.val], m)
  | .vrem d a b m => some (.rem false, d.val, [a.val, b.val], m)
  | .vremU d a b m => some (.rem true, d.val, [a.val, b.val], m)
  | .vmin d a b m => some (.min false, d.val, [a.val, b.val], m)
  | .vminU d a b m => some (.min true, d.val, [a.val, b.val], m)
  | .vmax d a b m => some (.max false, d.val, [a.val, b.val], m)
  | .vmaxU d a b m => some (.max true, d.val, [a.val, b.val], m)
  | .vand d a b m => some (.and, d.val, [a.val, b.val], m)
  | .vor d a b m => some (.or, d.val, [a.val, b.val], m)
  | .vxor d a b m => some (.xor, d.val, [a.val, b.val], m)
  | .vshl d a b m => some (.shl, d.val, [a.val, b.val], m)
  | .vshr d a b m => some (.shr, d.val, [a.val, b.val], m)
  | .vsra d a b m => some (.sra, d.val, [a.val, b.val], m)
  | .vsadd d a b m => some (.sadd false, d.val, [a.val, b.val], m)
  | .vsaddU d a b m => some (.sadd true, d.val, [a.val, b.val], m)
  | .vssub d a b m => some (.ssub false, d.val, [a.val, b.val], m)
  | .vssubU d a b m => some (.ssub true, d.val, [a.val, b.val], m)
  | .vabs d a m => some (.abs, d.val, [a.val], m)
  | .vneg d a m => some (.neg, d.val, [a.val], m)
  | .vsqrt d a m => some (.sqrt, d.val, [a.val], m)
  | .vrece d a m => some (.rece, d.val, [a.val], m)
  | .vrsqe d a m => some (.rsqe, d.val, [a.val], m)
  | .vexp2 d a m => some (.exp2, d.val, [a.val], m)
  | .vlog2 d a m => some (.log2, d.val, [a.val], m)
  | .vmov d a m => some (.mov, d.val, [a.val], m)
  | .vfma d a b c m => some (.fma, d.val, [a.val, b.val, c.val], m)
  | .vfms d a b c m => some (.fms, d.val, [a.val, b.val, c.val], m)
  | .vfnma d a b c m => some (.fnma, d.val, [a.val, b.val, c.val], m)
  | .vclamp d a b c m => some (.clamp, d.val, [a.val, b.val, c.val], m)
  | .vsel d a b m => some (.sel, d.val, [a.val, b.val], m)
  | .vcmp d a b m u c => some (.cmp u c, d.val, [a.val, b.val], m)
  | .vcvt d a m sat u t => some (.cvt sat u t, d.val, [a.val], m)
  | .vbcast d r m => some (.bcast (R r), d.val, [], m)
  | _ => none

/-- What an integer operation leaves of two sources of `n` bits each (R75, R185, R186, R189): the same bits whatever tag of
that width. -/
def intElement {n : Nat} (o : ElemOp) (x y : BitVec n) : Option (BitVec n) :=
  match o with
  | .add => some (x + y)
  | .sub => some (x - y)
  | .rsub => some (y - x)
  | .mul => some (x * y)
  | .div false => some (if y = 0 then -1 else x.sdiv y)
  | .div true => some (if y = 0 then -1 else x / y)
  | .rem false => some (if y = 0 then x else x.srem y)
  | .rem true => some (if y = 0 then x else x % y)
  | .min false => some (if x.toInt ≤ y.toInt then x else y)
  | .min true => some (if x ≤ y then x else y)
  | .max false => some (if x.toInt ≤ y.toInt then y else x)
  | .max true => some (if x ≤ y then y else x)
  | .and => some (x &&& y)
  | .or => some (x ||| y)
  | .xor => some (x ^^^ y)
  | .shl => some (x <<< (y.toNat % n))
  | .shr => some (x >>> (y.toNat % n))
  | .sra => some (x.sshiftRight (y.toNat % n))
  | .abs => some (if x.toInt < 0 then -x else x)
  | .neg => some (-x)
  | _ => none

/-- The acting hart has gone on to the next word: its scalar registers, its masks but `m`, and all memory are as before. -/
def wentOn (s t : State) (m : Option Nat) : Prop :=
  t.hart.pc = s.hart.pc + 4 ∧ t.hart.regs = s.hart.regs ∧ t.mem = s.mem ∧ t.hart.spad = s.hart.spad ∧
    t.hart.sdm = s.hart.sdm ∧ ∀ k : Fin 8, m ≠ some k.val → t.hart.vec.masks[k] = s.hart.vec.masks[k]

/-- No slot of the vector register file outside the group of registers based at `d` has changed (R16). -/
def slotsKept (s t : State) (d : Nat) : Prop :=
  let g := groupOf s.hart.csr
  ∀ k, (k < d * regLen s.hart.csr ∨ (d + g) * regLen s.hart.csr ≤ k) → sget t.hart.vec.vrf k = sget s.hart.vec.vrf k

/-- The group of registers based at `d` carries tag `t`, every other register its old tag, and no slot outside the group
has changed (R16, R21, R22). -/
def groupWritten (s t : State) (d tag : Nat) : Prop :=
  let g := groupOf s.hart.csr
  (∀ r : Fin 64, tagOfReg t.hart r = if d ≤ r.val ∧ r.val < d + g then tag % 16 else tagOfReg s.hart r) ∧ slotsKept s t d

/-- The progress of a destination that is complete at length `n` (R25, R26). -/
def progressOf (s t : State) (d n : Nat) : Prop :=
  ∀ r : Fin 64, d ≤ r.val → r.val < d + groupOf s.hart.csr →
    t.hart.vec.index[r] = (n + 63) / 64 ∧ t.hart.vec.complete.getLsbD r = true

/-- Elements 0 to `n` - 1 of a destination of tag `tag`: an active one holds `f`, an inactive one zero under IPOL = 1 and its
old bits otherwise; those from `tail` up to the capacity follow TPOL, and at length 0 no element changes (R30, R175, R177). -/
def elementsHold (s t : State) (d tag n tail : Nat) (act : Nat → Bool) (f : Nat → Nat) : Prop :=
  let old := getElem s.hart d (narrowTag tag)
  (∀ e, e < tail → getElem t.hart d (narrowTag tag) e =
    if act e then f e % 2 ^ tagBits tag else if ipolOf s.hart.csr then 0 else old e) ∧
  ∀ e, tail ≤ e → e < capacity s.hart.csr tag → getElem t.hart d (narrowTag tag) e =
    if n = 0 ∨ tpolOf s.hart.csr = 0 then old e else if tpolOf s.hart.csr = 1 then 0 else 2 ^ tagBits tag - 1

/-- A destination of tag `tag` written: its group's tags, its progress and its elements (R21, R22, R25, R30, R175, R177). -/
def elementsWritten (s t : State) (d tag n tail : Nat) (act : Nat → Bool) (f : Nat → Nat) : Prop :=
  groupWritten s t d tag ∧ progressOf s t d n ∧ elementsHold s t d tag n tail act f

/-- Bits 0 to `n` - 1 of mask `d` hold `f` where active, and follow IPOL where not; the bits from `n` up to VLMAX follow TPOL,
and those above are as before (R177, R190). -/
def maskWritten (s t : State) (d : Fin 8) (n : Nat) (act f : Nat → Bool) : Prop :=
  let old := fun e => (s.hart.vec.masks[d]).testBit e
  (∀ e, (t.hart.vec.masks[d]).testBit e =
    if e < n then (if act e then f e else if ipolOf s.hart.csr then false else old e)
    else if n ≠ 0 ∧ e < vlmax s.hart.csr ∧ tpolOf s.hart.csr ≠ 0 then decide (tpolOf s.hart.csr ≠ 1)
    else old e) ∧
  t.hart.vec.maskIndex[d] = (n + 63) / 64 ∧ t.hart.vec.maskComplete.getLsbD d = true

/-- An element of a row of the elementwise table with its flags: the operation on the source elements of the old state. -/
def elemValue (s : State) (o : ElemOp) (srcs : List Nat) (m : MReg) (tag e : Nat) : Nat × Nat :=
  let ts := srcs.map (tagOfReg s.hart)
  compute o s.hart.csr ts tag (srcs.map (fun r => getElem s.hart r (narrowTag (tagOfReg s.hart r)) e)) (active s.hart m e)

/-- The elements that a row of the elementwise table computes: every one for VSEL, the active ones otherwise (R175, R192). -/
def elemActive (s : State) (o : ElemOp) (m : MReg) (e : Nat) : Bool := o == .sel || active s.hart m e

/-! ### Vector memory -/

/-- The core has a translation of the address cached that serves an access of `n` bytes at `pa`, with the A and D bits it sets
set already, and the address is served there (R330, R333, R338). -/
def cachedAt (s : State) (va : Word) (n : Nat) (a : Access) (pa : Nat) : Prop :=
  va.toNat < 2 ^ 48 ∧ ∃ e, findEntry s.hart.tlb (partOf s.hart) va.toNat = some e ∧
    permits (e.perms % 16) a (supervisor s.hart) true = true ∧ permits (e.perms / 16) a true false = true ∧
    pa = e.pa + va.toNat % e.size ∧ refusal s (partOf s.hart) pa = none ∧
    (a = .write → pcpWritable s (partOf s.hart) pa n = true) ∧
    ∀ x ∈ e.entries, word8 s x.1 ||| (if a = .write then 0x300 else 0x100) = word8 s x.1

/-- The table entries that a write to the address marks: none for a local one (R330). -/
def entriesAt (s : State) (local_ : Bool) (va : Word) : List (Nat × Bool) :=
  if local_ then [] else ((findEntry s.hart.tlb (partOf s.hart) va.toNat).map (·.entries)).getD []

/-- An element of `size` bytes at `va` is served at `p`: in the scratchpad when the access is local, else at a physical
address through a cached translation; its bytes are good, and a store meets no busy slot (R48, R58, R213). -/
def lands (s : State) (local_ : Bool) (a : Access) (va : Word) (size : Nat) (p : Place) : Prop :=
  if local_ then
    0x100000 ≤ va.toNat ∧ va.toNat + size ≤ 0x300000 ∧ p = .spad (va.toNat - 0x100000) ∧
      (a = .write → touchesBusySlot s s.hart (va.toNat - 0x100000) size = false) ∧
      (a = .read → copyCovers s s.hart (sender s.hart) (va.toNat - 0x100000) = false)
  else 0x400000 ≤ va.toNat ∧ ∃ pa, p = .phys pa ∧ cachedAt s va size a pa

/-- A global address that lies on no resident page: neither the core nor its die has a translation of it, and the walk ends at an
entry that is not valid (R330, R333). -/
def absent (s : State) (va : Word) : Prop :=
  0x400000 ≤ va.toNat ∧ va.toNat < 2 ^ 48 ∧ findEntry s.hart.tlb (partOf s.hart) va.toNat = none ∧
    findEntry ((s.dieTlb.filter (fun x => x.1 == dieOfCore s.hart.core)).map (·.2)) (partOf s.hart) va.toNat = none ∧
    walkPage s s.hart.core (partOf s.hart) va.toNat = .inr (.missing false)

/-- The address operand that a trap of a plain vector access names: the base register, or the index vector (R213, R325). -/
def addressOperand (i : Instr) : Option Nat :=
  match i with
  | .vld _ b _ | .vlds _ b _ _ | .vst _ b _ | .vsts _ b _ _ => some (b.val + 256)
  | .vldx _ _ x _ | .vstx _ _ x _ => some (x.val + 512)
  | _ => none

/-- A vector load (R209, R211): destination, mask, address operand, index vector, element address, whether it is first-fault. -/
def vloadRow (s : State) (i : Instr) : Option (VReg × MReg × Option VReg × (Nat → Word)) :=
  let w := tagBytes (dtagOf s.hart.csr)
  match i with
  | .vld t b m => some (t, m, none, fun e => getReg s b + BitVec.ofNat 64 (e * w))
  | .vldff t b m => some (t, m, none, fun e => getReg s b + BitVec.ofNat 64 (e * w))
  | .vlds t b r m => some (t, m, none, fun e => getReg s b + BitVec.ofNat 64 e * getReg s r)
  | .vldx t b x m => some (t, m, some x, fun e =>
      getReg s b + sextWord (tagBits (tagOfReg s.hart x.val)) (getElem s.hart x.val (narrowTag (tagOfReg s.hart x.val)) e))
  | _ => none

/-- A vector store (R210): source, mask, index vector, element address. -/
def vstoreRow (s : State) (i : Instr) : Option (VReg × MReg × Option VReg × (Nat → Word)) :=
  match i with
  | .vst t b m => some (t, m, none, fun e => getReg s b + BitVec.ofNat 64 (e * tagBytes (tagOfReg s.hart t.val)))
  | .vsts t b r m => some (t, m, none, fun e => getReg s b + BitVec.ofNat 64 e * getReg s r)
  | .vstx t b x m => some (t, m, some x, fun e =>
      getReg s b + sextWord (tagBits (tagOfReg s.hart x.val)) (getElem s.hart x.val (narrowTag (tagOfReg s.hart x.val)) e))
  | _ => none

/-- No vector store of the hart is on its way and none waits to be recovered, no byte of the module is marked uncorrectable, and no
running copy has replaced a word that may still be read (R112, R367). -/
def quiet (s : State) : Prop :=
  (∀ q ∈ s.packets, q.core ≠ s.hart.core ∧ q.transit ≠ .recovery) ∧ s.bad = [] ∧ s.olds = []

/-- What one packet of a store says: the element it belongs to, its place, and a second one for a second byte on another page, how
many bytes, the data and the bits that it writes, and the table entries that it marks. -/
structure Sending where
  e : Nat
  place : Place
  second : Option Place
  size : Nat
  data : Nat
  mask : Nat
  entries : List (Nat × Bool)

/-- The packets that a store sends in turn: numbered on, in the stream of the lane cluster of each element, of their instruction and
its group, message class and QoS class (R13, R92, R210, R364, R369). -/
def sentAs (s : State) (xs : List Sending) : List Packet :=
  xs.mapIdx (fun k x => ⟨s.serial + k, s.hart.core, x.e % 64 / 8, sender s.hart, x.e / 64, .request, classOfHart s s.hart, x.place,
    x.second, x.size, x.data, x.mask, x.entries, .mesh, s.clock⟩)

/-- The packets of a store of `n` elements, one for each active element, in element order (R13, R92, R210; one for each is the model's
choice, log 7). -/
def storePackets (s : State) (r tag n : Nat) (act : Nat → Bool) (place : Nat → Place) (es : Nat → List (Nat × Bool)) :
    List Packet :=
  sentAs s (((List.range n).filter act).map (fun e =>
    ⟨e, place e, none, tagBytes tag, getElem s.hart r (narrowTag tag) e, 2 ^ tagBits tag - 1, es e⟩))

/-- No stream has more than 32 packets of these under way to one slice, so that none of them is awaited first (R365). -/
def windowFits (ps : List Packet) : Prop :=
  ∀ p ∈ ps, ps.countP (fun q => q.core == p.core && q.cluster == p.cluster && (meet q.places p.places).1) ≤ 32

/-- What a packet is to do: whose it is, in which stream, where it writes which bits. -/
def doesOf (p : Packet) : Nat × Nat × Place × Option Place × Nat × Nat × Nat :=
  (p.core, p.cluster, p.place, p.second, p.size, p.data, p.mask)

/-- A store has sent the packets `ps` in order, `f` of the hart apart: all are under way behind those before them where the
streams have room, and nothing else has changed; else the oldest are performed meanwhile, and the hart's registers are as before
(R92, R365). -/
def sent (s t : State) (ps : List Packet) (f : Hart → Hart) : Prop :=
  (windowFits (s.packets ++ ps) → t = { s with
      packets := s.packets ++ ps, serial := s.serial + ps.length, hart := f { s.hart with pc := s.hart.pc + 4 } }) ∧
    s.serial + ps.length ≤ t.serial ∧ (t.packets.map doesOf).Sublist ((s.packets ++ ps).map doesOf) ∧
    t.hart.pc = s.hart.pc + 4 ∧ t.hart.regs = s.hart.regs ∧ t.hart.csr = s.hart.csr ∧ t.hart.vec = s.hart.vec ∧
    t.hart.engines = (f s.hart).engines

/-- A vector atomic (R217): its operation, data and destination, base, index vector, mask. -/
def vamoRow (i : Instr) : Option (VamoOp × VReg × SReg × VReg × MReg) :=
  match i with
  | .vamoadd t b x m => some (.add, t, b, x, m)
  | .vamomax t b x m => some (.max false, t, b, x, m)
  | .vamomaxU t b x m => some (.max true, t, b, x, m)
  | .vamomin t b x m => some (.min false, t, b, x, m)
  | .vamominU t b x m => some (.min true, t, b, x, m)
  | _ => none

/-- A reduction (R202): its operation, destination, source, initial value, mask. -/
def redRow (i : Instr) : Option (RedOp × VReg × VReg × VReg × MReg) :=
  match i with
  | .vredsum d a b m => some (.sum, d, a, b, m)
  | .vredmax d a b m => some (.max false, d, a, b, m)
  | .vredmaxU d a b m => some (.max true, d, a, b, m)
  | .vredmin d a b m => some (.min false, d, a, b, m)
  | .vredminU d a b m => some (.min true, d, a, b, m)
  | _ => none

/-- What R20, R178 and R202 ask of the operands of a reduction. -/
def redAccepts (s : State) (o : RedOp) (d a b : VReg) : Prop :=
  let tag := tagOfReg s.hart a.val
  tag ≠ 0 ∧ tagOfReg s.hart b.val = tag ∧ (o.unsigned = true → floatTag tag = false) ∧
    regsFail s.hart.csr [d.val, a.val, b.val] = none ∧ destFails s.hart d.val tag [a.val, b.val] = false ∧
    overfull s.hart tag = false ∧ shares s.hart.csr d.val a.val = false ∧ shares s.hart.csr d.val b.val = false

/-- Two integers of a reduction combined without wrapping (R202): signed, or unsigned for a `.u` form. -/
def redInt (o : RedOp) (x y : Int) : Int :=
  match o with
  | .sum => x + y
  | .max _ => max x y
  | .min _ => min x y

/-- The four-byte value of a place, or two bytes, as the lanes of a hart with no store on its way read it (R105). -/
def laneValue (s : State) (p : Place) (n : Nat) : Nat := vectorRead s s.hart p n

/-- A narrow load (R215): destination, base, scale base, stride, mask, format, tag. -/
def vldnRow (i : Instr) : Option (VReg × SReg × SReg × Option SReg × MReg × Fmt × DTag) :=
  match i with
  | .vldn t b sc m f g => some (t, b, sc, none, m, f, g)
  | .vldns t b sc r f g => some (t, b, sc, some r, 0, f, g)
  | _ => none

/-- The data bytes and the scale byte of a narrow element, as the lanes read them: a six-bit element may lie in two (R78). -/
def narrowData (s : State) (ps : List Place) (n : Nat) : Nat :=
  match ps with
  | [p, q] => laneValue s p 1 + 256 * laneValue s q 1
  | p :: _ => laneValue s p n
  | [] => 0

/-- The stream at the head of a port that serves an access: its engine, its pattern and its cursor (R212, R233). -/
def portServes (s : State) (p : PortId) (store : Bool) (x : Engine) (d : StreamDesc) (cur : Nat) : Prop :=
  (portStreams s.hart p.val).head? = some x ∧ (∃ a, x.kind = .stream p.val a (some d) cur) ∧ d.store = store ∧
    cur < d.total ∧ cur + lengthOf s.hart ≤ d.total

/-! ### Matrix mode -/

/-- Matrix mode is on and enabled, the tile is granted, and the part of the hart lies in its tile (R246, R247, R250). -/
def tileReady (s : State) (t : TileId) : Prop :=
  freshStart s.hart ∧ s.hart.vec.matrix = true ∧ s.hart.csr.status.getLsbD 4 = true ∧ t.val < tilesOf s.hart.csr ∧
    0 < partRows s.hart ∧ partRows s.hart ≤ 256 ∧ 0 < partCols s.hart ∧ partCols s.hart ≤ 384 ∧ s.bad = []

/-- Element (i, j) of a hart's part of a tile. -/
def tileElem (h : Hart) (t : TileId) (i j : Nat) : Nat := (sget h.vec.acc (accKey t.val i j)).toNat

/-- The tile elements of the part hold `f`, every other tile what it held; the hart has gone on, and no vector register, mask,
scalar register or byte of memory has changed. -/
def tileWritten (s t : State) (k : TileId) (f : Nat → Nat → Nat) : Prop :=
  wentOn s t none ∧ t.hart.vec.vrf = s.hart.vec.vrf ∧ t.hart.vec.tags = s.hart.vec.tags ∧
    (∀ i j, i < partRows s.hart → j < partCols s.hart → tileElem t.hart k i j = f i j % 2 ^ 32) ∧
    ∀ x, x / 98304 ≠ k.val → sget t.hart.vec.acc x = sget s.hart.vec.acc x

/-- The tile instructions, with their tile (R251 to R257). -/
def tileOf (i : Instr) : Option TileId :=
  match i with
  | .mxadd t .. | .mxsub t .. | .mxsld t .. | .mzero t | .mrow t .. | .mcol t .. | .mwrow t .. | .mldt t .. | .mstt t .. => some t
  | _ => none

/-! ### Engines -/

/-- What the issue of an engine instruction leaves (R229): one more engine, its number new, its status register pending, the next
word; the buffered stores performed where it orders them. -/
def engineStarted (s t : State) (d : SReg) (k : EngineKind) : Prop :=
  (∃ n, s.serial ≤ n ∧ t.serial = n + 1 ∧ t.hart.engines = s.hart.engines ++
    [⟨n, t.hart.vseq, d, k, s.hart.pc, s.hart.ir, supervisor s.hart, none, none, none⟩]) ∧
    t.hart.pc = s.hart.pc + 4 ∧ t.hart.regs = s.hart.regs ∧
    ∀ r : SReg, t.hart.pending.getLsbD r.val = (s.hart.pending.getLsbD r.val || decide (r = d ∧ d ≠ 0))

/-- The status that an engine instruction writes as it is rejected: state 4 with a code, at once (R229, R230). -/
def engineRejected (s t : State) (d : SReg) (kind code : Nat) : Prop :=
  t.hart.engines = s.hart.engines ∧ t.hart.pc = s.hart.pc + 4 ∧ t.hart.pending = s.hart.pending ∧
    ∀ r, getReg t r = if r = d ∧ d ≠ 0 then statusWord kind 4 0 code else getReg s r

/-- A range of `n` bytes that lies in the scratchpad (R45). -/
def inScratchpad (a : Word) (n : Nat) : Prop := 0x100000 ≤ a.toNat ∧ a.toNat + n ≤ 0x300000

/-- The operands that `COPY` accepts (R232): aligned, 8 bytes to 64 MiB, ranges apart, local ranges in the scratchpad. -/
def copyAccepts (dst src : Word) (n : Nat) : Prop :=
  dst.toNat % 8 = 0 ∧ src.toNat % 8 = 0 ∧ n % 8 = 0 ∧ 8 ≤ n ∧ n ≤ 2 ^ 26 ∧
    (dst.toNat + n ≤ src.toNat ∨ src.toNat + n ≤ dst.toNat) ∧
    (dst.toNat < 0x400000 → inScratchpad dst n) ∧ (src.toNat < 0x400000 → inScratchpad src n)

/-- The operands that `CHAIN` accepts (R237), with its hops: the block aligned in the scratchpad, of at most 64 KiB; one hop or
more, each once, none the issuer, each a core that the partition may reach. -/
def chainAccepts (s : State) (a hdr arg : Word) : Prop :=
  let n := arg.toNat % 2 ^ 24
  let hops := chainHops hdr.toNat 8
  a.toNat % 64 = 0 ∧ n % 64 = 0 ∧ 64 ≤ n ∧ n ≤ 65536 ∧ inScratchpad a n ∧ arg.toNat < 2 ^ 43 ∧
    hops ≠ [] ∧ hops.Nodup ∧ s.hart.core ∉ hops ∧ ∀ c ∈ hops, mayReach s c = true

/-- The engine is one of the acting hart's, and no other engine of the module has its number. -/
def acts (s : State) (x : Engine) : Prop :=
  s.hart.core < 128 ∧ engineOf s x.id = some ⟨none, s.hart, x⟩ ∧ s.hart.engines.filter (fun y => y.id == x.id) = [x]

/-- The number of the acting hart's core, as an operand. -/
def me (s : State) : CoreId := Fin.ofNat 128 s.hart.core

/-- An engine has ended (R109, R169, R230): its register holds the status, which is pending no more, and the event latch is set;
every other register, and every other engine, is as before. -/
def engineEnded (s t : State) (x : Engine) (status : Word) : Prop :=
  t.hart.engines = s.hart.engines.filter (fun y => y.id != x.id) ∧
    (∀ r, getReg t r = if r = x.rd ∧ r ≠ 0 then status else getReg s r) ∧
    (x.rd ≠ 0 → t.hart.pending.getLsbD x.rd.val = false ∧ t.hart.csr.status.getLsbD 6 = true)

/-- An engine has gone on to `y`, and no register or other engine has changed. -/
def engineNow (s t : State) (x y : Engine) : Prop :=
  t.hart.engines = s.hart.engines.map (fun z => if z.id = x.id then y else z) ∧ t.hart.regs = s.hart.regs

/-- A field of `n` bytes at byte `lo` of a descriptor (R233, R236). -/
def fieldAt (v lo n : Nat) : Nat := v / 256 ^ lo % 256 ^ n

/-- A near-bank descriptor that passes every check of R236 but those of its page: no reserved bit, an operation and a type of
the tables, a page in global memory on 2 MiB, an offset on a granule, counts within their limits, inside the page. -/
def nearAccepts (v : Nat) : Prop :=
  let w := if fieldAt v 9 1 = 2 then 2 else 4
  fieldAt v 24 8 = 0 ∧ fieldAt v 10 1 < 8 ∧ 1 ≤ fieldAt v 8 1 ∧ fieldAt v 8 1 ≤ 7 ∧ 1 ≤ fieldAt v 9 1 ∧ fieldAt v 9 1 ≤ 3 ∧
    fieldAt v 11 1 ≤ 1 ∧ 0x400000 ≤ fieldAt v 0 8 ∧ fieldAt v 0 8 < 2 ^ 48 ∧ fieldAt v 0 8 % 2 ^ 21 = 0 ∧
    fieldAt v 12 4 % 1024 = 0 ∧ fieldAt v 12 4 < 2 ^ 20 ∧ 1 ≤ fieldAt v 16 4 ∧ 1 ≤ fieldAt v 20 4 ∧
    w * fieldAt v 20 4 ≤ 1024 ∧ fieldAt v 12 4 + 1024 * fieldAt v 16 4 ≤ 2 ^ 20

/-- The command that a descriptor and an argument name, at a physical page (R236). -/
def nearCommandOf (s : State) (x : Engine) (v : Nat) (arg : Word) (page : Nat) : NearCommand where
  core := s.hart.core
  engine := x.id
  va := word (fieldAt v 0 8)
  page := page
  op := fieldAt v 8 1
  ty := fieldAt v 9 1
  rm := fieldAt v 10 1 % 4
  ftz := (fieldAt v 10 1).testBit 2
  dest := fieldAt v 11 1
  off := fieldAt v 12 4
  rows := fieldAt v 16 4
  elems := fieldAt v 20 4
  arg := word (arg.toNat % (if fieldAt v 9 1 = 2 then 2 ^ 16 else 2 ^ 32))
  done := 0
  flags := 0
  bad := none
  entries := entriesAt s false (word (fieldAt v 0 8))

/-- A stope engine that takes a near-bank command now (R348). -/
def newStope (s : State) (g : Nat) (c : NearCommand) : Stope := ⟨g, .near c, s.clock, 0, none, [], [], []⟩

/-- A compute-capable page of local memory of the acting hart's partition, cached with every right and its bits set. -/
def computePageAt (s : State) (x : Engine) (va pa : Nat) : Prop :=
  ∃ e, findEntry s.hart.tlb (partOf s.hart) va = some e ∧ e.cc = true ∧ pa = e.pa + va % e.size ∧ pa < localBytes s ∧
    (∀ a, a ≠ Access.exec → permits (e.perms % 16) a x.super true = true ∧ permits (e.perms / 16) a true false = true) ∧
    refusal s (partOf s.hart) pa = none ∧ pcpWritable s (partOf s.hart) pa 1 = true ∧
    ∀ y ∈ e.entries, word8 s y.1 ||| 0x300 = word8 s y.1

/-! ### Virtual processors, marked loops, standing loads -/

/-- The hart has gone on to the next word and no scalar register, mask, byte of memory or local memory has changed but `h` says
so of the rest. -/
def nextWordOnly (s t : State) (h : Hart → Hart) : Prop := t = { s with hart := h { s.hart with pc := s.hart.pc + 4 } }

/-- Both registers and memory are as before. -/
def sameData (s t : State) : Prop := t.hart.regs = s.hart.regs ∧ t.mem = s.mem ∧ t.hart.spad = s.hart.spad ∧ t.hart.sdm = s.hart.sdm

/-- The status word of a marked loop (R230, R240 to R243). -/
def loopWord (st index detail : Nat) : Word := statusWord 7 st index detail

/-- The fields of a standing-load slot (R57). -/
def slotIs (h : Hart) (n : Nat) (value : Word) (seq : BitVec 32) (ovr st flags : Nat) : Prop :=
  slotValue h n = value ∧ slotSeq h n = seq ∧ slotOvr h n = ovr ∧ slotState h n = st ∧ slotFlags h n = flags

/-- No byte of the scratchpad outside slot `n` has changed. -/
def otherSlots (s t : Hart) (n : Nat) : Prop :=
  ∀ a, ¬(slotOffset s n ≤ a ∧ a < slotOffset s n + 16) → sget t.spad a = sget s.spad a

/-- A slot operand that a standing instruction takes (R219, R397): below 1,024, with no answer outstanding. -/
def slotFree (s : State) (r : SReg) : Prop :=
  (getReg s r).toNat < 1024 ∧ standOutstanding s s.hart.core (getReg s r).toNat = false

/-- The home's decision on one more subscription to the word at `a` (R220): 0 where it takes it, else the refusal. -/
def refusalOf (s : State) (a : Nat) : Nat :=
  if 0x0008000000000000 ≤ a then 3
  else
    match s.directory.find? (fun d => d.pa == a) with
    | some d => if 8 ≤ d.subs.length then 1 else 0
    | none => if 1024 ≤ s.directory.countP (fun d => homeOf d.pa == homeOf a) then 2 else 0

/-- A register has a result pending exactly where it had one, or where it is `d`. -/
def pendingNow (s t : Hart) (d : SReg) (on : Bool) : Prop :=
  ∀ r : SReg, t.pending.getLsbD r.val = if r = d ∧ d ≠ 0 then on else s.pending.getLsbD r.val

/-! ### Launches and the arbiter -/

/-- A core that runs nothing: its hart as at its start, the core's own units apart (R41, R64). -/
def freed (h : Hart) : Prop := h.owner = none ∧ h.run = .idle ∧ h.regs = startRegs 0 ∧ h.vec = Vec.start ∧ h.sdm = [] ∧ h.spad = []

/-- A hart that has ended: its core runs nothing, and what it held stands until another owner's hart starts there (R64, R265). -/
def ended (h g : Hart) : Prop :=
  g.owner = none ∧ g.run = .idle ∧ g.regs = h.regs ∧ g.csr = h.csr ∧ g.vec = h.vec ∧ g.engines = [] ∧ g.buffer = []

/-- The value of a scalar register of a hart; s0 reads as zero (R41). -/
def regOf (h : Hart) (r : SReg) : Word := if r = 0 then 0 else h.regs[r]

/-- Every member of the acting hart's gang has gone on with `v` in `d`. -/
def membersTook (s t : State) (d : SReg) (v : Word) : Prop :=
  membersNow s t (fun h g => ∀ r, regOf g r = if r = d ∧ d ≠ 0 then v else regOf h r)

/-- The completion word of a launch (R266): valid, harts ended, STATE, flags. -/
def finishedWord (harts st flags : Nat) : Word := word (2 ^ 63 + harts % 2 ^ 24 * 2 ^ 32 + st * 2 ^ 24 + flags % 32)

/-- The launch with an identifier, alone of it in the store. -/
def onlyLaunch (s : State) (l : Launch) : Prop := s.launches.filter (fun x => x.part == l.part && x.id == l.id) = [l]

/-- A hart that runs for a launch stands at its stop point (R315): it goes on from `pc` later, its event latch is set. -/
def stoppedAt (s t : State) (r : StopReason) : Prop :=
  t.hart.stopping = some r ∧ t.hart.regs = s.hart.regs ∧ t.hart.vec = s.hart.vec ∧ t.mem = s.mem

/-- The husk in slot `i` of a partition, the only one of its gang. -/
def loneHusk (s : State) (p : PartId) (i : Fin 128) (k : Husk) : Prop :=
  huskIn s p.val i.val = some k ∧ s.husks.filter (fun x => decide (x.part = k.part ∧ x.resumed = false ∧ huskGang x = huskGang k)) = [k]

/-! ### The module -/

/-- The packet numbered `k` in order, alone with its number. -/
def packetAt (s : State) (k : Nat) (p : Packet) : Prop :=
  s.packets[k]? = some p ∧ s.packets.filter (fun q => q.id == p.id) = [p]

/-- A pit-log record has been appended to the log of a die (R391). -/
def logged (s t : State) (die : DieId) (source unit code detail : Nat) : Prop :=
  t.pits[die] = ⟨s.pits[die].seq + 1,
      (⟨s.pits[die].seq, s.clock / 20, source, unit, code, detail⟩ :: s.pits[die].records).take 4096⟩ ∧
    ∀ d : DieId, d ≠ die → t.pits[d] = s.pits[d]

/-- Every byte of a physical range reads as zero, and no byte outside it has changed. -/
def zeroed (s t : State) (lo hi : Nat) : Prop :=
  ∀ a, sget t.mem a = if lo ≤ a ∧ a < hi then 0 else sget s.mem a

/-- A bank that commands reach now: its pseudo-channel is awake and it is not being refreshed. -/
def ready (s : State) (k : StackId) (c b : Nat) : Prop :=
  (∀ x ∈ s.hbm[k].asleep, x.1 ≠ c) ∧ ∀ r ∈ s.hbm[k].refreshing, ¬(r.1 = c ∧ r.2.1 = b ∧ s.clock < r.2.2)

/-- A request of a class waits at a pseudo-channel for a bank that commands reach now. -/
def waits (s : State) (k : StackId) (c q : Nat) : Prop := ∃ x ∈ s.hbm[k].requests, x.chan = c ∧ ready s k c x.bank ∧ x.qos = q

/-- A class that waits at a pseudo-channel and had none of its last 63 grants (R369). -/
def starves (s : State) (k : StackId) (c q : Nat) : Prop := q < 4 ∧ waits s k c q ∧ 63 ≤ passedOf s.hbm[k] c q

/-- The request that a pseudo-channel grants next: the oldest, for a bank that commands reach now, of the class whose turn it is: the
lowest that starves, else the highest that waits (R369). -/
def granted (s : State) (k : StackId) (c : Nat) (r : Request) : Prop :=
  ((starves s k c r.qos ∧ ∀ q, starves s k c q → r.qos ≤ q) ∨ ((∀ q, ¬starves s k c q) ∧ ∀ q, waits s k c q → q ≤ r.qos)) ∧
    ∃ before after, s.hbm[k].requests = before ++ r :: after ∧ r.chan = c ∧ ready s k c r.bank ∧
      ∀ x ∈ before, ¬(x.chan = c ∧ ready s k c x.bank ∧ x.qos = r.qos)

/-- The module has changed in stack `k` alone. -/
def onlyStack (s t : State) (k : StackId) : Prop := t = { s with hbm := s.hbm.set k t.hbm[k] }

/-- The partition's block changed by `f`, and nothing else of the module. -/
def blockWritten (s : State) (p : PartId) (f : Partition → Partition) : State := { s with parts := s.parts.set p (f s.parts[p]) }

/-- What an SPDM request answers (R380): whether it is accepted, the digest it carries, and where the connection then stands. -/
def spdmRow (s : State) (i : Instr) : Option (Nat × Bool × BitVec 256 × Spdm) :=
  let x := s.spdm
  let up := s.bootst = 5
  let talks := s.bootst = 5 ∧ x.stage = 3
  match i with
  | .getVersion => some (1, decide up, 0, ⟨1, false, false⟩)
  | .getCapabilities => some (2, decide (up ∧ x.stage = 1), 0, { x with stage := 2 })
  | .negotiateAlgorithms => some (3, decide (up ∧ x.stage = 2), 0, { x with stage := 3 })
  | .getDigests => some (4, decide talks, 0, x)
  | .getCertificate => some (5, decide talks, 0, x)
  | .challenge => some (6, decide talks, 0, x)
  | .getMeasurements m => some (7, decide (talks ∧ 1 ≤ m.toNat ∧ m.toNat ≤ 4),
      (match m.toNat with
        | 1 => s.digests.1
        | 2 => s.digests.2.1
        | 3 => Config.configDigest (configText s)
        | 4 => s.digests.2.2
        | _ => 0), x)
  | .keyExchange => some (8, decide talks, 0, { x with handshake := true })
  | .finish => some (9, decide (talks ∧ x.handshake = true), 0, { x with handshake := false, session := true })
  | .endSession => some (10, decide (talks ∧ x.session = true), 0, { x with session := false })
  | _ => none

/-- Every hart stands on a core of the package, and no two on one. -/
def oneHartPerCore (s : State) : Prop := coresApart s ∧ ∀ h ∈ s.harts, h.core < 128

/-- What a step leaves of the acting hart as it comes to the word `w`: the fetch behind it, the word to execute. -/
def atWord (u : State) (w : BitVec 32) : State := { u with hart := { u.hart with ir := w } }

end Sys2Proof.Claims

open Sys2Proof Sys2Proof.Machine Sys2Proof.Claims

/-! ### Encoding -/

/-- Every well-formed instruction that has a word decodes from it, with every operand at every value (R127 to R138). -/
def Obligations.DecodeOfEncode : Prop :=
  ∀ i w, i.wf = true → encode i = some w → w < 2 ^ 32 ∧ decode w = .ok i

/-- Each word has one meaning: the instruction a word decodes to is well-formed, and that word is its encoding (R138). -/
def Obligations.EncodeOfDecode : Prop :=
  ∀ i w, w < 2 ^ 32 → decode w = .ok i → i.wf = true ∧ encode i = some w

/-! ### Scalar results -/

/-- Every integer instruction completes with its result in rd, and changes nothing but rd and the pc (R148, R152 to R154). -/
def Sys2Proof.Claims.IntegerEffects : Prop :=
  ∀ s i d v, integer (getReg s) i = some (d, v) → frozen s.hart d = false →
    ∃ t, exec i s = .next t ∧ s.onlyResult t d v (s.hart.pc + 4)

/-- The word of each integer register instruction is its template with the fields in place; codes 24 to 63 are no instruction,
and rs3, with rs2 of CLZ, CTZ and POPC, must be zero (R152). -/
def Sys2Proof.Claims.IntegerWords : Prop :=
  ∀ d a b : SReg,
    let w := fun (rs2 : SReg) (rs3 funct6 : Nat) =>
      0x04000000 + d.val * 2 ^ 21 + a.val * 2 ^ 16 + rs2.val * 2 ^ 11 + rs3 * 2 ^ 6 + funct6
    let rows : List Instr := [.add d a b, .sub d a b, .mul d a b, .mulh d a b, .mulhu d a b, .div d a b, .divu d a b,
      .rem d a b, .remu d a b, .and d a b, .or d a b, .xor d a b, .shl d a b, .shr d a b, .sra d a b, .slt d a b, .sltu d a b,
      .min d a b, .max d a b, .minu d a b, .maxu d a b]
    (∀ k i, rows[k]? = some i → decode (w b 0 k) = .ok i) ∧
    decode (w 0 0 21) = .ok (.clz d a) ∧ decode (w 0 0 22) = .ok (.ctz d a) ∧ decode (w 0 0 23) = .ok (.popc d a) ∧
    (∀ k rs3, k < 24 → rs3 < 32 → (rs3 ≠ 0 ∨ (21 ≤ k ∧ b ≠ 0)) → ∃ i, decode (w b rs3 k) = .reserved i) ∧
    ∀ k rs3, 24 ≤ k → k < 64 → rs3 < 32 → decode (w b rs3 k) = .illegal

/-- What the integer instructions write, and the words of the register ones. -/
def Obligations.IntegerResults : Prop := IntegerEffects ∧ IntegerWords

/-- Every scalar FP instruction whose flags are not enabled completes: rd takes the result, FCSR.FLAGS takes the flags, and
nothing else changes but the pc (R71, R72, R155 to R157). -/
def Sys2Proof.Claims.FloatResults : Prop :=
  ∀ s i d v fl, floating s i = some (d, v, fl) → frozen s.hart d = false → fl &&& bits s.hart.csr.fcsr 5 5 = 0 →
    ∃ t, exec i s = .next t ∧ t.hart.csr.fcsr = s.hart.csr.fcsr ||| word (fl % 32) ∧
      ({ s with hart := { s.hart with csr := { s.hart.csr with fcsr := t.hart.csr.fcsr } } } : State).onlyResult
        t d v (s.hart.pc + 4)

/-- A scalar FP instruction that raises an enabled flag takes trap 0x10 at its own address with the raised flags in TVAL and
rd in TOPND; the flags are joined into FCSR and no register is written (R72, R73, R149). -/
def Obligations.FloatEnabledFlagTraps : Prop :=
  ∀ s i d v fl, floating s i = some (d, v, fl) → frozen s.hart d = false → fl &&& bits s.hart.csr.fcsr 5 5 ≠ 0 →
    nested s.hart = false → s.hart.loop = none →
    ∃ t, exec i s = .next t ∧ t.hart.regs = s.hart.regs ∧
      t.hart.csr.fcsr = s.hart.csr.fcsr ||| word (fl % 32) ∧ t.hart.csr.cause = 0x10 ∧ t.hart.csr.tval = word fl ∧
      t.hart.csr.topnd = word (d.val + 256) ∧ t.hart.csr.epc = s.hart.pc ∧ t.hart.pc = handler s.hart

/-- The FP instructions that write an FP32 or BF16 value write zero above it (R148). -/
def Sys2Proof.Claims.FloatUpperBitsZero : Prop :=
  ∀ s i d v fl, floating s i = some (d, v, fl) →
    (match i with
      | .fcvtIF .. | .fcvtIuF .. => True
      | .fcvtBfF .. => v.toNat < 2 ^ 16
      | _ => v.toNat < 2 ^ 32)

/-- A scalar FP instruction whose flags are not enabled completes with its result and its flags, and FP32 and BF16 results have zero above them. -/
def Obligations.FloatCompletes : Prop := FloatResults ∧ FloatUpperBitsZero

/-! ### Transfers of control -/

/-- A conditional branch goes to its target or to the next word, and changes nothing but the pc (R130, R158). -/
def Sys2Proof.Claims.BranchOutcomes : Prop :=
  ∀ s i c o, branch (getReg s) i = some (c, o) →
    ∃ t, exec i s = .next t ∧ s.onlyPc t (s.hart.pc + if c then 4 * o.signExtend 64 else 4)

/-- JMP, CALL, JR and CALLR go to their targets; CALL and CALLR leave the next word's address in s1, and CALLR reads its
target before it writes s1 (R159). -/
def Sys2Proof.Claims.JumpOutcomes : Prop :=
  ∀ s : State,
    (∀ o, ∃ t, exec (.jmp o) s = .next t ∧ s.onlyPc t (s.hart.pc + 4 * o.signExtend 64)) ∧
    (∀ o, frozen s.hart 1 = false →
      ∃ t, exec (.call o) s = .next t ∧ s.onlyResult t 1 (s.hart.pc + 4) (s.hart.pc + 4 * o.signExtend 64)) ∧
    (∀ a, (getReg s a).toNat < 2 ^ 48 → (getReg s a).toNat % 4 = 0 →
      ∃ t, exec (.jr a) s = .next t ∧ s.onlyPc t (getReg s a)) ∧
    (∀ a, (getReg s a).toNat < 2 ^ 48 → (getReg s a).toNat % 4 = 0 → frozen s.hart 1 = false →
      ∃ t, exec (.callr a) s = .next t ∧ s.onlyResult t 1 (s.hart.pc + 4) (getReg s a))

/-- An indirect jump to a misaligned target traps with 0x06, and to one beyond 48 bits with 0x09, at the jump, with the target
in TVAL and s1 unchanged (R127, R159). -/
def Sys2Proof.Claims.JumpTargetTraps : Prop :=
  ∀ s i a, (i = .jr a ∨ (i = .callr a ∧ frozen s.hart 1 = false)) → nested s.hart = false → s.hart.loop = none →
    ((getReg s a).toNat % 4 ≠ 0 ∨ 2 ^ 48 ≤ (getReg s a).toNat) →
    ∃ t, exec i s = .next t ∧ t.hart.csr.cause = (if (getReg s a).toNat % 4 ≠ 0 then 0x06 else 0x09) ∧
      t.hart.csr.tval = getReg s a ∧ t.hart.csr.epc = s.hart.pc ∧ t.hart.pc = handler s.hart ∧
      t.hart.regs = s.hart.regs

/-- Where branches and jumps go, and the traps of a bad indirect target. -/
def Obligations.TransfersOfControl : Prop := BranchOutcomes ∧ JumpOutcomes ∧ JumpTargetTraps

/-! ### Scalar loads, stores and atomics -/

/-- An access below 0x10000 reaches scalar data memory, one of [0x100000, 0x300000) the scratchpad, and every other local
address is refused with 0x09; a misaligned one is refused with 0x06 before, and one beyond 48 bits with 0x09 before that
(R44, R45, R161).  A store into a slot that is armed, draining or parked is refused (R58). -/
def Sys2Proof.Claims.LocalReach : Prop :=
  ∀ s (va : Word) size a,
    (2 ^ 48 ≤ va.toNat → reach s va size a = (.trap 0x09 false, s)) ∧
    (va.toNat < 2 ^ 48 → va.toNat % size ≠ 0 → reach s va size a = (.trap 0x06 false, s)) ∧
    (va.toNat % size = 0 → va.toNat < 0x10000 → reach s va size a = (.ok (.sdm va.toNat) [], s)) ∧
    (va.toNat % size = 0 → 0x10000 ≤ va.toNat → va.toNat < 0x100000 → reach s va size a = (.trap 0x09 false, s)) ∧
    (va.toNat % size = 0 → 0x300000 ≤ va.toNat → va.toNat < 0x400000 → reach s va size a = (.trap 0x09 false, s)) ∧
    (va.toNat % size = 0 → 0x100000 ≤ va.toNat → va.toNat < 0x300000 →
      reach s va size a =
        (if a = .write ∧ touchesBusySlot s s.hart (va.toNat - 0x100000) size = true then .trap 0x09 false
          else .ok (.spad (va.toNat - 0x100000)) [], s))

/-- A scalar load that passes its checks writes the extended value into rd, in the state that translation leaves (R160 to R162),
where the recovery buffer of its home has drained (R367) and no read returns what a copy replaced in that word any more (R112); an
acquire follows no release here. -/
def Sys2Proof.Claims.LoadResults : Prop :=
  ∀ s i d a va n sx acq p es u, loadOf (getReg s) i = some (d, a, va, n, sx, acq) → frozen s.hart d = false →
    (acq = true → s.hart.released = false) → served s va n .read p es u → wordFree u.hart p →
    let w := atHomeOf u p
    ∃ t, exec i s = .next t ∧
      (dropOlds w w.hart.core p).onlyResult t d (extended n sx (scalarRead w w.hart p n)) (u.hart.pc + 4)

/-- An acquire that follows a release comes after every access before that release: the hart's vector stores are performed, its
buffered stores that may be, and its dirty lines written back, and then it loads (R103, R105). -/
def Sys2Proof.Claims.AcquireFollowsReleases : Prop :=
  ∀ s i d a va n sx p es u, loadOf (getReg s) i = some (d, a, va, n, sx, true) → s.hart.released = true →
    let v := acquireNow s
    frozen s.hart d = false → served v va n .read p es u → wordFree u.hart p →
    let w := atHomeOf u p
    ∃ t, exec i s = .next t ∧
      (dropOlds w w.hart.core p).onlyResult t d (extended n sx (scalarRead w w.hart p n)) (u.hart.pc + 4) ∧
      t.hart.released = false ∧ (∀ q ∈ t.packets, q.core ≠ s.hart.core) ∧ (∀ b ∈ t.dirty, b.core ≠ s.hart.core) ∧
      (drains s.hart → t.hart.buffer = [])

/-- What a scalar load leaves in rd, an acquire behind a release included. -/
def Obligations.LoadsComplete : Prop := LoadResults ∧ AcquireFollowsReleases

/-- A scalar store that passes its checks enters the store buffer behind the others, with its place, its width, its data, and what
it follows; no register and no byte of memory changes but through translation, and the pc moves on (R93, R161). -/
def Sys2Proof.Claims.StoreEntersBuffer : Prop :=
  ∀ s i d a va n rel sys p es u, storeOf (getReg s) i = some (d, a, va, n, rel, sys) → served s va n .write p es u →
    exec i s = .next { u with hart := { u.hart with
      buffer := u.hart.buffer ++ [⟨p, n, getReg u d, rel, sys, u.serial, u.hart.vseq, es⟩]
      released := u.hart.released || rel, pc := u.hart.pc + 4 } }

/-- The byte that a scalar load of the hart sees at a place covered by its youngest buffered store is that store's, and at every
other place what it saw before (R93, R105). -/
def Sys2Proof.Claims.StoreForwards : Prop :=
  ∀ s i d a va n rel sys p es u t, storeOf (getReg s) i = some (d, a, va, n, rel, sys) → served s va n .write p es u →
    exec i s = .next t →
    (∀ k, k < n → scalarByte t t.hart (p.plus k) = BitVec.ofNat 8 ((getReg u d).toNat / 256 ^ k)) ∧
    (∀ q, (∀ k, k < n → q ≠ p.plus k) → scalarByte t t.hart q = scalarByte u u.hart q)

/-- STORE_BUFFER_DRAIN performs the oldest store of a hart once it may be, and once what its home had to recover is handled: its
bytes, lowest first, at its place, the D bits of its translation, and no other byte of memory or of the hart's local memories; the
store leaves the buffer (R8, R93, R330, R367). -/
def Sys2Proof.Claims.DrainPerformsOldestStore : Prop :=
  ∀ s st rest, s.hart.core < 128 → s.hart.buffer = st :: rest → storeReady s.hart st = true → st.release = false →
    let w := atHomeOf { s with hart := { s.hart with buffer := rest } } st.place
    ∃ t, exec (.storeBufferDrain (Fin.ofNat 128 s.hart.core)) s = .next t ∧ t.hart.buffer = rest ∧
      (∀ k, k < st.size → byteAt t t.hart (st.place.plus k) = BitVec.ofNat 8 (st.data.toNat / 256 ^ k)) ∧
      (∀ q, (∀ k, k < st.size → q ≠ st.place.plus k) → (∀ x ∈ st.entries, ∀ k, k < 8 → q ≠ .phys (x.1 / 8 * 8 + k)) →
        byteAt t t.hart q = byteAt w w.hart q)

/-- A scalar store enters the buffer, is seen by the hart's own loads, and is performed when it drains. -/
def Obligations.StoresBuffered : Prop := StoreEntersBuffer ∧ StoreForwards ∧ DrainPerformsOldestStore

/-- A scalar access that is refused traps precisely with the cause, the address in TVAL and the address register in TOPND, and
writes no register (R149, R161). -/
def Sys2Proof.Claims.RefusedAccessTraps : Prop :=
  ∀ s i a va n w c st u, ((∃ d sx, loadOf (getReg s) i = some (d, a, va, n, sx, false) ∧ frozen s.hart d = false ∧ w = .read) ∨
      (∃ d rel sys, storeOf (getReg s) i = some (d, a, va, n, rel, sys) ∧ w = .write)) →
    reach s va n w = (.trap c st, u) → nested u.hart = false → u.hart.loop = none →
    ∃ t, exec i s = .next t ∧ t.hart.csr.cause = word c ∧ t.hart.csr.tval = va ∧
      t.hart.csr.topnd = word (a.val + 256) ∧ t.hart.csr.epc = u.hart.pc ∧ t.hart.pc = handler u.hart ∧
      t.hart.regs = u.hart.regs ∧ t.hart.buffer = u.hart.buffer

/-- A scalar access of a page that is not resident writes a batch of the one frame that holds its address, with bit 0 of its
flags where stage 2 misses and bit 1 for a store, adds one to BHEAD, and traps with 0x08 and the batch's number in TVAL; with the
ring full it waits (R161, R323, R327). -/
def Sys2Proof.Claims.PageFaultBatches : Prop :=
  ∀ s i a va n wr st u p, ((∃ d sx, loadOf (getReg s) i = some (d, a, va, n, sx, false) ∧ frozen s.hart d = false ∧ wr = false) ∨
      (∃ d rel sys, storeOf (getReg s) i = some (d, a, va, n, rel, sys) ∧ wr = true)) →
    reach s va n (if wr then .write else .read) = (.missing st, u) → mayEnter u.hart →
    u.parts[partOf u.hart]? = some p → p.pcpAddr.toNat % 4096 = 0 →
    let k := pcpWord u (partOf u.hart) 0x38
    (k - pcpWord u (partOf u.hart) 0x40 = 32 → exec i s = .next (stall u)) ∧
    (k - pcpWord u (partOf u.hart) 0x40 ≠ 32 →
      ∃ t, exec i s = .next t ∧ entered u t 0x08 k (word (a.val + 256)) u.hart.pc ∧ batchIs t u.hart p k
          [va.toNat / 4096 * 4096] ((if st then 1 else 0) + if wr then 2 else 0) ∧
        pcpWord t (partOf u.hart) 0x38 = k + 1)

/-- Where a scalar access goes by its address, and the trap of one that is refused, or meets a page that is not resident. -/
def Obligations.ScalarReach : Prop := LocalReach ∧ RefusedAccessTraps ∧ PageFaultBatches

/-- A scalar atomic whose checks pass, as a store and as a load, writes the old value, sign-extended, into rd, and at its word
leaves what R163 says; the hart's buffered stores are performed first, its vector stores too where it is a release, and what the
recovery buffer of its home holds (R93, R102, R163, R164, R367). -/
def Obligations.AtomicResults : Prop :=
  ∀ s i o d a b k sc z p es u, atomicOf i = some (o, d, a, b, k, sc, z) → frozen s.hart d = false → drains s.hart →
    let n := if z then 8 else 4
    let va := getReg s a
    reach s va n .write = (.ok p es, u) → (∃ q xs, (reach u va n .read).1 = .ok q xs) →
    watched s.hart va.toNat n .read = false → watched s.hart va.toNat n .write = false → dataBad u p n .read = false →
    let w := writeBackOwn (atHomeOf (beforeAtomic u k) p) p
    let old := scalarRead w w.hart p n
    ∃ t, exec i s = .next t ∧ getReg t d = (if d = 0 then 0 else extended n true old) ∧
      (∀ r, r ≠ d → getReg t r = getReg s r) ∧ t.hart.pc = s.hart.pc + 4 ∧ t.hart.buffer = [] ∧
      (k = .rel ∨ k = .ar → ∀ q ∈ t.packets, q.core ≠ s.hart.core) ∧
      (∀ j, j < n → byteAt t t.hart (p.plus j) =
        BitVec.ofNat 8 (amoLeaves o (8 * n) old (getReg s b).toNat (getReg s d).toNat / 256 ^ j)) ∧
      (∀ x, (∀ j, j < n → x ≠ p.plus j) → (∀ y ∈ es, ∀ j, j < 8 → x ≠ .phys (y.1 / 8 * 8 + j)) →
        byteAt t t.hart x = byteAt w w.hart x)

/-- A translation whose entry is cached and whose A bits are set already changes nothing
(R330, R333). -/
def Sys2Proof.Claims.CachedTranslationIsPure : Prop :=
  ∀ s e (va : Word) n a, va.toNat < 2 ^ 48 → findEntry s.hart.tlb (partOf s.hart) va.toNat = some e →
    (∀ x ∈ e.entries, word8 s x.1 ||| 0x100 = word8 s x.1) →
    (translate s s.hart.core (partOf s.hart) (supervisor s.hart) va n a).2 = s

/-- What translation changes in memory is A bits of valid table entries: every aligned word reads as before, or has bit 8 set
beside; a leaf of stage 2 that maps a table entry of stage 1 which is written so has its D bit, 9, set too (R330, R331). -/
def Sys2Proof.Claims.TranslationMarks : Prop :=
  ∀ s part super (va : Word) n a pa, pa % 8 = 0 →
    let t := (translate s s.hart.core part super va n a).2
    word8 t pa = word8 s pa ∨
      (entryValid (word8 s pa) = true ∧
        (word8 t pa = word8 s pa ||| 0x100 ∨
          (word8 t pa = word8 s pa ||| 0x300 ∧ ∃ y ∈ (probe s s.hart.core part super va n a).1.2, y.2 = true ∧ y.1 / 8 * 8 = pa)))

/-- A translation that succeeds is cached in the core's TLB, from where the next one takes it (R333). -/
def Sys2Proof.Claims.TranslationCaches : Prop :=
  ∀ s part super (va : Word) n a pa,
    let r := translate s s.hart.core part super va n a
    r.1.1 = .ok pa → ∃ e, findEntry r.2.hart.tlb part va.toNat = some e ∧ pa = e.pa + va.toNat % e.size

/-- What translation leaves: nothing with a cached entry whose bits are set; else, in memory, A bits of the entries it uses and the
D bit of a stage-2 leaf whose stage-1 entry it writes, and in the TLB the translation that it found. -/
def Obligations.TranslationEffects : Prop := CachedTranslationIsPure ∧ TranslationMarks ∧ TranslationCaches

/-! ### Checks before an effect, and CSRs -/

/-- An instruction whose scalar destination a replayed marked loop has frozen takes 0x0D at its own address and has no effect of
its own (R149, R242). -/
def Sys2Proof.Claims.FrozenScalarTraps : Prop :=
  ∀ s i d, plainTarget s i = some d → frozen s.hart d = true → nested s.hart = false →
    ∃ t, exec i s = .next t ∧ entered s t 0x0D (s.hart.ir.zeroExtend 64) (word (d.val + 256)) s.hart.pc

/-- A word of the vector queue that would write a carried vector register, as a destination of its own or as a member of its group,
takes 0x0D as it issues, with the lowest such register in TOPND; so does a write of VRCFG, which writes them all, and BGLD and GXL
whose status register is frozen (R17, R149, R180, R229, R242). -/
def Sys2Proof.Claims.FrozenAtIssueTraps : Prop :=
  ∀ p s x (r : Nat), s.hart.started = false → mustWait s x = false → vectorBusy s.hart = false → nested s.hart = false →
    let traps := fun (topnd : Word) => ∃ t, issue p s x = .next t ∧ entered s t 0x0D (s.hart.ir.zeroExtend 64) topnd s.hart.pc
    (∀ d : VReg, (uses x).vw = [d] → d.val ≤ r → r < d.val + groupOf s.hart.csr → r ∈ frozenRegs s.hart →
      (∀ q, d.val ≤ q → q < r → q ∉ frozenRegs s.hart) → traps (word (r + 512))) ∧
    (((∃ n, x = .vrcfg n) ∨ ∃ a, x = .csrw a 0x003 ∨ x = .csrs a 0x003 ∨ x = .csrc a 0x003) → r < 64 →
      r ∈ frozenRegs s.hart → (∀ q, q < r → q ∉ frozenRegs s.hart) → traps (word (r + 512))) ∧
    (∀ (d : VReg) b j m (e : SReg), (x = .bgld d b j m e ∨ x = .gxl d b j m e) → frozen s.hart e = true →
      (∀ q, d.val ≤ q → q < d.val + groupOf s.hart.csr → q ∉ frozenRegs s.hart) → traps (word (e.val + 256)))

/-- An instruction that the leader performs for its gang traps with 0x0D each member whose register is frozen, and every other
member with 0x21, which names the lowest core that trapped (R40, R149). -/
def Sys2Proof.Claims.FrozenGangTraps : Prop :=
  ∀ s i d, ((∃ a, i = .launch d a ∨ i = .cancel d a) ∨ (supervisor s.hart = true ∧ ∃ a, i = .harvest d a)) → coresApart s →
    (∀ h ∈ gangNow s, nested h = false ∧ (frozen h d = false → h.loop = none)) → (∃ h ∈ gangNow s, frozen h d = true) →
    ∃ t low, exec i s = .next t ∧ (∃ h ∈ gangNow s, h.core = low ∧ frozen h d = true) ∧
      (∀ h ∈ gangNow s, frozen h d = true → low ≤ h.core) ∧
      ∀ h ∈ gangNow s,
        if frozen h d then enteredBy h (hartAt t h.core) 0x0D (h.ir.zeroExtend 64) (word (d.val + 256)) h.pc
        else enteredBy h (hartAt t h.core) 0x21 (word low) 0 h.pc

/-- Whatever register a replayed marked loop has frozen, the instruction that would write it traps, and the rest of its gang with
it. -/
def Obligations.FrozenRegisterTraps : Prop := FrozenScalarTraps ∧ FrozenAtIssueTraps ∧ FrozenGangTraps

/-- CSRR reads any CSR of R42 that the mode may read into rd (R42, R166). -/
def Sys2Proof.Claims.CsrReadResults : Prop :=
  ∀ s d (c : BitVec 12) v, csrRead s c.toNat = some v →
    (csrWritable.csrForSupervisor c.toNat = true → supervisor s.hart = true) → frozen s.hart d = false →
    ∃ t, exec (.csrr d c) s = .next t ∧ s.onlyResult t d v (s.hart.pc + 4)

/-- A write, set or clear of a writable CSR, by an instruction or by a row of its own, that the CSR takes: the CSR reads as the
value (STATUS only in PVTYPE, MEN and PMODE), every other CSR as before, but VL where VTYPE or VRCFG changes; scalar registers
and memory are unchanged, and the pc moves only for an instruction (R42, R43, R165, R166, R321).  That the other bits of STATUS
are ignored is the model's reading (log 30). -/
def Sys2Proof.Claims.CsrWriteResults : Prop :=
  ∀ s i c f step old, csrChange (getReg s) i = some (c, f, step) → csrWritable c = true → csrRead s c = some old →
    (csrWritable.csrForSupervisor c = true → supervisor s.hart = true) → csrTakes s c (f old) = true →
    partOf s.hart < 16 → rowMayWrite s c step →
    ∃ t v, exec i s = .next t ∧ csrRead t c = some v ∧
      bitsAgree v (fun k => if c = 0x100 ∧ ¬((32 ≤ k ∧ k < 45) ∨ k = 4 ∨ k = 2 ∨ k = 3) then old.getLsbD k else (f old).getLsbD k) ∧
      (∀ x, x ≠ c → (x = 0x001 → c ≠ 0x002 ∧ c ≠ 0x003) → csrRead t x = csrRead s x) ∧
      t.hart.regs = s.hart.regs ∧ t.mem = s.mem ∧ t.hart.pc = s.hart.pc + step

/-- A write of VRCFG zeroes VL and every vector and mask register and makes all tags untyped and all progress complete; one of
VTYPE cuts VL to the new VLMAX; a row that writes either waits while the vector unit or a gather is not done (R17, R43). -/
def Sys2Proof.Claims.VectorCsrSideEffects : Prop :=
  ∀ s (v : Word) i j, (i = .vrcfgCsrWrite v ∨ i = .registerWrite 0x003 v) → (j = .vtypeCsrWrite v ∨ j = .registerWrite 0x002 v) →
    (vectorDone s.hart → csrTakes s 0x003 v = true → ∃ t, exec i s = .next t ∧ t.hart.csr.vl = 0 ∧ t.hart.vec.vrf = [] ∧
      (∀ r : Fin 64, t.hart.vec.tags[r] = 0 ∧ t.hart.vec.complete.getLsbD r = true) ∧
      (∀ m : Fin 8, t.hart.vec.masks[m] = 0 ∧ t.hart.vec.maskComplete.getLsbD m = true)) ∧
    (vectorDone s.hart → csrTakes s 0x002 v = true → ∃ t, exec j s = .next t ∧
      t.hart.csr.vl.toNat = Nat.min s.hart.csr.vl.toNat (vlmax { s.hart.csr with vtype := v })) ∧
    (¬vectorDone s.hart → exec i s = .next (stall s) ∧ exec j s = .next (stall s))

/-- A CSR access that R165 refuses traps at its own address with the word in TVAL: 0x01 for a number R42 does not list or a
register that is only read, 0x09 for a supervisor register in kernel mode, and the register's own cause for a value that it
does not take; no CSR is written (R165).  TVAL and TOPND of 0x09 are the model's reading (log 16). -/
def Sys2Proof.Claims.CsrRefusals : Prop :=
  ∀ s i c f step, csrChange (getReg s) i = some (c, f, step) → mayEnter s.hart → rowMayWrite s c step →
    (csrRead s c = none → ∃ t, exec i s = .next t ∧ entered s t 0x01 (s.hart.ir.zeroExtend 64) 0 s.hart.pc) ∧
    (∀ old, csrRead s c = some old →
      (csrWritable c = false → ∃ t, exec i s = .next t ∧ entered s t 0x01 (s.hart.ir.zeroExtend 64) 0 s.hart.pc) ∧
      (csrWritable.csrForSupervisor c = true → supervisor s.hart = false →
        ∃ t, exec i s = .next t ∧ entered s t 0x09 (s.hart.ir.zeroExtend 64) 0 s.hart.pc) ∧
      (csrWritable c = true → (csrWritable.csrForSupervisor c = true → supervisor s.hart = true) →
        csrTakes s c (f old) = false →
        ∃ t cause, exec i s = .next t ∧ entered s t cause (s.hart.ir.zeroExtend 64) 0 s.hart.pc ∧
          cause = (if c = 0x020 ∧ slbaseOk (f old) = true then 0x01
            else if c = 0x100 ∧ (f old).toNat / 4 % 4 = 2 then 0x09 else 0x02)))

/-- CSRR of a number that R42 does not list traps with 0x01, and of a supervisor register in kernel mode with 0x09 (R42, R165). -/
def Sys2Proof.Claims.CsrReadRefusals : Prop :=
  ∀ s d (c : BitVec 12), frozen s.hart d = false → mayEnter s.hart →
    (csrRead s c.toNat = none → ∃ t, exec (.csrr d c) s = .next t ∧ entered s t 0x01 (s.hart.ir.zeroExtend 64) 0 s.hart.pc) ∧
    (csrWritable.csrForSupervisor c.toNat = true → supervisor s.hart = false →
      ∃ t, exec (.csrr d c) s = .next t ∧ entered s t 0x09 (s.hart.ir.zeroExtend 64) 0 s.hart.pc)

/-- The word of a CSR instruction is its template with its one register and the number in imm12; the other register is
reserved (R165). -/
def Sys2Proof.Claims.CsrWords : Prop :=
  ∀ (d a : SReg) (c : BitVec 12),
    let w := fun (rd rs1 : SReg) (funct4 : Nat) => 0x74000000 + rd.val * 2 ^ 21 + rs1.val * 2 ^ 16 + c.toNat * 2 ^ 4 + funct4
    decode (w d 0 0) = .ok (.csrr d c) ∧ decode (w 0 a 1) = .ok (.csrw a c) ∧ decode (w 0 a 2) = .ok (.csrs a c) ∧
      decode (w 0 a 3) = .ok (.csrc a c) ∧ (a ≠ 0 → ∃ i, decode (w d a 0) = .reserved i) ∧
      ∀ k, 1 ≤ k → k ≤ 3 → d ≠ 0 → ∃ i, decode (w d a k) = .reserved i

/-- What the CSR instructions are and do: what they read and write, and each check that refuses them. -/
def Obligations.CsrAccessResults : Prop :=
  CsrReadResults ∧ CsrWriteResults ∧ VectorCsrSideEffects ∧ CsrRefusals ∧ CsrReadRefusals ∧ CsrWords

/-! ### Traps and return -/

/-- TRAP enters its trap with cause 0x19, its code in TVAL and the next word's address in EPC, and BKPT with cause 0x18 at its
own address (R167, R323); the row TRAP_ENTRY, whose form is the model's (log 50), does the same for each cause of R324's table, in a
hart that runs alone. -/
def Sys2Proof.Claims.TrapInstructionsEnter : Prop :=
  ∀ s, mayEnter s.hart →
    (∀ c : BitVec 12, ∃ t, exec (.trap c) s = .next t ∧ entered s t 0x19 (c.zeroExtend 64) 0 (s.hart.pc + 4)) ∧
    (∀ c : BitVec 12, ∃ t, exec (.bkpt c) s = .next t ∧ entered s t 0x18 (c.zeroExtend 64) 0 s.hart.pc) ∧
    (∀ (c : BitVec 8) v x, gangSize s.hart = 1 →
      c ∈ [0x01, 0x02, 0x03, 0x04, 0x05, 0x06, 0x08, 0x09, 0x0A, 0x0B, 0x0C, 0x0D, 0x0E, 0x10, 0x18, 0x19, 0x1A, 0x21] →
      ∃ t, exec (.trapEntry c v x) s = .next t ∧
        entered s t c.toNat v x (if c = 0x19 then s.hart.pc + 4 else s.hart.pc))

/-- In a gang the row TRAP_ENTRY, whose form is the model's (log 50), traps the acting member with its cause and every other member
with 0x21, which names the core that trapped, at the next word of each (R40, R324). -/
def Sys2Proof.Claims.GangTrapsTogether : Prop :=
  ∀ s (c : BitVec 8) v x, coresApart s → s.hart ∈ gangNow s → (∀ h ∈ gangNow s, mayEnter h) →
    c ∈ [0x01, 0x02, 0x03, 0x04, 0x05, 0x06, 0x08, 0x09, 0x0A, 0x0B, 0x0C, 0x0D, 0x0E, 0x10, 0x18, 0x19, 0x1A] →
    ∃ t, exec (.trapEntry c v x) s = .next t ∧ entered s t c.toNat v x (if c = 0x19 then s.hart.pc + 4 else s.hart.pc) ∧
      ∀ h ∈ gangNow s, h.core ≠ s.hart.core → enteredBy h (hartAt t h.core) 0x21 (word s.hart.core) 0 h.pc

/-- Some instructions that trap in a given state with a hart that runs alone, and what each is to record of its trap: TRAP and BKPT
(R167), an indirect jump to a misaligned target (R159), a CSR access of a number that R42 does not list (R165), and the row
TRAP_ENTRY for a cause of R324's table (its form is the model's, log 50). -/
def Sys2Proof.Claims.trapOf (s : State) (i : Instr) : Option TrapInfo :=
  let h := s.hart
  let at_ := fun (cause : Nat) (tval topnd : Word) => some (⟨cause, tval, topnd, h.pc, h.pc, h.ir, 0, 0, 0⟩ : TrapInfo)
  match i with
  | .trap c => some ⟨0x19, c.zeroExtend 64, 0, h.pc + 4, h.pc, h.ir, 0, 0, 0⟩
  | .bkpt c => some ⟨0x18, c.zeroExtend 64, 0, h.pc, h.pc, h.ir, h.convoy.head, h.convoy.count, 0⟩
  | .jr a => if (getReg s a).toNat % 4 ≠ 0 then at_ 0x06 (getReg s a) (word (a.val + 256)) else none
  | .csrw _ c => if csrRead s c.toNat = none then at_ 0x01 (h.ir.zeroExtend 64) 0 else none
  | .trapEntry c v x =>
    if gangSize h = 1 ∧ c.toNat ∈ [0x01, 0x02, 0x03, 0x04, 0x05, 0x06, 0x08, 0x09, 0x0A, 0x0C, 0x0D, 0x0E, 0x10, 0x1A, 0x21]
    then at_ c.toNat v x else none
  | _ => none

/-- Every trap entry writes the 64 bytes of a fault record, whose fields are the trap's, into the ring of the partition control page
at FHEAD modulo 128, and adds one to FHEAD; no other byte of memory changes, but for the trace record of a breakpoint or watchpoint
where the trace unit keeps records (R323, R326, R388).  TRAP, BKPT, JR to a misaligned target, CSRW of a number that R42 does not list
and the model's row TRAP_ENTRY (log 50) enter so. -/
def Obligations.TrapWritesFaultRecord : Prop :=
  (∀ s i x, trapOf s i = some x → nested s.hart = false → exec i s = .next (takeTrap s x)) ∧
  ∀ s p (x : TrapInfo), nested s.hart = false → s.parts[partOf s.hart]? = some p → p.pcpAddr.toNat % 4096 = 0 →
    let h := s.hart
    let b := p.pcpAddr.toNat
    let n := pcpWord s (partOf h) 0x30
    let at_ := b + 0x1000 + 64 * (n.toNat % 128)
    let t := takeTrap s x
    let field := fun (lo len : Nat) => bytesNat (readBytes t (at_ + lo) len)
    (x.cause ≠ 0x18 ∧ x.cause ≠ 0x1A ∨ traceOn h 0 = false →
      field 0 1 = h.core / 32 % 256 ∧ field 1 1 = h.core / 8 % 4 ∧ field 2 1 = h.core % 8 ∧ field 3 1 = h.core % 256 ∧
      field 4 4 = (launchOf h + 2 ^ 24 * partOf h) % 2 ^ 32 ∧ field 8 8 = x.pc.toNat ∧ field 16 8 = x.head.toNat ∧
      field 24 1 = x.members % 256 ∧ field 25 1 = x.cause % 256 ∧ field 26 1 = x.flags % 256 ∧ field 27 1 = 0 ∧
      field 28 4 = x.ir.toNat ∧ field 32 8 = x.topnd.toNat ∧ field 40 8 = x.tval.toNat ∧
      field 48 8 = deviceTime s % 2 ^ 64 ∧ field 56 8 = n.toNat ∧
      pcpWord t (partOf h) 0x30 = n + 1 ∧
      ∀ y, ¬(at_ ≤ y ∧ y < at_ + 64) → ¬(b + 0x30 ≤ y ∧ y < b + 0x38) → sget t.mem y = sget s.mem y)

/-- A trap of any cause met while a handler runs does not enter its vector: the launch ends with STATE 3, its cores are freed, its
husks are gone and its entry has every hart gone (R323).  TRAP, BKPT, JR to a misaligned target, CSRW of a number that R42 does not
list and the model's row TRAP_ENTRY (log 50) end it so. -/
def Obligations.NestedTrapEndsLaunch : Prop :=
  (∀ s i x, trapOf s i = some x → nested s.hart = true → gangSize s.hart = 1 → exec i s = .next (takeTrap s x)) ∧
  ∀ s o (x : TrapInfo), nested s.hart = true → s.hart.owner = some o →
    let t := takeTrap s x
    t.hart.owner = none ∧ t.hart.run = .idle ∧ (∀ h ∈ t.others, runsFor h o.part o.launch = false) ∧
      (∀ k ∈ t.husks, k.part = o.part → runsFor k.image o.part o.launch = true → k.resumed = true) ∧
      ∀ l ∈ t.launches, l.part = o.part → l.id = o.launch → l.failed = true ∧ l.gone = l.size * l.gangs

/-- TRET in supervisor or hypervisor mode with an aligned EPC goes to EPC, restores MODE and VTYPE and clears NEST; no other
CSR, no register and no byte of memory changes (R167, R323). -/
def Sys2Proof.Claims.ReturnRestores : Prop :=
  ∀ s, supervisor s.hart = true → s.hart.csr.epc.toNat % 4 = 0 →
    ∃ t, exec .tret s = .next t ∧ t.hart.pc = s.hart.csr.epc ∧
      t.hart.csr = { s.hart.csr with status := t.hart.csr.status, vtype := t.hart.csr.vtype } ∧
      bitsAgree t.hart.csr.vtype (fun k => decide (k < 13) && s.hart.csr.status.getLsbD (32 + k)) ∧
      bitsAgree t.hart.csr.status (fun k =>
        if k < 2 then s.hart.csr.status.getLsbD (k + 2) else if k = 5 then false else s.hart.csr.status.getLsbD k) ∧
      t.hart.regs = s.hart.regs ∧ t.mem = s.mem

/-- TRET executed by code other than device supervisor code takes 0x09; one whose EPC has bits [1:0] non-zero takes 0x06 at the
TRET with EPC in TVAL (R168). -/
def Sys2Proof.Claims.ReturnRefused : Prop :=
  ∀ s, mayEnter s.hart →
    (supervisor s.hart = false → ∃ t v x, exec .tret s = .next t ∧ entered s t 0x09 v x s.hart.pc) ∧
    (supervisor s.hart = true → s.hart.csr.epc.toNat % 4 ≠ 0 →
      ∃ t x, exec .tret s = .next t ∧ entered s t 0x06 s.hart.csr.epc x s.hart.pc)

/-- What TRET restores, and where it traps. -/
def Obligations.TrapReturns : Prop := ReturnRestores ∧ ReturnRefused

/-- An instruction that needs device supervisor code takes 0x09 in kernel mode, but CLAIM and UNCLAIM on a hypervisor hart, and
TRET with a misaligned EPC takes 0x06 with EPC in TVAL (R149, R168, R267 to R269, R322).  TVAL and TOPND of 0x09, and TOPND 0 of
TRET's 0x06, are the model's reading (log 16). -/
def Sys2Proof.Claims.PrivilegedTraps : Prop :=
  ∀ s, mayEnter s.hart →
    (∀ i, (i = .tret ∨ ((∃ d a, i = .claim d a ∨ i = .unclaim d a) ∧ onHyper s = false) ∨ (∃ a n, i = .cevt a n) ∨
        (gangSize s.hart = 1 ∧ ((∃ a, i = .sfenceT a) ∨ ∃ d a, i = .harvest d a))) → supervisor s.hart = false →
      ∃ t, exec i s = .next t ∧ entered s t 0x09 (s.hart.ir.zeroExtend 64) 0 s.hart.pc) ∧
    (supervisor s.hart = true → s.hart.csr.epc.toNat % 4 ≠ 0 →
      ∃ t, exec .tret s = .next t ∧ entered s t 0x06 s.hart.csr.epc 0 s.hart.pc)

/-- The trap instructions and the privilege checks enter their traps. -/
def Obligations.TrapCauses : Prop := TrapInstructionsEnter ∧ GangTrapsTogether ∧ PrivilegedTraps

/-! ### Waiting and fences -/

/-- WAIT with the event latch set clears it and goes on, and otherwise stops fetch; WAIT_TIMEOUT ends a wait that began 65,536
cycles ago, and no earlier one (R169). -/
def Sys2Proof.Claims.WaitOutcomes : Prop :=
  ∀ s : State,
    (s.hart.csr.status.getLsbD 6 = true → ∃ t, exec .wait s = .next t ∧
      t = { s with hart := { s.hart with pc := s.hart.pc + 4, run := .running, csr := { s.hart.csr with status := t.hart.csr.status } } } ∧
      bitsAgree t.hart.csr.status (fun k => decide (k ≠ 6) && s.hart.csr.status.getLsbD k)) ∧
    (s.hart.csr.status.getLsbD 6 = false → ∃ t, exec .wait s = .next t ∧
      t = { s with hart := { s.hart with pc := s.hart.pc + 4, run := .waitEvent s.clock } }) ∧
    (∀ since, s.hart.core < 128 → s.hart.run = .waitEvent since →
      ∃ t, exec (.waitTimeout (Fin.ofNat 128 s.hart.core)) s = .next t ∧
        (if since + 65536 ≤ s.clock then t.hart.run = .running ∧ t.hart.csr.status.getLsbD 6 = false ∧ t.hart.pc = s.hart.pc
          else t = s))

/-- A fence completes once what it waits for is performed: no store of the hart is left in the buffer, no vector store of it
on its way, no line of its scalar L1 dirty, no fetched word cached, each where the fence covers it; no register changes, and the
pc moves on (R100, R101, R171). -/
def Sys2Proof.Claims.FencesComplete : Prop :=
  ∀ s i st vs l1 w, fenceOf i = some (st, vs, l1, w) → drains s.hart → s.hart.loads = [] →
    ∃ t, exec i s = .next t ∧ t.hart.pc = s.hart.pc + 4 ∧ t.hart.regs = s.hart.regs ∧ t.hart.vec = s.hart.vec ∧
      t.hart.csr = s.hart.csr ∧
      (st = true → t.hart.buffer = []) ∧ (vs = true → ∀ p ∈ t.packets, p.core ≠ s.hart.core) ∧
      (l1 = true → ∀ b ∈ t.dirty, b.core ≠ s.hart.core) ∧ (w = true → t.hart.fetched = []) ∧
      (s.hart.buffer = [] → (∀ p ∈ s.packets, p.core ≠ s.hart.core) → t.mem = s.mem)

/-- WAIT and its timeout, and the fences of a single hart. -/
def Obligations.WaitsAndFences : Prop := WaitOutcomes ∧ FencesComplete

/-- GSYNC completes for every member of the gang, with every earlier access of each performed; SFENCE.T of device supervisor
code leaves no core and no die with a cached translation of the partition that it fences, of stage 1, or in hypervisor mode what
comes of stage 2: all, or those of the page of that stage that holds the address; every member goes on (R104, R261, R331, R334). -/
def Sys2Proof.Claims.GangWideFences : Prop :=
  ∀ s, coresApart s →
    ((∀ h ∈ gangNow s, drains h) → ∃ t, exec .gsync s = .next t ∧ membersNow s t (fun h g => g.buffer = [] ∧ g.regs = h.regs) ∧
      ∀ h ∈ gangNow s, (∀ p ∈ t.packets, p.core ≠ h.core) ∧ ∀ b ∈ t.dirty, b.core ≠ h.core) ∧
    (∀ a, supervisor s.hart = true → ∃ t, exec (.sfenceT a) s = .next t ∧
      membersNow s t (fun h g => g.regs = h.regs ∧ g.csr = h.csr) ∧
      let l := leaderNow s
      let va := (getReg (focus s l.core) a).toNat
      let gone := fun (e : TlbEntry) => e.part = partOf l →
        (modeOf l ≠ 2 → e.stage = 1 → a ≠ 0 ∧ va / e.spans.1 ≠ e.page / e.spans.1) ∧
        (modeOf l = 2 → a ≠ 0 ∧ va / e.spans.2 ≠ e.ipa / e.spans.2)
      (∀ h ∈ t.harts, ∀ e ∈ h.tlb, gone e) ∧ ∀ x ∈ t.dieTlb, gone x.2)

/-- HARVEST in supervisor or hypervisor mode writes into rd of every member the D bits that it read and cleared in 64 pages, and
0 for a page-size code that R335 does not give, where memory is unchanged (R267, R335). -/
def Sys2Proof.Claims.HarvestResults : Prop :=
  ∀ s d a, coresApart s → supervisor s.hart = true → (∀ h ∈ gangNow s, frozen h d = false) →
    let l := leaderNow s
    let v := (getReg (focus s l.core) a).toNat
    ∃ t, exec (.harvest d a) s = .next t ∧
      (5 ≤ v % 8 → membersNow s t (fun h g => ∀ r, getReg { t with hart := g } r = if r = d then 0 else getReg { s with hart := h } r) ∧
        t.mem = s.mem) ∧
      (v % 8 < 5 →
        let z := classSize (v % 8)
        let x := harvest s l.core (partOf l) (modeOf l == 2) (v / (64 * z) * (64 * z)) z
        membersNow s t (fun h g => ∀ r, getReg { t with hart := g } r =
          if r = d ∧ d ≠ 0 then word x.1 else getReg { s with hart := h } r) ∧ t.mem = x.2.mem)

/-- GSYNC, SFENCE.T and HARVEST complete for every member of the gang. -/
def Obligations.GangFences : Prop := GangWideFences ∧ HarvestResults

/-! ### Claims and counters -/

/-- CLAIM and UNCLAIM in device supervisor code, and on a hypervisor hart in whatever mode, complete with the code that R268 gives:
0 where the world holds the resource afterwards (before, for UNCLAIM), 1 or 3 where it does not, 2 for a number above 4; a claimed
bank is zeroed and held, and a resource given up is free (R268, R322, R382, R387). -/
def Sys2Proof.Claims.ClaimResults : Prop :=
  ∀ s d a, supervisor s.hart = true ∨ onHyper s = true → frozen s.hart d = false →
    let n := (getReg s a).toNat
    let w := if onHyper s then World.hypervisor else World.guest
    (∃ t, exec (.claim d a) s = .next t ∧ t.hart.pc = s.hart.pc + 4 ∧ (∀ r, r ≠ d → getReg t r = getReg s r) ∧
      (d ≠ 0 → getReg t d = if 4 < n then 2 else if holderOf s.hart n = none ∨ holderOf s.hart n = some w then 0 else 1) ∧
      (n ≤ 4 → holderOf t.hart n = some ((holderOf s.hart n).getD w)) ∧
      (∀ h : n < 4, holderOf s.hart n = none →
        (t.hart.banks[n]).selects = Vector.replicate 6 0 ∧ (t.hart.banks[n]).counts = Vector.replicate 8 0) ∧
      (∀ k : Fin 4, k.val ≠ n → t.hart.banks[k] = s.hart.banks[k]) ∧ (n ≠ 4 → t.mem = s.mem)) ∧
    (∃ t, exec (.unclaim d a) s = .next t ∧ t.hart.pc = s.hart.pc + 4 ∧ (∀ r, r ≠ d → getReg t r = getReg s r) ∧
      (d ≠ 0 → getReg t d = if 4 < n then 2 else if holderOf s.hart n = some w then 0 else 3) ∧
      (n ≤ 4 → holderOf t.hart n = if holderOf s.hart n = some w then none else holderOf s.hart n) ∧
      (∀ k ≤ 4, k ≠ n → holderOf t.hart k = holderOf s.hart k) ∧ t.mem = s.mem)

/-- A counter of a bank that the world holds reads whole (CRD), in its low half with the high half latched (CRDLO), or in its
high half, from the latch where it holds that counter's (CRDHI); CEVT writes a select and zeroes its count (R269, R383). -/
def Sys2Proof.Claims.CounterResults : Prop :=
  ∀ s (n : BitVec 12) v, counterOf s.hart n.toNat = some v →
    holderOf s.hart (n.toNat / 8) = some (if onHyper s then .hypervisor else .guest) →
    (∀ d, frozen s.hart d = false →
      (∃ t, exec (.crd d n) s = .next t ∧ s.onlyResult t d v (s.hart.pc + 4)) ∧
      (∃ t, exec (.crdlo d n) s = .next t ∧ t.hart.latch = ⟨true, n.toNat, (v >>> 32).setWidth 32⟩ ∧
        ({ s with hart := { s.hart with latch := t.hart.latch } } : State).onlyResult t d (v &&& 0xFFFFFFFF) (s.hart.pc + 4)) ∧
      (∃ t, exec (.crdhi d n) s = .next t ∧ t.hart.latch.valid = false ∧
        ({ s with hart := { s.hart with latch := t.hart.latch } } : State).onlyResult t d
          (if s.hart.latch.valid = true ∧ s.hart.latch.n = n.toNat then s.hart.latch.high.zeroExtend 64 else v >>> 32)
          (s.hart.pc + 4))) ∧
    (∀ a, supervisor s.hart = true → n.toNat % 8 < 6 → selectOk ((getReg s a).toNat % 2 ^ 16) = true →
      ∃ t, exec (.cevt a n) s = .next t ∧ t.hart.pc = s.hart.pc + 4 ∧ t.hart.regs = s.hart.regs ∧
        counterOf t.hart n.toNat = some 0 ∧
        ((t.hart.banks[n.toNat / 8]?).bind (fun b => b.selects[n.toNat % 8]?)) = some ((getReg s a).setWidth 16) ∧
        ∀ k, k ≠ n.toNat → counterOf t.hart k = counterOf s.hart k)

/-- A counter that does not exist traps with 0x01, one of a bank that the world does not hold with 0x09 (R269), whose TVAL and TOPND
are the model's reading (log 16). -/
def Sys2Proof.Claims.CounterTraps : Prop :=
  ∀ s i (n : BitVec 12) d, (i = .crd d n ∨ i = .crdlo d n ∨ i = .crdhi d n) → frozen s.hart d = false → mayEnter s.hart →
    (32 ≤ n.toNat → ∃ t, exec i s = .next t ∧ entered s t 0x01 (s.hart.ir.zeroExtend 64) 0 s.hart.pc) ∧
    (n.toNat < 32 → holderOf s.hart (n.toNat / 8) ≠ some (if onHyper s then .hypervisor else .guest) →
      ∃ t, exec i s = .next t ∧ entered s t 0x09 (s.hart.ir.zeroExtend 64) 0 s.hart.pc)

/-- CLAIM, UNCLAIM and the counters, with the counters' traps. -/
def Obligations.CountersAndClaims : Prop := ClaimResults ∧ CounterResults ∧ CounterTraps

/-! ### Vector configuration and masks -/

/-- VSETVL grants the smaller of the request and VLMAX, VSETVT does so under the VTYPE it writes, and MSETVL sets VL one above
the lowest set bit of a mask below VL, or leaves it; each writes the new VL to rd (R181, R182, R195). -/
def Sys2Proof.Claims.LengthGrants : Prop :=
  ∀ s d, frozen s.hart d = false → freshStart s.hart →
    (∀ a, ∃ t, exec (.vsetvl d a) s = .next t ∧
      t.hart.csr = { s.hart.csr with vl := BitVec.ofNat 64 (Nat.min (getReg s a).toNat (vlmax s.hart.csr)) } ∧
      ({ s with hart := { s.hart with csr := t.hart.csr } } : State).onlyResult t d t.hart.csr.vl (s.hart.pc + 4)) ∧
    (∀ a (i : BitVec 13), csrTakes s 0x002 (i.zeroExtend 64) = true → ∃ t, exec (.vsetvt d a i) s = .next t ∧
      (let c := { s.hart.csr with vtype := i.zeroExtend 64 }
      t.hart.csr = { c with vl := BitVec.ofNat 64 (Nat.min (getReg s a).toNat (vlmax c)) }) ∧
      ({ s with hart := { s.hart with csr := t.hart.csr } } : State).onlyResult t d t.hart.csr.vl (s.hart.pc + 4)) ∧
    (∀ a : MReg, ∃ t, exec (.msetvl d a) s = .next t ∧
      t.hart.csr = { s.hart.csr with vl := t.hart.csr.vl } ∧
      (∀ k, k < lengthOf s.hart → maskBit s.hart a.val k = true → (∀ j, j < k → maskBit s.hart a.val j = false) →
        t.hart.csr.vl = BitVec.ofNat 64 (k + 1)) ∧
      ((∀ k, k < lengthOf s.hart → maskBit s.hart a.val k = false) → t.hart.csr.vl = s.hart.csr.vl) ∧
      (carryDone { s with hart := { s.hart with csr := t.hart.csr } }).onlyResult t d t.hart.csr.vl (s.hart.pc + 4))

/-- VRCFG zeroes VL and the vector registers and masks under the new configuration; VTAG sets the tags of an aligned group and
changes no bit; VPROG reads index and completion of a register (R183, R184, R201). -/
def Sys2Proof.Claims.VectorConfiguration : Prop :=
  ∀ s : State,
    (∀ n : Fin 4, ∃ t, exec (.vrcfg n) s = .next t ∧ t.hart.csr = { s.hart.csr with vrcfg := BitVec.ofNat 64 n.val, vl := 0 } ∧
      t.hart.vec.vrf = [] ∧ t.hart.vec.masks = Vector.replicate 8 0 ∧ t.hart.vec.tags = Vector.replicate 64 0 ∧
      t.hart.vec.complete = BitVec.allOnes 64 ∧ t.hart.vec.acc = s.hart.vec.acc ∧ t.hart.regs = s.hart.regs ∧
      t.hart.pc = s.hart.pc + 4 ∧ t.mem = s.mem) ∧
    (∀ (d : VReg) (k : Fin 16), k.val < 5 → d.val % groupOf s.hart.csr = 0 → d.val + groupOf s.hart.csr ≤ regCount s.hart.csr →
      ∃ t, exec (.vtag d k) s = .next t ∧ groupWritten s t d.val k.val ∧ t.hart.vec.vrf = s.hart.vec.vrf ∧
        wentOn s t none ∧ t.hart.csr = s.hart.csr) ∧
    (∀ d (a : VReg), frozen s.hart d = false → a.val % groupOf s.hart.csr = 0 →
      a.val + groupOf s.hart.csr ≤ regCount s.hart.csr → ∃ t, exec (.vprog d a) s = .next t ∧
        s.onlyResult t d (BitVec.ofNat 64 (s.hart.vec.index[a] + if s.hart.vec.complete.getLsbD a then 2 ^ 32 else 0))
          (s.hart.pc + 4))

/-- The mask instructions write bits 0 to VL - 1 of md, the bits up to VLMAX under TPOL, and no other mask; MPOPC counts the set
bits below VL, and MFIRST gives the lowest, or all ones (R177, R195). -/
def Sys2Proof.Claims.MaskResults : Prop :=
  ∀ s : State, freshStart s.hart →
    let bit := fun (m : MReg) e => (s.hart.vec.masks[m]).testBit e
    (∀ i (d : MReg) (f : Nat → Bool),
      ((∃ a b, i = .mand d a b ∧ f = fun e => bit a e && bit b e) ∨ (∃ a b, i = .mor d a b ∧ f = fun e => bit a e || bit b e) ∨
        (∃ a b, i = .mxor d a b ∧ f = fun e => bit a e ^^ bit b e) ∨ (∃ a b, i = .mandn d a b ∧ f = fun e => bit a e && !bit b e) ∨
        (∃ a, i = .mnot d a ∧ f = fun e => !bit a e) ∨ ∃ a, i = .mmov d a ∧ f = bit a) →
      ∃ t, exec i s = .next t ∧ wentOn s t (some d.val) ∧ maskWritten s t d (lengthOf s.hart) (fun _ => true) f ∧
        t.hart.vec.vrf = s.hart.vec.vrf ∧ t.hart.vec.tags = s.hart.vec.tags ∧ t.hart.csr = s.hart.csr) ∧
    (∀ d (a : MReg), frozen s.hart d = false →
      (∃ t, exec (.mpopc d a) s = .next t ∧
        (carryDone s).onlyResult t d (BitVec.ofNat 64 ((List.range (lengthOf s.hart)).countP (bit a))) (s.hart.pc + 4)) ∧
      (∃ t v, exec (.mfirst d a) s = .next t ∧ (carryDone s).onlyResult t d v (s.hart.pc + 4) ∧
        (∀ k, k < lengthOf s.hart → bit a k = true → (∀ j, j < k → bit a j = false) → v = BitVec.ofNat 64 k) ∧
        ((∀ k, k < lengthOf s.hart → bit a k = false) → v = -1)))

/-- The instructions that set the vector length and configuration, and the mask instructions. -/
def Obligations.VectorSettings : Prop := LengthGrants ∧ VectorConfiguration ∧ MaskResults

/-! ### Elementwise instructions -/

/-- An elementwise instruction that R20 and R179 accept and whose active elements raise no enabled flag completes: each element
is the operation on the old elements of its sources, with predicate, tail, tag and progress as the rules say, the flags are
joined into FCSR, and no other vector register, no scalar register and no memory changes (R20, R175, R177, R185 to R193). -/
def Obligations.ElementwiseResults : Prop :=
  ∀ s i o d srcs m, elemRow (getReg s) i = some (o, d, srcs, m) → freshStart s.hart →
    (⟨o, d, srcs, m⟩ : ElemWord).rejects s.hart = none →
    ∀ tag, (⟨o, d, srcs, m⟩ : ElemWord).result s.hart = .inl tag →
    let n := lengthOf s.hart
    let v := elemValue s o srcs m tag
    let act := elemActive s o m
    (∀ e, e < n → act e = true → (v e).2 &&& bits s.hart.csr.fcsr 5 5 = 0) →
    ∃ t, exec i s = .next t ∧
      t.hart.csr = { s.hart.csr with fcsr := t.hart.csr.fcsr } ∧
      (t.hart.csr.fcsr = s.hart.csr.fcsr |||
        word (((List.range n).filter act).foldl (fun fl e => fl ||| (v e).2) 0 % 32)) ∧
      (match o with
        | .cmp .. => ∀ k : Fin 8, k.val = d → wentOn s t (some d) ∧ t.hart.vec.vrf = s.hart.vec.vrf ∧
            t.hart.vec.tags = s.hart.vec.tags ∧ maskWritten s t k n act (fun e => (v e).1 != 0)
        | _ => wentOn s t none ∧ elementsWritten s t d tag n n act (fun e => (v e).1))

/-- On two sources of one integer tag, the integer operations wrap, saturate not, divide and shift as R75 and R185 say, bit for
bit as the bit-vector operation of that width. -/
def Obligations.IntegerElements : Prop :=
  ∀ (s : State) o m tag (x y : Nat), (tag = 3 ∨ tag = 4) → x < 2 ^ tagBits tag → y < 2 ^ tagBits tag →
    ∀ z, intElement o (BitVec.ofNat (tagBits tag) x) (BitVec.ofNat (tagBits tag) y) = some z →
      compute o s.hart.csr [tag, tag] tag [x, y] m = (z.toNat, 0)

/-- The first active element of an elementwise instruction that raises an enabled flag traps with 0x10: TVAL holds its flags,
TOPND its element, EPC the next word; the elements below it are written and it and those above are not, and the vector
unit holds the instruction to compute that element's group again (R73, R175, R399). -/
def Obligations.ElementFlagTraps : Prop :=
  ∀ s i o d srcs m, elemRow (getReg s) i = some (o, d, srcs, m) → freshStart s.hart → mayEnter s.hart →
    (∀ u c, o ≠ .cmp u c) → (⟨o, d, srcs, m⟩ : ElemWord).rejects s.hart = none →
    ∀ tag, (⟨o, d, srcs, m⟩ : ElemWord).result s.hart = .inl tag →
    let v := elemValue s o srcs m tag
    let act := elemActive s o m
    ∀ e, e < lengthOf s.hart → act e = true → (v e).2 &&& bits s.hart.csr.fcsr 5 5 ≠ 0 →
      (∀ j, j < e → act j = true → (v j).2 &&& bits s.hart.csr.fcsr 5 5 = 0) →
      ∃ t, exec i s = .next t ∧ t.hart.csr.cause = 0x10 ∧ t.hart.csr.tval = word (v e).2 ∧
        t.hart.csr.topnd = word (d + 512 + 2 ^ 32 * e) ∧ t.hart.csr.epc = s.hart.pc + 4 ∧ t.hart.pc = handler s.hart ∧
        t.hart.started = true ∧ (∃ k, t.hart.held = some k ∧ k.start = e / 64 * 64 ∧ k.ir = s.hart.ir ∧ k.pc = s.hart.pc) ∧
        (∀ j, j < e → getElem t.hart d (narrowTag tag) j =
          if act j then (v j).1 % 2 ^ tagBits tag else if ipolOf s.hart.csr then 0 else getElem s.hart d (narrowTag tag) j) ∧
        (∀ j, e ≤ j → j < capacity s.hart.csr tag → getElem t.hart d (narrowTag tag) j = getElem s.hart d (narrowTag tag) j)

/-- The result tag that R185's table gives an arithmetic operation for a first and a second source tag, or none for T. -/
def Sys2Proof.Claims.tableTag (o : ElemOp) (x y : Nat) : Option Nat :=
  let floats := (x = 1 ∨ x = 2) ∧ (y = 1 ∨ y = 2)
  let ints := (x = 3 ∨ x = 4) ∧ (y = 3 ∨ y = 4)
  let int := if x = 4 ∧ y = 4 then 4 else 3
  match o with
  | .add | .sub | .rsub | .mul | .div false | .min false | .max false | .abs | .neg | .fma | .fms | .fnma | .clamp | .cmp false _ =>
    if floats then some (if x = 2 ∧ y = 2 then 2 else 1) else if ints then some int else none
  | .sqrt | .rece | .rsqe | .exp2 | .log2 => if floats ∧ x = y then some x else none
  | .mulh _ | .rem _ | .sadd _ | .ssub _ | .div true | .min true | .max true | .cmp true _ => if ints then some int else none
  | .and | .or | .xor => if ints ∧ x = y then some x else none
  | .shl | .shr | .sra => if ints then some x else none
  | .mov | .sel | .cvt .. | .bcast _ => none

/-- The vector register operands of a row of the elementwise table, in operand order: a compare's destination is a mask (R20). -/
def Sys2Proof.Claims.vectorOperands (o : ElemOp) (d : Nat) (srcs : List Nat) : List Nat :=
  match o with
  | .cmp .. => srcs
  | _ => d :: srcs

/-- The tag that the destination of a row takes, where its check knows one (R20, R185). -/
def Sys2Proof.Claims.destTag (h : Hart) (o : ElemOp) (d : Nat) (srcs : List Nat) (m : MReg) : Option Nat :=
  match o with
  | .cmp .. => none
  | .cvt _ _ t => some (dtagNum t)
  | _ =>
    match (⟨o, d, srcs, m⟩ : ElemWord).result h with
    | .inl t => some t
    | .inr _ => none

/-- The trap of an elementwise word before anything of it is performed: the word in TVAL, the vector register in TOPND. -/
def Sys2Proof.Claims.operandTrap (s : State) (i : Instr) (cause r : Nat) : Prop :=
  ∃ t, exec i s = .next t ∧ entered s t cause (s.hart.ir.zeroExtend 64) (word (r + 512)) s.hart.pc

/-- The first operand, destination before sources, whose group reaches beyond the configured registers traps an elementwise
instruction with 0x05; if there is none, the first whose number is no multiple of the grouping, with 0x01 (R20). -/
def Sys2Proof.Claims.RegisterTraps : Prop :=
  ∀ s i o d srcs m, elemRow (getReg s) i = some (o, d, srcs, m) → mayEnter s.hart → s.hart.restart.epc = none →
    let g := groupOf s.hart.csr
    ∀ before r after, vectorOperands o d srcs = before ++ r :: after →
      ((∀ q ∈ before, q + g ≤ regCount s.hart.csr) → regCount s.hart.csr < r + g → operandTrap s i 0x05 r) ∧
      ((∀ q ∈ vectorOperands o d srcs, q + g ≤ regCount s.hart.csr) → (∀ q ∈ before, q % g = 0) → r % g ≠ 0 →
        operandTrap s i 0x01 r)

/-- With its registers in range and aligned, an elementwise instruction traps with 0x03 on the first operand that fails: the
destination, which holds too few elements of its tag or is a source of another width; a source that is untyped (but for VMOV), holds
too few elements, or heads a pair that the tag table rejects (R20, R178, R179, R185, R187). -/
def Sys2Proof.Claims.TypeTraps : Prop :=
  ∀ s i o d srcs m, elemRow (getReg s) i = some (o, d, srcs, m) → mayEnter s.hart → s.hart.restart.epc = none →
    let c := s.hart.csr
    let tag := fun r => tagOfReg s.hart r
    (∀ r ∈ vectorOperands o d srcs, r + groupOf c ≤ regCount c ∧ r % groupOf c = 0) →
    let destBad := fun t => capacity c t < lengthOf s.hart ∨ (d ∈ srcs ∧ tag d ≠ 0 ∧ narrowTag (tag d) ≠ narrowTag t)
    let bad := fun r k => (o ≠ .mov ∧ tag r = 0) ∨ capacity c (tag r) < lengthOf s.hart ∨
      (⟨o, d, srcs, m⟩ : ElemWord).result s.hart = .inr k
    (∀ t, destTag s.hart o d srcs m = some t → destBad t → operandTrap s i 0x03 d) ∧
    (∀ x, o = .bcast x → dtagOf c = 0 → operandTrap s i 0x03 d) ∧
    ∀ before r after, srcs = before ++ r :: after → (∀ t, destTag s.hart o d srcs m = some t → ¬destBad t) →
      (∀ k q, before[k]? = some q → ¬bad q k) → bad r before.length → operandTrap s i 0x03 r

/-- The tag table: the result of one, two or three typed sources of an arithmetic operation is what R185's table gives, or the place
of the source that heads the rejected pair. -/
def Sys2Proof.Claims.ResultTags : Prop :=
  ∀ (h : Hart) (o : ElemOp) d m a b c, o.tagClass.isSome → tagOfReg h a ≠ 0 → tagOfReg h b ≠ 0 → tagOfReg h c ≠ 0 →
    let table := fun x y => tableTag o (tagOfReg h x) (tagOfReg h y)
    (⟨o, d, [a], m⟩ : ElemWord).result h = (match table a a with | some t => .inl t | none => .inr 0) ∧
    (⟨o, d, [a, b], m⟩ : ElemWord).result h = (match table a b with | some t => .inl t | none => .inr 0) ∧
    (⟨o, d, [a, b, c], m⟩ : ElemWord).result h =
      (match table a b with
        | none => .inr 0
        | some t => match tableTag o t (tagOfReg h c) with | some u => .inl u | none => .inr 2)

/-- Every check that R20, R179 and R185 make of the vector operands of an elementwise instruction, in their order. -/
def Obligations.VectorOperandTraps : Prop := RegisterTraps ∧ TypeTraps ∧ ResultTags

/-! ### Permutations and reductions -/

/-- VIOTA, VSLUP, VSLDN and VGATH complete with the elements of R194, R196 and R197: the element's number or the count of active
ones below it; the element k below or above, or the fill; the element that the index names, or 0. -/
def Sys2Proof.Claims.PermutationResults : Prop :=
  ∀ s i (d : VReg) (m : MReg) tag (f : Nat → Nat), freshStart s.hart →
    let n := lengthOf s.hart
    let old := fun (a : VReg) e => getElem s.hart a.val (narrowTag (tagOfReg s.hart a.val)) e
    ((i = .viota d m ∧ tag = dtagOf s.hart.csr ∧ (tag = 3 ∨ tag = 4) ∧ regsFail s.hart.csr [d.val] = none ∧
        n ≤ capacity s.hart.csr tag ∧
        f = fun e => if m = 0 then e else (List.range e).countP (active s.hart m)) ∨
      (∃ a r x, (i = .vslup d a r x m ∨ i = .vsldn d a r x m) ∧ tag = tagOfReg s.hart a.val ∧ tag ≠ 0 ∧
        regsFail s.hart.csr [d.val, a.val] = none ∧ destFails s.hart d.val tag [a.val] = false ∧
        overfull s.hart tag = false ∧ shares s.hart.csr d.val a.val = false ∧
        f = fun e => let k := (getReg s r).toNat
          if i = .vslup d a r x m then (if k ≤ e then old a (e - k) else (getReg s x).toNat)
          else if e + k < n then old a (e + k) else (getReg s x).toNat) ∨
      (∃ a b, i = .vgath d a b m ∧ tag = tagOfReg s.hart a.val ∧ tag ≠ 0 ∧
        (tagOfReg s.hart b.val = 3 ∨ tagOfReg s.hart b.val = 4) ∧ regsFail s.hart.csr [d.val, a.val, b.val] = none ∧
        destFails s.hart d.val tag [a.val, b.val] = false ∧ overfull s.hart tag = false ∧
        overfull s.hart (tagOfReg s.hart b.val) = false ∧ shares s.hart.csr d.val a.val = false ∧
        shares s.hart.csr d.val b.val = false ∧ f = fun e => if old b e < n then old a (old b e) else 0)) →
    ∃ t, exec i s = .next t ∧ wentOn s t none ∧ elementsWritten s t d.val tag n n (active s.hart m) f ∧
      t.hart.csr = s.hart.csr

/-- VCOMP packs the active elements of vs1 in order and treats the rest as tail; VEXT and VEXT.u read one element, or 0 beyond
VL, sign-extended for VEXT of an integer; VINS writes one element below VL and nothing else (R198 to R200), and its register is
complete at the length (R26; the index is the model's reading, log 30). -/
def Sys2Proof.Claims.ElementTransfers : Prop :=
  ∀ s (a : VReg), tagOfReg s.hart a.val ≠ 0 → overfull s.hart (tagOfReg s.hart a.val) = false →
    let tag := tagOfReg s.hart a.val
    let n := lengthOf s.hart
    let old := fun e => getElem s.hart a.val (narrowTag tag) e
    (∀ (d : VReg) (m : MReg), freshStart s.hart → regsFail s.hart.csr [d.val, a.val] = none →
      destFails s.hart d.val tag [a.val] = false → shares s.hart.csr d.val a.val = false →
      let es := (List.range n).filter (active s.hart m)
      ∃ t, exec (.vcomp d a m) s = .next t ∧ wentOn s t none ∧ t.hart.csr = s.hart.csr ∧
        elementsWritten s t d.val tag n es.length (fun _ => true) (fun j => old (es.getD j 0))) ∧
    (regsFail s.hart.csr [a.val] = none → ∀ d r, frozen s.hart d = false →
      let x := if (getReg s r).toNat < n then old (getReg s r).toNat else 0
      (∃ t, exec (.vextU d a r) s = .next t ∧ s.onlyResult t d (BitVec.ofNat 64 x) (s.hart.pc + 4)) ∧
      (∃ t, exec (.vext d a r) s = .next t ∧
        s.onlyResult t d (if tag = 3 ∨ tag = 4 then extended (tagBytes tag) true x else BitVec.ofNat 64 x) (s.hart.pc + 4))) ∧
    (regsFail s.hart.csr [a.val] = none → ∀ r v, ∃ t, exec (.vins a r v) s = .next t ∧ wentOn s t none ∧
      t.hart.csr = s.hart.csr ∧ t.hart.vec.tags = s.hart.vec.tags ∧ progressOf s t a.val n ∧
      (∀ e, e < capacity s.hart.csr tag → getElem t.hart a.val (narrowTag tag) e =
        if e < n ∧ (getReg s r).toNat = e then (getReg s v).toNat % 2 ^ tagBits tag else old e) ∧
      ∀ k, (k < a.val * regLen s.hart.csr ∨ (a.val + groupOf s.hart.csr) * regLen s.hart.csr ≤ k) →
        sget t.hart.vec.vrf k = sget s.hart.vec.vrf k)

/-- The permutations and the element transfers. -/
def Obligations.PermutesComplete : Prop := PermutationResults ∧ ElementTransfers

/-- A reduction that its checks accept and that raises no enabled flag completes: element 0 of vd is the tree of the lane
partials combined with the initial value in the order of R87, the rest of vd is tail, the carry is cleared; with nothing active
it is the initial value, and at length 0 no element changes (R31, R87, R202). -/
def Sys2Proof.Claims.ReductionResults : Prop :=
  ∀ s i o d a b m, redRow i = some (o, d, a, b, m) → freshStart s.hart → redAccepts s o d a b →
    let h := s.hart
    let tag := tagOfReg h a.val
    let n := lengthOf h
    let init := getElem h b.val (narrowTag tag) 0
    let r := foldGroups o h a.val tag m 0 (groupsOf n) [] 0
    let z := match partialAt (tree o h.csr (floatTag tag) r.parts).1 0 with
      | none => (init, 0)
      | some v => combineLast o h.csr tag (toPartial o tag init) v
    let fl := (tree o h.csr (floatTag tag) r.parts).2 ||| z.2
    r.stop = none → fl &&& bits h.csr.fcsr 5 5 = 0 →
    ∃ t, exec i s = .next t ∧ wentOn s t none ∧
      (n ≠ 0 → elementsWritten s t d.val tag n 1 (fun _ => true) (fun _ => z.1) ∧ t.hart.vec.carry = [] ∧
        t.hart.csr = { h.csr with fcsr := h.csr.fcsr ||| word ((r.flags ||| fl) % 32) }) ∧
      (n = 0 → elementsWritten s t d.val tag 0 0 (fun _ => true) (fun _ => 0) ∧ t.hart.csr = h.csr)

/-- On INT32 sources a reduction gives the sum modulo 2^32, or the signed or unsigned extreme, of the active elements and the
initial value, whatever the order of the lanes (R87, R202). -/
def Sys2Proof.Claims.IntegerReductions : Prop :=
  ∀ s i o d a b m, redRow i = some (o, d, a, b, m) → freshStart s.hart → redAccepts s o d a b →
    tagOfReg s.hart a.val = 3 → lengthOf s.hart ≠ 0 →
    let read := fun (r : VReg) e => let x := getElem s.hart r.val false e
      if o.unsigned then (x : Int) else if x < 2 ^ 31 then (x : Int) else (x : Int) - 2 ^ 32
    ∃ t, exec i s = .next t ∧ (getElem t.hart d.val false 0 : Int) =
      (((List.range (lengthOf s.hart)).filter (active s.hart m)).foldl (fun acc e => redInt o acc (read a e)) (read b 0)) % 2 ^ 32

/-- A reduction by the order of R87, and the INT32 ones by their value alone. -/
def Obligations.ReductionsComplete : Prop := ReductionResults ∧ IntegerReductions

/-! ### Vector loads, stores and atomics -/

/-- A unit, strided, indexed or first-fault load whose active elements are aligned and served completes: each active element
holds the bytes at its address, lowest first, with predicate, tail, tag and progress as the rules say; memory is unchanged
(R175, R177, R207 to R209, R211). -/
def Sys2Proof.Claims.VectorLoadResults : Prop :=
  ∀ s i t m vi addr, vloadRow s i = some (t, m, vi, addr) → freshStart s.hart → quiet s → loadRejects s.hart t vi = none →
    let n := lengthOf s.hart
    let tag := dtagOf s.hart.csr
    ∀ (local_ : Bool) (place : Nat → Place), (∀ e, e < n → active s.hart m e = true →
      (addr e).toNat % tagBytes tag = 0 ∧ lands s local_ .read (addr e) (tagBytes tag) (place e)) →
    ∃ u, exec i s = .next u ∧ wentOn s u none ∧ u.hart.csr = s.hart.csr ∧
      elementsWritten s u t.val tag n n (active s.hart m) (fun e => laneValue s (place e) (tagBytes tag))

/-- A first-fault load whose first active element is served and whose later one at `e` is not resident sets VL to `e` and loads
the elements below it, without a trap (R211). -/
def Sys2Proof.Claims.FirstFaultTrimsLength : Prop :=
  ∀ s (t : VReg) b m, freshStart s.hart → quiet s → s.hart.vec.matrix = false → loadRejects s.hart t none = none →
    hasStage2 s (partOf s.hart) = false →
    let n := lengthOf s.hart
    let tag := dtagOf s.hart.csr
    let addr := fun e => getReg s b + BitVec.ofNat 64 (e * tagBytes tag)
    ∀ e (place : Nat → Place), 0 < e → e < n → active s.hart m e = true → (∃ j, j < e ∧ active s.hart m j = true) →
      (∀ j, j < e → active s.hart m j = true →
        (addr j).toNat % tagBytes tag = 0 ∧ lands s false .read (addr j) (tagBytes tag) (place j)) →
      (addr e).toNat % tagBytes tag = 0 → absent s (addr e) →
      (∀ j, e < j → j < n → active s.hart m j = false) →
      ∃ u, exec (.vldff t b m) s = .next u ∧ u.hart.csr = { s.hart.csr with vl := BitVec.ofNat 64 e } ∧
        u.hart.pc = s.hart.pc + 4 ∧ u.mem = s.mem ∧
        ∀ j, j < e → active s.hart m j = true →
          getElem u.hart t.val (narrowTag tag) j = laneValue s (place j) (tagBytes tag)

/-- A vector load or store some of whose active elements lie on pages that are not resident, and all others are served, performs
the others, marks those in m0, and traps with 0x08: it writes one batch with the frames of them all, lowest first, and bit 1 of its
flags for a store, adds one to BHEAD, and names the batch in TVAL and the lowest of them in TOPND; the vector unit holds it to issue
it again.  With the ring full it waits (R213, R214, R323, R327, R399). -/
def Sys2Proof.Claims.VectorPageFaults : Prop :=
  ∀ s i t m vi addr wr top p,
    ((vloadRow s i = some (t, m, vi, addr) ∧ wr = false ∧ loadRejects s.hart t vi = none ∧ quiet s) ∨
      (vstoreRow s i = some (t, m, vi, addr) ∧ wr = true ∧ storeRejects s.hart t vi = none ∧ s.bad = [] ∧ s.packets = [] ∧
        lengthOf s.hart ≤ 256)) →
    addressOperand i = some top → freshStart s.hart → mayEnter s.hart → hasStage2 s (partOf s.hart) = false →
    s.parts[partOf s.hart]? = some p → p.pcpAddr.toNat % 4096 = 0 →
    let n := lengthOf s.hart
    let tag := if wr then tagOfReg s.hart t.val else dtagOf s.hart.csr
    ∀ (lost : Nat → Bool) (place : Nat → Place),
      (∀ e, e < n → active s.hart m e = true → (addr e).toNat % tagBytes tag = 0 ∧
        if lost e then absent s (addr e)
        else lands s false (if wr then .write else .read) (addr e) (tagBytes tag) (place e)) →
      ∀ e, e < n → active s.hart m e = true → lost e = true → (∀ j, j < e → active s.hart m j = true → lost j = false) →
      ∀ frames : List Nat, frames.Pairwise (· < ·) → frames.length ≤ 56 →
        (∀ x, x ∈ frames ↔ ∃ j, j < n ∧ active s.hart m j = true ∧ lost j = true ∧ x = (addr j).toNat / 4096 * 4096) →
        let k := pcpWord s (partOf s.hart) 0x38
        (k - pcpWord s (partOf s.hart) 0x40 = 32 → exec i s = .next (stall s)) ∧
        (k - pcpWord s (partOf s.hart) 0x40 ≠ 32 → ∃ u, exec i s = .next u ∧ u.hart.csr.cause = 0x08 ∧ u.hart.csr.tval = k ∧
          u.hart.csr.topnd = word (top + 2 ^ 32 * e) ∧ u.hart.csr.epc = s.hart.pc + 4 ∧ u.hart.pc = handler s.hart ∧
          u.hart.started = true ∧ (∃ d, u.hart.held = some d ∧ d.ir = s.hart.ir ∧ d.start = 0 ∧ d.useM0 = true) ∧
          (∀ j, (u.hart.vec.masks[(0 : Fin 8)]).testBit j = (decide (j < n) && active s.hart m j && lost j)) ∧
          (wr = false → ∀ j, j < n → active s.hart m j = true → lost j = false →
            getElem u.hart t.val (narrowTag tag) j = laneValue s (place j) (tagBytes tag)) ∧
          batchIs u s.hart p k frames (if wr then 2 else 0) ∧ pcpWord u (partOf s.hart) 0x38 = k + 1)

/-- Vector loads, a first-fault load that is trimmed, and vector accesses that meet pages that are not resident. -/
def Obligations.VectorLoadsComplete : Prop := VectorLoadResults ∧ FirstFaultTrimsLength ∧ VectorPageFaults

/-- A vector store whose active elements are aligned and served completes: it sends one packet for each, in element order, with the
element's data and place, and where its streams have room it changes nothing else but the pc (R92, R207, R210, R365).  One packet for
each element is the model's choice (log 7). -/
def Obligations.VectorStoreResults : Prop :=
  ∀ s i t m vi addr, vstoreRow s i = some (t, m, vi, addr) → freshStart s.hart → s.bad = [] → storeRejects s.hart t vi = none →
    let n := lengthOf s.hart
    let tag := tagOfReg s.hart t.val
    ∀ (local_ : Bool) (place : Nat → Place), (∀ e, e < n → active s.hart m e = true →
      (addr e).toNat % tagBytes tag = 0 ∧ lands s local_ .write (addr e) (tagBytes tag) (place e)) →
    ∃ u, exec i s = .next u ∧
      sent s u (storePackets s t.val tag n (active s.hart m) place (fun e => entriesAt s local_ (addr e))) id

/-- VLDP takes the next elements of the load stream at the head of its port, those that the stream has read ahead as it read
them, and VSTP sends the next ones of a store stream; the cursor moves by the length (R212, R233). -/
def Obligations.PortAccessResults : Prop :=
  ∀ s (t : VReg) (p : PortId) m x d cur store, freshStart s.hart → quiet s → portServes s p store x d cur →
    regsFail s.hart.csr [t.val] = none →
    let n := lengthOf s.hart
    let tag := if store then tagOfReg s.hart t.val else dtagOf s.hart.csr
    tag ≠ 0 → capacity s.hart.csr tag ≥ n → d.size = tagBytes tag →
    ∀ (local_ : Bool) (place : Nat → Place), (∀ e, e < n → active s.hart m e = true → (d.addr (cur + e)).toNat % tagBytes tag = 0 ∧
      lands s local_ (if store then .write else .read) (d.addr (cur + e)) (tagBytes tag) (place e)) →
    let moved := s.hart.engines.map (fun y => if y.id = x.id then
      (match y.kind with
        | .stream q a g c => { y with kind := .stream q a g (c + n) }
        | _ => y) else y)
    (store = false → ∃ u, exec (.vldp t p m) s = .next u ∧ wentOn s u none ∧ u.hart.engines = moved ∧
      elementsWritten s u t.val tag n n (active s.hart m) (fun e =>
        (earlyOf s x.id (cur + e)).getD (laneValue s (place e) (tagBytes tag)))) ∧
    (store = true → ∃ u, exec (.vstp t p m) s = .next u ∧
      sent s u (storePackets s t.val tag n (active s.hart m) place (fun e => entriesAt s local_ (d.addr (cur + e))))
        (fun h => { h with engines := moved }))

/-- A vector atomic on the scratchpad whose active elements lie at different places leaves at each what R217 says of the old
value and the element, and the old value in the element; no tag changes, and every other byte of the scratchpad is as before
(R99, R217). -/
def Sys2Proof.Claims.VectorAtomicResults : Prop :=
  ∀ s i o t b x m, vamoRow i = some (o, t, b, x, m) → freshStart s.hart → quiet s →
    let n := lengthOf s.hart
    let tag := tagOfReg s.hart t.val
    let w := tagBytes tag
    let addr := fun e => getReg s b + sextWord (tagBits (tagOfReg s.hart x.val))
      (getElem s.hart x.val (narrowTag (tagOfReg s.hart x.val)) e)
    (tag = 3 ∨ tag = 4) → (tagOfReg s.hart x.val = 3 ∨ tagOfReg s.hart x.val = 4) →
    regsFail s.hart.csr [t.val, x.val] = none → destFails s.hart t.val tag [x.val] = false →
    overfull s.hart (tagOfReg s.hart x.val) = false → shares s.hart.csr t.val x.val = false →
    (∀ e, e < n → active s.hart m e = true → (addr e).toNat % w = 0 ∧
      ∀ a, a ≠ Access.exec → lands s true a (addr e) w (.spad ((addr e).toNat - 0x100000))) →
    (∀ e f, e < n → f < n → active s.hart m e = true → active s.hart m f = true → e ≠ f → addr e ≠ addr f) →
    let old := fun e => sgetBytes s.hart.spad ((addr e).toNat - 0x100000) w
    ∃ u, exec i s = .next u ∧ u.hart.pc = s.hart.pc + 4 ∧ u.hart.regs = s.hart.regs ∧ u.mem = s.mem ∧
      u.hart.vec.tags = s.hart.vec.tags ∧ slotsKept s u t.val ∧ progressOf s u t.val n ∧
      elementsHold s u t.val tag n n (active s.hart m) old ∧
      (∀ e, e < n → active s.hart m e = true → sgetBytes u.hart.spad ((addr e).toNat - 0x100000) w =
        vamoNew o (tagBits tag) (old e) (getElem s.hart t.val (narrowTag tag) e)) ∧
      ∀ a, (∀ e, e < n → active s.hart m e = true →
          ¬((addr e).toNat - 0x100000 ≤ a ∧ a < (addr e).toNat - 0x100000 + w)) →
        sget u.hart.spad a = sget s.hart.spad a

/-- A vector atomic with one active element reads and writes its word at its home in one step, whether local or global: the
element takes the old value, the word what R217 says, and no other byte of memory changes (R61, R99, R217). -/
def Sys2Proof.Claims.VectorAtomicAtHome : Prop :=
  ∀ s i o t b x m e pa, vamoRow i = some (o, t, b, x, m) → freshStart s.hart → quiet s →
    let n := lengthOf s.hart
    let tag := tagOfReg s.hart t.val
    let w := tagBytes tag
    let va := getReg s b + sextWord (tagBits (tagOfReg s.hart x.val))
      (getElem s.hart x.val (narrowTag (tagOfReg s.hart x.val)) e)
    (tag = 3 ∨ tag = 4) → (tagOfReg s.hart x.val = 3 ∨ tagOfReg s.hart x.val = 4) →
    regsFail s.hart.csr [t.val, x.val] = none → destFails s.hart t.val tag [x.val] = false →
    overfull s.hart (tagOfReg s.hart x.val) = false → shares s.hart.csr t.val x.val = false →
    e < n → (∀ j, j < n → (active s.hart m j = true ↔ j = e)) → va.toNat % w = 0 → 0x400000 ≤ va.toNat →
    cachedAt s va w .write pa → cachedAt s va w .read pa → pa % w = 0 →
    ∃ u, exec i s = .next u ∧ u.hart.pc = s.hart.pc + 4 ∧ s.sameOutside u pa w ∧
      getElem u.hart t.val (narrowTag tag) e = sgetBytes s.mem pa w ∧
      sgetBytes u.mem pa w = vamoNew o (tagBits tag) (sgetBytes s.mem pa w) (getElem s.hart t.val (narrowTag tag) e)

/-- Vector atomics on many scratchpad words, and on one word anywhere. -/
def Obligations.VectorAtomicsComplete : Prop := VectorAtomicResults ∧ VectorAtomicAtHome

/-- A narrow load whose pieces are served and that raises no enabled flag completes: each active element is its code widened
under the scale byte of its block of 16 (R78, R80, R215, R216). -/
def Obligations.NarrowLoadResults : Prop :=
  ∀ s i t b sc st m f g, vldnRow i = some (t, b, sc, st, m, f, g) → freshStart s.hart → quiet s → narrowPair f g = true →
    let n := lengthOf s.hart
    let tag := dtagNum g
    let scaled := !unscaled f g
    let base := getReg s b
    regsFail s.hart.csr [t.val] = none → overfull s.hart tag = false → base.toNat % fmtAlign f = 0 →
    (∀ r, st = some r → (getReg s r).toNat % fmtAlign f = 0) →
    let pieces := narrowPieces f base (st.map (getReg s)) (if scaled then some (getReg s sc) else none)
    ∀ (local_ : Bool) (place : Nat → List Place), (∀ e, e < n → active s.hart m e = true →
      List.Forall₂ (fun (q : Piece) p => lands s local_ .read q.addr q.size p) (pieces e) (place e)) →
    let code := fun e => narrowData s (if scaled then (place e).dropLast else place e) (narrowSpot f e).2.2 /
      2 ^ (narrowSpot f e).2.1 % 2 ^ fmtBits f
    let scale := fun e => if scaled then laneValue s ((place e).getLastD (.sdm 0)) 1 else 127
    let v := fun e => widenNarrow s.hart.csr f tag (code e) (scale e)
    (∀ e, e < n → active s.hart m e = true → (v e).2 &&& bits s.hart.csr.fcsr 5 5 = 0) →
    ∃ u, exec i s = .next u ∧ wentOn s u none ∧
      elementsWritten s u t.val tag n n (active s.hart m) (fun e => (v e).1) ∧
      u.hart.csr = { s.hart.csr with fcsr := u.hart.csr.fcsr }

/-- A narrow store whose pieces are served, with no flag enabled, completes: it sends exactly, block after block, the packet of each
active element, with its code under the block's scale byte at its bits, over two pages where it lies in both, and then the block's
scale byte at its own byte, and no packet writes another bit; the flags are joined, and SEED grows by the length for a stochastic
store alone (R78, R82 to R85, R96, R216).  One packet for each element is the model's choice (log 7), and so is that SEED grows for a
stochastic store of integers too (log 29). -/
def Obligations.NarrowStoreResults : Prop :=
  ∀ s (t : VReg) b sc m f r, freshStart s.hart → s.bad = [] →
    let h := s.hart
    let n := lengthOf h
    let tag := tagOfReg h t.val
    let scaled := floatTag tag && f != .fp16
    let base := getReg s b
    let old := fun e => getElem h t.val (narrowTag tag) e
    narrowSource f tag = true → regsFail h.csr [t.val] = none → overfull h tag = false →
    base.toNat % fmtAlign f = 0 → bits h.csr.fcsr 5 5 = 0 →
    let pieces := narrowPieces f base none (if scaled then some (getReg s sc) else none)
    ∀ (local_ : Bool) (place : Nat → List Place), (∀ e, e < n → active h m e = true →
      List.Forall₂ (fun (q : Piece) p => lands s local_ .write q.addr q.size p) (pieces e) (place e)) →
    let live := fun j => ((List.range 16).map (fun q => 16 * j + q)).filter (fun e => decide (e < n) && active h m e)
    let byte := fun j => if scaled then
      scaleByte f ((live j).map (fun e => operand (tagFmt tag) (ftzOf h.csr) (old e))) else 127
    let code := fun e => narrowCode h.csr f r tag (byte (e / 16)) e (old e)
    let marks := fun (qs : List Piece) => qs.flatMap (fun q => entriesAt s local_ q.addr)
    let element := fun e =>
      let spot := narrowSpot f e
      let send := fun p q size => (⟨e, p, q, size, (code e).1 * 2 ^ spot.2.1, (2 ^ fmtBits f - 1) * 2 ^ spot.2.1,
        marks (if scaled then (pieces e).dropLast else pieces e)⟩ : Sending)
      match if scaled then (place e).dropLast else place e with
      | [p, q] => [send p (some q) 2]
      | p :: _ => [send p none spot.2.2]
      | [] => []
    let scale := fun j => match (live j).head?.bind (fun e => (place e).getLast?) with
      | some p => if scaled then [(⟨16 * j, p, none, 1, byte j, 255, marks ((pieces (16 * j)).getLast?).toList⟩ : Sending)] else []
      | none => []
    let ps := sentAs s ((List.range ((n + 15) / 16)).flatMap (fun j => (live j).flatMap element ++ scale j))
    let flags := ((List.range n).filter (active h m)).foldl (fun fl e => fl ||| (code e).2) 0
    ∃ u, exec (.vstn t b sc m f r) s = .next u ∧
      sent { s with hart := { h with csr := { h.csr with
        fcsr := h.csr.fcsr ||| word (flags % 32)
        seed := if r = .sr then h.csr.seed + BitVec.ofNat 64 n else h.csr.seed } } } u ps id

/-! ### Matrix mode -/

/-- A grant gives at most what was asked, at least one tile where nothing asked is zero, at most four, and tiles that fit the
98,304 accumulators; every member's part lies within 256 rows and 384 columns (R246, R247). -/
def Obligations.TileGrantFits : Prop :=
  ∀ m n k g (h : Hart), (g = 1 ∨ g = 2 ∨ g = 4) → gangSize h = g → memberOf h < g → h.csr.tshape = tileGrant m n k g →
    0 < m → 0 < n → 0 < k →
    0 < grantM h.csr ∧ grantM h.csr ≤ m ∧ 0 < grantN h.csr ∧ grantN h.csr ≤ n ∧ bits h.csr.tshape 32 16 ≤ k ∧
      1 ≤ tilesOf h.csr ∧ tilesOf h.csr ≤ 4 ∧ tilesOf h.csr * (up64 (rows0 h.csr) * up64 (cols0 h.csr)) ≤ 98304 ∧
      0 < partRows h ∧ partRows h ≤ 256 ∧ 0 < partCols h ∧ partCols h ≤ 384

/-- TSHAPE outside matrix mode writes the grant into TSHAPE and rd and zeroes the accumulators, and inside it traps with 0x01;
MENTER with a grant enters matrix mode with MVL at the larger of M0 and N0, does nothing in matrix mode, and traps with 0x01
with no grant; MLEAVE zeroes the accumulators and MVL (R245, R246, R248, R249). -/
def Sys2Proof.Claims.MatrixModeResults : Prop :=
  ∀ s, freshStart s.hart →
    (∀ d a b c, frozen s.hart d = false → s.hart.vec.matrix = false → ∃ t, exec (.tshape d a b c) s = .next t ∧
      let w := tileGrant (getReg s a).toNat (getReg s b).toNat (getReg s c).toNat (gangSize s.hart)
      t.hart.csr.tshape = w ∧ t.hart.vec.acc = [] ∧
        ({ s with hart := { s.hart with
          csr := { s.hart.csr with tshape := w }, vec := { s.hart.vec with acc := [] } } } : State).onlyResult t d w (s.hart.pc + 4)) ∧
    (∀ d a b c, frozen s.hart d = false → s.hart.vec.matrix = true → mayEnter s.hart →
      ∃ t, exec (.tshape d a b c) s = .next t ∧ entered s t 0x01 (s.hart.ir.zeroExtend 64) 0 s.hart.pc) ∧
    (s.hart.vec.matrix = true → ∃ t, exec .menter s = .next t ∧ s.onlyPc t (s.hart.pc + 4)) ∧
    (s.hart.vec.matrix = false → 0 < tilesOf s.hart.csr → exec .menter s = .next { s with hart := { s.hart with
      pc := s.hart.pc + 4, vec := { s.hart.vec with matrix := true }
      csr := { s.hart.csr with mvl := BitVec.ofNat 64 (Nat.max (rows0 s.hart.csr) (cols0 s.hart.csr)) } } }) ∧
    (s.hart.vec.matrix = false → tilesOf s.hart.csr = 0 → mayEnter s.hart →
      ∃ t, exec .menter s = .next t ∧ entered s t 0x01 (s.hart.ir.zeroExtend 64) 0 s.hart.pc) ∧
    (s.hart.vec.matrix = true → s.hart.csr.status.getLsbD 4 = true → exec .mleave s = .next { s with hart := { s.hart with
      pc := s.hart.pc + 4, vec := { s.hart.vec with matrix := false, acc := [] }, csr := { s.hart.csr with mvl := 0 } } })

/-- A tile instruction, and MLEAVE, outside matrix mode or with MEN clear takes 0x04, and one that names a tile that is not
granted 0x05 with the tile in TOPND, before any other check (R250). -/
def Sys2Proof.Claims.MatrixDisabledTraps : Prop :=
  ∀ s, freshStart s.hart → mayEnter s.hart →
    (∀ i, (i = .mleave ∨ (tileOf i).isSome = true) → (s.hart.vec.matrix = false ∨ s.hart.csr.status.getLsbD 4 = false) →
      ∃ t, exec i s = .next t ∧ entered s t 0x04 (s.hart.ir.zeroExtend 64) 0 s.hart.pc) ∧
    (∀ i k, tileOf i = some k → s.hart.vec.matrix = true → s.hart.csr.status.getLsbD 4 = true →
      tilesOf s.hart.csr ≤ k.val →
      ∃ t, exec i s = .next t ∧ entered s t 0x05 (s.hart.ir.zeroExtend 64) (word (k.val + 1024)) s.hart.pc)

/-- Entering, leaving and shaping matrix mode, and the traps outside it. -/
def Obligations.MatrixMode : Prop := MatrixModeResults ∧ MatrixDisabledTraps

/-- MXADD and MXSUB add or subtract the product of row element and column element, rounded once, in every accumulator whose row
and column are active, and MXSLD does so for each of its steps in order; flags are joined into FCSR (R86, R251 to R253). -/
def Obligations.OuterProductResults : Prop :=
  ∀ s k (a b : VReg) (mr mc : MReg), tileReady s k →
    let h := s.hart
    let tag := tagOfReg h a.val
    let act := fun i j => active h mr i && active h mc j
    (∀ sub i, (sub = false ∧ i = .mxadd k a b mr mc ∨ sub = true ∧ i = .mxsub k a b mr mc) →
      (tag = 1 ∨ tag = 2) → tagOfReg h b.val = tag → regsFail h.csr [a.val, b.val] = none → overfull h tag = false →
      let v := fun i j => accumulate h.csr sub tag (tileElem h k i j) (getElem h a.val (narrowTag tag) i)
        (getElem h b.val (narrowTag tag) j)
      (∀ i j, i < partRows h → j < partCols h → act i j = true → (v i j).2 &&& bits h.csr.fcsr 5 5 = 0) →
      ∃ t, exec i s = .next t ∧ tileWritten s t k (fun i j => if act i j then (v i j).1 else tileElem h k i j) ∧
        t.hart.csr = { h.csr with fcsr := t.hart.csr.fcsr }) ∧
    (∀ n : Fin 64, slideRejects h a.val b.val (n.val + 1) = none → bits h.csr.fcsr 5 5 = 0 →
      ∃ t, exec (.mxsld k a b mr mc n) s = .next t ∧ t.hart.csr = { h.csr with fcsr := t.hart.csr.fcsr } ∧
        tileWritten s t k (fun i j => if act i j then
          (List.range (n.val + 1)).foldl (fun acc q => (accumulate h.csr false tag acc (slideElem h a.val tag (i + q))
            (getElem h (b.val + q) (narrowTag tag) j)).1) (tileElem h k i j)
          else tileElem h k i j))

/-- MXADD, MXSUB and MXSLD complete on a granted tile with operands that they accept and no flag enabled, and VSTN with elements that are
served, whatever the values: each goes on to the next word, and leaves scalar registers, vector registers and masks as they were
(R86, R216, R251 to R253). -/
def Obligations.ProductsAndNarrowStoresComplete : Prop :=
  ∀ s (a b : VReg), bits s.hart.csr.fcsr 5 5 = 0 →
    let h := s.hart
    let tag := tagOfReg h a.val
    let completes := fun i => ∃ t, exec i s = .next t ∧ t.hart.pc = h.pc + 4 ∧ t.hart.regs = h.regs ∧
      t.hart.vec.vrf = h.vec.vrf ∧ t.hart.vec.masks = h.vec.masks ∧ t.hart.stalled = h.stalled ∧ nested t.hart = nested h
    (∀ k mr mc, tileReady s k → (tag = 1 ∨ tag = 2) → tagOfReg h b.val = tag → regsFail h.csr [a.val, b.val] = none →
      overfull h tag = false → completes (.mxadd k a b mr mc) ∧ completes (.mxsub k a b mr mc)) ∧
    (∀ k mr mc (n : Fin 64), tileReady s k → slideRejects h a.val b.val (n.val + 1) = none → completes (.mxsld k a b mr mc n)) ∧
    (∀ r sc m f rm, freshStart h → s.bad = [] → narrowSource f tag = true → regsFail h.csr [a.val] = none → overfull h tag = false →
      (getReg s r).toNat % fmtAlign f = 0 →
      ∀ (local_ : Bool) (place : Nat → List Place), (∀ e, e < lengthOf h → active h m e = true →
        List.Forall₂ (fun (q : Piece) p => lands s local_ .write q.addr q.size p)
          (narrowPieces f (getReg s r) none (if floatTag tag && f != .fp16 then some (getReg s sc) else none) e) (place e)) →
      completes (.vstn a r sc m f rm))

/-- MZERO zeroes a tile; MWROW writes one row from a vector register, BF16 widened; MROW and MCOL read one row or column into a
vector register of DTAG, zeros where the number lies beyond the part, complete over MVL (R26, R254 to R256). -/
def Sys2Proof.Claims.TileTransferResults : Prop :=
  ∀ s k, tileReady s k →
    let h := s.hart
    (∃ t, exec (.mzero k) s = .next t ∧ tileWritten s t k (fun _ _ => 0) ∧ t.hart.csr = h.csr) ∧
    (∀ (a : VReg) r, let tag := tagOfReg h a.val
      (tag = 1 ∨ tag = 2) → regsFail h.csr [a.val] = none → overfull h tag = false →
      ∃ t, exec (.mwrow k a r) s = .next t ∧ t.hart.csr = h.csr ∧ tileWritten s t k (fun i j =>
        if i = (getReg s r).toNat then getElem h a.val (narrowTag tag) j * (if tag = 2 then 2 ^ 16 else 1) else tileElem h k i j)) ∧
    (∀ (d : VReg) r, let tag := dtagOf h.csr
      (tag = 1 ∨ tag = 2) → regsFail h.csr [d.val] = none → overfull h tag = false → partRows h ≤ capacity h.csr tag →
      partCols h ≤ capacity h.csr tag → bits h.csr.fcsr 5 5 = 0 →
      let as := fun x => if tag = 1 then x else (convert h.csr false false 1 2 x).1
      (∃ t, exec (.mrow k d r) s = .next t ∧ wentOn s t none ∧ t.hart.vec.acc = h.vec.acc ∧
        t.hart.csr = { h.csr with fcsr := t.hart.csr.fcsr } ∧
        groupWritten s t d.val tag ∧ progressOf s t d.val (lengthOf h) ∧
        elementsHold s t d.val tag (partCols h) (partCols h) (fun _ => true)
          (fun j => as (if (getReg s r).toNat < partRows h then tileElem h k (getReg s r).toNat j else 0))) ∧
      (∃ t, exec (.mcol k d r) s = .next t ∧ wentOn s t none ∧ t.hart.vec.acc = h.vec.acc ∧
        t.hart.csr = { h.csr with fcsr := t.hart.csr.fcsr } ∧
        groupWritten s t d.val tag ∧ progressOf s t d.val (lengthOf h) ∧
        elementsHold s t d.val tag (partRows h) (partRows h) (fun _ => true)
          (fun i => as (if (getReg s r).toNat < partCols h then tileElem h k i (getReg s r).toNat else 0))))

/-- MLDT loads every element of a tile's part from its row and column address, and MSTT sends every element there, where all are
served (R257). -/
def Sys2Proof.Claims.TileMemoryResults : Prop :=
  ∀ s k a r, tileReady s k → quiet s →
    let h := s.hart
    let np := partCols h
    let addr := fun e => getReg s a + BitVec.ofNat 64 (e / np) * getReg s r + BitVec.ofNat 64 (4 * (e % np))
    (getReg s a).toNat % 4 = 0 → (getReg s r).toNat % 4 = 0 →
    ∀ (local_ : Bool) (place : Nat → Place) (w : Access), (w = .read ∨ w = .write) →
      (∀ e, e < partRows h * np → (addr e).toNat % 4 = 0 ∧ lands s local_ w (addr e) 4 (place e)) →
      (w = .read → ∃ t, exec (.mldt k a r) s = .next t ∧ t.hart.csr = h.csr ∧
        tileWritten s t k (fun i j => laneValue s (place (i * np + j)) 4)) ∧
      (w = .write → ∃ t, exec (.mstt k a r) s = .next t ∧
        sent s t (sentAs s ((List.range (partRows h * np)).map (fun e =>
          ⟨e % np, place e, none, 4, tileElem h k (e / np) (e % np), 2 ^ 32 - 1, entriesAt s local_ (addr e)⟩))) id)

/-- Tiles to and from vector registers and memory. -/
def Obligations.TileMoves : Prop := TileTransferResults ∧ TileMemoryResults

/-! ### Gang exchanges -/

/-- GPERM gives each member the source elements of the member that its own register names, GBCAST those of the member that the
leader's register names, and GRED the sum over the members in the order of R88; each under the leader's length, as far as
the member's registers hold it, and under the member's own predicate, for every member of the gang (R258 to R260; a member of less
capacity is no error, log 28). -/
def Obligations.GangExchangeResults : Prop :=
  ∀ s i (d a : VReg) (m : MReg), coresApart s → freshStart s.hart → s.bad = [] →
    let hs := gangNow s
    let n := lengthOf (leaderNow s)
    let num := fun (h : Hart) (r : SReg) => if r = 0 then 0 else h.regs[r].toNat
    let value := fun (h : Hart) (e : Nat) => match i with
      | .gperm _ _ r _ => (exchangeElem (hs.getD (num h r % hs.length) h) a.val e, 0)
      | .gbcast _ _ r _ => (exchangeElem (hs.getD (num (leaderNow s) r % hs.length) h) a.val e, 0)
      | _ => gangSum (leaderNow s).csr (tagOfReg h a.val) (hs.map (fun g => exchangeElem g a.val e))
    ((∃ r, i = .gperm d a r m ∨ i = .gbcast d a r m) ∨
      (i = .gred d a m ∧ ∀ h ∈ hs, ∀ g ∈ hs, tagOfReg g a.val = tagOfReg h a.val)) →
    (∀ h ∈ hs, freshStart h ∧ regsFail h.csr [d.val, a.val] = none ∧ tagOfReg h a.val ≠ 0 ∧
      shares h.csr d.val a.val = false ∧ ∀ e, e < n → (value h e).2 &&& bits h.csr.fcsr 5 5 = 0) →
    ∃ t, exec i s = .next t ∧ t.mem = s.mem ∧ ∀ h ∈ hs,
      let sh := { s with hart := h }
      let th := { t with hart := hartAt t h.core }
      wentOn sh th none ∧ th.hart.csr = { h.csr with fcsr := th.hart.csr.fcsr } ∧
        elementsWritten sh th d.val (tagOfReg h a.val) n (Nat.min n (capacity h.csr (tagOfReg h a.val))) (active h m)
          (fun e => (value h e).1)

/-! ### Engines -/

/-- COPY, STREAM, NBX, CHAIN, BGLD and GXL with a register that may be written and fewer than 16 engine instructions in flight
complete as they issue, once every earlier scalar access may be performed: the engine is under way with the operands as read and its
register pending; COPY clears its chunk mask where the vector unit has nothing before it, BGLD writes the duplicate mask, and the
destination of BGLD and GXL is typed and without progress.  Operands that COPY and CHAIN
reject end in state 4 at once, and so does an element of BGLD or GXL that is not aligned (R229 to R237).  That COPY, STREAM, NBX and
CHAIN perform the buffered stores as they issue is the model's choice (log 8), as is state 4 with code 1 for an element that is not
aligned (log 44). -/
def Obligations.EngineIssue : Prop :=
  ∀ s d, frozen s.hart d = false → s.hart.engines.length < 16 → drains s.hart → s.hart.loads = [] →
    (∀ a b c m, (m = 0 ∨ (s.hart.vf = none ∧ s.hart.held = none ∧ s.hart.queue = [])) →
      let n := (getReg s c).toNat
      (copyAccepts (getReg s a) (getReg s b) n → ∃ t, exec (.copy d a b c m) s = .next t ∧
        engineStarted s t d (.copy (getReg s a) (getReg s b) n m.val [] []) ∧ t.hart.buffer = [] ∧
        (m ≠ 0 → t.hart.vec.masks[m] = 0)) ∧
      (¬copyAccepts (getReg s a) (getReg s b) n → ∃ t code, exec (.copy d a b c m) s = .next t ∧
        engineRejected s t d 1 code ∧ 1 ≤ code ∧ code ≤ 4)) ∧
    (∀ (p : PortId) b, (portStreams s.hart p.val).length = 1 → ∃ t, exec (.stream d p b) s = .next t ∧
      engineStarted s t d (.stream p.val (getReg s b) none 0) ∧ t.hart.buffer = []) ∧
    (∀ (p : PortId) b x, portStreams s.hart p.val = [] → s.hart.buffer = [] → s.bad = [] →
      (∀ e ∈ s.hart.engines, e.id < s.serial) → (getReg s b).toNat % 64 = 0 → inScratchpad (getReg s b) 64 →
      streamDesc (sgetBytes s.hart.spad ((getReg s b).toNat - 0x100000) 64) = some x →
      ∃ t, exec (.stream d p b) s = .next t ∧ engineStarted s t d (.stream p.val (getReg s b) (some x) 0)) ∧
    (∀ a b, ∃ t, exec (.nbx d a b) s = .next t ∧ engineStarted s t d (.nbx (getReg s a) (getReg s b) false) ∧
      t.hart.buffer = []) ∧
    (∀ a b c,
      let arg := getReg s c
      (chainAccepts s (getReg s a) (getReg s b) arg → ∃ t, exec (.chain d a b c) s = .next t ∧ t.hart.buffer = [] ∧
        engineStarted s t d (.chain ((getReg s a).toNat - 0x100000) (arg.toNat % 2 ^ 24)
          (if arg.getLsbD 42 then some (arg.toNat / 2 ^ 24 % 2 ^ 18) else none) (chainHops (getReg s b).toNat 8) none 0 0 0)) ∧
      (¬chainAccepts s (getReg s a) (getReg s b) arg → ∃ t code, exec (.chain d a b c) s = .next t ∧
        engineRejected s t d 5 code ∧ 1 ≤ code ∧ code ≤ 7)) ∧
    (∀ (v : VReg) b (i : VReg) (m : MReg), loadRejects s.hart v (some i) = none →
      let n := lengthOf s.hart
      let tag := dtagOf s.hart.csr
      let addr := indexAddr s b i
      let typed := fun (t : State) (k : Nat) (done : Bool) => ∀ r : Fin 64, v.val ≤ r.val → r.val < v.val + groupOf s.hart.csr →
        tagOfReg t.hart r = tag ∧ t.hart.vec.index[r] = k ∧ t.hart.vec.complete.getLsbD r = done
      ((∀ e, e < n → (addr e).toNat % tagBytes tag = 0) → ∃ t, exec (.bgld v b i m d) s = .next t ∧ typed t 0 (decide (n = 0)) ∧
        engineStarted s t d (.bgld (members v.val (groupOf s.hart.csr)) (tagBytes tag) n s.hart.csr.vtype
          ((List.range n).map (fun e => (e, addr e)))) ∧
        (m ≠ 0 → ∀ e, e < n → (t.hart.vec.masks[m]).testBit e = decide (∃ f, f < e ∧ addr f = addr e))) ∧
      ((∃ e, e < n ∧ (addr e).toNat % tagBytes tag ≠ 0) → ∃ t, exec (.bgld v b i m d) s = .next t ∧
        engineRejected s t d 3 1 ∧ typed t ((n + 63) / 64) true) ∧
      ((∀ e, e < n → active s.hart m e = true → (addr e).toNat % tagBytes tag = 0 ∧ 0x400000 ≤ (addr e).toNat) →
        ∃ t, exec (.gxl v b i m d) s = .next t ∧ typed t 0 (decide (n = 0)) ∧
          engineStarted s t d (.gxl (members v.val (groupOf s.hart.csr)) (tagBytes tag) n s.hart.csr.vtype
            (((List.range n).filter (active s.hart m)).map (fun e => (e, addr e))) none)) ∧
      ((∃ e, e < n ∧ active s.hart m e = true ∧ (addr e).toNat % tagBytes tag ≠ 0) → ∃ t, exec (.gxl v b i m d) s = .next t ∧
        engineRejected s t d 4 1))

/-- A chunk of a copy within the scratchpad is copied, and no other byte of the scratchpad changes; its bit is set once the clear of
its mask has taken effect.  A copy ends with its chunks, or in state 3 at its lowest missing one, and not before that clear (R109,
R110, R232). -/
def Sys2Proof.Claims.CopySteps : Prop :=
  ∀ s x, acts s x → s.bad = [] → s.early = [] →
    ∀ dst src len mask chunks lost, x.kind = .copy dst src len mask chunks lost →
      let n := (len + 1023) / 1024
      let c := (chunks ++ lost).length
      (copyAccepts dst src len → inScratchpad dst len → inScratchpad src len → x.batch = none → x.fault = none →
        (∀ k ∈ chunks ++ lost, k < c) → c < n → (localCopies s.hart).length ≤ 4 → s.hart.csr.slbase.toNat % 16 = 0 →
        let lo := dst.toNat - 0x100000 + 1024 * c
        let size := Nat.min 1024 (len - 1024 * c)
        (∀ k, 8 * k < size → touchesBusySlot s s.hart (lo + 8 * k) 8 = false) →
        ∃ t, exec (.copyChunkDone (me s) x.id c) s = .next t ∧
          engineNow s t x { x with kind := .copy dst src len mask (chunks ++ [c]) lost } ∧
          (∀ a, sget t.hart.spad a = if lo ≤ a ∧ a < lo + size then
            sget s.hart.spad (src.toNat - 0x100000 + 1024 * c + (a - lo)) else sget s.hart.spad a) ∧
          (∀ m : MReg, m.val = mask → m ≠ 0 → (∀ q ∈ s.hart.queue, q.work.item ≠ .clear x.id) →
            (t.hart.vec.masks[m]).testBit c = true ∧ t.hart.csr.status.getLsbD 6 = true)) ∧
      let cleared := ∀ q ∈ s.hart.queue, q.work.item ≠ .clear x.id
      (cleared → x.fault = none → lost = [] → chunks.length = n → ∃ t, exec (.copyDone (me s) x.id) s = .next t ∧
        engineEnded s t x (statusWord 1 0 n 0)) ∧
      (¬cleared → exec (.copyDone (me s) x.id) s = .next s) ∧
      (∀ cause i va st k, cleared → x.fault = some (cause, i, va, st) → k < n → k ∉ chunks → (∀ j, j < k → j ∈ chunks) →
        ∃ t, exec (.copyDone (me s) x.id) s = .next t ∧ engineEnded s t x (statusWord 1 3 k cause))

/-- A batch that the host answered lets its engine go on, or fail with 0x08; a stream whose elements are consumed ends, a store
stream once they are performed (R231, R233). -/
def Sys2Proof.Claims.BatchAndStreamSteps : Prop :=
  ∀ s x, acts s x →
    (∀ n va st, x.batch = some (n, va, st) →
      (batchDone s (partOf s.hart) n = 1 → ∃ t, exec (.engineBatchResume (me s) x.id) s = .next t ∧
        engineNow s t x { x with batch := none }) ∧
      (batchDone s (partOf s.hart) n = 2 → ∃ t y, exec (.engineBatchResume (me s) x.id) s = .next t ∧ engineNow s t x y ∧
        y.batch = none ∧ y.fault.map (fun f => (f.1, f.2.2)) = some (0x08, va, st))) ∧
    (∀ p a d, x.kind = .stream p a (some d) d.total → portStreams s.hart p = [x] →
      ∃ t, exec (.streamEnd (me s) x.id) s = .next t ∧ engineEnded s t x (statusWord 2 0 d.total 0) ∧
        (d.store = true → ∀ q ∈ t.packets, q.core ≠ s.hart.core))

/-- BGLD delivers every element, zero for one that no scratchpad byte serves, and reports the lowest of those; a gather unit with
room delivers what its stack holds, up to 512 elements, and GXL ends when nothing is left (R234, R235, R352). -/
def Sys2Proof.Claims.GatherSteps : Prop :=
  ∀ s x, acts s x → s.bad = [] → s.early = [] →
    (∀ rs w n vt (addr : Nat → Word), x.kind = .bgld rs w n vt ((List.range n).map (fun e => (e, addr e))) → x.batch = none →
      w = tagBytes (dtagOf { s.hart.csr with vtype := vt }) → (∀ e, e < n → (addr e).toNat < 0x400000) →
      let ok := fun e => decide (0x100000 ≤ (addr e).toNat ∧ (addr e).toNat + w ≤ 0x300000)
      ∃ t, exec (.bgldDone (me s) x.id) s = .next t ∧
        (∀ e, e < n → getElem t.hart (rs.headD 0) (w == 2) e =
          if ok e then sgetBytes s.hart.spad ((addr e).toNat - 0x100000) w else 0) ∧
        ((∀ e, e < n → ok e = true) → engineEnded s t x (statusWord 3 0 n 0)) ∧
        (∀ e, e < n → ok e = false → (∀ f, f < e → ok f = true) → engineEnded s t x (statusWord 3 3 e 0x09))) ∧
    (∀ rs w n vt addrs ps (k : StackId), x.kind = .gxl rs w n vt addrs (some ps) → x.batch = none →
      w = tagBytes (dtagOf { s.hart.csr with vtype := vt }) → (ps.map (·.1)).Nodup →
      (∀ p ∈ ps, p.1 < n ∧ p.2 < 2 ^ 52 ∧ refusal s (partOf s.hart) p.2 = none) →
      (ps.filter (fun p => stackOf s p.2 == k.val)).length ≤ 512 →
      (x.id ∈ s.hbm[k].gathers ∨ s.hbm[k].gathers.length < 8) →
      ∃ t, exec (.gatherUnitRequest (me s) x.id k) s = .next t ∧
        engineNow s t x { x with kind := .gxl rs w n vt addrs (some (ps.filter (fun p => stackOf s p.2 != k.val))) } ∧
        ∀ p ∈ ps, getElem t.hart (rs.headD 0) (w == 2) p.1 =
          if stackOf s p.2 = k.val then sgetBytes s.mem p.2 w else getElem s.hart (rs.headD 0) (w == 2) p.1) ∧
    (∀ rs w n vt addrs, x.kind = .gxl rs w n vt addrs (some []) →
      ∃ t, exec (.gxlDone (me s) x.id) s = .next t ∧ engineEnded s t x (match x.fault with
        | none => statusWord 4 0 n 0
        | some f => statusWord 4 3 f.2.1 f.1))

/-- The steps of COPY, STREAM, BGLD and GXL after their issue. -/
def Obligations.EngineSteps : Prop := CopySteps ∧ BatchAndStreamSteps ∧ GatherSteps

/-- Each event of an engine's own takes place where its rule says that it does: a chunk of a copy between places of the scratchpad is
copied and recorded; a copy whose chunks have finished, a stream whose elements are consumed, a BGLD whose elements lie in the scratchpad
and a GXL with nothing left to deliver end; a batch that is done lets its engine go on; a gather unit serves a GXL whose elements are its
stack's (R230 to R235, R352). -/
def Obligations.EngineEventsComplete : Prop :=
  ∀ s x, acts s x → s.bad = [] → s.early = [] →
    let ends := fun i => ∃ t, exec i s = .next t ∧ t.hart.engines = s.hart.engines.filter (fun y => y.id != x.id) ∧ t.hart.pc = s.hart.pc
    let now := fun i (y : Engine) => ∃ t, exec i s = .next t ∧ engineNow s t x y ∧ t.hart.pc = s.hart.pc
    (∀ n va st, x.batch = some (n, va, st) → batchDone s (partOf s.hart) n = 1 →
      now (.engineBatchResume (me s) x.id) { x with batch := none }) ∧
    (∀ dst src len mask chunks, x.kind = .copy dst src len mask chunks [] → x.batch = none → x.fault = none →
      (copyAccepts dst src len → inScratchpad dst len → inScratchpad src len → (∀ k ∈ chunks, k < chunks.length) →
        1024 * chunks.length < len → (localCopies s.hart).length ≤ 4 → s.hart.csr.slbase.toNat % 16 = 0 →
        (∀ o, touchesBusySlot s s.hart o 8 = false) →
        now (.copyChunkDone (me s) x.id chunks.length) { x with kind := .copy dst src len mask (chunks ++ [chunks.length]) [] }) ∧
      (len ≤ 1024 * chunks.length → (∀ q ∈ s.hart.queue, q.work.item ≠ .clear x.id) → ends (.copyDone (me s) x.id))) ∧
    (∀ p a d, x.kind = .stream p a (some d) d.total → portStreams s.hart p = [x] → d.store = false → x.batch = none → x.fault = none →
      ends (.streamEnd (me s) x.id)) ∧
    (∀ rs w n vt (addr : Nat → Word), x.kind = .bgld rs w n vt ((List.range n).map (fun e => (e, addr e))) → x.batch = none →
      (w = 2 ∨ w = 4) → (∀ e, e < n → 0x100000 ≤ (addr e).toNat ∧ (addr e).toNat + w ≤ 0x300000) → ends (.bgldDone (me s) x.id)) ∧
    (∀ rs w n vt addrs ps (k : StackId), x.kind = .gxl rs w n vt addrs (some ps) → x.batch = none → (w = 2 ∨ w = 4) → x.fault = none →
      (ps = [] → ends (.gxlDone (me s) x.id)) ∧
      ((ps.map (·.1)).Nodup → (∀ p ∈ ps, p.1 < n ∧ p.2 < 2 ^ 52 ∧ refusal s (partOf s.hart) p.2 = none ∧ stackOf s p.2 = k.val) →
        0 < ps.length → ps.length ≤ 512 → s.hbm[k].gathers.length < 8 →
        now (.gatherUnitRequest (me s) x.id k) { x with kind := .gxl rs w n vt addrs (some []) }))

/-- A near-bank command that passes its checks takes the lowest free stope engine of its stack, or waits there behind others;
each step, which its pseudo-channel and its bank allow, computes one row, element by element, and writes it alone; a suspended engine goes on after 256 cycles or when no
request waits; the command whose rows are done ends with its rows and flags, and its engine is free (R236, R348 to R351). -/
def Obligations.NearBankSteps : Prop :=
  ∀ s : State, s.bad = [] →
    (∀ x da arg page, acts s x → x.kind = .nbx da arg false → x.batch = none → x.fault = none → da.toNat % 32 = 0 →
      inScratchpad da 32 →
      let v := sgetBytes s.hart.spad (da.toNat - 0x100000) 32
      nearAccepts v → computePageAt s x (fieldAt v 0 8) page →
      let c := nearCommandOf s x v arg page
      let k := stackAt s (stackOf s page)
      stackOf s page < 8 →
      ∃ t, exec (.nbxArrival (me s) x.id) s = .next t ∧ engineNow s t x { x with kind := .nbx da arg true } ∧
        (∀ g, g < 64 → k.queue = [] → (∀ e ∈ k.stopes, e.num ≠ g) → (∀ j, j < g → ∃ e ∈ k.stopes, e.num = j) →
          stackAt t (stackOf s page) = { k with stopes := k.stopes ++ [newStope s g c] }) ∧
        (k.queue ≠ [] ∨ (∀ g, g < 64 → ∃ e ∈ k.stopes, e.num = g) →
          stackAt t (stackOf s page) = { k with queue := k.queue ++ [c] })) ∧
    (∀ (n : StackId) c rest g, (stackAt s n.val).queue = c :: rest → g < 64 →
      (∀ e ∈ (stackAt s n.val).stopes, e.num ≠ g) → (∀ j, j < g → ∃ e ∈ (stackAt s n.val).stopes, e.num = j) →
      ∃ t, exec (.nbxEngineGrant n) s = .next t ∧ stackAt t n.val = { stackAt s n.val with
        queue := rest, stopes := (stackAt s n.val).stopes ++ [newStope s g c] }) ∧
    (∀ (n : StackId) (g : Fin 64) e c, (stackAt s n.val).stopes.filter (fun y => y.num == g.val) = [e] → e.job = .near c →
      (e.suspended = none → c.bad = none → c.done < c.rows → e.since < s.clock →
        let w := nearWidth c.ty
        let x := c.page + c.off + 1024 * c.done
        let y := x + 2 ^ 20
        let z := if c.dest = 1 then y else x
        let part := ((engineOf s c.engine).map (fun o => partOf o.hart)).getD 0
        stepReady s n.val x = true → nearRefused s part z (c.elems * w) = none →
        (∀ p ∈ c.entries, word8 s p.1 ||| 0x300 = word8 s p.1) →
        let r := fun i => nearElem c (sgetBytes s.mem (x + i * w) w) (sgetBytes s.mem (y + i * w) w)
        ∃ t, exec (.stopeStep n g) s = .next t ∧ t.hart = s.hart ∧
          (∀ i, i < c.elems → sgetBytes t.mem (z + i * w) w = (r i).1 % 256 ^ w) ∧ s.sameOutside t z (c.elems * w) ∧
          ∃ u v, { e with suspended := u, chan := v, job := .near { c with
            done := c.done + 1, flags := c.flags ||| (List.range c.elems).foldl (fun f i => f ||| (r i).2) 0 } } ∈
            (stackAt t n.val).stopes) ∧
      (∀ since, e.suspended = some since → ∃ t, exec (.stopeResume n g) s = .next t ∧
        (since + 256 ≤ s.clock ∨ (∀ r ∈ (stackAt s n.val).requests, r.chan ≠ e.chan) →
          { e with suspended := none } ∈ (stackAt t n.val).stopes) ∧
        (s.clock < since + 256 → (∃ r ∈ (stackAt s n.val).requests, r.chan = e.chan) → t = s)) ∧
      (∀ x d a b, acts s x → x.kind = .nbx d a b → x.id = c.engine → c.rows ≤ c.done → c.bad = none →
        ∃ t, exec (.nbxDone n g) s = .next t ∧ engineEnded s t x (statusWord 6 0 c.rows c.flags) ∧
          ∀ y ∈ (stackAt t n.val).stopes, y.num ≠ g.val))

/-- A CHAIN with a copy-tracking context of its own core (R53, log 45) reserves a context at its hops in rising core order, at most four of them in use at a hop; with all of them its block is
read, and stored hop by hop in list order, with the arrival word of each raised by one, or skipped where it may not be; it ends with
the hops that stored it, in state 3 with the mask of the others where some were skipped (R237, R371). -/
def Obligations.ChainSteps : Prop :=
  ∀ s x off n w hops b p st sk, acts s x → s.bad = [] → x.kind = .chain off n w hops b p st sk →
    (localCopies s.hart).length ≤ 4 →
    (∀ c, b = none → c < 128 → c ∈ hops → (c, x.id, 1) ∉ s.chainCtx → (∀ d ∈ hops, d < c → (d, x.id, 1) ∈ s.chainCtx) →
      (∀ y ∈ s.chainCtx, y.1 = c → y.2.1 ≠ x.id ∧ y.2.2 = 1) →
      ∃ t, exec (.chainReservation (me s) x.id) s = .next t ∧ t.hart = s.hart ∧
        t.chainCtx = s.chainCtx ++ [(c, x.id, if s.chainCtx.countP (fun y => y.1 == c) < 4 then 1 else 0)]) ∧
    (b = none → (∀ c ∈ hops, (c, x.id, 1) ∈ s.chainCtx) →
      ∃ t block, exec (.chainReservation (me s) x.id) s = .next t ∧
        engineNow s t x { x with kind := .chain off n w hops (some block) p st sk } ∧
        ∀ i, i < n → sget block i = sget s.hart.spad (off + i)) ∧
    (∀ block c k, b = some block → hops[k]? = some c → p.testBit k = false → (∀ j, j < k → p.testBit j = true) → c ≠ s.hart.core → (∀ q ∈ block, q.1 < n) → Sparse.wf block = true →
      let ok := hopStores s ⟨none, s.hart, x⟩ c off n w
      let at_ := fun i => (sget (hartAt s c).spad i)
      let y := if ok then EngineKind.chain off n w hops b (p ||| 2 ^ k) (st + 1) sk
        else .chain off n w hops b (p ||| 2 ^ k) st (sk + 2 ^ k)
      ∃ t, exec (.chainHopStore (me s) x.id) s = .next t ∧ engineNow s t x { x with kind := y } ∧
        (ok = false → (hartAt t c).spad = (hartAt s c).spad) ∧
        (ok = true → ∀ i, (∀ a, w = some a → ¬(8 * a ≤ i ∧ i < 8 * a + 8)) →
          sget (hartAt t c).spad i = if off ≤ i ∧ i < off + n then sget block (i - off) else at_ i) ∧
        (ok = true → ∀ a, w = some a → (8 * a + 8 ≤ off ∨ off + n ≤ 8 * a) →
          sgetBytes (hartAt t c).spad (8 * a) 8 = (sgetBytes (hartAt s c).spad (8 * a) 8 + 1) % 2 ^ 64 ∧
            (hartAt t c).csr.status.getLsbD 6 = true)) ∧
    (x.fault = none → b.isSome = true → (∀ j, j < hops.length → p.testBit j = true) → st ≤ hops.length →
      ∃ t, exec (.chainDone (me s) x.id) s = .next t ∧ engineEnded s t x
        (if st = hops.length then statusWord 5 0 st 0 else statusWord 5 3 st (sk + 256 * 0x09)))

/-! ### Virtual processors -/

/-- VF with no other VF running takes its block, each lane cluster with a processor through its own cache, and starts every active virtual processor on it, with the registers, VTYPE and
length of that moment; VPF sends the executing one to its target and VPSTOP ends it, the VF with the last; for the control thread
both take 0x01; VPJOIN goes on when no VF runs, and else waits (R15, R138, R203 to R206). -/
def Obligations.VirtualProcessors : Prop :=
  ∀ s : State,
    (∀ (m : MReg) (l : Fin 16) (o : BitVec 19), s.hart.vf = none →
      let b := s.hart.pc + 4 * o.signExtend 64
      let es := (List.range (lengthOf s.hart)).filter (active s.hart m)
      let cs := if es = [] then [0] else (es.map (fun e => e % 64 / 8)).eraseDups
      let k := takeBlocks s b (l.val + 1) cs ⟨s, [], [], [], none⟩
      k.fail = none → ∃ t, exec (.vf m l o) s = .next t ∧ t.hart.pc = s.hart.pc + 4 ∧ t.hart.regs = s.hart.regs ∧
        t.hart.spad = s.hart.spad ∧ t.hart.vec.vrf = s.hart.vec.vrf ∧ t.hart.vec.masks = s.hart.vec.masks ∧
        t.hart.vf = if es = [] then none else
          some ⟨s.hart.vnow, s.hart.ir, s.hart.pc, b, l.val + 1, k.words, s.hart.regs, s.hart.csr.vtype, s.hart.csr.vl,
            es.map (fun e => ⟨e, b, some 0, 0⟩), k.dests, k.masks⟩) ∧
    (∀ r v, s.hart.vf = some r → s.hart.vpNow = some v.elem → r.vps.filter (fun y => y.elem == v.elem) = [v] →
      (∀ l o, exec (.vpf l o) s = .next { s with hart := { s.hart with vf := some { r with
        vps := r.vps.map (fun y => if y.elem = v.elem then { v with pc := v.pc + 4 * o.signExtend 64, word := none } else y) } } }) ∧
      (let rest := r.vps.filter (fun y => y.elem != v.elem)
      ∃ t, exec .vpstop s = .next t ∧ sameData s t ∧ t.hart.pc = s.hart.pc ∧
        t.hart.csr = { s.hart.csr with fcsr := s.hart.csr.fcsr ||| word (v.flags % 32) } ∧
        t.hart.vf = if rest = [] then none else some { r with vps := rest })) ∧
    (∀ i, (i = .vpstop ∨ ∃ l o, i = .vpf l o) → s.hart.vpNow = none → mayEnter s.hart →
      ∃ t, exec i s = .next t ∧ entered s t 0x01 (s.hart.ir.zeroExtend 64) 0 s.hart.pc) ∧
    (s.hart.vf = none → ∃ t, exec .vpjoin s = .next t ∧ s.onlyPc t (s.hart.pc + 4)) ∧
    (s.hart.vf ≠ none → exec .vpjoin s = .next { s with hart := { s.hart with stalled := true } })

/-! ### Marked loops -/

/-- LMARK opens a loop that is recorded, or declines it with code 1 where its trip count is not above RECN or too large; LNEXT counts
down and branches, and closes a recorded iteration, or declines the loop where a word breaks its role; LJOIN closes a declined loop,
hands a finished one's carried registers back, an acquire, and goes to its target where the replay departed, and declines one that is
still recorded with code 12, which is the model's reading (log 46); a verdict declines or confirms; an iteration is replayed once the
stores of the one before are written, by steps that each read a granule: with the last of them it is computed, its stores held for
the steps that write them, or it departs; and the status is written once they are (R101, R116, R238 to R244, R349). -/
def Obligations.MarkedLoops : Prop :=
  ∀ s : State,
    (s.hart.loop = none →
      (∀ d a b c, let n := (getReg s a).toNat
        ∃ t, exec (.lmark d a b c) s = .next t ∧ t.hart.pc = s.hart.pc + 4 ∧ t.serial = s.serial + 1 ∧
          (s.hart.csr.recn.toNat < n → n < 2 ^ 24 → t.hart.regs = s.hart.regs ∧ pendingNow s.hart t.hart d true ∧
            ∃ l, t.hart.loop = some l ∧ l.rd = d ∧ l.count = a ∧ l.ind1 = b ∧ l.ind2 = c ∧ l.top = s.hart.pc + 4 ∧ l.n = n ∧
              l.iter = 0 ∧ l.phase = .recording) ∧
          (n ≤ s.hart.csr.recn.toNat ∨ 2 ^ 24 ≤ n →
            (∀ r, getReg t r = if r = d ∧ d ≠ 0 then loopWord 1 0 1 else getReg s r) ∧
            ∃ l, t.hart.loop = some l ∧ l.phase = .declined)) ∧
      (∀ a (o : BitVec 13), ∃ t, exec (.lnext a o) s = .next t ∧
        s.onlyResult t a (getReg s a - 1) (s.hart.pc + if getReg s a - 1 = 0 then 4 else 4 * o.signExtend 64)) ∧
      (mayEnter s.hart → ∀ a o, ∃ t, exec (.ljoin a o) s = .next t ∧
        entered s t 0x01 (s.hart.ir.zeroExtend 64) 0 s.hart.pc)) ∧
    (∀ l, s.hart.loop = some l →
      (l.phase = .recording → 0 < l.iter → ∀ o : BitVec 13, s.hart.pc + 4 * o.signExtend 64 = l.top →
        (∀ off, roleFault l (l.cur ++ l.ops.flatten) = some off → ∃ t u, exec (.lnext l.count o) s = .next t ∧
          t.hart.loop = some u ∧ u.phase = .declined ∧
          (l.rd ≠ 0 → getReg t l.rd = loopWord 1 (l.iter % 2 ^ 24) (2 + 256 * off))) ∧
        (roleFault l (l.cur ++ l.ops.flatten) = none →
        let phase := if s.hart.csr.recn.toNat ≤ l.iter + 1 then LoopPhase.verdict else .recording
        let closed := { l with iter := l.iter + 1, ops := l.ops ++ [l.cur], cur := [], endPc := some s.hart.pc, phase := phase }
        ∃ t, exec (.lnext l.count o) s = .next t ∧ t.hart.loop = some closed ∧
          getReg t l.count = (if l.count = 0 then 0 else getReg s l.count - 1))) ∧
      (l.phase = .declined → ∀ o, exec (.ljoin l.rd o) s = .next { s with hart := { s.hart with pc := s.hart.pc + 4, loop := none } }) ∧
      (l.phase = .recording → l.rd ≠ 0 → ∀ o, ∃ t, exec (.ljoin l.rd o) s = .next t ∧ t.hart.pc = s.hart.pc + 4 ∧
        t.hart.loop = none ∧ ∀ r, getReg t r = if r = l.rd then loopWord 1 (l.iter % 2 ^ 24) 12 else getReg s r) ∧
      (∀ w, l.phase = .finished w → ∀ o : BitVec 13, ∃ t, exec (.ljoin l.rd o) s = .next t ∧ t.hart.loop = none ∧
        t.mem = (acquireNow s).mem ∧ t.hart.released = false ∧
        t.hart.pc = s.hart.pc + (if w.toNat / 2 ^ 56 % 16 = 2 then 4 * o.signExtend 64 else 4) ∧
        ∀ r, getReg t r = if r ≠ 0 ∧ (r = l.count ∨ r = l.ind1 ∨ r = l.ind2) then l.regs[r] else getReg s r) ∧
      (s.hart.core < 128 → l.phase = .verdict → unstarted s.hart = [] → s.hart.held = none → s.hart.vf = none →
        s.hart.loads = [] →
        let code := if s.hart.csr.vl ≠ l.csr.vl then some 10 else verdictCode s s.hart l
        ∃ t u, exec (.loopVerdict (me s)) s = .next t ∧ t.hart.loop = some u ∧
          (∀ c, code = some c → u.phase = .declined ∧ t.hart.pc = s.hart.pc ∧
            (l.rd ≠ 0 → getReg t l.rd = loopWord 1 ((l.iter - 1) % 2 ^ 24) c)) ∧
          (code = none → u.phase = .replaying ∧ u.next = l.iter ∧ u.regs = s.hart.regs ∧
            t.hart.regs = s.hart.regs ∧ (drains s.hart → t.hart.buffer = []) ∧ ∀ e, l.endPc = some e → t.hart.pc = e + 4)) ∧
      (s.hart.core < 128 → l.phase = .replaying → l.next < l.n → ∀ e, stopeAt s (l.stack.getD 0) l.stope = some e →
        e.suspended = none → e.since < s.clock →
        let k := l.stack.getD 0
        let todo := (replayReads l e).filter (fun q => !e.reads.contains q)
        let opened := fun q => setStope (openGranule s k (1024 * q)) k l.stope (fun e => { e with reads := e.reads ++ [q] })
        (e.accs ≠ [] → exec (.replayIteration (me s)) s = .next s) ∧
        (∀ q rest, e.accs = [] → todo = q :: rest → stepReady s k (1024 * q) = false →
          exec (.replayIteration (me s)) s = .next s) ∧
        (∀ q x rest, e.accs = [] → todo = q :: x :: rest → stepReady s k (1024 * q) = true →
          ∃ t f, exec (.replayIteration (me s)) s = .next t ∧ t.hart = s.hart ∧ t.mem = s.mem ∧
            stopeAt t k l.stope = some f ∧ f.reads = e.reads ++ [q] ∧ f.accs = []) ∧
        (∀ v : State, e.accs = [] →
          ((todo = [] ∧ v = s) ∨ ∃ q, todo = [q] ∧ stepReady s k (1024 * q) = true ∧ v = opened q) →
          let b := replayOps { v with hart := replayHart s.hart l, packets := []
                                      dirty := s.dirty.filter (fun y => y.core != s.hart.core) } ⟨[], []⟩ (l.ops.getD 0 [])
          ∃ t u, exec (.replayIteration (me s)) s = .next t ∧ t.hart.loop = some u ∧ t.hart.regs = s.hart.regs ∧
            t.hart.pc = s.hart.pc ∧
            (∀ cause z, b = .inr (cause, z) → u = { l with phase := .over (loopWord 2 l.next cause) } ∧ t.mem = s.mem) ∧
            (∀ w st, b = .inl (w, st) → u.next = l.next + 1 ∧ u.regs = w.hart.regs ∧ u.vec = w.hart.vec ∧
              ∃ f, stopeAt t k l.stope = some f ∧ f.accs = st.bytes ∧ ∀ c ∈ st.bytes, sget t.mem c.1 = sget s.mem c.1))) ∧
      (s.hart.core < 128 → (∀ e, stopeAt s (l.stack.getD 0) l.stope = some e → e.accs = []) →
        ∀ w, (l.phase = .over w ∨ (l.phase = .replaying ∧ l.n ≤ l.next ∧ w = loopWord 0 l.n 0)) →
        ∃ t u, exec (.loopStatusWrite (me s)) s = .next t ∧ t.hart.loop = some u ∧ u.phase = .finished w ∧
          (∀ r, getReg t r = if r = l.rd ∧ r ≠ 0 then w else getReg s r) ∧ pendingNow s.hart t.hart l.rd false))

/-! ### Standing loads -/

/-- The hart's own stores to its slots performed, with those before them, where there are any (R56, R93). -/
def Sys2Proof.Claims.slotsStored (s : State) : State :=
  if s.hart.buffer.any (storesSlot s.hart) then drainBuffer s s.hart.core else s

/-- The hart's own stores to the word at `pa` performed, with those before them, where there are any (R105). -/
def Sys2Proof.Claims.wordStored (s : State) (pa : Nat) : State :=
  if s.hart.buffer.any (fun st => st.place.word8 == (Place.phys pa).word8) then drainBuffer s s.hart.core else s

/-- STAND on a slot that is not busy, to an aligned global word, subscribes at the word's home or is refused there, its answer on the
way; UNSTAND of an armed slot ends the subscription and drains, of a refused one frees it, and else reports state 4; TAKE reads VALUE and
clears FRESH; WAITSL answers 1 when fresh, 2 when the slot is not armed or draining, 0 at its timeout, and else stalls; STAND, a TAKE of a
live slot and an answer 1 come after the releases before them (R103, R219 to R224). -/
def Sys2Proof.Claims.StandingInstructions : Prop :=
  ∀ s d r, frozen s.hart d = false → slotFree s r → drains s.hart →
    let u := slotsStored s
    let n := (getReg s r).toNat
    let st := slotState u.hart n
    (∀ a pa, (st = 0 ∨ st = 3) → (getReg s a).toNat % 8 = 0 → 0x400000 ≤ (getReg s a).toNat → u.bad = [] →
      cachedAt u (getReg s a) 8 .read pa →
      let v := acquireNow (wordStored u pa)
      ∃ t ans, exec (.stand d a r) s = .next t ∧ t.hart.pc = s.hart.pc + 4 ∧ t.hart.regs = s.hart.regs ∧ t.mem = v.mem ∧
        pendingNow s.hart t.hart d true ∧ t.stands = v.stands ++ [ans] ∧
        ans.core = s.hart.core ∧ ans.slot = n ∧ ans.rd = some d ∧ ans.pa = pa / 8 * 8 ∧ ans.value = word8 v pa ∧ ans.held = 0 ∧
        ans.refusal = refusalOf v (pa / 8 * 8) ∧
        (ans.refusal ≠ 0 → t.directory = v.directory) ∧
        (ans.refusal = 0 → ∃ e ∈ t.directory, e.pa = pa / 8 * 8 ∧ e.seq = ans.seq ∧
          ⟨slotOwner s.hart n, 0, false, none, none⟩ ∈ e.subs)) ∧
    ((st = 1 ∨ st = 4) → ∃ t, exec (.unstand d r) s = .next t ∧ t.hart.pc = s.hart.pc + 4 ∧ t.hart.regs = s.hart.regs ∧
      pendingNow s.hart t.hart d true ∧ slotState t.hart n = 2 ∧ slotValue t.hart n = slotValue u.hart n ∧
      t.unstands = u.unstands ++ [⟨s.hart.core, n, partOf s.hart, launchOf s.hart, (slotWords u n).headD 0, d, sentTo u (slotOwner s.hart n), false⟩] ∧
      ∀ e ∈ t.directory, ∀ b ∈ e.subs, b.who ≠ slotOwner s.hart n) ∧
    (st ≠ 1 → st ≠ 4 → ∃ t, exec (.unstand d r) s = .next t ∧ t.hart.pc = s.hart.pc + 4 ∧ t.mem = u.mem ∧
      slotState t.hart n = (if st = 3 then 0 else st) ∧ ∀ q, getReg t q = if q = d ∧ d ≠ 0 then
        (if st = 3 then statusWord 8 0 0 (slotSeq u.hart n).toNat else statusWord 8 4 0 (if st = 2 then 2 else 1))
        else getReg s q) ∧
    (let v := if st = 1 ∨ st = 2 then acquireNow u else u
      ∃ t, exec (.take d r) s = .next t ∧ t.hart.pc = s.hart.pc + 4 ∧ t.mem = v.mem ∧ otherSlots v.hart t.hart n ∧
      slotIs t.hart n (slotValue v.hart n) (slotSeq v.hart n) (slotOvr v.hart n) (slotState v.hart n) (slotFlags v.hart n / 2 * 2) ∧
      ∀ q, getReg t q = if q = d ∧ d ≠ 0 then slotValue v.hart n else getReg s q) ∧
    (∀ b due, (∀ x, s.hart.waitDue = some (s.hart.pc, x) → due = x) →
      ((∀ x, s.hart.waitDue ≠ some (s.hart.pc, x)) → due = s.clock + (getReg s b).toNat) →
      ∃ t, exec (.waitsl d r b) s = .next t ∧
      let fresh := slotFlags u.hart n % 2 = 1
      let answers := fun (v : Word) (w : State) => t.hart.pc = s.hart.pc + 4 ∧ t.hart.run = s.hart.run ∧ t.mem = w.mem ∧
        t.hart.spad = w.hart.spad ∧ ∀ q, getReg t q = if q = d ∧ d ≠ 0 then v else getReg s q
      (st ≠ 1 → st ≠ 2 → answers 2 u) ∧
      ((st = 1 ∨ st = 2) → fresh → answers 1 (acquireNow u)) ∧
      ((st = 1 ∨ st = 2) → ¬fresh → due ≤ s.clock → answers 0 u) ∧
      ((st = 1 ∨ st = 2) → ¬fresh → s.clock < due → t.hart.pc = s.hart.pc ∧ t.hart.regs = s.hart.regs ∧ t.mem = u.mem ∧
        t.hart.spad = u.hart.spad ∧ t.hart.run = .waitSlot d n s.clock due))

/-- VSTAND sends the request of R220 for each active element, whose slot is the next after the one named, and returns the words;
VTAKE returns the slots' values and clears FRESH of each; both come after the releases before them, VTAKE where a slot is live
(R103, R227). -/
def Sys2Proof.Claims.StandingVectors : Prop :=
  ∀ s (t : VReg) (m : MReg) sl, freshStart s.hart → (s.hart.released = true → drains s.hart) →
    let h := s.hart
    let n := lengthOf h
    let tag := dtagOf h.csr
    let k := (getReg s sl).toNat
    let es := (List.range n).filter (active h m)
    k + n ≤ 1024 → (∀ e ∈ es, standOutstanding s h.core (k + e) = false) →
    (∀ b i (pa : Nat → Nat), standRejects h t (some i) = none →
      let v := acquireNow s
      quiet v →
      (∀ e ∈ es, (slotState v.hart (k + e) = 0 ∨ slotState v.hart (k + e) = 3) ∧ (indexAddr s b i e).toNat % 8 = 0 ∧
        0x400000 ≤ (indexAddr s b i e).toNat ∧ cachedAt v (indexAddr s b i e) 8 .read (pa e)) →
      ∃ u, exec (.vstand t b i m sl) s = .next u ∧ wentOn v u none ∧ u.hart.csr = h.csr ∧
        elementsWritten v u t.val tag n n (active h m) (fun e => (word8 v (pa e)).toNat) ∧
        ∃ q, u.stands = v.stands ++ q ∧ q.map (fun a => (a.core, a.slot, a.pa, a.value, a.rd)) =
          es.map (fun e => (h.core, k + e, pa e / 8 * 8, word8 v (pa e), none))) ∧
    (standRejects h t none = none →
      let v := if es.any (fun e => slotLive h (k + e)) then acquireNow s else s
      (∀ q ∈ v.packets, q.core ≠ h.core) →
      ∃ u, exec (.vtake t m sl) s = .next u ∧ u.hart.pc = h.pc + 4 ∧ u.hart.regs = h.regs ∧ u.mem = v.mem ∧ u.hart.csr = h.csr ∧
        elementsWritten v u t.val tag n n (active h m) (fun e => (slotValue v.hart (k + e)).toNat) ∧
        (∀ e ∈ es, slotIs u.hart (k + e) (slotValue v.hart (k + e)) (slotSeq v.hart (k + e)) (slotOvr v.hart (k + e))
          (slotState v.hart (k + e)) (slotFlags v.hart (k + e) / 2 * 2)) ∧
        ∀ a, (∀ e ∈ es, a ≠ slotOffset h (k + e) + 15) → sget u.hart.spad a = sget v.hart.spad a)

/-- The home's answer arms its slot with the word and writes rd, or leaves it refused with the cause in OVR; a push that arrives at an
armed or draining slot with a newer sequence is kept there as fresh and counted, an older one only counted, one for a parked slot
comes back, and its home counts it as not sent and keeps the newest; a draining slot that has received what was sent becomes idle
and its status is written; a wait whose timeout has come answers 0 (R220 to R226). -/
def Sys2Proof.Claims.StandingEvents : Prop :=
  ∀ s : State,
    (∀ (k : Nat) a, s.stands[k]? = some a → a.core = s.hart.core → a.slot < 1024 → a.refusal < 2 ^ 16 → a.kept = none →
      ∃ t, exec (.standAnswer k) s = .next t ∧ t.stands = s.stands.eraseIdx k ∧ t.mem = s.mem ∧
        otherSlots s.hart t.hart a.slot ∧
        (if a.refusal = 0 then slotIs t.hart a.slot a.value a.seq 0 1 0 ∧ received t.hart a.slot = a.held % 2 ^ 32
          else slotIs t.hart a.slot a.value 0 a.refusal 3 0) ∧
        (∀ d, a.rd = some d → pendingNow s.hart t.hart d false ∧ ∀ q, getReg t q = if q = d ∧ d ≠ 0 then a.value else getReg s q) ∧
        (a.rd = none → t.hart.regs = s.hart.regs)) ∧
    (∀ (k : Nat) p n, s.pushes[k]? = some p → p.transit = .mesh → recovering s p.endpoint = 0 → p.who = slotOwner s.hart n →
      s.hart.owner.isSome = true → standOutstanding s s.hart.core n = false → parkedAt s p.pa p.who = false → slotState s.hart n = 1 → n < 1024 →
      let h := s.hart
      let fresh := decide (slotFlags h n % 2 = 1)
      ∃ t, exec (.pushArrival k) s = .next t ∧ t.pushes = s.pushes.eraseIdx k ∧ t.hart.regs = s.hart.regs ∧
        otherSlots h t.hart n ∧ received t.hart n = (received h n + 1) % 2 ^ 32 ∧
        (1 ≤ (p.seq - slotSeq h n).toNat ∧ (p.seq - slotSeq h n).toNat ≤ 2 ^ 31 →
          slotIs t.hart n p.value p.seq (if fresh then Nat.min (slotOvr h n + 1) 0xFFFF else slotOvr h n) 1
            ((if fresh then slotFlags h n ||| 2 else slotFlags h n) ||| 1) ∧ t.hart.csr.status.getLsbD 6 = true) ∧
        (¬(1 ≤ (p.seq - slotSeq h n).toNat ∧ (p.seq - slotSeq h n).toNat ≤ 2 ^ 31) → t.hart.spad = h.spad)) ∧
    (∀ (k : Nat) p n, s.pushes[k]? = some p → p.transit = .mesh → recovering s p.endpoint = 0 → p.who = slotOwner s.hart n →
      standOutstanding s s.hart.core n = false →
      parkedAt s p.pa p.who = true → ∃ t, exec (.pushArrival k) s = .next t ∧ t.pushes = s.pushes.eraseIdx k ∧
        t.bounces = s.bounces ++ [p] ∧ t.hart = s.hart) ∧
    (∀ (k : Nat) p, s.bounces[k]? = some p → ∃ t, exec (.pushBounce k) s = .next t ∧ t.bounces = s.bounces.eraseIdx k ∧
      ∀ e b, s.directory.find? (fun y => y.pa == p.pa) = some e → e.subs = [b] → b.who = p.who → b.rearm = none →
        ∃ f g, t.directory.find? (fun y => y.pa == p.pa) = some f ∧ f.subs = [g] ∧ g.sent = b.sent - 1 ∧
          (b.parked = true → g.latest = match b.latest with
            | none => some (p.value, p.seq)
            | some x => if newer p.seq x.2 then some (p.value, p.seq) else some x)) ∧
    (∀ (k : Nat) u, s.unstands[k]? = some u → u.core = s.hart.core → u.slot < 1024 →
      (∀ x ∈ s.unstands, x ≠ u → x.core ≠ u.core ∨ x.slot ≠ u.slot) → slotState s.hart u.slot = 2 →
      ∃ t, exec (.unstandAnswer k) s = .next t ∧
        (received s.hart u.slot = u.count → slotState t.hart u.slot = 0 ∧ pendingNow s.hart t.hart u.rd false ∧
          ∀ q, getReg t q = if q = u.rd ∧ q ≠ 0 then statusWord 8 0 u.count (slotSeq s.hart u.slot).toNat else getReg s q) ∧
        (received s.hart u.slot ≠ u.count → t.hart = s.hart)) ∧
    (∀ d n since due, s.hart.core < 128 → s.hart.run = .waitSlot d n since due → due ≤ s.clock →
      slotFlags s.hart n % 2 = 0 →
      ∃ t, exec (.waitslTimeout (me s)) s = .next t ∧ t.hart.run = .running ∧ t.hart.pc = s.hart.pc + 4 ∧
        ∀ q, getReg t q = if q = d ∧ q ≠ 0 then 0 else getReg s q)

/-- What standing loads do: the scalar instructions, the vector ones, and what arrives from the homes. -/
def Obligations.StandingLoads : Prop := StandingInstructions ∧ StandingVectors ∧ StandingEvents

/-! ### Launches and the arbiter -/

/-- LAUNCH sends the leader's request, its register pending on every member; CANCEL withdraws a launch that has not started, writing its
completion word with STATE 7, and else answers 6, or 4 with why; END frees the core of a hart with nothing left to wait for, whose
registers stand, and adds it to its launch (R64, R263 to R266). -/
def Sys2Proof.Claims.LaunchInstructions : Prop :=
  ∀ s d a, coresApart s → s.hart ∈ gangNow s → (∀ h ∈ gangNow s, frozen h d = false) →
    let l := leaderNow s
    let v := regOf l a
    let id := v.toNat % 2 ^ 24
    (∃ t, exec (.launch d a) s = .next t ∧ membersNow s t (fun h g => g.regs = h.regs ∧ pendingNow h g d true) ∧
      (hartAt t l.core).launchReqs = l.launchReqs ++ [⟨d, v, supervisor l, none, none⟩] ∧
      (drains l → (hartAt t l.core).buffer = []) ∧ ∀ q ∈ t.packets, q.core ≠ l.core) ∧
    ((2 ^ 24 ≤ v.toNat → ∃ t, exec (.cancel d a) s = .next t ∧ t.launches = s.launches ∧
        membersTook s t d (statusWord 10 4 id 6)) ∧
      (v.toNat < 2 ^ 24 →
        (∀ x ∈ s.launches, x.id ≠ id) → ∃ t, exec (.cancel d a) s = .next t ∧ membersTook s t d (statusWord 10 4 id 2)) ∧
      (v.toNat < 2 ^ 24 → (∃ x ∈ s.launches, x.id = id) → (∀ x ∈ s.launches, x.part = partOf l → x.id ≠ id) →
        ∃ t, exec (.cancel d a) s = .next t ∧ membersTook s t d (statusWord 10 4 id 7)) ∧
      (v.toNat < 2 ^ 24 → ∀ x, launchAt s (partOf l) id = some x →
        (0 < x.dispatched → ∃ t, exec (.cancel d a) s = .next t ∧ t.launches = s.launches ∧
          membersTook s t d (statusWord 10 6 id 0)) ∧
        (x.dispatched = 0 → x.failed = false → ∃ t, exec (.cancel d a) s = .next t ∧ membersTook s t d (statusWord 10 7 id 0) ∧
          (∀ y ∈ t.launches, y.part = partOf l → y.id ≠ id) ∧
          ∀ pa, x.completion = some pa → pa % 8 = 0 → refusal s x.part pa = none → word8 t pa = finishedWord 0 7 0))) ∧
    (gangSize s.hart = 1 → s.hart.loop = none → (s.hart.started = true ∨ (s.hart.vf = none ∧ s.hart.held = none)) →
      s.hart.queue = [] → s.hart.loads = [] → s.hart.engines = [] → s.hart.launchReqs = [] →
      ∃ t, exec .endProg s = .next t ∧ ended s.hart t.hart ∧ (∀ q ∈ t.packets, q.core ≠ s.hart.core) ∧
        t.launches = s.launches.map (fun x => if x.part = partOf s.hart ∧ x.id = launchOf s.hart then
          { x with gone := x.gone + 1, ended := x.ended + 1, flags := x.flags ||| s.hart.csr.fcsr.toNat % 32 } else x))

/-- The store answers a request whose record it has read: 4 with the code of the first check that the record fails, and else, with its
words reachable and room, 0 with the identifier of the entry it makes.  A launch that is ended has its harts freed and its entry
complete; the completion word of a launch with nothing left is written and its entry gone (R263, R266, R308, R323). -/
def Sys2Proof.Claims.LaunchEvents : Prop :=
  ∀ s : State,
    (∀ q bs, s.hart.core < 128 → gangSize s.hart = 1 → s.hart.launchReqs = [q] → q.batch = none → q.record = some bs →
      ∀ p, s.parts[partOf s.hart]? = some p →
      let r := recordOf bs
      let code := recordRejects r (popCount p.cores.toNat 128)
      let answered := fun (t : State) v => t.hart.launchReqs = [] ∧ pendingNow s.hart t.hart q.rd false ∧
        ∀ x, getReg t x = if x = q.rd ∧ x ≠ 0 then v else getReg s x
      (code ≠ 0 → ∃ t, exec (.launchAnswer (me s)) s = .next t ∧ answered t (statusWord 9 4 0 code) ∧ t.launches = s.launches) ∧
      (code = 0 → ∀ ws, launchWords s s.hart q.super r = (ws, s) → (∀ w ∈ ws, ∃ pa, w.1 = .ok pa) → s.bad = [] →
        s.launches.countP (fun l => l.completion.isSome) < 4096 →
        s.launches.countP (fun l => l.completion.isSome && l.part == partOf s.hart) < (pcpWord s (partOf s.hart) 8).toNat →
        ∃ t l, exec (.launchAnswer (me s)) s = .next t ∧ answered t (statusWord 9 0 l.id 0) ∧ t.launches = s.launches ++ [l] ∧
          l.part = partOf s.hart ∧ l.entry = r.entry ∧ l.arg = r.arg ∧ l.size = r.size ∧ l.cls = r.cls ∧ l.gangs = r.gangs ∧
          l.dispatched = 0 ∧ l.gone = 0 ∧ l.failed = false)) ∧
    (∀ (p : PartId) (id : BitVec 24) l, l.part = p.val → l.id = id.toNat → onlyLaunch s l →
      (l.live = true → ∃ t, exec (.endLaunch p id) s = .next t ∧
        (∀ h ∈ t.harts, runsFor h p.val id.toNat = false) ∧
        ∃ m ∈ t.launches, m.part = l.part ∧ m.id = l.id ∧ m.failed = true ∧ m.gone = l.size * l.gangs) ∧
      (l.size * l.gangs ≤ l.gone → (∀ h ∈ s.harts, runsFor h l.part l.id = false) →
        ∃ t, exec (.completionWordWrite p id) s = .next t ∧ (∀ m ∈ t.launches, m.part = l.part → m.id ≠ l.id) ∧
          ∀ pa, l.completion = some pa → pa % 8 = 0 → refusal s l.part pa = none →
            (∀ b ∈ s.parts, pa + 8 ≤ b.pcpAddr.toNat ∨ b.pcpAddr.toNat + 8 ≤ pa) →
            word8 t pa = finishedWord l.ended (if l.failed then 3 else 0) l.flags))

/-- A dispatch round with one launch ready starts a hart of it on the lowest core that is free and allowed; a candidate that waited AGE
cycles rises, and keeps the class that it had for the rounds of that cycle; a push with its top bit set, or a poll 4,096 cycles after the last, satisfies a dependence; a YIELD that is not taken only
goes on, and one that is taken stops the hart there (R41, R170, R310, R311). -/
def Sys2Proof.Claims.ArbiterSteps : Prop :=
  ∀ s : State,
    (∀ (p : PartId) c l k, candidates s p.val = [c] → c.husk = false → c.size = 1 → launchAt s p.val c.launch = some l →
      l.size = 1 → k < 128 → (∃ h ∈ s.harts, h.core = k) →
      (∀ j, j ≤ k → (mayDispatch s p.val j && idleCore s j) = decide (j = k)) →
      ∃ t, exec (.dispatchRound p) s = .next t ∧ t.mem = s.mem ∧
        (let h := hartAt t k
        h.pc = l.entry &&& 0xFFFFFFFFFFFFFFFC ∧ h.regs = startRegs l.arg ∧ h.run = .running ∧ h.vec = Vec.start ∧
          h.csr = { Csr.start k (if l.hyper then 0 else pcpWord s l.part 0x28) with status := if l.hyper then 2 else 0 } ∧
          h.owner = some ⟨l.part, l.id, l.dispatched, 0, 1, k, l.current, s.clock⟩) ∧
        t.launches = s.launches.map (fun x => if x.part = l.part ∧ x.id = l.id then { x with dispatched := x.dispatched + 1 } else x)) ∧
    (∀ (p : PartId) (k : Nat) c, (candidates s p.val)[k]? = some c → c.husk = false →
      ∃ t, exec (.agingRise p k) s = .next t ∧
        t = (if c.rise + (s.parts[p]).age.toNat ≤ s.clock ∧ c.rise < s.clock ∧ c.cls < 3 then
          { s with launches := s.launches.map (fun x => if x.part = p.val ∧ x.id = c.launch then
              { x with current := x.current + 1, rise := s.clock } else x) } else s) ∧
        (c.arrival < s.clock → ((candidates t p.val)[k]?).map (·.cls) = some c.cls)) ∧
    (∀ (p : PartId) (id : BitVec 24) (d : Fin 2) l x y, onlyLaunch s l → l.part = p.val → l.id = id.toNat → l.deps[d.val]? = some x →
      (s.pushes.filter (fun z => z.who == .dependence p.val id.toNat d.val) = [y] → y.transit = .mesh → recovering s y.endpoint = 0 →
        y.value.getLsbD 63 = true →
        ∃ t m, exec (.dependenceSatisfied p id d) s = .next t ∧ onlyLaunch t m ∧ m.part = l.part ∧ m.id = l.id ∧
          m.deps[d.val]? = some { x with done := true } ∧ ∀ z ∈ t.pushes, z.who ≠ .dependence p.val id.toNat d.val) ∧
      (x.refused = true → x.done = false → x.polled + 4096 ≤ s.clock →
        ∃ t m, exec (.dependencePoll p id d) s = .next t ∧ onlyLaunch t m ∧ m.part = l.part ∧ m.id = l.id ∧ t.mem = s.mem ∧
          m.deps[d.val]? = some { x with done := (word8 s x.pa).getLsbD 63, polled := s.clock })) ∧
    (gangSize s.hart = 1 →
      ((s.hart.owner = none ∨ yieldTaken s s.hart = false) → ∃ t, exec .yield s = .next t ∧ s.onlyPc t (s.hart.pc + 4)) ∧
      (s.hart.owner.isSome = true → yieldTaken s s.hart = true → s.hart.loop = none → s.hart.run = .running →
        unstarted s.hart = [] → ∃ t, exec .yield s = .next t ∧ stoppedAt s t .preempt ∧ t.hart.pc = s.hart.pc + 4 ∧ t.hart.run = .stopped none))

/-- Launches from their instructions to their completion word, and the arbiter.  The model's choice, and no rule's, are: that LAUNCH
performs the earlier accesses as it issues (log 38), that a core whose hart has ended keeps its registers and that the hypervisor's hart
starts with TVEC 0 (log 2), that the low bits of an entry are dropped (log 16), and when a YIELD is taken (log 39). -/
def Obligations.LaunchesAndArbiter : Prop := LaunchInstructions ∧ LaunchEvents ∧ ArbiterSteps

/-! ### Pre-emption and husks -/

/-- A stop that arrives puts its hart at its stop point, rolled back to the oldest vector instruction that has not started; a stopped hart
with nothing owed is saved into the lowest empty husk slot, with the header at the start of the slot, and its core is freed; a wake, a
timeout and a release make a husk runnable; a dump request marks the gang and a release gives the slot back (R172, R314 to R319, R390).
That magic and version are the header's first 8 bytes is the model's choice (log 34), as is one slot for each member (log 40). -/
def Obligations.PreemptionSteps : Prop :=
  ∀ s : State, s.hart.core < 128 →
    (∀ o r, gangSize s.hart = 1 → s.hart.owner = some o → s.hart.loop = none → s.hart.run = .running → s.hart.stopping = some r →
      ∃ t, exec (.preemptRequest (me s)) s = .next t ∧ t.hart.stopping = some r ∧ t.hart.vec = s.hart.vec ∧ t.mem = s.mem ∧
        t.hart.run = .stopped none ∧ t.hart.csr.status.getLsbD 6 = true ∧
        (unstarted s.hart = [] → t.hart.pc = s.hart.pc ∧ t.hart.regs = s.hart.regs ∧ t.hart.queue = s.hart.queue) ∧
        ∀ q qs, unstarted s.hart = q :: qs → t.hart.pc = q.work.pc ∧ t.hart.regs = q.back.regs ∧ t.hart.pending = q.back.pending ∧
          unstarted t.hart = []) ∧
    (∀ o w slot, gangSize s.hart = 1 → s.hart.owner = some o → s.hart.run = .stopped w → s.hart.launchReqs = [] →
      (∀ a ∈ s.stands, a.core ≠ s.hart.core) → (∀ u ∈ s.unstands, u.core ≠ s.hart.core) →
      (∀ l ∈ s.hart.loads, ∀ st ∈ s.hart.buffer, st.mark ≤ l.id) →
      slot < 128 → slot < (pcpWord s o.part 0x20).toNat → huskIn s o.part slot = none →
      (∀ j, j < slot → (huskIn s o.part j).isSome = true) → s.hart.stopping ≠ some .park →
      ∃ t k, exec (.huskSave (me s)) s = .next t ∧ freed t.hart ∧ k ∈ t.husks ∧ k.part = o.part ∧ k.slot = slot ∧
        k.image.regs = s.hart.regs ∧ k.image.pc = s.hart.pc ∧ k.image.owner = some o ∧ k.image.csr = s.hart.csr ∧
        k.held = decide (s.hart.stopping = some .hold) ∧ k.runnable = decide (s.hart.stopping ≠ some .hold) ∧ k.parked = none ∧
        (∀ q ∈ t.packets, q.core ≠ s.hart.core) ∧
        (s.packets = [] → s.hart.buffer = [] → sgetBytes t.mem (huskBase s o.part slot) 8 = 0x4B535548 + 2 ^ 32)) ∧
    (∀ (p : PartId) (i : Fin 128) k, loneHusk s p i k → k.resumed = false →
      let woken := { s with husks := s.husks.map (fun x => if x = k then
        { k with runnable := true, woken := false, held := false, arrival := s.clock, rise := s.clock } else x) }
      (k.woken = true → k.parked.isSome = true → k.held = false → k.runnable = false → exec (.huskWake p i) s = .next woken) ∧
      (∀ due, k.parked = some due → due ≤ s.clock → k.held = false → k.runnable = false → exec (.parkTimeout p i) s = .next woken) ∧
      (k.held = true → exec (.huskRelease p i) s = .next woken) ∧
      (k.dump = true → ∃ t, exec (.dumpRelease p i) s = .next t ∧ ∀ x ∈ t.husks, x.part = p.val → x.slot = i.val → x.dump = false)) ∧
    (∀ (p : PartId) (id : BitVec 24) (g : Fin 128) o, gangSize s.hart = 1 → s.hart.owner = some o → o.part = p.val → o.launch = id.toNat →
      o.gang = g.val → o.member = 0 → s.hart.stopping = none → 1 ≤ freeSlots s p.val →
      ∃ t, exec (.dumpRequest p id g) s = .next t ∧ t.hart.dump = true ∧ t.hart.stopping = some .preempt ∧ t.hart.run = s.hart.run)

/-! ### The network and the stacks -/

/-- A packet that arrives, by the mesh while its slice holds no recovered one or from the recovery buffer, is performed when none that
comes before it is missing, and else waits in its window; the oldest packet or push that has not advanced for BLKT cycles becomes
suspect, and one that advances is suspect no more; the lamp moves one router at a time and is held where a suspect waits, which takes the
adit lane; the destination accepts it into a recovery buffer with room, the acknowledgement frees the lamp; a lamp not seen for 131,072
cycles is regenerated and logged; NETCTL takes a value with no reserved bit and BLKT of 64 or more (R118, R364 to R370).  The model's
choice, and no rule's, are: that the oldest store or push of the whole mesh is the suspect at the router named, the turn that advances a
packet, that a new lamp starts at position 0 (log 36), and the unit of its record (log 35). -/
def Obligations.NetworkSteps : Prop :=
  ∀ s : State,
    let blkt := s.netctl.toNat % 2 ^ 16
    (∀ k p i, packetAt s k p → ((p.transit = .mesh ∧ recovering s (sliceOf p.place) = 0 ∧ i = .packetArrival k) ∨
        (p.transit = .recovery ∧ i = .recoveryBufferDrain k)) →
      (∀ q ∈ s.packets, q.transit ≠ .window) →
      ((∀ q ∈ s.packets, q.precedes p = false) → ∃ t, exec i s = .next t ∧
        t.packets = s.packets.filter (fun q => q.id != p.id) ∧
        ∀ pa, p.place = .phys pa → p.second = none →
          let u := markUsed s (partOf (hartAt s p.core)) p.entries true
          u.sameOutside t pa p.size ∧
            sgetBytes t.mem pa p.size = mergeBits p.size (sgetBytes u.mem pa p.size) p.data p.mask % 256 ^ p.size) ∧
      ((∃ q ∈ s.packets, q.precedes p = true) → ∃ t, exec i s = .next t ∧ t.mem = s.mem ∧
        t.packets = s.packets.map (fun q => if q.id = p.id then { q with transit := .window } else q))) ∧
    (∀ (k : Nat) p, s.packets[k]? = some p → 0 < recovering s (sliceOf p.place) → exec (.packetArrival k) s = .next s) ∧
    (∀ (r : RouterId) x, x ∈ inMesh s → x.2 + blkt ≤ s.clock → (∀ y ∈ s.suspects, y.1 ≠ r.val ∧ y.2 ≠ x.1) →
      (∀ z ∈ inMesh s, z.2 + blkt ≤ s.clock → (∀ y ∈ s.suspects, y.2 ≠ z.1) → x.1 ≤ z.1) →
      exec (.blockSuspect r) s = .next { s with suspects := s.suspects ++ [(r.val, x.1)] }) ∧
    (∀ id, s.thermal = false → s.agenda = [.advance id] → ∃ t, step s = .next t ∧ t.mem = s.mem ∧
      (∀ q ∈ t.packets, q.id = id → q.transit = .mesh → q.since = s.clock) ∧ ∀ x ∈ t.suspects, x.2 ≠ id) ∧
    (s.lampHolder = none → ∃ t, exec .lampHop s = .next t ∧ t.lamp = (s.lamp + 1) % 256 ∧ t.mem = s.mem ∧
      ((∀ x ∈ s.suspects, x.1 ≠ lampRouter ((s.lamp + 1) % 256)) → t.lampHolder = none ∧ t.packets = s.packets) ∧
      (∀ x, s.suspects.find? (fun y => y.1 == lampRouter ((s.lamp + 1) % 256)) = some x →
        t.lampHolder = some ⟨lampRouter ((s.lamp + 1) % 256), x.2, false⟩ ∧
          (∀ q ∈ t.packets, q.id = x.2 → q.transit = .adit) ∧ ∀ q ∈ t.pushes, q.id = x.2 → q.transit = .adit)) ∧
    (∀ h k p, s.lampHolder = some h → h.accepted = false → packetAt s k p → p.id = h.packet →
      (recovering s (sliceOf p.place) < 4 →
        ∃ t, exec .recoveryBufferAccept s = .next t ∧ t.lampHolder = some { h with accepted := true } ∧
          ∀ q ∈ t.packets, q.id = p.id → q.transit = .recovery) ∧
      (4 ≤ recovering s (sliceOf p.place) → exec .recoveryBufferAccept s = .next s)) ∧
    (∀ h, s.lampHolder = some h → exec .lampRelease s = .next (if h.accepted then { s with lampHolder := none } else s)) ∧
    (s.lampHolder = none → s.lampSeen + 131072 ≤ s.clock →
      ∃ t, exec .lampRegenerate s = .next t ∧ t.lamp = 0 ∧ t.lampSeen = s.clock ∧ logged s t 0 3 (lampRouter 0) 0x01 0) ∧
    (∀ v : Word, exec (.netctlWrite v) s = .next (if v.toNat < 2 ^ 18 ∧ 64 ≤ v.toNat % 2 ^ 16 then { s with netctl := v } else s))

/-- An activate opens the row of the request that the pseudo-channel grants next: the segments that it and the requests queued before
this cycle for the row ask for, all eight with SEGACT 0; a supplementary one adds the segments of that request, or opens all eight with
SEGACT 0; each grants it. A refresh closes the bank for 560 cycles; a pseudo-channel idle for SRIDLE times 16 cycles with nothing due sleeps, and a request wakes it; a request
queues with the class of who makes it, HOSTQ for the host, and undoes an entry of the same cycle; a scrub of a word opens its row whole and
logs an uncorrectable one; MCSTK takes a value without reserved bits, all but EN; none changes a byte of memory (R341 to R345, R369, R370,
R393).  The model's choice, and no rule's, are: that requests come by turns and which segments the granted one asks for, that a refresh
closes its bank for 560 cycles where R343 says at most (log 52), and the unit of a scrub's record (log 35). -/
def Obligations.StackSteps : Prop :=
  ∀ s (k : StackId) (c : Fin 64) (b : Fin 16),
    let st := s.hbm[k]
    let mine := fun (r : Request) => r.chan = c.val ∧ r.bank = b.val
    (∀ r, granted s k c.val r → r.bank = b.val →
      (∀ o, st.opened.find? (fun x => x.chan == c.val && x.bank == b.val) = some o → o.row ≠ r.row) →
      ∃ t o, exec (.segmentMaskActivate k c b) s = .next t ∧ onlyStack s t k ∧ o ∈ t.hbm[k].opened ∧
        o.chan = c.val ∧ o.bank = b.val ∧ o.row = r.row ∧
        (st.mcstk.getLsbD 2 = false → o.segs = 0xFF) ∧
        (st.mcstk.getLsbD 2 = true → ∀ j : Fin 8, o.segs.getLsbD j =
          decide (r.whole = true ∨ r.seg = j.val ∨
            ∃ x ∈ st.requests, mine x ∧ x.row = r.row ∧ x.arrived < s.clock ∧ (x.whole = true ∨ x.seg = j.val))) ∧
        t.hbm[k].requests.count r < st.requests.count r) ∧
    (∀ o r, granted s k c.val r → r.bank = b.val → st.opened.find? (fun x => x.chan == c.val && x.bank == b.val) = some o →
      r.row = o.row →
      ∃ t p, exec (.supplementaryActivate k c b) s = .next t ∧ onlyStack s t k ∧ p ∈ t.hbm[k].opened ∧ p.chan = c.val ∧
        p.bank = b.val ∧ p.row = o.row ∧ t.hbm[k].requests.count r < st.requests.count r ∧
        (st.mcstk.getLsbD 2 = false → p.segs = 0xFF) ∧
        (st.mcstk.getLsbD 2 = true → ∀ j : Fin 8,
          p.segs.getLsbD j = (o.segs.getLsbD j || decide (r.whole = true ∨ r.seg = j.val)))) ∧
    (ready s k c.val b.val → (∀ r ∈ st.requests, mine r → r.refreshed = false) →
      ∃ t, exec (.refresh k c b) s = .next t ∧ onlyStack s t k ∧ (c.val, b.val, s.clock + 560) ∈ t.hbm[k].refreshing ∧
        (c.val, b.val) ∉ t.hbm[k].due ∧
        (∀ o ∈ t.hbm[k].opened, ¬(o.chan = c.val ∧ o.bank = b.val)) ∧ ∀ r ∈ t.hbm[k].requests, mine r → r.refreshed = true) ∧
    (0 < st.mcstk.toNat / 256 % 2 ^ 24 → (∀ r ∈ st.requests, r.chan ≠ c.val) →
      (∀ e ∈ st.stopes, e.suspended.isSome = true → e.chan ≠ c.val) → (∀ d ∈ st.due, d.1 ≠ c.val) →
      (∀ r ∈ st.refreshing, ¬(r.1 = c.val ∧ s.clock < r.2.2)) → (∀ x ∈ st.asleep, x.1 ≠ c.val) →
      idleSince st c.val + 16 * (st.mcstk.toNat / 256 % 2 ^ 24) ≤ s.clock →
      exec (.selfRefreshEntry k c) s = .next { s with hbm := s.hbm.set k { st with asleep := st.asleep ++ [(c.val, s.clock)] } }) ∧
    ((∃ x ∈ st.asleep, x.1 = c.val) → (∃ r ∈ st.requests, r.chan = c.val) →
      ∃ t, exec (.selfRefreshExit k c) s = .next t ∧ onlyStack s t k ∧ (∀ x ∈ t.hbm[k].asleep, x.1 ≠ c.val) ∧
        t.hbm[k].requests = st.requests) ∧
    (∀ who r, s.thermal = false → s.agenda = [.request k who r] → (∀ o ∈ st.opened, o.chan ≠ r.chan) →
      ∃ t q, step s = .next t ∧ t.mem = s.mem ∧
        t.hbm[k].requests = st.requests ++ [{ r with refreshed := false, qos := q, arrived := s.clock }] ∧
        (who = .host → q = s.netctl.toNat / 2 ^ 16 % 4) ∧
        (∀ o l, who = .core s.hart.core → s.hart.owner = some o → launchAt s o.part o.launch = some l → q = l.current) ∧
        ∀ x ∈ t.hbm[k].asleep, x ≠ (r.chan, s.clock)) ∧
    (∀ (pa : PAddr), let a := pa.toNat
      a < localBytes s → stackOf s a = k.val → st.mcstk.getLsbD 1 = true → ready s k (channelOf a) (bankOf a) →
      ∃ t, exec (.errorCheckScrub k pa) s = .next t ∧ t.mem = s.mem ∧
        (⟨channelOf a, bankOf a, rowOf s a, 0xFF⟩ : OpenRow) ∈ t.hbm[k].opened ∧
        ((∀ w, .dram w ∈ s.bad → w / 8 ≠ a / 8) → t.pits = s.pits) ∧
        ((∃ w, .dram w ∈ s.bad ∧ w / 8 = a / 8) → logged s t (Fin.ofNat 4 (k.val / 2)) 2 k.val 0x10 a)) ∧
    (∀ v : Word, ∃ t, exec (.mcstkWrite k v) s = .next t ∧ onlyStack s t k ∧
      (2 ^ 32 ≤ v.toNat ∨ v.toNat / 8 % 32 ≠ 0 → t = s) ∧
      (v.toNat < 2 ^ 32 → v.toNat / 8 % 32 = 0 →
        bitsAgree t.hbm[k].mcstk (fun j => if j = 0 then st.mcstk.getLsbD 0 else v.getLsbD j)))

/-! ### Leases and blocks -/

/-- A lease goes from free through granted and revoking to revoked and back, with the block's range zeroed as it is granted and as it is
released, and what is in flight performed at the revocation point, from which on every access takes 0x0A; a port that goes down revokes its
granted leases at once; a block moves from its partition through removing and scrubbing to the other, its range zeroed before it is handed
over, but no block changes its owner while something is in flight to it; a block is zeroed as it is lent, a peer's line of it is read or
written at the memory, and one that is taken back is zeroed (R353 to R357, R377); what firmware does, it does once it is ready (R379).
The model's choice, and no rule's, are: source and unit of the records of a move and their detail, block + step × 2^32 (log 35), and
that lending and scrubbing come by turns (log 49). -/
def Obligations.LeasesAndBlocks : Prop :=
  ∀ s : State,
    (∀ (i : Fin 64), let l := s.leases[i]
      let lo := 0x0008000000000000 + 2 ^ 31 * i.val
      let hi := lo + 2 ^ 31
      (l.state = 0 → s.bootst = 5 → ∀ (p : PartId) (port : Fin 8) (peer : BitVec 8) (rb : BitVec 32),
        ∃ t, exec (.leaseGrant i p port peer rb) s = .next t ∧ t.leases = s.leases.set i ⟨1, p.val, port.val, peer.toNat, rb.toNat⟩ ∧
          zeroed s t lo hi) ∧
      (l.state = 1 → ∃ t, exec (.leaseRevoke i) s = .next t ∧ t.leases = s.leases.set i { l with state := 2 } ∧ t.mem = s.mem) ∧
      (l.state = 3 → ∀ part pa, lo ≤ pa → pa < hi → localBytes s ≤ lo → refusal s part pa = some 0x0A) ∧
      (l.state = 2 → coresApart s → (∀ h ∈ s.harts, drains h) → ∃ t, exec (.revocationPoint i) s = .next t ∧ t.leases = s.leases.set i { l with state := 3 } ∧
        inFlight t lo hi = 0) ∧
      (l.state = 3 → inFlight s lo hi = 0 → ∃ t, exec (.leaseRelease i) s = .next t ∧
        t.leases = s.leases.set i ⟨0, 0, 0, 0, 0⟩ ∧ zeroed s t lo hi)) ∧
    (∀ port : Fin 8, ∃ t, exec (.ualinkPortDown port) s = .next t ∧ t.mem = s.mem ∧ ∀ i : Fin 64, t.leases[i] =
      if s.leases[i].state = 1 ∧ s.leases[i].port = port.val then { s.leases[i] with state := 3 } else s.leases[i]) ∧
    (∀ b : Fin 256,
      (∀ p q : PartId, s.blocks[b] = .owned p.val → p ≠ q → s.parts[p].active ≠ 0 → s.parts[q].active ≠ 0 →
        blockPinned s b.val = false → (∀ m ∈ s.moves, m.1 ≠ b.val) → s.bootst = 5 →
        ∃ t, exec (.capacityMove b p q) s = .next t ∧ t.moves = s.moves ++ [(b.val, p.val, q.val)] ∧ t.blocks = s.blocks ∧
          logged s t 0 7 0 0x20 (b.val + 2 ^ 32)) ∧
      (∀ p q, s.moves.filter (fun m => m.1 == b.val) = [(b.val, p, q)] →
        (blockPinned s b.val = true → exec (.hotRemoveAck b) s = .next s) ∧
        (blockPinned s b.val = false → coresApart s → (∀ h ∈ s.harts, drains h) →
          ∃ t, exec (.hotRemoveAck b) s = .next t ∧ t.blocks = s.blocks.set b (.removing q) ∧
          (∀ m ∈ t.moves, m.1 ≠ b.val) ∧ inFlight t (2 ^ 31 * b.val) (2 ^ 31 * (b.val + 1)) = 0 ∧
          ∀ e ∈ t.directory, ¬(2 ^ 31 * b.val ≤ e.pa ∧ e.pa < 2 ^ 31 * (b.val + 1))) ∧
        (blockPinned s b.val = false →
          inFlight (settleRange s (2 ^ 31 * b.val) (2 ^ 31 * (b.val + 1))) (2 ^ 31 * b.val) (2 ^ 31 * (b.val + 1)) ≠ 0 →
          exec (.hotRemoveAck b) s = .next s) ∧
        (s.bootst = 5 → exec (.hotRemoveTimeout b) s = .next { s with moves := s.moves.filter (fun m => m.1 != b.val) })) ∧
      (∀ q, s.blocks[b] = .removing q → s.thermal = false → s.agenda = [.scrub b] →
        ∃ t, step s = .next t ∧ t.blocks = s.blocks.set b (.scrubbing q) ∧ t.mem = s.mem) ∧
      (s.blocks[b] = .free → s.bootst = 5 → s.thermal = false → s.agenda = [.lend b] →
        ∃ t, step s = .next t ∧ t.blocks = s.blocks.set b .lent ∧ zeroed s t (2 ^ 31 * b.val) (2 ^ 31 * (b.val + 1))) ∧
      (∀ q, s.blocks[b] = .scrubbing q → ∃ t, exec (.blockScrubDone b) s = .next t ∧ t.blocks = s.blocks.set b (.owned q) ∧
        zeroed s t (2 ^ 31 * b.val) (2 ^ 31 * (b.val + 1)) ∧ logged s t 0 7 0 0x20 (b.val + 2 ^ 34)) ∧
      (s.blocks[b] = .lent → s.bootst = 5 → ∃ t, exec (.leaseReclaim b) s = .next t ∧ t.blocks = s.blocks.set b .free ∧
        zeroed s t (2 ^ 31 * b.val) (2 ^ 31 * (b.val + 1)))) ∧
    (∀ pa : PAddr, let a := pa.toNat / 64 * 64
      a < localBytes s → s.blocks[a / 2 ^ 31]? = some .lent →
      (exec (.peerLineFillOrWriteBack pa none) s = .next { s with outbox := .peerLine a (readBytes s a 64) :: s.outbox }) ∧
      ∀ bs, bs.length = 64 → ∃ t, exec (.peerLineFillOrWriteBack pa (some bs)) s = .next t ∧ readBytes t a 64 = bs ∧
        s.sameOutside t a 64)

/-! ### The host and firmware -/

/-- A CXL.mem write of up to 64 bytes in one line is performed at its home, behind the host's decoder, and a read of good bytes answers them
and leaves the host copies of their lines, of which none that a device has written since is left once a release at system scope is
performed; NOTIFY writes the mailbox word and raises its vector once; BDONE, the partition block and the core masks are written as their
rules allow, and ACTIVE, once firmware runs, starts the partition's foreman and hypervisor hart (R94, R108, R307, R322, R372 to R376, R379,
R382).  The model's choices: those two launches have no completion word (log 32); a write of 0 to ACTIVE only changes the field, and
PCPADDR, MBOXADDR and HOSTWIN are not written while it is not 0 (log 41); which lines the host keeps (log 51). -/
def Obligations.HostAccess : Prop :=
  ∀ s : State,
    (∀ (pa : PAddr) bs, let a := pa.toNat - s.decoder
      s.cxlMem = true → s.bad = [] → (∀ q ∈ s.packets, q.transit ≠ .recovery) → s.decoder ≤ pa.toNat → a < localBytes s →
      a + bs.length ≤ localBytes s → a % 64 + bs.length ≤ 64 →
      ∃ t, exec (.hostMemWrite pa bs) s = .next t ∧ readBytes t a bs.length = bs ∧ s.sameOutside t a bs.length ∧ t.hart = s.hart) ∧
    (∀ (pa : PAddr) (n : Fin 65), let a := pa.toNat - s.decoder
      s.cxlMem = true → (∀ q ∈ s.packets, q.transit ≠ .recovery) → s.decoder ≤ pa.toNat → a < localBytes s → a + n.val ≤ localBytes s →
      (badMem s a n.val = false → ∃ t, exec (.hostMemRead pa n) s = .next t ∧
        t = { s with outbox := .hostRead a (readBytes s a n.val) :: s.outbox, hostLines := t.hostLines } ∧
        ∀ l, a / 64 ≤ l → 64 * l < a + n.val → uncached s (64 * l) = false → (l, false) ∈ t.hostLines) ∧
      (badMem s a n.val = true → ∃ t, exec (.hostMemRead pa n) s = .next t ∧
        t.outbox = .hostFailed a :: s.outbox ∧ t.mem = s.mem)) ∧
    (∀ i pa, ((∃ bs, i = .hostMemWrite pa bs) ∨ ∃ n, i = .hostMemRead pa n) →
      (s.cxlMem = false ∨ pa.toNat < s.decoder ∨ s.decoder + localBytes s ≤ pa.toNat) → exec i s = .next s) ∧
    (∀ st rest, s.hart.core < 128 → s.hart.buffer = st :: rest → st.release = true → st.system = true → storeReady s.hart st = true →
      ∃ t, exec (.storeBufferDrain (me s)) s = .next t ∧ ∀ x ∈ t.hostLines, x.2 = false) ∧
    (∀ (p : PartId) (v : Word), (s.parts[p]).active ≠ 0 →
      ((s.parts[p]).mboxAddr ≠ 0 → (s.parts[p]).mboxAddr.toNat % 8 = 0 →
        (∀ q : PartId, q ≠ p → (s.parts[q]).mboxAddr ≠ (s.parts[p]).mboxAddr) →
        ∃ t, exec (.notify p v) s = .next t ∧ word8 t ((s.parts[p]).mboxAddr.toNat + 8) = v ∧
          (let vec := 32 * p.val + v.toNat % 32
          t.msix = if s.msix.contains vec then s.msix else s.msix ++ [vec])) ∧
      (s.cxlMem = true → (s.parts[p]).pcpAddr.toNat % 8 = 0 → ∃ t, exec (.bdoneWrite p v) s = .next t ∧ pcpWord t p.val 0x40 = v ∧
        s.sameOutside t ((s.parts[p]).pcpAddr.toNat + 0x40) 8) ∧
      ∀ f, exec (.partitionBlockWrite p f v) s = .next s) ∧
    (∀ (p : PartId) (v : Word), (s.parts[p]).active = 0 →
      exec (.partitionBlockWrite p .pcpAddr v) s = .next (blockWritten s p (fun b => { b with pcpAddr := v })) ∧
      exec (.partitionBlockWrite p .mboxAddr v) s = .next (blockWritten s p (fun b => { b with mboxAddr := v })) ∧
      exec (.partitionBlockWrite p .hostWin v) s = .next (blockWritten s p (fun b => { b with hostWin := v }))) ∧
    (∀ (p : PartId) (v : BitVec 128),
      let old := (s.parts[p]).cores
      (∀ c, c < 128 → old.getLsbD c ≠ v.getLsbD c → coreUsed s c = false ∧
        (v.getLsbD c = true → ∀ q : PartId, q ≠ p → (s.parts[q]).cores.getLsbD c = false)) →
      ∃ t, exec (.coresWrite p v) s = .next t ∧ t.parts = s.parts.set p { s.parts[p] with cores := v } ∧ t.mem = s.mem ∧
        (old.getLsbD s.hart.core = true → v.getLsbD s.hart.core = false → ∀ k : Fin 4, (t.hart.banks[k]).holder ≠ some .guest ∧
          (t.hart.banks[k]).counts = Vector.replicate 8 0 ∧ (t.hart.banks[k]).selects = Vector.replicate 6 0)) ∧
    (∀ (p : PartId) (v : BitVec 128), (∃ c, c < 128 ∧ (s.parts[p]).cores.getLsbD c ≠ v.getLsbD c ∧ coreUsed s c = true) →
      exec (.coresWrite p v) s = .next s) ∧
    (∀ (p : PartId) (v : BitVec 128), ∃ t, exec (.xmaskWrite p v) s = .next t ∧ t = blockWritten s p (fun b => { b with
        xmask := (t.parts[p]).xmask }) ∧
      ∀ c, c < 128 → (t.parts[p]).xmask.getLsbD c =
        (v.getLsbD c && decide (∀ q : PartId, q ≠ p → (s.parts[q]).cores.getLsbD c = false))) ∧
    (∀ (p : PartId) (v : Word) fw, s.bootst ≠ 5 → exec (.activeWrite p v fw) s = .next s) ∧
    (∀ (p : PartId) (v : Word) fw, s.bootst = 5 → ((s.parts[p]).active ≠ 0 ∨ v = 0) →
      exec (.activeWrite p v fw) s = .next (blockWritten s p (fun b => { b with active := v }))) ∧
    (∀ (p : PartId) (v : Word) fw, s.bootst = 5 → (s.parts[p]).active = 0 → v ≠ 0 →
      ∃ t ls l, exec (.activeWrite p v fw) s = .next t ∧ (t.parts[p]).active = v ∧ (t.parts[p]).nextId = 1 ∧
        t.launches = s.launches ++ ls ++ [l] ∧ l.part = p.val ∧ l.entry = fw.foremanEntry ∧ l.arg = fw.foremanArg ∧ l.size = 1 ∧
        l.cls = 3 ∧ l.gangs = 1 ∧ l.hyper = false ∧ l.completion = none ∧
        (fw.hypervisor = none → ls = [] ∧ (t.parts[p]).stage2 = none) ∧
        ∀ e a root, fw.hypervisor = some (e, a, root) → (t.parts[p]).stage2 = some root.toNat ∧
          ∃ m, ls = [m] ∧ m.part = p.val ∧ m.entry = e ∧ m.arg = a ∧ m.hyper = true)

/-- A cold reset makes the module as at power-on; a warm reset keeps DRAM, device time, a failed boot and the logs, which record it on every
die; from
BOOTST 0 the boot ROM takes its four steps one by one and ends ready in state 5, or in state 0xF with the step that failed; an SPDM request
answers accepted or refused, the algorithms where they are negotiated, and moves the connection only where it is accepted; IDE opens CXL.mem
once all four streams have keys, and a failed stream closes it where it is required (R378 to R381, R391).  The model's choices: the order in
which requests are accepted (log 21), what a warm reset keeps (log 37), the source and unit of its record (log 35). -/
def Obligations.ResetsAndStart : Prop :=
  ∀ s : State,
    (∃ t, exec .coldReset s = .next t ∧
      t = { State.reset with hostMem := s.hostMem, outbox := s.outbox, decoder := s.decoder, fresh := s.fresh, agenda := s.agenda }) ∧
    (∃ t, exec .warmReset s = .next t ∧ t.mem = s.mem ∧ t.clock = s.clock ∧ t.hostMem = s.hostMem ∧ t.hart = State.reset.hart ∧
      t.others = State.reset.others ∧ t.launches = [] ∧ t.husks = [] ∧ t.parts = State.reset.parts ∧
      t.bootst = (if s.bootst.toNat % 256 = 0xF then s.bootst else 0) ∧
      ∀ d : DieId, t.pits[d] = ⟨s.pits[d].seq + 1,
        (⟨s.pits[d].seq, s.clock / 20, 6, 0, 0x40, 0⟩ :: s.pits[d].records).take 4096⟩) ∧
    (∀ fw : BootImage,
      (5 ≤ s.bootst.toNat → exec (.powerOn fw) s = .next s) ∧
      (s.bootst = 0 → exec (.powerOn fw) s = .next { s with bootst := 1, booting := some fw }) ∧
      ∀ k x, 1 ≤ k → k ≤ 4 → s.bootst.toNat = k → s.booting = some x →
        let passes := (k = 1 → x.readable = true) ∧ (k = 2 → x.signatureOk = true) ∧ (k = 3 → x.rollback ≤ x.version) ∧
          (k = 4 → x.bringUpOk = true)
        (¬passes → exec (.powerOn fw) s = .next { s with bootst := BitVec.ofNat 64 (0xF + 256 * k), booting := none }) ∧
        (passes → k < 4 → exec (.powerOn fw) s = .next { s with bootst := BitVec.ofNat 64 (k + 1) }) ∧
        (passes → k = 4 → ∃ t, exec (.powerOn fw) s = .next t ∧ t.bootst = 5 ∧ t.booting = none ∧ t.enstk = x.enabled ∧
          t.cxlMem = !x.requireIde ∧ t.digests = (x.romDigest, x.imageDigest, x.foremanDigest) ∧ t.mem = s.mem ∧
          ∀ k : StackId, t.hbm[k].mcstk.getLsbD 0 = x.enabled.getLsbD k)) ∧
    (∀ i n ok digest next, spdmRow s i = some (n, ok, digest, next) → ∃ t body, exec i s = .next t ∧
      t.outbox = .spdm n ok body digest (if ok ∧ n = 3 then
          [.signing "SLH-DSA-SHA2-128s" true, .hash "SHA-256", .keyExchange "DHE secp384r1", .aead "AES-256-GCM"] else []) :: s.outbox ∧
      t.spdm = if ok then next else s.spdm) ∧
    (∀ m : Fin 4,
      (s.spdm.session = false → exec (.ideKm m) s = .next s) ∧
      (s.spdm.session = true → ∃ t, exec (.ideKm m) s = .next t ∧ (∀ j : Fin 4, t.ide.getLsbD j = (s.ide.getLsbD j || decide (j = m))) ∧
        t.cxlMem = (s.cxlMem || (s.requireIde && decide (∀ j : Fin 4, j ≠ m → s.ide.getLsbD j = true)))) ∧
      (s.ide.getLsbD m = false → exec (.ideStreamFailure m) s = .next s) ∧
      (s.ide.getLsbD m = true → ∃ t, exec (.ideStreamFailure m) s = .next t ∧ t.cxlMem = (s.cxlMem && !s.requireIde) ∧
        (∀ j : Fin 4, t.ide.getLsbD j = (s.ide.getLsbD j && decide (j ≠ m))) ∧ logged s t 0 4 m.val 0x02 0))

/-! ### Operation -/

/-- A quantum of 1,048,576 cycles with more than two banks enabled moves on; a sample's two records go to the core's trace area when they
are due, and a convoy's one after them, and raise its count; the throttle level rises to at most 3 once a millisecond and falls 10 ms after
a limit was last met; a thermal stop is logged and the module then takes no step but a cold reset; a correction is counted for its die and
class, and more than 64 within a second are logged once (R382 to R388, R393, R396).  The model's choices: the source and unit of those
records and the class as their detail (log 35); that a fall starts the next wait of 10 ms (log 5). -/
def Obligations.OperationSteps : Prop :=
  ∀ s : State,
    (s.hart.core < 128 → ∃ t, exec (.counterQuantum (me s)) s = .next t ∧
      (2 < (enabledBanks s.hart).length → s.hart.quantumStart + 1048576 ≤ s.clock →
        t.hart.quantum = s.hart.quantum + 1 ∧ t.hart.quantumStart = s.hart.quantumStart + 1048576) ∧
      (¬(2 < (enabledBanks s.hart).length ∧ s.hart.quantumStart + 1048576 ≤ s.clock) → t.hart = s.hart)) ∧
    (s.hart.core < 128 →
      let tr := s.hart.trace
      let base := traceBase s s.hart
      let due := tr.holder.isSome = true ∧ tr.ctl.getLsbD 1 = true ∧ tr.sampled + 2 ^ (tr.ctl.toNat / 256 % 16 + 12) ≤ s.clock
      (¬due → exec (.traceSample (me s)) s = .next s) ∧
      (due → ∃ t, exec (.traceSample (me s)) s = .next t ∧ t.hart.trace.count = tr.count + 2 ∧ t.hart.regs = s.hart.regs ∧
        t.hart.trace.sampled = tr.sampled + 2 ^ (tr.ctl.toNat / 256 % 16 + 12) ∧
        ((∀ q ∈ s.parts.toList, base + 2 ^ 20 ≤ q.pcpAddr.toNat ∨ q.pcpAddr.toNat + 0x28 ≤ base) →
          s.sameOutside t base (2 ^ 20) ∧ sget t.mem (base + 64 + 64 * (tr.count % 16383)) = 2 ∧
          sget t.mem (base + 64 + 64 * ((tr.count + 1) % 16383)) = 3 ∧ (base % 8 = 0 → word8 t base = word (tr.count + 2)))) ∧
      (∀ c rest, tr.convoys = c :: rest →
        (tr.holder.isSome = true → tr.ctl.getLsbD 0 = true → ¬due →
          ∃ t, exec (.traceConvoyRecord (me s)) s = .next t ∧ t.hart.trace.count = tr.count + 1 ∧ t.hart.trace.convoys = rest ∧
            t.hart.regs = s.hart.regs ∧ s.sameOutside t c.base (2 ^ 20) ∧ sget t.mem (c.base + 64 + 64 * (tr.count % 16383)) = 1 ∧
            (c.base % 8 = 0 → word8 t c.base = word (tr.count + 1))) ∧
        ((tr.holder = none ∨ tr.ctl.getLsbD 0 = false ∨ due) → exec (.traceConvoyRecord (me s)) s = .next s))) ∧
    (s.bootst ≠ 5 → exec .throttleRaise s = .next s ∧ exec .throttleLower s = .next s ∧ exec .thermalStop s = .next s) ∧
    (s.bootst = 5 →
      (∃ t, exec .throttleRaise s = .next t ∧
        let rises := s.throttle < 3 ∧ ∀ r, s.raised = some r → r + 2000000 ≤ s.clock
        (rises → t.throttle = s.throttle + 1 ∧ t.raised = some s.clock ∧ t.warm = s.clock ∧ logged s t 0 6 0 0x30 (s.throttle + 1)) ∧
        (¬rises → t = { s with warm := s.clock })) ∧
      (∃ t, exec .throttleLower s = .next t ∧
        (0 < s.throttle → s.warm + 20000000 ≤ s.clock →
          t.throttle = s.throttle - 1 ∧ t.raised = s.raised ∧ logged s t 0 6 0 0x30 (s.throttle - 1)) ∧
        (s.throttle = 0 ∨ s.clock < s.warm + 20000000 → t = s)) ∧
      (∃ t, exec .thermalStop s = .next t ∧ t.thermal = true ∧ logged s t 0 6 0 0x31 0)) ∧
    (s.thermal = true → s.agenda = [] → step s = .fault .thermalStop) ∧
    (s.thermal = true → ∀ rest, s.agenda = .event .coldReset :: rest → ∃ t, step s = .next t ∧ t.thermal = false) ∧
    (s.thermal = false → ∀ (core : CoreId) (cls : Fin 16) rest, s.agenda = .corrected core cls :: rest →
      let die := core.val / 32
      let c := correctedOf s die cls.val
      ∃ t, step s = .next t ∧ t.mem = s.mem ∧ (correctedOf t die cls.val).total = c.total + 1 ∧
        ((correctedOf t die cls.val).crossed = true ↔ c.crossed = true ∨
          ((∃ x, c.recent[63]? = some x ∧ s.clock / 20 < x + 100000000) ∧ ∀ x, c.logged = some x → x + 100000000 ≤ s.clock / 20))) ∧
    (∀ (die : DieId) (cls : Fin 16), let c := correctedOf s die.val cls.val
      ∃ t, exec (.errorRateCrossed die cls) s = .next t ∧
        (c.crossed = true → logged s t die (if cls.val = 5 then 1 else if 8 ≤ cls.val then 2 else 0) 0 0x11 cls.val ∧
          correctedOf t die.val cls.val = { c with crossed := false, logged := some (s.clock / 20) }) ∧
        (c.crossed = false → t = s))

/-! ### Steps, and reset -/

/-- Words written out from the encoding tables decode to the instructions that they stand for, and the all-zero word, a code no table
lists and a reserved field decode to none (R129 to R138). -/
def Obligations.DecodeSampleWords : Prop :=
  decode 0b000001_00011_00100_00101_00000_000001 = .ok (.sub 3 4 5) ∧
  decode 0b000011_00111_00010_1111111111111110 = .ok (.addi 7 2 (-2)) ∧
  decode 0b011001_01000_01001_011_0000000000011 = .ok (.bge 8 9 3) ∧
  decode 0b010111_00110_00001_00000_01110_001000 = .ok (.ldhReg 6 1 0 .acq .system) ∧
  decode 0b011101_01011_00000_000000010000_0000 = .ok (.csrr 11 0x010) ∧
  decode 0b100000_001010_010100_011110_010_00011 = .ok (.vmul 10 20 30 2) ∧
  decode 0b110000_000101_00110_000111_011_001000 = .ok (.vldx 5 6 7 3) ∧
  decode 0b101100_10_000011_000100_001_010_000000 = .ok (.mxadd 2 3 4 1 2) ∧
  decode 0b101110_00101_00110_000000000000_0110 = .ok (.claim 5 6) ∧
  decode 0 = .illegal ∧ decode 0b000001_00011_00100_00101_00000_011000 = .illegal ∧
  (∃ i, decode 0b000001_00011_00100_00101_00001_000000 = .reserved i)

/-- When a running hart that runs alone, its vector unit done, fetches a word that decodes to an instruction, a step of it waits where the
instruction must wait; it puts a word of the vector queue whose unit is not free for it into the queue; and else it is exec of the
instruction at that word, entered into its convoy where it is a vector instruction: where it completes, its state is the step's, but a trap
waits until the vector unit is done (R12, R127, R139, R150). -/
def Sys2Proof.Claims.ControlRunsWord : Prop :=
  ∀ s c rest, s.thermal = false → s.agenda = .run c :: rest → c.val = s.hart.core → gangSize s.hart = 1 → s.hart.run = .running →
    (s.hart.started = true ∨ (s.hart.held = none ∧ s.hart.queue = [])) → awaitsVerdict s.hart = false → ∀ u w x,
    fetch { s with agenda := rest, hart := { s.hart with stalled := false } } 0 s.hart.pc = (.word w, u) →
    decode w.toNat = .ok x → (s.hart.started = false ∨ isVector x = false) → u.bad = [] → s.hart.loop = none → s.hart.reissue = [] →
    let v := atWord u w
    let free := v.hart.queue = [] ∧ v.hart.held = none ∧ v.hart.vf = none ∧ workReady v (v.hart.vseq + 1) x = true
    (mustWait v x = true → step s = .next (stall v)) ∧
    (mustWait v x = false → queueWord x = true → ¬free → step s = .next (enterQueue v x)) ∧
    (mustWait v x = false → (queueWord x = true → free) → u.olds = [] →
      ∀ t, exec x (startVector v x) = .next t → t.hart.stalled = false → t.bad = [] → enabledBanks t.hart = [] →
        step s = .next (if nested v.hart = false ∧ nested t.hart = true ∧ vectorBusy v.hart = true then stall v else t))

/-- A control thread that runs ahead of its vector unit puts a word of the vector queue behind what stands there, unless it must wait
(R12, R173); a queued instruction that the vector unit comes to is exec of it with the registers, types and length that it entered with,
and leaves the control thread's own state as it is but for its scalar result and its flags (R12, R72, R172). -/
def Sys2Proof.Claims.UnitRunsWord : Prop :=
  (∀ s c rest, s.thermal = false → s.agenda = .ahead c :: rest → c.val = s.hart.core → gangSize s.hart = 1 → s.hart.run = .running →
    awaitsVerdict s.hart = false → ∀ u w x,
    fetch { s with agenda := rest, hart := { s.hart with stalled := false } } 0 s.hart.pc = (.word w, u) →
    decode w.toNat = .ok x → queueWord x = true → isVector x = true → changesType x = false → s.hart.started = false → u.bad = [] →
    s.hart.loop = none → s.hart.reissue = [] → mustWait (atWord u w) x = false → u.hart.queue.length < 256 →
    ∃ t q, step s = .next t ∧ t.hart.pc = s.hart.pc + 4 ∧ t.hart.regs = s.hart.regs ∧ t.mem = u.mem ∧
      t.hart.queue = s.hart.queue ++ [q] ∧ q.work.seq = s.hart.vseq + 1 ∧ t.hart.vseq = s.hart.vseq + 1 ∧ q.work.ir = w ∧
      q.work.pc = s.hart.pc ∧ q.work.regs = s.hart.regs ∧ q.back.regs = s.hart.regs ∧ q.back.csr = s.hart.csr ∧
      ∀ r : SReg, t.hart.pending.getLsbD r.val = (s.hart.pending.getLsbD r.val || decide ((uses x).sw = some r ∧ r ≠ 0))) ∧
  (∀ s c rest q qs x, s.thermal = false → coresApart s → s.agenda = .vector c none :: rest → c.val = s.hart.core → gangSize s.hart = 1 →
    unitWorks s.hart = true → s.hart.held = none → s.hart.queue = q :: qs → q.work.item = .vector → decode q.work.ir.toNat = .ok x →
    isJoint x = false → s.bad = [] → s.olds = [] →
    let u := { s with agenda := rest }
    workReady { u with hart := underTypes u.hart q.work } q.work.seq x = true →
    ∀ t, exec x { u with hart := underWork u.hart q.work (some q.back) (uses x).sw none } = .next t →
      t.hart.core = s.hart.core → t.hart.owner = s.hart.owner → t.hart.stalled = false → t.hart.held = none → t.bad = [] →
      nested t.hart = nested s.hart → enabledBanks t.hart = [] →
      step s = .next { t with hart := backTo s.hart t.hart (uses x).sw none })

/-- A step runs the word that it fetches, or the instruction that its vector unit comes to; an event of the agenda is exec of its row (the
agenda is the model's own, log 4). -/
def Obligations.StepRunsWord : Prop :=
  ControlRunsWord ∧ UnitRunsWord ∧
    ∀ s x rest, s.thermal = false → s.agenda = .event x :: rest → encode x = none → step s = exec x { s with agenda := rest }

/-- What reset leaves: NETCTL and MCSTK at the values of their tables, every lease entry zero, the pit logs empty from sequence 0,
BOOTST 0, and no hart, engine, subscription or launch (R345, R354, R370, R378, R391).  That the clock is at 0 and that no packet is in
flight are the model's choice (log 2). -/
def Obligations.ResetState : Prop :=
  State.reset.netctl = 0x20400 ∧ (∀ k : StackId, State.reset.hbm[k].mcstk.toNat / 2 = 0x80003) ∧
    (∀ i, i < 64 → leaseWords State.reset i = (0, 0)) ∧ (∀ d : DieId, State.reset.pits[d] = ⟨0, []⟩) ∧ State.reset.bootst = 0 ∧
    (∀ h ∈ State.reset.harts, h.owner = none ∧ h.run = .idle ∧ h.engines = [] ∧ h.buffer = []) ∧
    State.reset.packets = [] ∧ State.reset.directory = [] ∧ State.reset.launches = [] ∧ State.reset.clock = 0

/-- After reset there is one hart for each of the 128 cores. -/
def Obligations.CoresApartAtReset : Prop := oneHartPerCore State.reset ∧ State.reset.harts.length = 128

/-- No step moves a hart to another core or makes one: each of the 128 cores has its own hart, in every state that a step leaves (R3, R38;
the premise of the statements on gangs). -/
def Obligations.CoresApartKept : Prop :=
  ∀ s t, oneHartPerCore s → step s = .next t → oneHartPerCore t
end

