-- ==== Sys2Proof/Laws/Cores.lean ====
section
/-! SUPPORT. No operation of the machine moves a hart to another core, makes one or loses one: the cores of the
harts, with their numbers of harts, are the same after each operation (R3, R38). -/

namespace Sys2Proof.Machine

/-- The cores of an acting hart's core number and of some other harts. -/
def coresWith (a : Nat) (hs : List Hart) : Multiset Nat := ↑(a :: hs.map (·.core))

/-- The cores of the harts of a state, each as often as it has a hart. -/
def coresOf (s : State) : Multiset Nat := coresWith s.hart.core s.others

/-- An answer is no next state, or one whose harts stand on the cores `m`. -/
def Keeps (m : Multiset Nat) (o : Out) : Prop := ∀ t, o = .next t → coresOf t = m

@[simp] theorem coresWith_fold (s : State) : coresWith s.hart.core s.others = coresOf s := rfl
@[simp] theorem keeps_next (m : Multiset Nat) (t : State) : Keeps m (.next t) ↔ coresOf t = m :=
  ⟨fun h => h t rfl, fun h u hu => by cases hu; exact h⟩
@[simp] theorem keeps_fault (m : Multiset Nat) (f : Fault) : Keeps m (.fault f) := fun _ h => by cases h
@[simp] theorem keeps_refused (m : Multiset Nat) (f : Refusal) : Keeps m (.refused f) := fun _ h => by cases h

/-- A map that keeps every core number keeps the cores. -/
@[simp] theorem coresWith_map (a : Nat) (f : Hart → Hart) (h : ∀ g, (f g).core = g.core) (l : List Hart) :
    coresWith a (l.map f) = coresWith a l := by simp [coresWith, Function.comp_def, h]

@[simp] theorem coresOf_onCore (s : State) (c : Nat) (f : Hart → Hart) (h : ∀ g, (f g).core = g.core) :
    coresOf (onCore s c f) = coresOf s := by
  unfold onCore
  split
  · simp only [coresOf, h]
  · exact coresWith_map _ _ (fun g => by split <;> simp [h]) _

@[simp] theorem coresOf_onHarts (s : State) (f : Hart → Hart) (h : ∀ g, (f g).core = g.core) :
    coresOf (onHarts s f) = coresOf s := by
  simp only [coresOf, onHarts, h]
  exact coresWith_map _ _ h _

theorem coresWith_swapIn (g k : Hart) (c : Nat) (l : List Hart) (h : l.find? (fun x => x.core == c) = some k) :
    coresWith k.core (swapIn g c l) = coresWith g.core l := by
  induction l with
  | nil => cases h
  | cons x rest ih =>
    by_cases hx : x.core = c
    · rw [List.find?_cons_of_pos (by simpa using hx)] at h
      cases h
      simp only [swapIn, hx, if_true, coresWith, List.map_cons, Multiset.coe_eq_coe]
      exact hx ▸ List.Perm.swap ..
    · rw [List.find?_cons_of_neg (by simpa using hx)] at h
      have := ih h
      simp only [coresWith, Multiset.coe_eq_coe] at this
      simp only [swapIn, hx, if_false, coresWith, List.map_cons, Multiset.coe_eq_coe]
      exact (List.Perm.swap ..).trans ((this.cons _).trans (List.Perm.swap ..))

/-- Another hart may act: the cores are the same. -/
@[simp] theorem coresOf_focus (s : State) (c : Nat) : coresOf (focus s c) = coresOf s := by
  unfold focus
  split
  · rfl
  · split
    · rfl
    · next h => exact coresWith_swapIn _ _ _ _ h

/-- A fold of steps that each keep the cores keeps them. -/
@[simp] theorem coresOf_foldl {α : Type} (f : State → α → State) (h : ∀ s x, coresOf (f s x) = coresOf s) (l : List α)
    (s : State) : coresOf (l.foldl f s) = coresOf s := by
  induction l generalizing s with
  | nil => rfl
  | cons x l ih => rw [List.foldl_cons, ih, h]

/-- A fold over pairs whose states keep the cores. -/
@[simp] theorem coresOf_foldl_fst {α β : Type} (f : State × β → α → State × β)
    (h : ∀ s x, coresOf (f s x).1 = coresOf s.1) (l : List α) (s : State × β) : coresOf (l.foldl f s).1 = coresOf s.1 := by
  induction l generalizing s with
  | nil => rfl
  | cons x l ih => rw [List.foldl_cons, ih, h]

/-- A fold over pairs whose states keep the cores. -/
@[simp] theorem coresOf_foldl_snd {α β : Type} (f : β × State → α → β × State)
    (h : ∀ s x, coresOf (f s x).2 = coresOf s.2) (l : List α) (s : β × State) : coresOf (l.foldl f s).2 = coresOf s.2 := by
  induction l generalizing s with
  | nil => rfl
  | cons x l ih => rw [List.foldl_cons, ih, h]

/-- A fold over one hart that keeps its core. -/
@[simp] theorem core_foldl {α : Type} (f : Hart → α → Hart) (h : ∀ s x, (f s x).core = s.core) (l : List α)
    (s : Hart) : (l.foldl f s).core = s.core := by
  induction l generalizing s with
  | nil => rfl
  | cons x l ih => rw [List.foldl_cons, ih, h]

/-- The acting hart may change as long as it stays on its core. -/
theorem coresOf_putHart (s : State) (g : Hart) (h : g.core = s.hart.core) : coresOf { s with hart := g } = coresOf s :=
  congrArg (fun a => coresWith a s.others) h

/-- A state written out field by field. -/
@[simp] theorem coresOf_mk {x0} {x1} {x2} {x3} {x4} {x5} {x6} {x7} {x8} {x9} {x10} {x11} {x12} {x13} {x14} {x15} {x16}
    {x17} {x18} {x19} {x20} {x21} {x22} {x23} {x24} {x25} {x26} {x27} {x28} {x29} {x30} {x31} {x32} {x33} {x34} {x35}
    {x36} {x37} {x38} {x39} {x40} {x41} {x42} {x43} {x44} {x45} {x46} {x47} {x48} {x49} {x50} : coresOf (State.mk x0
    x1 x2 x3 x4 x5 x6 x7 x8 x9 x10 x11 x12 x13 x14 x15 x16 x17 x18 x19 x20 x21 x22 x23 x24 x25 x26 x27 x28 x29 x30 x31
    x32 x33 x34 x35 x36 x37 x38 x39 x40 x41 x42 x43 x44 x45 x46 x47 x48 x49 x50) = coresWith (Hart.core x0) x1 := rfl

/-! ### Each operation, in the order of the machine's files -/

@[simp] theorem cores_logPit (s : State) (die : ℕ) (source : ℕ) (unit : ℕ) (code : ℕ) (detail : ℕ) : coresOf (logPit s die
    source unit code detail) = coresOf s := by
  unfold logPit
  dsimp only
  repeat' (first | (simp [*]; done) | split)
@[simp] theorem cores_sequenceWord (s : State) (pa : ℕ) : coresOf (sequenceWord s pa) = coresOf s := by
  unfold sequenceWord
  dsimp only
  repeat' (first | (simp [*]; done) | split)
@[simp] theorem cores_notifyWord (s : State) (pa : ℕ) : coresOf (notifyWord s pa) = coresOf s := by
  unfold notifyWord
  dsimp only
  repeat' (first | (simp [*]; done) | split)
@[simp] theorem cores_writeHome (s : State) (keep : Option ℕ) (pa : ℕ) (size : ℕ) (v : ℕ) : coresOf (writeHome s keep pa size
    v) = coresOf s := by
  unfold writeHome
  simp [*]
@[simp] theorem cores_writeChunks (s : State) (keep : Option ℕ) (pa : ℕ) (bs : List Byte) (fuel : ℕ) : coresOf (writeChunks s
    keep pa bs fuel) = coresOf s := by
  induction fuel generalizing s pa bs with
  | zero => rfl
  | succ n ih =>
    unfold writeChunks
    split
    · rfl
    · rw [ih, cores_writeHome]
@[simp] theorem cores_writeBytes (s : State) (keep : Option ℕ) (pa : ℕ) (bs : List Byte) : coresOf (writeBytes s keep pa bs) =
    coresOf s := by
  unfold writeBytes
  simp [*]
@[simp] theorem cores_classPushes (before : ℕ) (qos : ℕ) (t : State) : coresOf (classPushes before qos t) = coresOf t := by
  exact (Eq.refl _).trans rfl
@[simp] theorem cores_cacheEntry (s : State) (core : ℕ) (e : TlbEntry) : coresOf (cacheEntry s core e) = coresOf s := by
  unfold cacheEntry
  simp [*]
@[simp] theorem core_countHart (h : Hart) (event : ℕ) (cluster : ℕ) (n : ℕ) : (countHart h event cluster n).core = h.core := by
  unfold countHart
  split <;> rfl
@[simp] theorem core_atQuantum (h : Hart) (n : Nat) : (atQuantum h n).core = h.core := by
  unfold atQuantum
  split <;> rfl
@[simp] theorem core_restartQuantum (h g : Hart) (n : Nat) : (restartQuantum h g n).core = g.core := by
  unfold restartQuantum
  split <;> rfl
@[simp] theorem cores_markEntry (s : State) (part pa : ℕ) (wr : Bool) : coresOf (markEntry s part pa wr).2 = coresOf s := by
  unfold markEntry
  dsimp only
  generalize word8 s pa ||| (if wr then _ else _) = w
  split <;> simp
@[simp] theorem cores_markTables (s : State) (core part va : ℕ) : coresOf (markTables s core part va) = coresOf s := by
  unfold markTables
  dsimp only
  repeat' (first | rfl | split | exact coresOf_foldl _ (fun s x => cores_markEntry _ _ _ _) _ _)
@[simp] theorem cores_lookup (s : State) (core : ℕ) (part : ℕ) (va : ℕ) : coresOf (lookup s core part va).2 = coresOf s := by
  unfold lookup
  dsimp only
  repeat' (first | (simp [*]; done) | split)
@[simp] theorem cores_markUsed (s : State) (part : ℕ) (entries : List (ℕ × Bool)) (wr : Bool) : coresOf (markUsed s part
    entries wr) = coresOf s := by
  fun_induction markUsed s part entries wr with
  | case1 => rfl
  | case2 s own e rest r ih => rw [ih]; split <;> simp [r]
  | case3 s x rest _ ih => rw [ih, cores_markEntry]
@[simp] theorem cores_permitted (s : State) (core : ℕ) (part : ℕ) (super : Bool) (va : Word) (a : Access) : coresOf (permitted
    s core part super va a).2 = coresOf s := by
  unfold permitted
  dsimp only
  repeat' (first | (simp [*]; done) | split)
@[simp] theorem cores_probe (s : State) (core : ℕ) (part : ℕ) (super : Bool) (va : Word) (size : ℕ) (a : Access) : coresOf
    (probe s core part super va size a).2 = coresOf s := by
  unfold probe
  extract_lets r
  split
  · split
    · simp [r]
    · split <;> simp [r]
  · simp [r]
@[simp] theorem cores_translate (s : State) (core : ℕ) (part : ℕ) (super : Bool) (va : Word) (size : ℕ) (a : Access) : coresOf
    (translate s core part super va size a).2 = coresOf s := by
  unfold translate
  simp [*]
@[simp] theorem cores_setReg (s : State) (r : SReg) (v : Word) : coresOf (setReg s r v) = coresOf s := by
  unfold setReg
  dsimp only
  repeat' (first | (simp [*]; done) | split)
@[simp] theorem cores_setPc (s : State) (pc : Word) : coresOf (setPc s pc) = coresOf s := by
  exact (Eq.refl _).trans rfl
@[simp] theorem cores_stall (s : State) : coresOf (stall s) = coresOf s := by
  exact (Eq.refl _).trans rfl
@[simp] theorem cores_advance (s : State) : coresOf (advance s) = coresOf s := by
  exact (Eq.refl _).trans rfl
@[simp] theorem cores_setCsr (s : State) (f : Csr → Csr) : coresOf (setCsr s f) = coresOf s := by
  exact (Eq.refl _).trans rfl
@[simp] theorem core_latchHart (h : Hart) : (latchHart h).core = h.core := by
  exact (Eq.refl _).trans rfl
@[simp] theorem core_writeSlot (h : Hart) (n : ℕ) (value : Word) (seq : BitVec 32) (ovr : ℕ) (st : ℕ) (flags : ℕ) : (writeSlot
    h n value seq ovr st flags).core = h.core := by
  exact (Eq.refl _).trans rfl
@[simp] theorem core_setSlotState (h : Hart) (n : ℕ) (st : ℕ) : (setSlotState h n st).core = h.core := by
  exact (Eq.refl _).trans rfl
@[simp] theorem cores_roomInL1 (s : State) (core : ℕ) (pa : ℕ) : coresOf (roomInL1 s core pa) = coresOf s := by
  unfold roomInL1
  dsimp only
  repeat' (first | (simp [*]; done) | split)
@[simp] theorem cores_dropOlds (s : State) (core : ℕ) (p : Place) : coresOf (dropOlds s core p) = coresOf s := by
  unfold dropOlds
  repeat' (first | (simp (disch := (intros; first | assumption | (simp [*]; done) | (dsimp only; repeat' (first | (simp [*]; done) | split)))) [*]; done) | split)
@[simp] theorem cores_performStore (s : State) (core : ℕ) (st : Store) : coresOf (performStore s core st) = coresOf s := by
  unfold performStore
  dsimp only
  repeat' (first | (simp (disch := (intros; first | assumption | (simp (disch := (intros; first | assumption | (simp [*]; done) | (dsimp only; repeat' (first | (simp [*]; done) | split)))) [*]; done) | (dsimp only; repeat' (first | (simp (disch := (intros; first | assumption | (simp [*]; done) | (dsimp only; repeat' (first | (simp [*]; done) | split)))) [*]; done) | split)))) [*]; done) | split)
@[simp] theorem cores_placeBytes (s : State) (core : ℕ) (qos : ℕ) (p : Place) (size : ℕ) (data : ℕ) (mask : ℕ) : coresOf
    (placeBytes s core qos p size data mask) = coresOf s := by
  unfold placeBytes
  dsimp only
  repeat' (first | (simp [*]; done) | split)
@[simp] theorem cores_performPacket (s : State) (p : Packet) : coresOf (performPacket s p) = coresOf s := by
  unfold performPacket
  dsimp only
  repeat' (first | (simp [*]; done) | split)
@[simp] theorem cores_performWindow (s : State) (fuel : ℕ) : coresOf (performWindow s fuel) = coresOf s := by
  induction fuel generalizing s with
  | zero => rfl
  | succ n ih =>
    unfold performWindow
    split
    · rw [ih, cores_performPacket]
    · rfl
@[simp] theorem cores_setTransit (s : State) (i : ℕ) (t : Transit) : coresOf (setTransit s i t) = coresOf s := by
  exact (Eq.refl _).trans rfl
@[simp] theorem cores_unsuspect (s : State) (i : ℕ) : coresOf (unsuspect s i) = coresOf s := by
  exact (Eq.refl _).trans rfl
@[simp] theorem cores_arrive (s : State) (p : Packet) : coresOf (arrive s p) = coresOf s := by
  unfold arrive
  simp
@[simp] theorem cores_drainRecovery (s : State) (e : ℕ) : coresOf (drainRecovery s e) = coresOf s := by
  unfold drainRecovery
  simp
@[simp] theorem cores_atHomeOf (s : State) (p : Place) : coresOf (atHomeOf s p) = coresOf s := by
  unfold atHomeOf
  split <;> simp
@[simp] theorem cores_performNext (s : State) (p : Packet) : coresOf (performNext s p) = coresOf s := by
  unfold performNext
  dsimp only
  split <;> simp
@[simp] theorem cores_performPackets (s : State) (f : Packet → Bool) : coresOf (performPackets s f) = coresOf s := by
  unfold performPackets
  simp
@[simp] theorem cores_backInvalidate (s : State) : coresOf (backInvalidate s) = coresOf s := by
  exact (Eq.refl _).trans rfl
@[simp] theorem cores_performBuffered (s : State) (core : ℕ) (st : Store) : coresOf (performBuffered s core st) = coresOf s := by
  unfold performBuffered
  dsimp only
  repeat' (first | (simp [*]; done) | split)
@[simp] theorem cores_drainOne (s : State) (core : ℕ) : coresOf (drainOne s core) = coresOf s := by
  unfold drainOne
  dsimp only
  repeat' (first | (simp (disch := (intros; first | assumption | (simp (disch := (intros; first | assumption | (simp [*]; done) | (dsimp only; repeat' (first | (simp [*]; done) | split)))) [*]; done) | (dsimp only; repeat' (first | (simp (disch := (intros; first | assumption | (simp [*]; done) | (dsimp only; repeat' (first | (simp [*]; done) | split)))) [*]; done) | split)))) [*]; done) | split)
@[simp] theorem cores_drainBuffer (s : State) (core : ℕ) : coresOf (drainBuffer s core) = coresOf s := by
  unfold drainBuffer
  simp [*]
@[simp] theorem cores_cleanL1 (s : State) (core : ℕ) : coresOf (cleanL1 s core) = coresOf s := by
  exact (Eq.refl _).trans rfl
@[simp] theorem cores_acquireNow (s : State) : coresOf (acquireNow s) = coresOf s := by
  unfold acquireNow
  dsimp only
  repeat' (first | (simp [*]; done) | split)
@[simp] theorem cores_flushHart (s : State) (core : ℕ) : coresOf (flushHart s core) = coresOf s := by
  unfold flushHart
  simp [*]
@[simp] theorem cores_setPcpWord (s : State) (part : ℕ) (off : ℕ) (v : Word) : coresOf (setPcpWord s part off v) = coresOf s
    := by
  unfold setPcpWord
  repeat' (first | (simp (disch := (intros; first | assumption | (simp [*]; done) | (dsimp only; repeat' (first | (simp [*]; done) | split)))) [*]; done) | split)
@[simp] theorem cores_writeFaultRecord (s : State) (h : Hart) (t : TrapInfo) : coresOf (writeFaultRecord s h t) = coresOf s :=
    by
  unfold writeFaultRecord
  dsimp only
  repeat' (first | (simp [*]; done) | split)
@[simp] theorem cores_writeBatch (s : State) (h : Hart) (frames : List ℕ) (flags : ℕ) : coresOf (writeBatch s h frames flags)
    = coresOf s := by
  unfold writeBatch
  dsimp only
  repeat' (first | (simp [*]; done) | split)
@[simp] theorem cores_writeTraceAt (s : State) (core base who kind : ℕ) (head : Word) (members : ℕ) (elapsed : ℕ) (tail : List
    Byte) : coresOf (writeTraceAt s core base who kind head members elapsed tail) = coresOf s := by
  unfold writeTraceAt
  simp [*]
@[simp] theorem cores_writeTrace (s : State) (core : ℕ) (kind : ℕ) (head : Word) (members : ℕ) (elapsed : ℕ) (tail : List
    Byte) : coresOf (writeTrace s core kind head members elapsed tail) = coresOf s := by
  unfold writeTrace
  simp [*]
@[simp] theorem core_closeHart (s : State) (h : Hart) : (closeHart s h).core = h.core := by
  unfold closeHart
  split <;> rfl
@[simp] theorem cores_closeConvoy (s : State) : coresOf (closeConvoy s) = coresOf s := by
  unfold closeConvoy
  simp
@[simp] theorem core_settleConvoys (s : State) (h : Hart) : (settleConvoys s h).core = h.core := by
  unfold settleConvoys
  dsimp only
  repeat' (first | (simp; done) | split)
@[simp] theorem core_cutConvoys (n : ℕ) (h : Hart) : (cutConvoys n h).core = h.core := rfl
@[simp] theorem core_recycle (h : Hart) : (recycle h).core = h.core := by
  exact (Eq.refl _).trans rfl
@[simp] theorem core_retire (h : Hart) : (retire h).core = h.core := by
  exact (Eq.refl _).trans rfl
@[simp] theorem cores_dropSubs (s : State) (f : ℕ → Subscriber → Bool) : coresOf (dropSubs s f) = coresOf s := by
  exact (Eq.refl _).trans rfl
@[simp] theorem cores_writeWordOf (bs : List (ℕ × Byte)) (s : State) (w : ℕ) : coresOf (writeWordOf bs s w) = coresOf s := by
  unfold writeWordOf
  simp
@[simp] theorem cores_finishStores (part qos : ℕ) (s : State) (e : Stope) : coresOf (finishStores part qos s e) = coresOf s := by
  unfold finishStores
  dsimp only
  split
  · rfl
  · simp
@[simp] theorem cores_stopOutside (s : State) (part : ℕ) (launch : ℕ) (work : List ℕ) : coresOf (stopOutside s part launch
    work) = coresOf s := by
  unfold stopOutside
  dsimp only
  simp only [coresOf_mk, coresWith_fold]
  simp only [cores_dropSubs]
  refine coresOf_foldl _ (fun s x => ?_) _ _
  split <;> simp
@[simp] theorem core_rollbackHart (h : Hart) : (rollbackHart h).core = h.core := by
  unfold rollbackHart
  split <;> simp
@[simp] theorem core_stopShort (h : Hart) : (stopShort h).core = h.core := by
  unfold stopShort
  simp
@[simp] theorem cores_endLaunchFor (s : State) (part : ℕ) (launch : ℕ) : coresOf (endLaunchFor s part launch) = coresOf s := by
  unfold endLaunchFor
  dsimp only
  simp only [coresOf_mk, coresWith_fold]
  rw [coresOf_onHarts _ _ (by intro g; split <;> simp)]
  simp only [cores_stopOutside]
  rw [coresOf_foldl _ (fun s x => cores_flushHart s x)]
  exact coresOf_onHarts _ _ (by intro g; split <;> simp)
@[simp] theorem core_setPending (h : Hart) (r : SReg) : (setPending h r).core = h.core := by
  unfold setPending
  repeat' (first | (simp (disch := (intros; first | assumption | (simp [*]; done) | (dsimp only; repeat' (first | (simp [*]; done) | split)))) [*]; done) | split)
@[simp] theorem core_writeAfter (h : Hart) (r : SReg) (v : Word) (n : ℕ) : (writeAfter h r v n).core = h.core := by
  unfold writeAfter
  split <;> rfl
@[simp] theorem core_writePending (h : Hart) (r : SReg) (v : Word) : (writePending h r v).core = h.core := by
  unfold writePending
  simp
@[simp] theorem core_declineLoop (h : Hart) (detail : ℕ) : (declineLoop h detail).core = h.core := by
  unfold declineLoop
  dsimp only
  repeat' (first | (simp [*]; done) | split)
@[simp] theorem cores_logPlace (s : State) (pa : ℕ) : coresOf (logPlace s pa) = coresOf s := by
  unfold logPlace
  split <;> simp
@[simp] theorem cores_logStructure (s : State) (core : ℕ) (c : SramClass) : coresOf (logStructure s core c) = coresOf s := by
  unfold logStructure
  simp
@[simp] theorem cores_logError (s : State) (core : ℕ) (va : Word) : coresOf (logError s core va) = coresOf s := by
  unfold logError
  repeat' (first | (simp [*]; done) | split)
@[simp] theorem cores_logCause (s : State) (c : ℕ) (va : Word) : coresOf (logCause s c va) = coresOf s := by
  unfold logCause
  split <;> simp
@[simp] theorem cores_takeTrap (s : State) (t : TrapInfo) : coresOf (takeTrap s t) = coresOf s := by
  unfold takeTrap
  extract_lets h s1 s2 h1 c
  have e1 : coresOf s1 = coresOf s := by simp [s1]
  have e2 : coresOf s2 = coresOf s := by simp only [s2]; split <;> simp [e1]
  split
  · simp
  · simp [h1, e2]
@[simp] theorem cores_byFirmware (s t : State) (ms : Multiset Nat) (hm : coresOf s = ms) (ht : coresOf t = ms) :
    Keeps ms (byFirmware s t) := by
  unfold byFirmware
  rw [keeps_next]
  split <;> assumption
@[simp] theorem cores_trapAt (s : State) (cause : ℕ) (tval : Word) (topnd : Word) : coresOf (trapAt s cause tval topnd) =
    coresOf s := by
  unfold trapAt
  simp (disch := (intros; first | assumption | (simp (disch := (intros; first | assumption | (simp [*]; done) | (dsimp only; repeat' (first | (simp [*]; done) | split)))) [*]; done) | (dsimp only; repeat' (first | (simp (disch := (intros; first | assumption | (simp [*]; done) | (dsimp only; repeat' (first | (simp [*]; done) | split)))) [*]; done) | split)))) [*]
@[simp] theorem cores_trapWord (s : State) (cause : ℕ) (topnd : Word) : coresOf (trapWord s cause topnd) = coresOf s := by
  unfold trapWord
  simp [*]
@[simp] theorem cores_trapReturn (s : State) : coresOf (trapReturn s) = coresOf s := by
  exact (Eq.refl _).trans rfl
@[simp] theorem cores_rollback (s : State) : coresOf (rollback s) = coresOf s := by
  unfold rollback
  simp [*]
@[simp] theorem cores_writeResult (s : State) (d : SReg) (v : Word) (ms : Multiset Nat) (hm : coresOf s = ms) : Keeps ms
    (writeResult s d v) := by
  unfold writeResult
  repeat' (first | (simp (disch := (intros; first | assumption | (simp [*]; done) | (dsimp only; repeat' (first | (simp [*]; done) | split)))) [*]; done) | split)
@[simp] theorem cores_guardWrite (s : State) (d : SReg) (k : Out) (ms : Multiset Nat) (hm : coresOf s = ms) (h_k : Keeps ms k)
    : Keeps ms (guardWrite s d k) := by
  unfold guardWrite
  repeat' (first | (simp (disch := (intros; first | assumption | (simp [*]; done) | (dsimp only; repeat' (first | (simp [*]; done) | split)))) [*]; done) | split)
@[simp] theorem cores_privileged (s : State) (k : Out) (ms : Multiset Nat) (hm : coresOf s = ms) (h_k : Keeps ms k) : Keeps ms
    (privileged s k) := by
  unfold privileged
  repeat' (first | (simp (disch := (intros; first | assumption | (simp [*]; done) | (dsimp only; repeat' (first | (simp [*]; done) | split)))) [*]; done) | split)
@[simp] theorem cores_reach (s : State) (va : Word) (size : ℕ) (a : Access) : coresOf (reach s va size a).2 = coresOf s := by
  unfold reach
  dsimp only
  repeat' (first | (simp [*]; done) | split)
@[simp] theorem cores_addressTrap (s : State) (cause : ℕ) (va : Word) (r : SReg) (stage2 : Bool) : coresOf (addressTrap s
    cause va r stage2) = coresOf s := by
  unfold addressTrap
  simp (disch := (intros; first | assumption | (simp (disch := (intros; first | assumption | (simp [*]; done) | (dsimp only; repeat' (first | (simp [*]; done) | split)))) [*]; done) | (dsimp only; repeat' (first | (simp (disch := (intros; first | assumption | (simp [*]; done) | (dsimp only; repeat' (first | (simp [*]; done) | split)))) [*]; done) | split)))) [*]
@[simp] theorem cores_pageTrap (s : State) (va : Word) (r : SReg) (wr : Bool) (stage2 : Bool) : coresOf (pageTrap s va r wr
    stage2) = coresOf s := by
  unfold pageTrap
  dsimp only
  repeat' (first | (simp (disch := (intros; first | assumption | (simp (disch := (intros; first | assumption | (simp [*]; done) | (dsimp only; repeat' (first | (simp [*]; done) | split)))) [*]; done) | (dsimp only; repeat' (first | (simp (disch := (intros; first | assumption | (simp [*]; done) | (dsimp only; repeat' (first | (simp [*]; done) | split)))) [*]; done) | split)))) [*]; done) | split)
@[simp] theorem cores_watchTrap (s : State) (va : Word) (r : SReg) : coresOf (watchTrap s va r) = coresOf s := by
  unfold watchTrap
  simp
@[simp] theorem cores_access (s : State) (va : Word) (size : ℕ) (a : Access) (r : SReg) (k : Place → List (ℕ × Bool) → State →
    Out) (ms : Multiset Nat) (hm : coresOf s = ms) (h_k : ∀ y0 y1 y2, coresOf y2 = ms → Keeps ms (k y0 y1 y2)) : Keeps ms
    (access s va size a r k) := by
  unfold access
  dsimp only
  repeat' (first | (simp [*]; done) | split)
@[simp] theorem cores_accessBoth (s : State) (va : Word) (size : ℕ) (r : SReg) (k : Place → List (ℕ × Bool) → State → Out) (ms
    : Multiset Nat) (hm : coresOf s = ms) (h_k : ∀ y0 y1 y2, coresOf y2 = ms → Keeps ms (k y0 y1 y2)) : Keeps ms (accessBoth s
    va size r k) := by
  unfold accessBoth
  dsimp only
  repeat' (first | (simp [*]; done) | split)
@[simp] theorem core_setElem (h : Hart) (r : ℕ) (narrow : Bool) (e : ℕ) (x : ℕ) : (setElem h r narrow e x).core = h.core := by
  exact (Eq.refl _).trans rfl
@[simp] theorem core_setTags (h : Hart) (r : ℕ) (g : ℕ) (t : ℕ) : (setTags h r g t).core = h.core := by
  exact (Eq.refl _).trans rfl
@[simp] theorem core_setMask (h : Hart) (m : ℕ) (v : ℕ) : (setMask h m v).core = h.core := by
  exact (Eq.refl _).trans rfl
@[simp] theorem core_setMaskBit (h : Hart) (m : ℕ) (e : ℕ) (b : Bool) : (setMaskBit h m e b).core = h.core := by
  exact (Eq.refl _).trans rfl
@[simp] theorem core_orFlags (h : Hart) (fl : ℕ) : (orFlags h fl).core = h.core := by
  exact (Eq.refl _).trans rfl
@[simp] theorem cores_fpResult (s : State) (d : SReg) (v : Word) (fl : ℕ) (ms : Multiset Nat) (hm : coresOf s = ms) : Keeps ms
    (fpResult s d v fl) := by
  unfold fpResult
  dsimp only
  repeat' (first | (simp [*]; done) | split)
@[simp] theorem cores_singleResult (s : State) (d : SReg) (x : Num × ℕ) (ms : Multiset Nat) (hm : coresOf s = ms) : Keeps ms
    (singleResult s d x) := by
  unfold singleResult
  simp [*]
@[simp] theorem cores_load (s : State) (d : SReg) (r : SReg) (va : Word) (size : ℕ) (sx : Bool) (ms : Multiset Nat) (hm :
    coresOf s = ms) : Keeps ms (load s d r va size sx) := by
  unfold load
  refine cores_guardWrite _ _ _ _ hm (cores_access _ _ _ _ _ _ _ hm (fun p es s1 h1 => ?_))
  split
  · rw [keeps_next, cores_stall, hm]
  · simp [h1]
@[simp] theorem cores_loadLater (s : State) (d : SReg) (r : SReg) (va : Word) (size : ℕ) (sx : Bool) (ms : Multiset Nat) (hm :
    coresOf s = ms) : Keeps ms (loadLater s d r va size sx) := by
  unfold loadLater
  refine cores_guardWrite _ _ _ _ hm (cores_access _ _ _ _ _ _ _ hm (fun p es s1 h1 => ?_))
  split
  · rw [keeps_next, cores_stall, hm]
  · rw [keeps_next, cores_advance, ← h1]
    exact coresOf_putHart s1 _ (core_setPending _ _)
@[simp] theorem cores_returnLoad (s : State) (core : ℕ) (k : ℕ) (old : Bool) : coresOf (returnLoad s core k old) = coresOf s
    := by
  unfold returnLoad
  dsimp only
  repeat' (first | (simp [*]; done) | split)
@[simp] theorem cores_store (s : State) (d : SReg) (r : SReg) (va : Word) (size : ℕ) (release : Bool) (system : Bool) (ms :
    Multiset Nat) (hm : coresOf s = ms) : Keeps ms (store s d r va size release system) := by
  unfold store
  simp (disch := (intros; first | assumption | (simp [*]; done) | (dsimp only; repeat' (first | (simp [*]; done) | split)))) [*]
@[simp] theorem cores_execLdb (d : SReg) (a : SReg) (i : BitVec 16) (s : State) (ms : Multiset Nat) (hm : coresOf s = ms) :
    Keeps ms (execLdb d a i s) := by
  unfold execLdb
  simp [*]
@[simp] theorem cores_execLdh (d : SReg) (a : SReg) (i : BitVec 16) (s : State) (ms : Multiset Nat) (hm : coresOf s = ms) :
    Keeps ms (execLdh d a i s) := by
  unfold execLdh
  simp [*]
@[simp] theorem cores_execLdw (d : SReg) (a : SReg) (i : BitVec 16) (s : State) (ms : Multiset Nat) (hm : coresOf s = ms) :
    Keeps ms (execLdw d a i s) := by
  unfold execLdw
  simp [*]
@[simp] theorem cores_execLdd (d : SReg) (a : SReg) (i : BitVec 16) (s : State) (ms : Multiset Nat) (hm : coresOf s = ms) :
    Keeps ms (execLdd d a i s) := by
  unfold execLdd
  simp [*]
@[simp] theorem cores_execLdbu (d : SReg) (a : SReg) (i : BitVec 16) (s : State) (ms : Multiset Nat) (hm : coresOf s = ms) :
    Keeps ms (execLdbu d a i s) := by
  unfold execLdbu
  simp [*]
@[simp] theorem cores_execLdhu (d : SReg) (a : SReg) (i : BitVec 16) (s : State) (ms : Multiset Nat) (hm : coresOf s = ms) :
    Keeps ms (execLdhu d a i s) := by
  unfold execLdhu
  simp [*]
@[simp] theorem cores_execLdwu (d : SReg) (a : SReg) (i : BitVec 16) (s : State) (ms : Multiset Nat) (hm : coresOf s = ms) :
    Keeps ms (execLdwu d a i s) := by
  unfold execLdwu
  simp [*]
@[simp] theorem cores_execStb (d : SReg) (a : SReg) (i : BitVec 16) (s : State) (ms : Multiset Nat) (hm : coresOf s = ms) :
    Keeps ms (execStb d a i s) := by
  unfold execStb
  simp [*]
@[simp] theorem cores_execSth (d : SReg) (a : SReg) (i : BitVec 16) (s : State) (ms : Multiset Nat) (hm : coresOf s = ms) :
    Keeps ms (execSth d a i s) := by
  unfold execSth
  simp [*]
@[simp] theorem cores_execStw (d : SReg) (a : SReg) (i : BitVec 16) (s : State) (ms : Multiset Nat) (hm : coresOf s = ms) :
    Keeps ms (execStw d a i s) := by
  unfold execStw
  simp [*]
@[simp] theorem cores_execStd (d : SReg) (a : SReg) (i : BitVec 16) (s : State) (ms : Multiset Nat) (hm : coresOf s = ms) :
    Keeps ms (execStd d a i s) := by
  unfold execStd
  simp [*]
@[simp] theorem cores_loadReg (s : State) (d : SReg) (a : SReg) (b : SReg) (k : OrdKind) (size : ℕ) (sx : Bool) (ms : Multiset
    Nat) (hm : coresOf s = ms) : Keeps ms (loadReg s d a b k size sx) := by
  unfold loadReg
  refine cores_load _ _ _ _ _ _ _ ?_
  split <;> simp [hm]
@[simp] theorem cores_storeReg (s : State) (d : SReg) (a : SReg) (b : SReg) (k : OrdKind) (sc : Scope) (size : ℕ) (ms :
    Multiset Nat) (hm : coresOf s = ms) : Keeps ms (storeReg s d a b k sc size) := by
  unfold storeReg
  simp [*]
@[simp] theorem cores_execLdbReg (d : SReg) (a : SReg) (b : SReg) (k : OrdKind) (_sc : Scope) (s : State) (ms : Multiset Nat)
    (hm : coresOf s = ms) : Keeps ms (execLdbReg d a b k _sc s) := by
  unfold execLdbReg
  simp [*]
@[simp] theorem cores_execLdhReg (d : SReg) (a : SReg) (b : SReg) (k : OrdKind) (_sc : Scope) (s : State) (ms : Multiset Nat)
    (hm : coresOf s = ms) : Keeps ms (execLdhReg d a b k _sc s) := by
  unfold execLdhReg
  simp [*]
@[simp] theorem cores_execLdwReg (d : SReg) (a : SReg) (b : SReg) (k : OrdKind) (_sc : Scope) (s : State) (ms : Multiset Nat)
    (hm : coresOf s = ms) : Keeps ms (execLdwReg d a b k _sc s) := by
  unfold execLdwReg
  simp [*]
@[simp] theorem cores_execLddReg (d : SReg) (a : SReg) (b : SReg) (k : OrdKind) (_sc : Scope) (s : State) (ms : Multiset Nat)
    (hm : coresOf s = ms) : Keeps ms (execLddReg d a b k _sc s) := by
  unfold execLddReg
  simp [*]
@[simp] theorem cores_execLdbuReg (d : SReg) (a : SReg) (b : SReg) (k : OrdKind) (_sc : Scope) (s : State) (ms : Multiset Nat)
    (hm : coresOf s = ms) : Keeps ms (execLdbuReg d a b k _sc s) := by
  unfold execLdbuReg
  simp [*]
@[simp] theorem cores_execLdhuReg (d : SReg) (a : SReg) (b : SReg) (k : OrdKind) (_sc : Scope) (s : State) (ms : Multiset Nat)
    (hm : coresOf s = ms) : Keeps ms (execLdhuReg d a b k _sc s) := by
  unfold execLdhuReg
  simp [*]
@[simp] theorem cores_execLdwuReg (d : SReg) (a : SReg) (b : SReg) (k : OrdKind) (_sc : Scope) (s : State) (ms : Multiset Nat)
    (hm : coresOf s = ms) : Keeps ms (execLdwuReg d a b k _sc s) := by
  unfold execLdwuReg
  simp [*]
@[simp] theorem cores_execStbReg (d : SReg) (a : SReg) (b : SReg) (k : OrdKind) (sc : Scope) (s : State) (ms : Multiset Nat)
    (hm : coresOf s = ms) : Keeps ms (execStbReg d a b k sc s) := by
  unfold execStbReg
  simp [*]
@[simp] theorem cores_execSthReg (d : SReg) (a : SReg) (b : SReg) (k : OrdKind) (sc : Scope) (s : State) (ms : Multiset Nat)
    (hm : coresOf s = ms) : Keeps ms (execSthReg d a b k sc s) := by
  unfold execSthReg
  simp [*]
@[simp] theorem cores_execStwReg (d : SReg) (a : SReg) (b : SReg) (k : OrdKind) (sc : Scope) (s : State) (ms : Multiset Nat)
    (hm : coresOf s = ms) : Keeps ms (execStwReg d a b k sc s) := by
  unfold execStwReg
  simp [*]
@[simp] theorem cores_execStdReg (d : SReg) (a : SReg) (b : SReg) (k : OrdKind) (sc : Scope) (s : State) (ms : Multiset Nat)
    (hm : coresOf s = ms) : Keeps ms (execStdReg d a b k sc s) := by
  unfold execStdReg
  simp [*]
@[simp] theorem cores_writeAtomic (s : State) (p : Place) (size : ℕ) (v : ℕ) : coresOf (writeAtomic s p size v) = coresOf s :=
    by
  unfold writeAtomic
  dsimp only
  repeat' (first | (simp [*]; done) | split)
@[simp] theorem cores_writeBackOwn (s : State) (p : Place) : coresOf (writeBackOwn s p) = coresOf s := by
  unfold writeBackOwn
  repeat' (first | (simp (disch := (intros; first | assumption | (simp [*]; done) | (dsimp only; repeat' (first | (simp [*]; done) | split)))) [*]; done) | split)
@[simp] theorem cores_beforeAtomic (s : State) (k : OrdKind) : coresOf (beforeAtomic s k) = coresOf s := by
  unfold beforeAtomic
  dsimp only
  repeat' (first | (simp [*]; done) | split)
@[simp] theorem cores_afterAtomic (s : State) (k : OrdKind) (sc : Scope) : coresOf (afterAtomic s k sc) = coresOf s := by
  unfold afterAtomic
  repeat' (first | (simp (disch := (intros; first | assumption | (simp [*]; done) | (dsimp only; repeat' (first | (simp [*]; done) | split)))) [*]; done) | split)
@[simp] theorem cores_atomic (op : AmoOp) (d : SReg) (a : SReg) (b : SReg) (k : OrdKind) (sc : Scope) (dw : Bool) (s : State)
    (ms : Multiset Nat) (hm : coresOf s = ms) : Keeps ms (atomic op d a b k sc dw s) := by
  unfold atomic
  extract_lets size va
  refine cores_guardWrite _ _ _ _ hm (cores_accessBoth _ _ _ _ _ _ hm (fun p es s1 h1 => ?_))
  extract_lets s2 s3 old s4
  have e3 : coresOf s3 = coresOf s1 := by simp [s3, s2]
  have e4 : coresOf s4 = coresOf s1 := by simp only [s4]; split <;> simp [e3]
  simp [e4, h1]
@[simp] theorem cores_execAmoAdd (d : SReg) (a : SReg) (b : SReg) (k : OrdKind) (sc : Scope) (z : Bool) (s : State) (ms :
    Multiset Nat) (hm : coresOf s = ms) : Keeps ms (execAmoAdd d a b k sc z s) := by
  unfold execAmoAdd
  simp [*]
@[simp] theorem cores_execAmoSwap (d : SReg) (a : SReg) (b : SReg) (k : OrdKind) (sc : Scope) (z : Bool) (s : State) (ms :
    Multiset Nat) (hm : coresOf s = ms) : Keeps ms (execAmoSwap d a b k sc z s) := by
  unfold execAmoSwap
  simp [*]
@[simp] theorem cores_execAmoCas (d : SReg) (a : SReg) (b : SReg) (k : OrdKind) (sc : Scope) (z : Bool) (s : State) (ms :
    Multiset Nat) (hm : coresOf s = ms) : Keeps ms (execAmoCas d a b k sc z s) := by
  unfold execAmoCas
  simp [*]
@[simp] theorem cores_execAmoMin (d : SReg) (a : SReg) (b : SReg) (k : OrdKind) (sc : Scope) (z : Bool) (s : State) (ms :
    Multiset Nat) (hm : coresOf s = ms) : Keeps ms (execAmoMin d a b k sc z s) := by
  unfold execAmoMin
  simp [*]
@[simp] theorem cores_execAmoMax (d : SReg) (a : SReg) (b : SReg) (k : OrdKind) (sc : Scope) (z : Bool) (s : State) (ms :
    Multiset Nat) (hm : coresOf s = ms) : Keeps ms (execAmoMax d a b k sc z s) := by
  unfold execAmoMax
  simp [*]
@[simp] theorem cores_execAmoAnd (d : SReg) (a : SReg) (b : SReg) (k : OrdKind) (sc : Scope) (z : Bool) (s : State) (ms :
    Multiset Nat) (hm : coresOf s = ms) : Keeps ms (execAmoAnd d a b k sc z s) := by
  unfold execAmoAnd
  simp [*]
@[simp] theorem cores_execAmoOr (d : SReg) (a : SReg) (b : SReg) (k : OrdKind) (sc : Scope) (z : Bool) (s : State) (ms :
    Multiset Nat) (hm : coresOf s = ms) : Keeps ms (execAmoOr d a b k sc z s) := by
  unfold execAmoOr
  simp [*]
@[simp] theorem cores_branchIf (s : State) (c : Bool) (o : BitVec 13) (ms : Multiset Nat) (hm : coresOf s = ms) : Keeps ms
    (branchIf s c o) := by
  unfold branchIf
  repeat' (first | (simp (disch := (intros; first | assumption | (simp [*]; done) | (dsimp only; repeat' (first | (simp [*]; done) | split)))) [*]; done) | split)
@[simp] theorem cores_execBeq (a : SReg) (b : SReg) (o : BitVec 13) (s : State) (ms : Multiset Nat) (hm : coresOf s = ms) :
    Keeps ms (execBeq a b o s) := by
  unfold execBeq
  simp [*]
@[simp] theorem cores_execBne (a : SReg) (b : SReg) (o : BitVec 13) (s : State) (ms : Multiset Nat) (hm : coresOf s = ms) :
    Keeps ms (execBne a b o s) := by
  unfold execBne
  simp [*]
@[simp] theorem cores_execBlt (a : SReg) (b : SReg) (o : BitVec 13) (s : State) (ms : Multiset Nat) (hm : coresOf s = ms) :
    Keeps ms (execBlt a b o s) := by
  unfold execBlt
  simp [*]
@[simp] theorem cores_execBge (a : SReg) (b : SReg) (o : BitVec 13) (s : State) (ms : Multiset Nat) (hm : coresOf s = ms) :
    Keeps ms (execBge a b o s) := by
  unfold execBge
  simp [*]
@[simp] theorem cores_execBltu (a : SReg) (b : SReg) (o : BitVec 13) (s : State) (ms : Multiset Nat) (hm : coresOf s = ms) :
    Keeps ms (execBltu a b o s) := by
  unfold execBltu
  simp [*]
@[simp] theorem cores_execBgeu (a : SReg) (b : SReg) (o : BitVec 13) (s : State) (ms : Multiset Nat) (hm : coresOf s = ms) :
    Keeps ms (execBgeu a b o s) := by
  unfold execBgeu
  simp [*]
@[simp] theorem cores_execJmp (o : BitVec 26) (s : State) (ms : Multiset Nat) (hm : coresOf s = ms) : Keeps ms (execJmp o s)
    := by
  unfold execJmp
  simp [*]
@[simp] theorem cores_execCall (o : BitVec 26) (s : State) (ms : Multiset Nat) (hm : coresOf s = ms) : Keeps ms (execCall o s)
    := by
  unfold execCall
  simp [*]
@[simp] theorem cores_jumpTo (s : State) (a : SReg) (k : Word → Out) (ms : Multiset Nat) (hm : coresOf s = ms) (h_k : ∀ y0,
    Keeps ms (k y0)) : Keeps ms (jumpTo s a k) := by
  unfold jumpTo
  dsimp only
  repeat' (first | (simp [*]; done) | split)
@[simp] theorem cores_execJr (a : SReg) (s : State) (ms : Multiset Nat) (hm : coresOf s = ms) : Keeps ms (execJr a s) := by
  unfold execJr
  simp [*]
@[simp] theorem cores_execCallr (a : SReg) (s : State) (ms : Multiset Nat) (hm : coresOf s = ms) : Keeps ms (execCallr a s) :=
    by
  unfold execCallr
  simp [*]
@[simp] theorem cores_enterConvoy (s : State) (alone : Bool) (n : ℕ) (reads : List ℕ) (writes : List ℕ) : coresOf (enterConvoy s alone
    n reads writes) = coresOf s := by
  unfold enterConvoy
  dsimp only
  repeat' (first | (simp [*]; done) | split)
@[simp] theorem cores_startedTrap (s : State) (tags : Vector (BitVec 4) 64) (cause : ℕ) (tval : Word) (topnd : Word) (at_ : ℕ)
    (useM0 : Bool) (flags : ℕ) (undo : optParam (List Undo) []) : coresOf (startedTrap s tags cause tval topnd at_ useM0 flags
    undo) = coresOf s := by
  unfold startedTrap
  dsimp only
  repeat' (first | (simp (disch := (intros; first | assumption | (simp [*]; done) | (dsimp only; repeat' (first | (simp [*]; done) | split)))) [*]; done) | split)
@[simp] theorem cores_pauseAt (s : State) (tags : Vector (BitVec 4) 64) (at_ : ℕ) (useM0 : Bool) (ms : Multiset Nat) (hm :
    coresOf s = ms) : Keeps ms (pauseAt s tags at_ useM0) := by
  unfold pauseAt
  simp [*]
@[simp] theorem cores_vecTrapAt (s : State) (cause : ℕ) (tval : Word) (topnd : Word) (ms : Multiset Nat) (hm : coresOf s = ms)
    : Keeps ms (vecTrapAt s cause tval topnd) := by
  unfold vecTrapAt
  dsimp only
  repeat' (first | (simp (disch := (intros; first | assumption | (simp (disch := (intros; first | assumption | (simp [*]; done) | (dsimp only; repeat' (first | (simp [*]; done) | split)))) [*]; done) | (dsimp only; repeat' (first | (simp (disch := (intros; first | assumption | (simp [*]; done) | (dsimp only; repeat' (first | (simp [*]; done) | split)))) [*]; done) | split)))) [*]; done) | split)
@[simp] theorem cores_vecTrap (s : State) (cause : ℕ) (topnd : Word) (ms : Multiset Nat) (hm : coresOf s = ms) : Keeps ms
    (vecTrap s cause topnd) := by
  unfold vecTrap
  simp [*]
@[simp] theorem cores_checkRegs (s : State) (rs : List ℕ) (k : Out) (ms : Multiset Nat) (hm : coresOf s = ms) (h_k : Keeps ms
    k) : Keeps ms (checkRegs s rs k) := by
  unfold checkRegs
  repeat' (first | (simp (disch := (intros; first | assumption | (simp [*]; done) | (dsimp only; repeat' (first | (simp [*]; done) | split)))) [*]; done) | split)
@[simp] theorem cores_checkApart (s : State) (d : ℕ) (srcs : List ℕ) (own : List ℕ) (tag : Option ℕ) (bad : Option ℕ) (k :
    Out) (ms : Multiset Nat) (hm : coresOf s = ms) (h_k : Keeps ms k) : Keeps ms (checkApart s d srcs own tag bad k) := by
  unfold checkApart
  repeat' (first | (simp (disch := (intros; first | assumption | (simp [*]; done) | (dsimp only; repeat' (first | (simp [*]; done) | split)))) [*]; done) | split)
@[simp] theorem cores_checkVec (s : State) (dst : Option ℕ) (srcs : List ℕ) (res : ℕ ⊕ ℕ) (anyTag : Bool) (k : Out) (ms :
    Multiset Nat) (hm : coresOf s = ms) (h_k : Keeps ms k) : Keeps ms (checkVec s dst srcs res anyTag k) := by
  unfold checkVec
  repeat' (first | (simp (disch := (intros; first | assumption | (simp [*]; done) | (dsimp only; repeat' (first | (simp [*]; done) | split)))) [*]; done) | split)
@[simp] theorem core_setProgress (h : Hart) (r : ℕ) (g : ℕ) (done : Bool) : (setProgress h r g done).core = h.core := by
  exact (Eq.refl _).trans rfl
@[simp] theorem core_setMaskProgress (h : Hart) (m : ℕ) (g : ℕ) (done : Bool) : (setMaskProgress h m g done).core = h.core := by
  exact (Eq.refl _).trans rfl
@[simp] theorem core_completed (h : Hart) (r : ℕ) (n : ℕ) : (completed h r n).core = h.core := by
  unfold completed
  repeat' (first | (simp (disch := (intros; first | assumption | (simp [*]; done) | (dsimp only; repeat' (first | (simp [*]; done) | split)))) [*]; done) | split)
@[simp] theorem core_completedMask (h : Hart) (m : ℕ) (n : ℕ) : (completedMask h m n).core = h.core := by
  unfold completedMask
  repeat' (first | (simp (disch := (intros; first | assumption | (simp [*]; done) | (dsimp only; repeat' (first | (simp [*]; done) | split)))) [*]; done) | split)
@[simp] theorem core_vecTail (h : Hart) (r : ℕ) (t : ℕ) (n : ℕ) : (vecTail h r t n).core = h.core := by
  unfold vecTail
  dsimp only
  repeat' (first | (simp [*]; done) | split)
@[simp] theorem core_maskTail (h : Hart) (m : ℕ) (n : ℕ) : (maskTail h m n).core = h.core := by
  unfold maskTail
  dsimp only
  repeat' (first | (simp [*]; done) | split)
@[simp] theorem cores_vecLoop (s : State) (d : ℕ) (t : ℕ) (act : ℕ → Bool) (zero : Bool) (f : ℕ → ℕ × ℕ) (ms : Multiset Nat)
    (hm : coresOf s = ms) : Keeps ms (vecLoop s d t act zero f) := by
  unfold vecLoop
  dsimp only
  repeat' (first | (simp [*]; done) | split)
@[simp] theorem cores_maskLoop (s : State) (d : ℕ) (act : ℕ → Bool) (zero : Bool) (f : ℕ → ℕ × ℕ) (ms : Multiset Nat) (hm :
    coresOf s = ms) : Keeps ms (maskLoop s d act zero f) := by
  unfold maskLoop
  dsimp only
  repeat' (first | (simp [*]; done) | split)
@[simp] theorem core_takeCarry (h : Hart) (n : ℕ) : (takeCarry h n).core = h.core := by
  exact (Eq.refl _).trans rfl
@[simp] theorem cores_execViota (d : VReg) (m : MReg) (s : State) (ms : Multiset Nat) (hm : coresOf s = ms) : Keeps ms
    (execViota d m s) := by
  unfold execViota
  dsimp only
  repeat' (first | (simp [*]; done) | split)
@[simp] theorem cores_execVgath (d : VReg) (a : VReg) (b : VReg) (m : MReg) (s : State) (ms : Multiset Nat) (hm : coresOf s =
    ms) : Keeps ms (execVgath d a b m s) := by
  unfold execVgath
  simp (disch := (intros; first | assumption | (simp [*]; done) | (dsimp only; repeat' (first | (simp [*]; done) | split)))) [*]
@[simp] theorem cores_slide (up : Bool) (d : VReg) (a : VReg) (r : SReg) (f : SReg) (m : MReg) (s : State) (ms : Multiset Nat)
    (hm : coresOf s = ms) : Keeps ms (slide up d a r f m s) := by
  unfold slide
  simp (disch := (intros; first | assumption | (simp [*]; done) | (dsimp only; repeat' (first | (simp [*]; done) | split)))) [*]
@[simp] theorem cores_execVslup (d : VReg) (a : VReg) (r : SReg) (f : SReg) (m : MReg) (s : State) (ms : Multiset Nat) (hm :
    coresOf s = ms) : Keeps ms (execVslup d a r f m s) := by
  unfold execVslup
  simp [*]
@[simp] theorem cores_execVsldn (d : VReg) (a : VReg) (r : SReg) (f : SReg) (m : MReg) (s : State) (ms : Multiset Nat) (hm :
    coresOf s = ms) : Keeps ms (execVsldn d a r f m s) := by
  unfold execVsldn
  simp [*]
@[simp] theorem cores_execVcomp (d : VReg) (a : VReg) (m : MReg) (s : State) (ms : Multiset Nat) (hm : coresOf s = ms) : Keeps
    ms (execVcomp d a m s) := by
  unfold execVcomp
  dsimp only
  repeat' (first | (simp [*]; done) | split)
@[simp] theorem cores_extract (sx : Bool) (d : SReg) (a : VReg) (r : SReg) (s : State) (ms : Multiset Nat) (hm : coresOf s =
    ms) : Keeps ms (extract sx d a r s) := by
  unfold extract
  simp [*]
@[simp] theorem cores_execVext (d : SReg) (a : VReg) (r : SReg) (s : State) (ms : Multiset Nat) (hm : coresOf s = ms) : Keeps
    ms (execVext d a r s) := by
  unfold execVext
  simp [*]
@[simp] theorem cores_execVextU (d : SReg) (a : VReg) (r : SReg) (s : State) (ms : Multiset Nat) (hm : coresOf s = ms) : Keeps
    ms (execVextU d a r s) := by
  unfold execVextU
  simp [*]
@[simp] theorem cores_execVins (d : VReg) (r : SReg) (v : SReg) (s : State) (ms : Multiset Nat) (hm : coresOf s = ms) : Keeps
    ms (execVins d r v s) := by
  unfold execVins
  dsimp only
  repeat' (first | (simp [*]; done) | split)
@[simp] theorem cores_execVprog (d : SReg) (a : VReg) (s : State) (ms : Multiset Nat) (hm : coresOf s = ms) : Keeps ms
    (execVprog d a s) := by
  unfold execVprog
  simp [*]
@[simp] theorem cores_pieceFate (s : State) (f : Form) (local_ : Bool) (p : Piece) : coresOf (pieceFate s f local_ p).2 =
    coresOf s := by
  unfold pieceFate
  dsimp only
  repeat' (first | (simp [*]; done) | split)
@[simp] theorem cores_elemFate (s : State) (f : Form) (local_ : Bool) (ps : List Piece) : coresOf (elemFate s f local_ ps).2 =
    coresOf s := by
  unfold elemFate
  simp [*]
@[simp] theorem cores_judge (s : State) (f : Form) (local_ : Bool) (pieces : ℕ → List Piece) (es : List ℕ) (acc : List Judged)
    : coresOf (judge s f local_ pieces es acc).2 = coresOf s := by
  induction es generalizing s acc with
  | nil => rfl
  | cons e es ih =>
    unfold judge
    dsimp only
    repeat' (first | rfl | (simp [*]; done) | split)
theorem logCause_hart (s : State) (c : ℕ) (va : Word) : (logCause s c va).hart = s.hart := by
  unfold logCause logError logStructure logPlace logPit
  repeat' (first | rfl | split)
@[simp] theorem cores_finish (s : State) (tags : Vector (BitVec 4) 64) (f : Form) (p : Plan) (ms : Multiset Nat) (hm : coresOf
    s = ms) : Keeps ms (finish s tags f p) := by
  unfold finish
  extract_lets h0 c0 h s1 marked
  have ch : h.core = s.hart.core := by simp only [h, h0]; split <;> rfl
  have cm : marked.core = s.hart.core := by simp [marked, ch]
  have e1 : coresOf s1 = ms := by rw [← hm]; exact coresOf_putHart s h ch
  split
  · split
    · exact cores_pauseAt _ _ _ _ _ e1
    · rw [keeps_next, cores_advance, ← hm]
      refine coresOf_putHart s _ ?_
      split <;> simp [ch]
  · simp only [keeps_next, cores_startedTrap]
    exact e1
  · simp only [keeps_next, cores_startedTrap, cores_writeBatch]
    exact (coresOf_putHart s marked cm).trans hm
  · next c e a st _ =>
    simp only [keeps_next, cores_startedTrap]
    refine Eq.trans (coresOf_putHart (logCause s1 c a) marked ?_) ?_
    · rw [logCause_hart, cm, ← ch]
    · rw [cores_logCause, e1]
@[simp] theorem cores_logTrim (s : State) (f : Form) (x : Judgement) (p : Plan) : coresOf (logTrim s f x p) = coresOf s := by
  unfold logTrim
  repeat' (first | (simp; done) | split)
@[simp] theorem cores_vecAccess (s : State) (f : Form) (n : ℕ) (pieces : ℕ → List Piece) (k : State → Plan → Out) (ms :
    Multiset Nat) (hm : coresOf s = ms) (h_k : ∀ y0 y1, coresOf y0 = ms → Keeps ms (k y0 y1)) : Keeps ms (vecAccess s f n
    pieces k) := by
  unfold vecAccess
  dsimp only
  repeat' (first | (simp [*]; done) | split)
@[simp] theorem cores_settle (s : State) (cluster : ℕ) (ps : List Place) : coresOf (settle s cluster ps) = coresOf s := by
  unfold settle
  dsimp only
  repeat' (first | (simp (disch := (intros; first | assumption | (simp (disch := (intros; first | assumption | (simp [*]; done) | (dsimp only; repeat' (first | (simp [*]; done) | split)))) [*]; done) | (dsimp only; repeat' (first | (simp (disch := (intros; first | assumption | (simp [*]; done) | (dsimp only; repeat' (first | (simp [*]; done) | split)))) [*]; done) | split)))) [*]; done) | split)
@[simp] theorem cores_markPieces (s : State) (f : Form) (ps : List Piece) : coresOf (markPieces s f ps).2 = coresOf s := by
  unfold markPieces
  rw [coresOf_foldl_snd _ (fun s x => ?_)]
  split <;> simp
@[simp] theorem cores_laneRead (s : State) (e : ℕ) (p : Place) (size : ℕ) : coresOf (laneRead s e p size).2 = coresOf s := by
  unfold laneRead
  dsimp only
  repeat' (first | (simp [*]; done) | split)
@[simp] theorem cores_sendPacket (s : State) (p : Packet) : coresOf (sendPacket s p) = coresOf s := by
  unfold sendPacket
  dsimp only
  repeat' (first | (simp [*]; done) | split)
@[simp] theorem cores_sendElem (s : State) (e : ℕ) (p : Place) (second : Option Place) (size : ℕ) (data : ℕ) (mask : ℕ) (es :
    List (ℕ × Bool)) : coresOf (sendElem s e p second size data mask es) = coresOf s := by
  unfold sendElem
  simp [*]
@[simp] theorem cores_loadElems (s : State) (f : Form) (pieces : ℕ → List Piece) (r : ℕ) (narrow : Bool) (size : ℕ) (els :
    List (ℕ × List Place)) : coresOf (loadElems s f pieces r narrow size els) = coresOf s := by
  unfold loadElems
  simp [*]
@[simp] theorem core_zeroInactive (h : Hart) (m : MReg) (r : ℕ) (narrow : Bool) (len : ℕ) : (zeroInactive h m r narrow
    len).core = h.core := by
  unfold zeroInactive
  dsimp only
  repeat' (first | (simp [*]; done) | split)
@[simp] theorem core_closeLoad (h : Hart) (m : MReg) (r : ℕ) (t : ℕ) (len : ℕ) (n : ℕ) : (closeLoad h m r t len n).core =
    h.core := by
  unfold closeLoad
  repeat' (first | (simp (disch := (intros; first | assumption | (simp [*]; done) | (dsimp only; repeat' (first | (simp [*]; done) | split)))) [*]; done) | split)
@[simp] theorem core_setArrival (h : Hart) (r : ℕ) (gs : List ℕ) : (setArrival h r gs).core = h.core := by
  exact (Eq.refl _).trans rfl
@[simp] theorem core_loadLeft (h : Hart) (m : MReg) (r : ℕ) (t : ℕ) (n : ℕ) (p : Plan) : (loadLeft h m r t n p).core = h.core
    := by
  unfold loadLeft
  repeat' (first | (simp (disch := (intros; first | assumption | (simp [*]; done) | (dsimp only; repeat' (first | (simp [*]; done) | split)))) [*]; done) | split)
@[simp] theorem cores_checkLoad (s : State) (t : VReg) (vi : Option VReg) (k : Out) (ms : Multiset Nat) (hm : coresOf s = ms)
    (h_k : Keeps ms k) : Keeps ms (checkLoad s t vi k) := by
  unfold checkLoad
  repeat' (first | (simp (disch := (intros; first | assumption | (simp [*]; done) | (dsimp only; repeat' (first | (simp [*]; done) | split)))) [*]; done) | split)
@[simp] theorem cores_checkStore (s : State) (t : VReg) (vi : Option VReg) (k : Out) (ms : Multiset Nat) (hm : coresOf s = ms)
    (h_k : Keeps ms k) : Keeps ms (checkStore s t vi k) := by
  unfold checkStore
  repeat' (first | (simp (disch := (intros; first | assumption | (simp [*]; done) | (dsimp only; repeat' (first | (simp [*]; done) | split)))) [*]; done) | split)
@[simp] theorem cores_vecLoad (s : State) (t : VReg) (f : Form) (n : ℕ) (addr : ℕ → Word) (ms : Multiset Nat) (hm : coresOf s
    = ms) : Keeps ms (vecLoad s t f n addr) := by
  unfold vecLoad
  extract_lets dt pieces
  refine cores_vecAccess _ _ _ _ _ _ hm ?_
  intro s1 p h1
  try dsimp only
  repeat' (first | (simp [*]; done) | split)
@[simp] theorem cores_storeElems (s : State) (f : Form) (pieces : ℕ → List Piece) (r : ℕ) (t : ℕ) (els : List (ℕ × List
    Place)) : coresOf (storeElems s f pieces r t els) = coresOf s := by
  unfold storeElems
  simp [*]
@[simp] theorem cores_vecStore (s : State) (t : VReg) (f : Form) (n : ℕ) (addr : ℕ → Word) (ms : Multiset Nat) (hm : coresOf s
    = ms) : Keeps ms (vecStore s t f n addr) := by
  unfold vecStore
  simp (disch := (intros; first | assumption | (simp [*]; done) | (dsimp only; repeat' (first | (simp [*]; done) | split)))) [*]
@[simp] theorem cores_execVld (t : VReg) (b : SReg) (m : MReg) (s : State) (ms : Multiset Nat) (hm : coresOf s = ms) : Keeps
    ms (execVld t b m s) := by
  unfold execVld
  simp [*]
@[simp] theorem cores_execVlds (t : VReg) (b : SReg) (r : SReg) (m : MReg) (s : State) (ms : Multiset Nat) (hm : coresOf s =
    ms) : Keeps ms (execVlds t b r m s) := by
  unfold execVlds
  simp [*]
@[simp] theorem cores_execVldx (t : VReg) (b : SReg) (i : VReg) (m : MReg) (s : State) (ms : Multiset Nat) (hm : coresOf s =
    ms) : Keeps ms (execVldx t b i m s) := by
  unfold execVldx
  simp [*]
@[simp] theorem cores_execVldff (t : VReg) (b : SReg) (m : MReg) (s : State) (ms : Multiset Nat) (hm : coresOf s = ms) : Keeps
    ms (execVldff t b m s) := by
  unfold execVldff
  simp [*]
@[simp] theorem cores_execVst (t : VReg) (b : SReg) (m : MReg) (s : State) (ms : Multiset Nat) (hm : coresOf s = ms) : Keeps
    ms (execVst t b m s) := by
  unfold execVst
  simp [*]
@[simp] theorem cores_execVsts (t : VReg) (b : SReg) (r : SReg) (m : MReg) (s : State) (ms : Multiset Nat) (hm : coresOf s =
    ms) : Keeps ms (execVsts t b r m s) := by
  unfold execVsts
  simp [*]
@[simp] theorem cores_execVstx (t : VReg) (b : SReg) (i : VReg) (m : MReg) (s : State) (ms : Multiset Nat) (hm : coresOf s =
    ms) : Keeps ms (execVstx t b i m s) := by
  unfold execVstx
  simp [*]
@[simp] theorem core_configure (h : Hart) (n : ℕ) : (configure h n).core = h.core := by
  exact (Eq.refl _).trans rfl
@[simp] theorem core_retype (h : Hart) (v : Word) : (retype h v).core = h.core := by
  exact (Eq.refl _).trans rfl
@[simp] theorem cores_csrWrite (s : State) (c : ℕ) (v : Word) : coresOf (csrWrite s c v) = coresOf s := by
  unfold csrWrite
  dsimp only
  repeat' (first | (simp [*]; done) | split)
@[simp] theorem cores_csrPut (s : State) (c : ℕ) (f : Word → Word) (k : State → State) (ms : Multiset Nat) (hm : coresOf s =
    ms) (h_k : ∀ y0, coresOf y0 = ms → coresOf (k y0) = ms) : Keeps ms (csrPut s c f k) := by
  unfold csrPut
  repeat' (first | (simp (disch := (intros; first | assumption | (simp [*]; done) | (dsimp only; repeat' (first | (simp [*]; done) | split)))) [*]; done) | split)
@[simp] theorem cores_execCsrr (d : SReg) (c : BitVec 12) (s : State) (ms : Multiset Nat) (hm : coresOf s = ms) : Keeps ms
    (execCsrr d c s) := by
  unfold execCsrr
  repeat' (first | (simp (disch := (intros; first | assumption | (simp [*]; done) | (dsimp only; repeat' (first | (simp [*]; done) | split)))) [*]; done) | split)
@[simp] theorem cores_execCsrw (a : SReg) (c : BitVec 12) (s : State) (ms : Multiset Nat) (hm : coresOf s = ms) : Keeps ms
    (execCsrw a c s) := by
  unfold execCsrw
  simp [*]
@[simp] theorem cores_execCsrs (a : SReg) (c : BitVec 12) (s : State) (ms : Multiset Nat) (hm : coresOf s = ms) : Keeps ms
    (execCsrs a c s) := by
  unfold execCsrs
  simp [*]
@[simp] theorem cores_execCsrc (a : SReg) (c : BitVec 12) (s : State) (ms : Multiset Nat) (hm : coresOf s = ms) : Keeps ms
    (execCsrc a c s) := by
  unfold execCsrc
  simp [*]
@[simp] theorem cores_afterVector (s : State) (k : Out) (ms : Multiset Nat) (hm : coresOf s = ms) (h_k : Keeps ms k) :
    Keeps ms (afterVector s k) := by
  unfold afterVector
  split <;> simp [*]
@[simp] theorem cores_execVrcfgCsrWrite (v : Word) (s : State) (ms : Multiset Nat) (hm : coresOf s = ms) : Keeps ms
    (execVrcfgCsrWrite v s) := by
  unfold execVrcfgCsrWrite
  simp [*]
@[simp] theorem cores_execVtypeCsrWrite (v : Word) (s : State) (ms : Multiset Nat) (hm : coresOf s = ms) : Keeps ms
    (execVtypeCsrWrite v s) := by
  unfold execVtypeCsrWrite
  simp [*]
@[simp] theorem cores_execFcsrWrite (v : Word) (s : State) (ms : Multiset Nat) (hm : coresOf s = ms) : Keeps ms (execFcsrWrite
    v s) := by
  unfold execFcsrWrite
  simp [*]
@[simp] theorem cores_execSeedWrite (v : Word) (s : State) (ms : Multiset Nat) (hm : coresOf s = ms) : Keeps ms (execSeedWrite
    v s) := by
  unfold execSeedWrite
  simp [*]
@[simp] theorem cores_execSlbaseWrite (v : Word) (s : State) (ms : Multiset Nat) (hm : coresOf s = ms) : Keeps ms
    (execSlbaseWrite v s) := by
  unfold execSlbaseWrite
  simp [*]
@[simp] theorem cores_execAgeWrite (v : Word) (s : State) (ms : Multiset Nat) (hm : coresOf s = ms) : Keeps ms (execAgeWrite v
    s) := by
  unfold execAgeWrite
  simp [*]
@[simp] theorem cores_execStatusWrite (v : Word) (s : State) (ms : Multiset Nat) (hm : coresOf s = ms) : Keeps ms
    (execStatusWrite v s) := by
  unfold execStatusWrite
  simp [*]
@[simp] theorem cores_execRegisterWrite (c : BitVec 12) (v : Word) (s : State) (ms : Multiset Nat) (hm : coresOf s = ms) :
    Keeps ms (execRegisterWrite c v s) := by
  unfold execRegisterWrite
  dsimp only
  split <;> simp [*]
@[simp] theorem cores_afterStores (s : State) (f : Store → Bool) (k : State → Out) (ms : Multiset Nat) (hm : coresOf s = ms)
    (h_k : ∀ y0, coresOf y0 = ms → Keeps ms (k y0)) : Keeps ms (afterStores s f k) := by
  unfold afterStores
  dsimp only
  repeat' (first | (simp [*]; done) | split)
@[simp] theorem cores_withSlot (s : State) (d : SReg) (r : SReg) (k : State → ℕ → Out) (ms : Multiset Nat) (hm : coresOf s =
    ms) (h_k : ∀ y0 y1, coresOf y0 = ms → Keeps ms (k y0 y1)) : Keeps ms (withSlot s d r k) := by
  unfold withSlot
  dsimp only
  repeat' (first | (simp (disch := (intros; first | assumption | (simp (disch := (intros; first | assumption | (simp [*]; done) | (dsimp only; repeat' (first | (simp [*]; done) | split)))) [*]; done) | (dsimp only; repeat' (first | (simp (disch := (intros; first | assumption | (simp [*]; done) | (dsimp only; repeat' (first | (simp [*]; done) | split)))) [*]; done) | split)))) [*]; done) | split)
@[simp] theorem cores_subscribe (s : State) (who : Subscriber) (pa : ℕ) : coresOf (subscribe s who pa).2.2 = coresOf s := by
  unfold subscribe
  dsimp only
  repeat' (first | (simp [*]; done) | split)
@[simp] theorem cores_requestStand (s : State) (n : ℕ) (pa : ℕ) (rd : Option SReg) : coresOf (requestStand s n pa rd).2 =
    coresOf s := by
  unfold requestStand
  simp [*]
@[simp] theorem cores_execStand (d : SReg) (a : SReg) (b : SReg) (s : State) (ms : Multiset Nat) (hm : coresOf s = ms) : Keeps
    ms (execStand d a b s) := by
  unfold execStand
  refine cores_withSlot _ _ _ _ _ hm ?_
  intro s1 n h1
  try dsimp only
  repeat' (first | (simp [*]; done) | split)
@[simp] theorem core_applyPush (h : Hart) (n : ℕ) (v : Word) (q : BitVec 32) : (applyPush h n v q).core = h.core := by
  unfold applyPush
  dsimp only
  repeat' (first | (simp [*]; done) | split)
@[simp] theorem core_receive (h : Hart) (n : ℕ) (k : ℕ) : (receive h n k).core = h.core := by
  exact (Eq.refl _).trans rfl
@[simp] theorem cores_settleDrain (s : State) (core : ℕ) (n : ℕ) : coresOf (settleDrain s core n) = coresOf s := by
  unfold settleDrain
  dsimp only
  repeat' (first | (simp [*]; done) | split)
@[simp] theorem cores_settleLaunch (s : State) (part : ℕ) (launch : ℕ) : coresOf (settleLaunch s part launch) = coresOf s := by
  unfold settleLaunch
  dsimp only
  repeat' (first | (simp [*]; done) | split)
@[simp] theorem cores_deliver (s : State) (p : Push) : coresOf (deliver s p) = coresOf s := by
  unfold deliver
  dsimp only
  repeat' (first | (simp [*]; done) | split)
@[simp] theorem cores_execPushArrival (k : ℕ) (s : State) (ms : Multiset Nat) (hm : coresOf s = ms) : Keeps ms
    (execPushArrival k s) := by
  unfold execPushArrival
  repeat' (first | (simp (disch := (intros; first | assumption | (simp [*]; done) | (dsimp only; repeat' (first | (simp [*]; done) | split)))) [*]; done) | split)
@[simp] theorem cores_atHome (s : State) (pa : ℕ) (who : Subscriber) (f : Sub → Sub) : coresOf (atHome s pa who f) = coresOf s
    := by
  unfold atHome
  dsimp only
  repeat' (first | (simp [*]; done) | split)
@[simp] theorem cores_bounceDrain (s : State) (p : Push) : coresOf (bounceDrain s p) = coresOf s := by
  unfold bounceDrain
  repeat' (first | (simp (disch := (intros; first | assumption | (simp [*]; done) | (dsimp only; repeat' (first | (simp [*]; done) | split)))) [*]; done) | split)
@[simp] theorem cores_execPushBounce (k : ℕ) (s : State) (ms : Multiset Nat) (hm : coresOf s = ms) : Keeps ms (execPushBounce
    k s) := by
  unfold execPushBounce
  dsimp only
  repeat' (first | (simp [*]; done) | split)
@[simp] theorem core_answerSlot (h : Hart) (a : StandAnswer) : (answerSlot h a).core = h.core := by
  unfold answerSlot
  dsimp only
  split
  · split <;> simp
  · simp
@[simp] theorem cores_execStandAnswer (k : ℕ) (s : State) (ms : Multiset Nat) (hm : coresOf s = ms) : Keeps ms
    (execStandAnswer k s) := by
  unfold execStandAnswer
  dsimp only
  repeat' (first | (simp [*]; done) | split)
@[simp] theorem core_clearFresh (h : Hart) (n : ℕ) : (clearFresh h n).core = h.core := by
  exact (Eq.refl _).trans rfl
@[simp] theorem cores_acquireSlot (s : State) (n : ℕ) : coresOf (acquireSlot s n) = coresOf s := by
  unfold acquireSlot
  split <;> rfl
@[simp] theorem cores_execTake (d : SReg) (a : SReg) (s : State) (ms : Multiset Nat) (hm : coresOf s = ms) : Keeps ms
    (execTake d a s) := by
  unfold execTake
  refine cores_withSlot _ _ _ _ _ hm (fun s1 n h1 => ?_)
  extract_lets t v
  have e : coresOf t = coresOf s1 := by simp only [t]; split <;> simp
  have e2 := coresOf_putHart t (clearFresh t.hart n) (by simp)
  simp [e, e2, h1]
@[simp] theorem cores_execWaitsl (d : SReg) (a : SReg) (b : SReg) (s : State) (ms : Multiset Nat) (hm : coresOf s = ms) :
    Keeps ms (execWaitsl d a b s) := by
  unfold execWaitsl
  refine cores_withSlot _ _ _ _ _ hm ?_
  intro s1 n h1
  have e2 : coresOf { s1 with hart := { s1.hart with waitDue := none } } = ms := h1
  dsimp only
  split
  · rw [keeps_next, cores_advance, cores_setReg]
    split
    · rw [cores_acquireSlot, cores_acquireNow, e2]
    · exact e2
  · rw [keeps_next]
    exact h1
@[simp] theorem cores_pollWait (s : State) : coresOf (pollWait s) = coresOf s := by
  unfold pollWait
  split
  · split
    · next d n x due _ v _ =>
      extract_lets t
      have e : coresOf t = coresOf s := by simp only [t]; split <;> simp
      rw [cores_advance, cores_setReg]
      exact (coresOf_putHart t _ rfl).trans e
    · rfl
  · rfl
@[simp] theorem cores_execWaitslTimeout (core : CoreId) (s : State) (ms : Multiset Nat) (hm : coresOf s = ms) : Keeps ms
    (execWaitslTimeout core s) := by
  unfold execWaitslTimeout
  simp only [keeps_next]
  rw [coresOf_onCore _ _ _ (by intro g; repeat' (first | rfl | split))]
  exact hm
@[simp] theorem cores_execUnstand (d : SReg) (a : SReg) (s : State) (ms : Multiset Nat) (hm : coresOf s = ms) : Keeps ms
    (execUnstand d a s) := by
  unfold execUnstand
  refine cores_withSlot _ _ _ _ _ hm ?_
  intro s1 n h1
  try dsimp only
  repeat' (first | (simp [*]; done) | split)
@[simp] theorem cores_execUnstandAnswer (k : ℕ) (s : State) (ms : Multiset Nat) (hm : coresOf s = ms) : Keeps ms
    (execUnstandAnswer k s) := by
  unfold execUnstandAnswer
  dsimp only
  repeat' (first | (simp [*]; done) | split)
@[simp] theorem cores_standFate (s : State) (va : Word) (slot : ℕ) : coresOf (standFate s va slot).2 = coresOf s := by
  unfold standFate
  dsimp only
  repeat' (first | (simp [*]; done) | split)
@[simp] theorem cores_judgeStands (s : State) (addr : ℕ → Word) (es : List (ℕ × ℕ)) (acc : List Judged) : coresOf (judgeStands
    s addr es acc).2 = coresOf s := by
  induction es generalizing s acc with
  | nil => rfl
  | cons e es ih => unfold judgeStands; simp [ih]
@[simp] theorem cores_standElems (s : State) (f : Form) (addr : ℕ → Word) (t : VReg) (narrow : Bool) (w : ℕ) (sl : ℕ) (els :
    List (ℕ × List Place)) : coresOf (standElems s f addr t narrow w sl els) = coresOf s := by
  unfold standElems
  refine coresOf_foldl _ (fun s x => ?_) _ _
  extract_lets s1
  split <;> simp [s1]
@[simp] theorem cores_execVstand (t : VReg) (b : SReg) (i : VReg) (m : MReg) (sl : SReg) (s : State) (ms : Multiset Nat) (hm :
    coresOf s = ms) : Keeps ms (execVstand t b i m sl s) := by
  unfold execVstand
  dsimp only
  repeat' (first | (simp [*]; done) | split)
@[simp] theorem cores_execVtake (t : VReg) (m : MReg) (sl : SReg) (s : State) (ms : Multiset Nat) (hm : coresOf s = ms) :
    Keeps ms (execVtake t m sl s) := by
  unfold execVtake
  extract_lets h n dt base z es live s1 h1 h2 p
  split
  · simp [hm]
  · split
    · simp [hm]
    · split
      · simp [hm]
      · have e1 : coresOf s1 = ms := by
          simp only [s1]
          rw [coresOf_foldl _ (fun s x => by split <;> simp)]
          split <;> simp [hm]
        have c2 : h2.core = s1.hart.core := by
          simp only [h2]
          rw [core_foldl _ (fun g x => by simp)]
          simp [h1]
        refine cores_finish _ _ _ _ _ ?_
        rw [← e1]
        exact coresOf_putHart s1 _ (by simp [c2])
@[simp] theorem cores_returnRange (s : State) (lo : ℕ) (hi : ℕ) (core : ℕ) : coresOf (returnRange s lo hi core) = coresOf s :=
    by
  unfold returnRange
  exact coresOf_foldl _ (fun s x => by simp) _ _
@[simp] theorem cores_settleRange (s : State) (lo : ℕ) (hi : ℕ) : coresOf (settleRange s lo hi) = coresOf s := by
  unfold settleRange
  dsimp only
  rw [coresOf_foldl _ (fun s x => ?_), cores_performPackets]
  split <;> simp
@[simp] theorem cores_zeroRange (s : State) (lo : ℕ) (hi : ℕ) : coresOf (zeroRange s lo hi) = coresOf s := by
  exact (Eq.refl _).trans rfl
@[simp] theorem cores_setLease (s : State) (i : ℕ) (l : Lease) (port : ℕ) : coresOf (setLease s i l port) = coresOf s := by
  unfold setLease
  simp [*]
@[simp] theorem cores_execLeaseGrant (i : Fin 64) (p : PartId) (port : Fin 8) (peer : BitVec 8) (rblock : BitVec 32) (s :
    State) (ms : Multiset Nat) (hm : coresOf s = ms) : Keeps ms (execLeaseGrant i p port peer rblock s) := by
  unfold execLeaseGrant
  repeat' (first | (simp (disch := (intros; first | assumption | (simp [*]; done) | (dsimp only; repeat' (first | (simp [*]; done) | split)))) [*]; done) | split)
@[simp] theorem cores_execLeaseRevoke (i : Fin 64) (s : State) (ms : Multiset Nat) (hm : coresOf s = ms) : Keeps ms
    (execLeaseRevoke i s) := by
  unfold execLeaseRevoke
  dsimp only
  repeat' (first | (simp [*]; done) | split)
@[simp] theorem core_countSpan (h : Hart) (a b c : ℕ) : (countSpan h a b c).core = h.core := by
  unfold countSpan
  simp only [core_countHart]
@[simp] theorem core_bankCycles (h : Hart) (level now n fuel : ℕ) : (bankCycles h level now n fuel).core = h.core := by
  induction fuel generalizing h now n with
  | zero => unfold bankCycles; split <;> simp
  | succ k ih =>
    rw [bankCycles]
    split
    · rfl
    · dsimp only
      generalize (if 2 < (enabledBanks (atQuantum h now)).length then _ else n) = left
      split
      · simp
      · rw [ih]; simp
@[simp] theorem core_hartCycles (s : State) (n : ℕ) (h : Hart) : (hartCycles s n h).core = h.core := by
  unfold hartCycles
  dsimp only
  split <;> simp
@[simp] theorem cores_passCycles (s : State) (n : ℕ) : coresOf (passCycles s n) = coresOf s := by
  unfold passCycles
  simp [*]
@[simp] theorem cores_execRevocationPoint (i : Fin 64) (s : State) (ms : Multiset Nat) (hm : coresOf s = ms) : Keeps ms
    (execRevocationPoint i s) := by
  unfold execRevocationPoint
  dsimp only
  repeat' (first | (simp [*]; done) | split)
@[simp] theorem cores_execLeaseRelease (i : Fin 64) (s : State) (ms : Multiset Nat) (hm : coresOf s = ms) : Keeps ms
    (execLeaseRelease i s) := by
  unfold execLeaseRelease
  dsimp only
  repeat' (first | (simp [*]; done) | split)
@[simp] theorem cores_execUalinkPortDown (port : Fin 8) (s : State) (ms : Multiset Nat) (hm : coresOf s = ms) : Keeps ms
    (execUalinkPortDown port s) := by
  unfold execUalinkPortDown
  extract_lets s1
  simp only [keeps_next]
  rw [coresOf_foldl _ (fun s x => by repeat' (first | (simp; done) | split))]
  simp [s1, hm]
@[simp] theorem cores_setBlock (s : State) (b : ℕ) (x : BlockState) : coresOf (setBlock s b x) = coresOf s := by
  exact (Eq.refl _).trans rfl
@[simp] theorem cores_lendBlock (s : State) (b : ℕ) : coresOf (lendBlock s b) = coresOf s := by
  unfold lendBlock
  repeat' (first | (simp (disch := (intros; first | assumption | (simp [*]; done) | (dsimp only; repeat' (first | (simp [*]; done) | split)))) [*]; done) | split)
@[simp] theorem cores_returnBlock (s : State) (b : ℕ) : coresOf (returnBlock s b) = coresOf s := by
  unfold returnBlock
  repeat' (first | (simp (disch := (intros; first | assumption | (simp [*]; done) | (dsimp only; repeat' (first | (simp [*]; done) | split)))) [*]; done) | split)
@[simp] theorem cores_execLeaseReclaim (b : Fin 256) (s : State) (ms : Multiset Nat) (hm : coresOf s = ms) : Keeps ms
    (execLeaseReclaim b s) := by
  unfold execLeaseReclaim
  simp [*]
@[simp] theorem cores_execPeerLineFillOrWriteBack (pa : PAddr) (w : Option (List Byte)) (s : State) (ms : Multiset Nat) (hm :
    coresOf s = ms) : Keeps ms (execPeerLineFillOrWriteBack pa w s) := by
  unfold execPeerLineFillOrWriteBack
  dsimp only
  repeat' (first | (simp [*]; done) | split)
@[simp] theorem cores_ownBlock (s : State) (b : ℕ) (p : ℕ) : coresOf (ownBlock s b p) = coresOf s := by
  unfold ownBlock
  repeat' (first | (simp (disch := (intros; first | assumption | (simp [*]; done) | (dsimp only; repeat' (first | (simp [*]; done) | split)))) [*]; done) | split)
@[simp] theorem cores_logMove (s : State) (b : ℕ) (step : ℕ) : coresOf (logMove s b step) = coresOf s := by
  exact (Eq.refl _).trans rfl
@[simp] theorem cores_execCapacityMove (b : Fin 256) (p : PartId) (q : PartId) (s : State) (ms : Multiset Nat) (hm : coresOf s
    = ms) : Keeps ms (execCapacityMove b p q s) := by
  unfold execCapacityMove
  dsimp only
  repeat' (first | (simp [*]; done) | split)
@[simp] theorem cores_severRange (s : State) (lo : ℕ) (hi : ℕ) : coresOf (severRange s lo hi) = coresOf s := by
  exact (Eq.refl _).trans rfl
@[simp] theorem cores_execHotRemoveAck (b : Fin 256) (s : State) (ms : Multiset Nat) (hm : coresOf s = ms) : Keeps ms
    (execHotRemoveAck b s) := by
  unfold execHotRemoveAck
  dsimp only
  repeat' (first | (simp [*]; done) | split)
@[simp] theorem cores_execHotRemoveTimeout (b : Fin 256) (s : State) (ms : Multiset Nat) (hm : coresOf s = ms) : Keeps ms
    (execHotRemoveTimeout b s) := by
  unfold execHotRemoveTimeout
  simp [*]
@[simp] theorem cores_startScrub (s : State) (b : ℕ) : coresOf (startScrub s b) = coresOf s := by
  unfold startScrub
  repeat' (first | (simp (disch := (intros; first | assumption | (simp [*]; done) | (dsimp only; repeat' (first | (simp [*]; done) | split)))) [*]; done) | split)
@[simp] theorem cores_execBlockScrubDone (b : Fin 256) (s : State) (ms : Multiset Nat) (hm : coresOf s = ms) : Keeps ms
    (execBlockScrubDone b s) := by
  unfold execBlockScrubDone
  repeat' (first | (simp (disch := (intros; first | assumption | (simp [*]; done) | (dsimp only; repeat' (first | (simp [*]; done) | split)))) [*]; done) | split)
@[simp] theorem cores_writeImage (s : State) (part : ℕ) (slot : ℕ) (parked : Bool) (dump : Bool) (h : Hart) : coresOf
    (writeImage s part slot parked dump h) = coresOf s := by
  unfold writeImage
  simp [*]
@[simp] theorem core_readImage (s : State) (part : ℕ) (slot : ℕ) (h : Hart) : (readImage s part slot h).core = h.core := by
  unfold readImage
  dsimp only
@[simp] theorem cores_onHusk (s : State) (i : ℕ) (f : Hart → Hart) (h_f : ∀ h, (f h).core = h.core) : coresOf (onHusk s i f) =
    coresOf s := by
  unfold onHusk
  dsimp only
  repeat' (first | (simp [*]; done) | split)
@[simp] theorem cores_startEngine (s : State) (d : SReg) (k : EngineKind) : coresOf (startEngine s d k) = coresOf s := by
  unfold startEngine
  simp [*]
@[simp] theorem cores_rejectNow (s : State) (d : SReg) (kind : ℕ) (code : ℕ) : coresOf (rejectNow s d kind code) = coresOf s
    := by
  unfold rejectNow
  dsimp only
  repeat' (first | (simp [*]; done) | split)
@[simp] theorem cores_issueEngine (s : State) (d : SReg) (k : Out) (ms : Multiset Nat) (hm : coresOf s = ms) (h_k : Keeps ms
    k) : Keeps ms (issueEngine s d k) := by
  unfold issueEngine
  repeat' (first | (simp (disch := (intros; first | assumption | (simp [*]; done) | (dsimp only; repeat' (first | (simp [*]; done) | split)))) [*]; done) | split)
@[simp] theorem cores_afterScalars (s : State) (k : State → Out) (ms : Multiset Nat) (hm : coresOf s = ms) (h_k : ∀ y0,
    coresOf y0 = ms → Keeps ms (k y0)) : Keeps ms (afterScalars s k) := by
  unfold afterScalars
  dsimp only
  repeat' (first | (simp [*]; done) | split)
@[simp] theorem cores_withEngine (s : State) (core : ℕ) (e : ℕ) (k : Owned → State) (ms : Multiset Nat) (hm : coresOf s = ms)
    (h_k : ∀ y0, coresOf (k y0) = ms) : Keeps ms (withEngine s core e k) := by
  unfold withEngine
  repeat' (first | (simp (disch := (intros; first | assumption | (simp [*]; done) | (dsimp only; repeat' (first | (simp [*]; done) | split)))) [*]; done) | split)
@[simp] theorem cores_onPlace (s : State) (husk : Option ℕ) (core : ℕ) (f : Hart → Hart) (h_f : ∀ h, (f h).core = h.core) :
    coresOf (onPlace s husk core f) = coresOf s := by
  unfold onPlace
  repeat' (first | (simp (disch := (intros; first | assumption | (simp [*]; done) | (dsimp only; repeat' (first | (simp [*]; done) | split)))) [*]; done) | split)
@[simp] theorem cores_onOwner (s : State) (o : Owned) (f : Hart → Hart) (h_f : ∀ h, (f h).core = h.core) : coresOf (onOwner s
    o f) = coresOf s := by
  unfold onOwner
  simp [*]
@[simp] theorem cores_wakePlace (s : State) (husk : Option ℕ) : coresOf (wakePlace s husk) = coresOf s := by
  unfold wakePlace
  repeat' (first | (simp (disch := (intros; first | assumption | (simp [*]; done) | (dsimp only; repeat' (first | (simp [*]; done) | split)))) [*]; done) | split)
@[simp] theorem cores_wakeOwner (s : State) (o : Owned) : coresOf (wakeOwner s o) = coresOf s := by
  unfold wakeOwner
  simp [*]
@[simp] theorem cores_setEngine (s : State) (o : Owned) (f : Engine → Engine) : coresOf (setEngine s o f) = coresOf s := by
  unfold setEngine
  simp [*]
@[simp] theorem cores_engineRecord (s : State) (o : Owned) (cause : ℕ) (va : Word) (stage2 : Bool) : coresOf (engineRecord s o
    cause va stage2) = coresOf s := by
  unfold engineRecord
  repeat' (first | (simp (disch := (intros; first | assumption | (simp [*]; done) | (dsimp only; repeat' (first | (simp [*]; done) | split)))) [*]; done) | split)
@[simp] theorem core_deliverStatus (h : Hart) (e : ℕ) (d : SReg) (w : Word) : (deliverStatus h e d w).core = h.core := by
  unfold deliverStatus
  dsimp only
  repeat' (first | (simp [*]; done) | split)
@[simp] theorem cores_endEngine (s : State) (o : Owned) (st : ℕ) (index : ℕ) (detail : ℕ) : coresOf (endEngine s o st index
    detail) = coresOf s := by
  unfold endEngine
  dsimp only
  repeat' (first | (simp [*]; done) | split)
@[simp] theorem core_deliverTable (h : Hart) : (deliverTable h).core = h.core := by
  unfold deliverTable
  refine core_foldl _ (fun h x => ?_) _ _
  split <;> simp
@[simp] theorem cores_endFault (s : State) (o : Owned) (cause : ℕ) (index : ℕ) (va : Word) (stage2 : Bool) : coresOf (endFault
    s o cause index va stage2) = coresOf s := by
  unfold endFault
  simp [*]
@[simp] theorem cores_endFaultFree (s : State) (o : Owned) (cause : ℕ) (va : Word) (stage2 : Bool) : coresOf (endFaultFree s o
    cause va stage2) = coresOf s := by
  unfold endFaultFree
  simp [*]
@[simp] theorem cores_addEarly (s : State) (e : ℕ) (n : ℕ) (value : ℕ) : coresOf (addEarly s e n value) = coresOf s := by
  exact (Eq.refl _).trans rfl
@[simp] theorem cores_markWritten (s : State) (e : ℕ) (n : ℕ) : coresOf (markWritten s e n) = coresOf s := by
  exact (Eq.refl _).trans rfl
@[simp] theorem cores_engineSpot (s : State) (o : Owned) (va : Word) (size : ℕ) (a : Access) (host : Bool) : coresOf
    (engineSpot s o va size a host).2 = coresOf s := by
  unfold engineSpot
  split
  · rfl
  · dsimp only
    split
    · simp
    · simp
    · split
      · simp
      · split <;> simp
@[simp] theorem cores_spotMark (s : State) (o : Owned) (p : Spot) (wr : Bool) : coresOf (spotMark s o p wr) = coresOf s := by
  unfold spotMark
  repeat' (first | (simp (disch := (intros; first | assumption | (simp [*]; done) | (dsimp only; repeat' (first | (simp [*]; done) | split)))) [*]; done) | split)
@[simp] theorem cores_engineBatch (s : State) (o : Owned) (frames : List ℕ) (va : Word) (wr : Bool) (stage2 : Bool) : coresOf
    (engineBatch s o frames va wr stage2) = coresOf s := by
  unfold engineBatch
  dsimp only
  repeat' (first | (simp [*]; done) | split)
@[simp] theorem cores_execEngineBatchResume (core : CoreId) (e : ℕ) (s : State) (ms : Multiset Nat) (hm : coresOf s = ms) :
    Keeps ms (execEngineBatchResume core e s) := by
  unfold execEngineBatchResume
  refine cores_withEngine _ _ _ _ _ hm (fun o => ?_)
  try dsimp only
  repeat' (first | (simp (disch := (intros; repeat' (first | (simp [*]; done) | split))) [*]; done) | split)
@[simp] theorem cores_execChain (d : SReg) (a : SReg) (b : SReg) (c : SReg) (s : State) (ms : Multiset Nat) (hm : coresOf s =
    ms) : Keeps ms (execChain d a b c s) := by
  unfold execChain
  dsimp only
  repeat' (first | (simp [*]; done) | split)
@[simp] theorem cores_serveHop (s : State) (c : ℕ) : coresOf (serveHop s c) = coresOf s := by
  unfold serveHop
  repeat' (first | (simp (disch := (intros; first | assumption | (simp [*]; done) | (dsimp only; repeat' (first | (simp [*]; done) | split)))) [*]; done) | split)
@[simp] theorem cores_freeContext (s : State) (c : ℕ) (e : ℕ) : coresOf (freeContext s c e) = coresOf s := by
  unfold freeContext
  simp [*]
@[simp] theorem cores_execChainReservation (core : CoreId) (e : ℕ) (s : State) (ms : Multiset Nat) (hm : coresOf s = ms) :
    Keeps ms (execChainReservation core e s) := by
  unfold execChainReservation
  refine cores_withEngine _ _ _ _ _ hm (fun o => ?_)
  try dsimp only
  repeat' (first | (simp (disch := (intros; repeat' (first | (simp [*]; done) | split))) [*]; done) | split)
@[simp] theorem core_hopStore (h : Hart) (off : ℕ) (len : ℕ) (block : Sparse 8) (w : Option ℕ) : (hopStore h off len block
    w).core = h.core := by
  unfold hopStore
  dsimp only
  repeat' (first | (simp [*]; done) | split)
@[simp] theorem cores_freePassed (s : State) (e : ℕ) (hops : List ℕ) (served : ℕ) : coresOf (freePassed s e hops served) =
    coresOf s := by
  unfold freePassed
  exact coresOf_foldl _ (fun s x => by split <;> simp) _ _
@[simp] theorem cores_serveChain (s : State) (o : Owned) (k : ℕ) : coresOf (serveChain s o k) = coresOf s := by
  unfold serveChain
  dsimp only
  repeat' (first | (simp [*]; done) | split)
@[simp] theorem cores_execChainHopStore (core : CoreId) (e : ℕ) (s : State) (ms : Multiset Nat) (hm : coresOf s = ms) : Keeps
    ms (execChainHopStore core e s) := by
  unfold execChainHopStore
  refine cores_withEngine _ _ _ _ _ hm (fun o => ?_)
  try dsimp only
  repeat' (first | (simp (disch := (intros; repeat' (first | (simp [*]; done) | split))) [*]; done) | split)
@[simp] theorem cores_hopAhead (s : State) (e : ℕ) (k : ℕ) : coresOf (hopAhead s e k) = coresOf s := by
  unfold hopAhead
  repeat' (first | (simp (disch := (intros; first | assumption | (simp [*]; done) | (dsimp only; repeat' (first | (simp [*]; done) | split)))) [*]; done) | split)
@[simp] theorem cores_execChainDone (core : CoreId) (e : ℕ) (s : State) (ms : Multiset Nat) (hm : coresOf s = ms) : Keeps ms
    (execChainDone core e s) := by
  unfold execChainDone
  refine cores_withEngine _ _ _ _ _ hm (fun o => ?_)
  try dsimp only
  repeat' (first | (simp (disch := (intros; repeat' (first | (simp [*]; done) | split))) [*]; done) | split)
@[simp] theorem cores_execTrap (c : BitVec 12) (s : State) (ms : Multiset Nat) (hm : coresOf s = ms) : Keeps ms (execTrap c s)
    := by
  unfold execTrap
  simp (disch := (intros; first | assumption | (simp (disch := (intros; first | assumption | (simp [*]; done) | (dsimp only; repeat' (first | (simp [*]; done) | split)))) [*]; done) | (dsimp only; repeat' (first | (simp (disch := (intros; first | assumption | (simp [*]; done) | (dsimp only; repeat' (first | (simp [*]; done) | split)))) [*]; done) | split)))) [*]
@[simp] theorem cores_execBkpt (c : BitVec 12) (s : State) (ms : Multiset Nat) (hm : coresOf s = ms) : Keeps ms (execBkpt c s)
    := by
  unfold execBkpt
  dsimp only
  repeat' (first | (simp (disch := (intros; first | assumption | (simp [*]; done) | (dsimp only; repeat' (first | (simp [*]; done) | split)))) [*]; done) | split)
@[simp] theorem cores_execTret (s : State) (ms : Multiset Nat) (hm : coresOf s = ms) : Keeps ms (execTret s) := by
  unfold execTret
  dsimp only
  repeat' (first | (simp [*]; done) | split)
@[simp] theorem core_endWait (h : Hart) : (endWait h).core = h.core := by
  exact (Eq.refl _).trans rfl
@[simp] theorem cores_execWait (s : State) (ms : Multiset Nat) (hm : coresOf s = ms) : Keeps ms (execWait s) := by
  unfold execWait
  dsimp only
  repeat' (first | (simp [*]; done) | split)
@[simp] theorem cores_execWaitTimeout (core : CoreId) (s : State) (ms : Multiset Nat) (hm : coresOf s = ms) : Keeps ms
    (execWaitTimeout core s) := by
  unfold execWaitTimeout
  simp only [keeps_next]
  rw [coresOf_onCore _ _ _ (by intro g; repeat' (first | (simp; done) | split))]
  exact hm
@[simp] theorem cores_execFenceI (s : State) (ms : Multiset Nat) (hm : coresOf s = ms) : Keeps ms (execFenceI s) := by
  unfold execFenceI
  simp [*]
@[simp] theorem core_clearChunkMask (h : Hart) (m : MReg) : (clearChunkMask h m).core = h.core := by
  unfold clearChunkMask
  repeat' (first | (simp (disch := (intros; first | assumption | (simp [*]; done) | (dsimp only; repeat' (first | (simp [*]; done) | split)))) [*]; done) | split)
@[simp] theorem core_queueClear (h : Hart) (m : MReg) (e : ℕ) : (queueClear h m e).core = h.core := by
  unfold queueClear
  dsimp only
  repeat' (first | (simp [*]; done) | split)
@[simp] theorem cores_execCopy (d : SReg) (a : SReg) (b : SReg) (c : SReg) (m : MReg) (s : State) (ms : Multiset Nat) (hm :
    coresOf s = ms) : Keeps ms (execCopy d a b c m s) := by
  unfold execCopy
  refine cores_issueEngine _ _ _ _ hm (cores_afterScalars _ _ _ hm (fun s1 h1 => ?_))
  extract_lets dst src len s2
  have e : coresOf s2 = coresOf s1 := by simp [s2]
  split
  · rw [keeps_next, cores_advance, cores_rejectNow, coresOf_mk, coresWith_fold, e, h1]
  · simp [e, h1]
@[simp] theorem cores_copyJudge (s : State) (o : Owned) (dst : Word) (src : Word) (i : ℕ) (n : ℕ) (acc : List CopyWord) :
    coresOf (copyJudge s o dst src i n acc).2 = coresOf s := by
  induction n generalizing s i acc with
  | zero => rfl
  | succ n ih => unfold copyJudge; simp [ih]
@[simp] theorem cores_clearLine (s : State) (line : ℕ) : coresOf (clearLine s line) = coresOf s := by
  exact (Eq.refl _).trans rfl
@[simp] theorem cores_copyWrite (s : State) (o : Owned) (c : ℕ) (full : ℕ → Bool) (w : CopyWord) (v : ℕ) : coresOf (copyWrite
    s o c full w v).1 = coresOf s := by
  unfold copyWrite
  dsimp only
  repeat' (first | (simp [*]; done) | split)
@[simp] theorem cores_copyWrites (s : State) (o : Owned) (c : ℕ) (full : ℕ → Bool) (ws : List (CopyWord × ℕ)) : coresOf
    (copyWrites s o c full ws).1 = coresOf s := by
  unfold copyWrites
  simp [*]
@[simp] theorem core_setChunkBit (h : Hart) (e : ℕ) (mask : ℕ) (c : ℕ) : (setChunkBit h e mask c).core = h.core := by
  unfold setChunkBit
  repeat' (first | (simp (disch := (intros; first | assumption | (simp [*]; done) | (dsimp only; repeat' (first | (simp [*]; done) | split)))) [*]; done) | split)
@[simp] theorem core_clearNow (h : Hart) (m : ℕ) (e : ℕ) : (clearNow h m e).core = h.core := by
  unfold clearNow
  dsimp only
  repeat' (first | (simp [*]; done) | split)
@[simp] theorem cores_readLine (s : State) (o : Owned) (src : Word) (len : ℕ) (k : ℕ) (done : List ℕ) : coresOf (readLine s o
    src len k done) = coresOf s := by
  unfold readLine
  refine coresOf_foldl _ (fun s i => ?_) _ _
  dsimp only
  split
  · rfl
  · split
    · split <;> simp
    · split <;> simp
    · split <;> simp
    · rfl
@[simp] theorem cores_copyChunk (s : State) (o : Owned) (dst : Word) (src : Word) (len : ℕ) (mask : ℕ) (c : ℕ) (done : List ℕ)
    (ws : List CopyWord) : coresOf (copyChunk s o dst src len mask c done ws) = coresOf s := by
  unfold copyChunk
  extract_lets full s0 vs r s1 s2
  have e0 : coresOf s0 = coresOf s := coresOf_foldl _ (fun s w => by split <;> simp) _ _
  have e1 : coresOf s1 = coresOf s := by simp [s1, r, e0]
  have e2 : coresOf s2 = coresOf s := by simpa [s2] using e1
  split <;> simp [e2]
@[simp] theorem cores_copyWordAhead (s : State) (e : ℕ) (k : ℕ) : coresOf (copyWordAhead s e k) = coresOf s := by
  unfold copyWordAhead
  dsimp only
  repeat' (first | (simp [*]; done) | split)
@[simp] theorem cores_execCopyChunkDone (core : CoreId) (e : ℕ) (c : ℕ) (s : State) (ms : Multiset Nat) (hm : coresOf s = ms)
    : Keeps ms (execCopyChunkDone core e c s) := by
  unfold execCopyChunkDone
  refine cores_withEngine _ _ _ _ _ hm (fun o => ?_)
  try dsimp only
  repeat' (first | (simp (disch := (intros; repeat' (first | (simp [*]; done) | split))) [*]; done) | split)
@[simp] theorem cores_execCopyDone (core : CoreId) (e : ℕ) (s : State) (ms : Multiset Nat) (hm : coresOf s = ms) : Keeps ms
    (execCopyDone core e s) := by
  unfold execCopyDone
  refine cores_withEngine _ _ _ _ _ hm (fun o => ?_)
  try dsimp only
  repeat' (first | (simp (disch := (intros; repeat' (first | (simp [*]; done) | split))) [*]; done) | split)
@[simp] theorem cores_elementwise (s : State) (w : ElemWord) (ms : Multiset Nat) (hm : coresOf s = ms) : Keeps ms (elementwise
    s w) := by
  unfold elementwise
  dsimp only
  repeat' (first | (simp [*]; done) | split)
@[simp] theorem cores_execVadd (d : VReg) (a : VReg) (b : VReg) (m : MReg) (s : State) (ms : Multiset Nat) (hm : coresOf s =
    ms) : Keeps ms (execVadd d a b m s) := by
  unfold execVadd
  simp [*]
@[simp] theorem cores_execVsub (d : VReg) (a : VReg) (b : VReg) (m : MReg) (s : State) (ms : Multiset Nat) (hm : coresOf s =
    ms) : Keeps ms (execVsub d a b m s) := by
  unfold execVsub
  simp [*]
@[simp] theorem cores_execVrsub (d : VReg) (a : VReg) (b : VReg) (m : MReg) (s : State) (ms : Multiset Nat) (hm : coresOf s =
    ms) : Keeps ms (execVrsub d a b m s) := by
  unfold execVrsub
  simp [*]
@[simp] theorem cores_execVmul (d : VReg) (a : VReg) (b : VReg) (m : MReg) (s : State) (ms : Multiset Nat) (hm : coresOf s =
    ms) : Keeps ms (execVmul d a b m s) := by
  unfold execVmul
  simp [*]
@[simp] theorem cores_execVmulh (d : VReg) (a : VReg) (b : VReg) (m : MReg) (s : State) (ms : Multiset Nat) (hm : coresOf s =
    ms) : Keeps ms (execVmulh d a b m s) := by
  unfold execVmulh
  simp [*]
@[simp] theorem cores_execVmulhU (d : VReg) (a : VReg) (b : VReg) (m : MReg) (s : State) (ms : Multiset Nat) (hm : coresOf s =
    ms) : Keeps ms (execVmulhU d a b m s) := by
  unfold execVmulhU
  simp [*]
@[simp] theorem cores_execVdiv (d : VReg) (a : VReg) (b : VReg) (m : MReg) (s : State) (ms : Multiset Nat) (hm : coresOf s =
    ms) : Keeps ms (execVdiv d a b m s) := by
  unfold execVdiv
  simp [*]
@[simp] theorem cores_execVdivU (d : VReg) (a : VReg) (b : VReg) (m : MReg) (s : State) (ms : Multiset Nat) (hm : coresOf s =
    ms) : Keeps ms (execVdivU d a b m s) := by
  unfold execVdivU
  simp [*]
@[simp] theorem cores_execVrem (d : VReg) (a : VReg) (b : VReg) (m : MReg) (s : State) (ms : Multiset Nat) (hm : coresOf s =
    ms) : Keeps ms (execVrem d a b m s) := by
  unfold execVrem
  simp [*]
@[simp] theorem cores_execVremU (d : VReg) (a : VReg) (b : VReg) (m : MReg) (s : State) (ms : Multiset Nat) (hm : coresOf s =
    ms) : Keeps ms (execVremU d a b m s) := by
  unfold execVremU
  simp [*]
@[simp] theorem cores_execVmin (d : VReg) (a : VReg) (b : VReg) (m : MReg) (s : State) (ms : Multiset Nat) (hm : coresOf s =
    ms) : Keeps ms (execVmin d a b m s) := by
  unfold execVmin
  simp [*]
@[simp] theorem cores_execVminU (d : VReg) (a : VReg) (b : VReg) (m : MReg) (s : State) (ms : Multiset Nat) (hm : coresOf s =
    ms) : Keeps ms (execVminU d a b m s) := by
  unfold execVminU
  simp [*]
@[simp] theorem cores_execVmax (d : VReg) (a : VReg) (b : VReg) (m : MReg) (s : State) (ms : Multiset Nat) (hm : coresOf s =
    ms) : Keeps ms (execVmax d a b m s) := by
  unfold execVmax
  simp [*]
@[simp] theorem cores_execVmaxU (d : VReg) (a : VReg) (b : VReg) (m : MReg) (s : State) (ms : Multiset Nat) (hm : coresOf s =
    ms) : Keeps ms (execVmaxU d a b m s) := by
  unfold execVmaxU
  simp [*]
@[simp] theorem cores_execVabs (d : VReg) (a : VReg) (m : MReg) (s : State) (ms : Multiset Nat) (hm : coresOf s = ms) : Keeps
    ms (execVabs d a m s) := by
  unfold execVabs
  simp [*]
@[simp] theorem cores_execVneg (d : VReg) (a : VReg) (m : MReg) (s : State) (ms : Multiset Nat) (hm : coresOf s = ms) : Keeps
    ms (execVneg d a m s) := by
  unfold execVneg
  simp [*]
@[simp] theorem cores_execVand (d : VReg) (a : VReg) (b : VReg) (m : MReg) (s : State) (ms : Multiset Nat) (hm : coresOf s =
    ms) : Keeps ms (execVand d a b m s) := by
  unfold execVand
  simp [*]
@[simp] theorem cores_execVor (d : VReg) (a : VReg) (b : VReg) (m : MReg) (s : State) (ms : Multiset Nat) (hm : coresOf s =
    ms) : Keeps ms (execVor d a b m s) := by
  unfold execVor
  simp [*]
@[simp] theorem cores_execVxor (d : VReg) (a : VReg) (b : VReg) (m : MReg) (s : State) (ms : Multiset Nat) (hm : coresOf s =
    ms) : Keeps ms (execVxor d a b m s) := by
  unfold execVxor
  simp [*]
@[simp] theorem cores_execVshl (d : VReg) (a : VReg) (b : VReg) (m : MReg) (s : State) (ms : Multiset Nat) (hm : coresOf s =
    ms) : Keeps ms (execVshl d a b m s) := by
  unfold execVshl
  simp [*]
@[simp] theorem cores_execVshr (d : VReg) (a : VReg) (b : VReg) (m : MReg) (s : State) (ms : Multiset Nat) (hm : coresOf s =
    ms) : Keeps ms (execVshr d a b m s) := by
  unfold execVshr
  simp [*]
@[simp] theorem cores_execVsra (d : VReg) (a : VReg) (b : VReg) (m : MReg) (s : State) (ms : Multiset Nat) (hm : coresOf s =
    ms) : Keeps ms (execVsra d a b m s) := by
  unfold execVsra
  simp [*]
@[simp] theorem cores_execVsadd (d : VReg) (a : VReg) (b : VReg) (m : MReg) (s : State) (ms : Multiset Nat) (hm : coresOf s =
    ms) : Keeps ms (execVsadd d a b m s) := by
  unfold execVsadd
  simp [*]
@[simp] theorem cores_execVsaddU (d : VReg) (a : VReg) (b : VReg) (m : MReg) (s : State) (ms : Multiset Nat) (hm : coresOf s =
    ms) : Keeps ms (execVsaddU d a b m s) := by
  unfold execVsaddU
  simp [*]
@[simp] theorem cores_execVssub (d : VReg) (a : VReg) (b : VReg) (m : MReg) (s : State) (ms : Multiset Nat) (hm : coresOf s =
    ms) : Keeps ms (execVssub d a b m s) := by
  unfold execVssub
  simp [*]
@[simp] theorem cores_execVssubU (d : VReg) (a : VReg) (b : VReg) (m : MReg) (s : State) (ms : Multiset Nat) (hm : coresOf s =
    ms) : Keeps ms (execVssubU d a b m s) := by
  unfold execVssubU
  simp [*]
@[simp] theorem cores_execVsqrt (d : VReg) (a : VReg) (m : MReg) (s : State) (ms : Multiset Nat) (hm : coresOf s = ms) : Keeps
    ms (execVsqrt d a m s) := by
  unfold execVsqrt
  simp [*]
@[simp] theorem cores_execVrece (d : VReg) (a : VReg) (m : MReg) (s : State) (ms : Multiset Nat) (hm : coresOf s = ms) : Keeps
    ms (execVrece d a m s) := by
  unfold execVrece
  simp [*]
@[simp] theorem cores_execVrsqe (d : VReg) (a : VReg) (m : MReg) (s : State) (ms : Multiset Nat) (hm : coresOf s = ms) : Keeps
    ms (execVrsqe d a m s) := by
  unfold execVrsqe
  simp [*]
@[simp] theorem cores_execVexp2 (d : VReg) (a : VReg) (m : MReg) (s : State) (ms : Multiset Nat) (hm : coresOf s = ms) : Keeps
    ms (execVexp2 d a m s) := by
  unfold execVexp2
  simp [*]
@[simp] theorem cores_execVlog2 (d : VReg) (a : VReg) (m : MReg) (s : State) (ms : Multiset Nat) (hm : coresOf s = ms) : Keeps
    ms (execVlog2 d a m s) := by
  unfold execVlog2
  simp [*]
@[simp] theorem cores_execVmov (d : VReg) (a : VReg) (m : MReg) (s : State) (ms : Multiset Nat) (hm : coresOf s = ms) : Keeps
    ms (execVmov d a m s) := by
  unfold execVmov
  simp [*]
@[simp] theorem cores_execVfma (d : VReg) (a : VReg) (b : VReg) (c : VReg) (m : MReg) (s : State) (ms : Multiset Nat) (hm :
    coresOf s = ms) : Keeps ms (execVfma d a b c m s) := by
  unfold execVfma
  simp [*]
@[simp] theorem cores_execVfms (d : VReg) (a : VReg) (b : VReg) (c : VReg) (m : MReg) (s : State) (ms : Multiset Nat) (hm :
    coresOf s = ms) : Keeps ms (execVfms d a b c m s) := by
  unfold execVfms
  simp [*]
@[simp] theorem cores_execVfnma (d : VReg) (a : VReg) (b : VReg) (c : VReg) (m : MReg) (s : State) (ms : Multiset Nat) (hm :
    coresOf s = ms) : Keeps ms (execVfnma d a b c m s) := by
  unfold execVfnma
  simp [*]
@[simp] theorem cores_execVclamp (d : VReg) (a : VReg) (b : VReg) (c : VReg) (m : MReg) (s : State) (ms : Multiset Nat) (hm :
    coresOf s = ms) : Keeps ms (execVclamp d a b c m s) := by
  unfold execVclamp
  simp [*]
@[simp] theorem cores_execVsel (d : VReg) (a : VReg) (b : VReg) (m : MReg) (s : State) (ms : Multiset Nat) (hm : coresOf s =
    ms) : Keeps ms (execVsel d a b m s) := by
  unfold execVsel
  simp [*]
@[simp] theorem cores_execVcmp (d : MReg) (a : VReg) (b : VReg) (m : MReg) (u : Bool) (c : Cond) (s : State) (ms : Multiset
    Nat) (hm : coresOf s = ms) : Keeps ms (execVcmp d a b m u c s) := by
  unfold execVcmp
  simp [*]
@[simp] theorem cores_execVcvt (d : VReg) (a : VReg) (m : MReg) (sat : Bool) (u : Bool) (t : DTag) (s : State) (ms : Multiset
    Nat) (hm : coresOf s = ms) : Keeps ms (execVcvt d a m sat u t s) := by
  unfold execVcvt
  simp [*]
@[simp] theorem cores_execVbcast (d : VReg) (r : SReg) (m : MReg) (s : State) (ms : Multiset Nat) (hm : coresOf s = ms) :
    Keeps ms (execVbcast d r m s) := by
  unfold execVbcast
  simp [*]
theorem coresOf_foldl_inv {α : Type} (f : State → α → State) (m : Multiset Nat)
    (h : ∀ s x, coresOf s = m → coresOf (f s x) = m) (l : List α) (s : State) (hs : coresOf s = m) :
    coresOf (l.foldl f s) = m := by
  induction l generalizing s with
  | nil => exact hs
  | cons x l ih => exact ih _ (h s x hs)

@[simp] theorem cores_eachMember (s : State) (hs : List Hart) (k : State → Out)
    (hk : ∀ u, coresOf u = coresOf s → Keeps (coresOf s) (k u)) : coresOf (eachMember s hs k) = coresOf s := by
  unfold eachMember
  dsimp only
  rw [coresOf_focus]
  refine coresOf_foldl_inv _ _ (fun u h hu => ?_) _ _ rfl
  split
  · split
    · next t ht => exact hk _ (by rw [coresOf_focus, hu]) t ht
    · exact hu
  · exact hu
@[simp] theorem cores_spreadTraps (s t : State) (cs : List Nat) : coresOf (spreadTraps s t cs) = coresOf t := by
  unfold spreadTraps
  dsimp only
  split
  · rfl
  · rw [coresOf_focus, coresOf_foldl _ (fun s c => by simp)]
@[simp] theorem cores_jointGuard (s : State) (d : SReg) (k : Out) (ms : Multiset Nat) (hm : coresOf s = ms) (h_k : Keeps ms k)
    : Keeps ms (jointGuard s d k) := by
  unfold jointGuard
  dsimp only
  split
  · rw [keeps_next, cores_spreadTraps, cores_eachMember _ _ _ (fun u hu => ?_), hm]
    rw [keeps_next]
    split <;> simp [hu]
  · exact h_k
@[simp] theorem cores_jointTrap (s : State) (cause : ℕ) (topnd : Word) (ms : Multiset Nat) (hm : coresOf s = ms) : Keeps ms
    (jointTrap s cause topnd) := by
  unfold jointTrap
  rw [keeps_next, cores_eachMember _ _ _ (fun u hu => ?_), hm]
  simp [hu]
@[simp] theorem cores_jointResult (s : State) (d : SReg) (v : Word) : coresOf (jointResult s d v) = coresOf s := by
  unfold jointResult
  rw [cores_eachMember _ _ _ (fun u hu => ?_)]
  simp [hu]
@[simp] theorem core_exchangeElems (h : Hart) (d : ℕ) (tag : ℕ) (m : MReg) (f : ℕ → ℕ) (e : ℕ) (k : ℕ) : (exchangeElems h d
    tag m f e k).core = h.core := by
  exact (Eq.refl _).trans rfl
@[simp] theorem cores_exchangeEnd (s : State) (tags : Vector (BitVec 4) 64) (d : ℕ) (tag : ℕ) (n : ℕ) (z : ℕ) (low : ℕ) (stop
    : Option (ℕ × ℕ)) (ms : Multiset Nat) (hm : coresOf s = ms) : Keeps ms (exchangeEnd s tags d tag n z low stop) := by
  unfold exchangeEnd
  dsimp only
  repeat' (first | (simp [*]; done) | split)
@[simp] theorem cores_registerTrap (s : State) (c : SramClass) (t : Word) (ms : Multiset Nat) (hm : coresOf s = ms) :
    Keeps ms (registerTrap s c t) := by
  unfold registerTrap
  simp [*]
@[simp] theorem cores_exchangeGuard (s : State) (hs : List Hart) (a : VReg) (m : MReg) (n : ℕ) (reads : Hart → Hart → ℕ → Bool)
    (k : Out) (ms : Multiset Nat) (hm : coresOf s = ms) (h_k : Keeps ms k) : Keeps ms (exchangeGuard s hs a m n reads k) := by
  unfold exchangeGuard
  dsimp only
  split
  · exact h_k
  · rw [keeps_next, cores_spreadTraps, cores_eachMember _ _ _ (fun u hu => ?_), hm]
    split
    · exact cores_registerTrap _ _ _ _ hu
    · split <;> simp [hu]
@[simp] theorem cores_exchange (s : State) (d : VReg) (a : VReg) (m : MReg) (bad : Bool) (reads : Hart → Hart → ℕ → Bool)
    (f : Hart → ℕ → ℕ) (fl : ℕ → ℕ) (ms : Multiset Nat) (hm : coresOf s = ms) : Keeps ms (exchange s d a m bad reads f fl) := by
  unfold exchange
  extract_lets hs
  split
  · rw [keeps_next, cores_spreadTraps, cores_eachMember _ _ _ (fun u hu => ?_), hm]
    split <;> simp [hu]
  · refine cores_exchangeGuard _ _ _ _ _ _ _ _ hm ?_
    dsimp only
    rw [keeps_next, cores_eachMember _ _ _ (fun u hu => ?_), hm]
    refine cores_exchangeEnd _ _ _ _ _ _ _ _ _ ?_
    rw [← hu]
    simp
@[simp] theorem cores_execGperm (d : VReg) (a : VReg) (r : SReg) (m : MReg) (s : State) (ms : Multiset Nat) (hm : coresOf s =
    ms) : Keeps ms (execGperm d a r m s) := by
  unfold execGperm
  simp [*]
@[simp] theorem cores_execGbcast (d : VReg) (a : VReg) (r : SReg) (m : MReg) (s : State) (ms : Multiset Nat) (hm : coresOf s =
    ms) : Keeps ms (execGbcast d a r m s) := by
  unfold execGbcast
  simp [*]
@[simp] theorem cores_execGred (d : VReg) (a : VReg) (m : MReg) (s : State) (ms : Multiset Nat) (hm : coresOf s = ms) : Keeps
    ms (execGred d a m s) := by
  unfold execGred
  simp [*]
@[simp] theorem cores_execGsync (s : State) (ms : Multiset Nat) (hm : coresOf s = ms) : Keeps ms (execGsync s) := by
  unfold execGsync
  rw [keeps_next, cores_eachMember _ _ _ (fun u hu => ?_), hm]
  simp [hu]
@[simp] theorem cores_startStream (s : State) (e : ℕ) : coresOf (startStream s e) = coresOf s := by
  unfold startStream
  dsimp only
  repeat' (first | (simp [*]; done) | split)
@[simp] theorem cores_nextStream (s : State) (o : Owned) (p : ℕ) (fuel : ℕ) : coresOf (nextStream s o p fuel) = coresOf s := by
  induction fuel generalizing s with
  | zero => rfl
  | succ n ih => unfold nextStream; dsimp only; repeat' (first | rfl | (simp [*]; done) | split)
@[simp] theorem cores_execStream (d : SReg) (p : PortId) (b : SReg) (s : State) (ms : Multiset Nat) (hm : coresOf s = ms) :
    Keeps ms (execStream d p b s) := by
  unfold execStream
  refine cores_issueEngine _ _ _ _ hm ?_
  split
  · simp [hm]
  · refine cores_afterScalars _ _ _ hm (fun s1 h1 => ?_)
    dsimp only
    split <;> simp [h1]
@[simp] theorem cores_execStreamEnd (core : CoreId) (e : ℕ) (s : State) (ms : Multiset Nat) (hm : coresOf s = ms) : Keeps ms
    (execStreamEnd core e s) := by
  unfold execStreamEnd
  refine cores_withEngine _ _ _ _ _ hm (fun o => ?_)
  try dsimp only
  repeat' (first | (simp (disch := (intros; repeat' (first | (simp [*]; done) | split))) [*]; done) | split)
@[simp] theorem cores_cancelStreams (s : State) (core : ℕ) : coresOf (cancelStreams s core) = coresOf s := by
  unfold cancelStreams
  refine coresOf_foldl _ (fun s x => ?_) _ _
  split <;> simp
@[simp] theorem cores_portStream (s : State) (p : PortId) (store : Bool) (k : Engine → StreamDesc → ℕ → Out) (ms : Multiset
    Nat) (hm : coresOf s = ms) (h_k : ∀ y0 y1 y2, Keeps ms (k y0 y1 y2)) : Keeps ms (portStream s p store k) := by
  unfold portStream
  dsimp only
  repeat' (first | (simp [*]; done) | split)
@[simp] theorem cores_readAhead (s : State) (e : ℕ) (k : ℕ) : coresOf (readAhead s e k) = coresOf s := by
  unfold readAhead
  dsimp only
  repeat' (first | (simp [*]; done) | split)
@[simp] theorem cores_takeAhead (s : State) (e : ℕ) (cur : ℕ) (r : ℕ) (narrow : Bool) (els : List (ℕ × List Place)) : coresOf
    (takeAhead s e cur r narrow els) = coresOf s := by
  unfold takeAhead
  refine coresOf_foldl _ (fun s x => ?_) _ _
  split <;> simp
@[simp] theorem cores_moveCursor (s : State) (e : ℕ) (n : ℕ) : coresOf (moveCursor s e n) = coresOf s := by
  exact (Eq.refl _).trans rfl
@[simp] theorem cores_execVldp (t : VReg) (p : PortId) (m : MReg) (s : State) (ms : Multiset Nat) (hm : coresOf s = ms) :
    Keeps ms (execVldp t p m s) := by
  unfold execVldp
  dsimp only
  refine cores_checkLoad _ _ _ _ _ hm (cores_portStream _ _ _ _ _ hm (fun x d cur => ?_))
  split
  · simp [hm]
  · refine cores_vecAccess _ _ _ _ _ _ hm (fun s1 pl h1 => ?_)
    repeat' (first | (simp [*]; done) | split)
@[simp] theorem cores_execVstp (t : VReg) (p : PortId) (m : MReg) (s : State) (ms : Multiset Nat) (hm : coresOf s = ms) :
    Keeps ms (execVstp t p m s) := by
  unfold execVstp
  dsimp only
  refine cores_checkStore _ _ _ _ _ hm (cores_portStream _ _ _ _ _ hm (fun x d cur => ?_))
  split
  · simp [hm]
  · refine cores_vecAccess _ _ _ _ _ _ hm (fun s1 pl h1 => ?_)
    refine cores_finish _ _ _ _ _ ?_
    split <;> simp [h1]
@[simp] theorem cores_updateFree (s : State) : coresOf (updateFree s) = coresOf s := by
  unfold updateFree
  refine coresOf_foldl _ (fun s p => ?_) _ _
  dsimp only
  repeat' (first | rfl | (simp; done) | split)
@[simp] theorem cores_removeLaunch (s : State) (part : ℕ) (id : ℕ) : coresOf (removeLaunch s part id) = coresOf s := by
  unfold removeLaunch
  simp [*]
@[simp] theorem cores_execLaunch (d : SReg) (a : SReg) (s : State) (ms : Multiset Nat) (hm : coresOf s = ms) : Keeps ms
    (execLaunch d a s) := by
  unfold execLaunch
  refine cores_jointGuard _ _ _ _ hm ?_
  extract_lets l req s1
  rw [keeps_next, cores_eachMember _ _ _ (fun u hu => ?_)]
  · simp [s1, hm]
  · dsimp only
    rw [keeps_next, cores_advance, coresOf_mk, ← hu]
    have : ∀ h : Hart, h.core = u.hart.core → coresWith h.core u.others = coresOf u := fun h hh => by rw [hh]; rfl
    refine this _ ?_
    split <;> simp
@[simp] theorem cores_answerLaunch (s : State) (h : Hart) (q : LaunchReq) (v : Word) : coresOf (answerLaunch s h q v) =
    coresOf s := by
  unfold answerLaunch
  dsimp only
  rw [coresOf_onHarts _ _ (by intro g; split <;> simp)]
  simp
@[simp] theorem cores_setReq (s : State) (core : ℕ) (q : LaunchReq) : coresOf (setReq s core q) = coresOf s := by
  unfold setReq
  simp [*]
@[simp] theorem cores_launchBatch (s : State) (h : Hart) (q : LaunchReq) (frames : List ℕ) (wr : Bool) (stage2 : Bool) :
    coresOf (launchBatch s h q frames wr stage2) = coresOf s := by
  unfold launchBatch
  dsimp only
  repeat' (first | (simp [*]; done) | split)
@[simp] theorem cores_enterLaunch (s : State) (part : ℕ) (r : Record) (pas : List ℕ) : coresOf (enterLaunch s part r pas).2 =
    coresOf s := by
  unfold enterLaunch
  split
  · rfl
  · dsimp only
    rw [cores_updateFree, cores_settleLaunch, coresOf_mk, coresWith_fold, coresOf_foldl_snd _ (fun s x => by simp)]
@[simp] theorem cores_launchWords (s : State) (h : Hart) (super : Bool) (r : Record) : coresOf (launchWords s h super r).2 =
    coresOf s := by
  unfold launchWords
  simp [*]
@[simp] theorem cores_logWords (s : State) (core : ℕ) (ws : List (Xlat × List (ℕ × Bool) × Word)) :
    coresOf (logWords s core ws) = coresOf s := by
  unfold logWords
  exact coresOf_foldl _ (fun s x => by repeat' (first | (simp; done) | split)) _ _
@[simp] theorem cores_judgeLaunch (s : State) (h : Hart) (q : LaunchReq) (bs : List Byte) : coresOf (judgeLaunch s h q bs) =
    coresOf s := by
  unfold judgeLaunch
  extract_lets part r cores no code w denied missing marked pas e
  split
  · simp [no]
  · have hw : coresOf w.2 = coresOf s := by simp [w]
    split
    · simp [no, hw]
    · split
      · simp [hw]
      · split
        · simp [no, hw]
        · split
          · simp [no, hw]
          · rw [cores_answerLaunch, cores_enterLaunch, coresOf_foldl_fst _ (fun s x => by simp), hw]
@[simp] theorem cores_considerLaunch (s : State) (h : Hart) (q : LaunchReq) : coresOf (considerLaunch s h q) = coresOf s := by
  unfold considerLaunch
  split
  · simp
  · extract_lets no r
    split
    · simp [no]
    · split
      · simp [no]
      · split
        · simp [r]
        · simp [no, r]
        · split
          · simp [no, r]
          · simp [r]
@[simp] theorem cores_execLaunchAnswer (core : CoreId) (s : State) (ms : Multiset Nat) (hm : coresOf s = ms) : Keeps ms
    (execLaunchAnswer core s) := by
  unfold execLaunchAnswer
  dsimp only
  split
  · simp [hm]
  · split
    · simp [hm]
    · split
      · simp [hm]
      · split <;> simp [hm]
@[simp] theorem cores_writeCompletion (s : State) (l : Launch) (v : Word) : coresOf (writeCompletion s l v) = coresOf s := by
  unfold writeCompletion
  split
  · split <;> simp
  · rfl
@[simp] theorem cores_cancelLaunch (s : State) (part : ℕ) (id : ℕ) : coresOf (cancelLaunch s part id).2.2 = coresOf s := by
  unfold cancelLaunch
  split
  · split
    · rfl
    · simp
  · split <;> rfl
@[simp] theorem cores_execCancel (d : SReg) (a : SReg) (s : State) (ms : Multiset Nat) (hm : coresOf s = ms) : Keeps ms
    (execCancel d a s) := by
  unfold execCancel
  dsimp only
  repeat' (first | (simp [*]; done) | split)
@[simp] theorem cores_onLaunch (s : State) (part : ℕ) (id : ℕ) (f : Launch → Launch) : coresOf (onLaunch s part id f) =
    coresOf s := by
  exact (Eq.refl _).trans rfl
@[simp] theorem cores_endHart (s : State) (core : ℕ) : coresOf (endHart s core) = coresOf s := by
  unfold endHart
  simp [*]
@[simp] theorem cores_execEndProg (s : State) (ms : Multiset Nat) (hm : coresOf s = ms) : Keeps ms (execEndProg s) := by
  unfold execEndProg
  extract_lets hs s1
  have h1 : coresOf s1 = coresOf s := coresOf_foldl _ (fun s h => by simp) _ _
  split
  · rw [keeps_next, cores_spreadTraps, cores_eachMember _ _ _ (fun u hu => ?_), hm]
    rw [keeps_next]
    split <;> simp [hu]
  · split
    · simp [h1, hm]
    · rw [keeps_next, coresOf_foldl _ (fun s h => by simp), h1, hm]
@[simp] theorem cores_execEndLaunch (p : PartId) (id : BitVec 24) (s : State) (ms : Multiset Nat) (hm : coresOf s = ms) :
    Keeps ms (execEndLaunch p id s) := by
  unfold execEndLaunch
  dsimp only
  repeat' (first | (simp [*]; done) | split)
@[simp] theorem cores_execCompletionWordWrite (p : PartId) (id : BitVec 24) (s : State) (ms : Multiset Nat) (hm : coresOf s =
    ms) : Keeps ms (execCompletionWordWrite p id s) := by
  unfold execCompletionWordWrite
  dsimp only
  repeat' (first | (simp [*]; done) | split)
@[simp] theorem cores_onGroup (s : State) (k : Husk) (f : Husk → Husk) : coresOf (onGroup s k f) = coresOf s := by
  exact (Eq.refl _).trans rfl
@[simp] theorem cores_stopHart (s : State) (core : ℕ) (r : StopReason) (pc : Word) (due : Option ℕ) : coresOf (stopHart s core
    r pc due) = coresOf s := by
  unfold stopHart
  extract_lets t
  rw [coresOf_onCore]
  · simp [t]
  · intro h
    extract_lets h1 h2
    have e2 : h2.core = h.core := by simp only [h2, h1]; split <;> simp
    simp [e2]
@[simp] theorem cores_stopGang (s : State) (core : ℕ) (r : StopReason) : coresOf (stopGang s core r) = coresOf s := by
  unfold stopGang
  dsimp only
  repeat' (first | (simp [*]; done) | split)
@[simp] theorem cores_requestStop (s : State) (core : ℕ) (r : StopReason) : coresOf (requestStop s core r) = coresOf s := by
  unfold requestStop
  simp [*]
@[simp] theorem cores_holdHusk (s : State) (k : Husk) : coresOf (holdHusk s k) = coresOf s := by
  exact (Eq.refl _).trans rfl
@[simp] theorem cores_execPreemptRequest (core : CoreId) (s : State) (ms : Multiset Nat) (hm : coresOf s = ms) : Keeps ms
    (execPreemptRequest core s) := by
  unfold execPreemptRequest
  dsimp only
  repeat' (first | (simp [*]; done) | split)
@[simp] theorem cores_parkAtHome (s : State) (who : Subscriber) : coresOf (parkAtHome s who) = coresOf s := by
  exact (Eq.refl _).trans rfl
@[simp] theorem cores_switchOut (s : State) (core : ℕ) (n : ℕ) : coresOf (switchOut s core n) = coresOf s := by
  unfold switchOut
  dsimp only
  repeat' (first | (simp [*]; done) | split)
@[simp] theorem cores_clearBad (s : State) (core : ℕ) : coresOf (clearBad s core) = coresOf s := by
  exact (Eq.refl _).trans rfl
@[simp] theorem core_imageOf (h : Hart) : (imageOf h).core = h.core := by
  exact (Eq.refl _).trans rfl
@[simp] theorem cores_saveHart (s : State) (core : ℕ) (slot : ℕ) (parked : Option ℕ) : coresOf (saveHart s core slot parked) =
    coresOf s := by
  unfold saveHart
  generalize List.range 1024 = slots
  dsimp only
  rw [cores_clearBad, coresOf_onCore _ _ _ (fun g => core_recycle g), cores_writeImage, coresOf_mk, coresWith_fold,
    coresOf_foldl _ (fun s n => by rw [cores_switchOut]), cores_cleanL1, cores_flushHart]
@[simp] theorem cores_execHuskSave (core : CoreId) (s : State) (ms : Multiset Nat) (hm : coresOf s = ms) : Keeps ms
    (execHuskSave core s) := by
  unfold execHuskSave
  dsimp only
  repeat' (first | (simp [*]; done) | split)
@[simp] theorem cores_makeRunnable (s : State) (k : Husk) : coresOf (makeRunnable s k) = coresOf s := by
  exact (Eq.refl _).trans rfl
@[simp] theorem cores_execHuskWake (p : PartId) (i : Fin 128) (s : State) (ms : Multiset Nat) (hm : coresOf s = ms) : Keeps ms
    (execHuskWake p i s) := by
  unfold execHuskWake
  repeat' (first | (simp (disch := (intros; first | assumption | (simp [*]; done) | (dsimp only; repeat' (first | (simp [*]; done) | split)))) [*]; done) | split)
@[simp] theorem cores_execParkTimeout (p : PartId) (i : Fin 128) (s : State) (ms : Multiset Nat) (hm : coresOf s = ms) : Keeps
    ms (execParkTimeout p i s) := by
  unfold execParkTimeout
  repeat' (first | (simp (disch := (intros; first | assumption | (simp [*]; done) | (dsimp only; repeat' (first | (simp [*]; done) | split)))) [*]; done) | split)
@[simp] theorem cores_execHuskRelease (p : PartId) (i : Fin 128) (s : State) (ms : Multiset Nat) (hm : coresOf s = ms) : Keeps
    ms (execHuskRelease p i s) := by
  unfold execHuskRelease
  repeat' (first | (simp (disch := (intros; first | assumption | (simp [*]; done) | (dsimp only; repeat' (first | (simp [*]; done) | split)))) [*]; done) | split)
@[simp] theorem cores_execDumpRequest (p : PartId) (id : BitVec 24) (g : Fin 128) (s : State) (ms : Multiset Nat) (hm :
    coresOf s = ms) : Keeps ms (execDumpRequest p id g s) := by
  unfold execDumpRequest
  dsimp only
  repeat' (first | (simp [*]; done) | split)
@[simp] theorem cores_execDumpRelease (p : PartId) (i : Fin 128) (s : State) (ms : Multiset Nat) (hm : coresOf s = ms) : Keeps
    ms (execDumpRelease p i s) := by
  unfold execDumpRelease
  repeat' (first | (simp (disch := (intros; first | assumption | (simp [*]; done) | (dsimp only; repeat' (first | (simp [*]; done) | split)))) [*]; done) | split)
@[simp] theorem cores_rearmSlot (s : State) (h : Hart) (n : ℕ) : coresOf (rearmSlot s h n) = coresOf s := by
  unfold rearmSlot
  simp [*]
theorem coresOf_onCore_to (s : State) (c : Nat) (f : Hart → Hart) (h : ∀ g, g.core = c → (f g).core = g.core) :
    coresOf (onCore s c f) = coresOf s := by
  unfold onCore
  split
  · next hc => simp only [coresOf, h _ hc]
  · refine coresWith_map _ _ (fun g => ?_) _
    split
    · next hc => exact h g hc
    · rfl

@[simp] theorem cores_resumeHart (s : State) (k : Husk) : coresOf (resumeHart s k) = coresOf s := by
  unfold resumeHart
  extract_lets c h parked h1 h2
  have e : h2.core = k.image.core := by
    simp only [h2, h1, h]
    rw [core_foldl _ (fun h n => by simp)]
    simp
  rw [coresOf_foldl _ (fun s n => by simp), coresOf_onCore_to _ _ _ (fun g hg => by rw [hg, e]), cores_clearBad]
@[simp] theorem cores_dropHusks (s : State) (k : Husk) : coresOf (dropHusks s k) = coresOf s := by
  exact (Eq.refl _).trans rfl
@[simp] theorem cores_resumeGroup (s : State) (part : ℕ) (launch : ℕ) (gang : ℕ) : coresOf (resumeGroup s part launch gang) =
    coresOf s := by
  unfold resumeGroup
  dsimp only
  repeat' (first | (simp [*]; done) | split)
@[simp] theorem cores_execAgingRise (p : PartId) (k : ℕ) (s : State) (ms : Multiset Nat) (hm : coresOf s = ms) : Keeps ms
    (execAgingRise p k s) := by
  unfold execAgingRise
  repeat' (first | (simp (disch := (intros; first | assumption | (simp [*]; done) | (dsimp only; repeat' (first | (simp [*]; done) | split)))) [*]; done) | split)
@[simp] theorem cores_execDependenceSatisfied (p : PartId) (id : BitVec 24) (d : Fin 2) (s : State) (ms : Multiset Nat) (hm :
    coresOf s = ms) : Keeps ms (execDependenceSatisfied p id d s) := by
  unfold execDependenceSatisfied
  dsimp only
  repeat' (first | (simp [*]; done) | split)
@[simp] theorem cores_execDependencePoll (p : PartId) (id : BitVec 24) (d : Fin 2) (s : State) (ms : Multiset Nat) (hm :
    coresOf s = ms) : Keeps ms (execDependencePoll p id d s) := by
  unfold execDependencePoll
  dsimp only
  repeat' (first | (simp [*]; done) | split)
@[simp] theorem cores_startHart (s : State) (l : Launch) (leader : ℕ) (core : ℕ) (member : ℕ) : coresOf (startHart s l leader
    core member) = coresOf s := by
  unfold startHart
  simp [*]
@[simp] theorem cores_startGang (s : State) (l : Launch) (cores : List ℕ) : coresOf (startGang s l cores) = coresOf s := by
  unfold startGang
  simp [*]
@[simp] theorem cores_dispatch (s : State) (part : ℕ) (c : Candidate) : coresOf (dispatch s part c) = coresOf s := by
  unfold dispatch
  repeat' (first | (simp (disch := (intros; first | assumption | (simp [*]; done) | (dsimp only; repeat' (first | (simp [*]; done) | split)))) [*]; done) | split)
@[simp] theorem cores_evict (s : State) (part : ℕ) (size : ℕ) (cls : ℕ) (fuel : ℕ) : coresOf (evict s part size cls fuel) =
    coresOf s := by
  induction fuel generalizing s with
  | zero => rfl
  | succ n ih => unfold evict; repeat' (first | rfl | (simp [ih]; done) | split)
@[simp] theorem cores_preemptFor (s : State) (part : ℕ) (c : Candidate) : coresOf (preemptFor s part c) = coresOf s := by
  unfold preemptFor
  dsimp only
  repeat' (first | (simp [*]; done) | split)
@[simp] theorem cores_parkOne (s : State) (part : ℕ) : coresOf (parkOne s part) = coresOf s := by
  unfold parkOne
  repeat' (first | (simp (disch := (intros; first | assumption | (simp [*]; done) | (dsimp only; repeat' (first | (simp [*]; done) | split)))) [*]; done) | split)
@[simp] theorem cores_execDispatchRound (p : PartId) (s : State) (ms : Multiset Nat) (hm : coresOf s = ms) : Keeps ms
    (execDispatchRound p s) := by
  unfold execDispatchRound
  dsimp only
  repeat' (first | (simp [*]; done) | split)
@[simp] theorem cores_execYield (s : State) (ms : Multiset Nat) (hm : coresOf s = ms) : Keeps ms (execYield s) := by
  unfold execYield
  extract_lets s1 l
  have h1 : coresOf s1 = coresOf s := by
    simp only [s1]
    rw [cores_eachMember _ _ _ (fun u hu => ?_)]
    simp [hu]
  rw [keeps_next]
  split <;> simp [h1, hm]
@[simp] theorem cores_onStack (s : State) (k : ℕ) (f : Stack → Stack) : coresOf (onStack s k f) = coresOf s := by
  unfold onStack
  repeat' (first | (simp (disch := (intros; first | assumption | (simp [*]; done) | (dsimp only; repeat' (first | (simp [*]; done) | split)))) [*]; done) | split)
@[simp] theorem cores_takeStope (s : State) (k : ℕ) (g : ℕ) (j : StopeJob) : coresOf (takeStope s k g j) = coresOf s := by
  unfold takeStope
  simp [*]
@[simp] theorem cores_releaseStope (s : State) (k : ℕ) (g : ℕ) : coresOf (releaseStope s k g) = coresOf s := by
  unfold releaseStope
  simp [*]
@[simp] theorem cores_setStope (s : State) (k : ℕ) (g : ℕ) (f : Stope → Stope) : coresOf (setStope s k g f) = coresOf s := by
  unfold setStope
  simp [*]
@[simp] theorem cores_execNbx (d : SReg) (a : SReg) (b : SReg) (s : State) (ms : Multiset Nat) (hm : coresOf s = ms) : Keeps
    ms (execNbx d a b s) := by
  unfold execNbx
  simp [*]
@[simp] theorem cores_nearFault (s : State) (o : Owned) (cause : ℕ) (va : Word) (stage2 : Bool) : coresOf (nearFault s o cause
    va stage2) = coresOf s := by
  unfold nearFault
  simp [*]
@[simp] theorem cores_nearAccept (s : State) (o : Owned) (c : NearCommand) : coresOf (nearAccept s o c) = coresOf s := by
  unfold nearAccept
  dsimp only
  repeat' (first | (simp [*]; done) | split)
@[simp] theorem cores_nearPage (s : State) (o : Owned) (va : Word) (c : NearCommand) : coresOf (nearPage s o va c) = coresOf s
    := by
  unfold nearPage
  dsimp only
  repeat' (first | (simp [*]; done) | split)
@[simp] theorem cores_execNbxArrival (core : CoreId) (e : ℕ) (s : State) (ms : Multiset Nat) (hm : coresOf s = ms) : Keeps ms
    (execNbxArrival core e s) := by
  unfold execNbxArrival
  refine cores_withEngine _ _ _ _ _ hm (fun o => ?_)
  try dsimp only
  repeat' (first | (simp (disch := (intros; repeat' (first | (simp [*]; done) | split))) [*]; done) | split)
@[simp] theorem cores_execNbxEngineGrant (k : StackId) (s : State) (ms : Multiset Nat) (hm : coresOf s = ms) : Keeps ms
    (execNbxEngineGrant k s) := by
  unfold execNbxEngineGrant
  dsimp only
  repeat' (first | (simp [*]; done) | split)
@[simp] theorem cores_openGranule (s : State) (k : ℕ) (a : ℕ) : coresOf (openGranule s k a) = coresOf s := by
  unfold openGranule
  simp [*]
@[simp] theorem cores_closeGranule (s : State) (k : ℕ) (g : ℕ) (a : ℕ) : coresOf (closeGranule s k g a) = coresOf s := by
  unfold closeGranule
  dsimp only
  repeat' (first | (simp [*]; done) | split)
@[simp] theorem cores_nearStep (s : State) (k : ℕ) (g : ℕ) (c : NearCommand) : coresOf (nearStep s k g c) = coresOf s := by
  unfold nearStep
  dsimp only
  repeat' (first | (simp [*]; done) | split)
@[simp] theorem cores_writeGranule (s : State) (k : ℕ) (g : ℕ) (part : ℕ) (qos : ℕ) (q : ℕ) : coresOf (writeGranule s k g part
    qos q) = coresOf s := by
  unfold writeGranule
  dsimp only
  repeat' (first | (simp [*]; done) | split)
@[simp] theorem cores_replayWrite (s : State) (k : ℕ) (g : ℕ) (loop : ℕ) (e : Stope) : coresOf (replayWrite s k g loop e) =
    coresOf s := by
  unfold replayWrite
  dsimp only
  repeat' (first | (simp [*]; done) | split)
@[simp] theorem cores_execStopeStep (k : StackId) (g : Fin 64) (s : State) (ms : Multiset Nat) (hm : coresOf s = ms) : Keeps
    ms (execStopeStep k g s) := by
  unfold execStopeStep
  repeat' (first | (simp (disch := (intros; first | assumption | (simp [*]; done) | (dsimp only; repeat' (first | (simp [*]; done) | split)))) [*]; done) | split)
@[simp] theorem cores_execStopeResume (k : StackId) (g : Fin 64) (s : State) (ms : Multiset Nat) (hm : coresOf s = ms) : Keeps
    ms (execStopeResume k g s) := by
  unfold execStopeResume
  repeat' (first | (simp (disch := (intros; first | assumption | (simp [*]; done) | (dsimp only; repeat' (first | (simp [*]; done) | split)))) [*]; done) | split)
@[simp] theorem cores_execNbxDone (k : StackId) (g : Fin 64) (s : State) (ms : Multiset Nat) (hm : coresOf s = ms) : Keeps ms
    (execNbxDone k g s) := by
  unfold execNbxDone
  dsimp only
  repeat' (first | (simp [*]; done) | split)
@[simp] theorem cores_openAndServe (s : State) (k : ℕ) (o : OpenRow) : coresOf (openAndServe s k o) = coresOf s := by
  unfold openAndServe
  simp [*]
@[simp] theorem cores_execSegmentMaskActivate (k : StackId) (c : Fin 64) (b : Fin 16) (s : State) (ms : Multiset Nat) (hm :
    coresOf s = ms) : Keeps ms (execSegmentMaskActivate k c b s) := by
  unfold execSegmentMaskActivate
  dsimp only
  repeat' (first | (simp [*]; done) | split)
@[simp] theorem cores_execSupplementaryActivate (k : StackId) (c : Fin 64) (b : Fin 16) (s : State) (ms : Multiset Nat) (hm :
    coresOf s = ms) : Keeps ms (execSupplementaryActivate k c b s) := by
  unfold execSupplementaryActivate
  dsimp only
  repeat' (first | (simp [*]; done) | split)
@[simp] theorem cores_execRefresh (k : StackId) (c : Fin 64) (b : Fin 16) (s : State) (ms : Multiset Nat) (hm : coresOf s =
    ms) : Keeps ms (execRefresh k c b s) := by
  unfold execRefresh
  dsimp only
  repeat' (first | (simp [*]; done) | split)
@[simp] theorem cores_execSelfRefreshEntry (k : StackId) (c : Fin 64) (s : State) (ms : Multiset Nat) (hm : coresOf s = ms) :
    Keeps ms (execSelfRefreshEntry k c s) := by
  unfold execSelfRefreshEntry
  dsimp only
  repeat' (first | (simp [*]; done) | split)
@[simp] theorem cores_execSelfRefreshExit (k : StackId) (c : Fin 64) (s : State) (ms : Multiset Nat) (hm : coresOf s = ms) :
    Keeps ms (execSelfRefreshExit k c s) := by
  unfold execSelfRefreshExit
  dsimp only
  repeat' (first | (simp [*]; done) | split)
@[simp] theorem cores_queueRequest (s : State) (k : ℕ) (who : Requester) (r : Request) : coresOf (queueRequest s k who r) =
    coresOf s := by
  unfold queueRequest
  simp [*]
@[simp] theorem cores_refreshFallsDue (s : State) (k : ℕ) (c : ℕ) (b : ℕ) : coresOf (refreshFallsDue s k c b) = coresOf s := by
  unfold refreshFallsDue
  simp [*]
@[simp] theorem cores_execErrorCheckScrub (k : StackId) (pa : PAddr) (s : State) (ms : Multiset Nat) (hm : coresOf s = ms) :
    Keeps ms (execErrorCheckScrub k pa s) := by
  unfold execErrorCheckScrub
  dsimp only
  repeat' (first | (simp [*]; done) | split)
@[simp] theorem cores_execMcstkWrite (k : StackId) (v : Word) (s : State) (ms : Multiset Nat) (hm : coresOf s = ms) : Keeps ms
    (execMcstkWrite k v s) := by
  unfold execMcstkWrite
  repeat' (first | (simp (disch := (intros; first | assumption | (simp [*]; done) | (dsimp only; repeat' (first | (simp [*]; done) | split)))) [*]; done) | split)
@[simp] theorem core_progressOf (h : Hart) (rs : List ℕ) (g : ℕ) (done : Bool) : (progressOf h rs g done).core = h.core := by
  exact (Eq.refl _).trans rfl
@[simp] theorem core_arrivals (h : Hart) (rs : List ℕ) (n : ℕ) (gs : List ℕ) : (arrivals h rs n gs).core = h.core := by
  unfold arrivals
  dsimp only
  repeat' (first | (simp [*]; done) | split)
@[simp] theorem core_underType (h : Hart) (vtype : Word) (f : Hart → Hart) (h_f : ∀ h, (f h).core = h.core) : (underType h
    vtype f).core = h.core := by
  unfold underType
  simp [*]
@[simp] theorem core_duplicateMask (h : Hart) (md : MReg) (n : ℕ) (addrs : List (ℕ × Word)) : (duplicateMask h md n
    addrs).core = h.core := by
  unfold duplicateMask
  dsimp only
  repeat' (first | (simp [*]; done) | split)
@[simp] theorem core_openGather (h : Hart) (t : ℕ) (dt : ℕ) (n : ℕ) : (openGather h t dt n).core = h.core := by
  unfold openGather
  dsimp only
  repeat' (first | (simp [*]; done) | split)
@[simp] theorem core_closeGather (h : Hart) (rs : List ℕ) (n : ℕ) (vtype : Word) : (closeGather h rs n vtype).core = h.core :=
    by
  unfold closeGather
  dsimp only
  repeat' (first | (simp [*]; done) | split)
@[simp] theorem cores_execBgld (t : VReg) (b : SReg) (i : VReg) (m : MReg) (d : SReg) (s : State) (ms : Multiset Nat) (hm :
    coresOf s = ms) : Keeps ms (execBgld t b i m d s) := by
  unfold execBgld
  dsimp only
  repeat' (first | (simp [*]; done) | split)
@[simp] theorem cores_execGxl (t : VReg) (b : SReg) (i : VReg) (m : MReg) (d : SReg) (s : State) (ms : Multiset Nat) (hm :
    coresOf s = ms) : Keeps ms (execGxl t b i m d s) := by
  unfold execGxl
  dsimp only
  repeat' (first | (simp [*]; done) | split)
@[simp] theorem cores_gatherSpots (s : State) (o : Owned) (w : ℕ) (addrs : List (ℕ × Word)) (acc : List GatherElem) : coresOf
    (gatherSpots s o w addrs acc).2 = coresOf s := by
  induction addrs generalizing s acc with
  | nil => rfl
  | cons e es ih => unfold gatherSpots; simp [ih]
@[simp] theorem cores_gatherReady_inl (s : State) (o : Owned) (w : Nat) (addrs : List (Nat × Word)) (t : State)
    (h : gatherReady s o w addrs = .inl t) : coresOf t = coresOf s := by
  unfold gatherReady at h
  dsimp only at h
  split at h
  · cases h
  · split at h
    · cases h
    · cases h
      simp
@[simp] theorem cores_deliverElem (s : State) (o : Owned) (rs : List ℕ) (w : ℕ) (g : GatherElem) : coresOf (deliverElem s o rs
    w g) = coresOf s := by
  unfold deliverElem
  simp [*]
@[simp] theorem cores_gatherEnd (s : State) (o : Owned) (rs : List ℕ) (n : ℕ) (vtype : Word) (low : Option ElemFault) :
    coresOf (gatherEnd s o rs n vtype low) = coresOf s := by
  unfold gatherEnd
  dsimp only
  repeat' (first | (simp [*]; done) | split)
@[simp] theorem cores_gatherReject (s : State) (o : Owned) (rs : List ℕ) (n : ℕ) (code : ℕ) : coresOf (gatherReject s o rs n
    code) = coresOf s := by
  unfold gatherReject
  simp [*]
@[simp] theorem cores_bgldAhead (s : State) (e : ℕ) (k : ℕ) : coresOf (bgldAhead s e k) = coresOf s := by
  unfold bgldAhead
  split
  · rfl
  · next o _ =>
    split
    · next rs w n vt addrs _ _ =>
      have e := cores_gatherSpots s o w (addrs.filter (fun a => a.1 == k)) []
      split
      · next g s1 hg =>
        rw [hg] at e
        dsimp only at e
        split
        · rfl
        · dsimp only
          rw [cores_setEngine, cores_onOwner _ _ _ (by intro h; split <;> simp), cores_deliverElem, e]
      · rfl
    · rfl
theorem cores_gatherReady_inr (s : State) (o : Owned) (w : Nat) (addrs : List (Nat × Word)) (g : List GatherElem) (t : State)
    (h : gatherReady s o w addrs = .inr (g, t)) : coresOf t = coresOf s := by
  unfold gatherReady at h
  dsimp only at h
  have e := cores_gatherSpots s o w addrs []
  split at h
  · exact (congrArg coresOf (congrArg Prod.snd (Sum.inr.inj h))).symm.trans e
  · split at h
    · exact (congrArg coresOf (congrArg Prod.snd (Sum.inr.inj h))).symm.trans e
    · cases h

@[simp] theorem cores_execBgldDone (core : CoreId) (e : ℕ) (s : State) (ms : Multiset Nat) (hm : coresOf s = ms) : Keeps ms
    (execBgldDone core e s) := by
  unfold execBgldDone
  refine cores_withEngine _ _ _ _ _ hm (fun o => ?_)
  split
  · split
    · next h => exact (cores_gatherReady_inl _ _ _ _ _ h).trans hm
    · next h =>
      have e := (cores_gatherReady_inr _ _ _ _ _ _ h).trans hm
      split
      · rw [cores_gatherReject, e]
      · rw [cores_gatherEnd, coresOf_foldl _ (fun s g => by simp), e]
  · exact hm
@[simp] theorem core_gatherInactive (h : Hart) (rs : List ℕ) (w : ℕ) (n : ℕ) (vtype : Word) (addrs : List (ℕ × Word)) :
    (gatherInactive h rs w n vtype addrs).core = h.core := by
  unfold gatherInactive
  dsimp only
  repeat' (first | (simp [*]; done) | split)
@[simp] theorem core_gatherLeft (h : Hart) (rs : List ℕ) (n : ℕ) (vtype : Word) (es : List ℕ) : (gatherLeft h rs n vtype
    es).core = h.core := by
  unfold gatherLeft
  repeat' (first | (simp (disch := (intros; first | assumption | (simp [*]; done) | (dsimp only; repeat' (first | (simp [*]; done) | split)))) [*]; done) | split)
@[simp] theorem cores_judgeGxl (s : State) (o : Owned) (rs : List ℕ) (w : ℕ) (n : ℕ) (vt : Word) (addrs : List (ℕ × Word)) (es
    : List (ℕ × Word)) (keep : Option (List (ℕ × ℕ))) : coresOf (judgeGxl s o rs w n vt addrs es keep) = coresOf s := by
  unfold judgeGxl
  split
  · next h => exact cores_gatherReady_inl _ _ _ _ _ h
  · next h =>
    have e := cores_gatherReady_inr _ _ _ _ _ _ h
    split
    · simp [e]
    · split
      · simp [e]
      · dsimp only
        rw [cores_setEngine, cores_onOwner _ _ _ (by intro h; split <;> simp), coresOf_foldl _ (fun s g => by simp),
          coresOf_foldl _ (fun s g => by simp), e]
@[simp] theorem cores_unitElem (s : State) (o : Owned) (rs : List ℕ) (w : ℕ) (addrs : List (ℕ × Word)) (p : ℕ × ℕ) : coresOf
    (unitElem s o rs w addrs p) = coresOf s := by
  unfold unitElem
  dsimp only
  repeat' (first | (simp [*]; done) | split)
@[simp] theorem cores_onUnit (s : State) (k : ℕ) (f : List ℕ → List ℕ) : coresOf (onUnit s k f) = coresOf s := by
  exact (Eq.refl _).trans rfl
@[simp] theorem cores_gatherUnit (s : State) (o : Owned) (k : ℕ) : coresOf (gatherUnit s o k) = coresOf s := by
  unfold gatherUnit
  dsimp only
  repeat' (first | (simp [*]; done) | split)
@[simp] theorem cores_execGatherUnitRequest (core : CoreId) (e : ℕ) (k : StackId) (s : State) (ms : Multiset Nat) (hm :
    coresOf s = ms) : Keeps ms (execGatherUnitRequest core e k s) := by
  unfold execGatherUnitRequest
  refine cores_withEngine _ _ _ _ _ hm (fun o => ?_)
  try dsimp only
  repeat' (first | (simp (disch := (intros; repeat' (first | (simp [*]; done) | split))) [*]; done) | split)
@[simp] theorem cores_execGxlDone (core : CoreId) (e : ℕ) (s : State) (ms : Multiset Nat) (hm : coresOf s = ms) : Keeps ms
    (execGxlDone core e s) := by
  unfold execGxlDone
  refine cores_withEngine _ _ _ _ _ hm (fun o => ?_)
  try dsimp only
  repeat' (first | (simp (disch := (intros; repeat' (first | (simp [*]; done) | split))) [*]; done) | split)
@[simp] theorem cores_jointPrivileged (s : State) (k : Out) (ms : Multiset Nat) (hm : coresOf s = ms) (h_k : Keeps ms k) :
    Keeps ms (jointPrivileged s k) := by
  unfold jointPrivileged
  repeat' (first | (simp (disch := (intros; first | assumption | (simp [*]; done) | (dsimp only; repeat' (first | (simp [*]; done) | split)))) [*]; done) | split)
@[simp] theorem cores_execSfenceT (a : SReg) (s : State) (ms : Multiset Nat) (hm : coresOf s = ms) : Keeps ms (execSfenceT a
    s) := by
  unfold execSfenceT
  refine cores_jointPrivileged _ _ _ hm ?_
  extract_lets l va s1 drop fresh s2
  have h2 : coresOf s2 = coresOf s := by
    simp only [s2]
    rw [coresOf_onHarts _ _ (by intro g; rfl), coresOf_mk, coresWith_fold]
    simp [s1]
  rw [keeps_next, cores_eachMember _ _ _ (fun u hu => ?_), h2, hm]
  simp [hu]
@[simp] theorem cores_harvest (s : State) (core : ℕ) (part : ℕ) (hyper : Bool) (base : ℕ) (size : ℕ) : coresOf (harvest s core
    part hyper base size).2 = coresOf s := by
  unfold harvest
  refine coresOf_foldl_snd _ (fun s x => ?_) _ _
  dsimp only
  repeat' (first | rfl | (simp; done) | split)
@[simp] theorem cores_execHarvest (d : SReg) (a : SReg) (s : State) (ms : Multiset Nat) (hm : coresOf s = ms) : Keeps ms
    (execHarvest d a s) := by
  unfold execHarvest
  dsimp only
  repeat' (first | (simp [*]; done) | split)
@[simp] theorem core_setBank (h : Hart) (n : ℕ) (b : Bank) : (setBank h n b).core = h.core := by
  exact (Eq.refl _).trans rfl
@[simp] theorem cores_grantResource (s : State) (n : ℕ) (w : World) : coresOf (grantResource s n w) = coresOf s := by
  unfold grantResource
  dsimp only
  split <;> simp
@[simp] theorem cores_mayClaim (s : State) (k : Out) (ms : Multiset Nat) (hm : coresOf s = ms) (h_k : Keeps ms k) :
    Keeps ms (mayClaim s k) := by
  unfold mayClaim
  split <;> simp [*]
@[simp] theorem cores_execClaim (d : SReg) (a : SReg) (s : State) (ms : Multiset Nat) (hm : coresOf s = ms) : Keeps ms
    (execClaim d a s) := by
  unfold execClaim
  dsimp only
  repeat' (first | (simp [*]; done) | split)
@[simp] theorem core_releaseResource (h : Hart) (n : ℕ) : (releaseResource h n).core = h.core := by
  unfold releaseResource
  dsimp only
  repeat' (first | (simp [*]; done) | split)
@[simp] theorem cores_execUnclaim (d : SReg) (a : SReg) (s : State) (ms : Multiset Nat) (hm : coresOf s = ms) : Keeps ms
    (execUnclaim d a s) := by
  unfold execUnclaim
  dsimp only
  repeat' (first | (simp [*]; done) | split)
@[simp] theorem cores_withCounter (s : State) (n : ℕ) (k : Word → Out) (ms : Multiset Nat) (hm : coresOf s = ms) (h_k : ∀ y0,
    Keeps ms (k y0)) : Keeps ms (withCounter s n k) := by
  unfold withCounter
  repeat' (first | (simp (disch := (intros; first | assumption | (simp [*]; done) | (dsimp only; repeat' (first | (simp [*]; done) | split)))) [*]; done) | split)
@[simp] theorem cores_execCrd (d : SReg) (n : BitVec 12) (s : State) (ms : Multiset Nat) (hm : coresOf s = ms) : Keeps ms
    (execCrd d n s) := by
  unfold execCrd
  simp [*]
@[simp] theorem cores_execCrdlo (d : SReg) (n : BitVec 12) (s : State) (ms : Multiset Nat) (hm : coresOf s = ms) : Keeps ms
    (execCrdlo d n s) := by
  unfold execCrdlo
  simp [*]
@[simp] theorem cores_execCrdhi (d : SReg) (n : BitVec 12) (s : State) (ms : Multiset Nat) (hm : coresOf s = ms) : Keeps ms
    (execCrdhi d n s) := by
  unfold execCrdhi
  simp [*]
@[simp] theorem cores_execCevt (a : SReg) (n : BitVec 12) (s : State) (ms : Multiset Nat) (hm : coresOf s = ms) : Keeps ms
    (execCevt a n s) := by
  unfold execCevt
  refine cores_privileged _ _ _ hm (cores_withCounter _ _ _ _ hm (fun _ => ?_))
  dsimp only
  repeat' (first | (simp [hm]; done) | split)
@[simp] theorem cores_execTrapEntry (cause : BitVec 8) (tval : Word) (topnd : Word) (s : State) (ms : Multiset Nat) (hm :
    coresOf s = ms) : Keeps ms (execTrapEntry cause tval topnd s) := by
  unfold execTrapEntry
  dsimp only
  split <;> simp [hm]
@[simp] theorem cores_execCounterQuantum (core : CoreId) (s : State) (ms : Multiset Nat) (hm : coresOf s = ms) : Keeps ms
    (execCounterQuantum core s) := by
  unfold execCounterQuantum
  rw [keeps_next, coresOf_onCore _ _ _ (by intro g; simp), hm]
@[simp] theorem cores_execTraceSample (core : CoreId) (s : State) (ms : Multiset Nat) (hm : coresOf s = ms) : Keeps ms
    (execTraceSample core s) := by
  unfold execTraceSample
  dsimp only
  repeat' (first | (simp [*]; done) | split)
@[simp] theorem cores_execTraceConvoyRecord (core : CoreId) (s : State) (ms : Multiset Nat) (hm : coresOf s = ms) : Keeps ms
    (execTraceConvoyRecord core s) := by
  unfold execTraceConvoyRecord
  dsimp only
  repeat' (first | (simp [*]; done) | split)
@[simp] theorem cores_setThrottle (s : State) (level : ℕ) : coresOf (setThrottle s level) = coresOf s := by
  exact (Eq.refl _).trans rfl
@[simp] theorem cores_execThrottleRaise (s : State) (ms : Multiset Nat) (hm : coresOf s = ms) : Keeps ms (execThrottleRaise s)
    := by
  unfold execThrottleRaise
  extract_lets s1 soon
  have e1 : coresOf s1 = ms := hm
  refine cores_byFirmware _ _ _ hm ?_
  split
  · exact e1
  · rw [cores_setThrottle]
    exact e1
@[simp] theorem cores_execThrottleLower (s : State) (ms : Multiset Nat) (hm : coresOf s = ms) : Keeps ms (execThrottleLower s)
    := by
  unfold execThrottleLower
  repeat' (first | (simp (disch := (intros; first | assumption | (simp [*]; done) | (dsimp only; repeat' (first | (simp [*]; done) | split)))) [*]; done) | split)
@[simp] theorem cores_execThermalStop (s : State) (ms : Multiset Nat) (hm : coresOf s = ms) : Keeps ms (execThermalStop s) := by
  unfold execThermalStop
  simp [*]
@[simp] theorem cores_setCorrected (s : State) (c : Corrected) : coresOf (setCorrected s c) = coresOf s := by
  exact (Eq.refl _).trans rfl
@[simp] theorem cores_countCorrected (s : State) (die : ℕ) (cls : ℕ) : coresOf (countCorrected s die cls) = coresOf s := by
  exact (Eq.refl _).trans rfl
@[simp] theorem cores_execErrorRateCrossed (die : DieId) (cls : Fin 16) (s : State) (ms : Multiset Nat) (hm : coresOf s = ms)
    : Keeps ms (execErrorRateCrossed die cls s) := by
  unfold execErrorRateCrossed
  dsimp only
  repeat' (first | (simp [*]; done) | split)
@[simp] theorem cores_clearCovered (s : State) (pa : ℕ) (n : ℕ) : coresOf (clearCovered s pa n) = coresOf s := by
  exact (Eq.refl _).trans rfl
@[simp] theorem cores_execHostMemWrite (pa : PAddr) (bs : List Byte) (s : State) (ms : Multiset Nat) (hm : coresOf s = ms) :
    Keeps ms (execHostMemWrite pa bs s) := by
  unfold execHostMemWrite
  dsimp only
  repeat' (first | (simp [*]; done) | split)
@[simp] theorem cores_execHostMemRead (pa : PAddr) (n : Fin 65) (s : State) (ms : Multiset Nat) (hm : coresOf s = ms) : Keeps
    ms (execHostMemRead pa n s) := by
  unfold execHostMemRead
  rw [keeps_next]
  split
  · exact hm
  · split
    · exact hm
    · extract_lets t
      have e : coresOf t = ms := by simp [t, hm]
      split
      · rw [cores_logPlace]; exact e
      · exact e
@[simp] theorem cores_execNotify (p : PartId) (v : Word) (s : State) (ms : Multiset Nat) (hm : coresOf s = ms) : Keeps ms
    (execNotify p v s) := by
  unfold execNotify
  dsimp only
  repeat' (first | (simp [*]; done) | split)
@[simp] theorem cores_sendInterrupt (s : State) (p : ℕ) : coresOf (sendInterrupt s p) = coresOf s := by
  unfold sendInterrupt
  repeat' (first | (simp (disch := (intros; first | assumption | (simp [*]; done) | (dsimp only; repeat' (first | (simp [*]; done) | split)))) [*]; done) | split)
@[simp] theorem cores_execBdoneWrite (p : PartId) (v : Word) (s : State) (ms : Multiset Nat) (hm : coresOf s = ms) : Keeps ms
    (execBdoneWrite p v s) := by
  unfold execBdoneWrite
  repeat' (first | (simp (disch := (intros; first | assumption | (simp [*]; done) | (dsimp only; repeat' (first | (simp [*]; done) | split)))) [*]; done) | split)
@[simp] theorem cores_readBar (s : State) (o : ℕ) : coresOf (readBar s o) = coresOf s := by
  exact (Eq.refl _).trans rfl
@[simp] theorem cores_setPart (s : State) (p : PartId) (f : Partition → Partition) : coresOf (setPart s p f) = coresOf s := by
  exact (Eq.refl _).trans rfl
@[simp] theorem core_leavePartition (h : Hart) : (leavePartition h).core = h.core := by
  exact (Eq.refl _).trans rfl
@[simp] theorem cores_execCoresWrite (p : PartId) (v : BitVec 128) (s : State) (ms : Multiset Nat) (hm : coresOf s = ms) :
    Keeps ms (execCoresWrite p v s) := by
  unfold execCoresWrite
  extract_lets old moved
  rw [keeps_next]
  split
  · exact hm
  · rw [coresOf_onHarts _ _ (by intro g; split <;> simp)]
    simp [hm]
@[simp] theorem cores_execXmaskWrite (p : PartId) (v : BitVec 128) (s : State) (ms : Multiset Nat) (hm : coresOf s = ms) :
    Keeps ms (execXmaskWrite p v s) := by
  unfold execXmaskWrite
  simp [*]
@[simp] theorem cores_execPartitionBlockWrite (p : PartId) (f : BlockField) (v : Word) (s : State) (ms : Multiset Nat) (hm :
    coresOf s = ms) : Keeps ms (execPartitionBlockWrite p f v s) := by
  unfold execPartitionBlockWrite
  repeat' (first | (simp (disch := (intros; first | assumption | (simp [*]; done) | (dsimp only; repeat' (first | (simp [*]; done) | split)))) [*]; done) | split)
@[simp] theorem cores_execActiveWrite (p : PartId) (v : Word) (fw : FirmwareStart) (s : State) (ms : Multiset Nat) (hm :
    coresOf s = ms) : Keeps ms (execActiveWrite p v fw s) := by
  unfold execActiveWrite
  dsimp only
  repeat' (first | (simp [*]; done) | split)
@[simp] theorem cores_bringUp (s : State) (fw : BootImage) : coresOf (bringUp s fw) = coresOf s := rfl
@[simp] theorem cores_execPowerOn (fw : BootImage) (s : State) (ms : Multiset Nat) (hm : coresOf s = ms) : Keeps ms
    (execPowerOn fw s) := by
  unfold execPowerOn
  extract_lets k x
  rw [keeps_next]
  repeat' (first | exact hm | split)
@[simp] theorem cores_respond (s : State) (request : ℕ) (ok : Bool) (digest : BitVec 256) (next : Spdm) (ms : Multiset Nat)
    (hm : coresOf s = ms) : Keeps ms (respond s request ok digest next) := by
  unfold respond
  simp [*]
@[simp] theorem cores_execGetVersion (s : State) (ms : Multiset Nat) (hm : coresOf s = ms) : Keeps ms (execGetVersion s) := by
  unfold execGetVersion
  simp [*]
@[simp] theorem cores_execGetCapabilities (s : State) (ms : Multiset Nat) (hm : coresOf s = ms) : Keeps ms
    (execGetCapabilities s) := by
  unfold execGetCapabilities
  simp [*]
@[simp] theorem cores_execNegotiateAlgorithms (s : State) (ms : Multiset Nat) (hm : coresOf s = ms) : Keeps ms
    (execNegotiateAlgorithms s) := by
  unfold execNegotiateAlgorithms
  simp [*]
@[simp] theorem cores_execGetDigests (s : State) (ms : Multiset Nat) (hm : coresOf s = ms) : Keeps ms (execGetDigests s) := by
  unfold execGetDigests
  simp [*]
@[simp] theorem cores_execGetCertificate (s : State) (ms : Multiset Nat) (hm : coresOf s = ms) : Keeps ms (execGetCertificate
    s) := by
  unfold execGetCertificate
  simp [*]
@[simp] theorem cores_execChallenge (s : State) (ms : Multiset Nat) (hm : coresOf s = ms) : Keeps ms (execChallenge s) := by
  unfold execChallenge
  simp [*]
@[simp] theorem cores_execGetMeasurements (m : BitVec 8) (s : State) (ms : Multiset Nat) (hm : coresOf s = ms) : Keeps ms
    (execGetMeasurements m s) := by
  unfold execGetMeasurements
  simp [*]
@[simp] theorem cores_execKeyExchange (s : State) (ms : Multiset Nat) (hm : coresOf s = ms) : Keeps ms (execKeyExchange s) := by
  unfold execKeyExchange
  simp [*]
@[simp] theorem cores_execFinish (s : State) (ms : Multiset Nat) (hm : coresOf s = ms) : Keeps ms (execFinish s) := by
  unfold execFinish
  simp [*]
@[simp] theorem cores_execEndSession (s : State) (ms : Multiset Nat) (hm : coresOf s = ms) : Keeps ms (execEndSession s) := by
  unfold execEndSession
  simp [*]
@[simp] theorem cores_execIdeKm (m : Fin 4) (s : State) (ms : Multiset Nat) (hm : coresOf s = ms) : Keeps ms (execIdeKm m s)
    := by
  unfold execIdeKm
  dsimp only
  repeat' (first | (simp [*]; done) | split)
@[simp] theorem cores_execIdeStreamFailure (m : Fin 4) (s : State) (ms : Multiset Nat) (hm : coresOf s = ms) : Keeps ms
    (execIdeStreamFailure m s) := by
  unfold execIdeStreamFailure
  repeat' (first | (simp (disch := (intros; first | assumption | (simp [*]; done) | (dsimp only; repeat' (first | (simp [*]; done) | split)))) [*]; done) | split)
@[simp] theorem cores_execAdd (d : SReg) (a : SReg) (b : SReg) (s : State) (ms : Multiset Nat) (hm : coresOf s = ms) : Keeps
    ms (execAdd d a b s) := by
  unfold execAdd
  simp [*]
@[simp] theorem cores_execSub (d : SReg) (a : SReg) (b : SReg) (s : State) (ms : Multiset Nat) (hm : coresOf s = ms) : Keeps
    ms (execSub d a b s) := by
  unfold execSub
  simp [*]
@[simp] theorem cores_execMul (d : SReg) (a : SReg) (b : SReg) (s : State) (ms : Multiset Nat) (hm : coresOf s = ms) : Keeps
    ms (execMul d a b s) := by
  unfold execMul
  simp [*]
@[simp] theorem cores_execMulh (d : SReg) (a : SReg) (b : SReg) (s : State) (ms : Multiset Nat) (hm : coresOf s = ms) : Keeps
    ms (execMulh d a b s) := by
  unfold execMulh
  simp [*]
@[simp] theorem cores_execMulhu (d : SReg) (a : SReg) (b : SReg) (s : State) (ms : Multiset Nat) (hm : coresOf s = ms) : Keeps
    ms (execMulhu d a b s) := by
  unfold execMulhu
  simp [*]
@[simp] theorem cores_execDiv (d : SReg) (a : SReg) (b : SReg) (s : State) (ms : Multiset Nat) (hm : coresOf s = ms) : Keeps
    ms (execDiv d a b s) := by
  unfold execDiv
  simp [*]
@[simp] theorem cores_execDivu (d : SReg) (a : SReg) (b : SReg) (s : State) (ms : Multiset Nat) (hm : coresOf s = ms) : Keeps
    ms (execDivu d a b s) := by
  unfold execDivu
  simp [*]
@[simp] theorem cores_execRem (d : SReg) (a : SReg) (b : SReg) (s : State) (ms : Multiset Nat) (hm : coresOf s = ms) : Keeps
    ms (execRem d a b s) := by
  unfold execRem
  simp [*]
@[simp] theorem cores_execRemu (d : SReg) (a : SReg) (b : SReg) (s : State) (ms : Multiset Nat) (hm : coresOf s = ms) : Keeps
    ms (execRemu d a b s) := by
  unfold execRemu
  simp [*]
@[simp] theorem cores_execAnd (d : SReg) (a : SReg) (b : SReg) (s : State) (ms : Multiset Nat) (hm : coresOf s = ms) : Keeps
    ms (execAnd d a b s) := by
  unfold execAnd
  simp [*]
@[simp] theorem cores_execOr (d : SReg) (a : SReg) (b : SReg) (s : State) (ms : Multiset Nat) (hm : coresOf s = ms) : Keeps ms
    (execOr d a b s) := by
  unfold execOr
  simp [*]
@[simp] theorem cores_execXor (d : SReg) (a : SReg) (b : SReg) (s : State) (ms : Multiset Nat) (hm : coresOf s = ms) : Keeps
    ms (execXor d a b s) := by
  unfold execXor
  simp [*]
@[simp] theorem cores_execShl (d : SReg) (a : SReg) (b : SReg) (s : State) (ms : Multiset Nat) (hm : coresOf s = ms) : Keeps
    ms (execShl d a b s) := by
  unfold execShl
  simp [*]
@[simp] theorem cores_execShr (d : SReg) (a : SReg) (b : SReg) (s : State) (ms : Multiset Nat) (hm : coresOf s = ms) : Keeps
    ms (execShr d a b s) := by
  unfold execShr
  simp [*]
@[simp] theorem cores_execSra (d : SReg) (a : SReg) (b : SReg) (s : State) (ms : Multiset Nat) (hm : coresOf s = ms) : Keeps
    ms (execSra d a b s) := by
  unfold execSra
  simp [*]
@[simp] theorem cores_execSlt (d : SReg) (a : SReg) (b : SReg) (s : State) (ms : Multiset Nat) (hm : coresOf s = ms) : Keeps
    ms (execSlt d a b s) := by
  unfold execSlt
  simp [*]
@[simp] theorem cores_execSltu (d : SReg) (a : SReg) (b : SReg) (s : State) (ms : Multiset Nat) (hm : coresOf s = ms) : Keeps
    ms (execSltu d a b s) := by
  unfold execSltu
  simp [*]
@[simp] theorem cores_execMin (d : SReg) (a : SReg) (b : SReg) (s : State) (ms : Multiset Nat) (hm : coresOf s = ms) : Keeps
    ms (execMin d a b s) := by
  unfold execMin
  simp [*]
@[simp] theorem cores_execMax (d : SReg) (a : SReg) (b : SReg) (s : State) (ms : Multiset Nat) (hm : coresOf s = ms) : Keeps
    ms (execMax d a b s) := by
  unfold execMax
  simp [*]
@[simp] theorem cores_execMinu (d : SReg) (a : SReg) (b : SReg) (s : State) (ms : Multiset Nat) (hm : coresOf s = ms) : Keeps
    ms (execMinu d a b s) := by
  unfold execMinu
  simp [*]
@[simp] theorem cores_execMaxu (d : SReg) (a : SReg) (b : SReg) (s : State) (ms : Multiset Nat) (hm : coresOf s = ms) : Keeps
    ms (execMaxu d a b s) := by
  unfold execMaxu
  simp [*]
@[simp] theorem cores_execClz (d : SReg) (a : SReg) (s : State) (ms : Multiset Nat) (hm : coresOf s = ms) : Keeps ms (execClz
    d a s) := by
  unfold execClz
  simp [*]
@[simp] theorem cores_execCtz (d : SReg) (a : SReg) (s : State) (ms : Multiset Nat) (hm : coresOf s = ms) : Keeps ms (execCtz
    d a s) := by
  unfold execCtz
  simp [*]
@[simp] theorem cores_execPopc (d : SReg) (a : SReg) (s : State) (ms : Multiset Nat) (hm : coresOf s = ms) : Keeps ms
    (execPopc d a s) := by
  unfold execPopc
  simp [*]
@[simp] theorem cores_execAddi (d : SReg) (a : SReg) (i : BitVec 16) (s : State) (ms : Multiset Nat) (hm : coresOf s = ms) :
    Keeps ms (execAddi d a i s) := by
  unfold execAddi
  simp [*]
@[simp] theorem cores_execAndi (d : SReg) (a : SReg) (i : BitVec 16) (s : State) (ms : Multiset Nat) (hm : coresOf s = ms) :
    Keeps ms (execAndi d a i s) := by
  unfold execAndi
  simp [*]
@[simp] theorem cores_execOri (d : SReg) (a : SReg) (i : BitVec 16) (s : State) (ms : Multiset Nat) (hm : coresOf s = ms) :
    Keeps ms (execOri d a i s) := by
  unfold execOri
  simp [*]
@[simp] theorem cores_execXori (d : SReg) (a : SReg) (i : BitVec 16) (s : State) (ms : Multiset Nat) (hm : coresOf s = ms) :
    Keeps ms (execXori d a i s) := by
  unfold execXori
  simp [*]
@[simp] theorem cores_execSlti (d : SReg) (a : SReg) (i : BitVec 16) (s : State) (ms : Multiset Nat) (hm : coresOf s = ms) :
    Keeps ms (execSlti d a i s) := by
  unfold execSlti
  simp [*]
@[simp] theorem cores_execSltiu (d : SReg) (a : SReg) (i : BitVec 16) (s : State) (ms : Multiset Nat) (hm : coresOf s = ms) :
    Keeps ms (execSltiu d a i s) := by
  unfold execSltiu
  simp [*]
@[simp] theorem cores_execShli (d : SReg) (a : SReg) (n : Fin 64) (s : State) (ms : Multiset Nat) (hm : coresOf s = ms) :
    Keeps ms (execShli d a n s) := by
  unfold execShli
  simp [*]
@[simp] theorem cores_execShri (d : SReg) (a : SReg) (n : Fin 64) (s : State) (ms : Multiset Nat) (hm : coresOf s = ms) :
    Keeps ms (execShri d a n s) := by
  unfold execShri
  simp [*]
@[simp] theorem cores_execSrai (d : SReg) (a : SReg) (n : Fin 64) (s : State) (ms : Multiset Nat) (hm : coresOf s = ms) :
    Keeps ms (execSrai d a n s) := by
  unfold execSrai
  simp [*]
@[simp] theorem cores_execMovhi (d : SReg) (i : BitVec 16) (s : State) (ms : Multiset Nat) (hm : coresOf s = ms) : Keeps ms
    (execMovhi d i s) := by
  unfold execMovhi
  simp [*]
@[simp] theorem cores_execMovk (d : SReg) (h : Fin 4) (i : BitVec 16) (s : State) (ms : Multiset Nat) (hm : coresOf s = ms) :
    Keeps ms (execMovk d h i s) := by
  unfold execMovk
  simp [*]
@[simp] theorem cores_grant (s : State) (d : SReg) (req : Word) : coresOf (grant s d req) = coresOf s := by
  unfold grant
  simp [*]
@[simp] theorem cores_execVsetvl (d : SReg) (a : SReg) (s : State) (ms : Multiset Nat) (hm : coresOf s = ms) : Keeps ms
    (execVsetvl d a s) := by
  unfold execVsetvl
  simp [*]
@[simp] theorem cores_execVsetvt (d : SReg) (a : SReg) (i : BitVec 13) (s : State) (ms : Multiset Nat) (hm : coresOf s = ms) :
    Keeps ms (execVsetvt d a i s) := by
  unfold execVsetvt
  dsimp only
  repeat' (first | (simp [*]; done) | split)
@[simp] theorem cores_execVrcfg (n : Fin 4) (s : State) (ms : Multiset Nat) (hm : coresOf s = ms) : Keeps ms (execVrcfg n s)
    := by
  unfold execVrcfg
  simp [*]
@[simp] theorem cores_execVtag (d : VReg) (t : Fin 16) (s : State) (ms : Multiset Nat) (hm : coresOf s = ms) : Keeps ms
    (execVtag d t s) := by
  unfold execVtag
  repeat' (first | (simp (disch := (intros; first | assumption | (simp [*]; done) | (dsimp only; repeat' (first | (simp [*]; done) | split)))) [*]; done) | split)
@[simp] theorem cores_writeMask (s : State) (d : MReg) (v : ℕ) (ms : Multiset Nat) (hm : coresOf s = ms) : Keeps ms (writeMask
    s d v) := by
  unfold writeMask
  dsimp only
  repeat' (first | (simp [*]; done) | split)
@[simp] theorem cores_execMand (d : MReg) (a : MReg) (b : MReg) (s : State) (ms : Multiset Nat) (hm : coresOf s = ms) : Keeps
    ms (execMand d a b s) := by
  unfold execMand
  simp [*]
@[simp] theorem cores_execMor (d : MReg) (a : MReg) (b : MReg) (s : State) (ms : Multiset Nat) (hm : coresOf s = ms) : Keeps
    ms (execMor d a b s) := by
  unfold execMor
  simp [*]
@[simp] theorem cores_execMxor (d : MReg) (a : MReg) (b : MReg) (s : State) (ms : Multiset Nat) (hm : coresOf s = ms) : Keeps
    ms (execMxor d a b s) := by
  unfold execMxor
  simp [*]
@[simp] theorem cores_execMandn (d : MReg) (a : MReg) (b : MReg) (s : State) (ms : Multiset Nat) (hm : coresOf s = ms) : Keeps
    ms (execMandn d a b s) := by
  unfold execMandn
  simp [*]
@[simp] theorem cores_execMnot (d : MReg) (a : MReg) (s : State) (ms : Multiset Nat) (hm : coresOf s = ms) : Keeps ms
    (execMnot d a s) := by
  unfold execMnot
  simp [*]
@[simp] theorem cores_execMmov (d : MReg) (a : MReg) (s : State) (ms : Multiset Nat) (hm : coresOf s = ms) : Keeps ms
    (execMmov d a s) := by
  unfold execMmov
  simp [*]
@[simp] theorem cores_execMpopc (d : SReg) (a : MReg) (s : State) (ms : Multiset Nat) (hm : coresOf s = ms) : Keeps ms
    (execMpopc d a s) := by
  unfold execMpopc
  dsimp only
  repeat' (first | (simp [*]; done) | split)
@[simp] theorem cores_searchMask (s : State) (a : MReg) (k : State → Option ℕ → Out) (ms : Multiset Nat) (hm : coresOf s = ms)
    (h_k : ∀ y0 y1, coresOf y0 = ms → Keeps ms (k y0 y1)) : Keeps ms (searchMask s a k) := by
  unfold searchMask
  dsimp only
  repeat' (first | (simp [*]; done) | split)
@[simp] theorem cores_execMfirst (d : SReg) (a : MReg) (s : State) (ms : Multiset Nat) (hm : coresOf s = ms) : Keeps ms
    (execMfirst d a s) := by
  unfold execMfirst
  simp [*]
@[simp] theorem cores_execMsetvl (d : SReg) (a : MReg) (s : State) (ms : Multiset Nat) (hm : coresOf s = ms) : Keeps ms
    (execMsetvl d a s) := by
  unfold execMsetvl
  simp [*]
@[simp] theorem core_setCarry (h : Hart) (p : Partials) : (setCarry h p).core = h.core := by
  exact (Eq.refl _).trans rfl
@[simp] theorem cores_reduction (o : RedOp) (d : VReg) (a : VReg) (b : VReg) (m : MReg) (s : State) (ms : Multiset Nat) (hm :
    coresOf s = ms) : Keeps ms (reduction o d a b m s) := by
  unfold reduction
  dsimp only
  repeat' (first | (simp [*]; done) | split)
@[simp] theorem cores_execVredsum (d : VReg) (a : VReg) (b : VReg) (m : MReg) (s : State) (ms : Multiset Nat) (hm : coresOf s
    = ms) : Keeps ms (execVredsum d a b m s) := by
  unfold execVredsum
  simp [*]
@[simp] theorem cores_execVredmax (d : VReg) (a : VReg) (b : VReg) (m : MReg) (s : State) (ms : Multiset Nat) (hm : coresOf s
    = ms) : Keeps ms (execVredmax d a b m s) := by
  unfold execVredmax
  simp [*]
@[simp] theorem cores_execVredmaxU (d : VReg) (a : VReg) (b : VReg) (m : MReg) (s : State) (ms : Multiset Nat) (hm : coresOf s
    = ms) : Keeps ms (execVredmaxU d a b m s) := by
  unfold execVredmaxU
  simp [*]
@[simp] theorem cores_execVredmin (d : VReg) (a : VReg) (b : VReg) (m : MReg) (s : State) (ms : Multiset Nat) (hm : coresOf s
    = ms) : Keeps ms (execVredmin d a b m s) := by
  unfold execVredmin
  simp [*]
@[simp] theorem cores_execVredminU (d : VReg) (a : VReg) (b : VReg) (m : MReg) (s : State) (ms : Multiset Nat) (hm : coresOf s
    = ms) : Keeps ms (execVredminU d a b m s) := by
  unfold execVredminU
  simp [*]
@[simp] theorem cores_execLmark (d : SReg) (a : SReg) (b : SReg) (c : SReg) (s : State) (ms : Multiset Nat) (hm : coresOf s =
    ms) : Keeps ms (execLmark d a b c s) := by
  unfold execLmark
  dsimp only
  repeat' (first | (simp [*]; done) | split)
@[simp] theorem cores_observe (s : State) (x : Instr) : coresOf (observe s x) = coresOf s := by
  unfold observe
  dsimp only
  repeat' (first | (simp [*]; done) | split)
@[simp] theorem cores_recordWord (s : State) (x : Instr) : coresOf (recordWord s x) = coresOf s := by
  unfold recordWord
  dsimp only
  repeat' (first | (simp [*]; done) | split)
@[simp] theorem cores_closeIteration (s : State) (l : Loop) (pc : Word) : coresOf (closeIteration s l pc) = coresOf s := by
  unfold closeIteration
  dsimp only
  repeat' (first | (simp [*]; done) | split)
@[simp] theorem cores_execLnext (a : SReg) (o : BitVec 13) (s : State) (ms : Multiset Nat) (hm : coresOf s = ms) : Keeps ms
    (execLnext a o s) := by
  unfold execLnext
  dsimp only
  repeat' (first | (simp [*]; done) | split)
@[simp] theorem cores_yieldEngine (s : State) (k : ℕ) : coresOf (yieldEngine s k) = coresOf s := by
  unfold yieldEngine
  repeat' (first | (simp (disch := (intros; first | assumption | (simp [*]; done) | (dsimp only; repeat' (first | (simp [*]; done) | split)))) [*]; done) | split)
@[simp] theorem cores_confirmLoop (s : State) (core : ℕ) (l : Loop) : coresOf (confirmLoop s core l) = coresOf s := by
  unfold confirmLoop
  simp [*]
@[simp] theorem cores_execLoopVerdict (core : CoreId) (s : State) (ms : Multiset Nat) (hm : coresOf s = ms) : Keeps ms
    (execLoopVerdict core s) := by
  unfold execLoopVerdict
  dsimp only
  repeat' (first | (simp [*]; done) | split)
@[simp] theorem core_replayHart (h : Hart) (l : Loop) : (replayHart h l).core = h.core := by
  exact (Eq.refl _).trans rfl
@[simp] theorem cores_replayInstr (x : Instr) (s : State) (ms : Multiset Nat) (hm : coresOf s = ms) : Keeps ms (replayInstr x
    s) := by
  unfold replayInstr
  repeat' (first | (simp (disch := (intros; first | assumption | (simp [*]; done) | (dsimp only; repeat' (first | (simp [*]; done) | split)))) [*]; done) | split)
@[simp] theorem cores_replayIteration (s : State) (husk : Option ℕ) (h : Hart) (l : Loop) : coresOf
    (replayIteration s husk h l) = coresOf s := by
  unfold replayIteration
  extract_lets core t0
  split
  · exact cores_onPlace _ _ _ _ (fun h => rfl)
  · extract_lets l1 t1 t2
    have e : coresOf t2 = coresOf s := by
      simp only [t2, cores_setStope]
      rfl
    rw [← e]
    exact cores_onPlace _ _ _ _ (fun h => rfl)
@[simp] theorem cores_execReplayIteration (core : CoreId) (s : State) (ms : Multiset Nat) (hm : coresOf s = ms) : Keeps ms
    (execReplayIteration core s) := by
  unfold execReplayIteration
  rw [keeps_next]
  split
  · exact hm
  · extract_lets k
    split
    · exact hm
    · split
      · exact hm
      · split
        · rw [cores_replayIteration, hm]
        · split
          · exact hm
          · extract_lets s1
            have e1 : coresOf s1 = ms := by simp [s1, hm]
            rw [cores_closeGranule]
            split
            · rw [cores_replayIteration, e1]
            · exact e1
@[simp] theorem cores_execLoopStatusWrite (core : CoreId) (s : State) (ms : Multiset Nat) (hm : coresOf s = ms) : Keeps ms
    (execLoopStatusWrite core s) := by
  unfold execLoopStatusWrite
  extract_lets due
  rw [keeps_next]
  split
  · exact hm
  · dsimp only
    split
    · exact hm
    · have h1 : ∀ g l w, coresOf (onPlace s g core.val l) = coresOf w → True := fun _ _ _ _ => trivial
      split
      · rw [cores_onPlace _ _ _ _ (by intro g; repeat' (first | (simp; done) | split))]
        simp [hm]
      · rw [cores_wakePlace, cores_onPlace _ _ _ _ (by intro g; repeat' (first | (simp; done) | split))]
        simp [hm]
@[simp] theorem core_handBack (h : Hart) (l : Loop) : (handBack h l).core = h.core := by
  exact (Eq.refl _).trans rfl
@[simp] theorem cores_execLjoin (a : SReg) (o : BitVec 13) (s : State) (ms : Multiset Nat) (hm : coresOf s = ms) : Keeps ms
    (execLjoin a o s) := by
  unfold execLjoin
  dsimp only
  repeat' (first | (simp [*]; done) | split)
@[simp] theorem cores_execTshape (d : SReg) (a : SReg) (b : SReg) (c : SReg) (s : State) (ms : Multiset Nat) (hm : coresOf s =
    ms) : Keeps ms (execTshape d a b c s) := by
  unfold execTshape
  dsimp only
  repeat' (first | (simp [*]; done) | split)
@[simp] theorem cores_execMenter (s : State) (ms : Multiset Nat) (hm : coresOf s = ms) : Keeps ms (execMenter s) := by
  unfold execMenter
  dsimp only
  repeat' (first | (simp [*]; done) | split)
@[simp] theorem cores_threadTrap (s : State) (cause : ℕ) (topnd : Word) (ms : Multiset Nat) (hm : coresOf s = ms) : Keeps ms
    (threadTrap s cause topnd) := by
  unfold threadTrap
  repeat' (first | (simp (disch := (intros; first | assumption | (simp [*]; done) | (dsimp only; repeat' (first | (simp [*]; done) | split)))) [*]; done) | split)
@[simp] theorem cores_matrixOn (s : State) (k : Out) (ms : Multiset Nat) (hm : coresOf s = ms) (h_k : Keeps ms k) : Keeps ms
    (matrixOn s k) := by
  unfold matrixOn
  repeat' (first | (simp (disch := (intros; first | assumption | (simp [*]; done) | (dsimp only; repeat' (first | (simp [*]; done) | split)))) [*]; done) | split)
@[simp] theorem cores_execMleave (s : State) (ms : Multiset Nat) (hm : coresOf s = ms) : Keeps ms (execMleave s) := by
  unfold execMleave
  simp [*]
@[simp] theorem cores_matrixTile (s : State) (t : TileId) (k : Out) (ms : Multiset Nat) (hm : coresOf s = ms) (h_k : Keeps ms
    k) : Keeps ms (matrixTile s t k) := by
  unfold matrixTile
  repeat' (first | (simp (disch := (intros; first | assumption | (simp [*]; done) | (dsimp only; repeat' (first | (simp [*]; done) | split)))) [*]; done) | split)
@[simp] theorem cores_readsTile (s : State) (t : TileId) (reads : ℕ → ℕ → Bool) (k : Out) (ms : Multiset Nat) (hm : coresOf s = ms)
    (h_k : Keeps ms k) : Keeps ms (readsTile s t reads k) := by
  unfold readsTile
  split
  · exact cores_registerTrap _ _ _ _ hm
  · exact h_k
@[simp] theorem cores_outer (sub : Bool) (t : TileId) (a : VReg) (b : VReg) (mr : MReg) (mc : MReg) (s : State) (ms : Multiset
    Nat) (hm : coresOf s = ms) : Keeps ms (outer sub t a b mr mc s) := by
  unfold outer
  dsimp only
  repeat' (first | (simp (disch := (intros; first | assumption | (simp [*]; done) | (dsimp only; repeat' (first | (simp [*]; done) | split)))) [*]; done) | split)
@[simp] theorem cores_execMxadd (t : TileId) (a : VReg) (b : VReg) (r : MReg) (c : MReg) (s : State) (ms : Multiset Nat) (hm :
    coresOf s = ms) : Keeps ms (execMxadd t a b r c s) := by
  unfold execMxadd
  simp [*]
@[simp] theorem cores_execMxsub (t : TileId) (a : VReg) (b : VReg) (r : MReg) (c : MReg) (s : State) (ms : Multiset Nat) (hm :
    coresOf s = ms) : Keeps ms (execMxsub t a b r c s) := by
  unfold execMxsub
  simp [*]
@[simp] theorem cores_execMxsld (t : TileId) (a : VReg) (b : VReg) (r : MReg) (c : MReg) (k : Fin 64) (s : State) (ms :
    Multiset Nat) (hm : coresOf s = ms) : Keeps ms (execMxsld t a b r c k s) := by
  unfold execMxsld
  dsimp only
  repeat' (first | (simp (disch := (intros; first | assumption | (simp [*]; done) | (dsimp only; repeat' (first | (simp [*]; done) | split)))) [*]; done) | split)
@[simp] theorem cores_execMzero (t : TileId) (s : State) (ms : Multiset Nat) (hm : coresOf s = ms) : Keeps ms (execMzero t s)
    := by
  unfold execMzero
  simp [*]
@[simp] theorem cores_tileSlice (t : TileId) (d : VReg) (n : ℕ) (reads : ℕ → ℕ → Bool) (x : ℕ → ℕ) (s : State) (ms : Multiset Nat) (hm : coresOf s =
    ms) : Keeps ms (tileSlice t d n reads x s) := by
  unfold tileSlice
  dsimp only
  repeat' (first | (simp (disch := (intros; first | assumption | (simp [*]; done) | (dsimp only; repeat' (first | (simp [*]; done) | split)))) [*]; done) | split)
@[simp] theorem cores_execMrow (t : TileId) (d : VReg) (r : SReg) (s : State) (ms : Multiset Nat) (hm : coresOf s = ms) :
    Keeps ms (execMrow t d r s) := by
  unfold execMrow
  simp [*]
@[simp] theorem cores_execMcol (t : TileId) (d : VReg) (r : SReg) (s : State) (ms : Multiset Nat) (hm : coresOf s = ms) :
    Keeps ms (execMcol t d r s) := by
  unfold execMcol
  simp [*]
@[simp] theorem cores_execMwrow (t : TileId) (a : VReg) (r : SReg) (s : State) (ms : Multiset Nat) (hm : coresOf s = ms) :
    Keeps ms (execMwrow t a r s) := by
  unfold execMwrow
  simp [*]
@[simp] theorem cores_tileFinish (s : State) (f : Form) (np : ℕ) (bound : ℕ) (t : Option (ℕ × AccessTrap)) (stop : Option ℕ)
    (ms : Multiset Nat) (hm : coresOf s = ms) : Keeps ms (tileFinish s f np bound t stop) := by
  unfold tileFinish
  dsimp only
  repeat' (first | (simp [*]; done) | split)
@[simp] theorem cores_tileAccess (s : State) (f : Form) (a : SReg) (r : SReg) (k : State → List (ℕ × List Place) → State) (ms
    : Multiset Nat) (hm : coresOf s = ms) (h_k : ∀ y0 y1, coresOf y0 = ms → coresOf (k y0 y1) = ms) : Keeps ms (tileAccess s f
    a r k) := by
  unfold tileAccess
  dsimp only
  repeat' (first | (simp [*]; done) | split)
@[simp] theorem cores_markTile (s : State) (f : Form) (va : Word) : coresOf (markTile s f va).2 = coresOf s := by
  unfold markTile
  simp [*]
@[simp] theorem cores_execMldt (t : TileId) (a : SReg) (r : SReg) (s : State) (ms : Multiset Nat) (hm : coresOf s = ms) :
    Keeps ms (execMldt t a r s) := by
  unfold execMldt
  simp (disch := (intros; first | assumption | (simp [*]; done) | (dsimp only; repeat' (first | (simp [*]; done) | split)))) [*]
@[simp] theorem cores_execMstt (t : TileId) (a : SReg) (r : SReg) (s : State) (ms : Multiset Nat) (hm : coresOf s = ms) :
    Keeps ms (execMstt t a r s) := by
  unfold execMstt
  dsimp only
  repeat' (first | (simp (disch := (intros; first | assumption | (simp (disch := (intros; first | assumption | (simp [*]; done) | (dsimp only; repeat' (first | (simp [*]; done) | split)))) [*]; done) | (dsimp only; repeat' (first | (simp (disch := (intros; first | assumption | (simp [*]; done) | (dsimp only; repeat' (first | (simp [*]; done) | split)))) [*]; done) | split)))) [*]; done) | split)
@[simp] theorem cores_narrowRead (s : State) (e : ℕ) (ps : List Place) (n : ℕ) : coresOf (narrowRead s e ps n).2 = coresOf s
    := by
  unfold narrowRead
  split <;> simp
@[simp] theorem cores_narrowElems (s : State) (f : Fmt) (fm : Form) (pieces : ℕ → List Piece) (r t : ℕ) (scaled_ : Bool)
    (scale : Option (ℕ × ℕ)) (els : List (ℕ × List Place)) :
    coresOf (narrowElems s f fm pieces r t scaled_ scale els).state = coresOf s := by
  induction els generalizing s scale with
  | nil => rfl
  | cons x els ih =>
    unfold narrowElems
    extract_lets s1 sp spot d b v y
    have eb : coresOf b.2 = coresOf s := by
      simp only [b]
      split
      · split <;> simp [d, s1]
      · simp [d, s1]
      · simp [d, s1]
    split
    · exact eb
    · rw [ih, coresOf_putHart _ _ (by simp <;> rfl), eb]

@[simp] theorem cores_narrowLoad (s : State) (f : Fmt) (g : DTag) (t : VReg) (b : SReg) (sc : SReg) (stride : Option SReg) (m
    : MReg) (ms : Multiset Nat) (hm : coresOf s = ms) : Keeps ms (narrowLoad s f g t b sc stride m) := by
  unfold narrowLoad
  extract_lets h tag n scaled_ base st fm pieces
  split
  · simp [hm]
  · refine cores_checkRegs _ _ _ _ hm ?_
    split
    · simp [hm]
    · split
      · simp [hm]
      · split
        · simp [hm]
        · refine cores_vecAccess _ _ _ _ _ _ hm (fun s1 p h1 => ?_)
          extract_lets h1' w s2
          have e2 : coresOf s2 = ms := by
            simp only [s2, w]
            rw [cores_narrowElems, ← h1]
            exact coresOf_putHart _ _ (by simp [h1'])
          split
          · split
            · rw [keeps_next, cores_startedTrap, ← e2]
              exact coresOf_putHart _ _ (by simp)
            · exact cores_finish _ _ _ _ _ ((coresOf_putHart _ _ (by simp)).trans e2)
          · exact cores_finish _ _ _ _ _ ((coresOf_putHart _ _ (by simp)).trans e2)
@[simp] theorem cores_execVldn (t : VReg) (b : SReg) (sc : SReg) (m : MReg) (f : Fmt) (g : DTag) (s : State) (ms : Multiset
    Nat) (hm : coresOf s = ms) : Keeps ms (execVldn t b sc m f g s) := by
  unfold execVldn
  simp [*]
@[simp] theorem cores_execVldns (t : VReg) (b : SReg) (sc : SReg) (r : SReg) (f : Fmt) (g : DTag) (s : State) (ms : Multiset
    Nat) (hm : coresOf s = ms) : Keeps ms (execVldns t b sc r f g s) := by
  unfold execVldns
  simp [*]
@[simp] theorem cores_sendNarrow (s : State) (f : Fmt) (e : ℕ) (code : ℕ) (ps : List Place) (es : List (ℕ × Bool)) : coresOf
    (sendNarrow s f e code ps es) = coresOf s := by
  unfold sendNarrow
  dsimp only
  repeat' (first | (simp [*]; done) | split)
@[simp] theorem cores_storeBlocks (s : State) (f : Fmt) (r : NRound) (fm : Form) (pieces : ℕ → List Piece) (vt t : ℕ)
    (scaled_ : Bool) (act : ℕ → Bool) (n : ℕ) (els : List (ℕ × List Place)) (j k : ℕ) :
    coresOf (storeBlocks s f r fm pieces vt t scaled_ act n els j k).state = coresOf s := by
  induction k generalizing s j with
  | zero => rfl
  | succ k ih => unfold storeBlocks; dsimp only; repeat' (first | (simp [*]; done) | split)

@[simp] theorem cores_execVstn (t : VReg) (b : SReg) (sc : SReg) (m : MReg) (f : Fmt) (r : NRound) (s : State) (ms : Multiset
    Nat) (hm : coresOf s = ms) : Keeps ms (execVstn t b sc m f r s) := by
  unfold execVstn
  dsimp only
  refine cores_checkRegs _ _ _ _ hm ?_
  split
  · simp [hm]
  · split
    · simp [hm]
    · refine cores_vecAccess _ _ _ _ _ _ hm ?_
      intro s1 p h1
      repeat' (first | (simp [*]; done) | split)
@[simp] theorem cores_execStoreBufferDrain (core : CoreId) (s : State) (ms : Multiset Nat) (hm : coresOf s = ms) : Keeps ms
    (execStoreBufferDrain core s) := by
  unfold execStoreBufferDrain
  simp [*]
@[simp] theorem cores_execPacketArrival (k : ℕ) (s : State) (ms : Multiset Nat) (hm : coresOf s = ms) : Keeps ms
    (execPacketArrival k s) := by
  unfold execPacketArrival
  repeat' (first | (simp (disch := (intros; first | assumption | (simp [*]; done) | (dsimp only; repeat' (first | (simp [*]; done) | split)))) [*]; done) | split)
@[simp] theorem cores_execBlockSuspect (r : RouterId) (s : State) (ms : Multiset Nat) (hm : coresOf s = ms) : Keeps ms
    (execBlockSuspect r s) := by
  unfold execBlockSuspect
  dsimp only
  repeat' (first | (simp [*]; done) | split)
@[simp] theorem cores_advancePacket (s : State) (id : ℕ) : coresOf (advancePacket s id) = coresOf s := by
  exact (Eq.refl _).trans rfl
@[simp] theorem cores_execLampHop (s : State) (ms : Multiset Nat) (hm : coresOf s = ms) : Keeps ms (execLampHop s) := by
  unfold execLampHop
  dsimp only
  repeat' (first | (simp [*]; done) | split)
@[simp] theorem cores_execRecoveryBufferAccept (s : State) (ms : Multiset Nat) (hm : coresOf s = ms) : Keeps ms
    (execRecoveryBufferAccept s) := by
  unfold execRecoveryBufferAccept
  dsimp only
  repeat' (first | (simp [*]; done) | split)
@[simp] theorem cores_execLampRelease (s : State) (ms : Multiset Nat) (hm : coresOf s = ms) : Keeps ms (execLampRelease s) := by
  unfold execLampRelease
  repeat' (first | (simp (disch := (intros; first | assumption | (simp [*]; done) | (dsimp only; repeat' (first | (simp [*]; done) | split)))) [*]; done) | split)
@[simp] theorem cores_execRecoveryBufferDrain (k : ℕ) (s : State) (ms : Multiset Nat) (hm : coresOf s = ms) : Keeps ms
    (execRecoveryBufferDrain k s) := by
  unfold execRecoveryBufferDrain
  repeat' (first | (simp (disch := (intros; first | assumption | (simp [*]; done) | (dsimp only; repeat' (first | (simp [*]; done) | split)))) [*]; done) | split)
@[simp] theorem cores_execLampRegenerate (s : State) (ms : Multiset Nat) (hm : coresOf s = ms) : Keeps ms (execLampRegenerate
    s) := by
  unfold execLampRegenerate
  repeat' (first | (simp (disch := (intros; first | assumption | (simp [*]; done) | (dsimp only; repeat' (first | (simp [*]; done) | split)))) [*]; done) | split)
@[simp] theorem cores_execNetctlWrite (v : Word) (s : State) (ms : Multiset Nat) (hm : coresOf s = ms) : Keeps ms
    (execNetctlWrite v s) := by
  unfold execNetctlWrite
  repeat' (first | (simp (disch := (intros; first | assumption | (simp [*]; done) | (dsimp only; repeat' (first | (simp [*]; done) | split)))) [*]; done) | split)
@[simp] theorem cores_execFadd (d : SReg) (a : SReg) (b : SReg) (s : State) (ms : Multiset Nat) (hm : coresOf s = ms) : Keeps
    ms (execFadd d a b s) := by
  unfold execFadd
  simp [*]
@[simp] theorem cores_execFsub (d : SReg) (a : SReg) (b : SReg) (s : State) (ms : Multiset Nat) (hm : coresOf s = ms) : Keeps
    ms (execFsub d a b s) := by
  unfold execFsub
  simp [*]
@[simp] theorem cores_execFmul (d : SReg) (a : SReg) (b : SReg) (s : State) (ms : Multiset Nat) (hm : coresOf s = ms) : Keeps
    ms (execFmul d a b s) := by
  unfold execFmul
  simp [*]
@[simp] theorem cores_execFfma (d : SReg) (a : SReg) (b : SReg) (c : SReg) (s : State) (ms : Multiset Nat) (hm : coresOf s =
    ms) : Keeps ms (execFfma d a b c s) := by
  unfold execFfma
  simp [*]
@[simp] theorem cores_execFdiv (d : SReg) (a : SReg) (b : SReg) (s : State) (ms : Multiset Nat) (hm : coresOf s = ms) : Keeps
    ms (execFdiv d a b s) := by
  unfold execFdiv
  simp [*]
@[simp] theorem cores_execFsqrt (d : SReg) (a : SReg) (s : State) (ms : Multiset Nat) (hm : coresOf s = ms) : Keeps ms
    (execFsqrt d a s) := by
  unfold execFsqrt
  simp [*]
@[simp] theorem cores_execFmin (d : SReg) (a : SReg) (b : SReg) (s : State) (ms : Multiset Nat) (hm : coresOf s = ms) : Keeps
    ms (execFmin d a b s) := by
  unfold execFmin
  simp [*]
@[simp] theorem cores_execFmax (d : SReg) (a : SReg) (b : SReg) (s : State) (ms : Multiset Nat) (hm : coresOf s = ms) : Keeps
    ms (execFmax d a b s) := by
  unfold execFmax
  simp [*]
@[simp] theorem cores_execFcmp (d : SReg) (a : SReg) (b : SReg) (c : Cond) (s : State) (ms : Multiset Nat) (hm : coresOf s =
    ms) : Keeps ms (execFcmp d a b c s) := by
  unfold execFcmp
  simp [*]
@[simp] theorem cores_execFcvtIF (d : SReg) (a : SReg) (s : State) (ms : Multiset Nat) (hm : coresOf s = ms) : Keeps ms
    (execFcvtIF d a s) := by
  unfold execFcvtIF
  simp [*]
@[simp] theorem cores_execFcvtIuF (d : SReg) (a : SReg) (s : State) (ms : Multiset Nat) (hm : coresOf s = ms) : Keeps ms
    (execFcvtIuF d a s) := by
  unfold execFcvtIuF
  simp [*]
@[simp] theorem cores_execFcvtFI (d : SReg) (a : SReg) (s : State) (ms : Multiset Nat) (hm : coresOf s = ms) : Keeps ms
    (execFcvtFI d a s) := by
  unfold execFcvtFI
  simp [*]
@[simp] theorem cores_execFcvtFIu (d : SReg) (a : SReg) (s : State) (ms : Multiset Nat) (hm : coresOf s = ms) : Keeps ms
    (execFcvtFIu d a s) := by
  unfold execFcvtFIu
  simp [*]
@[simp] theorem cores_execFcvtBfF (d : SReg) (a : SReg) (s : State) (ms : Multiset Nat) (hm : coresOf s = ms) : Keeps ms
    (execFcvtBfF d a s) := by
  unfold execFcvtBfF
  simp [*]
@[simp] theorem cores_execFcvtFBf (d : SReg) (a : SReg) (s : State) (ms : Multiset Nat) (hm : coresOf s = ms) : Keeps ms
    (execFcvtFBf d a s) := by
  unfold execFcvtFBf
  simp [*]
@[simp] theorem cores_vamoElem (o : VamoOp) (s : State) (r : ℕ) (t : ℕ) (e : ℕ) (p : Place) (entries : List (ℕ × Bool)) :
    coresOf (vamoElem o s r t e p entries) = coresOf s := by
  unfold vamoElem
  dsimp only
  repeat' (first | (simp [*]; done) | split)
@[simp] theorem cores_vamo (o : VamoOp) (t : VReg) (b : SReg) (i : VReg) (m : MReg) (s : State) (ms : Multiset Nat) (hm :
    coresOf s = ms) : Keeps ms (vamo o t b i m s) := by
  unfold vamo
  extract_lets h tt
  refine cores_checkRegs _ _ _ _ hm ?_
  split
  · simp [hm]
  · split
    · simp [hm]
    · split
      · simp [hm]
      · dsimp only
        refine cores_vecAccess _ _ _ _ _ _ hm (fun s1 p h1 => ?_)
        refine cores_finish _ _ _ _ _ ?_
        refine Eq.trans (coresOf_putHart { (_ : State) with fresh := _ } _ (by simp)) ?_
        exact Eq.trans (coresOf_foldl _ (fun s x => by simp) _ _) h1
@[simp] theorem cores_execVamoadd (t : VReg) (b : SReg) (i : VReg) (m : MReg) (s : State) (ms : Multiset Nat) (hm : coresOf s
    = ms) : Keeps ms (execVamoadd t b i m s) := by
  unfold execVamoadd
  simp [*]
@[simp] theorem cores_execVamomax (t : VReg) (b : SReg) (i : VReg) (m : MReg) (s : State) (ms : Multiset Nat) (hm : coresOf s
    = ms) : Keeps ms (execVamomax t b i m s) := by
  unfold execVamomax
  simp [*]
@[simp] theorem cores_execVamomaxU (t : VReg) (b : SReg) (i : VReg) (m : MReg) (s : State) (ms : Multiset Nat) (hm : coresOf s
    = ms) : Keeps ms (execVamomaxU t b i m s) := by
  unfold execVamomaxU
  simp [*]
@[simp] theorem cores_execVamomin (t : VReg) (b : SReg) (i : VReg) (m : MReg) (s : State) (ms : Multiset Nat) (hm : coresOf s
    = ms) : Keeps ms (execVamomin t b i m s) := by
  unfold execVamomin
  simp [*]
@[simp] theorem cores_execVamominU (t : VReg) (b : SReg) (i : VReg) (m : MReg) (s : State) (ms : Multiset Nat) (hm : coresOf s
    = ms) : Keeps ms (execVamominU t b i m s) := by
  unfold execVamominU
  simp [*]
@[simp] theorem cores_execFenceSv (s : State) (ms : Multiset Nat) (hm : coresOf s = ms) : Keeps ms (execFenceSv s) := by
  unfold execFenceSv
  dsimp only
  repeat' (first | (simp [*]; done) | split)
@[simp] theorem cores_execFenceVs (s : State) (ms : Multiset Nat) (hm : coresOf s = ms) : Keeps ms (execFenceVs s) := by
  unfold execFenceVs
  simp [*]
@[simp] theorem cores_execFenceVv (s : State) (ms : Multiset Nat) (hm : coresOf s = ms) : Keeps ms (execFenceVv s) := by
  unfold execFenceVv
  simp [*]
@[simp] theorem cores_execLsync (s : State) (ms : Multiset Nat) (hm : coresOf s = ms) : Keeps ms (execLsync s) := by
  unfold execLsync
  simp [*]
@[simp] theorem cores_fetch (s : State) (cache : ℕ) (va : Word) : coresOf (fetch s cache va).2 = coresOf s := by
  unfold fetch
  dsimp only
  repeat' (first | (simp [*]; done) | split)
@[simp] theorem core_vfProgress (h : Hart) (ds : List ℕ) (ms : List ℕ) (vps : List Vp) (n : ℕ) : (vfProgress h ds ms vps
    n).core = h.core := by
  unfold vfProgress
  split
  · rw [core_foldl _ (fun h m => by simp), core_foldl _ (fun h m => by simp)]
  · dsimp only
    rw [core_foldl _ (fun h m => by simp), core_foldl _ (fun h m => by simp)]
@[simp] theorem cores_takeBlock (s : State) (c : Nat) (va : Word) (len : Nat) (k : Block) :
    coresOf (takeBlock s c va len k).state = coresOf s := by
  induction len generalizing s va k with
  | zero => rfl
  | succ n ih =>
    unfold takeBlock
    extract_lets r tags
    have e : coresOf r.2 = coresOf s := by simp [r]
    split
    · dsimp only
      split
      · split
        · exact e
        · split
          · rw [ih, coresOf_putHart _ _ (by simp <;> rfl), e]
          · rw [ih, e]
          · rw [ih, e]
      · rw [ih, e]
    · rw [ih, e]

@[simp] theorem cores_takeBlocks (s : State) (va : Word) (len : Nat) (cs : List Nat) (k : BlockSet) :
    coresOf (takeBlocks s va len cs k).state = coresOf k.state := by
  induction cs generalizing k with
  | nil => rfl
  | cons c cs ih =>
    unfold takeBlocks
    have e : ∀ u : State, coresOf u = coresOf k.state →
        coresOf (takeBlock u c va len ⟨u, [], [], [], none⟩).state = coresOf k.state := fun u h => (cores_takeBlock ..).trans h
    dsimp only
    split
    · exact e _ rfl
    · rw [ih]
      exact e _ rfl

@[simp] theorem cores_execVf (m : MReg) (l : Fin 16) (o : BitVec 19) (s : State) (ms : Multiset Nat) (hm : coresOf s = ms) :
    Keeps ms (execVf m l o s) := by
  unfold execVf
  split
  · simp [hm]
  · extract_lets h n b es cs k
    have e : coresOf k.state = ms := by simp only [k]; rw [cores_takeBlocks, hm]
    split
    · exact cores_vecTrapAt _ _ _ _ _ ((coresOf_putHart _ _ rfl).trans e)
    · rw [keeps_next, cores_advance, ← e]
      exact coresOf_putHart _ _ (core_vfProgress ..)
@[simp] theorem cores_execVpjoin (s : State) (ms : Multiset Nat) (hm : coresOf s = ms) : Keeps ms (execVpjoin s) := by
  unfold execVpjoin
  repeat' (first | (simp (disch := (intros; first | assumption | (simp [*]; done) | (dsimp only; repeat' (first | (simp [*]; done) | split)))) [*]; done) | split)
@[simp] theorem cores_putVp (s : State) (e : ℕ) (v : Option Vp) : coresOf (putVp s e v) = coresOf s := by
  unfold putVp
  dsimp only
  repeat' (first | (simp [*]; done) | split)
@[simp] theorem cores_finishVp (s : State) (v : Vp) : coresOf (finishVp s v) = coresOf s := by
  unfold finishVp
  dsimp only
  repeat' (first | (simp [*]; done) | split)
@[simp] theorem cores_execVpf (_l : Fin 16) (o : BitVec 19) (s : State) (ms : Multiset Nat) (hm : coresOf s = ms) : Keeps ms
    (execVpf _l o s) := by
  unfold execVpf
  repeat' (first | (simp (disch := (intros; first | assumption | (simp [*]; done) | (dsimp only; repeat' (first | (simp [*]; done) | split)))) [*]; done) | split)
@[simp] theorem cores_execVpstop (s : State) (ms : Multiset Nat) (hm : coresOf s = ms) : Keeps ms (execVpstop s) := by
  unfold execVpstop
  repeat' (first | (simp (disch := (intros; first | assumption | (simp [*]; done) | (dsimp only; repeat' (first | (simp [*]; done) | split)))) [*]; done) | split)
@[simp] theorem cores_vpTrap (s : State) (r : VfRun) (v : Vp) (ir : BitVec 32) (cause : ℕ) (tval : Word) (topnd : Word) (flags
    : ℕ) : coresOf (vpTrap s r v ir cause tval topnd flags) = coresOf s := by
  unfold vpTrap
  dsimp only
  repeat' (first | (simp (disch := (intros; first | assumption | (simp [*]; done) | (dsimp only; repeat' (first | (simp [*]; done) | split)))) [*]; done) | split)
@[simp] theorem cores_nextWord (s : State) (r : VfRun) (v : Vp) : coresOf (nextWord s r v) = coresOf s := by
  unfold nextWord
  repeat' (first | (simp (disch := (intros; first | assumption | (simp [*]; done) | (dsimp only; repeat' (first | (simp [*]; done) | split)))) [*]; done) | split)
@[simp] theorem cores_underVf (s : State) (r : VfRun) (tags : Vector (BitVec 4) 64) : coresOf (underVf s r tags) = coresOf s
    := by
  exact (Eq.refl _).trans rfl
@[simp] theorem cores_backFromVf (s t : State) : coresOf (backFromVf s t) = coresOf t := (Eq.refl _).trans rfl

@[simp] theorem cores_countVp (s : State) (v : Vp) : coresOf (countVp s v) = coresOf s := by
  unfold countVp
  split <;> simp
@[simp] theorem cores_vpRegister (s : State) (r : VfRun) (v : Vp) (ir : BitVec 32) (top : Word) :
    coresOf (vpRegister s r v ir top) = coresOf s := by
  unfold vpRegister
  simp
@[simp] theorem cores_clearElem (s : State) (b : Bool) (r : ℕ) (n : Bool) (e : ℕ) : coresOf (clearElem s b r n e) = coresOf s := rfl
@[simp] theorem cores_acquireBits (s : State) (ms : List MReg) (f : ℕ → Bool) : coresOf (acquireBits s ms f) = coresOf s := by
  unfold acquireBits
  split <;> rfl
@[simp] theorem cores_vpElem (s : State) (r : VfRun) (v : Vp) (tags : Vector (BitVec 4) 64) (ir : BitVec 32) (w : ElemWord) :
    coresOf (vpElem s r v tags ir w) = coresOf s := by
  unfold vpElem
  extract_lets s1
  have e1 : coresOf s1 = coresOf s := cores_acquireBits _ _ _
  rw [← e1]
  clear_value s1
  repeat' (first | (simp +zetaDelta; done) | split)
@[simp] theorem cores_vpAccess (s : State) (r : VfRun) (v : Vp) (tags : Vector (BitVec 4) 64) (ir : BitVec 32) (t : VReg) (b :
    SReg) (i : VReg) (m : MReg) (wr : Bool) : coresOf (vpAccess s r v tags ir t b i m wr) = coresOf s := by
  unfold vpAccess
  extract_lets s1
  have e1 : coresOf s1 = coresOf s := cores_acquireBits _ _ _
  rw [← e1]
  clear_value s1
  repeat' (first | (simp +zetaDelta; done) | split)
@[simp] theorem cores_vpOther (s : State) (r : VfRun) (v : Vp) (tags : Vector (BitVec 4) 64) (ir : BitVec 32) (w : Option
    ElemWord) : coresOf (vpOther s r v tags ir w) = coresOf s := by
  unfold vpOther
  split <;> simp
@[simp] theorem cores_withDest (s u : State) (i : Instr) : coresOf (withDest s u i) = coresOf s := by
  unfold withDest
  split
  · rfl
  · dsimp only
    split
    · rfl
    · exact coresOf_putHart s _ (by simp)
@[simp] theorem cores_vpExec (s : State) (r : VfRun) (v : Vp) (ir : BitVec 32) (tags : Vector (BitVec 4) 64) (checked : Bool)
    (i : Instr) (ms : Multiset Nat) (hm : coresOf s = ms) : Keeps ms (vpExec s r v ir tags checked i) := by
  unfold vpExec
  extract_lets u s1
  split
  · simp [hm]
  · split
    · simp [hm]
    · have e1 : coresOf s1 = ms := by simp only [s1]; split <;> simp [hm]
      split
      · exact cores_execVpf _ _ _ _ e1
      · exact cores_execVpstop _ _ e1
      · rw [keeps_next, cores_vpAccess, e1]
      · rw [keeps_next, cores_vpAccess, e1]
      · rw [keeps_next, cores_vpOther, e1]
@[simp] theorem cores_vpWord (s : State) (r : VfRun) (v : Vp) (ir : BitVec 32) (tags : Vector (BitVec 4) 64) (checked : Bool)
    (ms : Multiset Nat) (hm : coresOf s = ms) : Keeps ms (vpWord s r v ir tags checked) := by
  unfold vpWord
  dsimp only
  repeat' (first | (simp [*]; done) | split)
@[simp] theorem cores_vpFetch (s : State) (r : VfRun) (v : Vp) (ms : Multiset Nat) (hm : coresOf s = ms) : Keeps ms (vpFetch s
    r v) := by
  unfold vpFetch
  dsimp only
  repeat' (first | (simp [*]; done) | split)
@[simp] theorem cores_vpStep (s : State) (r : VfRun) (v : Vp) (ms : Multiset Nat) (hm : coresOf s = ms) : Keeps ms (vpStep s r
    v) := by
  unfold vpStep
  dsimp only
  split
  · next t ht =>
    rw [keeps_next]
    refine Eq.trans (b := coresOf t) (by simp) ?_
    split at ht
    · exact cores_vpWord _ _ _ _ _ _ ms (by simp [hm]) t ht
    · exact cores_vpFetch _ _ _ ms (by simp [hm]) t ht
  · next ht => exact fun t h => absurd h (ht t)
@[simp] theorem cores_vfStep (s : State) (lane : Option ℕ) (ms : Multiset Nat) (hm : coresOf s = ms) : Keeps ms (vfStep s
    lane) := by
  unfold vfStep
  repeat' (first | (simp (disch := (intros; first | assumption | (simp [*]; done) | (dsimp only; repeat' (first | (simp [*]; done) | split)))) [*]; done) | split)
@[simp] theorem cores_clearWritten (h : Hart) (s : State) (x : Instr) : coresOf (clearWritten h s x) = coresOf s := by
  unfold clearWritten
  split <;> rfl
@[simp] theorem cores_acquireChunks (s : State) (x : Instr) (n : ℕ) : coresOf (acquireChunks s x n) = coresOf s := by
  unfold acquireChunks
  simp
@[simp] theorem cores_acquireAll (s : State) (cs : List ℕ) (x : Instr) : coresOf (acquireAll s cs x) = coresOf s := by
  unfold acquireAll
  split
  · rfl
  · exact coresOf_foldl _ (fun s c => by simp) _ _
@[simp] theorem cores_acquired (s t : State) (x : Instr) : coresOf (acquired s t x) = coresOf t := by
  unfold acquired
  dsimp only
  repeat' (first | rfl | split)
@[simp] theorem cores_respan (s : State) (n : ℕ) (x : Instr) : coresOf (respan s n x) = coresOf s := by
  unfold respan
  split <;> rfl
@[simp] theorem cores_respanAll (s : State) (ws : List (ℕ × Held × Option Checkpoint)) (x : Instr) :
    coresOf (respanAll s ws x) = coresOf s := by
  unfold respanAll
  refine coresOf_foldl _ (fun s w => ?_) _ _
  split <;> simp
@[simp] theorem cores_evenNumbers (s : State) (cs : List ℕ) : coresOf (evenNumbers s cs) = coresOf s := by
  unfold evenNumbers
  dsimp only
  split
  · rfl
  · refine coresOf_foldl _ (fun s w => ?_) _ _
    split
    · rfl
    · exact coresOf_onCore _ _ _ (fun g => by simp)
@[simp] theorem core_countElements (h g : Hart) (x : Instr) : (countElements h g x).core = g.core := by
  unfold countElements
  split
  · rfl
  · exact core_foldl _ (fun h n => by simp) _ _
@[simp] theorem cores_countCompleted (h : Hart) (s : State) (x : Instr) : coresOf (countCompleted h s x) = coresOf s := by
  unfold countCompleted
  repeat' (first | (simp (disch := (intros; first | assumption | (simp [*]; done) | (dsimp only; repeat' (first | (simp [*]; done) | split)))) [*]; done) | split)
@[simp] theorem cores_complete (h : Hart) (s : State) (x : Instr) : coresOf (complete h s x) = coresOf s := by
  unfold complete
  simp [*]
@[simp] theorem cores_joinConvoy (s : State) (x : Instr) : coresOf (joinConvoy s x) = coresOf s := by
  unfold joinConvoy
  repeat' (first | (simp (disch := (intros; first | assumption | (simp [*]; done) | (dsimp only; repeat' (first | (simp [*]; done) | split)))) [*]; done) | split)
@[simp] theorem cores_pushQueue (s : State) (x : Instr) (g : Hart) : coresOf (pushQueue s x g) = coresOf s := by
  unfold pushQueue
  dsimp only
  repeat' (first | (simp [*]; done) | split)
@[simp] theorem cores_enterQueue (s : State) (x : Instr) : coresOf (enterQueue s x) = coresOf s := by
  unfold enterQueue
  repeat' (first | (simp (disch := (intros; first | assumption | (simp [*]; done) | (dsimp only; repeat' (first | (simp [*]; done) | split)))) [*]; done) | split)
@[simp] theorem core_underTypes (h : Hart) (d : Held) : (underTypes h d).core = h.core := by
  exact (Eq.refl _).trans rfl
@[simp] theorem core_noFlags (h : Hart) : (noFlags h).core = h.core := by
  exact (Eq.refl _).trans rfl
@[simp] theorem core_underWork (h : Hart) (d : Held) (b : Option Checkpoint) (sw : Option SReg) (stop : Option ℕ) : (underWork
    h d b sw stop).core = h.core := by
  exact (Eq.refl _).trans rfl
@[simp] theorem core_joinFlags (h : Hart) (fl : ℕ) : (joinFlags h fl).core = h.core := by
  exact (Eq.refl _).trans rfl
@[simp] theorem core_endStall (h : Hart) : (endStall h).core = h.core := by
  unfold endStall
  repeat' (first | (simp (disch := (intros; first | assumption | (simp [*]; done) | (dsimp only; repeat' (first | (simp [*]; done) | split)))) [*]; done) | split)
@[simp] theorem cores_keepFlags (t : State) (h : Hart) : coresOf (keepFlags t h) = coresOf t := by
  exact (Eq.refl _).trans rfl
@[simp] theorem core_enterTrap (h g : Hart) : (enterTrap h g).core = h.core := by
  unfold enterTrap
  dsimp only
  rw [core_declineLoop, core_endStall, core_rollbackHart]

@[simp] theorem core_backTo (h g : Hart) (sw : Option SReg) (d : Option Held) : (backTo h g sw d).core = g.core := by
  unfold backTo
  dsimp only
  repeat' (first | (simp; done) | split)

@[simp] theorem cores_putTrap (t : State) (k : Hart) (g : Hart) : coresOf (putTrap t k g) = coresOf t := by
  unfold putTrap
  rw [coresOf_focus, cores_closeConvoy, coresOf_focus, coresOf_onCore_to _ _ _ (fun x hx => by rw [hx, core_enterTrap])]
@[simp] theorem cores_clearTogether (s : State) (ws : List (ℕ × Held × Option Checkpoint)) : coresOf (clearTogether s ws) =
    coresOf s := by
  unfold clearTogether
  refine coresOf_foldl _ (fun s w => ?_) _ _
  split
  · exact coresOf_onCore _ _ _ (fun g => by simp)
  · rfl
@[simp] theorem cores_startVector (s : State) (x : Instr) : coresOf (startVector s x) = coresOf s := by
  unfold startVector
  dsimp only
  repeat' (first | (simp [*]; done) | split)
@[simp] theorem cores_decodeTrap (s : State) (cause : ℕ) (ms : Multiset Nat) (hm : coresOf s = ms) : Keeps ms (decodeTrap s
    cause) := by
  unfold decodeTrap
  repeat' (first | (simp (disch := (intros; first | assumption | (simp [*]; done) | (dsimp only; repeat' (first | (simp [*]; done) | split)))) [*]; done) | split)
@[simp] theorem cores_withWord (s : State) (w : BitVec 32) : coresOf (withWord s w) = coresOf s := by
  exact (Eq.refl _).trans rfl
@[simp] theorem cores_fetchFails (s : State) (f : Fetched) (ms : Multiset Nat) (hm : coresOf s = ms) : Keeps ms (fetchFails s
    f) := by
  unfold fetchFails
  dsimp only
  split
  · simp [hm]
  · split
    · simp [hm]
    · simp [hm]
    · split <;> simp [hm]
@[simp] theorem cores_followLeader (s : State) (cores : List ℕ) : coresOf (followLeader s cores) = coresOf s := by
  unfold followLeader
  split
  · rfl
  · dsimp only
    rw [coresOf_foldl _ (fun s c => coresOf_onCore _ _ _ (by intro g; split <;> rfl))]
@[simp] theorem cores_rotate (s : State) : coresOf (rotate s) = coresOf s := by
  unfold rotate
  dsimp only
  repeat' (first | (simp [*]; done) | split)
@[simp] theorem cores_writeBackLine (s : State) (core : ℕ) (line : ℕ) : coresOf (writeBackLine s core line) = coresOf s := by
  exact (Eq.refl _).trans rfl
@[simp] theorem cores_dropLine (s : State) (core : ℕ) (pa : ℕ) : coresOf (dropLine s core pa) = coresOf s := by
  unfold dropLine
  simp [*]

/-! ### Instructions -/

/-- Every instruction and every event but the two resets keeps the cores. -/
theorem keeps_exec (i : Instr) (s : State) (hc : i ≠ .coldReset) (hw : i ≠ .warmReset) : Keeps (coresOf s) (exec i s) := by
  cases i with
  | add d a b => exact cores_execAdd d a b s _ rfl
  | sub d a b => exact cores_execSub d a b s _ rfl
  | mul d a b => exact cores_execMul d a b s _ rfl
  | mulh d a b => exact cores_execMulh d a b s _ rfl
  | mulhu d a b => exact cores_execMulhu d a b s _ rfl
  | div d a b => exact cores_execDiv d a b s _ rfl
  | divu d a b => exact cores_execDivu d a b s _ rfl
  | rem d a b => exact cores_execRem d a b s _ rfl
  | remu d a b => exact cores_execRemu d a b s _ rfl
  | and d a b => exact cores_execAnd d a b s _ rfl
  | or d a b => exact cores_execOr d a b s _ rfl
  | xor d a b => exact cores_execXor d a b s _ rfl
  | shl d a b => exact cores_execShl d a b s _ rfl
  | shr d a b => exact cores_execShr d a b s _ rfl
  | sra d a b => exact cores_execSra d a b s _ rfl
  | slt d a b => exact cores_execSlt d a b s _ rfl
  | sltu d a b => exact cores_execSltu d a b s _ rfl
  | min d a b => exact cores_execMin d a b s _ rfl
  | max d a b => exact cores_execMax d a b s _ rfl
  | minu d a b => exact cores_execMinu d a b s _ rfl
  | maxu d a b => exact cores_execMaxu d a b s _ rfl
  | clz d a => exact cores_execClz d a s _ rfl
  | ctz d a => exact cores_execCtz d a s _ rfl
  | popc d a => exact cores_execPopc d a s _ rfl
  | fadd d a b => exact cores_execFadd d a b s _ rfl
  | fsub d a b => exact cores_execFsub d a b s _ rfl
  | fmul d a b => exact cores_execFmul d a b s _ rfl
  | ffma d a b c => exact cores_execFfma d a b c s _ rfl
  | fdiv d a b => exact cores_execFdiv d a b s _ rfl
  | fsqrt d a => exact cores_execFsqrt d a s _ rfl
  | fmin d a b => exact cores_execFmin d a b s _ rfl
  | fmax d a b => exact cores_execFmax d a b s _ rfl
  | fcmp d a b c => exact cores_execFcmp d a b c s _ rfl
  | fcvtIF d a => exact cores_execFcvtIF d a s _ rfl
  | fcvtIuF d a => exact cores_execFcvtIuF d a s _ rfl
  | fcvtFI d a => exact cores_execFcvtFI d a s _ rfl
  | fcvtFIu d a => exact cores_execFcvtFIu d a s _ rfl
  | fcvtBfF d a => exact cores_execFcvtBfF d a s _ rfl
  | fcvtFBf d a => exact cores_execFcvtFBf d a s _ rfl
  | addi d a imm => exact cores_execAddi d a imm s _ rfl
  | andi d a imm => exact cores_execAndi d a imm s _ rfl
  | ori d a imm => exact cores_execOri d a imm s _ rfl
  | xori d a imm => exact cores_execXori d a imm s _ rfl
  | slti d a imm => exact cores_execSlti d a imm s _ rfl
  | sltiu d a imm => exact cores_execSltiu d a imm s _ rfl
  | shli d a n => exact cores_execShli d a n s _ rfl
  | shri d a n => exact cores_execShri d a n s _ rfl
  | srai d a n => exact cores_execSrai d a n s _ rfl
  | movhi d imm => exact cores_execMovhi d imm s _ rfl
  | movk d h imm => exact cores_execMovk d h imm s _ rfl
  | ldb d a imm => exact cores_execLdb d a imm s _ rfl
  | ldh d a imm => exact cores_execLdh d a imm s _ rfl
  | ldw d a imm => exact cores_execLdw d a imm s _ rfl
  | ldd d a imm => exact cores_execLdd d a imm s _ rfl
  | ldbu d a imm => exact cores_execLdbu d a imm s _ rfl
  | ldhu d a imm => exact cores_execLdhu d a imm s _ rfl
  | ldwu d a imm => exact cores_execLdwu d a imm s _ rfl
  | stb d a imm => exact cores_execStb d a imm s _ rfl
  | sth d a imm => exact cores_execSth d a imm s _ rfl
  | stw d a imm => exact cores_execStw d a imm s _ rfl
  | std d a imm => exact cores_execStd d a imm s _ rfl
  | ldbReg d a b k sx => exact cores_execLdbReg d a b k sx s _ rfl
  | ldhReg d a b k sx => exact cores_execLdhReg d a b k sx s _ rfl
  | ldwReg d a b k sx => exact cores_execLdwReg d a b k sx s _ rfl
  | lddReg d a b k sx => exact cores_execLddReg d a b k sx s _ rfl
  | ldbuReg d a b k sx => exact cores_execLdbuReg d a b k sx s _ rfl
  | ldhuReg d a b k sx => exact cores_execLdhuReg d a b k sx s _ rfl
  | ldwuReg d a b k sx => exact cores_execLdwuReg d a b k sx s _ rfl
  | stbReg d a b k sx => exact cores_execStbReg d a b k sx s _ rfl
  | sthReg d a b k sx => exact cores_execSthReg d a b k sx s _ rfl
  | stwReg d a b k sx => exact cores_execStwReg d a b k sx s _ rfl
  | stdReg d a b k sx => exact cores_execStdReg d a b k sx s _ rfl
  | amoAdd d a b k sx z => exact cores_execAmoAdd d a b k sx z s _ rfl
  | amoSwap d a b k sx z => exact cores_execAmoSwap d a b k sx z s _ rfl
  | amoCas d a b k sx z => exact cores_execAmoCas d a b k sx z s _ rfl
  | amoMin d a b k sx z => exact cores_execAmoMin d a b k sx z s _ rfl
  | amoMax d a b k sx z => exact cores_execAmoMax d a b k sx z s _ rfl
  | amoAnd d a b k sx z => exact cores_execAmoAnd d a b k sx z s _ rfl
  | amoOr d a b k sx z => exact cores_execAmoOr d a b k sx z s _ rfl
  | beq a b o => exact cores_execBeq a b o s _ rfl
  | bne a b o => exact cores_execBne a b o s _ rfl
  | blt a b o => exact cores_execBlt a b o s _ rfl
  | bge a b o => exact cores_execBge a b o s _ rfl
  | bltu a b o => exact cores_execBltu a b o s _ rfl
  | bgeu a b o => exact cores_execBgeu a b o s _ rfl
  | jmp o => exact cores_execJmp o s _ rfl
  | call o => exact cores_execCall o s _ rfl
  | jr a => exact cores_execJr a s _ rfl
  | callr a => exact cores_execCallr a s _ rfl
  | csrr d c => exact cores_execCsrr d c s _ rfl
  | csrw a c => exact cores_execCsrw a c s _ rfl
  | csrs a c => exact cores_execCsrs a c s _ rfl
  | csrc a c => exact cores_execCsrc a c s _ rfl
  | trap c => exact cores_execTrap c s _ rfl
  | tret => exact cores_execTret s _ rfl
  | bkpt c => exact cores_execBkpt c s _ rfl
  | wait => exact cores_execWait s _ rfl
  | yield => exact cores_execYield s _ rfl
  | fenceI => exact cores_execFenceI s _ rfl
  | gperm d a r m => exact cores_execGperm d a r m s _ rfl
  | gred d a m => exact cores_execGred d a m s _ rfl
  | gbcast d a r m => exact cores_execGbcast d a r m s _ rfl
  | gsync => exact cores_execGsync s _ rfl
  | lnext a o => exact cores_execLnext a o s _ rfl
  | ljoin a o => exact cores_execLjoin a o s _ rfl
  | vadd d a b m => exact cores_execVadd d a b m s _ rfl
  | vsub d a b m => exact cores_execVsub d a b m s _ rfl
  | vrsub d a b m => exact cores_execVrsub d a b m s _ rfl
  | vmul d a b m => exact cores_execVmul d a b m s _ rfl
  | vmulh d a b m => exact cores_execVmulh d a b m s _ rfl
  | vmulhU d a b m => exact cores_execVmulhU d a b m s _ rfl
  | vdiv d a b m => exact cores_execVdiv d a b m s _ rfl
  | vdivU d a b m => exact cores_execVdivU d a b m s _ rfl
  | vrem d a b m => exact cores_execVrem d a b m s _ rfl
  | vremU d a b m => exact cores_execVremU d a b m s _ rfl
  | vmin d a b m => exact cores_execVmin d a b m s _ rfl
  | vminU d a b m => exact cores_execVminU d a b m s _ rfl
  | vmax d a b m => exact cores_execVmax d a b m s _ rfl
  | vmaxU d a b m => exact cores_execVmaxU d a b m s _ rfl
  | vabs d a m => exact cores_execVabs d a m s _ rfl
  | vneg d a m => exact cores_execVneg d a m s _ rfl
  | vand d a b m => exact cores_execVand d a b m s _ rfl
  | vor d a b m => exact cores_execVor d a b m s _ rfl
  | vxor d a b m => exact cores_execVxor d a b m s _ rfl
  | vshl d a b m => exact cores_execVshl d a b m s _ rfl
  | vshr d a b m => exact cores_execVshr d a b m s _ rfl
  | vsra d a b m => exact cores_execVsra d a b m s _ rfl
  | vsadd d a b m => exact cores_execVsadd d a b m s _ rfl
  | vsaddU d a b m => exact cores_execVsaddU d a b m s _ rfl
  | vssub d a b m => exact cores_execVssub d a b m s _ rfl
  | vssubU d a b m => exact cores_execVssubU d a b m s _ rfl
  | vsqrt d a m => exact cores_execVsqrt d a m s _ rfl
  | vrece d a m => exact cores_execVrece d a m s _ rfl
  | vrsqe d a m => exact cores_execVrsqe d a m s _ rfl
  | vexp2 d a m => exact cores_execVexp2 d a m s _ rfl
  | vlog2 d a m => exact cores_execVlog2 d a m s _ rfl
  | vmov d a m => exact cores_execVmov d a m s _ rfl
  | vsel d a b m => exact cores_execVsel d a b m s _ rfl
  | viota d m => exact cores_execViota d m s _ rfl
  | vgath d a b m => exact cores_execVgath d a b m s _ rfl
  | vcomp d a m => exact cores_execVcomp d a m s _ rfl
  | vredsum d a b m => exact cores_execVredsum d a b m s _ rfl
  | vredmax d a b m => exact cores_execVredmax d a b m s _ rfl
  | vredmaxU d a b m => exact cores_execVredmaxU d a b m s _ rfl
  | vredmin d a b m => exact cores_execVredmin d a b m s _ rfl
  | vredminU d a b m => exact cores_execVredminU d a b m s _ rfl
  | vtag d t => exact cores_execVtag d t s _ rfl
  | vcmp d a b m u c => exact cores_execVcmp d a b m u c s _ rfl
  | vcvt d a m sx u t => exact cores_execVcvt d a m sx u t s _ rfl
  | vbcast d r m => exact cores_execVbcast d r m s _ rfl
  | vext d a r => exact cores_execVext d a r s _ rfl
  | vextU d a r => exact cores_execVextU d a r s _ rfl
  | vprog d a => exact cores_execVprog d a s _ rfl
  | vsetvl d a => exact cores_execVsetvl d a s _ rfl
  | vsetvt d a imm => exact cores_execVsetvt d a imm s _ rfl
  | vrcfg n => exact cores_execVrcfg n s _ rfl
  | mand d a b => exact cores_execMand d a b s _ rfl
  | mor d a b => exact cores_execMor d a b s _ rfl
  | mxor d a b => exact cores_execMxor d a b s _ rfl
  | mandn d a b => exact cores_execMandn d a b s _ rfl
  | mnot d a => exact cores_execMnot d a s _ rfl
  | mmov d a => exact cores_execMmov d a s _ rfl
  | mpopc d a => exact cores_execMpopc d a s _ rfl
  | mfirst d a => exact cores_execMfirst d a s _ rfl
  | msetvl d a => exact cores_execMsetvl d a s _ rfl
  | vslup d a r sx m => exact cores_execVslup d a r sx m s _ rfl
  | vsldn d a r sx m => exact cores_execVsldn d a r sx m s _ rfl
  | vins d r sx => exact cores_execVins d r sx s _ rfl
  | vf m l o => exact cores_execVf m l o s _ rfl
  | vpf l o => exact cores_execVpf l o s _ rfl
  | vpstop => exact cores_execVpstop s _ rfl
  | vpjoin => exact cores_execVpjoin s _ rfl
  | mxadd t a b r c => exact cores_execMxadd t a b r c s _ rfl
  | mxsub t a b r c => exact cores_execMxsub t a b r c s _ rfl
  | mzero t => exact cores_execMzero t s _ rfl
  | mrow t d r => exact cores_execMrow t d r s _ rfl
  | mcol t d r => exact cores_execMcol t d r s _ rfl
  | mwrow t a r => exact cores_execMwrow t a r s _ rfl
  | mldt t a b => exact cores_execMldt t a b s _ rfl
  | mstt t a b => exact cores_execMstt t a b s _ rfl
  | mxsld t a b r c sx => exact cores_execMxsld t a b r c sx s _ rfl
  | fenceSv => exact cores_execFenceSv s _ rfl
  | fenceVs => exact cores_execFenceVs s _ rfl
  | fenceVv => exact cores_execFenceVv s _ rfl
  | lsync => exact cores_execLsync s _ rfl
  | sfenceT a => exact cores_execSfenceT a s _ rfl
  | harvest d a => exact cores_execHarvest d a s _ rfl
  | claim d a => exact cores_execClaim d a s _ rfl
  | unclaim d a => exact cores_execUnclaim d a s _ rfl
  | crd d n => exact cores_execCrd d n s _ rfl
  | crdlo d n => exact cores_execCrdlo d n s _ rfl
  | crdhi d n => exact cores_execCrdhi d n s _ rfl
  | cevt a n => exact cores_execCevt a n s _ rfl
  | tshape d a b c => exact cores_execTshape d a b c s _ rfl
  | menter => exact cores_execMenter s _ rfl
  | mleave => exact cores_execMleave s _ rfl
  | launch d a => exact cores_execLaunch d a s _ rfl
  | cancel d a => exact cores_execCancel d a s _ rfl
  | endProg => exact cores_execEndProg s _ rfl
  | vld t b m => exact cores_execVld t b m s _ rfl
  | vlds t b sx m => exact cores_execVlds t b sx m s _ rfl
  | vldx t b imm m => exact cores_execVldx t b imm m s _ rfl
  | vldff t b m => exact cores_execVldff t b m s _ rfl
  | vldp t p m => exact cores_execVldp t p m s _ rfl
  | vst t b m => exact cores_execVst t b m s _ rfl
  | vsts t b sx m => exact cores_execVsts t b sx m s _ rfl
  | vstx t b imm m => exact cores_execVstx t b imm m s _ rfl
  | vstp t p m => exact cores_execVstp t p m s _ rfl
  | vldn t b sx m f g => exact cores_execVldn t b sx m f g s _ rfl
  | vstn t b sx m f g => exact cores_execVstn t b sx m f g s _ rfl
  | vldns t b sx r f g => exact cores_execVldns t b sx r f g s _ rfl
  | vamoadd t b imm m => exact cores_execVamoadd t b imm m s _ rfl
  | vamomax t b imm m => exact cores_execVamomax t b imm m s _ rfl
  | vamomaxU t b imm m => exact cores_execVamomaxU t b imm m s _ rfl
  | vamomin t b imm m => exact cores_execVamomin t b imm m s _ rfl
  | vamominU t b imm m => exact cores_execVamominU t b imm m s _ rfl
  | stand d a b => exact cores_execStand d a b s _ rfl
  | unstand d a => exact cores_execUnstand d a s _ rfl
  | take d a => exact cores_execTake d a s _ rfl
  | waitsl d a b => exact cores_execWaitsl d a b s _ rfl
  | vstand t b imm m sx => exact cores_execVstand t b imm m sx s _ rfl
  | vtake t m sx => exact cores_execVtake t m sx s _ rfl
  | copy d a b c m => exact cores_execCopy d a b c m s _ rfl
  | stream d p b => exact cores_execStream d p b s _ rfl
  | nbx d a b => exact cores_execNbx d a b s _ rfl
  | chain d a b c => exact cores_execChain d a b c s _ rfl
  | lmark d a b c => exact cores_execLmark d a b c s _ rfl
  | bgld t b imm m sx => exact cores_execBgld t b imm m sx s _ rfl
  | gxl t b imm m sx => exact cores_execGxl t b imm m sx s _ rfl
  | vfma d a b c m => exact cores_execVfma d a b c m s _ rfl
  | vfms d a b c m => exact cores_execVfms d a b c m s _ rfl
  | vfnma d a b c m => exact cores_execVfnma d a b c m s _ rfl
  | vclamp d a b c m => exact cores_execVclamp d a b c m s _ rfl
  | vrcfgCsrWrite v => exact cores_execVrcfgCsrWrite v s _ rfl
  | vtypeCsrWrite v => exact cores_execVtypeCsrWrite v s _ rfl
  | fcsrWrite v => exact cores_execFcsrWrite v s _ rfl
  | seedWrite v => exact cores_execSeedWrite v s _ rfl
  | slbaseWrite v => exact cores_execSlbaseWrite v s _ rfl
  | ageWrite v => exact cores_execAgeWrite v s _ rfl
  | statusWrite v => exact cores_execStatusWrite v s _ rfl
  | registerWrite c v => exact cores_execRegisterWrite c v s _ rfl
  | storeBufferDrain core => exact cores_execStoreBufferDrain core s _ rfl
  | standAnswer k => exact cores_execStandAnswer k s _ rfl
  | pushArrival k => exact cores_execPushArrival k s _ rfl
  | pushBounce k => exact cores_execPushBounce k s _ rfl
  | unstandAnswer k => exact cores_execUnstandAnswer k s _ rfl
  | waitslTimeout core => exact cores_execWaitslTimeout core s _ rfl
  | waitTimeout core => exact cores_execWaitTimeout core s _ rfl
  | copyChunkDone core e c => exact cores_execCopyChunkDone core e c s _ rfl
  | copyDone core e => exact cores_execCopyDone core e s _ rfl
  | engineBatchResume core e => exact cores_execEngineBatchResume core e s _ rfl
  | streamEnd core e => exact cores_execStreamEnd core e s _ rfl
  | bgldDone core e => exact cores_execBgldDone core e s _ rfl
  | gatherUnitRequest core e k => exact cores_execGatherUnitRequest core e k s _ rfl
  | gxlDone core e => exact cores_execGxlDone core e s _ rfl
  | nbxArrival core e => exact cores_execNbxArrival core e s _ rfl
  | nbxEngineGrant k => exact cores_execNbxEngineGrant k s _ rfl
  | stopeStep k g => exact cores_execStopeStep k g s _ rfl
  | stopeResume k g => exact cores_execStopeResume k g s _ rfl
  | nbxDone k g => exact cores_execNbxDone k g s _ rfl
  | chainReservation core e => exact cores_execChainReservation core e s _ rfl
  | chainHopStore core e => exact cores_execChainHopStore core e s _ rfl
  | chainDone core e => exact cores_execChainDone core e s _ rfl
  | loopVerdict core => exact cores_execLoopVerdict core s _ rfl
  | replayIteration core => exact cores_execReplayIteration core s _ rfl
  | loopStatusWrite core => exact cores_execLoopStatusWrite core s _ rfl
  | trapEntry cause tval topnd => exact cores_execTrapEntry cause tval topnd s _ rfl
  | endLaunch p id => exact cores_execEndLaunch p id s _ rfl
  | completionWordWrite p id => exact cores_execCompletionWordWrite p id s _ rfl
  | dispatchRound p => exact cores_execDispatchRound p s _ rfl
  | agingRise p k => exact cores_execAgingRise p k s _ rfl
  | dependenceSatisfied p id d => exact cores_execDependenceSatisfied p id d s _ rfl
  | dependencePoll p id d => exact cores_execDependencePoll p id d s _ rfl
  | preemptRequest core => exact cores_execPreemptRequest core s _ rfl
  | huskSave core => exact cores_execHuskSave core s _ rfl
  | huskWake p h => exact cores_execHuskWake p h s _ rfl
  | parkTimeout p h => exact cores_execParkTimeout p h s _ rfl
  | huskRelease p h => exact cores_execHuskRelease p h s _ rfl
  | dumpRequest p id g => exact cores_execDumpRequest p id g s _ rfl
  | dumpRelease p h => exact cores_execDumpRelease p h s _ rfl
  | packetArrival k => exact cores_execPacketArrival k s _ rfl
  | blockSuspect r => exact cores_execBlockSuspect r s _ rfl
  | lampHop => exact cores_execLampHop s _ rfl
  | recoveryBufferAccept => exact cores_execRecoveryBufferAccept s _ rfl
  | lampRelease => exact cores_execLampRelease s _ rfl
  | recoveryBufferDrain k => exact cores_execRecoveryBufferDrain k s _ rfl
  | lampRegenerate => exact cores_execLampRegenerate s _ rfl
  | segmentMaskActivate k c b => exact cores_execSegmentMaskActivate k c b s _ rfl
  | supplementaryActivate k c b => exact cores_execSupplementaryActivate k c b s _ rfl
  | refresh k c b => exact cores_execRefresh k c b s _ rfl
  | selfRefreshEntry k c => exact cores_execSelfRefreshEntry k c s _ rfl
  | selfRefreshExit k c => exact cores_execSelfRefreshExit k c s _ rfl
  | errorCheckScrub k pa => exact cores_execErrorCheckScrub k pa s _ rfl
  | errorRateCrossed die cls => exact cores_execErrorRateCrossed die cls s _ rfl
  | leaseGrant imm p port peer rblock => exact cores_execLeaseGrant imm p port peer rblock s _ rfl
  | leaseRevoke imm => exact cores_execLeaseRevoke imm s _ rfl
  | revocationPoint imm => exact cores_execRevocationPoint imm s _ rfl
  | leaseRelease imm => exact cores_execLeaseRelease imm s _ rfl
  | ualinkPortDown port => exact cores_execUalinkPortDown port s _ rfl
  | capacityMove b p q => exact cores_execCapacityMove b p q s _ rfl
  | hotRemoveAck b => exact cores_execHotRemoveAck b s _ rfl
  | hotRemoveTimeout b => exact cores_execHotRemoveTimeout b s _ rfl
  | blockScrubDone b => exact cores_execBlockScrubDone b s _ rfl
  | hostMemWrite pa bs => exact cores_execHostMemWrite pa bs s _ rfl
  | hostMemRead pa n => exact cores_execHostMemRead pa n s _ rfl
  | notify p v => exact cores_execNotify p v s _ rfl
  | bdoneWrite p v => exact cores_execBdoneWrite p v s _ rfl
  | netctlWrite v => exact cores_execNetctlWrite v s _ rfl
  | mcstkWrite k v => exact cores_execMcstkWrite k v s _ rfl
  | coresWrite p v => exact cores_execCoresWrite p v s _ rfl
  | xmaskWrite p v => exact cores_execXmaskWrite p v s _ rfl
  | activeWrite p v fw => exact cores_execActiveWrite p v fw s _ rfl
  | coldReset => exact absurd rfl hc
  | warmReset => exact absurd rfl hw
  | powerOn fw => exact cores_execPowerOn fw s _ rfl
  | getVersion => exact cores_execGetVersion s _ rfl
  | getCapabilities => exact cores_execGetCapabilities s _ rfl
  | negotiateAlgorithms => exact cores_execNegotiateAlgorithms s _ rfl
  | getDigests => exact cores_execGetDigests s _ rfl
  | getCertificate => exact cores_execGetCertificate s _ rfl
  | challenge => exact cores_execChallenge s _ rfl
  | getMeasurements m => exact cores_execGetMeasurements m s _ rfl
  | keyExchange => exact cores_execKeyExchange s _ rfl
  | finish => exact cores_execFinish s _ rfl
  | endSession => exact cores_execEndSession s _ rfl
  | ideKm module => exact cores_execIdeKm module s _ rfl
  | ideStreamFailure module => exact cores_execIdeStreamFailure module s _ rfl
  | counterQuantum core => exact cores_execCounterQuantum core s _ rfl
  | traceSample core => exact cores_execTraceSample core s _ rfl
  | traceConvoyRecord core => exact cores_execTraceConvoyRecord core s _ rfl
  | throttleRaise => exact cores_execThrottleRaise s _ rfl
  | throttleLower => exact cores_execThrottleLower s _ rfl
  | thermalStop => exact cores_execThermalStop s _ rfl
  | launchAnswer core => exact cores_execLaunchAnswer core s _ rfl
  | partitionBlockWrite p f v => exact cores_execPartitionBlockWrite p f v s _ rfl
  | peerLineFillOrWriteBack pa w => exact cores_execPeerLineFillOrWriteBack pa w s _ rfl
  | leaseReclaim b => exact cores_execLeaseReclaim b s _ rfl

/-- An answer is no next state, or one whose harts stand on the cores `m` or on those of the reset module. -/
def KeepsOrResets (m : Multiset Nat) (o : Out) : Prop := ∀ t, o = .next t → coresOf t = m ∨ coresOf t = coresOf State.reset

theorem Keeps.orResets {m : Multiset Nat} {o : Out} (h : Keeps m o) : KeepsOrResets m o := fun t ht => .inl (h t ht)

theorem keepsOrResets_next (m : Multiset Nat) (t : State) :
    KeepsOrResets m (.next t) ↔ coresOf t = m ∨ coresOf t = coresOf State.reset :=
  ⟨fun h => h t rfl, fun h u hu => by cases hu; exact h⟩

/-- Every instruction and every event keeps the cores or leaves those of the reset module. -/
theorem exec_cores (i : Instr) (s : State) : KeepsOrResets (coresOf s) (exec i s) := by
  by_cases hc : i = .coldReset
  · subst hc
    intro t ht
    cases ht
    exact .inr rfl
  · by_cases hw : i = .warmReset
    · subst hw
      intro t ht
      cases ht
      exact .inr (coresOf_foldl _ (fun s d => cores_logPit s d 6 0 0x40 0) _ _)
    · exact (keeps_exec i s hc hw).orResets

/-! ### Words -/

/-- The harts stand on the cores `m`, or the module has been reset. -/
def Cored (m : Multiset Nat) (t : State) : Prop := coresOf t = m ∨ coresOf t = coresOf State.reset

theorem Cored.of_eq {m : Multiset Nat} {s t : State} (h : Cored m s) (e : coresOf t = coresOf s) : Cored m t := by
  unfold Cored
  rwa [e]
theorem cored_self (s : State) : Cored (coresOf s) s := .inl rfl
theorem Cored.trans {m : Multiset Nat} {s t : State} (h : Cored m s) (e : Cored (coresOf s) t) : Cored m t :=
  e.elim (fun e => h.of_eq e) .inr
theorem cored_next {m : Multiset Nat} {t : State} (h : Cored m t) : KeepsOrResets m (.next t) := (keepsOrResets_next _ _).2 h

/-- A fold of steps that keep the cores, or reset the module, does so. -/
theorem cored_foldl {α : Type} (m : Multiset Nat) (f : State → α → State) (h : ∀ s x, Cored (coresOf s) (f s x)) (l : List α)
    (s : State) (hs : Cored m s) : Cored m (l.foldl f s) := by
  induction l generalizing s with
  | nil => exact hs
  | cons x l ih => exact ih _ (hs.trans (h s x))

theorem perform_cores (x : Instr) (s : State) : KeepsOrResets (coresOf s) (perform x s) := by
  unfold perform
  split
  · exact (cores_registerTrap _ _ _ (coresOf s) rfl).orResets
  · split
    · next t ht =>
      have h := exec_cores x (acquireChunks s x (lengthOf s.hart)) t ht
      rw [cores_acquireChunks] at h
      exact cored_next (Cored.of_eq h (cores_acquired _ _ _))
    · next ht => exact fun t e => absurd e (ht t)
theorem afterExec_cores (s : State) (x : Instr) (o : Out) (h : KeepsOrResets (coresOf s) o) :
    KeepsOrResets (coresOf s) (afterExec s x o) := by
  unfold afterExec
  split
  · next t =>
    have e : Cored (coresOf s) t := h t rfl
    dsimp only
    split
    · exact cored_next e
    · split
      · split
        · exact cored_next (.inl (cores_stall s))
        · exact h
      · exact cored_next (e.of_eq (cores_complete ..))
  · exact h

theorem execute_cores (p : Pace) (s : State) (x : Instr) : KeepsOrResets (coresOf s) (execute p s x) := by
  unfold execute
  extract_lets t
  have e : coresOf t = coresOf s := by simp [t]
  refine afterExec_cores s x _ ?_
  split
  · exact (cores_loadLater _ _ _ _ _ _ _ e).orResets
  · exact e ▸ perform_cores x t

/-- An answer in an option that is none, or a state that keeps the cores. -/
theorem precheck_cores (s t : State) (x : Instr) (h : precheck s x = some t) : coresOf t = coresOf s := by
  unfold precheck at h
  split at h
  · cases h
    simp
  · split at h
    · cases h
      simp
    · split at h
      · cases h
        split <;> simp
      · cases h
        split <;> simp
      · cases h

theorem issue_cores (p : Pace) (s : State) (x : Instr) : KeepsOrResets (coresOf s) (issue p s x) := by
  unfold issue
  extract_lets s1
  have e : coresOf s1 = coresOf s := by simp [s1]
  split
  · next t ht => exact cored_next (.inl ((precheck_cores _ _ _ ht).trans e))
  · split
    · exact e ▸ execute_cores p s1 x
    · exact cored_next (.inl (by simp [e]))

theorem decodeTrap_cores (s : State) (c : Nat) : KeepsOrResets (coresOf s) (decodeTrap s c) :=
  (cores_decodeTrap _ _ _ rfl).orResets

theorem runWord_cores (p : Pace) (s : State) (w : BitVec 32) : KeepsOrResets (coresOf s) (runWord p s w) := by
  unfold runWord
  split
  · have h := issue_cores p (withWord s w) ‹_›
    rwa [cores_withWord] at h
  all_goals exact (cores_decodeTrap _ _ _ (cores_withWord _ _)).orResets

theorem fetchAndRun_cores (p : Pace) (s : State) : KeepsOrResets (coresOf s) (fetchAndRun p s) := by
  unfold fetchAndRun
  dsimp only
  split
  · have h := runWord_cores p (fetch s 0 s.hart.pc).2 ‹_›
    rwa [cores_fetch] at h
  · exact (cores_fetchFails _ _ _ (cores_fetch _ _ _)).orResets

theorem cores_reissueLoad (s : State) : coresOf (reissueLoad s) = coresOf s := by
  unfold reissueLoad
  split
  · rfl
  · next l tried rest _ =>
    extract_lets x trap
    have ht : ∀ (t : State) c v b, coresOf t = coresOf s → coresOf (trap t c v b) = coresOf s := by
      intro t c v b e
      simp only [trap]
      split
      · exact cores_stall s
      · rw [cores_takeTrap]
        exact (coresOf_putHart t _ rfl).trans e
    have ex : coresOf x.2 = coresOf s := cores_reach _ _ _ _
    split
    · exact ht _ _ _ _ (by rw [cores_logCause, ex])
    · split
      · exact cores_stall s
      · exact ht _ _ _ _ (by rw [cores_writeBatch, ex])
    · split
      · exact ht _ _ _ _ (by rw [cores_logCause, ex])
      · exact (coresOf_putHart x.2 _ rfl).trans ex

theorem runAlone_cores (p : Pace) (s : State) : KeepsOrResets (coresOf s) (runAlone p s) := by
  unfold runAlone
  split
  · split
    · exact cored_next (.inl (by simp))
    · split
      · exact cored_next (.inl (cores_reissueLoad s))
      · exact fetchAndRun_cores p s
  · split
    · exact cored_next (.inl (by simp))
    · exact cored_next (.inl (by simp))
  · dsimp only
    refine cored_next (.inl ?_)
    split <;> simp
  · exact cored_next (.inl (by simp))

/-! ### Gangs -/
/-! ### Gangs -/

/-- Members that each keep the cores or reset the module do so together. -/
theorem eachMember_cores (s : State) (hs : List Hart) (k : State → Out) (hk : ∀ u, KeepsOrResets (coresOf u) (k u)) :
    Cored (coresOf s) (eachMember s hs k) := by
  unfold eachMember
  refine Cored.of_eq (cored_foldl _ _ (fun u h => ?_) hs s (cored_self s)) (coresOf_focus _ _)
  split
  · split
    · next t ht =>
      have e := hk _ t ht
      rwa [coresOf_focus] at e
    · exact cored_self u
  · exact cored_self u

theorem stopRest_cores (s t : State) (cs : List Nat) : coresOf (stopRest s t cs) = coresOf t := by
  unfold stopRest
  extract_lets hit
  split
  · rfl
  · rw [cores_spreadTraps, coresOf_foldl _ (fun u c => coresOf_onCore _ _ _ (by intro g; simp))]

theorem afterGang_cores (s t : State) (cs : List Nat) : coresOf (afterGang s t cs) = coresOf t := by
  unfold afterGang
  split
  · exact cores_followLeader _ _
  · exact stopRest_cores _ _ _

theorem orStall_cored (s t : State) (cs : List Nat) (m : Multiset Nat) (hs : Cored m s) (ht : Cored m t) :
    Cored m (orStall s t cs) := by
  unfold orStall
  split
  · exact hs.of_eq (cores_stall s)
  · split
    · exact hs.of_eq (cores_stall s)
    · exact ht

theorem memberExecutes_cores (p : Pace) (lead : Nat) (x : Instr) (u : State) :
    KeepsOrResets (coresOf u) (memberExecutes p lead x u) := by
  unfold memberExecutes
  split
  · exact execute_cores p u x
  · split
    · exact afterExec_cores _ _ _ (cored_next (.inl (by simp)))
    · exact afterExec_cores _ _ _ (cores_guardWrite _ _ _ _ rfl (by simp)).orResets
    · exact execute_cores p u x

/-- Some of several states that keep the cores or reset the module. -/
theorem onlyTrapped_cored {α : Type} (s t : State) (cs : List Nat) (ws : List α) (core : α → Nat) (again : List α → Option
    State)
    (m : Multiset Nat) (ht : Cored m t) (ha : ∀ l u, again l = some u → Cored m u) (u : State)
    (h : onlyTrapped s t cs ws core again = some u) : Cored m u := by
  unfold onlyTrapped at h
  dsimp only at h
  split at h
  · cases h
    exact ht
  · split at h
    · next v hv =>
      split at h
      · cases h
        exact ha _ _ hv
      · cases h
        exact ht
    · cases h
      exact ht

theorem executeEach_cored (p : Pace) (s : State) (cs : List Nat) (x : Instr) : Cored (coresOf s) (executeEach p s cs x) := by
  unfold executeEach
  extract_lets run
  have hr : ∀ l, Cored (coresOf s) (run l) := fun l => eachMember_cores s _ _ (fun u => memberExecutes_cores _ _ _ u)
  generalize ho : onlyTrapped s (run cs) cs cs id (fun cs => some (run cs)) = o
  cases o with
  | none => exact hr cs
  | some u =>
    exact onlyTrapped_cored s _ _ _ _ _ _ (hr cs) (fun l v hv => by cases hv; exact hr l) u ho

theorem cores_completeRest (s t : State) (lead : Nat) (cs : List Nat) (x : Instr) :
    coresOf (completeRest s t lead cs x) = coresOf t := by
  unfold completeRest
  split
  · rfl
  · refine coresOf_foldl _ (fun u c => ?_) _ _
    split
    · rw [coresOf_focus, cores_complete, coresOf_focus]
    · rfl

theorem executeJoint_cores (p : Pace) (s : State) (cs : List Nat) (x : Instr) :
    KeepsOrResets (coresOf s) (executeJoint p s cs x) := by
  unfold executeJoint
  extract_lets u lead v
  have eu : Cored (coresOf s) u := by
    simp only [u]
    split
    · exact eachMember_cores s _ _ (fun w => cored_next (.inl (by simp)))
    · exact cored_self s
  have ev : coresOf v = coresOf u := (coresOf_focus _ _).trans (cores_acquireAll _ _ _)
  have h : ∀ t, (if isVector x then afterExec v x (perform x v) else execute p v x) = .next t → Cored (coresOf s) t := by
    intro t ht
    refine eu.trans ?_
    rw [← ev]
    split at ht
    · exact afterExec_cores v x _ (perform_cores x v) t ht
    · exact execute_cores p v x t ht
  split
  · next t ht => exact cored_next ((h t ht).of_eq ((coresOf_focus _ _).trans (cores_completeRest _ _ _ _ _)))
  · next ht => exact fun t e => absurd e (ht t)
theorem gangWord_cores (p : Pace) (s : State) (cs : List Nat) (w : BitVec 32) (x : Instr) :
    KeepsOrResets (coresOf s) (gangWord p s cs w x) := by
  unfold gangWord
  extract_lets s0 s1 checked t
  have e0 : coresOf s0 = coresOf s := by simp only [s0]; split <;> simp
  rw [← e0]
  clear_value s0
  have e1 : Cored (coresOf s0) s1 := eachMember_cores s0 _ _ (fun u => cored_next (.inl (by simp)))
  have ec : Cored (coresOf s0) checked := e1.trans (eachMember_cores s1 _ _ (fun u => cored_next (by
    cases h : precheck u x with
    | none => exact cored_self u
    | some t => exact .inl (precheck_cores u t x h))))
  have et : Cored (coresOf s0) t := e1.trans (eachMember_cores s1 _ _ (fun u => cored_next (.inl (by simp))))
  split
  · exact cored_next ((orStall_cored _ _ _ _ e1 ec).of_eq (afterGang_cores _ _ _))
  · split
    · exact cored_next ((orStall_cored _ _ _ _ e1 et).of_eq (cores_followLeader _ _))
    · split
      · split
        · next u hu => exact cored_next ((e1.trans (executeJoint_cores p s1 cs x u hu)).of_eq (afterGang_cores _ _ _))
        · next hu => exact fun t e => absurd e (hu t)
      · exact cored_next ((orStall_cored _ _ _ _ e1 (e1.trans (executeEach_cored p s1 cs x))).of_eq (afterGang_cores _ _ _))
theorem gangWaits_cores (s : State) (cs : List Nat) : KeepsOrResets (coresOf s) (gangWaits s cs) := by
  unfold gangWaits
  extract_lets t u
  have ht : Cored (coresOf s) t := eachMember_cores s _ _ (fun v => by
    split
    · exact cored_next (cored_self v)
    · exact runAlone_cores .now v)
  have hu : Cored (coresOf s) u := ht.of_eq (coresOf_onHarts _ _ (by intro g; split <;> rfl))
  split
  · exact cored_next (hu.of_eq (cores_followLeader _ _))
  · exact cored_next (hu.of_eq (cores_stall _))

theorem runGang_cores (p : Pace) (s : State) (cs : List Nat) : KeepsOrResets (coresOf s) (runGang p s cs) := by
  unfold runGang
  extract_lets lead t0 r s1
  have e0 : Cored (coresOf s) t0 := eachMember_cores s _ _ (fun u => cored_next (.inl (by
    split
    · exact cores_reissueLoad u
    · rfl)))
  have hr : coresOf r.2 = coresOf s := by simp [r]
  have h1 : coresOf s1 = coresOf s := by simp [s1, hr]
  split
  · exact gangWaits_cores s cs
  · split
    · exact cored_next (.inl (cores_stall s))
    · split
      · exact cored_next (Cored.of_eq (orStall_cored _ _ _ _ (cored_self s) e0) (afterGang_cores _ _ _))
      · split
        · next w _ =>
          split
          · next x _ =>
            have hw := gangWord_cores p s1 cs w x
            rwa [h1] at hw
          · refine cored_next (Cored.of_eq (orStall_cored _ _ _ _ (.inl h1) ?_) (afterGang_cores _ _ _))
            have hw := eachMember_cores s1 (cs.map (hartAt s1)) (runWord p · w) (fun u => runWord_cores p u w)
            rwa [h1] at hw
        · have h := (cores_fetchFails r.2 r.1 _ hr).orResets
          split
          · next t ht =>
            exact cored_next (Cored.of_eq (orStall_cored _ _ _ _ (.inl h1) (Cored.of_eq (h t ht) (coresOf_focus _ _)))
              (afterGang_cores _ _ _))
          · next ht => exact fun t e => absurd e (ht t)

/-! ### The vector units -/

theorem core_hartAt (s : State) (c : Nat) : (hartAt s c).core = c := by
  unfold hartAt
  split
  · assumption
  · cases h : s.others.find? (fun h => h.core == c) with
    | none => rfl
    | some g => simpa using List.find?_some h

theorem completeWork_cores (u t : State) (x : Instr) : coresOf (completeWork u t x) = coresOf t := by
  unfold completeWork
  dsimp only
  split <;> simp

theorem memberWork_cored (s : State) (d : Held) (b : Option Checkpoint) (stop : Option Nat) (x : Instr) :
    Cored (coresOf s) (memberWork s d b stop x) := by
  unfold memberWork
  extract_lets u
  have e : coresOf u = coresOf s := coresOf_putHart s _ (core_underWork _ _ _ _ _)
  split
  · next t ht => exact e ▸ Cored.of_eq (perform_cores x u t ht) (completeWork_cores _ _ _)
  · exact .inl e

theorem workTogether_cored (s : State) (ws : List (Nat × Held × Option Checkpoint)) (stop : Option Nat) (x : Instr) :
    Cored (coresOf s) (workTogether s ws stop x) := by
  unfold workTogether
  split
  · extract_lets u
    have e : coresOf u = coresOf s := (cores_acquireAll _ _ _).trans
      (coresOf_foldl _ (fun s w => coresOf_onCore _ _ _ (fun g => core_underWork _ _ _ _ _)) _ _)
    split
    · next t ht =>
      have h := perform_cores x _ t ht
      rw [coresOf_focus, e] at h
      refine Cored.of_eq h ?_
      rw [coresOf_foldl _ (fun t w => by rw [coresOf_focus, completeWork_cores, coresOf_focus]), coresOf_focus]
    · exact .inl e
  · exact cored_foldl _ _ (fun u w => by
      have h := memberWork_cored (focus u w.1) w.2.1 w.2.2 stop x
      rw [coresOf_focus] at h
      exact h.of_eq (coresOf_focus _ _)) _ _ (cored_self s)

theorem afterWork_cores (t : State) (h : Hart) (q : Bool) (sw : Option SReg) (d : Option Held) (u : State)
    (e : afterWork t h q sw d = some u) : coresOf u = coresOf t := by
  have back : ∀ sw d, (backTo h (hartAt t h.core) sw d).core = h.core := fun sw d => (core_backTo ..).trans (core_hartAt t h.core)
  unfold afterWork at e
  dsimp only at e
  split at e
  · cases e
    simp
  · split at e
    · cases e
    · split at e
      · cases e
        exact coresOf_onCore_to _ _ _ (fun g hg => (back sw d).trans hg.symm)
      · split at e
        · cases e
          exact cores_putTrap ..
        · split at e
          · cases e
          · cases e
            exact cores_putTrap ..

theorem keepWork_cores (s t u : State) (ws : List (Nat × Held × Option Checkpoint)) (x : Instr) (h : keepWork s t ws x = some
    u) :
    coresOf u = coresOf t := by
  unfold keepWork at h
  obtain ⟨v, hv, rfl⟩ := Option.map_eq_some_iff.1 h
  rw [cores_respanAll]
  suffices H : ∀ (ws : List (Nat × Held × Option Checkpoint)) (acc : Option State),
      (∀ v, acc = some v → coresOf v = coresOf t) → ∀ v, ws.foldl (fun acc w => acc.bind (fun u =>
        afterWork u (hartAt s w.1) w.2.2.isSome (unitResult x) (if w.2.2.isSome then none else some w.2.1))) acc = some v →
      coresOf v = coresOf t from H ws (some t) (fun v hv => by cases hv; rfl) v hv
  intro ws
  induction ws with
  | nil => exact fun acc ha => ha
  | cons w ws ih =>
    refine fun acc ha => ih _ (fun v hv => ?_)
    cases acc with
    | none => cases hv
    | some y => exact (afterWork_cores _ _ _ _ _ _ hv).trans (ha y rfl)
theorem unitStep_cored (s t : State) (cs : List Nat) (stop : Option Nat) (h : unitStep s cs stop = some t) :
    Cored (coresOf s) t := by
  unfold unitStep at h
  split at h
  · cases h
  · next w rest _ =>
    dsimp only at h
    split at h
    · cases h
    · split at h
      · cases h
        exact .inl (by simp)
      · cases h
      · next x _ _ =>
        have run : ∀ ws u, keepWork s (workTogether s ws stop x) ws x = some u → Cored (coresOf s) u := fun ws u hu =>
          (workTogether_cored s ws stop x).of_eq (keepWork_cores _ _ _ _ _ hu)
        obtain ⟨u, hu, rfl⟩ := Option.map_eq_some_iff.1 h
        obtain ⟨v, hv, hw⟩ := Option.bind_eq_some_iff.1 hu
        exact (onlyTrapped_cored s v cs _ _ _ _ (run _ _ hv) (fun l y hy => run l y hy) u hw).of_eq (stopRest_cores _ _ _)

theorem runHart_cores (p : Pace) (s : State) : KeepsOrResets (coresOf s) (runHart p s) := by
  unfold runHart
  dsimp only
  split
  · next t ht =>
    refine cored_next ?_
    split at ht
    · exact unitStep_cored { s with hart := { s.hart with stalled := false } } _ _ _ ht
    · cases ht
  · split
    · exact runAlone_cores p { s with hart := { s.hart with stalled := false } }
    · exact runGang_cores p { s with hart := { s.hart with stalled := false } } _

theorem runVf_cores (s : State) (lane : Option Nat) : KeepsOrResets (coresOf s) (runVf s lane) := by
  unfold runVf
  dsimp only
  split
  · exact cored_next (cored_self s)
  · split
    · next t ht =>
      have h : coresOf t = coresOf s := cores_vfStep { s with hart := { noFlags s.hart with stalled := false } } lane _ rfl t ht
      split
      · next u hu => exact cored_next (.inl ((stopRest_cores _ _ _).trans ((afterWork_cores _ _ _ _ _ _ hu).trans h)))
      · exact cored_next (.inl (cores_stall s))
    · next ht => exact fun t e => absurd e (ht t)

/-! ### The module's own steps -/

/-- Steps that each keep the cores. -/
def AllKeep (xs : List Due) : Prop := ∀ x ∈ xs, ∀ u, Keeps (coresOf u) (x u)

theorem allKeep_nil : AllKeep [] := fun _ h => by cases h
theorem allKeep_cons (x : Due) (xs : List Due) (hx : ∀ u, Keeps (coresOf u) (x u)) (h : AllKeep xs) : AllKeep (x :: xs) :=
  fun y hy => by
    rcases List.mem_cons.1 hy with rfl | hy
    · exact hx
    · exact h y hy
theorem allKeep_append (xs ys : List Due) (hx : AllKeep xs) (hy : AllKeep ys) : AllKeep (xs ++ ys) :=
  fun x h => (List.mem_append.1 h).elim (hx x) (hy x)
theorem allKeep_app (xs ys : List Due) : AllKeep (xs ++ ys) ↔ AllKeep xs ∧ AllKeep ys :=
  ⟨fun h => ⟨fun x hx => h x (List.mem_append_left _ hx), fun x hx => h x (List.mem_append_right _ hx)⟩,
    fun h => allKeep_append _ _ h.1 h.2⟩
theorem allKeep_ite (c : Prop) [Decidable c] (xs ys : List Due) (hx : AllKeep xs) (hy : AllKeep ys) :
    AllKeep (if c then xs else ys) := by
  split
  · exact hx
  · exact hy
theorem allKeep_map {α : Type} (f : α → Due) (l : List α) (h : ∀ a u, Keeps (coresOf u) (f a u)) : AllKeep (l.map f) :=
  fun x hx => by
    obtain ⟨a, _, rfl⟩ := List.mem_map.1 hx
    exact h a
theorem allKeep_flatMap {α : Type} (f : α → List Due) (l : List α) (h : ∀ a, AllKeep (f a)) : AllKeep (l.flatMap f) :=
  fun x hx => by
    obtain ⟨a, _, hx⟩ := List.mem_flatMap.1 hx
    exact h a x hx

theorem allKeep_one (x : Due) (hx : ∀ u, Keeps (coresOf u) (x u)) : AllKeep [x] := allKeep_cons _ _ hx allKeep_nil

theorem engineEvents_cores (h : Hart) (c : CoreId) : AllKeep (engineEvents h c) := by
  unfold engineEvents
  refine allKeep_append _ _ (allKeep_flatMap _ _ (fun e => ?_)) (allKeep_ite _ _ _ ?_ allKeep_nil)
  · refine allKeep_ite _ _ _ allKeep_nil (allKeep_ite _ _ _ ?_ ?_)
    · exact allKeep_one _ (fun u => cores_execEngineBatchResume _ _ _ _ rfl)
    · split
      · exact allKeep_append _ _ (allKeep_map _ _ (fun k u => cores_execCopyChunkDone _ _ _ _ _ rfl))
          (allKeep_one _ (fun u => cores_execCopyDone _ _ _ _ rfl))
      · exact allKeep_one _ (fun u => cores_execStreamEnd _ _ _ _ rfl)
      · exact allKeep_one _ (fun u => cores_execBgldDone _ _ _ _ rfl)
      · exact allKeep_append _ _ (allKeep_map _ _ (fun k u => cores_execGatherUnitRequest _ _ _ _ _ rfl))
          (allKeep_one _ (fun u => cores_execGxlDone _ _ _ _ rfl))
      · exact allKeep_one _ (fun u => cores_execNbxArrival _ _ _ _ rfl)
      · exact allKeep_cons _ _ (fun u => cores_execChainReservation _ _ _ _ rfl)
          (allKeep_cons _ _ (fun u => cores_execChainHopStore _ _ _ _ rfl)
            (allKeep_one _ (fun u => cores_execChainDone _ _ _ _ rfl)))
  · exact allKeep_cons _ _ (fun u => cores_execReplayIteration _ _ _ rfl)
      (allKeep_one _ (fun u => cores_execLoopStatusWrite _ _ _ rfl))

theorem hartEvents_cores (h : Hart) (c : CoreId) : AllKeep (hartEvents h c) := by
  unfold hartEvents
  simp only [allKeep_app, and_assoc]
  refine ⟨?_, ?_, ?_, ?_, ?_, ?_, ?_, ?_, ?_⟩
  · refine allKeep_ite _ _ _ ?_ allKeep_nil
    split
    · exact allKeep_one _ (fun u => cores_execHuskSave _ _ _ rfl)
    · exact allKeep_one _ (fun u => cores_execPreemptRequest _ _ _ rfl)
  · exact allKeep_ite _ _ _ allKeep_nil (allKeep_one _ (fun u => cores_execStoreBufferDrain _ _ _ rfl))
  · exact allKeep_ite _ _ _ allKeep_nil (allKeep_one _ (fun u => by simp [loadReturns]))
  · exact allKeep_ite _ _ _ allKeep_nil (allKeep_one _ (fun u => cores_execLaunchAnswer _ _ _ rfl))
  · exact engineEvents_cores h c
  · split
    · exact allKeep_one _ (fun u => cores_execWaitTimeout _ _ _ rfl)
    · exact allKeep_one _ (fun u => cores_execWaitslTimeout _ _ _ rfl)
    · exact allKeep_nil
  · exact allKeep_ite _ _ _ (allKeep_one _ (fun u => cores_execTraceSample _ _ _ rfl)) allKeep_nil
  · exact allKeep_ite _ _ _ allKeep_nil (allKeep_one _ (fun u => cores_execTraceConvoyRecord _ _ _ rfl))
  · exact allKeep_ite _ _ _ (allKeep_one _ (fun u => cores_execCounterQuantum _ _ _ rfl)) allKeep_nil

theorem arbiterEvents_cores (s : State) : AllKeep (arbiterEvents s) := by
  unfold arbiterEvents
  refine allKeep_append _ _ (allKeep_append _ _ (allKeep_flatMap _ _ (fun l => ?_)) (allKeep_flatMap _ _ (fun k => ?_)))
    (allKeep_flatMap _ _ (fun p => ?_))
  · exact allKeep_cons _ _ (fun u => cores_execCompletionWordWrite _ _ _ _ rfl)
      (allKeep_cons _ _ (fun u => cores_execDependencePoll _ _ _ _ _ rfl)
        (allKeep_one _ (fun u => cores_execDependencePoll _ _ _ _ _ rfl)))
  · exact allKeep_cons _ _ (fun u => cores_execHuskWake _ _ _ _ rfl)
      (allKeep_one _ (fun u => cores_execParkTimeout _ _ _ _ rfl))
  · exact allKeep_append _ _ (allKeep_ite _ _ _ allKeep_nil (allKeep_one _ (fun u => cores_execDispatchRound _ _ _ rfl)))
      (allKeep_map _ _ (fun k u => cores_execAgingRise _ _ _ _ rfl))

theorem stackEvents_cores (s : State) (k : StackId) : AllKeep (stackEvents s k) := by
  unfold stackEvents
  dsimp only
  refine allKeep_append _ _ (allKeep_append _ _ ?_ ?_) ?_
  · exact allKeep_map _ _ (fun d u => cores_execRefresh _ _ _ _ _ rfl)
  · exact allKeep_ite _ _ _ allKeep_nil (allKeep_one _ (fun u => cores_execNbxEngineGrant _ _ _ rfl))
  · exact allKeep_flatMap _ _ (fun e => allKeep_cons _ _ (fun u => cores_execStopeResume _ _ _ _ rfl)
      (allKeep_cons _ _ (fun u => cores_execStopeStep _ _ _ _ rfl)
        (allKeep_one _ (fun u => cores_execNbxDone _ _ _ _ rfl))))

theorem moduleEvents_cores (s : State) : AllKeep (moduleEvents s) := by
  unfold moduleEvents
  simp only [allKeep_app, and_assoc]
  refine ⟨?_, ?_, ?_, ?_, ?_, ?_, ?_, ?_, ?_, ?_, ?_⟩
  · exact allKeep_map _ _ (fun k u => cores_execStandAnswer _ _ _ rfl)
  · exact allKeep_ite _ _ _ (allKeep_cons _ _ (fun u => cores_execRecoveryBufferAccept _ _ rfl)
      (allKeep_one _ (fun u => cores_execLampRelease _ _ rfl))) allKeep_nil
  · exact allKeep_map _ _ (fun k u => cores_execRecoveryBufferDrain _ _ _ rfl)
  · exact allKeep_map _ _ (fun k u => cores_execPushArrival _ _ _ rfl)
  · exact allKeep_map _ _ (fun k u => cores_execPushBounce _ _ _ rfl)
  · exact allKeep_map _ _ (fun k u => cores_execUnstandAnswer _ _ _ rfl)
  · exact allKeep_map _ _ (fun k u => cores_execPacketArrival _ _ _ rfl)
  · exact allKeep_flatMap _ _ (fun k => stackEvents_cores s k)
  · exact allKeep_ite _ _ _ (allKeep_map _ _ (fun k u => cores_execBlockScrubDone _ _ _ rfl)) allKeep_nil
  · exact allKeep_map _ _ (fun k u => cores_execErrorRateCrossed _ _ _ _ rfl)
  · exact allKeep_map _ _ (fun k u => cores_execPowerOn _ _ _ rfl)

theorem dueEvents_cores (s : State) : AllKeep (dueEvents s) := by
  unfold dueEvents
  simp only [allKeep_app, and_assoc]
  refine ⟨?_, ?_, ?_, ?_, ?_⟩
  · exact allKeep_flatMap _ _ (fun h => allKeep_ite _ _ _ (allKeep_one _ (fun u => cores_execLoopVerdict _ _ _ rfl)) allKeep_nil)
  · exact moduleEvents_cores s
  · exact allKeep_flatMap _ _ (fun h => hartEvents_cores h _)
  · exact allKeep_flatMap _ _ (fun k => allKeep_ite _ _ _ allKeep_nil (engineEvents_cores _ _))
  · exact arbiterEvents_cores s

theorem firstChange_cores (s t : State) (xs : List Due) (hx : AllKeep xs) (h : firstChange s xs = some t) :
    coresOf t = coresOf s := by
  induction xs with
  | nil => cases h
  | cons x xs ih =>
    have hxs : AllKeep xs := fun y hy => hx y (List.mem_cons_of_mem _ hy)
    unfold firstChange at h
    split at h
    · next u hu =>
      split at h
      · exact ih hxs h
      · cases h
        exact hx x (List.mem_cons_self ..) s _ hu
    · exact ih hxs h

theorem nextOfGang_cores (s : State) : KeepsOrResets (coresOf s) (nextOfGang s) := by
  unfold nextOfGang
  split
  · next c _ =>
    split
    · next t ht =>
      have h := runVf_cores (focus s c) none t ht
      rw [coresOf_focus] at h
      exact cored_next (Cored.of_eq h (coresOf_focus _ _))
    · next ht => exact fun t e => absurd e (ht t)
  · exact runHart_cores .now s

theorem defaultTurn_cores (s : State) : KeepsOrResets (coresOf s) (defaultTurn s) := by
  unfold defaultTurn
  split
  · next t ht => exact cored_next (.inl (firstChange_cores s t _ (dueEvents_cores s) ht))
  · split
    · next t ht =>
      exact cored_next (Cored.of_eq (nextOfGang_cores s t ht) (by rw [cores_rotate, cores_passCycles]))
    · next ht => exact fun t e => absurd e (ht t)

@[simp] theorem cores_correctedAt (s : State) (c k : ℕ) : coresOf (correctedAt s c k) = coresOf s := by
  unfold correctedAt
  dsimp only
  split
  · rw [coresOf_onCore _ _ _ (fun g => by simp), cores_countCorrected]
  · exact cores_countCorrected _ _ _
@[simp] theorem cores_cleanLine (s : State) (c : Option ℕ) (pa : ℕ) : coresOf (cleanLine s c pa) = coresOf s := by
  unfold cleanLine
  repeat' (first | (simp; done) | split)

theorem takeTurn_cores (s : State) (t : Turn) : KeepsOrResets (coresOf s) (takeTurn s t) := by
  have turn : ∀ p c, KeepsOrResets (coresOf s) (runHart p (focus s c)) := fun p c => by
    have h := runHart_cores p (focus s c)
    rwa [coresOf_focus] at h
  cases t with
  | run c => exact turn .now c.val
  | ahead c => exact turn .ahead c.val
  | late c => exact turn .late c.val
  | vector c stop =>
    refine cored_next ?_
    cases h : unitStep (focus s c.val) (gangCores (focus s c.val)) stop with
    | none => exact .inl (coresOf_focus _ _)
    | some u =>
      have e := unitStep_cored _ _ _ _ h
      rwa [coresOf_focus] at e
  | lane c l =>
    have h := runVf_cores (focus s c.val) (some l.val)
    rwa [coresOf_focus] at h
  | own b p => exact (cores_byFirmware _ _ _ rfl (cores_ownBlock _ _ _)).orResets
  | lend b => exact (cores_byFirmware _ _ _ rfl (cores_lendBlock _ _)).orResets
  | hold p i =>
    refine cored_next (.inl ?_)
    cases h : huskIn s p.val i.val <;> simp
  | event x =>
    unfold takeTurn
    dsimp only
    split
    · exact exec_cores x s
    · exact (keepsOrResets_next _ _).2 (.inl rfl)
  | _ =>
    unfold takeTurn
    exact (keepsOrResets_next _ _).2 (.inl (by simp))

/-- What a step does to the harts: they stand on the cores they stood on, or the module has been reset. -/
theorem step_cores (s t : State) (h : step s = .next t) : coresOf t = coresOf s ∨ coresOf t = coresOf State.reset := by
  suffices H : KeepsOrResets (coresOf s) (runStep s) from H t h
  unfold runStep
  split
  · split
    · exact fun t h => by cases h
    · exact exec_cores .coldReset _
    · exact (keepsOrResets_next _ _).2 (.inl rfl)
  · split
    · exact defaultTurn_cores s
    · exact takeTurn_cores _ _

end Sys2Proof.Machine
end

