-- ==== Sys2Proof/Laws/Sparse.lean ====
section
/-! SUPPORT. The laws of the sparse stores: reading after writing, what a write leaves alone, and that every operation
keeps the canonical form. -/

namespace Sys2Proof.Machine

/-! ### Reading after writing -/

theorem sget_sinsert_same {n : Nat} (m : Sparse n) (k : Nat) (v : BitVec n) : sget (sinsert m k v) k = v := by
  induction m with
  | nil => simp [sinsert, sget]
  | cons p rest ih =>
    obtain ⟨j, w⟩ := p
    simp only [sinsert]
    split
    · simp [sget]
    · split
      · simp [sget]
      · next h => simp [sget, h, ih]

theorem sget_sinsert_other {n : Nat} (m : Sparse n) (k a : Nat) (v : BitVec n) (h : a ≠ k) :
    sget (sinsert m k v) a = sget m a := by
  induction m with
  | nil => simp [sinsert, sget, h]
  | cons p rest ih =>
    obtain ⟨j, w⟩ := p
    simp only [sinsert]
    split
    · simp [sget, h]
    · split
      · next e => subst e; simp [sget, h]
      · simp [sget, ih]

theorem sget_remove {n : Nat} (m : Sparse n) (k a : Nat) :
    sget (m.filter (fun p => p.1 != k)) a = if a = k then 0#n else sget m a := by
  induction m with
  | nil => simp [sget]
  | cons p rest ih =>
    obtain ⟨j, w⟩ := p
    by_cases hj : j = k
    · subst hj
      simp only [List.filter_cons, bne_self_eq_false, Bool.false_eq_true, if_false, ih, sget]
      split <;> simp_all
    · simp only [List.filter_cons, bne_iff_ne, ne_eq, hj, not_false_eq_true, if_true, sget, ih]
      by_cases ha : a = j
      · simp [ha, hj]
      · simp [ha]

/-- A read after a write: the value at the number written, every other number as before. -/
theorem sget_sset {n : Nat} (m : Sparse n) (k a : Nat) (v : BitVec n) :
    sget (sset m k v) a = if a = k then v else sget m a := by
  unfold sset
  split
  · next h => rw [sget_remove, h]
  · by_cases h : a = k
    · simp [h, sget_sinsert_same]
    · simp [h, sget_sinsert_other]

@[simp] theorem sget_nil {n : Nat} (a : Nat) : sget ([] : Sparse n) a = 0#n := rfl

/-- Clearing a range zeroes it and leaves every other number. -/
theorem sget_sclear {n : Nat} (m : Sparse n) (lo hi a : Nat) :
    sget (sclear m lo hi) a = if lo ≤ a ∧ a < hi then 0#n else sget m a := by
  unfold sclear
  induction m with
  | nil => simp [sget]
  | cons p rest ih =>
    obtain ⟨j, w⟩ := p
    by_cases hj : j < lo ∨ hi ≤ j
    · simp only [List.filter_cons, hj, decide_true, if_true, sget, ih]
      by_cases ha : a = j
      · subst ha
        have : ¬(lo ≤ a ∧ a < hi) := by omega
        simp [this]
      · simp [ha]
    · simp only [List.filter_cons, hj, decide_false, Bool.false_eq_true, if_false, ih, sget]
      by_cases ha : a = j
      · subst ha
        have : lo ≤ a ∧ a < hi := by omega
        simp [this]
      · simp [ha]

/-- A byte after `len` bytes are written from `k` up, lowest first (R8). -/
theorem sget_ssetBytes (m : Sparse 8) (k len v a : Nat) :
    sget (ssetBytes m k len v) a =
      if k ≤ a ∧ a < k + len then BitVec.ofNat 8 (v / 256 ^ (a - k)) else sget m a := by
  induction len generalizing m k v with
  | zero =>
    have : ¬(k ≤ a ∧ a < k + 0) := by omega
    rw [if_neg this]
    rfl
  | succ len ih =>
    simp only [ssetBytes, ih, sget_sset]
    by_cases h : a = k
    · subst h
      have h1 : ¬(a + 1 ≤ a ∧ a < a + 1 + len) := by omega
      have h2 : a ≤ a ∧ a < a + (len + 1) := by omega
      rw [if_neg h1, if_pos rfl, if_pos h2, Nat.sub_self, Nat.pow_zero, Nat.div_one]
    · by_cases h1 : k + 1 ≤ a ∧ a < k + 1 + len
      · have h2 : k ≤ a ∧ a < k + (len + 1) := by omega
        rw [if_pos h1, if_pos h2, Nat.div_div_eq_div_mul, ← Nat.pow_succ']
        congr 3
        omega
      · have h2 : ¬(k ≤ a ∧ a < k + (len + 1)) := by omega
        rw [if_neg h1, if_neg h, if_neg h2]

/-- Bytes that agree with a number, lowest first, are that number. -/
theorem sgetBytes_of_bytes (m : Sparse 8) (k len v : Nat)
    (h : ∀ i, i < len → sget m (k + i) = BitVec.ofNat 8 (v / 256 ^ i)) : sgetBytes m k len = v % 256 ^ len := by
  induction len generalizing k v with
  | zero => simp [sgetBytes, Nat.mod_one]
  | succ len ih =>
    have h0 := h 0 (by omega)
    simp only [Nat.add_zero, Nat.pow_zero, Nat.div_one] at h0
    have hs : sgetBytes m (k + 1) len = v / 256 % 256 ^ len := by
      apply ih
      intro i hi
      have := h (i + 1) (by omega)
      rw [show k + 1 + i = k + (i + 1) by omega, this, Nat.div_div_eq_div_mul, ← Nat.pow_succ']
    simp only [sgetBytes, h0, hs, BitVec.toNat_ofNat]
    have := Nat.mod_mul (x := v) (a := 256) (b := 256 ^ len)
    rw [show 256 ^ (len + 1) = 256 * 256 ^ len from Nat.pow_succ', this]

/-- A number read where it was written. -/
theorem sgetBytes_ssetBytes (m : Sparse 8) (k len v : Nat) : sgetBytes (ssetBytes m k len v) k len = v % 256 ^ len := by
  apply sgetBytes_of_bytes
  intro i hi
  rw [sget_ssetBytes]
  have : k ≤ k + i ∧ k + i < k + len := by omega
  simp [this]

/-- A number read where no byte has changed. -/
theorem sgetBytes_congr (m p : Sparse 8) (k len : Nat) (h : ∀ a, k ≤ a → a < k + len → sget m a = sget p a) :
    sgetBytes m k len = sgetBytes p k len := by
  induction len generalizing k with
  | zero => rfl
  | succ len ih =>
    simp only [sgetBytes]
    rw [h k (by omega) (by omega), ih]
    intro a h1 h2
    exact h a (by omega) (by omega)

/-- A number read apart from the bytes written. -/
theorem sgetBytes_ssetBytes_apart (m : Sparse 8) (k len v j n : Nat) (h : j + n ≤ k ∨ k + len ≤ j) :
    sgetBytes (ssetBytes m k len v) j n = sgetBytes m j n := by
  apply sgetBytes_congr
  intro a h1 h2
  rw [sget_ssetBytes]
  have : ¬(k ≤ a ∧ a < k + len) := by omega
  simp [this]

/-! ### The canonical form -/

/-- The canonical form in words: numbers strictly rising, no value zero. -/
theorem Sparse.wf_iff {n : Nat} (m : Sparse n) :
    Sparse.wf m = true ↔ m.Pairwise (fun p q => p.1 < q.1) ∧ ∀ p ∈ m, p.2 ≠ 0#n := by
  induction m with
  | nil => simp [Sparse.wf]
  | cons p rest ih =>
    obtain ⟨j, v⟩ := p
    match rest, ih with
    | [], _ => simp [Sparse.wf]
    | (k, w) :: rest, ih =>
      simp only [Sparse.wf, Bool.and_eq_true, bne_iff_ne, ne_eq, decide_eq_true_eq, ih]
      constructor
      · rintro ⟨⟨hv, hj⟩, hp, hz⟩
        refine ⟨List.pairwise_cons.2 ⟨?_, hp⟩, ?_⟩
        · intro q hq
          rcases List.mem_cons.1 hq with rfl | hq
          · exact hj
          · exact Nat.lt_trans hj ((List.pairwise_cons.1 hp).1 q hq)
        · intro q hq
          rcases List.mem_cons.1 hq with rfl | hq
          · exact hv
          · exact hz q hq
      · rintro ⟨h, hz⟩
        obtain ⟨ha, hp⟩ := List.pairwise_cons.1 h
        exact ⟨⟨hz _ List.mem_cons_self, ha _ List.mem_cons_self⟩, hp, fun q hq => hz q (List.mem_cons_of_mem _ hq)⟩

/-- Removing entries keeps the form. -/
theorem Sparse.wf_filter {n : Nat} (m : Sparse n) (f : Nat × BitVec n → Bool) (h : Sparse.wf m = true) :
    Sparse.wf (m.filter f) = true := by
  rw [Sparse.wf_iff] at *
  exact ⟨h.1.filter f, fun p hp => h.2 p (List.mem_filter.1 hp).1⟩

theorem mem_sinsert {n : Nat} (m : Sparse n) (k : Nat) (v : BitVec n) (p : Nat × BitVec n) (h : p ∈ sinsert m k v) :
    p = (k, v) ∨ p ∈ m := by
  induction m with
  | nil => simpa [sinsert] using h
  | cons q rest ih =>
    obtain ⟨j, w⟩ := q
    simp only [sinsert] at h
    split at h
    · exact (List.mem_cons.1 h)
    · split at h
      · rcases List.mem_cons.1 h with h | h
        · exact .inl h
        · exact .inr (List.mem_cons_of_mem _ h)
      · rcases List.mem_cons.1 h with h | h
        · exact .inr (h ▸ List.mem_cons_self)
        · exact (ih h).imp_right (List.mem_cons_of_mem _)

theorem Sparse.wf_sinsert {n : Nat} (m : Sparse n) (k : Nat) (v : BitVec n) (hv : v ≠ 0#n) (h : Sparse.wf m = true) :
    Sparse.wf (sinsert m k v) = true := by
  rw [Sparse.wf_iff] at *
  induction m with
  | nil => simpa [sinsert] using hv
  | cons p rest ih =>
    obtain ⟨j, w⟩ := p
    obtain ⟨hp, hz⟩ := h
    rw [List.pairwise_cons] at hp
    have hr := ih ⟨hp.2, fun q hq => hz q (List.mem_cons_of_mem _ hq)⟩
    simp only [sinsert]
    split
    · next hk =>
      refine ⟨List.pairwise_cons.2 ⟨?_, List.pairwise_cons.2 hp⟩, ?_⟩
      · intro q hq
        rcases List.mem_cons.1 hq with rfl | hq
        · exact hk
        · exact Nat.lt_trans hk (hp.1 q hq)
      · intro q hq
        rcases List.mem_cons.1 hq with rfl | hq
        · exact hv
        · exact hz q hq
    · split
      · next e =>
        subst e
        refine ⟨List.pairwise_cons.2 hp, ?_⟩
        intro q hq
        rcases List.mem_cons.1 hq with rfl | hq
        · exact hv
        · exact hz q (List.mem_cons_of_mem _ hq)
      · refine ⟨List.pairwise_cons.2 ⟨?_, hr.1⟩, ?_⟩
        · intro q hq
          rcases mem_sinsert _ _ _ _ hq with rfl | hq
          · show j < k
            omega
          · exact hp.1 q hq
        · intro q hq
          rcases List.mem_cons.1 hq with rfl | hq
          · exact hz _ List.mem_cons_self
          · exact hr.2 q hq

/-- Writing a value keeps the form. -/
theorem Sparse.wf_sset {n : Nat} (m : Sparse n) (k : Nat) (v : BitVec n) (h : Sparse.wf m = true) :
    Sparse.wf (sset m k v) = true := by
  unfold sset
  split
  · exact Sparse.wf_filter _ _ h
  · next hv => exact Sparse.wf_sinsert _ _ _ hv h

/-- Clearing a range keeps the form. -/
theorem Sparse.wf_sclear {n : Nat} (m : Sparse n) (lo hi : Nat) (h : Sparse.wf m = true) :
    Sparse.wf (sclear m lo hi) = true := Sparse.wf_filter _ _ h

/-- Writing bytes keeps the form. -/
theorem Sparse.wf_ssetBytes (m : Sparse 8) (k len v : Nat) (h : Sparse.wf m = true) :
    Sparse.wf (ssetBytes m k len v) = true := by
  induction len generalizing m k v with
  | zero => exact h
  | succ len ih => exact ih _ _ _ (Sparse.wf_sset _ _ _ h)

/-- Writing entries over a store keeps the form. -/
theorem Sparse.wf_soverlay {n : Nat} (m p : Sparse n) (h : Sparse.wf m = true) : Sparse.wf (soverlay m p) = true := by
  unfold soverlay
  induction p generalizing m with
  | nil => exact h
  | cons q rest ih => exact ih _ (Sparse.wf_sset _ _ _ h)

/-- A renumbered part of a store has the form. -/
theorem Sparse.wf_sslice {n : Nat} (m : Sparse n) (lo hi start : Nat) (h : Sparse.wf m = true) :
    Sparse.wf (sslice m lo hi start) = true := by
  have h1 := (Sparse.wf_iff _).1 (Sparse.wf_filter m (fun p => decide (lo ≤ p.1 ∧ p.1 < hi)) h)
  rw [Sparse.wf_iff]
  unfold sslice
  constructor
  · rw [List.pairwise_map]
    refine h1.1.imp_of_mem ?_
    intro p q hp hq hlt
    have h2 := (List.mem_filter.1 hp).2
    have h3 := (List.mem_filter.1 hq).2
    simp only [decide_eq_true_eq] at h2 h3
    omega
  · intro p hp
    obtain ⟨q, hq, rfl⟩ := List.mem_map.1 hp
    exact h1.2 q hq

/-- Two stores in the form that read alike are the same data. -/
theorem Sparse.ext_of_wf {n : Nat} (m p : Sparse n) (hm : Sparse.wf m = true) (hp : Sparse.wf p = true)
    (h : ∀ a, sget m a = sget p a) : m = p := by
  rw [Sparse.wf_iff] at hm hp
  have below : ∀ (q : Sparse n) (a : Nat), (∀ e ∈ q, a < e.1) → sget q a = 0#n := by
    intro q a hq
    induction q with
    | nil => rfl
    | cons e rest ih =>
      obtain ⟨j, v⟩ := e
      have hj : a < j := hq (j, v) List.mem_cons_self
      have : a ≠ j := by omega
      simp only [sget, this, if_false]
      exact ih (fun e he => hq e (List.mem_cons_of_mem _ he))
  induction m generalizing p with
  | nil =>
    cases p with
    | nil => rfl
    | cons q rest =>
      obtain ⟨j, v⟩ := q
      have := h j
      simp only [sget, if_true] at this
      exact absurd this.symm (hp.2 (j, v) List.mem_cons_self)
  | cons e rest ih =>
    obtain ⟨j, v⟩ := e
    cases p with
    | nil =>
      have := h j
      simp only [sget, if_true] at this
      exact absurd this (hm.2 (j, v) List.mem_cons_self)
    | cons q tail =>
      obtain ⟨k, w⟩ := q
      have hm1 := List.pairwise_cons.1 hm.1
      have hp1 := List.pairwise_cons.1 hp.1
      have hv : v ≠ 0#n := hm.2 (j, v) List.mem_cons_self
      have hw : w ≠ 0#n := hp.2 (k, w) List.mem_cons_self
      have hjk : j = k := by
        rcases Nat.lt_trichotomy j k with hlt | heq | hgt
        · exfalso
          have e1 := h j
          have : j ≠ k := by omega
          simp only [sget, if_true, this, if_false] at e1
          rw [below tail j (fun e he => Nat.lt_trans hlt (hp1.1 e he))] at e1
          exact hv e1
        · exact heq
        · exfalso
          have e1 := h k
          have : k ≠ j := by omega
          simp only [sget, if_true, this, if_false] at e1
          rw [below rest k (fun e he => Nat.lt_trans hgt (hm1.1 e he))] at e1
          exact hw e1.symm
      subst hjk
      have e1 := h j
      simp only [sget, if_true] at e1
      subst e1
      have : rest = tail := by
        refine ih tail ⟨hm1.2, fun e he => hm.2 e (List.mem_cons_of_mem _ he)⟩
          ⟨hp1.2, fun e he => hp.2 e (List.mem_cons_of_mem _ he)⟩ ?_
        intro a
        by_cases ha : a = j
        · subst ha
          rw [below rest a (fun e he => hm1.1 e he), below tail a (fun e he => hp1.1 e he)]
        · have := h a
          simpa only [sget, ha, if_false] using this
      rw [this]

end Sys2Proof.Machine
end

