-- ==== Sys2Proof/Laws/Memory.lean ====
section
/-! SUPPORT. The laws of physical memory at its homes, and of harts by core number. -/

namespace Sys2Proof.Machine

/-! ### Bytes and numbers -/

theorem bytesNat_byte (bs : List Byte) (i : Nat) (h : i < bs.length) : BitVec.ofNat 8 (bytesNat bs / 256 ^ i) = bs[i] := by
  induction bs generalizing i with
  | nil => simp at h
  | cons b rest ih =>
    have hb : b.toNat < 256 := b.isLt
    match i with
    | 0 =>
      apply BitVec.eq_of_toNat_eq
      simp only [bytesNat, Nat.pow_zero, Nat.div_one, BitVec.toNat_ofNat, List.getElem_cons_zero]
      omega
    | i + 1 =>
      have h' : i < rest.length := by simpa using h
      have e : (b.toNat + 256 * bytesNat rest) / 256 = bytesNat rest := by omega
      simp only [bytesNat, List.getElem_cons_succ]
      rw [Nat.pow_succ', ← Nat.div_div_eq_div_mul, e, ih i h']

/-! ### A write at its home -/

@[simp] theorem sequenceWord_mem (s : State) (pa : Nat) : (sequenceWord s pa).mem = s.mem := by
  unfold sequenceWord; split <;> rfl
@[simp] theorem sequenceWord_hart (s : State) (pa : Nat) : (sequenceWord s pa).hart = s.hart := by
  unfold sequenceWord; split <;> rfl
@[simp] theorem sequenceWord_others (s : State) (pa : Nat) : (sequenceWord s pa).others = s.others := by
  unfold sequenceWord; split <;> rfl
@[simp] theorem sequenceWord_parts (s : State) (pa : Nat) : (sequenceWord s pa).parts = s.parts := by
  unfold sequenceWord; split <;> rfl
@[simp] theorem sequenceWord_packets (s : State) (pa : Nat) : (sequenceWord s pa).packets = s.packets := by
  unfold sequenceWord; split <;> rfl
@[simp] theorem sequenceWord_launches (s : State) (pa : Nat) : (sequenceWord s pa).launches = s.launches := by
  unfold sequenceWord; split <;> rfl
@[simp] theorem sequenceWord_clock (s : State) (pa : Nat) : (sequenceWord s pa).clock = s.clock := by
  unfold sequenceWord; split <;> rfl
@[simp] theorem sequenceWord_bad (s : State) (pa : Nat) : (sequenceWord s pa).bad = s.bad := by
  unfold sequenceWord; split <;> rfl
@[simp] theorem sequenceWord_dirty (s : State) (pa : Nat) : (sequenceWord s pa).dirty = s.dirty := by
  unfold sequenceWord; split <;> rfl

/-- Raising a mailbox interrupt changes nothing but the interrupts that are due. -/
theorem notifyWord_frame (s : State) (pa : Nat) : notifyWord s pa = { s with msix := (notifyWord s pa).msix } := by
  unfold notifyWord
  split
  · rfl
  · simp only []
    split <;> rfl

@[simp] theorem notifyWord_mem (s : State) (pa : Nat) : (notifyWord s pa).mem = s.mem := by rw [notifyWord_frame]
@[simp] theorem notifyWord_hart (s : State) (pa : Nat) : (notifyWord s pa).hart = s.hart := by rw [notifyWord_frame]
@[simp] theorem notifyWord_others (s : State) (pa : Nat) : (notifyWord s pa).others = s.others := by rw [notifyWord_frame]
@[simp] theorem notifyWord_parts (s : State) (pa : Nat) : (notifyWord s pa).parts = s.parts := by rw [notifyWord_frame]
@[simp] theorem notifyWord_packets (s : State) (pa : Nat) : (notifyWord s pa).packets = s.packets := by rw [notifyWord_frame]
@[simp] theorem notifyWord_launches (s : State) (pa : Nat) : (notifyWord s pa).launches = s.launches := by rw [notifyWord_frame]
@[simp] theorem notifyWord_clock (s : State) (pa : Nat) : (notifyWord s pa).clock = s.clock := by rw [notifyWord_frame]
@[simp] theorem notifyWord_bad (s : State) (pa : Nat) : (notifyWord s pa).bad = s.bad := by rw [notifyWord_frame]
@[simp] theorem notifyWord_dirty (s : State) (pa : Nat) : (notifyWord s pa).dirty = s.dirty := by rw [notifyWord_frame]

/-- A write at its home stores the bytes, lowest first, whatever else it sets off. -/
@[simp] theorem writeHome_mem (s : State) (keep : Option Nat) (pa size v : Nat) :
    (writeHome s keep pa size v).mem = ssetBytes s.mem pa size v := by simp [writeHome]
@[simp] theorem writeHome_hart (s : State) (keep : Option Nat) (pa size v : Nat) : (writeHome s keep pa size v).hart = s.hart := by
  simp [writeHome]
@[simp] theorem writeHome_others (s : State) (keep : Option Nat) (pa size v : Nat) :
    (writeHome s keep pa size v).others = s.others := by simp [writeHome]
@[simp] theorem writeHome_parts (s : State) (keep : Option Nat) (pa size v : Nat) :
    (writeHome s keep pa size v).parts = s.parts := by simp [writeHome]
@[simp] theorem writeHome_packets (s : State) (keep : Option Nat) (pa size v : Nat) :
    (writeHome s keep pa size v).packets = s.packets := by simp [writeHome]
@[simp] theorem writeHome_launches (s : State) (keep : Option Nat) (pa size v : Nat) :
    (writeHome s keep pa size v).launches = s.launches := by simp [writeHome]
@[simp] theorem writeHome_clock (s : State) (keep : Option Nat) (pa size v : Nat) :
    (writeHome s keep pa size v).clock = s.clock := by simp [writeHome]
@[simp] theorem writeHome_bad (s : State) (keep : Option Nat) (pa size v : Nat) :
    (writeHome s keep pa size v).bad = s.bad := by simp [writeHome]

/-- Every byte after a write at its home: the bytes written, and every other byte as before (R97). -/
theorem sget_writeHome (s : State) (keep : Option Nat) (pa size v a : Nat) :
    sget (writeHome s keep pa size v).mem a =
      if pa ≤ a ∧ a < pa + size then BitVec.ofNat 8 (v / 256 ^ (a - pa)) else sget s.mem a := by
  rw [writeHome_mem, sget_ssetBytes]

/-! ### Bytes at their homes -/

/-- What a write of bytes leaves of anything that a write at a home leaves alone. -/
theorem writeChunks_keeps {α : Type} (p : State → α) (h : ∀ s keep pa size v, p (writeHome s keep pa size v) = p s)
    (s : State) (keep : Option Nat) (pa : Nat) (bs : List Byte) (fuel : Nat) : p (writeChunks s keep pa bs fuel) = p s := by
  induction fuel generalizing s pa bs with
  | zero => rfl
  | succ fuel ih =>
    simp only [writeChunks]
    split
    · rfl
    · rw [ih, h]

@[simp] theorem writeBytes_hart (s : State) (keep : Option Nat) (pa : Nat) (bs : List Byte) : (writeBytes s keep pa bs).hart = s.hart :=
  writeChunks_keeps (·.hart) (by simp) ..
@[simp] theorem writeBytes_others (s : State) (keep : Option Nat) (pa : Nat) (bs : List Byte) :
    (writeBytes s keep pa bs).others = s.others := writeChunks_keeps (·.others) (by simp) ..
@[simp] theorem writeBytes_parts (s : State) (keep : Option Nat) (pa : Nat) (bs : List Byte) :
    (writeBytes s keep pa bs).parts = s.parts := writeChunks_keeps (·.parts) (by simp) ..
@[simp] theorem writeBytes_packets (s : State) (keep : Option Nat) (pa : Nat) (bs : List Byte) :
    (writeBytes s keep pa bs).packets = s.packets := writeChunks_keeps (·.packets) (by simp) ..
@[simp] theorem writeBytes_launches (s : State) (keep : Option Nat) (pa : Nat) (bs : List Byte) :
    (writeBytes s keep pa bs).launches = s.launches := writeChunks_keeps (·.launches) (by simp) ..
@[simp] theorem writeBytes_clock (s : State) (keep : Option Nat) (pa : Nat) (bs : List Byte) :
    (writeBytes s keep pa bs).clock = s.clock := writeChunks_keeps (·.clock) (by simp) ..
@[simp] theorem writeBytes_bad (s : State) (keep : Option Nat) (pa : Nat) (bs : List Byte) :
    (writeBytes s keep pa bs).bad = s.bad := writeChunks_keeps (·.bad) (by simp) ..

theorem sget_writeChunks (s : State) (keep : Option Nat) (pa : Nat) (bs : List Byte) (fuel a : Nat) (hf : bs.length ≤ fuel) :
    sget (writeChunks s keep pa bs fuel).mem a =
      if h : pa ≤ a ∧ a < pa + bs.length then bs[a - pa]'(by omega) else sget s.mem a := by
  induction fuel generalizing s pa bs with
  | zero =>
    have : bs = [] := List.length_eq_zero_iff.1 (by omega)
    subst this
    have : ¬(pa ≤ a ∧ a < pa + ([] : List Byte).length) := by simp
    rw [dif_neg this]
    rfl
  | succ fuel ih =>
    simp only [writeChunks]
    by_cases hb : bs.isEmpty
    · have : bs = [] := List.isEmpty_iff.1 hb
      subst this
      have : ¬(pa ≤ a ∧ a < pa + ([] : List Byte).length) := by simp
      rw [if_pos hb, dif_neg this]
    · rw [if_neg hb]
      have hne : 0 < bs.length := by
        rcases Nat.eq_zero_or_pos bs.length with h | h
        · exact absurd (List.isEmpty_iff.2 (List.length_eq_zero_iff.1 h)) hb
        · exact h
      have hn : 0 < 8 - pa % 8 := by omega
      rw [ih]
      · rw [sget_writeHome]
        simp only [List.length_drop, List.length_take]
        by_cases h1 : pa + (8 - pa % 8) ≤ a ∧ a < pa + (8 - pa % 8) + (bs.length - (8 - pa % 8))
        · have h2 : pa ≤ a ∧ a < pa + bs.length := by omega
          rw [dif_pos h1, dif_pos h2]
          simp only [List.getElem_drop]
          congr 1
          omega
        · rw [dif_neg h1]
          by_cases h3 : pa ≤ a ∧ a < pa + min (8 - pa % 8) bs.length
          · have h2 : pa ≤ a ∧ a < pa + bs.length := by omega
            rw [if_pos h3, dif_pos h2, bytesNat_byte _ _ (by simp only [List.length_take]; omega)]
            simp only [List.getElem_take]
          · have h2 : ¬(pa ≤ a ∧ a < pa + bs.length) := by omega
            rw [if_neg h3, dif_neg h2]
      · simp only [List.length_drop]
        omega

/-- Every byte after bytes are written at their homes (R96, R97). -/
theorem sget_writeBytes (s : State) (keep : Option Nat) (pa : Nat) (bs : List Byte) (a : Nat) :
    sget (writeBytes s keep pa bs).mem a = if h : pa ≤ a ∧ a < pa + bs.length then bs[a - pa]'(by omega) else sget s.mem a :=
  sget_writeChunks _ _ _ _ _ _ (Nat.le_refl _)

/-- Bytes read where they were written. -/
theorem readBytes_writeBytes (s : State) (keep : Option Nat) (pa : Nat) (bs : List Byte) :
    readBytes (writeBytes s keep pa bs) pa bs.length = bs := by
  apply List.ext_getElem
  · simp [readBytes]
  · intro i h1 h2
    have h3 : pa ≤ pa + i ∧ pa + i < pa + bs.length := by omega
    simp only [readBytes, List.getElem_map, List.getElem_range, sget_writeBytes]
    rw [dif_pos h3]
    congr 1
    omega

/-! ### The canonical form of memory -/

theorem writeHome_wf (s : State) (keep : Option Nat) (pa size v : Nat) (h : Memory.wf s.mem = true) :
    Memory.wf (writeHome s keep pa size v).mem = true := by
  rw [writeHome_mem]
  exact Sparse.wf_ssetBytes _ _ _ _ h

theorem writeBytes_wf (s : State) (keep : Option Nat) (pa : Nat) (bs : List Byte) (h : Memory.wf s.mem = true) :
    Memory.wf (writeBytes s keep pa bs).mem = true := by
  unfold writeBytes
  generalize bs.length = fuel
  induction fuel generalizing s pa bs with
  | zero => exact h
  | succ fuel ih =>
    simp only [writeChunks]
    split
    · exact h
    · exact ih _ _ _ (writeHome_wf _ _ _ _ _ h)

/-- The memory after reset has the form. -/
theorem reset_memory_wf : Memory.wf State.reset.mem = true := rfl

/-! ### Harts by core number -/

@[simp] theorem hartAt_self (s : State) : hartAt s s.hart.core = s.hart := by simp [hartAt]
@[simp] theorem onCore_self (s : State) (f : Hart → Hart) : onCore s s.hart.core f = { s with hart := f s.hart } := by simp [onCore]
@[simp] theorem focus_self (s : State) : focus s s.hart.core = s := by simp [focus]
@[simp] theorem onCore_mem (s : State) (c : Nat) (f : Hart → Hart) : (onCore s c f).mem = s.mem := by unfold onCore; split <;> rfl
@[simp] theorem onHarts_mem (s : State) (f : Hart → Hart) : (onHarts s f).mem = s.mem := rfl
@[simp] theorem focus_mem (s : State) (c : Nat) : (focus s c).mem = s.mem := by
  unfold focus; split
  · rfl
  · split <;> rfl

/-- Changing the hart of one core leaves every other hart. -/
theorem hartAt_onCore_other (s : State) (c d : Nat) (f : Hart → Hart) (hf : ∀ h, (f h).core = h.core) (h : c ≠ d) :
    hartAt (onCore s c f) d = hartAt s d := by
  unfold onCore
  split
  · next hc =>
    have h1 : (f s.hart).core ≠ d := by rw [hf, hc]; exact h
    have h2 : s.hart.core ≠ d := by rw [hc]; exact h
    simp only [hartAt, h1, h2, if_false]
  · simp only [hartAt]
    split
    · rfl
    · congr 1
      induction s.others with
      | nil => rfl
      | cons g rest ih =>
        by_cases hg : g.core = c
        · have h1 : (f g).core ≠ d := by rw [hf, hg]; exact h
          have h2 : g.core ≠ d := by rw [hg]; exact h
          simp [hg, h1, h, ih]
        · by_cases hd : g.core = d
          · rw [List.map_cons, if_neg hg, List.find?_cons_of_pos (by simpa using hd),
              List.find?_cons_of_pos (by simpa using hd)]
          · rw [List.map_cons, if_neg hg, List.find?_cons_of_neg (by simpa using hd),
              List.find?_cons_of_neg (by simpa using hd), ih]

/-- Changing the hart of a core that has one changes that hart. -/
theorem hartAt_onCore_same (s : State) (c : Nat) (f : Hart → Hart) (hf : ∀ h, (f h).core = h.core) (h : ∃ g ∈ s.harts, g.core = c) :
    hartAt (onCore s c f) c = f (hartAt s c) := by
  unfold onCore
  split
  · next hc =>
    have h1 : (f s.hart).core = c := by rw [hf, hc]
    simp [hartAt, h1, hc]
  · next hc =>
    simp only [hartAt, hc, if_false]
    obtain ⟨g, hg, hgc⟩ := h
    rcases List.mem_cons.1 hg with rfl | hg
    · exact absurd hgc hc
    · replace hg : g ∈ s.others := hg
      generalize s.others = l at hg
      clear hc
      induction l with
      | nil => simp at hg
      | cons k rest ih =>
        by_cases hk : k.core = c
        · have : (f k).core = c := by rw [hf, hk]
          simp [hk, this]
        · rcases List.mem_cons.1 hg with rfl | hg
          · exact absurd hgc hk
          · simpa [hk] using ih hg

end Sys2Proof.Machine
end

