-- ==== Sys2Proof/Laws/State.lean ====
section
/-! SUPPORT. What each plain update of the state leaves in each field, so that no later proof unfolds a record update. -/

namespace Sys2Proof.Machine

/-! ### setPc -/

@[simp] theorem setPc_others (s : State) (p : Word) : (setPc s p).others = s.others := rfl
@[simp] theorem setPc_mem (s : State) (p : Word) : (setPc s p).mem = s.mem := rfl
@[simp] theorem setPc_hostMem (s : State) (p : Word) : (setPc s p).hostMem = s.hostMem := rfl
@[simp] theorem setPc_dirty (s : State) (p : Word) : (setPc s p).dirty = s.dirty := rfl
@[simp] theorem setPc_packets (s : State) (p : Word) : (setPc s p).packets = s.packets := rfl
@[simp] theorem setPc_serial (s : State) (p : Word) : (setPc s p).serial = s.serial := rfl
@[simp] theorem setPc_directory (s : State) (p : Word) : (setPc s p).directory = s.directory := rfl
@[simp] theorem setPc_severed (s : State) (p : Word) : (setPc s p).severed = s.severed := rfl
@[simp] theorem setPc_pushes (s : State) (p : Word) : (setPc s p).pushes = s.pushes := rfl
@[simp] theorem setPc_bounces (s : State) (p : Word) : (setPc s p).bounces = s.bounces := rfl
@[simp] theorem setPc_stands (s : State) (p : Word) : (setPc s p).stands = s.stands := rfl
@[simp] theorem setPc_unstands (s : State) (p : Word) : (setPc s p).unstands = s.unstands := rfl
@[simp] theorem setPc_early (s : State) (p : Word) : (setPc s p).early = s.early := rfl
@[simp] theorem setPc_olds (s : State) (p : Word) : (setPc s p).olds = s.olds := rfl
@[simp] theorem setPc_launches (s : State) (p : Word) : (setPc s p).launches = s.launches := rfl
@[simp] theorem setPc_husks (s : State) (p : Word) : (setPc s p).husks = s.husks := rfl
@[simp] theorem setPc_parts (s : State) (p : Word) : (setPc s p).parts = s.parts := rfl
@[simp] theorem setPc_dieTlb (s : State) (p : Word) : (setPc s p).dieTlb = s.dieTlb := rfl
@[simp] theorem setPc_hbm (s : State) (p : Word) : (setPc s p).hbm = s.hbm := rfl
@[simp] theorem setPc_blocks (s : State) (p : Word) : (setPc s p).blocks = s.blocks := rfl
@[simp] theorem setPc_leases (s : State) (p : Word) : (setPc s p).leases = s.leases := rfl
@[simp] theorem setPc_moves (s : State) (p : Word) : (setPc s p).moves = s.moves := rfl
@[simp] theorem setPc_chainCtx (s : State) (p : Word) : (setPc s p).chainCtx = s.chainCtx := rfl
@[simp] theorem setPc_suspects (s : State) (p : Word) : (setPc s p).suspects = s.suspects := rfl
@[simp] theorem setPc_lamp (s : State) (p : Word) : (setPc s p).lamp = s.lamp := rfl
@[simp] theorem setPc_lampHolder (s : State) (p : Word) : (setPc s p).lampHolder = s.lampHolder := rfl
@[simp] theorem setPc_lampSeen (s : State) (p : Word) : (setPc s p).lampSeen = s.lampSeen := rfl
@[simp] theorem setPc_netctl (s : State) (p : Word) : (setPc s p).netctl = s.netctl := rfl
@[simp] theorem setPc_pits (s : State) (p : Word) : (setPc s p).pits = s.pits := rfl
@[simp] theorem setPc_corrected (s : State) (p : Word) : (setPc s p).corrected = s.corrected := rfl
@[simp] theorem setPc_bad (s : State) (p : Word) : (setPc s p).bad = s.bad := rfl
@[simp] theorem setPc_bootst (s : State) (p : Word) : (setPc s p).bootst = s.bootst := rfl
@[simp] theorem setPc_booting (s : State) (p : Word) : (setPc s p).booting = s.booting := rfl
@[simp] theorem setPc_enstk (s : State) (p : Word) : (setPc s p).enstk = s.enstk := rfl
@[simp] theorem setPc_cxlMem (s : State) (p : Word) : (setPc s p).cxlMem = s.cxlMem := rfl
@[simp] theorem setPc_decoder (s : State) (p : Word) : (setPc s p).decoder = s.decoder := rfl
@[simp] theorem setPc_hostLines (s : State) (p : Word) : (setPc s p).hostLines = s.hostLines := rfl
@[simp] theorem setPc_requireIde (s : State) (p : Word) : (setPc s p).requireIde = s.requireIde := rfl
@[simp] theorem setPc_ide (s : State) (p : Word) : (setPc s p).ide = s.ide := rfl
@[simp] theorem setPc_spdm (s : State) (p : Word) : (setPc s p).spdm = s.spdm := rfl
@[simp] theorem setPc_digests (s : State) (p : Word) : (setPc s p).digests = s.digests := rfl
@[simp] theorem setPc_msix (s : State) (p : Word) : (setPc s p).msix = s.msix := rfl
@[simp] theorem setPc_throttle (s : State) (p : Word) : (setPc s p).throttle = s.throttle := rfl
@[simp] theorem setPc_raised (s : State) (p : Word) : (setPc s p).raised = s.raised := rfl
@[simp] theorem setPc_warm (s : State) (p : Word) : (setPc s p).warm = s.warm := rfl
@[simp] theorem setPc_thermal (s : State) (p : Word) : (setPc s p).thermal = s.thermal := rfl
@[simp] theorem setPc_clock (s : State) (p : Word) : (setPc s p).clock = s.clock := rfl
@[simp] theorem setPc_fresh (s : State) (p : Word) : (setPc s p).fresh = s.fresh := rfl
@[simp] theorem setPc_outbox (s : State) (p : Word) : (setPc s p).outbox = s.outbox := rfl
@[simp] theorem setPc_agenda (s : State) (p : Word) : (setPc s p).agenda = s.agenda := rfl
@[simp] theorem setPc_hart_core (s : State) (p : Word) : (setPc s p).hart.core = s.hart.core := rfl
@[simp] theorem setPc_hart_regs (s : State) (p : Word) : (setPc s p).hart.regs = s.hart.regs := rfl
@[simp] theorem setPc_hart_pc (s : State) (p : Word) : (setPc s p).hart.pc = p := rfl
@[simp] theorem setPc_hart_ir (s : State) (p : Word) : (setPc s p).hart.ir = s.hart.ir := rfl
@[simp] theorem setPc_hart_pending (s : State) (p : Word) : (setPc s p).hart.pending = s.hart.pending := rfl
@[simp] theorem setPc_hart_run (s : State) (p : Word) : (setPc s p).hart.run = s.hart.run := rfl
@[simp] theorem setPc_hart_waitDue (s : State) (p : Word) : (setPc s p).hart.waitDue = s.hart.waitDue := rfl
@[simp] theorem setPc_hart_stopping (s : State) (p : Word) : (setPc s p).hart.stopping = s.hart.stopping := rfl
@[simp] theorem setPc_hart_dump (s : State) (p : Word) : (setPc s p).hart.dump = s.hart.dump := rfl
@[simp] theorem setPc_hart_csr (s : State) (p : Word) : (setPc s p).hart.csr = s.hart.csr := rfl
@[simp] theorem setPc_hart_latch (s : State) (p : Word) : (setPc s p).hart.latch = s.hart.latch := rfl
@[simp] theorem setPc_hart_owner (s : State) (p : Word) : (setPc s p).hart.owner = s.hart.owner := rfl
@[simp] theorem setPc_hart_vec (s : State) (p : Word) : (setPc s p).hart.vec = s.hart.vec := rfl
@[simp] theorem setPc_hart_restart (s : State) (p : Word) : (setPc s p).hart.restart = s.hart.restart := rfl
@[simp] theorem setPc_hart_held (s : State) (p : Word) : (setPc s p).hart.held = s.hart.held := rfl
@[simp] theorem setPc_hart_queue (s : State) (p : Word) : (setPc s p).hart.queue = s.hart.queue := rfl
@[simp] theorem setPc_hart_vseq (s : State) (p : Word) : (setPc s p).hart.vseq = s.hart.vseq := rfl
@[simp] theorem setPc_hart_vnow (s : State) (p : Word) : (setPc s p).hart.vnow = s.hart.vnow := rfl
@[simp] theorem setPc_hart_started (s : State) (p : Word) : (setPc s p).hart.started = s.hart.started := rfl
@[simp] theorem setPc_hart_stalled (s : State) (p : Word) : (setPc s p).hart.stalled = s.hart.stalled := rfl
@[simp] theorem setPc_hart_vf (s : State) (p : Word) : (setPc s p).hart.vf = s.hart.vf := rfl
@[simp] theorem setPc_hart_vpNow (s : State) (p : Word) : (setPc s p).hart.vpNow = s.hart.vpNow := rfl
@[simp] theorem setPc_hart_convoy (s : State) (p : Word) : (setPc s p).hart.convoy = s.hart.convoy := rfl
@[simp] theorem setPc_hart_closed (s : State) (p : Word) : (setPc s p).hart.closed = s.hart.closed := rfl
@[simp] theorem setPc_hart_sdm (s : State) (p : Word) : (setPc s p).hart.sdm = s.hart.sdm := rfl
@[simp] theorem setPc_hart_spad (s : State) (p : Word) : (setPc s p).hart.spad = s.hart.spad := rfl
@[simp] theorem setPc_hart_recv (s : State) (p : Word) : (setPc s p).hart.recv = s.hart.recv := rfl
@[simp] theorem setPc_hart_buffer (s : State) (p : Word) : (setPc s p).hart.buffer = s.hart.buffer := rfl
@[simp] theorem setPc_hart_released (s : State) (p : Word) : (setPc s p).hart.released = s.hart.released := rfl
@[simp] theorem setPc_hart_loads (s : State) (p : Word) : (setPc s p).hart.loads = s.hart.loads := rfl
@[simp] theorem setPc_hart_reissue (s : State) (p : Word) : (setPc s p).hart.reissue = s.hart.reissue := rfl
@[simp] theorem setPc_hart_fetched (s : State) (p : Word) : (setPc s p).hart.fetched = s.hart.fetched := rfl
@[simp] theorem setPc_hart_tlb (s : State) (p : Word) : (setPc s p).hart.tlb = s.hart.tlb := rfl
@[simp] theorem setPc_hart_engines (s : State) (p : Word) : (setPc s p).hart.engines = s.hart.engines := rfl
@[simp] theorem setPc_hart_launchReqs (s : State) (p : Word) : (setPc s p).hart.launchReqs = s.hart.launchReqs := rfl
@[simp] theorem setPc_hart_loop (s : State) (p : Word) : (setPc s p).hart.loop = s.hart.loop := rfl
@[simp] theorem setPc_hart_banks (s : State) (p : Word) : (setPc s p).hart.banks = s.hart.banks := rfl
@[simp] theorem setPc_hart_quantum (s : State) (p : Word) : (setPc s p).hart.quantum = s.hart.quantum := rfl
@[simp] theorem setPc_hart_quantumStart (s : State) (p : Word) : (setPc s p).hart.quantumStart = s.hart.quantumStart := rfl
@[simp] theorem setPc_hart_trace (s : State) (p : Word) : (setPc s p).hart.trace = s.hart.trace := rfl

/-! ### advance -/

@[simp] theorem advance_others (s : State) : (advance s).others = s.others := rfl
@[simp] theorem advance_mem (s : State) : (advance s).mem = s.mem := rfl
@[simp] theorem advance_hostMem (s : State) : (advance s).hostMem = s.hostMem := rfl
@[simp] theorem advance_dirty (s : State) : (advance s).dirty = s.dirty := rfl
@[simp] theorem advance_packets (s : State) : (advance s).packets = s.packets := rfl
@[simp] theorem advance_serial (s : State) : (advance s).serial = s.serial := rfl
@[simp] theorem advance_directory (s : State) : (advance s).directory = s.directory := rfl
@[simp] theorem advance_severed (s : State) : (advance s).severed = s.severed := rfl
@[simp] theorem advance_pushes (s : State) : (advance s).pushes = s.pushes := rfl
@[simp] theorem advance_bounces (s : State) : (advance s).bounces = s.bounces := rfl
@[simp] theorem advance_stands (s : State) : (advance s).stands = s.stands := rfl
@[simp] theorem advance_unstands (s : State) : (advance s).unstands = s.unstands := rfl
@[simp] theorem advance_early (s : State) : (advance s).early = s.early := rfl
@[simp] theorem advance_olds (s : State) : (advance s).olds = s.olds := rfl
@[simp] theorem advance_launches (s : State) : (advance s).launches = s.launches := rfl
@[simp] theorem advance_husks (s : State) : (advance s).husks = s.husks := rfl
@[simp] theorem advance_parts (s : State) : (advance s).parts = s.parts := rfl
@[simp] theorem advance_dieTlb (s : State) : (advance s).dieTlb = s.dieTlb := rfl
@[simp] theorem advance_hbm (s : State) : (advance s).hbm = s.hbm := rfl
@[simp] theorem advance_blocks (s : State) : (advance s).blocks = s.blocks := rfl
@[simp] theorem advance_leases (s : State) : (advance s).leases = s.leases := rfl
@[simp] theorem advance_moves (s : State) : (advance s).moves = s.moves := rfl
@[simp] theorem advance_chainCtx (s : State) : (advance s).chainCtx = s.chainCtx := rfl
@[simp] theorem advance_suspects (s : State) : (advance s).suspects = s.suspects := rfl
@[simp] theorem advance_lamp (s : State) : (advance s).lamp = s.lamp := rfl
@[simp] theorem advance_lampHolder (s : State) : (advance s).lampHolder = s.lampHolder := rfl
@[simp] theorem advance_lampSeen (s : State) : (advance s).lampSeen = s.lampSeen := rfl
@[simp] theorem advance_netctl (s : State) : (advance s).netctl = s.netctl := rfl
@[simp] theorem advance_pits (s : State) : (advance s).pits = s.pits := rfl
@[simp] theorem advance_corrected (s : State) : (advance s).corrected = s.corrected := rfl
@[simp] theorem advance_bad (s : State) : (advance s).bad = s.bad := rfl
@[simp] theorem advance_bootst (s : State) : (advance s).bootst = s.bootst := rfl
@[simp] theorem advance_booting (s : State) : (advance s).booting = s.booting := rfl
@[simp] theorem advance_enstk (s : State) : (advance s).enstk = s.enstk := rfl
@[simp] theorem advance_cxlMem (s : State) : (advance s).cxlMem = s.cxlMem := rfl
@[simp] theorem advance_decoder (s : State) : (advance s).decoder = s.decoder := rfl
@[simp] theorem advance_hostLines (s : State) : (advance s).hostLines = s.hostLines := rfl
@[simp] theorem advance_requireIde (s : State) : (advance s).requireIde = s.requireIde := rfl
@[simp] theorem advance_ide (s : State) : (advance s).ide = s.ide := rfl
@[simp] theorem advance_spdm (s : State) : (advance s).spdm = s.spdm := rfl
@[simp] theorem advance_digests (s : State) : (advance s).digests = s.digests := rfl
@[simp] theorem advance_msix (s : State) : (advance s).msix = s.msix := rfl
@[simp] theorem advance_throttle (s : State) : (advance s).throttle = s.throttle := rfl
@[simp] theorem advance_raised (s : State) : (advance s).raised = s.raised := rfl
@[simp] theorem advance_warm (s : State) : (advance s).warm = s.warm := rfl
@[simp] theorem advance_thermal (s : State) : (advance s).thermal = s.thermal := rfl
@[simp] theorem advance_clock (s : State) : (advance s).clock = s.clock := rfl
@[simp] theorem advance_fresh (s : State) : (advance s).fresh = s.fresh := rfl
@[simp] theorem advance_outbox (s : State) : (advance s).outbox = s.outbox := rfl
@[simp] theorem advance_agenda (s : State) : (advance s).agenda = s.agenda := rfl
@[simp] theorem advance_hart_core (s : State) : (advance s).hart.core = s.hart.core := rfl
@[simp] theorem advance_hart_regs (s : State) : (advance s).hart.regs = s.hart.regs := rfl
@[simp] theorem advance_hart_pc (s : State) : (advance s).hart.pc = s.hart.pc + 4 := rfl
@[simp] theorem advance_hart_ir (s : State) : (advance s).hart.ir = s.hart.ir := rfl
@[simp] theorem advance_hart_pending (s : State) : (advance s).hart.pending = s.hart.pending := rfl
@[simp] theorem advance_hart_run (s : State) : (advance s).hart.run = s.hart.run := rfl
@[simp] theorem advance_hart_waitDue (s : State) : (advance s).hart.waitDue = s.hart.waitDue := rfl
@[simp] theorem advance_hart_stopping (s : State) : (advance s).hart.stopping = s.hart.stopping := rfl
@[simp] theorem advance_hart_dump (s : State) : (advance s).hart.dump = s.hart.dump := rfl
@[simp] theorem advance_hart_csr (s : State) : (advance s).hart.csr = s.hart.csr := rfl
@[simp] theorem advance_hart_latch (s : State) : (advance s).hart.latch = s.hart.latch := rfl
@[simp] theorem advance_hart_owner (s : State) : (advance s).hart.owner = s.hart.owner := rfl
@[simp] theorem advance_hart_vec (s : State) : (advance s).hart.vec = s.hart.vec := rfl
@[simp] theorem advance_hart_restart (s : State) : (advance s).hart.restart = s.hart.restart := rfl
@[simp] theorem advance_hart_held (s : State) : (advance s).hart.held = s.hart.held := rfl
@[simp] theorem advance_hart_queue (s : State) : (advance s).hart.queue = s.hart.queue := rfl
@[simp] theorem advance_hart_vseq (s : State) : (advance s).hart.vseq = s.hart.vseq := rfl
@[simp] theorem advance_hart_vnow (s : State) : (advance s).hart.vnow = s.hart.vnow := rfl
@[simp] theorem advance_hart_started (s : State) : (advance s).hart.started = s.hart.started := rfl
@[simp] theorem advance_hart_stalled (s : State) : (advance s).hart.stalled = s.hart.stalled := rfl
@[simp] theorem advance_hart_vf (s : State) : (advance s).hart.vf = s.hart.vf := rfl
@[simp] theorem advance_hart_vpNow (s : State) : (advance s).hart.vpNow = s.hart.vpNow := rfl
@[simp] theorem advance_hart_convoy (s : State) : (advance s).hart.convoy = s.hart.convoy := rfl
@[simp] theorem advance_hart_closed (s : State) : (advance s).hart.closed = s.hart.closed := rfl
@[simp] theorem advance_hart_sdm (s : State) : (advance s).hart.sdm = s.hart.sdm := rfl
@[simp] theorem advance_hart_spad (s : State) : (advance s).hart.spad = s.hart.spad := rfl
@[simp] theorem advance_hart_recv (s : State) : (advance s).hart.recv = s.hart.recv := rfl
@[simp] theorem advance_hart_buffer (s : State) : (advance s).hart.buffer = s.hart.buffer := rfl
@[simp] theorem advance_hart_released (s : State) : (advance s).hart.released = s.hart.released := rfl
@[simp] theorem advance_hart_loads (s : State) : (advance s).hart.loads = s.hart.loads := rfl
@[simp] theorem advance_hart_reissue (s : State) : (advance s).hart.reissue = s.hart.reissue := rfl
@[simp] theorem advance_hart_fetched (s : State) : (advance s).hart.fetched = s.hart.fetched := rfl
@[simp] theorem advance_hart_tlb (s : State) : (advance s).hart.tlb = s.hart.tlb := rfl
@[simp] theorem advance_hart_engines (s : State) : (advance s).hart.engines = s.hart.engines := rfl
@[simp] theorem advance_hart_launchReqs (s : State) : (advance s).hart.launchReqs = s.hart.launchReqs := rfl
@[simp] theorem advance_hart_loop (s : State) : (advance s).hart.loop = s.hart.loop := rfl
@[simp] theorem advance_hart_banks (s : State) : (advance s).hart.banks = s.hart.banks := rfl
@[simp] theorem advance_hart_quantum (s : State) : (advance s).hart.quantum = s.hart.quantum := rfl
@[simp] theorem advance_hart_quantumStart (s : State) : (advance s).hart.quantumStart = s.hart.quantumStart := rfl
@[simp] theorem advance_hart_trace (s : State) : (advance s).hart.trace = s.hart.trace := rfl

/-! ### stall -/

@[simp] theorem stall_others (s : State) : (stall s).others = s.others := rfl
@[simp] theorem stall_mem (s : State) : (stall s).mem = s.mem := rfl
@[simp] theorem stall_hostMem (s : State) : (stall s).hostMem = s.hostMem := rfl
@[simp] theorem stall_dirty (s : State) : (stall s).dirty = s.dirty := rfl
@[simp] theorem stall_packets (s : State) : (stall s).packets = s.packets := rfl
@[simp] theorem stall_serial (s : State) : (stall s).serial = s.serial := rfl
@[simp] theorem stall_directory (s : State) : (stall s).directory = s.directory := rfl
@[simp] theorem stall_severed (s : State) : (stall s).severed = s.severed := rfl
@[simp] theorem stall_pushes (s : State) : (stall s).pushes = s.pushes := rfl
@[simp] theorem stall_bounces (s : State) : (stall s).bounces = s.bounces := rfl
@[simp] theorem stall_stands (s : State) : (stall s).stands = s.stands := rfl
@[simp] theorem stall_unstands (s : State) : (stall s).unstands = s.unstands := rfl
@[simp] theorem stall_early (s : State) : (stall s).early = s.early := rfl
@[simp] theorem stall_olds (s : State) : (stall s).olds = s.olds := rfl
@[simp] theorem stall_launches (s : State) : (stall s).launches = s.launches := rfl
@[simp] theorem stall_husks (s : State) : (stall s).husks = s.husks := rfl
@[simp] theorem stall_parts (s : State) : (stall s).parts = s.parts := rfl
@[simp] theorem stall_dieTlb (s : State) : (stall s).dieTlb = s.dieTlb := rfl
@[simp] theorem stall_hbm (s : State) : (stall s).hbm = s.hbm := rfl
@[simp] theorem stall_blocks (s : State) : (stall s).blocks = s.blocks := rfl
@[simp] theorem stall_leases (s : State) : (stall s).leases = s.leases := rfl
@[simp] theorem stall_moves (s : State) : (stall s).moves = s.moves := rfl
@[simp] theorem stall_chainCtx (s : State) : (stall s).chainCtx = s.chainCtx := rfl
@[simp] theorem stall_suspects (s : State) : (stall s).suspects = s.suspects := rfl
@[simp] theorem stall_lamp (s : State) : (stall s).lamp = s.lamp := rfl
@[simp] theorem stall_lampHolder (s : State) : (stall s).lampHolder = s.lampHolder := rfl
@[simp] theorem stall_lampSeen (s : State) : (stall s).lampSeen = s.lampSeen := rfl
@[simp] theorem stall_netctl (s : State) : (stall s).netctl = s.netctl := rfl
@[simp] theorem stall_pits (s : State) : (stall s).pits = s.pits := rfl
@[simp] theorem stall_corrected (s : State) : (stall s).corrected = s.corrected := rfl
@[simp] theorem stall_bad (s : State) : (stall s).bad = s.bad := rfl
@[simp] theorem stall_bootst (s : State) : (stall s).bootst = s.bootst := rfl
@[simp] theorem stall_booting (s : State) : (stall s).booting = s.booting := rfl
@[simp] theorem stall_enstk (s : State) : (stall s).enstk = s.enstk := rfl
@[simp] theorem stall_cxlMem (s : State) : (stall s).cxlMem = s.cxlMem := rfl
@[simp] theorem stall_decoder (s : State) : (stall s).decoder = s.decoder := rfl
@[simp] theorem stall_hostLines (s : State) : (stall s).hostLines = s.hostLines := rfl
@[simp] theorem stall_requireIde (s : State) : (stall s).requireIde = s.requireIde := rfl
@[simp] theorem stall_ide (s : State) : (stall s).ide = s.ide := rfl
@[simp] theorem stall_spdm (s : State) : (stall s).spdm = s.spdm := rfl
@[simp] theorem stall_digests (s : State) : (stall s).digests = s.digests := rfl
@[simp] theorem stall_msix (s : State) : (stall s).msix = s.msix := rfl
@[simp] theorem stall_throttle (s : State) : (stall s).throttle = s.throttle := rfl
@[simp] theorem stall_raised (s : State) : (stall s).raised = s.raised := rfl
@[simp] theorem stall_warm (s : State) : (stall s).warm = s.warm := rfl
@[simp] theorem stall_thermal (s : State) : (stall s).thermal = s.thermal := rfl
@[simp] theorem stall_clock (s : State) : (stall s).clock = s.clock := rfl
@[simp] theorem stall_fresh (s : State) : (stall s).fresh = s.fresh := rfl
@[simp] theorem stall_outbox (s : State) : (stall s).outbox = s.outbox := rfl
@[simp] theorem stall_agenda (s : State) : (stall s).agenda = s.agenda := rfl
@[simp] theorem stall_hart_core (s : State) : (stall s).hart.core = s.hart.core := rfl
@[simp] theorem stall_hart_regs (s : State) : (stall s).hart.regs = s.hart.regs := rfl
@[simp] theorem stall_hart_pc (s : State) : (stall s).hart.pc = s.hart.pc := rfl
@[simp] theorem stall_hart_ir (s : State) : (stall s).hart.ir = s.hart.ir := rfl
@[simp] theorem stall_hart_pending (s : State) : (stall s).hart.pending = s.hart.pending := rfl
@[simp] theorem stall_hart_run (s : State) : (stall s).hart.run = s.hart.run := rfl
@[simp] theorem stall_hart_waitDue (s : State) : (stall s).hart.waitDue = s.hart.waitDue := rfl
@[simp] theorem stall_hart_stopping (s : State) : (stall s).hart.stopping = s.hart.stopping := rfl
@[simp] theorem stall_hart_dump (s : State) : (stall s).hart.dump = s.hart.dump := rfl
@[simp] theorem stall_hart_csr (s : State) : (stall s).hart.csr = s.hart.csr := rfl
@[simp] theorem stall_hart_latch (s : State) : (stall s).hart.latch = s.hart.latch := rfl
@[simp] theorem stall_hart_owner (s : State) : (stall s).hart.owner = s.hart.owner := rfl
@[simp] theorem stall_hart_vec (s : State) : (stall s).hart.vec = s.hart.vec := rfl
@[simp] theorem stall_hart_restart (s : State) : (stall s).hart.restart = s.hart.restart := rfl
@[simp] theorem stall_hart_held (s : State) : (stall s).hart.held = s.hart.held := rfl
@[simp] theorem stall_hart_queue (s : State) : (stall s).hart.queue = s.hart.queue := rfl
@[simp] theorem stall_hart_vseq (s : State) : (stall s).hart.vseq = s.hart.vseq := rfl
@[simp] theorem stall_hart_vnow (s : State) : (stall s).hart.vnow = s.hart.vnow := rfl
@[simp] theorem stall_hart_started (s : State) : (stall s).hart.started = s.hart.started := rfl
@[simp] theorem stall_hart_stalled (s : State) : (stall s).hart.stalled = true := rfl
@[simp] theorem stall_hart_vf (s : State) : (stall s).hart.vf = s.hart.vf := rfl
@[simp] theorem stall_hart_vpNow (s : State) : (stall s).hart.vpNow = s.hart.vpNow := rfl
@[simp] theorem stall_hart_convoy (s : State) : (stall s).hart.convoy = s.hart.convoy := rfl
@[simp] theorem stall_hart_closed (s : State) : (stall s).hart.closed = s.hart.closed := rfl
@[simp] theorem stall_hart_sdm (s : State) : (stall s).hart.sdm = s.hart.sdm := rfl
@[simp] theorem stall_hart_spad (s : State) : (stall s).hart.spad = s.hart.spad := rfl
@[simp] theorem stall_hart_recv (s : State) : (stall s).hart.recv = s.hart.recv := rfl
@[simp] theorem stall_hart_buffer (s : State) : (stall s).hart.buffer = s.hart.buffer := rfl
@[simp] theorem stall_hart_released (s : State) : (stall s).hart.released = s.hart.released := rfl
@[simp] theorem stall_hart_loads (s : State) : (stall s).hart.loads = s.hart.loads := rfl
@[simp] theorem stall_hart_reissue (s : State) : (stall s).hart.reissue = s.hart.reissue := rfl
@[simp] theorem stall_hart_fetched (s : State) : (stall s).hart.fetched = s.hart.fetched := rfl
@[simp] theorem stall_hart_tlb (s : State) : (stall s).hart.tlb = s.hart.tlb := rfl
@[simp] theorem stall_hart_engines (s : State) : (stall s).hart.engines = s.hart.engines := rfl
@[simp] theorem stall_hart_launchReqs (s : State) : (stall s).hart.launchReqs = s.hart.launchReqs := rfl
@[simp] theorem stall_hart_loop (s : State) : (stall s).hart.loop = s.hart.loop := rfl
@[simp] theorem stall_hart_banks (s : State) : (stall s).hart.banks = s.hart.banks := rfl
@[simp] theorem stall_hart_quantum (s : State) : (stall s).hart.quantum = s.hart.quantum := rfl
@[simp] theorem stall_hart_quantumStart (s : State) : (stall s).hart.quantumStart = s.hart.quantumStart := rfl
@[simp] theorem stall_hart_trace (s : State) : (stall s).hart.trace = s.hart.trace := rfl

/-! ### setCsr -/

@[simp] theorem setCsr_others (s : State) (f : Csr → Csr) : (setCsr s f).others = s.others := rfl
@[simp] theorem setCsr_mem (s : State) (f : Csr → Csr) : (setCsr s f).mem = s.mem := rfl
@[simp] theorem setCsr_hostMem (s : State) (f : Csr → Csr) : (setCsr s f).hostMem = s.hostMem := rfl
@[simp] theorem setCsr_dirty (s : State) (f : Csr → Csr) : (setCsr s f).dirty = s.dirty := rfl
@[simp] theorem setCsr_packets (s : State) (f : Csr → Csr) : (setCsr s f).packets = s.packets := rfl
@[simp] theorem setCsr_serial (s : State) (f : Csr → Csr) : (setCsr s f).serial = s.serial := rfl
@[simp] theorem setCsr_directory (s : State) (f : Csr → Csr) : (setCsr s f).directory = s.directory := rfl
@[simp] theorem setCsr_severed (s : State) (f : Csr → Csr) : (setCsr s f).severed = s.severed := rfl
@[simp] theorem setCsr_pushes (s : State) (f : Csr → Csr) : (setCsr s f).pushes = s.pushes := rfl
@[simp] theorem setCsr_bounces (s : State) (f : Csr → Csr) : (setCsr s f).bounces = s.bounces := rfl
@[simp] theorem setCsr_stands (s : State) (f : Csr → Csr) : (setCsr s f).stands = s.stands := rfl
@[simp] theorem setCsr_unstands (s : State) (f : Csr → Csr) : (setCsr s f).unstands = s.unstands := rfl
@[simp] theorem setCsr_early (s : State) (f : Csr → Csr) : (setCsr s f).early = s.early := rfl
@[simp] theorem setCsr_olds (s : State) (f : Csr → Csr) : (setCsr s f).olds = s.olds := rfl
@[simp] theorem setCsr_launches (s : State) (f : Csr → Csr) : (setCsr s f).launches = s.launches := rfl
@[simp] theorem setCsr_husks (s : State) (f : Csr → Csr) : (setCsr s f).husks = s.husks := rfl
@[simp] theorem setCsr_parts (s : State) (f : Csr → Csr) : (setCsr s f).parts = s.parts := rfl
@[simp] theorem setCsr_dieTlb (s : State) (f : Csr → Csr) : (setCsr s f).dieTlb = s.dieTlb := rfl
@[simp] theorem setCsr_hbm (s : State) (f : Csr → Csr) : (setCsr s f).hbm = s.hbm := rfl
@[simp] theorem setCsr_blocks (s : State) (f : Csr → Csr) : (setCsr s f).blocks = s.blocks := rfl
@[simp] theorem setCsr_leases (s : State) (f : Csr → Csr) : (setCsr s f).leases = s.leases := rfl
@[simp] theorem setCsr_moves (s : State) (f : Csr → Csr) : (setCsr s f).moves = s.moves := rfl
@[simp] theorem setCsr_chainCtx (s : State) (f : Csr → Csr) : (setCsr s f).chainCtx = s.chainCtx := rfl
@[simp] theorem setCsr_suspects (s : State) (f : Csr → Csr) : (setCsr s f).suspects = s.suspects := rfl
@[simp] theorem setCsr_lamp (s : State) (f : Csr → Csr) : (setCsr s f).lamp = s.lamp := rfl
@[simp] theorem setCsr_lampHolder (s : State) (f : Csr → Csr) : (setCsr s f).lampHolder = s.lampHolder := rfl
@[simp] theorem setCsr_lampSeen (s : State) (f : Csr → Csr) : (setCsr s f).lampSeen = s.lampSeen := rfl
@[simp] theorem setCsr_netctl (s : State) (f : Csr → Csr) : (setCsr s f).netctl = s.netctl := rfl
@[simp] theorem setCsr_pits (s : State) (f : Csr → Csr) : (setCsr s f).pits = s.pits := rfl
@[simp] theorem setCsr_corrected (s : State) (f : Csr → Csr) : (setCsr s f).corrected = s.corrected := rfl
@[simp] theorem setCsr_bad (s : State) (f : Csr → Csr) : (setCsr s f).bad = s.bad := rfl
@[simp] theorem setCsr_bootst (s : State) (f : Csr → Csr) : (setCsr s f).bootst = s.bootst := rfl
@[simp] theorem setCsr_booting (s : State) (f : Csr → Csr) : (setCsr s f).booting = s.booting := rfl
@[simp] theorem setCsr_enstk (s : State) (f : Csr → Csr) : (setCsr s f).enstk = s.enstk := rfl
@[simp] theorem setCsr_cxlMem (s : State) (f : Csr → Csr) : (setCsr s f).cxlMem = s.cxlMem := rfl
@[simp] theorem setCsr_decoder (s : State) (f : Csr → Csr) : (setCsr s f).decoder = s.decoder := rfl
@[simp] theorem setCsr_hostLines (s : State) (f : Csr → Csr) : (setCsr s f).hostLines = s.hostLines := rfl
@[simp] theorem setCsr_requireIde (s : State) (f : Csr → Csr) : (setCsr s f).requireIde = s.requireIde := rfl
@[simp] theorem setCsr_ide (s : State) (f : Csr → Csr) : (setCsr s f).ide = s.ide := rfl
@[simp] theorem setCsr_spdm (s : State) (f : Csr → Csr) : (setCsr s f).spdm = s.spdm := rfl
@[simp] theorem setCsr_digests (s : State) (f : Csr → Csr) : (setCsr s f).digests = s.digests := rfl
@[simp] theorem setCsr_msix (s : State) (f : Csr → Csr) : (setCsr s f).msix = s.msix := rfl
@[simp] theorem setCsr_throttle (s : State) (f : Csr → Csr) : (setCsr s f).throttle = s.throttle := rfl
@[simp] theorem setCsr_raised (s : State) (f : Csr → Csr) : (setCsr s f).raised = s.raised := rfl
@[simp] theorem setCsr_warm (s : State) (f : Csr → Csr) : (setCsr s f).warm = s.warm := rfl
@[simp] theorem setCsr_thermal (s : State) (f : Csr → Csr) : (setCsr s f).thermal = s.thermal := rfl
@[simp] theorem setCsr_clock (s : State) (f : Csr → Csr) : (setCsr s f).clock = s.clock := rfl
@[simp] theorem setCsr_fresh (s : State) (f : Csr → Csr) : (setCsr s f).fresh = s.fresh := rfl
@[simp] theorem setCsr_outbox (s : State) (f : Csr → Csr) : (setCsr s f).outbox = s.outbox := rfl
@[simp] theorem setCsr_agenda (s : State) (f : Csr → Csr) : (setCsr s f).agenda = s.agenda := rfl
@[simp] theorem setCsr_hart_core (s : State) (f : Csr → Csr) : (setCsr s f).hart.core = s.hart.core := rfl
@[simp] theorem setCsr_hart_regs (s : State) (f : Csr → Csr) : (setCsr s f).hart.regs = s.hart.regs := rfl
@[simp] theorem setCsr_hart_pc (s : State) (f : Csr → Csr) : (setCsr s f).hart.pc = s.hart.pc := rfl
@[simp] theorem setCsr_hart_ir (s : State) (f : Csr → Csr) : (setCsr s f).hart.ir = s.hart.ir := rfl
@[simp] theorem setCsr_hart_pending (s : State) (f : Csr → Csr) : (setCsr s f).hart.pending = s.hart.pending := rfl
@[simp] theorem setCsr_hart_run (s : State) (f : Csr → Csr) : (setCsr s f).hart.run = s.hart.run := rfl
@[simp] theorem setCsr_hart_waitDue (s : State) (f : Csr → Csr) : (setCsr s f).hart.waitDue = s.hart.waitDue := rfl
@[simp] theorem setCsr_hart_stopping (s : State) (f : Csr → Csr) : (setCsr s f).hart.stopping = s.hart.stopping := rfl
@[simp] theorem setCsr_hart_dump (s : State) (f : Csr → Csr) : (setCsr s f).hart.dump = s.hart.dump := rfl
@[simp] theorem setCsr_hart_csr (s : State) (f : Csr → Csr) : (setCsr s f).hart.csr = f s.hart.csr := rfl
@[simp] theorem setCsr_hart_latch (s : State) (f : Csr → Csr) : (setCsr s f).hart.latch = s.hart.latch := rfl
@[simp] theorem setCsr_hart_owner (s : State) (f : Csr → Csr) : (setCsr s f).hart.owner = s.hart.owner := rfl
@[simp] theorem setCsr_hart_vec (s : State) (f : Csr → Csr) : (setCsr s f).hart.vec = s.hart.vec := rfl
@[simp] theorem setCsr_hart_restart (s : State) (f : Csr → Csr) : (setCsr s f).hart.restart = s.hart.restart := rfl
@[simp] theorem setCsr_hart_held (s : State) (f : Csr → Csr) : (setCsr s f).hart.held = s.hart.held := rfl
@[simp] theorem setCsr_hart_queue (s : State) (f : Csr → Csr) : (setCsr s f).hart.queue = s.hart.queue := rfl
@[simp] theorem setCsr_hart_vseq (s : State) (f : Csr → Csr) : (setCsr s f).hart.vseq = s.hart.vseq := rfl
@[simp] theorem setCsr_hart_vnow (s : State) (f : Csr → Csr) : (setCsr s f).hart.vnow = s.hart.vnow := rfl
@[simp] theorem setCsr_hart_started (s : State) (f : Csr → Csr) : (setCsr s f).hart.started = s.hart.started := rfl
@[simp] theorem setCsr_hart_stalled (s : State) (f : Csr → Csr) : (setCsr s f).hart.stalled = s.hart.stalled := rfl
@[simp] theorem setCsr_hart_vf (s : State) (f : Csr → Csr) : (setCsr s f).hart.vf = s.hart.vf := rfl
@[simp] theorem setCsr_hart_vpNow (s : State) (f : Csr → Csr) : (setCsr s f).hart.vpNow = s.hart.vpNow := rfl
@[simp] theorem setCsr_hart_convoy (s : State) (f : Csr → Csr) : (setCsr s f).hart.convoy = s.hart.convoy := rfl
@[simp] theorem setCsr_hart_closed (s : State) (f : Csr → Csr) : (setCsr s f).hart.closed = s.hart.closed := rfl
@[simp] theorem setCsr_hart_sdm (s : State) (f : Csr → Csr) : (setCsr s f).hart.sdm = s.hart.sdm := rfl
@[simp] theorem setCsr_hart_spad (s : State) (f : Csr → Csr) : (setCsr s f).hart.spad = s.hart.spad := rfl
@[simp] theorem setCsr_hart_recv (s : State) (f : Csr → Csr) : (setCsr s f).hart.recv = s.hart.recv := rfl
@[simp] theorem setCsr_hart_buffer (s : State) (f : Csr → Csr) : (setCsr s f).hart.buffer = s.hart.buffer := rfl
@[simp] theorem setCsr_hart_released (s : State) (f : Csr → Csr) : (setCsr s f).hart.released = s.hart.released := rfl
@[simp] theorem setCsr_hart_loads (s : State) (f : Csr → Csr) : (setCsr s f).hart.loads = s.hart.loads := rfl
@[simp] theorem setCsr_hart_reissue (s : State) (f : Csr → Csr) : (setCsr s f).hart.reissue = s.hart.reissue := rfl
@[simp] theorem setCsr_hart_fetched (s : State) (f : Csr → Csr) : (setCsr s f).hart.fetched = s.hart.fetched := rfl
@[simp] theorem setCsr_hart_tlb (s : State) (f : Csr → Csr) : (setCsr s f).hart.tlb = s.hart.tlb := rfl
@[simp] theorem setCsr_hart_engines (s : State) (f : Csr → Csr) : (setCsr s f).hart.engines = s.hart.engines := rfl
@[simp] theorem setCsr_hart_launchReqs (s : State) (f : Csr → Csr) : (setCsr s f).hart.launchReqs = s.hart.launchReqs := rfl
@[simp] theorem setCsr_hart_loop (s : State) (f : Csr → Csr) : (setCsr s f).hart.loop = s.hart.loop := rfl
@[simp] theorem setCsr_hart_banks (s : State) (f : Csr → Csr) : (setCsr s f).hart.banks = s.hart.banks := rfl
@[simp] theorem setCsr_hart_quantum (s : State) (f : Csr → Csr) : (setCsr s f).hart.quantum = s.hart.quantum := rfl
@[simp] theorem setCsr_hart_quantumStart (s : State) (f : Csr → Csr) : (setCsr s f).hart.quantumStart = s.hart.quantumStart := rfl
@[simp] theorem setCsr_hart_trace (s : State) (f : Csr → Csr) : (setCsr s f).hart.trace = s.hart.trace := rfl

/-! ### setReg -/

@[simp] theorem setReg_others (s : State) (r : SReg) (v : Word) : (setReg s r v).others = s.others := by
  unfold setReg; split <;> rfl
@[simp] theorem setReg_mem (s : State) (r : SReg) (v : Word) : (setReg s r v).mem = s.mem := by
  unfold setReg; split <;> rfl
@[simp] theorem setReg_hostMem (s : State) (r : SReg) (v : Word) : (setReg s r v).hostMem = s.hostMem := by
  unfold setReg; split <;> rfl
@[simp] theorem setReg_dirty (s : State) (r : SReg) (v : Word) : (setReg s r v).dirty = s.dirty := by
  unfold setReg; split <;> rfl
@[simp] theorem setReg_packets (s : State) (r : SReg) (v : Word) : (setReg s r v).packets = s.packets := by
  unfold setReg; split <;> rfl
@[simp] theorem setReg_serial (s : State) (r : SReg) (v : Word) : (setReg s r v).serial = s.serial := by
  unfold setReg; split <;> rfl
@[simp] theorem setReg_directory (s : State) (r : SReg) (v : Word) : (setReg s r v).directory = s.directory := by
  unfold setReg; split <;> rfl
@[simp] theorem setReg_severed (s : State) (r : SReg) (v : Word) : (setReg s r v).severed = s.severed := by
  unfold setReg; split <;> rfl
@[simp] theorem setReg_pushes (s : State) (r : SReg) (v : Word) : (setReg s r v).pushes = s.pushes := by
  unfold setReg; split <;> rfl
@[simp] theorem setReg_bounces (s : State) (r : SReg) (v : Word) : (setReg s r v).bounces = s.bounces := by
  unfold setReg; split <;> rfl
@[simp] theorem setReg_stands (s : State) (r : SReg) (v : Word) : (setReg s r v).stands = s.stands := by
  unfold setReg; split <;> rfl
@[simp] theorem setReg_unstands (s : State) (r : SReg) (v : Word) : (setReg s r v).unstands = s.unstands := by
  unfold setReg; split <;> rfl
@[simp] theorem setReg_early (s : State) (r : SReg) (v : Word) : (setReg s r v).early = s.early := by
  unfold setReg; split <;> rfl
@[simp] theorem setReg_olds (s : State) (r : SReg) (v : Word) : (setReg s r v).olds = s.olds := by
  unfold setReg; split <;> rfl
@[simp] theorem setReg_launches (s : State) (r : SReg) (v : Word) : (setReg s r v).launches = s.launches := by
  unfold setReg; split <;> rfl
@[simp] theorem setReg_husks (s : State) (r : SReg) (v : Word) : (setReg s r v).husks = s.husks := by
  unfold setReg; split <;> rfl
@[simp] theorem setReg_parts (s : State) (r : SReg) (v : Word) : (setReg s r v).parts = s.parts := by
  unfold setReg; split <;> rfl
@[simp] theorem setReg_dieTlb (s : State) (r : SReg) (v : Word) : (setReg s r v).dieTlb = s.dieTlb := by
  unfold setReg; split <;> rfl
@[simp] theorem setReg_hbm (s : State) (r : SReg) (v : Word) : (setReg s r v).hbm = s.hbm := by
  unfold setReg; split <;> rfl
@[simp] theorem setReg_blocks (s : State) (r : SReg) (v : Word) : (setReg s r v).blocks = s.blocks := by
  unfold setReg; split <;> rfl
@[simp] theorem setReg_leases (s : State) (r : SReg) (v : Word) : (setReg s r v).leases = s.leases := by
  unfold setReg; split <;> rfl
@[simp] theorem setReg_moves (s : State) (r : SReg) (v : Word) : (setReg s r v).moves = s.moves := by
  unfold setReg; split <;> rfl
@[simp] theorem setReg_chainCtx (s : State) (r : SReg) (v : Word) : (setReg s r v).chainCtx = s.chainCtx := by
  unfold setReg; split <;> rfl
@[simp] theorem setReg_suspects (s : State) (r : SReg) (v : Word) : (setReg s r v).suspects = s.suspects := by
  unfold setReg; split <;> rfl
@[simp] theorem setReg_lamp (s : State) (r : SReg) (v : Word) : (setReg s r v).lamp = s.lamp := by
  unfold setReg; split <;> rfl
@[simp] theorem setReg_lampHolder (s : State) (r : SReg) (v : Word) : (setReg s r v).lampHolder = s.lampHolder := by
  unfold setReg; split <;> rfl
@[simp] theorem setReg_lampSeen (s : State) (r : SReg) (v : Word) : (setReg s r v).lampSeen = s.lampSeen := by
  unfold setReg; split <;> rfl
@[simp] theorem setReg_netctl (s : State) (r : SReg) (v : Word) : (setReg s r v).netctl = s.netctl := by
  unfold setReg; split <;> rfl
@[simp] theorem setReg_pits (s : State) (r : SReg) (v : Word) : (setReg s r v).pits = s.pits := by
  unfold setReg; split <;> rfl
@[simp] theorem setReg_corrected (s : State) (r : SReg) (v : Word) : (setReg s r v).corrected = s.corrected := by
  unfold setReg; split <;> rfl
@[simp] theorem setReg_bad (s : State) (r : SReg) (v : Word) : (setReg s r v).bad = s.bad := by
  unfold setReg; split <;> rfl
@[simp] theorem setReg_bootst (s : State) (r : SReg) (v : Word) : (setReg s r v).bootst = s.bootst := by
  unfold setReg; split <;> rfl
@[simp] theorem setReg_booting (s : State) (r : SReg) (v : Word) : (setReg s r v).booting = s.booting := by
  unfold setReg; split <;> rfl
@[simp] theorem setReg_enstk (s : State) (r : SReg) (v : Word) : (setReg s r v).enstk = s.enstk := by
  unfold setReg; split <;> rfl
@[simp] theorem setReg_cxlMem (s : State) (r : SReg) (v : Word) : (setReg s r v).cxlMem = s.cxlMem := by
  unfold setReg; split <;> rfl
@[simp] theorem setReg_decoder (s : State) (r : SReg) (v : Word) : (setReg s r v).decoder = s.decoder := by
  unfold setReg; split <;> rfl
@[simp] theorem setReg_hostLines (s : State) (r : SReg) (v : Word) : (setReg s r v).hostLines = s.hostLines := by
  unfold setReg; split <;> rfl
@[simp] theorem setReg_requireIde (s : State) (r : SReg) (v : Word) : (setReg s r v).requireIde = s.requireIde := by
  unfold setReg; split <;> rfl
@[simp] theorem setReg_ide (s : State) (r : SReg) (v : Word) : (setReg s r v).ide = s.ide := by
  unfold setReg; split <;> rfl
@[simp] theorem setReg_spdm (s : State) (r : SReg) (v : Word) : (setReg s r v).spdm = s.spdm := by
  unfold setReg; split <;> rfl
@[simp] theorem setReg_digests (s : State) (r : SReg) (v : Word) : (setReg s r v).digests = s.digests := by
  unfold setReg; split <;> rfl
@[simp] theorem setReg_msix (s : State) (r : SReg) (v : Word) : (setReg s r v).msix = s.msix := by
  unfold setReg; split <;> rfl
@[simp] theorem setReg_throttle (s : State) (r : SReg) (v : Word) : (setReg s r v).throttle = s.throttle := by
  unfold setReg; split <;> rfl
@[simp] theorem setReg_raised (s : State) (r : SReg) (v : Word) : (setReg s r v).raised = s.raised := by
  unfold setReg; split <;> rfl
@[simp] theorem setReg_warm (s : State) (r : SReg) (v : Word) : (setReg s r v).warm = s.warm := by
  unfold setReg; split <;> rfl
@[simp] theorem setReg_thermal (s : State) (r : SReg) (v : Word) : (setReg s r v).thermal = s.thermal := by
  unfold setReg; split <;> rfl
@[simp] theorem setReg_clock (s : State) (r : SReg) (v : Word) : (setReg s r v).clock = s.clock := by
  unfold setReg; split <;> rfl
@[simp] theorem setReg_fresh (s : State) (r : SReg) (v : Word) : (setReg s r v).fresh = s.fresh := by
  unfold setReg; split <;> rfl
@[simp] theorem setReg_outbox (s : State) (r : SReg) (v : Word) : (setReg s r v).outbox = s.outbox := by
  unfold setReg; split <;> rfl
@[simp] theorem setReg_agenda (s : State) (r : SReg) (v : Word) : (setReg s r v).agenda = s.agenda := by
  unfold setReg; split <;> rfl
@[simp] theorem setReg_hart_core (s : State) (r : SReg) (v : Word) : (setReg s r v).hart.core = s.hart.core := by
  unfold setReg; split <;> rfl
@[simp] theorem setReg_hart_pc (s : State) (r : SReg) (v : Word) : (setReg s r v).hart.pc = s.hart.pc := by
  unfold setReg; split <;> rfl
@[simp] theorem setReg_hart_ir (s : State) (r : SReg) (v : Word) : (setReg s r v).hart.ir = s.hart.ir := by
  unfold setReg; split <;> rfl
@[simp] theorem setReg_hart_pending (s : State) (r : SReg) (v : Word) : (setReg s r v).hart.pending = s.hart.pending := by
  unfold setReg; split <;> rfl
@[simp] theorem setReg_hart_run (s : State) (r : SReg) (v : Word) : (setReg s r v).hart.run = s.hart.run := by
  unfold setReg; split <;> rfl
@[simp] theorem setReg_hart_waitDue (s : State) (r : SReg) (v : Word) : (setReg s r v).hart.waitDue = s.hart.waitDue := by
  unfold setReg; split <;> rfl
@[simp] theorem setReg_hart_stopping (s : State) (r : SReg) (v : Word) : (setReg s r v).hart.stopping = s.hart.stopping := by
  unfold setReg; split <;> rfl
@[simp] theorem setReg_hart_dump (s : State) (r : SReg) (v : Word) : (setReg s r v).hart.dump = s.hart.dump := by
  unfold setReg; split <;> rfl
@[simp] theorem setReg_hart_csr (s : State) (r : SReg) (v : Word) : (setReg s r v).hart.csr = s.hart.csr := by
  unfold setReg; split <;> rfl
@[simp] theorem setReg_hart_latch (s : State) (r : SReg) (v : Word) : (setReg s r v).hart.latch = s.hart.latch := by
  unfold setReg; split <;> rfl
@[simp] theorem setReg_hart_owner (s : State) (r : SReg) (v : Word) : (setReg s r v).hart.owner = s.hart.owner := by
  unfold setReg; split <;> rfl
@[simp] theorem setReg_hart_vec (s : State) (r : SReg) (v : Word) : (setReg s r v).hart.vec = s.hart.vec := by
  unfold setReg; split <;> rfl
@[simp] theorem setReg_hart_restart (s : State) (r : SReg) (v : Word) : (setReg s r v).hart.restart = s.hart.restart := by
  unfold setReg; split <;> rfl
@[simp] theorem setReg_hart_held (s : State) (r : SReg) (v : Word) : (setReg s r v).hart.held = s.hart.held := by
  unfold setReg; split <;> rfl
@[simp] theorem setReg_hart_queue (s : State) (r : SReg) (v : Word) : (setReg s r v).hart.queue = s.hart.queue := by
  unfold setReg; split <;> rfl
@[simp] theorem setReg_hart_vseq (s : State) (r : SReg) (v : Word) : (setReg s r v).hart.vseq = s.hart.vseq := by
  unfold setReg; split <;> rfl
@[simp] theorem setReg_hart_vnow (s : State) (r : SReg) (v : Word) : (setReg s r v).hart.vnow = s.hart.vnow := by
  unfold setReg; split <;> rfl
@[simp] theorem setReg_hart_started (s : State) (r : SReg) (v : Word) : (setReg s r v).hart.started = s.hart.started := by
  unfold setReg; split <;> rfl
@[simp] theorem setReg_hart_stalled (s : State) (r : SReg) (v : Word) : (setReg s r v).hart.stalled = s.hart.stalled := by
  unfold setReg; split <;> rfl
@[simp] theorem setReg_hart_vf (s : State) (r : SReg) (v : Word) : (setReg s r v).hart.vf = s.hart.vf := by
  unfold setReg; split <;> rfl
@[simp] theorem setReg_hart_vpNow (s : State) (r : SReg) (v : Word) : (setReg s r v).hart.vpNow = s.hart.vpNow := by
  unfold setReg; split <;> rfl
@[simp] theorem setReg_hart_convoy (s : State) (r : SReg) (v : Word) : (setReg s r v).hart.convoy = s.hart.convoy := by
  unfold setReg; split <;> rfl
@[simp] theorem setReg_hart_closed (s : State) (r : SReg) (v : Word) : (setReg s r v).hart.closed = s.hart.closed := by
  unfold setReg; split <;> rfl
@[simp] theorem setReg_hart_sdm (s : State) (r : SReg) (v : Word) : (setReg s r v).hart.sdm = s.hart.sdm := by
  unfold setReg; split <;> rfl
@[simp] theorem setReg_hart_spad (s : State) (r : SReg) (v : Word) : (setReg s r v).hart.spad = s.hart.spad := by
  unfold setReg; split <;> rfl
@[simp] theorem setReg_hart_recv (s : State) (r : SReg) (v : Word) : (setReg s r v).hart.recv = s.hart.recv := by
  unfold setReg; split <;> rfl
@[simp] theorem setReg_hart_buffer (s : State) (r : SReg) (v : Word) : (setReg s r v).hart.buffer = s.hart.buffer := by
  unfold setReg; split <;> rfl
@[simp] theorem setReg_hart_released (s : State) (r : SReg) (v : Word) : (setReg s r v).hart.released = s.hart.released := by
  unfold setReg; split <;> rfl
@[simp] theorem setReg_hart_loads (s : State) (r : SReg) (v : Word) : (setReg s r v).hart.loads = s.hart.loads := by
  unfold setReg; split <;> rfl
@[simp] theorem setReg_hart_reissue (s : State) (r : SReg) (v : Word) : (setReg s r v).hart.reissue = s.hart.reissue := by
  unfold setReg; split <;> rfl
@[simp] theorem setReg_hart_fetched (s : State) (r : SReg) (v : Word) : (setReg s r v).hart.fetched = s.hart.fetched := by
  unfold setReg; split <;> rfl
@[simp] theorem setReg_hart_tlb (s : State) (r : SReg) (v : Word) : (setReg s r v).hart.tlb = s.hart.tlb := by
  unfold setReg; split <;> rfl
@[simp] theorem setReg_hart_engines (s : State) (r : SReg) (v : Word) : (setReg s r v).hart.engines = s.hart.engines := by
  unfold setReg; split <;> rfl
@[simp] theorem setReg_hart_launchReqs (s : State) (r : SReg) (v : Word) : (setReg s r v).hart.launchReqs = s.hart.launchReqs := by
  unfold setReg; split <;> rfl
@[simp] theorem setReg_hart_loop (s : State) (r : SReg) (v : Word) : (setReg s r v).hart.loop = s.hart.loop := by
  unfold setReg; split <;> rfl
@[simp] theorem setReg_hart_banks (s : State) (r : SReg) (v : Word) : (setReg s r v).hart.banks = s.hart.banks := by
  unfold setReg; split <;> rfl
@[simp] theorem setReg_hart_quantum (s : State) (r : SReg) (v : Word) : (setReg s r v).hart.quantum = s.hart.quantum := by
  unfold setReg; split <;> rfl
@[simp] theorem setReg_hart_quantumStart (s : State) (r : SReg) (v : Word) : (setReg s r v).hart.quantumStart = s.hart.quantumStart := by
  unfold setReg; split <;> rfl
@[simp] theorem setReg_hart_trace (s : State) (r : SReg) (v : Word) : (setReg s r v).hart.trace = s.hart.trace := by
  unfold setReg; split <;> rfl

/-! ### Scalar registers -/

/-- s0 reads as zero (R41). -/
@[simp] theorem getReg_zero (s : State) : getReg s 0 = 0 := rfl

/-- A write to s0 is discarded (R148). -/
@[simp] theorem setReg_zero (s : State) (v : Word) : setReg s 0 v = s := rfl

/-- The register written holds the value, unless it is s0. -/
theorem getReg_setReg_same (s : State) (r : SReg) (v : Word) : getReg (setReg s r v) r = if r = 0 then 0 else v := by
  unfold getReg setReg
  by_cases h : r = 0 <;> simp [h]

/-- Every other register is as before. -/
theorem getReg_setReg_other (s : State) (r q : SReg) (v : Word) (h : q ≠ r) : getReg (setReg s r v) q = getReg s q := by
  unfold getReg setReg
  by_cases h0 : r = 0
  · simp [h0]
  · by_cases hq : q = 0
    · simp [hq]
    · have : r.val ≠ q.val := fun e => h (Fin.ext e.symm)
      simp [h0, hq, this]

@[simp] theorem getReg_setPc (s : State) (p : Word) (r : SReg) : getReg (setPc s p) r = getReg s r := rfl
@[simp] theorem getReg_advance (s : State) (r : SReg) : getReg (advance s) r = getReg s r := rfl
@[simp] theorem getReg_stall (s : State) (r : SReg) : getReg (stall s) r = getReg s r := rfl
@[simp] theorem getReg_setCsr (s : State) (f : Csr → Csr) (r : SReg) : getReg (setCsr s f) r = getReg s r := rfl

end Sys2Proof.Machine
end

