-- ==== Sys2Proof/Laws/Ops.lean ====
section
/-! SUPPORT. What each shared operation does: bit fields, results written, checks passed, a trap taken and left, stores
performed. -/

namespace Sys2Proof.Machine

/-! ### Bit fields -/

/-- A bit of a word after a field is replaced. -/
theorem getLsbD_setBits {n : Nat} (w : BitVec n) (lo len v k : Nat) (hk : k < n) :
    (setBits w lo len v).getLsbD k = if lo ≤ k ∧ k < lo + len then v.testBit (k - lo) else w.getLsbD k := by
  have hm : ((2 ^ len - 1) * 2 ^ lo).testBit k = decide (lo ≤ k ∧ k < lo + len) := by
    rw [← Nat.shiftLeft_eq, Nat.testBit_shiftLeft, Nat.testBit_two_pow_sub_one]
    by_cases h : lo ≤ k
    · simp [h]; omega
    · simp [h]
  have hv : (v % 2 ^ len * 2 ^ lo).testBit k = (decide (lo ≤ k ∧ k < lo + len) && v.testBit (k - lo)) := by
    rw [← Nat.shiftLeft_eq, Nat.testBit_shiftLeft, Nat.testBit_mod_two_pow]
    by_cases h : lo ≤ k
    · have : (k - lo < len) = (k < lo + len) := by simp only [eq_iff_iff]; omega
      simp [h, this]
    · simp [h]
  simp only [setBits, BitVec.getLsbD_or, BitVec.getLsbD_and, BitVec.getLsbD_not, BitVec.getLsbD_ofNat, hk, decide_true,
    Bool.true_and, hm, hv]
  by_cases h : lo ≤ k ∧ k < lo + len <;> simp [h]

/-- A bit of a field read as a number. -/
theorem testBit_bits {n : Nat} (w : BitVec n) (lo len k : Nat) :
    (bits w lo len).testBit k = (decide (k < len) && w.getLsbD (lo + k)) := by
  rw [bits, Nat.testBit_mod_two_pow, ← Nat.shiftRight_eq_div_pow, Nat.testBit_shiftRight]
  rfl

/-- STATUS as trap entry leaves it, bit by bit (R321 to R323). -/
theorem trapStatus_bits (c : Csr) (k : Nat) (hk : k < 64) :
    (trapStatus c).getLsbD k =
      if k = 0 then decide (bits c.status 0 2 ≠ 2)
      else if k = 1 then decide (bits c.status 0 2 = 2)
      else if k < 4 then c.status.getLsbD (k - 2)
      else if k = 5 then true
      else if 32 ≤ k ∧ k < 45 then c.vtype.getLsbD (k - 32)
      else c.status.getLsbD k := by
  have hb : ∀ i, i < 2 → (bits c.status 0 2).testBit i = c.status.getLsbD i := fun i hi => by
    rw [testBit_bits]; simp [hi]
  unfold trapStatus
  simp only [getLsbD_setBits _ _ _ _ _ hk]
  by_cases k5 : k = 5
  · subst k5; simp
  · have n5 : ¬(5 ≤ k ∧ k < 5 + 1) := by omega
    simp only [n5, if_false, k5]
    by_cases k32 : 32 ≤ k ∧ k < 45
    · have a0 : k ≠ 0 := by omega
      have a1 : k ≠ 1 := by omega
      have a4 : ¬k < 4 := by omega
      have a32 : 32 ≤ k ∧ k < 32 + 13 := by omega
      simp only [a32, a0, a1, a4, if_true, if_false, and_self]
      rfl
    · have a32 : ¬(32 ≤ k ∧ k < 32 + 13) := by omega
      simp only [a32, if_false]
      by_cases hm : bits c.status 0 2 = 2
      · simp only [hm, if_true, getLsbD_setBits _ _ _ _ _ hk]
        by_cases k4 : 2 ≤ k ∧ k < 2 + 2
        · have a0 : k ≠ 0 := by omega
          have a1 : k ≠ 1 := by omega
          have a4 : k < 4 := by omega
          rw [if_pos k4, if_neg a0, if_neg a1, if_pos a4, ← hb (k - 2) (by omega), hm]
        · rw [if_neg k4]
          by_cases a0 : k = 0
          · subst a0
            rw [if_pos rfl, ← hb 0 (by omega), hm]
            rfl
          · by_cases a1 : k = 1
            · subst a1
              rw [if_neg (by decide), if_pos rfl, ← hb 1 (by omega), hm]
              rfl
            · rw [if_neg a0, if_neg a1, if_neg (by omega)]
      · simp only [hm, if_false, getLsbD_setBits _ _ _ _ _ hk]
        by_cases a0 : k = 0
        · subst a0
          rw [if_pos (by decide), if_pos rfl]
          simp [hm]
        · by_cases a1 : k = 1
          · subst a1
            rw [if_pos (by decide), if_neg (by decide), if_pos rfl]
            rfl
          · rw [if_neg (by omega), if_neg a0, if_neg a1]
            by_cases k4 : k < 4
            · rw [if_pos (by omega), if_pos k4, hb (k - 2) (by omega)]
            · rw [if_neg (by omega), if_neg k4]

/-! ### Results and checks -/

/-- A result that may be written is, and the pc moves on (R127, R149). -/
theorem writeResult_free (s : State) (d : SReg) (v : Word) (h : frozen s.hart d = false) :
    writeResult s d v = .next (advance (setReg s d v)) := by simp [writeResult, h]

/-- A frozen register takes no result: the word traps (R149, R242). -/
theorem writeResult_frozen (s : State) (d : SReg) (v : Word) (h : frozen s.hart d = true) :
    writeResult s d v = .next (trapWord s 0x0D (topndS d)) := by simp [writeResult, h]

theorem guardWrite_free (s : State) (d : SReg) (k : Out) (h : frozen s.hart d = false) : guardWrite s d k = k := by
  simp [guardWrite, h]
theorem guardWrite_frozen (s : State) (d : SReg) (k : Out) (h : frozen s.hart d = true) :
    guardWrite s d k = .next (trapWord s 0x0D (topndS d)) := by simp [guardWrite, h]

theorem privileged_supervisor (s : State) (k : Out) (h : supervisor s.hart = true) : privileged s k = k := by
  simp [privileged, h]
theorem privileged_kernel (s : State) (k : Out) (h : supervisor s.hart = false) : privileged s k = .next (trapWord s 0x09 0) := by
  simp [privileged, h]

/-- Without a marked loop no register is frozen. -/
theorem frozen_noLoop (h : Hart) (r : SReg) (hl : h.loop = none) : frozen h r = false := by simp [frozen, hl]

/-- s0 is never frozen. -/
theorem frozen_zero (h : Hart) : frozen h 0 = false := by
  unfold frozen
  split
  · split <;> simp
  · rfl

/-- An access whose checks all pass is performed in the state that translation leaves (R161). -/
theorem access_served (s u : State) (va : Word) (size : Nat) (a : Access) (r : SReg)
    (k : Place → List (Nat × Bool) → State → Out) (p : Place) (es : List (Nat × Bool))
    (h : reach s va size a = (.ok p es, u)) (hw : watched s.hart va.toNat size a = false) (hb : dataBad u p size a = false) :
    access s va size a r k = k p es u := by
  simp [access, h, hw, hb]

/-- The first checks of a scalar access, in their order: canonical, aligned, local or translated (R161). -/
theorem reach_noncanonical (s : State) (va : Word) (size : Nat) (a : Access) (h : bits va 48 16 ≠ 0) :
    reach s va size a = (.trap 0x09 false, s) := by simp [reach, h]
theorem reach_misaligned (s : State) (va : Word) (size : Nat) (a : Access) (h : bits va 48 16 = 0) (hm : va.toNat % size ≠ 0) :
    reach s va size a = (.trap 0x06 false, s) := by simp [reach, h, hm]
theorem reach_local (s : State) (va : Word) (size : Nat) (a : Access) (hm : va.toNat % size = 0) (hl : va.toNat < globalBase) :
    reach s va size a = (reachLocal s va.toNat size a, s) := by
  have h : bits va 48 16 = 0 := by
    have hb : globalBase = 4194304 := rfl
    have : va.toNat / 2 ^ 48 = 0 := Nat.div_eq_of_lt (by omega)
    rw [bits, this]; rfl
  simp [reach, h, hm, hl]

/-! ### Fault records -/

@[simp] theorem logPit_hart (s : State) (d a b c e : Nat) : (logPit s d a b c e).hart = s.hart := by
  unfold logPit; split <;> rfl
@[simp] theorem logPit_others (s : State) (d a b c e : Nat) : (logPit s d a b c e).others = s.others := by
  unfold logPit; split <;> rfl
@[simp] theorem logPit_mem (s : State) (d a b c e : Nat) : (logPit s d a b c e).mem = s.mem := by
  unfold logPit; split <;> rfl
@[simp] theorem logPit_parts (s : State) (d a b c e : Nat) : (logPit s d a b c e).parts = s.parts := by
  unfold logPit; split <;> rfl
@[simp] theorem logPlace_hart (s : State) (pa : Nat) : (logPlace s pa).hart = s.hart := by
  unfold logPlace; split <;> simp
@[simp] theorem logPlace_others (s : State) (pa : Nat) : (logPlace s pa).others = s.others := by
  unfold logPlace; split <;> simp
@[simp] theorem logPlace_mem (s : State) (pa : Nat) : (logPlace s pa).mem = s.mem := by
  unfold logPlace; split <;> simp
@[simp] theorem logPlace_parts (s : State) (pa : Nat) : (logPlace s pa).parts = s.parts := by
  unfold logPlace; split <;> simp
@[simp] theorem logError_hart (s : State) (c : Nat) (va : Word) : (logError s c va).hart = s.hart := by
  unfold logError; split
  · unfold logStructure; simp
  · split <;> simp
@[simp] theorem logError_others (s : State) (c : Nat) (va : Word) : (logError s c va).others = s.others := by
  unfold logError; split
  · unfold logStructure; simp
  · split <;> simp
@[simp] theorem logError_mem (s : State) (c : Nat) (va : Word) : (logError s c va).mem = s.mem := by
  unfold logError; split
  · unfold logStructure; simp
  · split <;> simp
@[simp] theorem logError_parts (s : State) (c : Nat) (va : Word) : (logError s c va).parts = s.parts := by
  unfold logError; split
  · unfold logStructure; simp
  · split <;> simp

@[simp] theorem setPcpWord_hart (s : State) (p o : Nat) (v : Word) : (setPcpWord s p o v).hart = s.hart := by
  unfold setPcpWord; split <;> simp
@[simp] theorem setPcpWord_others (s : State) (p o : Nat) (v : Word) : (setPcpWord s p o v).others = s.others := by
  unfold setPcpWord; split <;> simp
@[simp] theorem setPcpWord_parts (s : State) (p o : Nat) (v : Word) : (setPcpWord s p o v).parts = s.parts := by
  unfold setPcpWord; split <;> simp

/-- A word of the control page written: every byte afterwards (R307). -/
theorem sget_setPcpWord (s : State) (p o : Nat) (v : Word) (b : Partition) (hb : s.parts[p]? = some b) (a : Nat) :
    sget (setPcpWord s p o v).mem a =
      if b.pcpAddr.toNat + o ≤ a ∧ a < b.pcpAddr.toNat + o + 8 then BitVec.ofNat 8 (v.toNat / 256 ^ (a - (b.pcpAddr.toNat + o)))
      else sget s.mem a := by
  simp only [setPcpWord, hb, sget_writeHome]

@[simp] theorem writeFaultRecord_hart (s : State) (h : Hart) (t : TrapInfo) : (writeFaultRecord s h t).hart = s.hart := by
  unfold writeFaultRecord; split <;> simp
@[simp] theorem writeFaultRecord_others (s : State) (h : Hart) (t : TrapInfo) : (writeFaultRecord s h t).others = s.others := by
  unfold writeFaultRecord; split <;> simp
@[simp] theorem writeFaultRecord_parts (s : State) (h : Hart) (t : TrapInfo) : (writeFaultRecord s h t).parts = s.parts := by
  unfold writeFaultRecord; split <;> simp

/-! ### Accounts and convoys -/

/-- Counting changes the banks alone (R382). -/
theorem countHart_frame (h : Hart) (e c n : Nat) : countHart h e c n = { h with banks := (countHart h e c n).banks } := by
  unfold countHart
  split <;> rfl

/-- Where no bank is enabled, nothing is counted (R382). -/
theorem countHart_off (h : Hart) (e c n : Nat) (ho : enabledBanks h = []) : countHart h e c n = h := by
  simp [countHart, ho]

/-- A convoy that is closed leaves all of the hart but its convoy and the closed ones (R36). -/
theorem closeConvoy_frame (s : State) :
    closeConvoy s = { s with hart := { s.hart with
      convoy := (closeConvoy s).hart.convoy, closed := (closeConvoy s).hart.closed } } := by
  unfold closeConvoy closeHart
  dsimp only
  split <;> rfl

/-- A hart whose completed convoys are settled keeps all but its convoys, its counts and its trace unit (R384, R388). -/
theorem settleConvoys_frame (s : State) (h : Hart) :
    settleConvoys s h = { h with
      convoy := (settleConvoys s h).convoy, closed := (settleConvoys s h).closed
      banks := (settleConvoys s h).banks, trace := (settleConvoys s h).trace } := by
  unfold settleConvoys closeHart
  dsimp only
  repeat' (first | rfl | (rw [countHart_frame]; done) | split)

/-- A trace record of the acting hart's core leaves all of the hart but its trace unit (R387). -/
theorem writeTrace_hart (s : State) (kind : Nat) (head : Word) (m e : Nat) (tail : List Byte) :
    (writeTrace s s.hart.core kind head m e tail).hart =
      { s.hart with trace := (writeTrace s s.hart.core kind head m e tail).hart.trace } := by
  unfold writeTrace writeTraceAt
  dsimp only
  simp [onCore]

theorem writeTrace_others (s : State) (kind : Nat) (head : Word) (m e : Nat) (tail : List Byte) :
    (writeTrace s s.hart.core kind head m e tail).others = s.others := by
  unfold writeTrace writeTraceAt
  dsimp only
  simp [onCore]

theorem declineLoop_noLoop (h : Hart) (d : Nat) (hl : h.loop = none) : declineLoop h d = h := by simp [declineLoop, hl]

/-! ### Taking a trap (R323) -/

/-- What a trap leaves of a hart that has no trap open and no marked loop: the resume address, the cause, its value and its
operand saved, STATUS changed, the pc at TVEC, and everything else but the accounts as it was. -/
theorem takeTrap_hart (s : State) (t : TrapInfo) (hn : nested s.hart = false) (hl : s.hart.loop = none) :
    (takeTrap s t).hart = { s.hart with
      csr := { s.hart.csr with
        epc := t.epc, cause := word t.cause, tval := t.tval, topnd := t.topnd, status := trapStatus s.hart.csr }
      pc := alignPc s.hart.csr.tvec, restart := ⟨0, false, none, none⟩
      convoy := (takeTrap s t).hart.convoy, closed := (takeTrap s t).hart.closed, trace := (takeTrap s t).hart.trace } := by
  unfold takeTrap
  extract_lets h s1 s2 h1 c0 c
  have f1 : s1.hart = { s.hart with convoy := s1.hart.convoy, closed := s1.hart.closed } := by
    have := congrArg State.hart (closeConvoy_frame (writeFaultRecord s h t))
    simpa only [s1, writeFaultRecord_hart] using this
  have c1 : s1.hart.core = s.hart.core := by rw [f1]
  have f2 : s2.hart = { s.hart with convoy := s2.hart.convoy, closed := s2.hart.closed, trace := s2.hart.trace } := by
    simp only [s2]
    split
    · have e : h.core = s1.hart.core := by rw [c1]
      rw [e]
      have := writeTrace_hart s1 4 t.head t.members 0 (natBytes 8 t.tval.toNat)
      rw [this, f1]
    · rw [f1]
  have l2 : s2.hart.loop = none := by rw [f2]; exact hl
  have d : h1 = s2.hart := declineLoop_noLoop _ _ l2
  have hh : nested h = false := hn
  rw [if_neg (by rw [hh]; decide)]
  obtain ⟨a, b, e, f⟩ : ∃ a b e, s2.hart = { s.hart with convoy := a, closed := b, trace := e } := ⟨_, _, _, f2⟩
  simp only [c, c0, d, f]
  rfl

/-- The other harts do not notice. -/
theorem takeTrap_others (s : State) (t : TrapInfo) (hn : nested s.hart = false) : (takeTrap s t).others = s.others := by
  unfold takeTrap
  extract_lets h s1 s2 h1 c0 c
  have o1 : s1.others = s.others := by
    have := congrArg State.others (closeConvoy_frame (writeFaultRecord s h t))
    simpa only [s1, writeFaultRecord_others] using this
  have c1 : s1.hart.core = s.hart.core := by
    have := congrArg (fun x => x.hart.core) (closeConvoy_frame (writeFaultRecord s h t))
    simpa only [s1, writeFaultRecord_hart] using this
  have o2 : s2.others = s.others := by
    simp only [s2]
    split
    · have e : h.core = s1.hart.core := by rw [c1]
      rw [e, writeTrace_others, o1]
    · exact o1
  have hh : nested h = false := hn
  rw [if_neg (by rw [hh]; decide)]
  exact o2

/-- A precise trap of a scalar word (R149, R323, R324): what its hart becomes. -/
theorem trapAt_hart (s : State) (cause : Nat) (tval topnd : Word) (hn : nested s.hart = false) (hl : s.hart.loop = none) :
    (trapAt s cause tval topnd).hart = { s.hart with
      csr := { s.hart.csr with
        epc := s.hart.pc, cause := word cause, tval := tval, topnd := topnd, status := trapStatus s.hart.csr }
      pc := alignPc s.hart.csr.tvec, restart := ⟨0, false, none, none⟩
      convoy := (trapAt s cause tval topnd).hart.convoy, closed := (trapAt s cause tval topnd).hart.closed
      trace := (trapAt s cause tval topnd).hart.trace } := takeTrap_hart s _ hn hl

/-- The same where TVAL is the instruction word (R324). -/
theorem trapWord_hart (s : State) (cause : Nat) (topnd : Word) (hn : nested s.hart = false) (hl : s.hart.loop = none) :
    (trapWord s cause topnd).hart = { s.hart with
      csr := { s.hart.csr with
        epc := s.hart.pc, cause := word cause, tval := s.hart.ir.zeroExtend 64, topnd := topnd, status := trapStatus s.hart.csr }
      pc := alignPc s.hart.csr.tvec, restart := ⟨0, false, none, none⟩
      convoy := (trapWord s cause topnd).hart.convoy, closed := (trapWord s cause topnd).hart.closed
      trace := (trapWord s cause topnd).hart.trace } := takeTrap_hart s _ hn hl

/-! ### Returning (R167, R323) -/

/-- A return leaves all but STATUS, VTYPE, the pc and the mark of a started vector instruction. -/
theorem trapReturn_frame (s : State) :
    trapReturn s = { s with hart := { s.hart with
      csr := { s.hart.csr with status := (trapReturn s).hart.csr.status, vtype := word (bits s.hart.csr.status 32 13) }
      pc := alignPc s.hart.csr.epc, started := false } } := rfl

/-- STATUS after a return, bit by bit: MODE is PMODE, NEST is clear, the rest as before (R321, R323). -/
theorem trapReturn_status (s : State) (k : Nat) (hk : k < 64) :
    (trapReturn s).hart.csr.status.getLsbD k =
      if k < 2 then s.hart.csr.status.getLsbD (k + 2) else if k = 5 then false else s.hart.csr.status.getLsbD k := by
  simp only [trapReturn, getLsbD_setBits _ _ _ _ _ hk, testBit_bits]
  by_cases h5 : k = 5
  · subst h5; simp
  · have n5 : ¬(5 ≤ k ∧ k < 5 + 1) := by omega
    by_cases h2 : k < 2
    · have a2 : 0 ≤ k ∧ k < 0 + 2 := by omega
      simp [n5, h2, Nat.add_comm]
    · simp [n5, h2, h5]

/-! ### Stores performed -/

@[simp] theorem dropOlds_mem (s : State) (core : Nat) (p : Place) : (dropOlds s core p).mem = s.mem := by
  unfold dropOlds; split <;> rfl
@[simp] theorem roomInL1_mem (s : State) (core pa : Nat) : (roomInL1 s core pa).mem = s.mem := by
  unfold roomInL1; dsimp only; repeat' (first | rfl | split)
@[simp] theorem classPushes_mem (n q : Nat) (s : State) : (classPushes n q s).mem = s.mem := rfl

/-- A scalar store performed at its home: every byte afterwards, once the D bits of its translation are set (R93, R330). -/
theorem sget_performStore (s : State) (core : Nat) (st : Store) (pa : Nat) (h : st.place = .phys pa) (a : Nat) :
    sget (performStore s core st).mem a =
      if pa ≤ a ∧ a < pa + st.size then BitVec.ofNat 8 (st.data.toNat / 256 ^ (a - pa))
      else sget (markUsed (dropOlds s core st.place) (partOf (hartAt (dropOlds s core st.place) core)) st.entries true).mem a := by
  simp only [performStore, h, classPushes_mem, sget_writeHome]
  repeat' (first | rfl | simp only [roomInL1_mem] | split)

/-- A store to a local memory leaves physical memory (R93). -/
theorem performStore_local (s : State) (core : Nat) (st : Store) (h : ∀ pa, st.place ≠ .phys pa) :
    (performStore s core st).mem = s.mem := by
  unfold performStore
  dsimp only
  split
  · simp
  · simp
  · next pa hp => exact absurd hp (h pa)

/-- Table entries marked as used keep the canonical form of memory (R330). -/
theorem markEntry_wf (s : State) (part pa : Nat) (wr : Bool) (h : Memory.wf s.mem = true) :
    Memory.wf (markEntry s part pa wr).2.mem = true := by
  unfold markEntry
  dsimp only
  generalize word8 s pa ||| (if wr then _ else _) = w
  split
  · exact h
  · exact writeHome_wf _ _ _ _ _ h

theorem markUsed_wf (s : State) (part : Nat) (es : List (Nat × Bool)) (wr : Bool) (h : Memory.wf s.mem = true) :
    Memory.wf (markUsed s part es wr).mem = true := by
  fun_induction markUsed s part es wr with
  | case1 => exact h
  | case2 s own e rest r ih =>
    refine ih ?_
    split
    · exact markEntry_wf _ _ _ _ (markEntry_wf _ _ _ _ h)
    · exact markEntry_wf _ _ _ _ h
  | case3 s x rest _ ih => exact ih (markEntry_wf _ _ _ _ h)

/-- A packet whose mask covers its element stores its data (R85). -/
theorem mergeBits_full (size old data : Nat) (hd : data < 2 ^ (8 * size)) :
    mergeBits size old data (2 ^ (8 * size) - 1) = data := by
  simp only [mergeBits, Nat.and_self, Nat.sub_self, Nat.and_zero, Nat.zero_or, Nat.and_two_pow_sub_one_eq_mod]
  exact Nat.mod_eq_of_lt hd

/-- A packet whose mask is empty leaves what was there. -/
theorem mergeBits_none (size old data : Nat) (ho : old < 2 ^ (8 * size)) : mergeBits size old data 0 = old := by
  have e : (0 : Nat) &&& (2 ^ (8 * size) - 1) = 0 := Nat.zero_and _
  simp only [mergeBits, e, Nat.sub_zero, Nat.and_zero, Nat.or_zero]
  rw [Nat.and_two_pow_sub_one_eq_mod]
  exact Nat.mod_eq_of_lt ho

/-- Bytes placed in a local memory leave physical memory. -/
theorem placeBytes_local (s : State) (core qos : Nat) (p : Place) (size data mask : Nat) (h : ∀ pa, p ≠ .phys pa) :
    (placeBytes s core qos p size data mask).mem = s.mem := by
  unfold placeBytes
  dsimp only
  split
  · simp
  · simp
  · next pa => exact absurd rfl (h pa)

theorem placeBytes_wf (s : State) (core qos : Nat) (p : Place) (size data mask : Nat) (h : Memory.wf s.mem = true) :
    Memory.wf (placeBytes s core qos p size data mask).mem = true := by
  unfold placeBytes
  dsimp only
  split
  · simpa using h
  · simpa using h
  · refine writeBytes_wf _ _ _ _ ?_
    simpa using h

/-- A packet performed leaves memory in its canonical form. -/
theorem performPacket_wf (s : State) (p : Packet) (h : Memory.wf s.mem = true) : Memory.wf (performPacket s p).mem = true := by
  unfold performPacket
  dsimp only
  split
  · exact placeBytes_wf _ _ _ _ _ _ _ (markUsed_wf _ _ _ _ h)
  · exact placeBytes_wf _ _ _ _ _ _ _ (placeBytes_wf _ _ _ _ _ _ _ (markUsed_wf _ _ _ _ h))

theorem performWindow_wf (s : State) (fuel : Nat) (h : Memory.wf s.mem = true) :
    Memory.wf (performWindow s fuel).mem = true := by
  induction fuel generalizing s with
  | zero => exact h
  | succ n ih =>
    unfold performWindow
    split
    · exact ih _ (performPacket_wf _ _ h)
    · exact h

/-- What a recovery buffer holds is handled, and memory keeps its canonical form (R367). -/
theorem drainRecovery_wf (s : State) (e : Nat) (h : Memory.wf s.mem = true) : Memory.wf (drainRecovery s e).mem = true := by
  unfold drainRecovery
  generalize s.packets.filter _ = l
  induction l generalizing s with
  | nil => exact h
  | cons p l ih => exact ih _ (performWindow_wf _ _ h)

theorem performNext_wf (s : State) (p : Packet) (h : Memory.wf s.mem = true) : Memory.wf (performNext s p).mem = true := by
  unfold performNext
  dsimp only
  split
  · exact performPacket_wf _ _ (drainRecovery_wf _ _ h)
  · exact drainRecovery_wf _ _ h

theorem performPackets_wf (s : State) (f : Packet → Bool) (h : Memory.wf s.mem = true) :
    Memory.wf (performPackets s f).mem = true := by
  unfold performPackets
  generalize withEarlier s.packets f = l
  induction l generalizing s with
  | nil => exact h
  | cons p l ih => exact ih _ (performNext_wf s p h)

theorem performStore_wf (s : State) (core : Nat) (st : Store) (h : Memory.wf s.mem = true) :
    Memory.wf (performStore s core st).mem = true := by
  unfold performStore
  dsimp only
  split
  · simpa using h
  · simpa using h
  · rw [classPushes_mem]
    refine writeHome_wf _ _ _ _ _ ?_
    have m := markUsed_wf (dropOlds s core st.place) (partOf (hartAt (dropOlds s core st.place) core)) st.entries true
      (by simpa using h)
    split
    · exact m
    · simpa using m

end Sys2Proof.Machine
end

