-- ==== Sys2Proof/Laws/PerInstr.lean ====
section
/-! SUPPORT. Per instruction: the word of an instruction, where it has one, fits in 32 bits (R127). -/

set_option Elab.async false

namespace Sys2Proof

theorem OrdKind.code_lt (k : OrdKind) : OrdKind.code k < 4 := by cases k <;> decide
theorem Scope.code_lt (s : Scope) : Scope.code s < 4 := by cases s <;> decide
theorem Fmt.code_lt (f : Fmt) : Fmt.code f < 8 := by cases f <;> decide
theorem Cond.code_lt (c : Cond) : Cond.code c < 8 := by cases c <;> decide
theorem DTag.code_lt (t : DTag) : DTag.code t < 5 := by cases t <;> decide
theorem NRound.code_lt (r : NRound) : NRound.code r < 8 := by cases r <;> decide

end Sys2Proof

namespace Sys2Proof.Laws.WordFits

/-- The word of the instruction is below 2^32. -/
def Statement (i : Instr) : Prop := ∀ w, encode i = some w → w < 2 ^ 32

theorem add (x0 : SReg) (x1 : SReg) (x2 : SReg) : Statement (.add x0 x1 x2) := by
  intro w h
  simp only [encode, asm, Option.some.injEq] at h
  omega
theorem sub (x0 : SReg) (x1 : SReg) (x2 : SReg) : Statement (.sub x0 x1 x2) := by
  intro w h
  simp only [encode, asm, Option.some.injEq] at h
  omega
theorem mul (x0 : SReg) (x1 : SReg) (x2 : SReg) : Statement (.mul x0 x1 x2) := by
  intro w h
  simp only [encode, asm, Option.some.injEq] at h
  omega
theorem mulh (x0 : SReg) (x1 : SReg) (x2 : SReg) : Statement (.mulh x0 x1 x2) := by
  intro w h
  simp only [encode, asm, Option.some.injEq] at h
  omega
theorem mulhu (x0 : SReg) (x1 : SReg) (x2 : SReg) : Statement (.mulhu x0 x1 x2) := by
  intro w h
  simp only [encode, asm, Option.some.injEq] at h
  omega
theorem div (x0 : SReg) (x1 : SReg) (x2 : SReg) : Statement (.div x0 x1 x2) := by
  intro w h
  simp only [encode, asm, Option.some.injEq] at h
  omega
theorem divu (x0 : SReg) (x1 : SReg) (x2 : SReg) : Statement (.divu x0 x1 x2) := by
  intro w h
  simp only [encode, asm, Option.some.injEq] at h
  omega
theorem rem (x0 : SReg) (x1 : SReg) (x2 : SReg) : Statement (.rem x0 x1 x2) := by
  intro w h
  simp only [encode, asm, Option.some.injEq] at h
  omega
theorem remu (x0 : SReg) (x1 : SReg) (x2 : SReg) : Statement (.remu x0 x1 x2) := by
  intro w h
  simp only [encode, asm, Option.some.injEq] at h
  omega
theorem and (x0 : SReg) (x1 : SReg) (x2 : SReg) : Statement (.and x0 x1 x2) := by
  intro w h
  simp only [encode, asm, Option.some.injEq] at h
  omega
theorem or (x0 : SReg) (x1 : SReg) (x2 : SReg) : Statement (.or x0 x1 x2) := by
  intro w h
  simp only [encode, asm, Option.some.injEq] at h
  omega
theorem xor (x0 : SReg) (x1 : SReg) (x2 : SReg) : Statement (.xor x0 x1 x2) := by
  intro w h
  simp only [encode, asm, Option.some.injEq] at h
  omega
theorem shl (x0 : SReg) (x1 : SReg) (x2 : SReg) : Statement (.shl x0 x1 x2) := by
  intro w h
  simp only [encode, asm, Option.some.injEq] at h
  omega
theorem shr (x0 : SReg) (x1 : SReg) (x2 : SReg) : Statement (.shr x0 x1 x2) := by
  intro w h
  simp only [encode, asm, Option.some.injEq] at h
  omega
theorem sra (x0 : SReg) (x1 : SReg) (x2 : SReg) : Statement (.sra x0 x1 x2) := by
  intro w h
  simp only [encode, asm, Option.some.injEq] at h
  omega
theorem slt (x0 : SReg) (x1 : SReg) (x2 : SReg) : Statement (.slt x0 x1 x2) := by
  intro w h
  simp only [encode, asm, Option.some.injEq] at h
  omega
theorem sltu (x0 : SReg) (x1 : SReg) (x2 : SReg) : Statement (.sltu x0 x1 x2) := by
  intro w h
  simp only [encode, asm, Option.some.injEq] at h
  omega
theorem min (x0 : SReg) (x1 : SReg) (x2 : SReg) : Statement (.min x0 x1 x2) := by
  intro w h
  simp only [encode, asm, Option.some.injEq] at h
  omega
theorem max (x0 : SReg) (x1 : SReg) (x2 : SReg) : Statement (.max x0 x1 x2) := by
  intro w h
  simp only [encode, asm, Option.some.injEq] at h
  omega
theorem minu (x0 : SReg) (x1 : SReg) (x2 : SReg) : Statement (.minu x0 x1 x2) := by
  intro w h
  simp only [encode, asm, Option.some.injEq] at h
  omega
theorem maxu (x0 : SReg) (x1 : SReg) (x2 : SReg) : Statement (.maxu x0 x1 x2) := by
  intro w h
  simp only [encode, asm, Option.some.injEq] at h
  omega
theorem clz (x0 : SReg) (x1 : SReg) : Statement (.clz x0 x1) := by
  intro w h
  simp only [encode, asm, Option.some.injEq] at h
  omega
theorem ctz (x0 : SReg) (x1 : SReg) : Statement (.ctz x0 x1) := by
  intro w h
  simp only [encode, asm, Option.some.injEq] at h
  omega
theorem popc (x0 : SReg) (x1 : SReg) : Statement (.popc x0 x1) := by
  intro w h
  simp only [encode, asm, Option.some.injEq] at h
  omega
theorem fadd (x0 : SReg) (x1 : SReg) (x2 : SReg) : Statement (.fadd x0 x1 x2) := by
  intro w h
  simp only [encode, asm, Option.some.injEq] at h
  omega
theorem fsub (x0 : SReg) (x1 : SReg) (x2 : SReg) : Statement (.fsub x0 x1 x2) := by
  intro w h
  simp only [encode, asm, Option.some.injEq] at h
  omega
theorem fmul (x0 : SReg) (x1 : SReg) (x2 : SReg) : Statement (.fmul x0 x1 x2) := by
  intro w h
  simp only [encode, asm, Option.some.injEq] at h
  omega
theorem ffma (x0 : SReg) (x1 : SReg) (x2 : SReg) (x3 : SReg) : Statement (.ffma x0 x1 x2 x3) := by
  intro w h
  simp only [encode, asm, Option.some.injEq] at h
  omega
theorem fdiv (x0 : SReg) (x1 : SReg) (x2 : SReg) : Statement (.fdiv x0 x1 x2) := by
  intro w h
  simp only [encode, asm, Option.some.injEq] at h
  omega
theorem fsqrt (x0 : SReg) (x1 : SReg) : Statement (.fsqrt x0 x1) := by
  intro w h
  simp only [encode, asm, Option.some.injEq] at h
  omega
theorem fmin (x0 : SReg) (x1 : SReg) (x2 : SReg) : Statement (.fmin x0 x1 x2) := by
  intro w h
  simp only [encode, asm, Option.some.injEq] at h
  omega
theorem fmax (x0 : SReg) (x1 : SReg) (x2 : SReg) : Statement (.fmax x0 x1 x2) := by
  intro w h
  simp only [encode, asm, Option.some.injEq] at h
  omega
theorem fcmp (x0 : SReg) (x1 : SReg) (x2 : SReg) (x3 : Cond) : Statement (.fcmp x0 x1 x2 x3) := by
  intro w h
  have b0 := Cond.code_lt x3
  simp only [encode, asm, Option.some.injEq] at h
  omega
theorem fcvtIF (x0 : SReg) (x1 : SReg) : Statement (.fcvtIF x0 x1) := by
  intro w h
  simp only [encode, asm, Option.some.injEq] at h
  omega
theorem fcvtIuF (x0 : SReg) (x1 : SReg) : Statement (.fcvtIuF x0 x1) := by
  intro w h
  simp only [encode, asm, Option.some.injEq] at h
  omega
theorem fcvtFI (x0 : SReg) (x1 : SReg) : Statement (.fcvtFI x0 x1) := by
  intro w h
  simp only [encode, asm, Option.some.injEq] at h
  omega
theorem fcvtFIu (x0 : SReg) (x1 : SReg) : Statement (.fcvtFIu x0 x1) := by
  intro w h
  simp only [encode, asm, Option.some.injEq] at h
  omega
theorem fcvtBfF (x0 : SReg) (x1 : SReg) : Statement (.fcvtBfF x0 x1) := by
  intro w h
  simp only [encode, asm, Option.some.injEq] at h
  omega
theorem fcvtFBf (x0 : SReg) (x1 : SReg) : Statement (.fcvtFBf x0 x1) := by
  intro w h
  simp only [encode, asm, Option.some.injEq] at h
  omega
theorem addi (x0 : SReg) (x1 : SReg) (x2 : BitVec 16) : Statement (.addi x0 x1 x2) := by
  intro w h
  simp only [encode, asm, Option.some.injEq] at h
  omega
theorem andi (x0 : SReg) (x1 : SReg) (x2 : BitVec 16) : Statement (.andi x0 x1 x2) := by
  intro w h
  simp only [encode, asm, Option.some.injEq] at h
  omega
theorem ori (x0 : SReg) (x1 : SReg) (x2 : BitVec 16) : Statement (.ori x0 x1 x2) := by
  intro w h
  simp only [encode, asm, Option.some.injEq] at h
  omega
theorem xori (x0 : SReg) (x1 : SReg) (x2 : BitVec 16) : Statement (.xori x0 x1 x2) := by
  intro w h
  simp only [encode, asm, Option.some.injEq] at h
  omega
theorem slti (x0 : SReg) (x1 : SReg) (x2 : BitVec 16) : Statement (.slti x0 x1 x2) := by
  intro w h
  simp only [encode, asm, Option.some.injEq] at h
  omega
theorem sltiu (x0 : SReg) (x1 : SReg) (x2 : BitVec 16) : Statement (.sltiu x0 x1 x2) := by
  intro w h
  simp only [encode, asm, Option.some.injEq] at h
  omega
theorem shli (x0 : SReg) (x1 : SReg) (x2 : Fin 64) : Statement (.shli x0 x1 x2) := by
  intro w h
  simp only [encode, asm, Option.some.injEq] at h
  omega
theorem shri (x0 : SReg) (x1 : SReg) (x2 : Fin 64) : Statement (.shri x0 x1 x2) := by
  intro w h
  simp only [encode, asm, Option.some.injEq] at h
  omega
theorem srai (x0 : SReg) (x1 : SReg) (x2 : Fin 64) : Statement (.srai x0 x1 x2) := by
  intro w h
  simp only [encode, asm, Option.some.injEq] at h
  omega
theorem movhi (x0 : SReg) (x1 : BitVec 16) : Statement (.movhi x0 x1) := by
  intro w h
  simp only [encode, asm, Option.some.injEq] at h
  omega
theorem movk (x0 : SReg) (x1 : Fin 4) (x2 : BitVec 16) : Statement (.movk x0 x1 x2) := by
  intro w h
  simp only [encode, asm, Option.some.injEq] at h
  omega
theorem ldb (x0 : SReg) (x1 : SReg) (x2 : BitVec 16) : Statement (.ldb x0 x1 x2) := by
  intro w h
  simp only [encode, asm, Option.some.injEq] at h
  omega
theorem ldh (x0 : SReg) (x1 : SReg) (x2 : BitVec 16) : Statement (.ldh x0 x1 x2) := by
  intro w h
  simp only [encode, asm, Option.some.injEq] at h
  omega
theorem ldw (x0 : SReg) (x1 : SReg) (x2 : BitVec 16) : Statement (.ldw x0 x1 x2) := by
  intro w h
  simp only [encode, asm, Option.some.injEq] at h
  omega
theorem ldd (x0 : SReg) (x1 : SReg) (x2 : BitVec 16) : Statement (.ldd x0 x1 x2) := by
  intro w h
  simp only [encode, asm, Option.some.injEq] at h
  omega
theorem ldbu (x0 : SReg) (x1 : SReg) (x2 : BitVec 16) : Statement (.ldbu x0 x1 x2) := by
  intro w h
  simp only [encode, asm, Option.some.injEq] at h
  omega
theorem ldhu (x0 : SReg) (x1 : SReg) (x2 : BitVec 16) : Statement (.ldhu x0 x1 x2) := by
  intro w h
  simp only [encode, asm, Option.some.injEq] at h
  omega
theorem ldwu (x0 : SReg) (x1 : SReg) (x2 : BitVec 16) : Statement (.ldwu x0 x1 x2) := by
  intro w h
  simp only [encode, asm, Option.some.injEq] at h
  omega
theorem stb (x0 : SReg) (x1 : SReg) (x2 : BitVec 16) : Statement (.stb x0 x1 x2) := by
  intro w h
  simp only [encode, asm, Option.some.injEq] at h
  omega
theorem sth (x0 : SReg) (x1 : SReg) (x2 : BitVec 16) : Statement (.sth x0 x1 x2) := by
  intro w h
  simp only [encode, asm, Option.some.injEq] at h
  omega
theorem stw (x0 : SReg) (x1 : SReg) (x2 : BitVec 16) : Statement (.stw x0 x1 x2) := by
  intro w h
  simp only [encode, asm, Option.some.injEq] at h
  omega
theorem std (x0 : SReg) (x1 : SReg) (x2 : BitVec 16) : Statement (.std x0 x1 x2) := by
  intro w h
  simp only [encode, asm, Option.some.injEq] at h
  omega
theorem ldbReg (x0 : SReg) (x1 : SReg) (x2 : SReg) (x3 : OrdKind) (x4 : Scope) : Statement (.ldbReg x0 x1 x2 x3 x4) := by
  intro w h
  have b0 := OrdKind.code_lt x3
  have b32 := Scope.code_lt x4
  simp only [encode, asm, Option.some.injEq] at h
  omega
theorem ldhReg (x0 : SReg) (x1 : SReg) (x2 : SReg) (x3 : OrdKind) (x4 : Scope) : Statement (.ldhReg x0 x1 x2 x3 x4) := by
  intro w h
  have b0 := OrdKind.code_lt x3
  have b32 := Scope.code_lt x4
  simp only [encode, asm, Option.some.injEq] at h
  omega
theorem ldwReg (x0 : SReg) (x1 : SReg) (x2 : SReg) (x3 : OrdKind) (x4 : Scope) : Statement (.ldwReg x0 x1 x2 x3 x4) := by
  intro w h
  have b0 := OrdKind.code_lt x3
  have b32 := Scope.code_lt x4
  simp only [encode, asm, Option.some.injEq] at h
  omega
theorem lddReg (x0 : SReg) (x1 : SReg) (x2 : SReg) (x3 : OrdKind) (x4 : Scope) : Statement (.lddReg x0 x1 x2 x3 x4) := by
  intro w h
  have b0 := OrdKind.code_lt x3
  have b32 := Scope.code_lt x4
  simp only [encode, asm, Option.some.injEq] at h
  omega
theorem ldbuReg (x0 : SReg) (x1 : SReg) (x2 : SReg) (x3 : OrdKind) (x4 : Scope) : Statement (.ldbuReg x0 x1 x2 x3 x4) := by
  intro w h
  have b0 := OrdKind.code_lt x3
  have b32 := Scope.code_lt x4
  simp only [encode, asm, Option.some.injEq] at h
  omega
theorem ldhuReg (x0 : SReg) (x1 : SReg) (x2 : SReg) (x3 : OrdKind) (x4 : Scope) : Statement (.ldhuReg x0 x1 x2 x3 x4) := by
  intro w h
  have b0 := OrdKind.code_lt x3
  have b32 := Scope.code_lt x4
  simp only [encode, asm, Option.some.injEq] at h
  omega
theorem ldwuReg (x0 : SReg) (x1 : SReg) (x2 : SReg) (x3 : OrdKind) (x4 : Scope) : Statement (.ldwuReg x0 x1 x2 x3 x4) := by
  intro w h
  have b0 := OrdKind.code_lt x3
  have b32 := Scope.code_lt x4
  simp only [encode, asm, Option.some.injEq] at h
  omega
theorem stbReg (x0 : SReg) (x1 : SReg) (x2 : SReg) (x3 : OrdKind) (x4 : Scope) : Statement (.stbReg x0 x1 x2 x3 x4) := by
  intro w h
  have b0 := OrdKind.code_lt x3
  have b32 := Scope.code_lt x4
  simp only [encode, asm, Option.some.injEq] at h
  omega
theorem sthReg (x0 : SReg) (x1 : SReg) (x2 : SReg) (x3 : OrdKind) (x4 : Scope) : Statement (.sthReg x0 x1 x2 x3 x4) := by
  intro w h
  have b0 := OrdKind.code_lt x3
  have b32 := Scope.code_lt x4
  simp only [encode, asm, Option.some.injEq] at h
  omega
theorem stwReg (x0 : SReg) (x1 : SReg) (x2 : SReg) (x3 : OrdKind) (x4 : Scope) : Statement (.stwReg x0 x1 x2 x3 x4) := by
  intro w h
  have b0 := OrdKind.code_lt x3
  have b32 := Scope.code_lt x4
  simp only [encode, asm, Option.some.injEq] at h
  omega
theorem stdReg (x0 : SReg) (x1 : SReg) (x2 : SReg) (x3 : OrdKind) (x4 : Scope) : Statement (.stdReg x0 x1 x2 x3 x4) := by
  intro w h
  have b0 := OrdKind.code_lt x3
  have b32 := Scope.code_lt x4
  simp only [encode, asm, Option.some.injEq] at h
  omega
theorem amoAdd (x0 : SReg) (x1 : SReg) (x2 : SReg) (x3 : OrdKind) (x4 : Scope) (x5 : Bool) : Statement (.amoAdd x0 x1 x2 x3 x4 x5) := by
  intro w h
  have b0 := OrdKind.code_lt x3
  have b32 := Scope.code_lt x4
  have c5 := Bool.toNat_lt x5
  simp only [encode, asm, Option.some.injEq] at h
  omega
theorem amoSwap (x0 : SReg) (x1 : SReg) (x2 : SReg) (x3 : OrdKind) (x4 : Scope) (x5 : Bool) : Statement (.amoSwap x0 x1 x2 x3 x4 x5) := by
  intro w h
  have b0 := OrdKind.code_lt x3
  have b32 := Scope.code_lt x4
  have c5 := Bool.toNat_lt x5
  simp only [encode, asm, Option.some.injEq] at h
  omega
theorem amoCas (x0 : SReg) (x1 : SReg) (x2 : SReg) (x3 : OrdKind) (x4 : Scope) (x5 : Bool) : Statement (.amoCas x0 x1 x2 x3 x4 x5) := by
  intro w h
  have b0 := OrdKind.code_lt x3
  have b32 := Scope.code_lt x4
  have c5 := Bool.toNat_lt x5
  simp only [encode, asm, Option.some.injEq] at h
  omega
theorem amoMin (x0 : SReg) (x1 : SReg) (x2 : SReg) (x3 : OrdKind) (x4 : Scope) (x5 : Bool) : Statement (.amoMin x0 x1 x2 x3 x4 x5) := by
  intro w h
  have b0 := OrdKind.code_lt x3
  have b32 := Scope.code_lt x4
  have c5 := Bool.toNat_lt x5
  simp only [encode, asm, Option.some.injEq] at h
  omega
theorem amoMax (x0 : SReg) (x1 : SReg) (x2 : SReg) (x3 : OrdKind) (x4 : Scope) (x5 : Bool) : Statement (.amoMax x0 x1 x2 x3 x4 x5) := by
  intro w h
  have b0 := OrdKind.code_lt x3
  have b32 := Scope.code_lt x4
  have c5 := Bool.toNat_lt x5
  simp only [encode, asm, Option.some.injEq] at h
  omega
theorem amoAnd (x0 : SReg) (x1 : SReg) (x2 : SReg) (x3 : OrdKind) (x4 : Scope) (x5 : Bool) : Statement (.amoAnd x0 x1 x2 x3 x4 x5) := by
  intro w h
  have b0 := OrdKind.code_lt x3
  have b32 := Scope.code_lt x4
  have c5 := Bool.toNat_lt x5
  simp only [encode, asm, Option.some.injEq] at h
  omega
theorem amoOr (x0 : SReg) (x1 : SReg) (x2 : SReg) (x3 : OrdKind) (x4 : Scope) (x5 : Bool) : Statement (.amoOr x0 x1 x2 x3 x4 x5) := by
  intro w h
  have b0 := OrdKind.code_lt x3
  have b32 := Scope.code_lt x4
  have c5 := Bool.toNat_lt x5
  simp only [encode, asm, Option.some.injEq] at h
  omega
theorem beq (x0 : SReg) (x1 : SReg) (x2 : BitVec 13) : Statement (.beq x0 x1 x2) := by
  intro w h
  simp only [encode, asm, Option.some.injEq] at h
  omega
theorem bne (x0 : SReg) (x1 : SReg) (x2 : BitVec 13) : Statement (.bne x0 x1 x2) := by
  intro w h
  simp only [encode, asm, Option.some.injEq] at h
  omega
theorem blt (x0 : SReg) (x1 : SReg) (x2 : BitVec 13) : Statement (.blt x0 x1 x2) := by
  intro w h
  simp only [encode, asm, Option.some.injEq] at h
  omega
theorem bge (x0 : SReg) (x1 : SReg) (x2 : BitVec 13) : Statement (.bge x0 x1 x2) := by
  intro w h
  simp only [encode, asm, Option.some.injEq] at h
  omega
theorem bltu (x0 : SReg) (x1 : SReg) (x2 : BitVec 13) : Statement (.bltu x0 x1 x2) := by
  intro w h
  simp only [encode, asm, Option.some.injEq] at h
  omega
theorem bgeu (x0 : SReg) (x1 : SReg) (x2 : BitVec 13) : Statement (.bgeu x0 x1 x2) := by
  intro w h
  simp only [encode, asm, Option.some.injEq] at h
  omega
theorem jmp (x0 : BitVec 26) : Statement (.jmp x0) := by
  intro w h
  simp only [encode, asm, Option.some.injEq] at h
  omega
theorem call (x0 : BitVec 26) : Statement (.call x0) := by
  intro w h
  simp only [encode, asm, Option.some.injEq] at h
  omega
theorem jr (x0 : SReg) : Statement (.jr x0) := by
  intro w h
  simp only [encode, asm, Option.some.injEq] at h
  omega
theorem callr (x0 : SReg) : Statement (.callr x0) := by
  intro w h
  simp only [encode, asm, Option.some.injEq] at h
  omega
theorem csrr (x0 : SReg) (x1 : BitVec 12) : Statement (.csrr x0 x1) := by
  intro w h
  simp only [encode, asm, Option.some.injEq] at h
  omega
theorem csrw (x0 : SReg) (x1 : BitVec 12) : Statement (.csrw x0 x1) := by
  intro w h
  simp only [encode, asm, Option.some.injEq] at h
  omega
theorem csrs (x0 : SReg) (x1 : BitVec 12) : Statement (.csrs x0 x1) := by
  intro w h
  simp only [encode, asm, Option.some.injEq] at h
  omega
theorem csrc (x0 : SReg) (x1 : BitVec 12) : Statement (.csrc x0 x1) := by
  intro w h
  simp only [encode, asm, Option.some.injEq] at h
  omega
theorem trap (x0 : BitVec 12) : Statement (.trap x0) := by
  intro w h
  simp only [encode, asm, Option.some.injEq] at h
  omega
theorem tret : Statement .tret := by
  intro w h
  simp only [encode, asm, Option.some.injEq] at h
  omega
theorem bkpt (x0 : BitVec 12) : Statement (.bkpt x0) := by
  intro w h
  simp only [encode, asm, Option.some.injEq] at h
  omega
theorem wait : Statement .wait := by
  intro w h
  simp only [encode, asm, Option.some.injEq] at h
  omega
theorem yield : Statement .yield := by
  intro w h
  simp only [encode, asm, Option.some.injEq] at h
  omega
theorem fenceI : Statement .fenceI := by
  intro w h
  simp only [encode, asm, Option.some.injEq] at h
  omega
theorem gperm (x0 : VReg) (x1 : VReg) (x2 : SReg) (x3 : MReg) : Statement (.gperm x0 x1 x2 x3) := by
  intro w h
  simp only [encode, asm, Option.some.injEq] at h
  omega
theorem gred (x0 : VReg) (x1 : VReg) (x2 : MReg) : Statement (.gred x0 x1 x2) := by
  intro w h
  simp only [encode, asm, Option.some.injEq] at h
  omega
theorem gbcast (x0 : VReg) (x1 : VReg) (x2 : SReg) (x3 : MReg) : Statement (.gbcast x0 x1 x2 x3) := by
  intro w h
  simp only [encode, asm, Option.some.injEq] at h
  omega
theorem gsync : Statement .gsync := by
  intro w h
  simp only [encode, asm, Option.some.injEq] at h
  omega
theorem lnext (x0 : SReg) (x1 : BitVec 13) : Statement (.lnext x0 x1) := by
  intro w h
  simp only [encode, asm, Option.some.injEq] at h
  omega
theorem ljoin (x0 : SReg) (x1 : BitVec 13) : Statement (.ljoin x0 x1) := by
  intro w h
  simp only [encode, asm, Option.some.injEq] at h
  omega
theorem vadd (x0 : VReg) (x1 : VReg) (x2 : VReg) (x3 : MReg) : Statement (.vadd x0 x1 x2 x3) := by
  intro w h
  simp only [encode, asm, Option.some.injEq] at h
  omega
theorem vsub (x0 : VReg) (x1 : VReg) (x2 : VReg) (x3 : MReg) : Statement (.vsub x0 x1 x2 x3) := by
  intro w h
  simp only [encode, asm, Option.some.injEq] at h
  omega
theorem vrsub (x0 : VReg) (x1 : VReg) (x2 : VReg) (x3 : MReg) : Statement (.vrsub x0 x1 x2 x3) := by
  intro w h
  simp only [encode, asm, Option.some.injEq] at h
  omega
theorem vmul (x0 : VReg) (x1 : VReg) (x2 : VReg) (x3 : MReg) : Statement (.vmul x0 x1 x2 x3) := by
  intro w h
  simp only [encode, asm, Option.some.injEq] at h
  omega
theorem vmulh (x0 : VReg) (x1 : VReg) (x2 : VReg) (x3 : MReg) : Statement (.vmulh x0 x1 x2 x3) := by
  intro w h
  simp only [encode, asm, Option.some.injEq] at h
  omega
theorem vmulhU (x0 : VReg) (x1 : VReg) (x2 : VReg) (x3 : MReg) : Statement (.vmulhU x0 x1 x2 x3) := by
  intro w h
  simp only [encode, asm, Option.some.injEq] at h
  omega
theorem vdiv (x0 : VReg) (x1 : VReg) (x2 : VReg) (x3 : MReg) : Statement (.vdiv x0 x1 x2 x3) := by
  intro w h
  simp only [encode, asm, Option.some.injEq] at h
  omega
theorem vdivU (x0 : VReg) (x1 : VReg) (x2 : VReg) (x3 : MReg) : Statement (.vdivU x0 x1 x2 x3) := by
  intro w h
  simp only [encode, asm, Option.some.injEq] at h
  omega
theorem vrem (x0 : VReg) (x1 : VReg) (x2 : VReg) (x3 : MReg) : Statement (.vrem x0 x1 x2 x3) := by
  intro w h
  simp only [encode, asm, Option.some.injEq] at h
  omega
theorem vremU (x0 : VReg) (x1 : VReg) (x2 : VReg) (x3 : MReg) : Statement (.vremU x0 x1 x2 x3) := by
  intro w h
  simp only [encode, asm, Option.some.injEq] at h
  omega
theorem vmin (x0 : VReg) (x1 : VReg) (x2 : VReg) (x3 : MReg) : Statement (.vmin x0 x1 x2 x3) := by
  intro w h
  simp only [encode, asm, Option.some.injEq] at h
  omega
theorem vminU (x0 : VReg) (x1 : VReg) (x2 : VReg) (x3 : MReg) : Statement (.vminU x0 x1 x2 x3) := by
  intro w h
  simp only [encode, asm, Option.some.injEq] at h
  omega
theorem vmax (x0 : VReg) (x1 : VReg) (x2 : VReg) (x3 : MReg) : Statement (.vmax x0 x1 x2 x3) := by
  intro w h
  simp only [encode, asm, Option.some.injEq] at h
  omega
theorem vmaxU (x0 : VReg) (x1 : VReg) (x2 : VReg) (x3 : MReg) : Statement (.vmaxU x0 x1 x2 x3) := by
  intro w h
  simp only [encode, asm, Option.some.injEq] at h
  omega
theorem vabs (x0 : VReg) (x1 : VReg) (x2 : MReg) : Statement (.vabs x0 x1 x2) := by
  intro w h
  simp only [encode, asm, Option.some.injEq] at h
  omega
theorem vneg (x0 : VReg) (x1 : VReg) (x2 : MReg) : Statement (.vneg x0 x1 x2) := by
  intro w h
  simp only [encode, asm, Option.some.injEq] at h
  omega
theorem vand (x0 : VReg) (x1 : VReg) (x2 : VReg) (x3 : MReg) : Statement (.vand x0 x1 x2 x3) := by
  intro w h
  simp only [encode, asm, Option.some.injEq] at h
  omega
theorem vor (x0 : VReg) (x1 : VReg) (x2 : VReg) (x3 : MReg) : Statement (.vor x0 x1 x2 x3) := by
  intro w h
  simp only [encode, asm, Option.some.injEq] at h
  omega
theorem vxor (x0 : VReg) (x1 : VReg) (x2 : VReg) (x3 : MReg) : Statement (.vxor x0 x1 x2 x3) := by
  intro w h
  simp only [encode, asm, Option.some.injEq] at h
  omega
theorem vshl (x0 : VReg) (x1 : VReg) (x2 : VReg) (x3 : MReg) : Statement (.vshl x0 x1 x2 x3) := by
  intro w h
  simp only [encode, asm, Option.some.injEq] at h
  omega
theorem vshr (x0 : VReg) (x1 : VReg) (x2 : VReg) (x3 : MReg) : Statement (.vshr x0 x1 x2 x3) := by
  intro w h
  simp only [encode, asm, Option.some.injEq] at h
  omega
theorem vsra (x0 : VReg) (x1 : VReg) (x2 : VReg) (x3 : MReg) : Statement (.vsra x0 x1 x2 x3) := by
  intro w h
  simp only [encode, asm, Option.some.injEq] at h
  omega
theorem vsadd (x0 : VReg) (x1 : VReg) (x2 : VReg) (x3 : MReg) : Statement (.vsadd x0 x1 x2 x3) := by
  intro w h
  simp only [encode, asm, Option.some.injEq] at h
  omega
theorem vsaddU (x0 : VReg) (x1 : VReg) (x2 : VReg) (x3 : MReg) : Statement (.vsaddU x0 x1 x2 x3) := by
  intro w h
  simp only [encode, asm, Option.some.injEq] at h
  omega
theorem vssub (x0 : VReg) (x1 : VReg) (x2 : VReg) (x3 : MReg) : Statement (.vssub x0 x1 x2 x3) := by
  intro w h
  simp only [encode, asm, Option.some.injEq] at h
  omega
theorem vssubU (x0 : VReg) (x1 : VReg) (x2 : VReg) (x3 : MReg) : Statement (.vssubU x0 x1 x2 x3) := by
  intro w h
  simp only [encode, asm, Option.some.injEq] at h
  omega
theorem vsqrt (x0 : VReg) (x1 : VReg) (x2 : MReg) : Statement (.vsqrt x0 x1 x2) := by
  intro w h
  simp only [encode, asm, Option.some.injEq] at h
  omega
theorem vrece (x0 : VReg) (x1 : VReg) (x2 : MReg) : Statement (.vrece x0 x1 x2) := by
  intro w h
  simp only [encode, asm, Option.some.injEq] at h
  omega
theorem vrsqe (x0 : VReg) (x1 : VReg) (x2 : MReg) : Statement (.vrsqe x0 x1 x2) := by
  intro w h
  simp only [encode, asm, Option.some.injEq] at h
  omega
theorem vexp2 (x0 : VReg) (x1 : VReg) (x2 : MReg) : Statement (.vexp2 x0 x1 x2) := by
  intro w h
  simp only [encode, asm, Option.some.injEq] at h
  omega
theorem vlog2 (x0 : VReg) (x1 : VReg) (x2 : MReg) : Statement (.vlog2 x0 x1 x2) := by
  intro w h
  simp only [encode, asm, Option.some.injEq] at h
  omega
theorem vmov (x0 : VReg) (x1 : VReg) (x2 : MReg) : Statement (.vmov x0 x1 x2) := by
  intro w h
  simp only [encode, asm, Option.some.injEq] at h
  omega
theorem vsel (x0 : VReg) (x1 : VReg) (x2 : VReg) (x3 : MReg) : Statement (.vsel x0 x1 x2 x3) := by
  intro w h
  simp only [encode, asm, Option.some.injEq] at h
  omega
theorem viota (x0 : VReg) (x1 : MReg) : Statement (.viota x0 x1) := by
  intro w h
  simp only [encode, asm, Option.some.injEq] at h
  omega
theorem vgath (x0 : VReg) (x1 : VReg) (x2 : VReg) (x3 : MReg) : Statement (.vgath x0 x1 x2 x3) := by
  intro w h
  simp only [encode, asm, Option.some.injEq] at h
  omega
theorem vcomp (x0 : VReg) (x1 : VReg) (x2 : MReg) : Statement (.vcomp x0 x1 x2) := by
  intro w h
  simp only [encode, asm, Option.some.injEq] at h
  omega
theorem vredsum (x0 : VReg) (x1 : VReg) (x2 : VReg) (x3 : MReg) : Statement (.vredsum x0 x1 x2 x3) := by
  intro w h
  simp only [encode, asm, Option.some.injEq] at h
  omega
theorem vredmax (x0 : VReg) (x1 : VReg) (x2 : VReg) (x3 : MReg) : Statement (.vredmax x0 x1 x2 x3) := by
  intro w h
  simp only [encode, asm, Option.some.injEq] at h
  omega
theorem vredmaxU (x0 : VReg) (x1 : VReg) (x2 : VReg) (x3 : MReg) : Statement (.vredmaxU x0 x1 x2 x3) := by
  intro w h
  simp only [encode, asm, Option.some.injEq] at h
  omega
theorem vredmin (x0 : VReg) (x1 : VReg) (x2 : VReg) (x3 : MReg) : Statement (.vredmin x0 x1 x2 x3) := by
  intro w h
  simp only [encode, asm, Option.some.injEq] at h
  omega
theorem vredminU (x0 : VReg) (x1 : VReg) (x2 : VReg) (x3 : MReg) : Statement (.vredminU x0 x1 x2 x3) := by
  intro w h
  simp only [encode, asm, Option.some.injEq] at h
  omega
theorem vtag (x0 : VReg) (x1 : Fin 16) : Statement (.vtag x0 x1) := by
  intro w h
  simp only [encode, asm, Option.some.injEq] at h
  omega
theorem vcmp (x0 : MReg) (x1 : VReg) (x2 : VReg) (x3 : MReg) (x4 : Bool) (x5 : Cond) : Statement (.vcmp x0 x1 x2 x3 x4 x5) := by
  intro w h
  have b0 := Cond.code_lt x5
  have c4 := Bool.toNat_lt x4
  simp only [encode, asm, Option.some.injEq] at h
  omega
theorem vcvt (x0 : VReg) (x1 : VReg) (x2 : MReg) (x3 : Bool) (x4 : Bool) (x5 : DTag) : Statement (.vcvt x0 x1 x2 x3 x4 x5) := by
  intro w h
  have b0 := DTag.code_lt x5
  have c3 := Bool.toNat_lt x3
  have c4 := Bool.toNat_lt x4
  simp only [encode, asm, Option.some.injEq] at h
  omega
theorem vbcast (x0 : VReg) (x1 : SReg) (x2 : MReg) : Statement (.vbcast x0 x1 x2) := by
  intro w h
  simp only [encode, asm, Option.some.injEq] at h
  omega
theorem vext (x0 : SReg) (x1 : VReg) (x2 : SReg) : Statement (.vext x0 x1 x2) := by
  intro w h
  simp only [encode, asm, Option.some.injEq] at h
  omega
theorem vextU (x0 : SReg) (x1 : VReg) (x2 : SReg) : Statement (.vextU x0 x1 x2) := by
  intro w h
  simp only [encode, asm, Option.some.injEq] at h
  omega
theorem vprog (x0 : SReg) (x1 : VReg) : Statement (.vprog x0 x1) := by
  intro w h
  simp only [encode, asm, Option.some.injEq] at h
  omega
theorem vsetvl (x0 : SReg) (x1 : SReg) : Statement (.vsetvl x0 x1) := by
  intro w h
  simp only [encode, asm, Option.some.injEq] at h
  omega
theorem vsetvt (x0 : SReg) (x1 : SReg) (x2 : BitVec 13) : Statement (.vsetvt x0 x1 x2) := by
  intro w h
  simp only [encode, asm, Option.some.injEq] at h
  omega
theorem vrcfg (x0 : Fin 4) : Statement (.vrcfg x0) := by
  intro w h
  simp only [encode, asm, Option.some.injEq] at h
  omega
theorem mand (x0 : MReg) (x1 : MReg) (x2 : MReg) : Statement (.mand x0 x1 x2) := by
  intro w h
  simp only [encode, asm, Option.some.injEq] at h
  omega
theorem mor (x0 : MReg) (x1 : MReg) (x2 : MReg) : Statement (.mor x0 x1 x2) := by
  intro w h
  simp only [encode, asm, Option.some.injEq] at h
  omega
theorem mxor (x0 : MReg) (x1 : MReg) (x2 : MReg) : Statement (.mxor x0 x1 x2) := by
  intro w h
  simp only [encode, asm, Option.some.injEq] at h
  omega
theorem mandn (x0 : MReg) (x1 : MReg) (x2 : MReg) : Statement (.mandn x0 x1 x2) := by
  intro w h
  simp only [encode, asm, Option.some.injEq] at h
  omega
theorem mnot (x0 : MReg) (x1 : MReg) : Statement (.mnot x0 x1) := by
  intro w h
  simp only [encode, asm, Option.some.injEq] at h
  omega
theorem mmov (x0 : MReg) (x1 : MReg) : Statement (.mmov x0 x1) := by
  intro w h
  simp only [encode, asm, Option.some.injEq] at h
  omega
theorem mpopc (x0 : SReg) (x1 : MReg) : Statement (.mpopc x0 x1) := by
  intro w h
  simp only [encode, asm, Option.some.injEq] at h
  omega
theorem mfirst (x0 : SReg) (x1 : MReg) : Statement (.mfirst x0 x1) := by
  intro w h
  simp only [encode, asm, Option.some.injEq] at h
  omega
theorem msetvl (x0 : SReg) (x1 : MReg) : Statement (.msetvl x0 x1) := by
  intro w h
  simp only [encode, asm, Option.some.injEq] at h
  omega
theorem vslup (x0 : VReg) (x1 : VReg) (x2 : SReg) (x3 : SReg) (x4 : MReg) : Statement (.vslup x0 x1 x2 x3 x4) := by
  intro w h
  simp only [encode, asm, Option.some.injEq] at h
  omega
theorem vsldn (x0 : VReg) (x1 : VReg) (x2 : SReg) (x3 : SReg) (x4 : MReg) : Statement (.vsldn x0 x1 x2 x3 x4) := by
  intro w h
  simp only [encode, asm, Option.some.injEq] at h
  omega
theorem vins (x0 : VReg) (x1 : SReg) (x2 : SReg) : Statement (.vins x0 x1 x2) := by
  intro w h
  simp only [encode, asm, Option.some.injEq] at h
  omega
theorem vf (x0 : MReg) (x1 : Fin 16) (x2 : BitVec 19) : Statement (.vf x0 x1 x2) := by
  intro w h
  simp only [encode, asm, Option.some.injEq] at h
  omega
theorem vpf (x0 : Fin 16) (x1 : BitVec 19) : Statement (.vpf x0 x1) := by
  intro w h
  simp only [encode, asm, Option.some.injEq] at h
  omega
theorem vpstop : Statement .vpstop := by
  intro w h
  simp only [encode, asm, Option.some.injEq] at h
  omega
theorem vpjoin : Statement .vpjoin := by
  intro w h
  simp only [encode, asm, Option.some.injEq] at h
  omega
theorem mxadd (x0 : TileId) (x1 : VReg) (x2 : VReg) (x3 : MReg) (x4 : MReg) : Statement (.mxadd x0 x1 x2 x3 x4) := by
  intro w h
  simp only [encode, asm, Option.some.injEq] at h
  omega
theorem mxsub (x0 : TileId) (x1 : VReg) (x2 : VReg) (x3 : MReg) (x4 : MReg) : Statement (.mxsub x0 x1 x2 x3 x4) := by
  intro w h
  simp only [encode, asm, Option.some.injEq] at h
  omega
theorem mzero (x0 : TileId) : Statement (.mzero x0) := by
  intro w h
  simp only [encode, asm, Option.some.injEq] at h
  omega
theorem mrow (x0 : TileId) (x1 : VReg) (x2 : SReg) : Statement (.mrow x0 x1 x2) := by
  intro w h
  simp only [encode, asm, Option.some.injEq] at h
  omega
theorem mcol (x0 : TileId) (x1 : VReg) (x2 : SReg) : Statement (.mcol x0 x1 x2) := by
  intro w h
  simp only [encode, asm, Option.some.injEq] at h
  omega
theorem mwrow (x0 : TileId) (x1 : VReg) (x2 : SReg) : Statement (.mwrow x0 x1 x2) := by
  intro w h
  simp only [encode, asm, Option.some.injEq] at h
  omega
theorem mldt (x0 : TileId) (x1 : SReg) (x2 : SReg) : Statement (.mldt x0 x1 x2) := by
  intro w h
  simp only [encode, asm, Option.some.injEq] at h
  omega
theorem mstt (x0 : TileId) (x1 : SReg) (x2 : SReg) : Statement (.mstt x0 x1 x2) := by
  intro w h
  simp only [encode, asm, Option.some.injEq] at h
  omega
theorem mxsld (x0 : TileId) (x1 : VReg) (x2 : VReg) (x3 : MReg) (x4 : MReg) (x5 : Fin 64) : Statement (.mxsld x0 x1 x2 x3 x4 x5) := by
  intro w h
  simp only [encode, asm, Option.some.injEq] at h
  omega
theorem fenceSv : Statement .fenceSv := by
  intro w h
  simp only [encode, asm, Option.some.injEq] at h
  omega
theorem fenceVs : Statement .fenceVs := by
  intro w h
  simp only [encode, asm, Option.some.injEq] at h
  omega
theorem fenceVv : Statement .fenceVv := by
  intro w h
  simp only [encode, asm, Option.some.injEq] at h
  omega
theorem lsync : Statement .lsync := by
  intro w h
  simp only [encode, asm, Option.some.injEq] at h
  omega
theorem sfenceT (x0 : SReg) : Statement (.sfenceT x0) := by
  intro w h
  simp only [encode, asm, Option.some.injEq] at h
  omega
theorem harvest (x0 : SReg) (x1 : SReg) : Statement (.harvest x0 x1) := by
  intro w h
  simp only [encode, asm, Option.some.injEq] at h
  omega
theorem claim (x0 : SReg) (x1 : SReg) : Statement (.claim x0 x1) := by
  intro w h
  simp only [encode, asm, Option.some.injEq] at h
  omega
theorem unclaim (x0 : SReg) (x1 : SReg) : Statement (.unclaim x0 x1) := by
  intro w h
  simp only [encode, asm, Option.some.injEq] at h
  omega
theorem crd (x0 : SReg) (x1 : BitVec 12) : Statement (.crd x0 x1) := by
  intro w h
  simp only [encode, asm, Option.some.injEq] at h
  omega
theorem crdlo (x0 : SReg) (x1 : BitVec 12) : Statement (.crdlo x0 x1) := by
  intro w h
  simp only [encode, asm, Option.some.injEq] at h
  omega
theorem crdhi (x0 : SReg) (x1 : BitVec 12) : Statement (.crdhi x0 x1) := by
  intro w h
  simp only [encode, asm, Option.some.injEq] at h
  omega
theorem cevt (x0 : SReg) (x1 : BitVec 12) : Statement (.cevt x0 x1) := by
  intro w h
  simp only [encode, asm, Option.some.injEq] at h
  omega
theorem tshape (x0 : SReg) (x1 : SReg) (x2 : SReg) (x3 : SReg) : Statement (.tshape x0 x1 x2 x3) := by
  intro w h
  simp only [encode, asm, Option.some.injEq] at h
  omega
theorem menter : Statement .menter := by
  intro w h
  simp only [encode, asm, Option.some.injEq] at h
  omega
theorem mleave : Statement .mleave := by
  intro w h
  simp only [encode, asm, Option.some.injEq] at h
  omega
theorem launch (x0 : SReg) (x1 : SReg) : Statement (.launch x0 x1) := by
  intro w h
  simp only [encode, asm, Option.some.injEq] at h
  omega
theorem cancel (x0 : SReg) (x1 : SReg) : Statement (.cancel x0 x1) := by
  intro w h
  simp only [encode, asm, Option.some.injEq] at h
  omega
theorem endProg : Statement .endProg := by
  intro w h
  simp only [encode, asm, Option.some.injEq] at h
  omega
theorem vld (x0 : VReg) (x1 : SReg) (x2 : MReg) : Statement (.vld x0 x1 x2) := by
  intro w h
  simp only [encode, asm, Option.some.injEq] at h
  omega
theorem vlds (x0 : VReg) (x1 : SReg) (x2 : SReg) (x3 : MReg) : Statement (.vlds x0 x1 x2 x3) := by
  intro w h
  simp only [encode, asm, Option.some.injEq] at h
  omega
theorem vldx (x0 : VReg) (x1 : SReg) (x2 : VReg) (x3 : MReg) : Statement (.vldx x0 x1 x2 x3) := by
  intro w h
  simp only [encode, asm, Option.some.injEq] at h
  omega
theorem vldff (x0 : VReg) (x1 : SReg) (x2 : MReg) : Statement (.vldff x0 x1 x2) := by
  intro w h
  simp only [encode, asm, Option.some.injEq] at h
  omega
theorem vldp (x0 : VReg) (x1 : PortId) (x2 : MReg) : Statement (.vldp x0 x1 x2) := by
  intro w h
  simp only [encode, asm, Option.some.injEq] at h
  omega
theorem vst (x0 : VReg) (x1 : SReg) (x2 : MReg) : Statement (.vst x0 x1 x2) := by
  intro w h
  simp only [encode, asm, Option.some.injEq] at h
  omega
theorem vsts (x0 : VReg) (x1 : SReg) (x2 : SReg) (x3 : MReg) : Statement (.vsts x0 x1 x2 x3) := by
  intro w h
  simp only [encode, asm, Option.some.injEq] at h
  omega
theorem vstx (x0 : VReg) (x1 : SReg) (x2 : VReg) (x3 : MReg) : Statement (.vstx x0 x1 x2 x3) := by
  intro w h
  simp only [encode, asm, Option.some.injEq] at h
  omega
theorem vstp (x0 : VReg) (x1 : PortId) (x2 : MReg) : Statement (.vstp x0 x1 x2) := by
  intro w h
  simp only [encode, asm, Option.some.injEq] at h
  omega
theorem vldn (x0 : VReg) (x1 : SReg) (x2 : SReg) (x3 : MReg) (x4 : Fmt) (x5 : DTag) : Statement (.vldn x0 x1 x2 x3 x4 x5) := by
  intro w h
  have b0 := Fmt.code_lt x4
  have b28 := DTag.code_lt x5
  simp only [encode, asm, Option.some.injEq] at h
  omega
theorem vstn (x0 : VReg) (x1 : SReg) (x2 : SReg) (x3 : MReg) (x4 : Fmt) (x5 : NRound) : Statement (.vstn x0 x1 x2 x3 x4 x5) := by
  intro w h
  have b0 := Fmt.code_lt x4
  have b28 := NRound.code_lt x5
  simp only [encode, asm, Option.some.injEq] at h
  omega
theorem vldns (x0 : VReg) (x1 : SReg) (x2 : SReg) (x3 : SReg) (x4 : Fmt) (x5 : DTag) : Statement (.vldns x0 x1 x2 x3 x4 x5) := by
  intro w h
  have b0 := Fmt.code_lt x4
  have b28 := DTag.code_lt x5
  simp only [encode, asm, Option.some.injEq] at h
  omega
theorem vamoadd (x0 : VReg) (x1 : SReg) (x2 : VReg) (x3 : MReg) : Statement (.vamoadd x0 x1 x2 x3) := by
  intro w h
  simp only [encode, asm, Option.some.injEq] at h
  omega
theorem vamomax (x0 : VReg) (x1 : SReg) (x2 : VReg) (x3 : MReg) : Statement (.vamomax x0 x1 x2 x3) := by
  intro w h
  simp only [encode, asm, Option.some.injEq] at h
  omega
theorem vamomaxU (x0 : VReg) (x1 : SReg) (x2 : VReg) (x3 : MReg) : Statement (.vamomaxU x0 x1 x2 x3) := by
  intro w h
  simp only [encode, asm, Option.some.injEq] at h
  omega
theorem vamomin (x0 : VReg) (x1 : SReg) (x2 : VReg) (x3 : MReg) : Statement (.vamomin x0 x1 x2 x3) := by
  intro w h
  simp only [encode, asm, Option.some.injEq] at h
  omega
theorem vamominU (x0 : VReg) (x1 : SReg) (x2 : VReg) (x3 : MReg) : Statement (.vamominU x0 x1 x2 x3) := by
  intro w h
  simp only [encode, asm, Option.some.injEq] at h
  omega
theorem stand (x0 : SReg) (x1 : SReg) (x2 : SReg) : Statement (.stand x0 x1 x2) := by
  intro w h
  simp only [encode, asm, Option.some.injEq] at h
  omega
theorem unstand (x0 : SReg) (x1 : SReg) : Statement (.unstand x0 x1) := by
  intro w h
  simp only [encode, asm, Option.some.injEq] at h
  omega
theorem take (x0 : SReg) (x1 : SReg) : Statement (.take x0 x1) := by
  intro w h
  simp only [encode, asm, Option.some.injEq] at h
  omega
theorem waitsl (x0 : SReg) (x1 : SReg) (x2 : SReg) : Statement (.waitsl x0 x1 x2) := by
  intro w h
  simp only [encode, asm, Option.some.injEq] at h
  omega
theorem vstand (x0 : VReg) (x1 : SReg) (x2 : VReg) (x3 : MReg) (x4 : SReg) : Statement (.vstand x0 x1 x2 x3 x4) := by
  intro w h
  simp only [encode, asm, Option.some.injEq] at h
  omega
theorem vtake (x0 : VReg) (x1 : MReg) (x2 : SReg) : Statement (.vtake x0 x1 x2) := by
  intro w h
  simp only [encode, asm, Option.some.injEq] at h
  omega
theorem copy (x0 : SReg) (x1 : SReg) (x2 : SReg) (x3 : SReg) (x4 : MReg) : Statement (.copy x0 x1 x2 x3 x4) := by
  intro w h
  simp only [encode, asm, Option.some.injEq] at h
  omega
theorem stream (x0 : SReg) (x1 : PortId) (x2 : SReg) : Statement (.stream x0 x1 x2) := by
  intro w h
  simp only [encode, asm, Option.some.injEq] at h
  omega
theorem nbx (x0 : SReg) (x1 : SReg) (x2 : SReg) : Statement (.nbx x0 x1 x2) := by
  intro w h
  simp only [encode, asm, Option.some.injEq] at h
  omega
theorem chain (x0 : SReg) (x1 : SReg) (x2 : SReg) (x3 : SReg) : Statement (.chain x0 x1 x2 x3) := by
  intro w h
  simp only [encode, asm, Option.some.injEq] at h
  omega
theorem lmark (x0 : SReg) (x1 : SReg) (x2 : SReg) (x3 : SReg) : Statement (.lmark x0 x1 x2 x3) := by
  intro w h
  simp only [encode, asm, Option.some.injEq] at h
  omega
theorem bgld (x0 : VReg) (x1 : SReg) (x2 : VReg) (x3 : MReg) (x4 : SReg) : Statement (.bgld x0 x1 x2 x3 x4) := by
  intro w h
  simp only [encode, asm, Option.some.injEq] at h
  omega
theorem gxl (x0 : VReg) (x1 : SReg) (x2 : VReg) (x3 : MReg) (x4 : SReg) : Statement (.gxl x0 x1 x2 x3 x4) := by
  intro w h
  simp only [encode, asm, Option.some.injEq] at h
  omega
theorem vfma (x0 : VReg) (x1 : VReg) (x2 : VReg) (x3 : VReg) (x4 : MReg) : Statement (.vfma x0 x1 x2 x3 x4) := by
  intro w h
  simp only [encode, asm, Option.some.injEq] at h
  omega
theorem vfms (x0 : VReg) (x1 : VReg) (x2 : VReg) (x3 : VReg) (x4 : MReg) : Statement (.vfms x0 x1 x2 x3 x4) := by
  intro w h
  simp only [encode, asm, Option.some.injEq] at h
  omega
theorem vfnma (x0 : VReg) (x1 : VReg) (x2 : VReg) (x3 : VReg) (x4 : MReg) : Statement (.vfnma x0 x1 x2 x3 x4) := by
  intro w h
  simp only [encode, asm, Option.some.injEq] at h
  omega
theorem vclamp (x0 : VReg) (x1 : VReg) (x2 : VReg) (x3 : VReg) (x4 : MReg) : Statement (.vclamp x0 x1 x2 x3 x4) := by
  intro w h
  simp only [encode, asm, Option.some.injEq] at h
  omega
theorem vrcfgCsrWrite (x0 : Word) : Statement (.vrcfgCsrWrite x0) := nofun
theorem vtypeCsrWrite (x0 : Word) : Statement (.vtypeCsrWrite x0) := nofun
theorem fcsrWrite (x0 : Word) : Statement (.fcsrWrite x0) := nofun
theorem seedWrite (x0 : Word) : Statement (.seedWrite x0) := nofun
theorem slbaseWrite (x0 : Word) : Statement (.slbaseWrite x0) := nofun
theorem ageWrite (x0 : Word) : Statement (.ageWrite x0) := nofun
theorem statusWrite (x0 : Word) : Statement (.statusWrite x0) := nofun
theorem registerWrite (x0 : BitVec 12) (x1 : Word) : Statement (.registerWrite x0 x1) := nofun
theorem storeBufferDrain (x0 : CoreId) : Statement (.storeBufferDrain x0) := nofun
theorem standAnswer (x0 : Nat) : Statement (.standAnswer x0) := nofun
theorem pushArrival (x0 : Nat) : Statement (.pushArrival x0) := nofun
theorem pushBounce (x0 : Nat) : Statement (.pushBounce x0) := nofun
theorem unstandAnswer (x0 : Nat) : Statement (.unstandAnswer x0) := nofun
theorem waitslTimeout (x0 : CoreId) : Statement (.waitslTimeout x0) := nofun
theorem waitTimeout (x0 : CoreId) : Statement (.waitTimeout x0) := nofun
theorem copyChunkDone (x0 : CoreId) (x1 : Nat) (x2 : Nat) : Statement (.copyChunkDone x0 x1 x2) := nofun
theorem copyDone (x0 : CoreId) (x1 : Nat) : Statement (.copyDone x0 x1) := nofun
theorem engineBatchResume (x0 : CoreId) (x1 : Nat) : Statement (.engineBatchResume x0 x1) := nofun
theorem streamEnd (x0 : CoreId) (x1 : Nat) : Statement (.streamEnd x0 x1) := nofun
theorem bgldDone (x0 : CoreId) (x1 : Nat) : Statement (.bgldDone x0 x1) := nofun
theorem gatherUnitRequest (x0 : CoreId) (x1 : Nat) (x2 : StackId) : Statement (.gatherUnitRequest x0 x1 x2) := nofun
theorem gxlDone (x0 : CoreId) (x1 : Nat) : Statement (.gxlDone x0 x1) := nofun
theorem nbxArrival (x0 : CoreId) (x1 : Nat) : Statement (.nbxArrival x0 x1) := nofun
theorem nbxEngineGrant (x0 : StackId) : Statement (.nbxEngineGrant x0) := nofun
theorem stopeStep (x0 : StackId) (x1 : Fin 64) : Statement (.stopeStep x0 x1) := nofun
theorem stopeResume (x0 : StackId) (x1 : Fin 64) : Statement (.stopeResume x0 x1) := nofun
theorem nbxDone (x0 : StackId) (x1 : Fin 64) : Statement (.nbxDone x0 x1) := nofun
theorem chainReservation (x0 : CoreId) (x1 : Nat) : Statement (.chainReservation x0 x1) := nofun
theorem chainHopStore (x0 : CoreId) (x1 : Nat) : Statement (.chainHopStore x0 x1) := nofun
theorem chainDone (x0 : CoreId) (x1 : Nat) : Statement (.chainDone x0 x1) := nofun
theorem loopVerdict (x0 : CoreId) : Statement (.loopVerdict x0) := nofun
theorem replayIteration (x0 : CoreId) : Statement (.replayIteration x0) := nofun
theorem loopStatusWrite (x0 : CoreId) : Statement (.loopStatusWrite x0) := nofun
theorem trapEntry (x0 : BitVec 8) (x1 : Word) (x2 : Word) : Statement (.trapEntry x0 x1 x2) := nofun
theorem endLaunch (x0 : PartId) (x1 : BitVec 24) : Statement (.endLaunch x0 x1) := nofun
theorem completionWordWrite (x0 : PartId) (x1 : BitVec 24) : Statement (.completionWordWrite x0 x1) := nofun
theorem dispatchRound (x0 : PartId) : Statement (.dispatchRound x0) := nofun
theorem agingRise (x0 : PartId) (x1 : Nat) : Statement (.agingRise x0 x1) := nofun
theorem dependenceSatisfied (x0 : PartId) (x1 : BitVec 24) (x2 : Fin 2) : Statement (.dependenceSatisfied x0 x1 x2) := nofun
theorem dependencePoll (x0 : PartId) (x1 : BitVec 24) (x2 : Fin 2) : Statement (.dependencePoll x0 x1 x2) := nofun
theorem preemptRequest (x0 : CoreId) : Statement (.preemptRequest x0) := nofun
theorem huskSave (x0 : CoreId) : Statement (.huskSave x0) := nofun
theorem huskWake (x0 : PartId) (x1 : Fin 128) : Statement (.huskWake x0 x1) := nofun
theorem parkTimeout (x0 : PartId) (x1 : Fin 128) : Statement (.parkTimeout x0 x1) := nofun
theorem huskRelease (x0 : PartId) (x1 : Fin 128) : Statement (.huskRelease x0 x1) := nofun
theorem dumpRequest (x0 : PartId) (x1 : BitVec 24) (x2 : Fin 128) : Statement (.dumpRequest x0 x1 x2) := nofun
theorem dumpRelease (x0 : PartId) (x1 : Fin 128) : Statement (.dumpRelease x0 x1) := nofun
theorem packetArrival (x0 : Nat) : Statement (.packetArrival x0) := nofun
theorem blockSuspect (x0 : RouterId) : Statement (.blockSuspect x0) := nofun
theorem lampHop : Statement .lampHop := nofun
theorem recoveryBufferAccept : Statement .recoveryBufferAccept := nofun
theorem lampRelease : Statement .lampRelease := nofun
theorem recoveryBufferDrain (x0 : Nat) : Statement (.recoveryBufferDrain x0) := nofun
theorem lampRegenerate : Statement .lampRegenerate := nofun
theorem segmentMaskActivate (x0 : StackId) (x1 : Fin 64) (x2 : Fin 16) : Statement (.segmentMaskActivate x0 x1 x2) := nofun
theorem supplementaryActivate (x0 : StackId) (x1 : Fin 64) (x2 : Fin 16) : Statement (.supplementaryActivate x0 x1 x2) := nofun
theorem refresh (x0 : StackId) (x1 : Fin 64) (x2 : Fin 16) : Statement (.refresh x0 x1 x2) := nofun
theorem selfRefreshEntry (x0 : StackId) (x1 : Fin 64) : Statement (.selfRefreshEntry x0 x1) := nofun
theorem selfRefreshExit (x0 : StackId) (x1 : Fin 64) : Statement (.selfRefreshExit x0 x1) := nofun
theorem errorCheckScrub (x0 : StackId) (x1 : PAddr) : Statement (.errorCheckScrub x0 x1) := nofun
theorem errorRateCrossed (x0 : DieId) (x1 : Fin 16) : Statement (.errorRateCrossed x0 x1) := nofun
theorem leaseGrant (x0 : Fin 64) (x1 : PartId) (x2 : Fin 8) (x3 : BitVec 8) (x4 : BitVec 32) : Statement (.leaseGrant x0 x1 x2 x3 x4) := nofun
theorem leaseRevoke (x0 : Fin 64) : Statement (.leaseRevoke x0) := nofun
theorem revocationPoint (x0 : Fin 64) : Statement (.revocationPoint x0) := nofun
theorem leaseRelease (x0 : Fin 64) : Statement (.leaseRelease x0) := nofun
theorem ualinkPortDown (x0 : Fin 8) : Statement (.ualinkPortDown x0) := nofun
theorem capacityMove (x0 : Fin 256) (x1 : PartId) (x2 : PartId) : Statement (.capacityMove x0 x1 x2) := nofun
theorem hotRemoveAck (x0 : Fin 256) : Statement (.hotRemoveAck x0) := nofun
theorem hotRemoveTimeout (x0 : Fin 256) : Statement (.hotRemoveTimeout x0) := nofun
theorem blockScrubDone (x0 : Fin 256) : Statement (.blockScrubDone x0) := nofun
theorem hostMemWrite (x0 : PAddr) (x1 : List Byte) : Statement (.hostMemWrite x0 x1) := nofun
theorem hostMemRead (x0 : PAddr) (x1 : Fin 65) : Statement (.hostMemRead x0 x1) := nofun
theorem notify (x0 : PartId) (x1 : Word) : Statement (.notify x0 x1) := nofun
theorem bdoneWrite (x0 : PartId) (x1 : Word) : Statement (.bdoneWrite x0 x1) := nofun
theorem netctlWrite (x0 : Word) : Statement (.netctlWrite x0) := nofun
theorem mcstkWrite (x0 : StackId) (x1 : Word) : Statement (.mcstkWrite x0 x1) := nofun
theorem coresWrite (x0 : PartId) (x1 : BitVec 128) : Statement (.coresWrite x0 x1) := nofun
theorem xmaskWrite (x0 : PartId) (x1 : BitVec 128) : Statement (.xmaskWrite x0 x1) := nofun
theorem activeWrite (x0 : PartId) (x1 : Word) (x2 : FirmwareStart) : Statement (.activeWrite x0 x1 x2) := nofun
theorem coldReset : Statement .coldReset := nofun
theorem warmReset : Statement .warmReset := nofun
theorem powerOn (x0 : BootImage) : Statement (.powerOn x0) := nofun
theorem getVersion : Statement .getVersion := nofun
theorem getCapabilities : Statement .getCapabilities := nofun
theorem negotiateAlgorithms : Statement .negotiateAlgorithms := nofun
theorem getDigests : Statement .getDigests := nofun
theorem getCertificate : Statement .getCertificate := nofun
theorem challenge : Statement .challenge := nofun
theorem getMeasurements (x0 : BitVec 8) : Statement (.getMeasurements x0) := nofun
theorem keyExchange : Statement .keyExchange := nofun
theorem finish : Statement .finish := nofun
theorem endSession : Statement .endSession := nofun
theorem ideKm (x0 : Fin 4) : Statement (.ideKm x0) := nofun
theorem ideStreamFailure (x0 : Fin 4) : Statement (.ideStreamFailure x0) := nofun
theorem counterQuantum (x0 : CoreId) : Statement (.counterQuantum x0) := nofun
theorem traceSample (x0 : CoreId) : Statement (.traceSample x0) := nofun
theorem traceConvoyRecord (x0 : CoreId) : Statement (.traceConvoyRecord x0) := nofun
theorem throttleRaise : Statement .throttleRaise := nofun
theorem throttleLower : Statement .throttleLower := nofun
theorem thermalStop : Statement .thermalStop := nofun
theorem launchAnswer (x0 : CoreId) : Statement (.launchAnswer x0) := nofun
theorem partitionBlockWrite (x0 : PartId) (x1 : BlockField) (x2 : Word) : Statement (.partitionBlockWrite x0 x1 x2) := nofun
theorem peerLineFillOrWriteBack (x0 : PAddr) (x1 : Option (List Byte)) : Statement (.peerLineFillOrWriteBack x0 x1) := nofun
theorem leaseReclaim (x0 : Fin 256) : Statement (.leaseReclaim x0) := nofun

end Sys2Proof.Laws.WordFits
end

