-- ==== Sys2Proof/Laws/Vector.lean ====
section
/-! SUPPORT. What the operations that vector instructions share do: an element written and read, the checks passed, the loop
over elements. -/

namespace Sys2Proof.Machine

/-! ### Elements (R18, R19) -/

/-- The width in bits of an element. -/
def elemBits (narrow : Bool) : Nat := if narrow then 16 else 32

theorem getElem_lt (h : Hart) (r : Nat) (narrow : Bool) (e : Nat) : getElem h r narrow e < 2 ^ elemBits narrow := by
  have hw := (sget h.vec.vrf (slotOf h.csr r narrow e)).isLt
  unfold getElem elemBits
  cases narrow
  · simpa using hw
  · simp only [if_true]
    split
    · exact Nat.mod_lt _ (by decide)
    · omega

/-- An element of an operand after one of its elements is written: that one has the value, every other is as before. -/
theorem getElem_putElem (h : Hart) (v : Vec) (r : Nat) (narrow : Bool) (e x a : Nat) :
    getElem { h with vec := putElem h.csr v r narrow e x } r narrow a =
      if a = e then x % 2 ^ elemBits narrow else getElem { h with vec := v } r narrow a := by
  cases narrow
  · simp only [getElem, putElem, slotOf, elemBits, sget_sset, Bool.false_eq_true, if_false]
    by_cases hae : a = e
    · subst hae
      simp [BitVec.toNat_ofNat]
    · have : r * regLen h.csr + a ≠ r * regLen h.csr + e := by omega
      simp only [this, hae, if_false]
  · simp only [getElem, putElem, slotOf, elemBits, sget_sset, if_true]
    have hw := (sget v.vrf (r * regLen h.csr + (64 * (e / 128) + e % 64))).isLt
    by_cases hk : r * regLen h.csr + (64 * (a / 128) + a % 64) = r * regLen h.csr + (64 * (e / 128) + e % 64)
    · rw [if_pos hk, hk]
      have h1 : a / 128 = e / 128 ∧ a % 64 = e % 64 := by omega
      generalize (sget v.vrf (r * regLen h.csr + (64 * (e / 128) + e % 64))).toNat = w at hw
      by_cases ha : a / 64 % 2 = 0 <;> by_cases he : e / 64 % 2 = 0
      · have : a = e := by omega
        simp only [he, this, if_true, BitVec.toNat_ofNat]
        omega
      · have : a ≠ e := fun hh => he (hh ▸ ha)
        simp only [ha, he, this, if_true, if_false, BitVec.toNat_ofNat]
        omega
      · have : a ≠ e := fun hh => ha (hh ▸ he)
        simp only [ha, he, this, if_true, if_false, BitVec.toNat_ofNat]
        omega
      · have : a = e := by omega
        simp only [he, this, if_true, if_false, BitVec.toNat_ofNat]
        omega
    · rw [if_neg hk]
      have : a ≠ e := fun hh => hk (by rw [hh])
      simp only [this, if_false]

/-- Writing an element leaves all of the vector state but the register file. -/
theorem putElem_frame (c : Csr) (v : Vec) (r : Nat) (narrow : Bool) (e x : Nat) :
    putElem c v r narrow e x = { v with vrf := (putElem c v r narrow e x).vrf } := rfl

/-- Masks, tags and progress do not change with an element. -/
@[simp] theorem putElem_masks (c : Csr) (v : Vec) (r : Nat) (narrow : Bool) (e x : Nat) :
    (putElem c v r narrow e x).masks = v.masks := rfl
@[simp] theorem putElem_tags (c : Csr) (v : Vec) (r : Nat) (narrow : Bool) (e x : Nat) : (putElem c v r narrow e x).tags = v.tags := rfl

/-! ### Checks (R20) -/

/-- Operands that pass every check of R20 let the instruction go on. -/
theorem checkRegs_pass (s : State) (rs : List Nat) (k : Out) (h : regsFail s.hart.csr rs = none) : checkRegs s rs k = k := by
  simp [checkRegs, h]
theorem checkVec_pass (s : State) (dst : Option Nat) (srcs : List Nat) (res : Nat ⊕ Nat) (anyTag : Bool) (k : Out)
    (hr : regsFail s.hart.csr (dst.toList ++ srcs) = none) (ht : typeFails s.hart dst res srcs anyTag = none) :
    checkVec s dst srcs res anyTag k = k := by
  simp [checkVec, checkRegs, hr, ht]

/-- The registers of an operand all exist and start at a multiple of the grouping. -/
theorem regsFail_none (c : Csr) (rs : List Nat) :
    regsFail c rs = none ↔ ∀ r ∈ rs, r + groupOf c ≤ regCount c ∧ r % groupOf c = 0 := by
  unfold regsFail
  constructor
  · intro h r hr
    split at h
    · cases h
    · next h1 =>
      rw [List.find?_eq_none] at h1
      rw [Option.map_eq_none_iff, List.find?_eq_none] at h
      have a := h1 r hr
      have b := h r hr
      simp only [decide_eq_true_eq] at a b
      exact ⟨by omega, by omega⟩
  · intro h
    have h1 : rs.find? (fun r => decide (regCount c < r + groupOf c)) = none := by
      rw [List.find?_eq_none]
      intro r hr
      have := (h r hr).1
      simp only [decide_eq_true_eq]
      omega
    rw [h1]
    simp only [Option.map_eq_none_iff, List.find?_eq_none]
    intro r hr
    have := (h r hr).2
    simp [this]

/-- A trap before an instruction starts (R139): what its hart becomes. -/
theorem vecTrapAt_fresh (s : State) (cause : Nat) (tval topnd : Word) (h : s.hart.restart.epc = none) :
    vecTrapAt s cause tval topnd =
      .next (takeTrap s ⟨cause, tval, topnd, s.hart.pc, s.hart.pc, s.hart.ir, s.hart.convoy.head, s.hart.convoy.count, 0⟩) := by
  simp [vecTrapAt, h]

/-! ### The loop over elements (R175) -/

/-- A loop in which no active element raises an enabled flag runs to its end. -/
theorem sweep_stop_none (f : Nat → Nat × Nat) (act : Nat → Bool) (zero : Bool) (write : Vec → Nat → Nat → Vec) (en e k : Nat)
    (v : Vec) (fl : Nat) (h : ∀ a, e ≤ a → a < e + k → act a = true → (f a).2 &&& en = 0) :
    (sweep f act zero write en e k v fl).stop = none := by
  induction k generalizing e v fl with
  | zero => rfl
  | succ k ih =>
    unfold sweep
    split
    · next ha =>
      simp only [h e (Nat.le_refl _) (by omega) ha, ne_eq, not_true_eq_false, if_false]
      exact ih _ _ _ (fun a h1 h2 => h a (by omega) (by omega))
    · exact ih _ _ _ (fun a h1 h2 => h a (by omega) (by omega))

/-- A loop stops at the first active element that raises an enabled flag. -/
theorem sweep_stop_some (f : Nat → Nat × Nat) (act : Nat → Bool) (zero : Bool) (write : Vec → Nat → Nat → Vec) (en e k : Nat)
    (v : Vec) (fl a : Nat) (h1 : e ≤ a) (h2 : a < e + k) (ha : act a = true) (hf : (f a).2 &&& en ≠ 0)
    (hb : ∀ b, e ≤ b → b < a → act b = true → (f b).2 &&& en = 0) :
    (sweep f act zero write en e k v fl).stop = some (a, (f a).2) := by
  induction k generalizing e v fl with
  | zero => omega
  | succ k ih =>
    unfold sweep
    by_cases hea : e = a
    · subst hea
      simp [ha, hf]
    · split
      · next he =>
        simp only [hb e (Nat.le_refl _) (by omega) he, ne_eq, not_true_eq_false, if_false]
        exact ih _ _ _ (by omega) (by omega) (fun b h3 => hb b (by omega))
      · exact ih _ _ _ (by omega) (by omega) (fun b h3 => hb b (by omega))

/-- Each element of the destination after a loop that ran to its end: computed where active, zero or unchanged where not. -/
theorem getElem_sweep (h : Hart) (f : Nat → Nat × Nat) (act : Nat → Bool) (zero : Bool) (d : Nat) (narrow : Bool) (en e k : Nat)
    (v : Vec) (fl : Nat) (hs : ∀ a, e ≤ a → a < e + k → act a = true → (f a).2 &&& en = 0) (a : Nat) :
    getElem { h with
        vec := (sweep f act zero (fun v e x => putElem h.csr v d narrow e x) en e k v fl).vec } d narrow a =
      if e ≤ a ∧ a < e + k then
        (if act a then (f a).1 % 2 ^ elemBits narrow else if zero then 0 else getElem { h with vec := v } d narrow a)
      else getElem { h with vec := v } d narrow a := by
  induction k generalizing e v fl with
  | zero =>
    have : ¬(e ≤ a ∧ a < e + 0) := by omega
    rw [if_neg this]
    rfl
  | succ k ih =>
    have hs' : ∀ b, e + 1 ≤ b → b < e + 1 + k → act b = true → (f b).2 &&& en = 0 := fun b h1 h2 => hs b (by omega) (by omega)
    have split_ : ∀ v', (a ≠ e → getElem { h with vec := v' } d narrow a = getElem { h with vec := v } d narrow a) →
        (if e + 1 ≤ a ∧ a < e + 1 + k then
          (if act a then (f a).1 % 2 ^ elemBits narrow else if zero then 0 else getElem { h with vec := v' } d narrow a)
        else getElem { h with vec := v' } d narrow a) =
        if a = e then getElem { h with vec := v' } d narrow a
        else if e ≤ a ∧ a < e + (k + 1) then
          (if act a then (f a).1 % 2 ^ elemBits narrow else if zero then 0 else getElem { h with vec := v } d narrow a)
        else getElem { h with vec := v } d narrow a := by
      intro v' hv
      by_cases hae : a = e
      · have hr : ¬(e + 1 ≤ a ∧ a < e + 1 + k) := by omega
        rw [if_neg hr, if_pos hae]
      · rw [if_neg hae, hv hae]
        by_cases hr : e + 1 ≤ a ∧ a < e + 1 + k
        · have hq : e ≤ a ∧ a < e + (k + 1) := by omega
          rw [if_pos hr, if_pos hq]
        · have hq : ¬(e ≤ a ∧ a < e + (k + 1)) := by omega
          rw [if_neg hr, if_neg hq]
    have hin : e ≤ e ∧ e < e + (k + 1) := by omega
    unfold sweep
    by_cases he : act e = true
    · simp only [he, if_true, hs e (Nat.le_refl _) (by omega) he, ne_eq, not_true_eq_false, if_false]
      rw [ih _ _ _ hs', split_ _ (fun hne => by rw [getElem_putElem, if_neg hne])]
      by_cases hae : a = e
      · subst hae
        rw [if_pos rfl, getElem_putElem, if_pos rfl, if_pos (by omega), if_pos he]
      · rw [if_neg hae]
    · simp only [he, Bool.false_eq_true, if_false]
      cases zero
      · simp only [Bool.false_eq_true, if_false]
        rw [ih _ _ _ hs']
        rw [split_ v (fun _ => rfl)]
        by_cases hae : a = e
        · subst hae
          rw [if_pos rfl, if_pos hin, if_neg he]
        · simp only [hae, if_false, Bool.false_eq_true]
      · simp only [if_true]
        rw [ih _ _ _ hs', split_ _ (fun hne => by rw [getElem_putElem, if_neg hne])]
        by_cases hae : a = e
        · subst hae
          rw [if_pos rfl, getElem_putElem, if_pos rfl, if_pos hin, if_neg he, Nat.zero_mod]
        · simp only [hae, if_false, if_true]

/-- A loop leaves all of the vector state but the register file. -/
theorem sweep_frame (c : Csr) (f : Nat → Nat × Nat) (act : Nat → Bool) (zero : Bool) (d : Nat) (narrow : Bool) (en e k : Nat)
    (v : Vec) (fl : Nat) :
    let w := (sweep f act zero (fun v e x => putElem c v d narrow e x) en e k v fl).vec
    w = { v with vrf := w.vrf } := by
  induction k generalizing e v fl with
  | zero => rfl
  | succ k ih =>
    unfold sweep
    split
    · dsimp only
      split
      · rfl
      · have := ih (e + 1) (putElem c v d narrow e (f e).1) (fl ||| (f e).2)
        dsimp only at this
        rw [this]
        rfl
    · have := ih (e + 1) (if zero then putElem c v d narrow e 0 else v) fl
      dsimp only at this ⊢
      rw [this]
      cases zero <;> rfl

/-- An instruction whose active elements raise no enabled flag completes: its elements, the flags joined, the tail, the
progress, the pc (R175). -/
theorem vecLoop_runs (s : State) (d t : Nat) (act : Nat → Bool) (zero : Bool) (f : Nat → Nat × Nat)
    (hz : s.hart.restart.stop = none)
    (hf : ∀ e, s.hart.restart.start ≤ e → e < lengthOf s.hart → act e = true → (f e).2 &&& enables s.hart.csr = 0) :
    vecLoop s d t act zero f =
      let h := setTags s.hart d (groupOf s.hart.csr) t
      let w := sweep f act zero (fun v e x => putElem h.csr v d (narrowTag t) e x) (enables h.csr) h.restart.start
        (lengthOf h - h.restart.start) h.vec 0
      let h1 := orFlags { h with vec := w.vec } w.flags
      .next (advance { s with hart := completed (if lengthOf h = 0 then h1 else vecTail h1 d t (lengthOf h)) d (lengthOf h) }) := by
  have hn := sweep_stop_none f act zero
    (fun v e x => putElem (setTags s.hart d (groupOf s.hart.csr) t).csr v d (narrowTag t) e x)
    (enables (setTags s.hart d (groupOf s.hart.csr) t).csr) (setTags s.hart d (groupOf s.hart.csr) t).restart.start
    (lengthOf (setTags s.hart d (groupOf s.hart.csr) t) - (setTags s.hart d (groupOf s.hart.csr) t).restart.start)
    (setTags s.hart d (groupOf s.hart.csr) t).vec 0
    (fun e h1 h2 ha => hf e h1 (by
      have : lengthOf (setTags s.hart d (groupOf s.hart.csr) t) = lengthOf s.hart := rfl
      have : (setTags s.hart d (groupOf s.hart.csr) t).restart.start = s.hart.restart.start := rfl
      omega) ha)
  have hg : groupStop (setTags s.hart d (groupOf s.hart.csr) t) (lengthOf (setTags s.hart d (groupOf s.hart.csr) t)) =
      lengthOf (setTags s.hart d (groupOf s.hart.csr) t) := by
    have hs : (setTags s.hart d (groupOf s.hart.csr) t).restart.stop = none := hz
    rw [groupStop, hs]
  unfold vecLoop
  dsimp only
  rw [hg, hn]
  simp only [Nat.lt_irrefl, if_false]

end Sys2Proof.Machine
end

