-- ==== Sys2Proof/Tests/Slice0.lean ====
section
/-! SUPPORT. Tests: words written out from the spec's encoding, ill-formed terms that the check refuses, and for each
statement a state and operands that meet its hypotheses. -/

set_option Elab.async false

namespace Sys2Proof.Tests

open Sys2Proof.Machine Sys2Proof.Claims

/-! ### Ill-formed terms, one for each check -/

theorem test_wf_load_order : (Instr.lddReg 1 2 3 .acq .none).wf = false ∧ (Instr.lddReg 1 2 3 .rel .device).wf = false := by decide
theorem test_wf_store_order : (Instr.stdReg 1 2 3 .rel .none).wf = false ∧ (Instr.stdReg 1 2 3 .acq .device).wf = false := by decide
theorem test_wf_atomic_order : (Instr.amoAdd 1 2 3 .plain .gang true).wf = false := by decide
theorem test_wf_select_mask : (Instr.vsel 1 2 3 0).wf = false ∧ (Instr.vcomp 1 2 0).wf = false := by decide
theorem test_wf_tag : (Instr.vtag 1 5).wf = false := by decide
theorem test_wf_narrow_load : (Instr.vldn 1 2 3 0 .fp16 .f32).wf = false ∧ (Instr.vldns 1 2 3 4 .fp16 .f32).wf = false := by decide
theorem test_wf_narrow_store : (Instr.vstn 1 2 3 0 .fp16 .rne).wf = false := by decide
theorem test_wf_host_write : (Instr.hostMemWrite 63 [1, 2]).wf = false ∧ (Instr.hostMemWrite 0 []).wf = false := by decide
theorem test_wf_host_read : (Instr.hostMemRead 63 2).wf = false ∧ (Instr.hostMemRead 0 0).wf = false := by decide
theorem test_wf_peer_line : (Instr.peerLineFillOrWriteBack 1 none).wf = false ∧
    (Instr.peerLineFillOrWriteBack 0 (some [1])).wf = false := by decide

/-! ### Decoding: one word for each instruction that has one, field by field (R129 to R137) -/

theorem test_decode_integer : ∀ p ∈ ([
    (0b000001_00011_10001_01001_00000000000, .add 3 17 9),
    (0b000001_00011_10001_01001_00000000001, .sub 3 17 9),
    (0b000001_00011_10001_01001_00000000010, .mul 3 17 9),
    (0b000001_00011_10001_01001_00000000011, .mulh 3 17 9),
    (0b000001_00011_10001_01001_00000000100, .mulhu 3 17 9),
    (0b000001_00011_10001_01001_00000000101, .div 3 17 9),
    (0b000001_00011_10001_01001_00000000110, .divu 3 17 9),
    (0b000001_00011_10001_01001_00000000111, .rem 3 17 9),
    (0b000001_00011_10001_01001_00000001000, .remu 3 17 9),
    (0b000001_00011_10001_01001_00000001001, .and 3 17 9),
    (0b000001_00011_10001_01001_00000001010, .or 3 17 9),
    (0b000001_00011_10001_01001_00000001011, .xor 3 17 9),
    (0b000001_00011_10001_01001_00000001100, .shl 3 17 9),
    (0b000001_00011_10001_01001_00000001101, .shr 3 17 9),
    (0b000001_00011_10001_01001_00000001110, .sra 3 17 9),
    (0b000001_00011_10001_01001_00000001111, .slt 3 17 9),
    (0b000001_00011_10001_01001_00000010000, .sltu 3 17 9),
    (0b000001_00011_10001_01001_00000010001, .min 3 17 9),
    (0b000001_00011_10001_01001_00000010010, .max 3 17 9),
    (0b000001_00011_10001_01001_00000010011, .minu 3 17 9),
    (0b000001_00011_10001_01001_00000010100, .maxu 3 17 9),
    (0b000001_00011_10001_0000000000010101, .clz 3 17),
    (0b000001_00011_10001_0000000000010110, .ctz 3 17),
    (0b000001_00011_10001_0000000000010111, .popc 3 17)] : List (Nat × Instr)), decode p.1 = .ok p.2 := by decide

theorem test_decode_float : ∀ p ∈ ([
    (0b000010_00011_10001_01001_00000000000, .fadd 3 17 9),
    (0b000010_00011_10001_01001_00000000001, .fsub 3 17 9),
    (0b000010_00011_10001_01001_00000000010, .fmul 3 17 9),
    (0b000010_00011_10001_01001_11110_000011, .ffma 3 17 9 30),
    (0b000010_00011_10001_01001_00000000100, .fdiv 3 17 9),
    (0b000010_00011_10001_0000000000000101, .fsqrt 3 17),
    (0b000010_00011_10001_01001_00000000110, .fmin 3 17 9),
    (0b000010_00011_10001_01001_00000000111, .fmax 3 17 9),
    (0b000010_00011_10001_01001_00000001_100, .fcmp 3 17 9 .gt),
    (0b000010_00011_10001_0000000000010000, .fcvtIF 3 17),
    (0b000010_00011_10001_0000000000010001, .fcvtIuF 3 17),
    (0b000010_00011_10001_0000000000010010, .fcvtFI 3 17),
    (0b000010_00011_10001_0000000000010011, .fcvtFIu 3 17),
    (0b000010_00011_10001_0000000000010100, .fcvtBfF 3 17),
    (0b000010_00011_10001_0000000000010101, .fcvtFBf 3 17)] : List (Nat × Instr)), decode p.1 = .ok p.2 := by decide

theorem test_decode_immediate : ∀ p ∈ ([
    (0b000011_00011_10001_1000000100000011, .addi 3 17 0x8103),
    (0b000100_00011_10001_1000000100000011, .andi 3 17 0x8103),
    (0b000101_00011_10001_1000000100000011, .ori 3 17 0x8103),
    (0b000110_00011_10001_1000000100000011, .xori 3 17 0x8103),
    (0b000111_00011_10001_1000000100000011, .slti 3 17 0x8103),
    (0b001000_00011_10001_1000000100000011, .sltiu 3 17 0x8103),
    (0b001001_00011_10001_0000000000_101010, .shli 3 17 42),
    (0b001001_00011_10001_0000000001_101010, .shri 3 17 42),
    (0b001001_00011_10001_0000000010_101010, .srai 3 17 42),
    (0b001010_00011_00000_1000000100000011, .movhi 3 0x8103),
    (0b001011_00011_000_10_1000000100000011, .movk 3 2 0x8103)] : List (Nat × Instr)), decode p.1 = .ok p.2 := by decide

theorem test_decode_scalar_memory : ∀ p ∈ ([
    (0b001100_00011_10001_1000000100000011, .ldb 3 17 0x8103),
    (0b001101_00011_10001_1000000100000011, .ldh 3 17 0x8103),
    (0b001110_00011_10001_1000000100000011, .ldw 3 17 0x8103),
    (0b001111_00011_10001_1000000100000011, .ldd 3 17 0x8103),
    (0b010000_00011_10001_1000000100000011, .ldbu 3 17 0x8103),
    (0b010001_00011_10001_1000000100000011, .ldhu 3 17 0x8103),
    (0b010010_00011_10001_1000000100000011, .ldwu 3 17 0x8103),
    (0b010011_00011_10001_1000000100000011, .stb 3 17 0x8103),
    (0b010100_00011_10001_1000000100000011, .sth 3 17 0x8103),
    (0b010101_00011_10001_1000000100000011, .stw 3 17 0x8103),
    (0b010110_00011_10001_1000000100000011, .std 3 17 0x8103),
    (0b010111_00011_10001_01001_01_11_0000000, .ldbReg 3 17 9 .acq .system),
    (0b010111_00011_10001_01001_01_11_0001000, .ldhReg 3 17 9 .acq .system),
    (0b010111_00011_10001_01001_01_11_0010000, .ldwReg 3 17 9 .acq .system),
    (0b010111_00011_10001_01001_01_11_0011000, .lddReg 3 17 9 .acq .system),
    (0b010111_00011_10001_01001_01_11_0000100, .ldbuReg 3 17 9 .acq .system),
    (0b010111_00011_10001_01001_01_11_0001100, .ldhuReg 3 17 9 .acq .system),
    (0b010111_00011_10001_01001_01_11_0010100, .ldwuReg 3 17 9 .acq .system),
    (0b010111_00011_10001_01001_10_10_0100000, .stbReg 3 17 9 .rel .device),
    (0b010111_00011_10001_01001_10_10_0101000, .sthReg 3 17 9 .rel .device),
    (0b010111_00011_10001_01001_10_10_0110000, .stwReg 3 17 9 .rel .device),
    (0b010111_00011_10001_01001_10_10_0111000, .stdReg 3 17 9 .rel .device),
    (0b011000_00011_10001_01001_11_01_0000_1_00, .amoAdd 3 17 9 .ar .gang true),
    (0b011000_00011_10001_01001_11_01_0001_1_00, .amoSwap 3 17 9 .ar .gang true),
    (0b011000_00011_10001_01001_11_01_0010_1_00, .amoCas 3 17 9 .ar .gang true),
    (0b011000_00011_10001_01001_11_01_0011_1_00, .amoMin 3 17 9 .ar .gang true),
    (0b011000_00011_10001_01001_11_01_0100_1_00, .amoMax 3 17 9 .ar .gang true),
    (0b011000_00011_10001_01001_11_01_0101_1_00, .amoAnd 3 17 9 .ar .gang true),
    (0b011000_00011_10001_01001_11_01_0110_1_00, .amoOr 3 17 9 .ar .gang true)] : List (Nat × Instr)), decode p.1 = .ok p.2 := by decide

theorem test_decode_control : ∀ p ∈ ([
    (0b011001_00011_10001_000_1000001000011, .beq 3 17 0x1043),
    (0b011001_00011_10001_001_1000001000011, .bne 3 17 0x1043),
    (0b011001_00011_10001_010_1000001000011, .blt 3 17 0x1043),
    (0b011001_00011_10001_011_1000001000011, .bge 3 17 0x1043),
    (0b011001_00011_10001_100_1000001000011, .bltu 3 17 0x1043),
    (0b011001_00011_10001_101_1000001000011, .bgeu 3 17 0x1043),
    (0b011010_10000000000000000000000101, .jmp 0x2000005),
    (0b011011_10000000000000000000000101, .call 0x2000005),
    (0b01110000000_00011_0000000000000000, .jr 3),
    (0b01110000000_00011_0000000000000001, .callr 3),
    (0b011101_00011_00000_100001000011_0000, .csrr 3 0x843),
    (0b01110100000_00011_100001000011_0001, .csrw 3 0x843),
    (0b01110100000_00011_100001000011_0010, .csrs 3 0x843),
    (0b01110100000_00011_100001000011_0011, .csrc 3 0x843),
    (0b0111010000000000_100001000011_0100, .trap 0x843),
    (0b01110100000000000000000000000101, .tret),
    (0b0111010000000000_100001000011_0110, .bkpt 0x843),
    (0b01110100000000000000000000000111, .wait),
    (0b01110100000000000000000000001000, .yield),
    (0b01110100000000000000000000001001, .fenceI)] : List (Nat × Instr)), decode p.1 = .ok p.2 := by decide

theorem test_decode_gang_and_loop_end : ∀ p ∈ ([
    (0b011110_100101_000110_00011_101_000000, .gperm 37 6 3 5),
    (0b011110_100101_000110_00000_101_000001, .gred 37 6 5),
    (0b011110_100101_000110_00011_101_000010, .gbcast 37 6 3 5),
    (0b01111000000000000000000000000011, .gsync),
    (0b011111_00011_00000000_1000001000011, .lnext 3 0x1043),
    (0b011111_00011_00000001_1000001000011, .ljoin 3 0x1043)] : List (Nat × Instr)), decode p.1 = .ok p.2 := by decide

theorem test_decode_elementwise : ∀ p ∈ ([
    (0b100000_100101_000110_110010_101_00000, .vadd 37 6 50 5),
    (0b100000_100101_000110_110010_101_00001, .vsub 37 6 50 5),
    (0b100000_100101_000110_110010_101_00010, .vrsub 37 6 50 5),
    (0b100000_100101_000110_110010_101_00011, .vmul 37 6 50 5),
    (0b100000_100101_000110_110010_101_00100, .vmulh 37 6 50 5),
    (0b100000_100101_000110_110010_101_00101, .vmulhU 37 6 50 5),
    (0b100000_100101_000110_110010_101_00110, .vdiv 37 6 50 5),
    (0b100000_100101_000110_110010_101_00111, .vdivU 37 6 50 5),
    (0b100000_100101_000110_110010_101_01000, .vrem 37 6 50 5),
    (0b100000_100101_000110_110010_101_01001, .vremU 37 6 50 5),
    (0b100000_100101_000110_110010_101_01010, .vmin 37 6 50 5),
    (0b100000_100101_000110_110010_101_01011, .vminU 37 6 50 5),
    (0b100000_100101_000110_110010_101_01100, .vmax 37 6 50 5),
    (0b100000_100101_000110_110010_101_01101, .vmaxU 37 6 50 5),
    (0b100000_100101_000110_000000_101_01110, .vabs 37 6 5),
    (0b100000_100101_000110_000000_101_01111, .vneg 37 6 5),
    (0b100000_100101_000110_110010_101_10000, .vand 37 6 50 5),
    (0b100000_100101_000110_110010_101_10001, .vor 37 6 50 5),
    (0b100000_100101_000110_110010_101_10010, .vxor 37 6 50 5),
    (0b100000_100101_000110_110010_101_10011, .vshl 37 6 50 5),
    (0b100000_100101_000110_110010_101_10100, .vshr 37 6 50 5),
    (0b100000_100101_000110_110010_101_10101, .vsra 37 6 50 5),
    (0b100000_100101_000110_110010_101_10110, .vsadd 37 6 50 5),
    (0b100000_100101_000110_110010_101_10111, .vsaddU 37 6 50 5),
    (0b100000_100101_000110_110010_101_11000, .vssub 37 6 50 5),
    (0b100000_100101_000110_110010_101_11001, .vssubU 37 6 50 5),
    (0b100000_100101_000110_000000_101_11010, .vsqrt 37 6 5),
    (0b100000_100101_000110_000000_101_11011, .vrece 37 6 5),
    (0b100000_100101_000110_000000_101_11100, .vrsqe 37 6 5),
    (0b100000_100101_000110_000000_101_11101, .vexp2 37 6 5),
    (0b100000_100101_000110_000000_101_11110, .vlog2 37 6 5),
    (0b100000_100101_000110_000000_101_11111, .vmov 37 6 5),
    (0b100001_100101_000110_110010_101_00000, .vsel 37 6 50 5),
    (0b100001_100101_000000000000_101_00001, .viota 37 5),
    (0b100001_100101_000110_110010_101_00010, .vgath 37 6 50 5),
    (0b100001_100101_000110_000000_101_00011, .vcomp 37 6 5),
    (0b100001_100101_000110_110010_101_00100, .vredsum 37 6 50 5),
    (0b100001_100101_000110_110010_101_00101, .vredmax 37 6 50 5),
    (0b100001_100101_000110_110010_101_00110, .vredmaxU 37 6 50 5),
    (0b100001_100101_000110_110010_101_00111, .vredmin 37 6 50 5),
    (0b100001_100101_000110_110010_101_01000, .vredminU 37 6 50 5),
    (0b100001_100101_00000000_0100_00001001, .vtag 37 4)] : List (Nat × Instr)), decode p.1 = .ok p.2 := by decide

theorem test_decode_compare_convert : ∀ p ∈ ([
    (0b100010000_101_100101_000110_010_0_1_100, .vcmp 5 37 6 2 true .gt),
    (0b100011_100101_000110_000000_101_0_1_1_01, .vcvt 37 6 5 true true .bf16)] : List (Nat × Instr)), decode p.1 = .ok p.2 := by decide

theorem test_decode_scalar_vector : ∀ p ∈ ([
    (0b100100_100101_000000_00011_101_000000, .vbcast 37 3 5),
    (0b1001000_00011_100101_10001_000000001, .vext 3 37 17),
    (0b1001000_00011_100101_10001_000000010, .vextU 3 37 17),
    (0b1001000_00011_100101_00000000000011, .vprog 3 37)] : List (Nat × Instr)), decode p.1 = .ok p.2 := by decide

theorem test_decode_vector_settings : ∀ p ∈ ([
    (0b100101_00011_10001_0000000000000000, .vsetvl 3 17),
    (0b100101_00011_10001_001_1000001000011, .vsetvt 3 17 0x1043),
    (0b100101000000000001000000000000_10, .vrcfg 2),
    (0b100110000_101_000_010_000_110_00000000, .mand 5 2 6),
    (0b100110000_101_000_010_000_110_00000001, .mor 5 2 6),
    (0b100110000_101_000_010_000_110_00000010, .mxor 5 2 6),
    (0b100110000_101_000_010_000_110_00000011, .mandn 5 2 6),
    (0b100110000_101_000_010_00000000000100, .mnot 5 2),
    (0b100110000_101_000_010_00000000000101, .mmov 5 2),
    (0b1001100_00011_000_101_00000000000110, .mpopc 3 5),
    (0b1001100_00011_000_101_00000000000111, .mfirst 3 5),
    (0b1001100_00011_000_101_00000000001000, .msetvl 3 5)] : List (Nat × Instr)), decode p.1 = .ok p.2 := by decide

theorem test_decode_slides_paths : ∀ p ∈ ([
    (0b100111_100101_000110_00011_10001_101_0, .vslup 37 6 3 17 5),
    (0b100111_100101_000110_00011_10001_101_1, .vsldn 37 6 3 17 5),
    (0b101000_100101_000000_00011_10001_0000, .vins 37 3 17),
    (0b101001_101_1010_1000000000000000101, .vf 5 10 0x40005),
    (0b101010000_1010_1000000000000000101, .vpf 10 0x40005),
    (0b10101100000000000000000000000000, .vpstop),
    (0b10101100000000000000000000000001, .vpjoin)] : List (Nat × Instr)), decode p.1 = .ok p.2 := by decide

theorem test_decode_tiles : ∀ p ∈ ([
    (0b101100_10_100101_000110_101_010_000000, .mxadd 2 37 6 5 2),
    (0b101100_10_100101_000110_101_010_000001, .mxsub 2 37 6 5 2),
    (0b101100_10_000000000000000000000010, .mzero 2),
    (0b101100_10_100101_0_00011_000000000011, .mrow 2 37 3),
    (0b101100_10_100101_0_00011_000000000100, .mcol 2 37 3),
    (0b101100_10_100101_0_00011_000000000101, .mwrow 2 37 3),
    (0b101100_10_0_00011_0_10001_000000000110, .mldt 2 3 17),
    (0b101100_10_0_00011_0_10001_000000000111, .mstt 2 3 17)] : List (Nat × Instr)), decode p.1 = .ok p.2 := by decide

theorem test_decode_system : ∀ p ∈ ([
    (0b101101_10_100101_000110_101_010_101010, .mxsld 2 37 6 5 2 42),
    (0b10111000000000000000000000000000, .fenceSv),
    (0b10111000000000000000000000000001, .fenceVs),
    (0b10111000000000000000000000000010, .fenceVv),
    (0b10111000000000000000000000000011, .lsync),
    (0b10111000000_00011_0000000000000100, .sfenceT 3),
    (0b101110_00011_10001_0000000000000101, .harvest 3 17),
    (0b101110_00011_10001_0000000000000110, .claim 3 17),
    (0b101110_00011_10001_0000000000000111, .unclaim 3 17),
    (0b101110_00011_00000_100001000011_1000, .crd 3 0x843),
    (0b101110_00011_00000_100001000011_1001, .crdlo 3 0x843),
    (0b101110_00011_00000_100001000011_1010, .crdhi 3 0x843),
    (0b10111000000_00011_100001000011_1011, .cevt 3 0x843),
    (0b101111_00011_10001_01001_11110_000000, .tshape 3 17 9 30),
    (0b10111100000000000000000000000001, .menter),
    (0b10111100000000000000000000000010, .mleave),
    (0b101111_00011_10001_0000000000000011, .launch 3 17),
    (0b101111_00011_10001_0000000000000100, .cancel 3 17),
    (0b10111100000000000000000000000101, .endProg)] : List (Nat × Instr)), decode p.1 = .ok p.2 := by decide

theorem test_decode_vector_memory : ∀ p ∈ ([
    (0b110000_100101_00011_000000_101_000000, .vld 37 3 5),
    (0b110000_100101_00011_0_10001_101_000100, .vlds 37 3 17 5),
    (0b110000_100101_00011_000110_101_001000, .vldx 37 3 6 5),
    (0b110000_100101_00011_000000_101_001100, .vldff 37 3 5),
    (0b110000_100101_00_101_000000_010_010000, .vldp 37 5 2),
    (0b110000_100101_00011_000000_101_100000, .vst 37 3 5),
    (0b110000_100101_00011_0_10001_101_100100, .vsts 37 3 17 5),
    (0b110000_100101_00011_000110_101_101000, .vstx 37 3 6 5),
    (0b110000_100101_00_101_000000_010_110000, .vstp 37 5 2),
    (0b110001_100101_00011_10001_101_101_0_010, .vldn 37 3 17 5 .e2m1 .bf16),
    (0b110001_100101_00011_10001_101_101_1_100, .vstn 37 3 17 5 .e2m1 .sr),
    (0b110010_100101_00011_10001_01001_101_01, .vldns 37 3 17 9 .e2m1 .bf16),
    (0b110011_100101_00011_000110_101_000000, .vamoadd 37 3 6 5),
    (0b110011_100101_00011_000110_101_000001, .vamomax 37 3 6 5),
    (0b110011_100101_00011_000110_101_000010, .vamomaxU 37 3 6 5),
    (0b110011_100101_00011_000110_101_000011, .vamomin 37 3 6 5),
    (0b110011_100101_00011_000110_101_000100, .vamominU 37 3 6 5)] : List (Nat × Instr)), decode p.1 = .ok p.2 := by decide

theorem test_decode_standing : ∀ p ∈ ([
    (0b110100_00011_10001_01001_00000000000, .stand 3 17 9),
    (0b110100_00011_10001_0000000000000001, .unstand 3 17),
    (0b110100_00011_10001_0000000000000010, .take 3 17),
    (0b110100_00011_10001_01001_00000000011, .waitsl 3 17 9),
    (0b110101_100101_00011_000110_101_10001_0, .vstand 37 3 6 5 17),
    (0b110101_100101_00000000000_101_00011_1, .vtake 37 5 3)] : List (Nat × Instr)), decode p.1 = .ok p.2 := by decide

theorem test_decode_engines : ∀ p ∈ ([
    (0b110110_00011_10001_01001_11110_101_000, .copy 3 17 9 30 5),
    (0b110110_00011_00_101_10001_00000000001, .stream 3 5 17),
    (0b110110_00011_10001_01001_00000000010, .nbx 3 17 9),
    (0b110110_00011_10001_01001_11110_000011, .chain 3 17 9 30),
    (0b110110_00011_10001_01001_11110_000100, .lmark 3 17 9 30),
    (0b110111_100101_00011_000110_101_10001_0, .bgld 37 3 6 5 17),
    (0b110111_100101_00011_000110_101_10001_1, .gxl 37 3 6 5 17)] : List (Nat × Instr)), decode p.1 = .ok p.2 := by decide

theorem test_decode_four_operand : ∀ p ∈ ([
    (0b111001_100101_000110_110010_010101_01, .vfma 37 6 50 21 5),
    (0b111011_100101_000110_110010_010101_01, .vfms 37 6 50 21 5),
    (0b111101_100101_000110_110010_010101_01, .vfnma 37 6 50 21 5),
    (0b111111_100101_000110_110010_010101_01, .vclamp 37 6 50 21 5)] : List (Nat × Instr)), decode p.1 = .ok p.2 := by decide

/-! ### States that the witnesses stand on -/

/-- A hart of launch 1 of partition 0 on core 0, about to execute at 0x1000. -/
def hart0 : Hart := { Hart.start 0 with run := .running, pc := 0x1000, owner := some ⟨0, 1, 0, 0, 1, 0, 0, 0⟩ }

/-- The module with that hart alone. -/
def one : State := { State.reset with hart := hart0, others := [] }

/-- The module with scalar registers set. -/
def withRegs (s : State) (l : List (SReg × Word)) : State := l.foldl (fun s p => setReg s p.1 p.2) s

/-- The module with a change to the hart. -/
def withHart (s : State) (f : Hart → Hart) : State := { s with hart := f s.hart }

/-- The module in supervisor mode. -/
def super (s : State) : State := setCsr s (fun c => { c with status := 1 })

/-- A cached translation of the page at 0x400000 to physical 0x10000, every right given. -/
def page0 : TlbEntry := ⟨0, 1, 0x400000, 0x1000, 0x10000, 0x10000, 0x77, false, [], (0x1000, 0x1000)⟩

/-- The module with block 0 the partition's, and that page cached. -/
def mapped (s : State) : State :=
  { s with blocks := s.blocks.set 0 (.owned 0), hart := { s.hart with tlb := [page0] } }

/-- The module with a vector length, the type state `vtype`, and vector registers tagged. -/
def vecs (s : State) (vl vtype : Word) (tags : List (Fin 64 × BitVec 4)) : State :=
  withHart s (fun h => { h with
    csr := { h.csr with vl := vl, vtype := vtype }
    vec := { h.vec with tags := tags.foldl (fun v p => v.set p.1 p.2) h.vec.tags } })

/-- A marked loop that stands at a phase. -/
def aLoop (phase : LoopPhase) : Loop :=
  { id := 0, rd := 9, count := 5, ind1 := 6, ind2 := 7, top := 0x1004, endPc := some 0x1020, n := 10, iter := 3, cur := [],
    ops := [[], [], []], stack := none, late := false, guards := [], carried := [], grp := 0, csr := Csr.start 0 0,
    phase := phase, stope := 0, next := 3, super := false, regs := startRegs 0, vec := Vec.start, flags := 0 }

/-! ### Witnesses: encoding -/

theorem witness_decodeOfEncode : (Instr.add 3 17 9).wf = true ∧ encode (.add 3 17 9) = some 0x04714800 := by decide
theorem witness_encodeOfDecode : decode 0xFFFFFFFF = .ok (.vclamp 63 63 63 63 7) := by decide

/-! ### Witnesses: scalar results -/

theorem witness_integer : integer (getReg (withRegs one [(1, 7), (2, 5)])) (.sub 3 1 2) = some (3, 2) ∧
    frozen (withRegs one [(1, 7), (2, 5)]).hart 3 = false := by decide
theorem witness_integer_divide_by_zero : integer (getReg (withRegs one [(1, 7)])) (.rem 0 1 2) = some (0, 7) ∧
    integer (getReg (withRegs one [(1, 7)])) (.div 3 1 4) = some (3, -1) := by decide
theorem witness_integer_words : (23 : Nat) < 24 ∧ (0 : Nat) < 32 ∧ (21 : Nat) ≤ 23 ∧ (1 : SReg) ≠ 0 ∧ (24 : Nat) ≤ 24 ∧ (24 : Nat) < 64 := by
  decide

/-- FCSR with the divide-by-zero trap enabled. -/
def dzOn : State := setCsr (withRegs one [(1, 0x3F800000)]) (fun c => { c with fcsr := 0x100 })

theorem witness_float : floating (withRegs one [(1, 0x3F800000)]) (.fadd 3 1 1) = some (3, 0x40000000, 0) ∧
    frozen one.hart 3 = false ∧ (0 : Nat) &&& bits one.hart.csr.fcsr 5 5 = 0 := by decide
theorem witness_float_trap : floating dzOn (.fdiv 3 1 0) = some (3, 0x7F800000, 8) ∧ frozen dzOn.hart 3 = false ∧
    (8 : Nat) &&& bits dzOn.hart.csr.fcsr 5 5 ≠ 0 ∧ nested dzOn.hart = false ∧ dzOn.hart.loop = none := by decide

/-! ### Witnesses: transfers of control -/

theorem witness_branch : branch (getReg (withRegs one [(1, -1)])) (.bltu 1 0 (-4)) = some (false, -4) := by decide
theorem witness_jump : (getReg (withRegs one [(4, 0xFFFFFFFFFFFC)]) 4).toNat < 2 ^ 48 ∧
    (getReg (withRegs one [(4, 0xFFFFFFFFFFFC)]) 4).toNat % 4 = 0 ∧ frozen one.hart 1 = false := by decide
theorem witness_jump_traps : nested one.hart = false ∧ one.hart.loop = none ∧ frozen one.hart 1 = false ∧
    (getReg (withRegs one [(4, 3), (5, 0x1000000000000)]) 4).toNat % 4 ≠ 0 ∧
    2 ^ 48 ≤ (getReg (withRegs one [(4, 3), (5, 0x1000000000000)]) 5).toNat := by decide

/-! ### Witnesses: scalar memory -/

/-- A place in scalar data memory that serves an access of the top word. -/
def top8 : State := withRegs one [(1, 0xFFF0), (2, 0xFFF8)]

theorem witness_load : loadOf (getReg top8) (.ldw 3 1 12) = some (3, 1, 0xFFFC, 4, true, false) ∧ frozen top8.hart 3 = false := by
  decide
theorem witness_served : served top8 0xFFFC 4 .read (.sdm 0xFFFC) [] top8 ∧ wordFree top8.hart (.sdm 0xFFFC) := ⟨⟨rfl, by decide, by decide⟩, rfl⟩
theorem witness_served_global : served (mapped one) 0x400FF8 8 .write (.phys 0x10FF8) [] (mapped one) :=
  ⟨rfl, by decide, by decide⟩

/-- A buffered release. -/
def released : State := withHart top8 (fun h => { h with buffer := [⟨.sdm 0, 8, 5, true, false, 0, 0, []⟩], released := true })

theorem witness_acquire : loadOf (getReg released) (.lddReg 3 2 0 .acq .device) = some (3, 2, 0xFFF8, 8, false, true) ∧
    released.hart.released = true ∧ frozen (acquireNow released).hart 3 = false ∧ top8.hart.released = false ∧
    storeReady released.hart ⟨.sdm 0, 8, 5, true, false, 0, 0, []⟩ = true := by decide
theorem witness_acquire_served : served (acquireNow released) 0xFFF8 8 .read (.sdm 0xFFF8) [] (acquireNow released) ∧
    wordFree (acquireNow released).hart (.sdm 0xFFF8) := ⟨⟨rfl, by decide, by decide⟩, rfl⟩
theorem witness_store : storeOf (getReg top8) (.stb 4 2 7) = some (4, 2, 0xFFFF, 1, false, false) ∧
    (∃ t, exec (.stb 4 2 7) top8 = .next t) := ⟨by decide, _, rfl⟩
theorem witness_store_served : served top8 0xFFFF 1 .write (.sdm 0xFFFF) [] top8 := ⟨rfl, by decide, by decide⟩

/-- One store in the buffer. -/
def oneStore : Store := ⟨.spad 8, 4, 5, false, false, 0, 0, []⟩

theorem witness_drain : one.hart.core < 128 ∧ (withHart one (fun h => { h with buffer := [oneStore] })).hart.buffer = [oneStore] ∧
    storeReady (withHart one (fun h => { h with buffer := [oneStore] })).hart oneStore = true ∧ oneStore.release = false := by decide
theorem witness_local_reach : (0xFFFF : Word).toNat < 0x10000 ∧ (0xFFFFF : Word).toNat < 0x100000 ∧
    (0x2FFFFF : Word).toNat < 0x300000 ∧ (0x3FFFFF : Word).toNat < 0x400000 ∧ 2 ^ 48 ≤ (0x1000000000000 : Word).toNat ∧
    (0x1001 : Word).toNat % 2 ≠ 0 := by decide
theorem witness_refused : reach (withRegs one [(1, 0x10000)]) 0x10000 8 .read = (.trap 0x09 false, withRegs one [(1, 0x10000)]) ∧
    loadOf (getReg (withRegs one [(1, 0x10000)])) (.ldd 3 1 0) = some (3, 1, 0x10000, 8, false, false) ∧
    storeOf (getReg (withRegs one [(1, 0x10000)])) (.std 3 1 0) = some (3, 1, 0x10000, 8, false, false) ∧
    reach (withRegs one [(1, 0x10000)]) 0x10000 8 .write = (.trap 0x09 false, withRegs one [(1, 0x10000)]) :=
  ⟨rfl, by decide, by decide, rfl⟩
theorem witness_atomic : atomicOf (.amoCas 3 2 4 .rel .device true) = some (.cas, 3, 2, 4, .rel, .device, true) ∧
    frozen top8.hart 3 = false ∧ drains top8.hart := ⟨rfl, by decide, by unfold drains; decide⟩
theorem witness_atomic_served : reach top8 0xFFF8 8 .write = (.ok (.sdm 0xFFF8) [], top8) ∧
    (reach top8 0xFFF8 8 .read).1 = .ok (.sdm 0xFFF8) [] ∧ watched top8.hart 0xFFF8 8 .read = false ∧
    watched top8.hart 0xFFF8 8 .write = false ∧ dataBad top8 (.sdm 0xFFF8) 8 .read = false := ⟨rfl, rfl, by decide, by decide, by decide⟩
theorem witness_translation : (0x400FFF : Word).toNat < 2 ^ 48 ∧
    findEntry (mapped one).hart.tlb (partOf (mapped one).hart) (0x400FFF : Word).toNat = some page0 ∧
    ∀ x ∈ page0.entries, word8 (mapped one) x.1 ||| 0x100 = word8 (mapped one) x.1 := by decide
theorem witness_translation_frame :
    ∀ y ∈ (probe (mapped one) 0 0 false 0x400000 8 .write).1.2, ¬(y.1 ≤ 0 ∧ 0 < y.1 + 8) := by decide

/-! ### Witnesses: frozen registers and CSRs -/

/-- A marked loop that is replayed. -/
def replaying : State := withHart one (fun h => { h with loop := some (aLoop .replaying) })

theorem witness_frozen : plainTarget replaying (.addi 5 1 1) = some 5 ∧ frozen replaying.hart 5 = true ∧
    nested replaying.hart = false := by decide
theorem witness_csr_read : csrRead one 0x105 = some 0 ∧ (csrWritable.csrForSupervisor 0x105 = true → supervisor (super one).hart = true) ∧
    frozen one.hart 3 = false ∧ csrRead (super one) 0x105 = some 0 := by decide
theorem witness_csr_write : csrChange (getReg (withRegs one [(1, 8)])) (.csrs 1 0x021) = some (0x021, fun old => old ||| 8, 4) ∧
    csrWritable 0x021 = true ∧ csrRead one 0x021 = some 3 ∧ csrTakes one 0x021 8 = true ∧ partOf one.hart < 16 :=
  ⟨rfl, by decide, by decide, by decide, by decide⟩
theorem witness_csr_status : csrTakes one 0x100 4 = true ∧ csrTakes one 0x100 8 = false ∧ csrTakes one 0x003 3 = true ∧
    csrTakes one 0x003 4 = false ∧ csrTakes one 0x002 0x848 = true ∧ csrTakes one 0x002 0xA00 = false ∧
    csrTakes one 0x010 0x1FFF = true ∧ csrTakes one 0x010 0x2000 = false := by decide
theorem witness_csr_refused : mayEnter one.hart ∧ csrRead one 0x006 = none ∧ csrRead one 0x050 = some 0 ∧
    csrWritable 0x050 = false ∧ csrRead one 0x100 = some 0 ∧ csrWritable.csrForSupervisor 0x100 = true ∧
    supervisor one.hart = false ∧ csrWritable 0x021 = true ∧ csrTakes one 0x021 9 = false ∧ csrTakes one 0x021 1 = false :=
  ⟨⟨by decide, rfl⟩, by decide, by decide, by decide, by decide, by decide, by decide, by decide, by decide, by decide⟩
theorem witness_csr_words : (1 : SReg) ≠ 0 ∧ (1 : Nat) ≤ 3 := by decide

/-! ### Witnesses: traps -/

theorem witness_may_enter : mayEnter one.hart ∧ gangSize one.hart = 1 ∧
    (0x21 : BitVec 8) ∈ ([0x01, 0x02, 0x03, 0x04, 0x05, 0x06, 0x08, 0x09, 0x0A, 0x0B, 0x0C, 0x0D, 0x0E, 0x10, 0x18, 0x1A, 0x21] :
      List (BitVec 8)) := ⟨⟨by decide, rfl⟩, by decide, by decide⟩
theorem witness_privileged : mayEnter one.hart ∧ supervisor one.hart = false ∧ supervisor (super one).hart = true ∧
    (setCsr (super one) (fun c => { c with epc := 2 })).hart.csr.epc.toNat % 4 ≠ 0 := ⟨⟨by decide, rfl⟩, by decide, by decide, by decide⟩

/-- A partition control page at 0x8000. -/
def withPcp (s : State) : State := { s with parts := s.parts.set 0 { s.parts[0] with pcpAddr := 0x8000, active := 1 } }

theorem witness_fault_record : (withPcp one).parts[partOf (withPcp one).hart]? = some (withPcp one).parts[0] ∧
    ((withPcp one).parts[0]).pcpAddr.toNat % 4096 = 0 := by decide
theorem witness_nested : nested (setCsr one (fun c => { c with status := 0x21 })).hart = true ∧
    one.hart.owner = some ⟨0, 1, 0, 0, 1, 0, 0, 0⟩ := by decide
theorem witness_return : supervisor (super one).hart = true ∧ (super one).hart.csr.epc.toNat % 4 = 0 := by decide

/-! ### Witnesses: waiting, fences, gangs -/

theorem witness_wait : one.hart.csr.status.getLsbD 6 = false ∧
    (setCsr one (fun c => { c with status := 0x40 })).hart.csr.status.getLsbD 6 = true ∧
    (withHart one (fun h => { h with run := .waitEvent 0 })).hart.run = .waitEvent 0 := by decide
theorem witness_fence : fenceOf .lsync = some (true, true, true, false) ∧ one.hart.buffer = [] ∧
    (∀ p ∈ one.packets, p.core ≠ one.hart.core) ∧ one.hart.loads = [] := by decide

/-- A gang of two, on cores 0 and 1. -/
def pair : State :=
  { one with
    hart := { hart0 with owner := some ⟨0, 1, 0, 0, 2, 0, 0, 0⟩ }
    others := [{ Hart.start 1 with run := .running, pc := 0x1000, owner := some ⟨0, 1, 0, 1, 2, 0, 0, 0⟩ }] }

theorem witness_gang : coresApart pair ∧ (∀ h ∈ gangNow pair, drains h) ∧ (gangNow pair).map (·.core) = [0, 1] ∧ supervisor (super pair).hart = true :=
  ⟨by unfold coresApart; decide, by unfold drains; decide, by decide, by decide⟩
theorem witness_harvest : (∀ h ∈ gangNow pair, frozen h 3 = false) ∧ (5 : Nat) ≤ (7 : Word).toNat % 8 ∧ (4 : Word).toNat % 8 < 5 := by
  decide

/-! ### Witnesses: claims and counters -/

/-- Counter bank 1 held by the guest. -/
def banked : State := withHart one (fun h => { h with banks := h.banks.set 1 { Bank.start with holder := some .guest } })

theorem witness_claim : supervisor (super banked).hart = true ∧ frozen one.hart 3 = false ∧ holderOf banked.hart 0 = none ∧
    holderOf banked.hart 1 = some .guest ∧ (4 : Nat) < (5 : Word).toNat ∧ (4 : Word).toNat ≤ 4 := by decide
theorem witness_counter : counterOf banked.hart (8 : BitVec 12).toNat = some 0 ∧
    holderOf banked.hart ((8 : BitVec 12).toNat / 8) = some (if modeOf banked.hart = 2 then .hypervisor else .guest) ∧
    (13 : BitVec 12).toNat % 8 < 6 ∧ selectOk ((getReg one 0).toNat % 2 ^ 16) = true := by decide
theorem witness_counter_traps : 32 ≤ (32 : BitVec 12).toNat ∧ (31 : BitVec 12).toNat < 32 ∧
    holderOf one.hart ((31 : BitVec 12).toNat / 8) ≠ some (if modeOf one.hart = 2 then .hypervisor else .guest) := by decide

/-! ### Witnesses: vector settings -/

theorem witness_length_grant : frozen one.hart 3 = false ∧ freshStart one.hart ∧ csrTakes one 0x002 ((0x611 : BitVec 13).zeroExtend 64) = true :=
  ⟨by decide, rfl, by decide⟩
theorem witness_msetvl : (0 : Nat) < lengthOf (vecs one 4 0x600 []).hart ∧
    (∀ k, k < lengthOf (vecs one 4 0x600 []).hart → maskBit (vecs one 4 0x600 []).hart 1 k = false) ∧
    maskBit (withHart one (fun h => { h with vec := { h.vec with masks := h.vec.masks.set 1 1 } })).hart 1 0 = true := by decide
theorem witness_vtag : (4 : Fin 16).val < 5 ∧ (31 : VReg).val % groupOf one.hart.csr = 0 ∧
    (31 : VReg).val + groupOf one.hart.csr ≤ regCount one.hart.csr := by decide
theorem witness_mask : ∃ a b : MReg, Instr.mand 7 1 2 = .mand 7 a b := ⟨1, 2, rfl⟩

/-! ### Witnesses: elementwise instructions -/

/-- Three INT32 elements, v1 and v2 tagged. -/
def ints : State := vecs one 3 0x600 [(1, 3), (2, 3)]

/-- Two FP32 elements, element 1 of v1 being -1, and the invalid trap enabled. -/
def roots : State :=
  withHart (vecs one 2 0x200 [(1, 1)]) (fun h => { h with csr := { h.csr with fcsr := 0x200 }, vec := { h.vec with vrf := [(6145, 0xBF800000)] } })

theorem witness_elementwise : elemRow (getReg ints) (.vadd 4 1 2 0) = some (.add, 4, [1, 2], 0) ∧
    freshStart ints.hart ∧ (⟨.add, 4, [1, 2], 0⟩ : ElemWord).rejects ints.hart = none ∧
    (⟨.add, 4, [1, 2], 0⟩ : ElemWord).result ints.hart = .inl 3 ∧
    ∀ e, e < 3 → (elemValue ints .add [1, 2] 0 3 e).2 &&& bits ints.hart.csr.fcsr 5 5 = 0 :=
  ⟨rfl, rfl, by decide, rfl, by decide⟩
theorem witness_elementwise_compare : elemRow (getReg ints) (.vcmp 4 1 2 0 true .lt) = some (.cmp true .lt, 4, [1, 2], 0) ∧
    (⟨.cmp true .lt, 4, [1, 2], 0⟩ : ElemWord).rejects ints.hart = none ∧ (4 : Fin 8).val = 4 := ⟨rfl, by decide, rfl⟩
theorem witness_integer_elements : (0x8000 : Nat) < 2 ^ tagBits 4 ∧ (17 : Nat) < 2 ^ tagBits 4 ∧
    intElement .sra (BitVec.ofNat (tagBits 4) 0x8000) (BitVec.ofNat (tagBits 4) 17) = some (0xC000#16) :=
  ⟨by decide, by decide, rfl⟩
theorem witness_element_trap : elemRow (getReg roots) (.vsqrt 4 1 0) = some (.sqrt, 4, [1], 0) ∧ freshStart roots.hart ∧
    mayEnter roots.hart ∧ (⟨.sqrt, 4, [1], 0⟩ : ElemWord).rejects roots.hart = none ∧
    (⟨.sqrt, 4, [1], 0⟩ : ElemWord).result roots.hart = .inl 1 ∧
    elemActive roots .sqrt 0 1 = true ∧ (elemValue roots .sqrt [1] 0 1 1).2 &&& bits roots.hart.csr.fcsr 5 5 ≠ 0 ∧
    (elemValue roots .sqrt [1] 0 1 0).2 &&& bits roots.hart.csr.fcsr 5 5 = 0 :=
  ⟨rfl, rfl, ⟨by decide, rfl⟩, by decide, rfl, by decide, by decide, by decide⟩
theorem witness_operand_traps : regCount ints.hart.csr < 32 + groupOf ints.hart.csr ∧ ints.hart.restart.epc = none ∧
    (let c := (vecs one 3 0x601 []).hart.csr
     (∀ r ∈ [29, 0, 2], r + groupOf c ≤ regCount c) ∧ 29 % groupOf c ≠ 0) := by decide
theorem witness_capacity_trap : (⟨.add, 31, [1, 2], 0⟩ : ElemWord).result (vecs one 6145 0x600 [(1, 3), (2, 3)]).hart = .inl 3 ∧
    capacity (vecs one 6145 0x600 []).hart.csr 3 < lengthOf (vecs one 6145 0x600 []).hart := ⟨rfl, by decide⟩

/-! ### Witnesses: permutations and reductions -/

theorem witness_iota : dtagOf ints.hart.csr = 3 ∧ regsFail ints.hart.csr [4] = none ∧ lengthOf ints.hart ≤ capacity ints.hart.csr 3 := by
  decide
theorem witness_slide_gather : tagOfReg ints.hart 1 = 3 ∧ tagOfReg ints.hart 2 = 3 ∧ regsFail ints.hart.csr [4, 1, 2] = none ∧
    destFails ints.hart 4 3 [1, 2] = false ∧ destFails ints.hart 4 3 [1] = false ∧ overfull ints.hart 3 = false ∧
    shares ints.hart.csr 4 1 = false ∧ shares ints.hart.csr 4 2 = false ∧ regsFail ints.hart.csr [4, 1] = none := by decide
theorem witness_transfers : freshStart ints.hart ∧ tagOfReg ints.hart 1 ≠ 0 ∧ overfull ints.hart (tagOfReg ints.hart 1) = false ∧
    regsFail ints.hart.csr [1] = none ∧ frozen ints.hart 3 = false :=
  ⟨rfl, by decide, by decide, by decide, by decide⟩
theorem witness_reduction : redRow (.vredminU 4 1 2 0) = some (.min true, 4, 1, 2, 0) ∧ freshStart ints.hart ∧
    redAccepts ints (.min true) 4 1 2 ∧ tagOfReg ints.hart (1 : VReg).val = 3 ∧ lengthOf ints.hart ≠ 0 :=
  ⟨rfl, rfl, ⟨by decide, by decide, by decide, by decide, by decide, by decide, by decide, by decide⟩, by decide, by decide⟩
theorem witness_reduction_flags : (foldGroups (.min true) ints.hart 1 3 0 0 1 [] 0).stop = none ∧ ints.hart.csr.fcsr = 0 := by decide

/-! ### Witnesses: vector memory -/

theorem lands_local {s : State} {a : Access} {va : Word} {n : Nat} {p : Place}
    (h : 0x100000 ≤ va.toNat ∧ va.toNat + n ≤ 0x300000 ∧ p = .spad (va.toNat - 0x100000) ∧
      (a = .write → touchesBusySlot s s.hart (va.toNat - 0x100000) n = false) ∧
      (a = .read → copyCovers s s.hart (sender s.hart) (va.toNat - 0x100000) = false)) : lands s true a va n p := h

/-- Two INT32 elements at the end of the scratchpad. -/
def pads : State := withRegs (vecs one 2 0x600 [(1, 3), (2, 3)]) [(1, 0x2FFFF8), (2, 0x400FFC), (3, 4)]

theorem witness_vector_load : freshStart pads.hart ∧ quiet pads ∧ loadRejects pads.hart 4 none = none ∧
    (∃ addr, vloadRow pads (.vld 4 1 0) = some (4, 0, none, addr) ∧ ∀ e, e < 2 → (addr e).toNat % 4 = 0 ∧
      lands pads true .read (addr e) 4 (.spad (0x1FFFF8 + 4 * e))) :=
  ⟨rfl, ⟨by decide, rfl, rfl⟩, by decide, _, rfl, by
    intro e he
    match e, he with
    | 0, _ => exact ⟨by decide, lands_local (by decide)⟩
    | 1, _ => exact ⟨by decide, lands_local (by decide)⟩⟩
theorem witness_cached : cachedAt (mapped one) 0x400FFC 4 .write 0x10FFC ∧ lands (mapped one) false .write 0x400FFC 4 (.phys 0x10FFC) := by
  have h : cachedAt (mapped one) 0x400FFC 4 .write 0x10FFC :=
    ⟨by decide, page0, by decide, by decide, by decide, by decide, by decide, by decide, by decide⟩
  exact ⟨h, by decide, _, rfl, h⟩
theorem witness_first_fault_start : freshStart (mapped pads).hart ∧ quiet (mapped pads) ∧
    (∀ j, 1 < j → j < lengthOf (mapped pads).hart → active (mapped pads).hart 0 j = false) :=
  ⟨rfl, ⟨by decide, rfl, rfl⟩, fun j h1 h2 => absurd h2 (by
    have : lengthOf (mapped pads).hart = 2 := by decide
    omega)⟩
theorem witness_first_fault : (mapped pads).hart.vec.matrix = false ∧ loadRejects (mapped pads).hart 4 none = none ∧
    active (mapped pads).hart 0 1 = true ∧ active (mapped pads).hart 0 0 = true ∧ (0x401000 : Word).toNat < 2 ^ 48 ∧
    findEntry (mapped pads).hart.tlb (partOf (mapped pads).hart) (0x401000 : Word).toNat = none ∧
    findEntry (((mapped pads).dieTlb.filter (fun x => x.1 == dieOfCore (mapped pads).hart.core)).map (·.2)) 0 0x401000 = none ∧
    walkPage (mapped pads) 0 (partOf (mapped pads).hart) (0x401000 : Word).toNat = .inr (.missing false) := by decide
theorem witness_vector_store : storeRejects pads.hart 1 none = none ∧
    lands pads true .write 0x2FFFF8 4 (.spad 0x1FFFF8) := ⟨by decide, lands_local (by decide)⟩

/-- A load stream of four INT32 elements at the head of port 3. -/
def aStream (store : Bool) : Engine :=
  ⟨5, 0, 9, .stream 3 0x100000 (some ⟨0x100040, (4, 1, 1), (4, 0, 0), store, 4⟩) 2, 0x1000, 0, false, none, none, none⟩

/-- The module with one engine. -/
def withEngineX (s : State) (x : Engine) : State := withHart s (fun h => { h with engines := [x] })

theorem witness_port : portServes (withEngineX pads (aStream false)) 3 false (aStream false)
    ⟨0x100040, (4, 1, 1), (4, 0, 0), false, 4⟩ 2 ∧
    portServes (withEngineX pads (aStream true)) 3 true (aStream true) ⟨0x100040, (4, 1, 1), (4, 0, 0), true, 4⟩ 2 :=
  ⟨⟨rfl, ⟨_, rfl⟩, rfl, by decide, by decide⟩, rfl, ⟨_, rfl⟩, rfl, by decide, by decide⟩
theorem witness_port_elements : regsFail pads.hart.csr [1] = none ∧ tagOfReg pads.hart 1 ≠ 0 ∧ capacity pads.hart.csr 3 ≥ 2 ∧
    lands (withEngineX pads (aStream false)) true .read 0x10004C 4 (.spad 0x4C) ∧
    lands (withEngineX pads (aStream true)) true .write 0x10004C 4 (.spad 0x4C) :=
  ⟨by decide, by decide, by decide, lands_local (by decide), lands_local (by decide)⟩

/-- Element 1 of the index vector v2 is 4, so the two elements lie side by side. -/
def indexed : State := withHart (withRegs pads [(1, 0x100000)]) (fun h => { h with vec := { h.vec with vrf := [(12289, 4)] } })

theorem witness_vector_atomic : vamoRow (.vamomaxU 1 1 2 0) = some (.max true, 1, 1, 2, 0) ∧
    destFails indexed.hart 1 3 [2] = false ∧ overfull indexed.hart 3 = false ∧ shares indexed.hart.csr 1 2 = false ∧
    getElem indexed.hart 2 false 0 = 0 ∧ getElem indexed.hart 2 false 1 = 4 ∧
    lands indexed true .write 0x100004 4 (.spad 4) ∧ lands indexed true .read 0x100004 4 (.spad 4) :=
  ⟨rfl, by decide, by decide, by decide, by decide, by decide, lands_local (by decide), lands_local (by decide)⟩
theorem witness_vector_atomic_home : cachedAt (mapped one) 0x400FF8 4 .write 0x10FF8 ∧ cachedAt (mapped one) 0x400FF8 4 .read 0x10FF8 ∧
    0x10FF8 % 4 = 0 ∧ (∀ j, j < 1 → (active (vecs one 1 0x600 []).hart 0 j = true ↔ j = 0)) :=
  ⟨⟨by decide, page0, by decide, by decide, by decide, by decide, by decide, by decide, by decide⟩,
    ⟨by decide, page0, by decide, by decide, by decide, by decide, by decide, by decide, by decide⟩, by decide, by decide⟩

/-- One FP32 element to load or store, its data at 0x100000 and its scale at 0x100100. -/
def narrowOne : State := withRegs (vecs one 1 0x200 [(1, 1)]) [(1, 0x100000), (2, 0x100100)]

theorem witness_narrow_load : vldnRow (.vldn 1 1 2 0 .e4m3 .f32) = some (1, 1, 2, none, 0, .e4m3, .f32) ∧
    narrowPair .e4m3 .f32 = true ∧ unscaled .e4m3 .f32 = false ∧ regsFail narrowOne.hart.csr [1] = none ∧
    overfull narrowOne.hart 1 = false ∧ (0x100000 : Word).toNat % fmtAlign .e4m3 = 0 ∧
    List.Forall₂ (fun (q : Piece) p => lands narrowOne true .read q.addr q.size p)
      (narrowPieces .e4m3 0x100000 none (some 0x100100) 0) [.spad 0, .spad 0x100] ∧
    (widenNarrow narrowOne.hart.csr .e4m3 1 0 0).2 &&& bits narrowOne.hart.csr.fcsr 5 5 = 0 :=
  ⟨rfl, by decide, by decide, by decide, by decide, by decide,
    .cons (lands_local (by decide)) (.cons (lands_local (by decide)) .nil), by decide⟩
theorem witness_narrow_store : narrowSource .e2m1 1 = true ∧ bits narrowOne.hart.csr.fcsr 5 5 = 0 ∧
    List.Forall₂ (fun (q : Piece) p => lands narrowOne true .write q.addr q.size p)
      (narrowPieces .e2m1 0x100000 none (some 0x100100) 0) [.spad 0, .spad 0x100] :=
  ⟨by decide, by decide, .cons (lands_local (by decide)) (.cons (lands_local (by decide)) .nil)⟩

/-! ### Witnesses: matrix mode -/

/-- Matrix mode with a grant of 2 by 3 and two BF16 elements. -/
def tiles : State :=
  withHart (vecs one 2 0x400 [(1, 2), (2, 2), (3, 2)]) (fun h => { h with
    csr := { h.csr with tshape := tileGrant 2 3 4 1, mvl := 3, status := 0x10 }
    vec := { h.vec with matrix := true } })

theorem witness_tile_grant : gangSize { hart0 with csr := { hart0.csr with tshape := tileGrant 300 800 1 1 } } = 1 ∧ memberOf hart0 < 1 := by
  decide
theorem witness_tile_ready : tileReady tiles 3 := ⟨rfl, rfl, by decide, by decide, by decide, by decide, by decide, by decide, rfl⟩
theorem witness_matrix_mode : one.hart.vec.matrix = false ∧ tilesOf one.hart.csr = 0 ∧ frozen one.hart 3 = false ∧
    tilesOf (withHart one (fun h => { h with csr := { h.csr with tshape := tileGrant 2 3 4 1 } })).hart.csr = 4 ∧
    mayEnter tiles.hart ∧ tiles.hart.csr.status.getLsbD 4 = true :=
  ⟨by decide, by decide, by decide, by decide, ⟨by decide, rfl⟩, by decide⟩
theorem witness_tile_traps : (tileOf (.mzero 1)).isSome = true ∧ one.hart.csr.status.getLsbD 4 = false ∧
    (let c := { tiles.hart.csr with tshape := tileGrant 256 384 1 1 }; tilesOf c ≤ (1 : TileId).val) ∧
    tileOf (.mstt 1 2 3) = some 1 := by decide
theorem witness_outer : tagOfReg tiles.hart 1 = 2 ∧ tagOfReg tiles.hart 2 = 2 ∧ regsFail tiles.hart.csr [1, 2] = none ∧
    overfull tiles.hart 2 = false ∧ bits tiles.hart.csr.fcsr 5 5 = 0 ∧ slideRejects tiles.hart 1 2 2 = none := by decide
theorem witness_products : freshStart narrowOne.hart ∧ narrowOne.bad = [] ∧ bits narrowOne.hart.csr.fcsr 5 5 = 0 ∧
    narrowSource .e2m1 (tagOfReg narrowOne.hart 1) = true ∧ regsFail narrowOne.hart.csr [1] = none ∧ overfull narrowOne.hart 1 = false ∧
    (getReg narrowOne 1).toNat % fmtAlign .e2m1 = 0 ∧ lengthOf narrowOne.hart = 1 :=
  ⟨rfl, rfl, by decide, by decide, by decide, by decide, by decide, by decide⟩
theorem witness_tile_moves : dtagOf tiles.hart.csr = 2 ∧ regsFail tiles.hart.csr [1] = none ∧
    partRows tiles.hart ≤ capacity tiles.hart.csr 2 ∧ partCols tiles.hart ≤ capacity tiles.hart.csr 2 := by decide
theorem witness_tile_memory : partRows tiles.hart * partCols tiles.hart = 6 ∧ (0x100014 : Word).toNat % 4 = 0 ∧
    lands tiles true .read 0x100014 4 (.spad 20) ∧ lands tiles true .write 0x100014 4 (.spad 20) :=
  ⟨by decide, by decide, lands_local (by decide), lands_local (by decide)⟩

/-! ### Witnesses: gang exchanges -/

/-- The gang of two with an INT32 element each in v1. -/
def pairV : State :=
  { pair with
    hart := (vecs pair 1 0x600 [(1, 3)]).hart
    others := pair.others.map (fun h => (vecs { pair with hart := h } 1 0x600 [(1, 3)]).hart) }

theorem witness_exchange : coresApart pairV ∧ freshStart pairV.hart ∧
    (∀ h ∈ gangNow pairV, freshStart h ∧ regsFail h.csr [4, 1] = none ∧ tagOfReg h 1 = 3 ∧
      lengthOf (leaderNow pairV) ≤ capacity h.csr 3 ∧ shares h.csr 4 1 = false) :=
  ⟨by unfold coresApart; decide, rfl, by unfold freshStart; decide⟩
theorem witness_exchange_sums : ∀ h ∈ gangNow pairV, (gangSum (leaderNow pairV).csr 3 ((gangNow pairV).map (fun g => exchangeElem g 1 0))).2 &&&
    bits h.csr.fcsr 5 5 = 0 ∧ ∀ g ∈ gangNow pairV, tagOfReg g 1 = tagOfReg h 1 := by decide

/-! ### Witnesses: engines -/

/-- Partition 0 with every core, core 0 left out of nothing. -/
def allCores (s : State) : State :=
  { s with parts := s.parts.set 0 { s.parts[0] with cores := BitVec.allOnes 128, xmask := BitVec.allOnes 128 } }

theorem witness_copy_accepts : copyAccepts 0x100000 0x100400 1024 ∧ ¬copyAccepts 0x100000 0x100400 0 ∧
    ¬copyAccepts 0x100000 0x1003F8 1024 := by
  refine ⟨?_, ?_, ?_⟩ <;> unfold copyAccepts inScratchpad <;> decide
theorem witness_chain_accepts : chainAccepts (allCores one) 0x2F0000 0x8281 0x10000 ∧ ¬chainAccepts (allCores one) 0x2F0000 0x80 64 := by
  refine ⟨?_, ?_⟩ <;> unfold chainAccepts inScratchpad <;> decide
theorem witness_engine_room : frozen one.hart 9 = false ∧ one.hart.engines.length < 16 ∧ one.hart.loads = [] ∧ drains one.hart ∧
    one.hart.vf = none ∧ one.hart.held = none ∧ one.hart.queue = [] :=
  ⟨by decide, by decide, rfl, by unfold drains; decide, rfl, rfl, rfl⟩
theorem witness_stream_issue : (portStreams (withEngineX one (aStream false)).hart (3 : PortId).val).length = 1 ∧
    portStreams one.hart (2 : PortId).val = [] ∧ (0x100000 : Word).toNat % 64 = 0 ∧
    streamDesc (0x100040 + 4 * 256 ^ 8 + 256 ^ 12 + 256 ^ 16 + 4 * 256 ^ 24 + 4 * 256 ^ 49) =
      some ⟨0x100040, (4, 1, 1), (4, 0, 0), false, 4⟩ := by decide

/-- Two INT32 elements whose index vector v2 names aligned and misaligned addresses by its base. -/
def gathers (base : Word) : State := withRegs (vecs one 2 0x600 [(2, 3)]) [(1, base)]

theorem witness_gather_issue : loadRejects (gathers 0x400000).hart 4 (some 2) = none ∧
    (indexAddr (gathers 0x400000) 1 2 1).toNat % 4 = 0 ∧ 0x400000 ≤ (indexAddr (gathers 0x400000) 1 2 1).toNat ∧
    (indexAddr (gathers 0x400002) 1 2 1).toNat % 4 ≠ 0 := by decide

/-- An engine numbered 5 of a kind. -/
def engine (k : EngineKind) : Engine := ⟨5, 0, 9, k, 0x1000, 0, false, none, none, none⟩

/-- A copy of 1 KiB and 8 bytes within the scratchpad. -/
def aCopy (chunks : List Nat) : Engine := engine (.copy 0x100000 0x108000 1032 1 chunks [])

theorem witness_acts : acts (withEngineX one (aCopy [0])) (aCopy [0]) := ⟨by decide, rfl, rfl⟩
theorem witness_nothing_early : (withEngineX one (aCopy [0])).early = [] ∧ (withEngineX pads (aStream false)).early = [] := ⟨rfl, rfl⟩
/-- R112: a word of a copy may be final before its chunk; a stream may hold an element as it was (R233). -/
theorem test_copy_word_ahead : (copyWordAhead (withHart (withEngineX one (aCopy [])) (fun h => { h with spad := [(0x8000, 7)] })) 5 0).hart.spad =
    [(0, 7), (0x8000, 7)] := by decide +kernel
theorem test_read_ahead : (readAhead (withHart (withEngineX one (aStream false)) (fun h => { h with spad := [(0x48, 7)] })) 5 2).early =
    [⟨5, 2, 7, false⟩] := by decide +kernel
theorem witness_copy_chunk : copyAccepts 0x100000 0x108000 1032 ∧ inScratchpad 0x100000 1032 ∧ inScratchpad 0x108000 1032 ∧
    (∀ k ∈ [0], k < 1) ∧ (1 : Nat) < (1032 + 1023) / 1024 ∧ (localCopies (withEngineX one (aCopy [0])).hart).length ≤ 4 ∧
    one.hart.csr.slbase.toNat % 16 = 0 ∧ touchesBusySlot one one.hart (8 * 128) 8 = false := by
  refine ⟨?_, ?_, ?_, ?_⟩ <;> (try unfold copyAccepts) <;> (try unfold inScratchpad) <;> decide
theorem noBusySlot {s : State} (hp : s.hart.spad = []) (ht : s.stands = []) (o n : Nat) : touchesBusySlot s s.hart o n = false := by
  simp [touchesBusySlot, slotBusy, slotState, standOutstanding, hp, ht, sget]
theorem witness_copy_event : (∀ o, touchesBusySlot (withEngineX one (aCopy [0])) (withEngineX one (aCopy [0])).hart o 8 = false) ∧
    (aCopy [0]).batch = none ∧ (aCopy [0]).fault = none ∧ 1024 * 1 < 1032 ∧ 1032 ≤ 1024 * 2 := ⟨fun o => noBusySlot rfl rfl o 8, rfl, rfl, by decide, by decide⟩
theorem witness_copy_done : (aCopy [0, 1]).fault = none ∧ ([0, 1] : List Nat).length = (1032 + 1023) / 1024 ∧
    ({ aCopy [0] with fault := some (0x0B, 1, 0x100400, false) } : Engine).fault = some (0x0B, 1, 0x100400, false) ∧ 1 ∉ ([0] : List Nat) := by decide

/-- The done word of batch 0 of partition 0. -/
def batchAnswered (v : Nat) : State := { one with mem := ssetBytes [] 0x4010 8 v }

theorem witness_batch : batchDone (batchAnswered 1) (partOf one.hart) 0 = 1 ∧ batchDone (batchAnswered 2) (partOf one.hart) 0 = 2 ∧
    ({ aCopy [0] with batch := some (0, 0x400000, false) } : Engine).batch = some (0, 0x400000, false) := by decide +kernel
theorem witness_stream_end : portStreams (withEngineX one (engine (.stream 3 0 (some ⟨0, (2, 1, 1), (4, 0, 0), true, 4⟩) 2))).hart 3 =
    [engine (.stream 3 0 (some ⟨0, (2, 1, 1), (4, 0, 0), true, 4⟩) 2)] ∧ (⟨0, (2, 1, 1), (4, 0, 0), true, 4⟩ : StreamDesc).total = 2 := by decide
theorem witness_bgld : (∀ e, e < 2 → ((fun k : Nat => if k = 0 then (0x2FFFFC : Word) else 0x300000) e).toNat < 0x400000) ∧
    acts (withEngineX one (engine (.bgld [4] 4 2 0 [(0, 0x2FFFFC), (1, 0x300000)])))
      (engine (.bgld [4] 4 2 0 [(0, 0x2FFFFC), (1, 0x300000)])) := ⟨by decide, by decide, rfl, rfl⟩
theorem witness_gxl : (([(0, 0), (1, 0x200000)] : List (Nat × Nat)).map (·.1)).Nodup ∧ stackOf one 0 = 0 ∧ stackOf one 0x200000 = 1 ∧
    acts (withEngineX one (engine (.gxl [4] 4 2 0 [] (some [])))) (engine (.gxl [4] 4 2 0 [] (some []))) :=
  ⟨by decide, by decide, by decide, by decide, rfl, rfl⟩
theorem witness_gather_unit : (one.hbm[(0 : StackId)]).gathers.length < 8 ∧ refusal (mapped one) (partOf one.hart) 0x10000 = none ∧
    stackOf (mapped one) 0x10000 = (0 : StackId).val ∧ 0x10000 < 2 ^ 52 := by decide

/-- A near-bank descriptor: operation 1 on FP32, 2 rows of 256 elements in place, at granule 0 of the page at 0x400000. -/
def nearDesc : Nat := 0x400000 + 256 ^ 8 + 256 ^ 9 + 2 * 256 ^ 16 + 256 * 256 ^ 20

/-- The module with a compute-capable page cached for it, and that descriptor in the scratchpad. -/
def nearState : State :=
  let s := withEngineX { one with blocks := one.blocks.set 0 (.owned 0) } (engine (.nbx 0x100000 5 false))
  withHart s (fun h => { h with spad := ssetBytes [] 0 32 nearDesc, tlb := [⟨0, 1, 0x400000, 2 ^ 21, 2 ^ 21, 2 ^ 21, 0x77, true, [], (2 ^ 21, 2 ^ 21)⟩] })

theorem witness_near : acts nearState (engine (.nbx 0x100000 5 false)) ∧ sgetBytes nearState.hart.spad 0 32 = nearDesc ∧
    nearAccepts nearDesc ∧ fieldAt nearDesc 0 8 = 0x400000 ∧ stackOf nearState (2 ^ 21) < 8 :=
  ⟨⟨by decide, rfl, rfl⟩, by decide, by unfold nearAccepts; decide, by decide, by decide⟩
theorem witness_near_page : computePageAt nearState (engine (.nbx 0x100000 5 false)) 0x400000 (2 ^ 21) :=
  ⟨⟨0, 1, 0x400000, 2 ^ 21, 2 ^ 21, 2 ^ 21, 0x77, true, [], (2 ^ 21, 2 ^ 21)⟩, by decide, rfl, by decide, by decide,
    by intro a _; cases a <;> decide, by decide, by decide, by decide⟩

/-- A near-bank command for engine 5 that has done `n` of its two rows. -/
def command (n : Nat) : NearCommand :=
  ⟨0, 5, 0x400000, 2 ^ 21, 1, 1, 0, false, 0, 0, 2, 256, 5, n, 0, none, []⟩

/-- Stack 1 with that command in stope engine 0 since cycle 0, suspended since a cycle or not, and one waiting; block 0 the
partition's. -/
def stoped (n : Nat) (since : Option Nat) : State :=
  { one with
    clock := 1, blocks := one.blocks.set 0 (.owned 0)
    hbm := one.hbm.set 1 { Stack.start with stopes := [⟨0, .near (command n), 0, 0, since, [], [], []⟩], queue := [command 0] } }

theorem witness_near_queue : (stackAt one 1).queue = [] ∧ (stackAt (stoped 0 none) 1).queue = [command 0] ∧
    (∀ e ∈ (stackAt (stoped 0 none) 1).stopes, e.num ≠ 1) ∧ (∀ j, j < 1 → ∃ e ∈ (stackAt (stoped 0 none) 1).stopes, e.num = j) := by
  decide
theorem witness_stope : (stackAt (stoped 1 none) 1).stopes.filter (fun y => y.num == (0 : Fin 64).val) =
      [⟨0, .near (command 1), 0, 0, none, [], [], []⟩] ∧ (0 : Nat) < (stoped 1 none).clock ∧
    (command 1).done < (command 1).rows ∧ (command 2).rows ≤ (command 2).done ∧ stepReady (stoped 1 none) 1 (2 ^ 21 + 1024) = true ∧
    nearRefused (stoped 1 none) 0 (2 ^ 21 + 1024) (256 * 4) = none ∧
    (stackAt (stoped 1 (some 0)) 1).stopes = [⟨0, .near (command 1), 0, 0, some 0, [], [], []⟩] ∧ (stackAt (stoped 1 (some 0)) 1).requests = [] := by
  decide +kernel

/-- A chain of 64 bytes to core 1, in a module whose core 1 runs a hart of the same launch. -/
def chained (p : Nat) (b : Option (Sparse 8)) : State :=
  withEngineX { one with others := [{ Hart.start 1 with owner := some ⟨0, 1, 1, 0, 1, 1, 0, 0⟩ }] }
    (engine (.chain 0 64 (some 16) [1] b p p 0))

theorem witness_chain : acts (chained 0 none) (engine (.chain 0 64 (some 16) [1] none 0 0 0)) ∧
    (1, 5, 1) ∉ (chained 0 none).chainCtx ∧ (∀ d ∈ [1], d < 1 → (d, 5, 1) ∈ (chained 0 none).chainCtx) ∧
    (∀ y ∈ (chained 0 none).chainCtx, y.1 = 1 → y.2.1 ≠ 5 ∧ y.2.2 = 1) ∧ (localCopies (chained 0 none).hart).length ≤ 4 :=
  ⟨⟨by decide, rfl, rfl⟩, by decide, by decide, by decide, by decide⟩
theorem witness_chain_ready : (∀ c ∈ [1], (c, 5, 1) ∈ ({ chained 0 none with chainCtx := [(1, 5, 1)] } : State).chainCtx) := by decide
theorem witness_chain_hop : ([1] : List Nat)[0]? = some 1 ∧ 1 ≠ (chained 0 none).hart.core ∧ (∀ q ∈ ([(63, 7)] : Sparse 8), q.1 < 64) ∧
    Sparse.wf ([(63, 7)] : Sparse 8) = true ∧ hopStores (chained 0 (some [(63, 7)])) ⟨none, (chained 0 none).hart, engine (.chain 0 64 (some 16) [1] none 0 0 0)⟩ 1 0 64 (some 16) = true := by
  decide

/-! ### Witnesses: virtual processors and marked loops -/

/-- The tables that `placeWord` lays down, the hart about to fetch word `w` at 0x400000. -/
def placed (w : Nat) : State := placeWord one w

theorem witness_vf : one.hart.vf = none ∧ mayEnter one.hart ∧ one.hart.vpNow = none ∧
    (takeBlocks (placed 0xAC000000) 0x400000 1 [0] ⟨placed 0xAC000000, [], [], [], none⟩).fail.isNone = true :=
  ⟨rfl, ⟨by decide, rfl⟩, rfl, by decide +kernel⟩

/-- A VF of which elements 0 and 63 still run. -/
def aVf : VfRun := ⟨0, 0, 0x1000, 0x2000, 1, [], startRegs 0, 0, 64, [⟨0, 0x2000, some 0, 0⟩, ⟨63, 0x2004, some 1, 1⟩], [], []⟩

theorem witness_vp : (withHart one (fun h => { h with vf := some aVf, vpNow := some 63 })).hart.vf = some aVf ∧
    aVf.vps.filter (fun y => y.elem == 63) = [⟨63, 0x2004, some 1, 1⟩] := by decide

/-- The hart with a marked loop at a phase. -/
def looping (phase : LoopPhase) : State := withHart one (fun h => { h with loop := some (aLoop phase) })

theorem witness_lmark : one.hart.loop = none ∧ one.hart.csr.recn.toNat < (4 : Word).toNat ∧ (0xFFFFFF : Word).toNat < 2 ^ 24 ∧
    (3 : Word).toNat ≤ one.hart.csr.recn.toNat ∧ 2 ^ 24 ≤ (0x1000000 : Word).toNat := by decide
theorem witness_lnext : (looping .recording).hart.loop = some (aLoop .recording) ∧ 0 < (aLoop .recording).iter ∧
    (setPc (looping .recording) 0x1020).hart.pc + 4 * (-7 : BitVec 13).signExtend 64 = (aLoop .recording).top := by decide
theorem witness_ljoin : (looping .declined).hart.loop = some (aLoop .declined) ∧ (aLoop .declined).phase = .declined ∧
    (aLoop .recording).rd ≠ 0 ∧ (aLoop (.finished 0)).phase = .finished 0 := by decide
theorem witness_verdict : (aLoop .verdict).phase = .verdict ∧ (looping .verdict).hart.vf = none ∧ (looping .verdict).hart.core < 128 ∧
    verdictCode (looping .verdict) (looping .verdict).hart (aLoop .verdict) = none ∧
    verdictCode (looping .verdict) (looping .verdict).hart { aLoop .verdict with late := true } = some 7 := by decide
theorem witness_replay : (aLoop .replaying).next < (aLoop .replaying).n ∧ (aLoop (.over 5)).phase = .over 5 ∧
    ({ aLoop .replaying with next := 10 } : Loop).n ≤ ({ aLoop .replaying with next := 10 } : Loop).next := by decide

/-- A replay whose stope engine, of stack 0, may step. -/
def replayingOn : State :=
  { looping .replaying with clock := 1, hbm := one.hbm.set 0 { Stack.start with stopes := [⟨0, .replay 0 0 0, 0, 0, none, [], [], []⟩] } }

theorem witness_replay_stope : stopeAt replayingOn ((aLoop .replaying).stack.getD 0) (aLoop .replaying).stope =
      some ⟨0, .replay 0 0 0, 0, 0, none, [], [], []⟩ ∧ (0 : Nat) < replayingOn.clock ∧
    (∀ q ∈ replayReads (aLoop .replaying) ⟨0, .replay 0 0 0, 0, 0, none, [], [], []⟩, stepReady replayingOn 0 (1024 * q) = true) ∧
    replayingOn.hart.core < 128 ∧ replayingOn.hart.loop = some (aLoop .replaying) := by decide
theorem witness_verdict_quiet : unstarted (looping .verdict).hart = [] ∧ (looping .verdict).hart.held = none ∧
    (looping .verdict).hart.loads = [] ∧ drains (looping .verdict).hart := ⟨rfl, rfl, rfl, by unfold drains; decide⟩

/-! ### Witnesses: standing loads -/

/-- A slot's state byte, and its flags, set. -/
def slotted (n st flags : Nat) : State := withHart (withRegs one [(1, word n), (2, 0x400008)]) (fun h => writeSlot h n 7 5 0 st flags)

theorem witness_slot : slotFree (slotted 1023 0 0) 1 ∧ slotState (slotted 1023 3 0).hart 1023 = 3 ∧ slotState (slotted 0 1 1).hart 0 = 1 ∧
    slotFlags (slotted 0 1 1).hart 0 % 2 = 1 ∧ (slotted 0 2 0).hart.waitDue = none ∧ slotState (slotted 0 2 0).hart 0 = 2 ∧
    slotFlags (slotted 0 2 0).hart 0 % 2 = 0 ∧ getReg (slotted 0 2 0) 5 = 0 ∧ getReg (slotted 0 2 0) 2 ≠ 0 ∧ slotState (slotted 0 4 0).hart 0 = 4 :=
  ⟨⟨by decide, by decide⟩, by decide, by decide, by decide, rfl, by decide, by decide, by decide, by decide, by decide⟩
theorem witness_stand : (getReg (mapped (slotted 0 0 0)) 2).toNat % 8 = 0 ∧ 0x400000 ≤ (getReg (mapped (slotted 0 0 0)) 2).toNat ∧
    (drainBuffer (mapped (slotted 0 0 0)) 0).bad = [] ∧ frozen (mapped (slotted 0 0 0)).hart 3 = false := by decide
theorem witness_stand_cached : cachedAt (drainBuffer (mapped (slotted 0 0 0)) 0) 0x400008 8 .read 0x10008 :=
  ⟨by decide, page0, by decide, by decide, by decide, by decide, by decide, by decide, by decide⟩
theorem witness_stand_quiet : drains (mapped (slotted 0 0 0)).hart ∧ slotsStored (mapped (slotted 0 0 0)) = mapped (slotted 0 0 0) ∧
    (mapped (vecs one 1 0x600 [(2, 3)])).hart.released = false ∧ quiet (acquireNow (mapped (vecs one 1 0x600 [(2, 3)]))) :=
  ⟨by unfold drains; decide, rfl, rfl, by decide, rfl, rfl⟩
theorem witness_vstand : standRejects (mapped (vecs one 1 0x600 [(2, 3)])).hart 4 (some 2) = none ∧
    standRejects (mapped (vecs one 1 0x600 [(2, 3)])).hart 4 none = none ∧ slotState one.hart 1023 = 0 ∧ 1023 + 1 ≤ 1024 ∧
    standOutstanding one 0 1023 = false ∧ freshStart one.hart ∧ one.hart.buffer = [] :=
  ⟨by decide, by decide, by decide, by decide, by decide, rfl, rfl⟩

/-- An answer for slot 1023 of core 0, accepted or refused. -/
def anAnswer (refused : Nat) : StandAnswer := ⟨0, 1023, 0, 1, 0x10008, some 9, 7, 5, refused, 0, none⟩

theorem witness_stand_answer : ({ one with stands := [anAnswer 0] } : State).stands[0]? = some (anAnswer 0) ∧ (anAnswer 0).core = one.hart.core ∧
    (anAnswer 2).slot < 1024 ∧ (anAnswer 2).refusal < 2 ^ 16 ∧ (anAnswer 2).kept = none ∧ (anAnswer 0).rd = some 9 := by decide

/-- A push for slot 0 of core 0. -/
def aPush (q : BitVec 32) : Push := ⟨7, 2, 0x10008, .slot 0 0 0 1 0, 9, q, .mesh, 0⟩

theorem witness_push : ({ slotted 0 1 0 with pushes := [aPush 6] } : State).pushes[0]? = some (aPush 6) ∧
    (aPush 6).who = slotOwner (slotted 0 1 0).hart 0 ∧ (slotted 0 1 0).hart.owner.isSome = true ∧
    standOutstanding (slotted 0 1 0) 0 0 = false ∧ parkedAt (slotted 0 1 0) 0x10008 (aPush 6).who = false ∧ (aPush 6).transit = .mesh ∧
    recovering (slotted 0 1 0) (aPush 6).endpoint = 0 ∧
    slotState (slotted 0 1 0).hart 0 = 1 ∧
    1 ≤ ((aPush 6).seq - slotSeq (slotted 0 1 0).hart 0).toNat ∧ ((aPush 6).seq - slotSeq (slotted 0 1 0).hart 0).toNat ≤ 2 ^ 31 ∧
    ¬(1 ≤ ((aPush 5).seq - slotSeq (slotted 0 1 0).hart 0).toNat ∧ ((aPush 5).seq - slotSeq (slotted 0 1 0).hart 0).toNat ≤ 2 ^ 31) := by
  decide

/-- A directory whose one subscription is parked. -/
def parkedDir : State :=
  { slotted 0 4 0 with directory := [⟨0x10008, 6, [⟨.slot 0 0 0 1 0, 3, true, none, none⟩]⟩], pushes := [aPush 6], bounces := [aPush 6] }

theorem witness_parked_push : parkedAt parkedDir (aPush 6).pa (aPush 6).who = true ∧ parkedDir.bounces[0]? = some (aPush 6) ∧
    parkedDir.directory.find? (fun y => y.pa == (aPush 6).pa) = some ⟨0x10008, 6, [⟨.slot 0 0 0 1 0, 3, true, none, none⟩]⟩ := by decide
theorem witness_unstand : ({ slotted 0 2 0 with unstands := [⟨0, 0, 0, 1, 0x10008, 9, 0, false⟩] } : State).unstands[0]? = some ⟨0, 0, 0, 1, 0x10008, 9, 0, false⟩ ∧
    received (slotted 0 2 0).hart 0 = 0 ∧ (∀ x ∈ ([⟨0, 0, 0, 1, 0x10008, 9, 0, false⟩] : List Unstand), x ≠ ⟨0, 0, 0, 1, 0x10008, 9, 0, false⟩ →
      x.core ≠ 0 ∨ x.slot ≠ 0) := by decide
theorem witness_waitsl_timeout : (withHart (slotted 0 1 0) (fun h => { h with run := .waitSlot 3 0 0 0 })).hart.run = .waitSlot 3 0 0 0 ∧
    slotState (slotted 0 1 0).hart 0 = 1 ∧ slotFlags (slotted 0 1 0).hart 0 % 2 = 0 := by decide

/-! ### Witnesses: launches and the arbiter -/

/-- A launch of partition 0 with an identifier, its gangs dispatched so far, and its completion word at 0x10100. -/
def aLaunch (id dispatched gone : Nat) : Launch :=
  ⟨0, id, 0x400000, 7, 1, 1, 2, some 0x10100, [⟨0x10108, false, true, 0⟩], dispatched, gone, 0, 0, 1, 0, 0, false, false⟩

theorem witness_launch : coresApart one ∧ one.hart ∈ gangNow one ∧ (∀ h ∈ gangNow one, frozen h 3 = false) ∧
    2 ^ 24 ≤ (regOf (withRegs one [(1, 0x1000000)]).hart 1).toNat ∧ (regOf (withRegs one [(1, 5)]).hart 1).toNat < 2 ^ 24 :=
  ⟨by unfold coresApart; decide, by decide, by decide, by decide, by decide⟩
theorem witness_cancel : launchAt ({ one with launches := [aLaunch 5 0 0] } : State) 0 5 = some (aLaunch 5 0 0) ∧ (aLaunch 5 0 0).failed = false ∧
    0 < (aLaunch 5 1 0).dispatched ∧ (∀ x ∈ ({ one with launches := [{ aLaunch 5 0 0 with part := 1 }] } : State).launches, x.part = 0 → x.id ≠ 5) ∧
    (0x10100 : Nat) % 8 = 0 := by decide
theorem witness_end : gangSize one.hart = 1 ∧ one.hart.loop = none ∧ one.hart.vf = none ∧ one.hart.held = none ∧
    one.hart.queue = [] ∧ one.hart.loads = [] ∧ one.hart.engines = [] ∧ one.hart.launchReqs = [] := by
  decide

/-- The bytes of a record: entry 0x400000, argument 7, one gang of one hart, completion word at 0x400100; or with a misaligned entry. -/
def recordBytes (entry : Nat) : List Byte :=
  natBytes 8 entry ++ natBytes 8 7 ++ [1, 1] ++ natBytes 2 1 ++ natBytes 4 0 ++ natBytes 8 0x400100 ++ natBytes 32 0

/-- A request whose record has been read, in a partition with every core and room. -/
def asking (entry : Nat) : State :=
  let s := allCores (mapped one)
  { withHart s (fun h => { h with launchReqs := [⟨9, 0x400000, false, none, none⟩] }) with
    hart := { s.hart with launchReqs := [⟨9, 0x400200, false, some (recordBytes entry), none⟩] }
    parts := s.parts.set 0 { s.parts[0] with pcpAddr := 0x8000 }, mem := ssetBytes [] 0x8008 8 16 }

theorem witness_launch_answer : recordRejects (recordOf (recordBytes 0x400002)) (popCount (BitVec.allOnes 128).toNat 128) = 1 ∧
    recordRejects (recordOf (recordBytes 0x400000)) (popCount (BitVec.allOnes 128).toNat 128) = 0 ∧
    (asking 0x400000).parts[partOf (asking 0x400000).hart]? = some (asking 0x400000).parts[0] ∧
    (asking 0x400000).launches.countP (fun l => l.completion.isSome && l.part == 0) < (pcpWord (asking 0x400000) 0 8).toNat ∧
    (asking 0x400000).bad = [] := by
  decide +kernel
theorem witness_launch_words : launchWords (asking 0x400000) (asking 0x400000).hart false (recordOf (recordBytes 0x400000)) =
    ([(.ok 0x10100, [], 0x400100)], asking 0x400000) := rfl
theorem witness_end_launch : onlyLaunch { one with launches := [aLaunch 5 1 0] } (aLaunch 5 1 0) ∧ (aLaunch 5 1 0).live = true ∧
    onlyLaunch { one with launches := [aLaunch 5 2 2] } (aLaunch 5 2 2) ∧ (aLaunch 5 2 2).size * (aLaunch 5 2 2).gangs ≤ (aLaunch 5 2 2).gone ∧
    (∀ h ∈ one.harts, runsFor h 0 5 = false) ∧ (∀ b ∈ one.parts, 0x10100 + 8 ≤ b.pcpAddr.toNat ∨ b.pcpAddr.toNat + 8 ≤ 0x10100) :=
  ⟨rfl, by decide, rfl, by decide, by decide, by decide⟩

/-- Cores 0 and 1 with nothing on them, and a launch that is ready. -/
def ready2 : State :=
  { allCores one with hart := Hart.start 0, others := [Hart.start 1], launches := [{ aLaunch 5 0 0 with deps := [] }] }

theorem witness_dispatch : candidates ready2 0 = [⟨false, 5, 0, 1, 1, 0, 0⟩] ∧ launchAt ready2 0 5 = some { aLaunch 5 0 0 with deps := [] } ∧
    (∃ h ∈ ready2.harts, h.core = 0) ∧ (∀ j, j ≤ 0 → (mayDispatch ready2 0 j && idleCore ready2 j) = decide (j = 0)) := by decide
theorem witness_aging : (candidates ready2 0)[0]? = some ⟨false, 5, 0, 1, 1, 0, 0⟩ ∧
    ¬(0 + (ready2.parts[0]).age.toNat ≤ ready2.clock ∧ 1 < 3) := by decide
theorem witness_dependence : onlyLaunch { one with launches := [aLaunch 5 0 0] } (aLaunch 5 0 0) ∧
    (aLaunch 5 0 0).deps[(0 : Fin 2).val]? = some ⟨0x10108, false, true, 0⟩ ∧
    ({ one with pushes := [⟨7, 2, 0x10108, .dependence 0 5 0, BitVec.ofNat 64 (2 ^ 63), 1, .mesh, 0⟩] } : State).pushes.filter
      (fun z => z.who == .dependence 0 5 0) = [⟨7, 2, 0x10108, .dependence 0 5 0, BitVec.ofNat 64 (2 ^ 63), 1, .mesh, 0⟩] ∧
    (BitVec.ofNat 64 (2 ^ 63)).getLsbD 63 = true ∧ 0 + 4096 ≤ ({ one with clock := 4096 } : State).clock := ⟨rfl, by decide, by decide, by decide, by decide⟩

/-- A hart of class 0 with husk room and a launch of class 1 that would take its core. -/
def offering : State :=
  { allCores one with
    parts := one.parts.set 0 { one.parts[0] with cores := 1, xmask := 1, pcpAddr := 0x8000 }
    mem := ssetBytes [] 0x8020 8 1, launches := [{ aLaunch 5 0 0 with deps := [] }] }

theorem witness_yield : gangSize one.hart = 1 ∧ yieldTaken one one.hart = false ∧ offering.hart.owner.isSome = true ∧
    yieldTaken offering offering.hart = true ∧ offering.hart.loop = none ∧ offering.hart.run = .running ∧
    unstarted offering.hart = [] := by decide

/-! ### Witnesses: pre-emption -/

/-- The hart being stopped. -/
def stopping (run : RunState) (r : StopReason) : State :=
  { offering with hart := { offering.hart with stopping := some r, run := run } }

theorem witness_stop : (stopping .running .hold).hart.run = .running ∧ (stopping .running .hold).hart.stopping = some .hold ∧
    (stopping .running .hold).hart.owner = some ⟨0, 1, 0, 0, 1, 0, 0, 0⟩ ∧ gangSize (stopping .running .hold).hart = 1 ∧
    (stopping .running .hold).hart.loop = none ∧ (stopping .running .hold).hart.core < 128 := by decide
theorem witness_husk_save : (stopping (.stopped none) .preempt).hart.run = .stopped none ∧ (stopping (.stopped none) .preempt).hart.launchReqs = [] ∧
    0 < (pcpWord (stopping (.stopped none) .preempt) 0 0x20).toNat ∧ huskIn (stopping (.stopped none) .preempt) 0 0 = none ∧
    (stopping (.stopped none) .preempt).hart.stopping ≠ some .park := by decide

/-- A husk in slot 0. -/
def aHusk : Husk := ⟨0, 0, hart0, some 100, true, false, true, false, false, 0, 0, 0⟩

theorem witness_husk : loneHusk { one with husks := [aHusk] } 0 0 aHusk ∧ aHusk.resumed = false ∧ aHusk.woken = true ∧ aHusk.parked.isSome = true ∧
    aHusk.held = false ∧ aHusk.runnable = false ∧ aHusk.dump = true ∧
    loneHusk { one with husks := [{ aHusk with held := true }] } 0 0 { aHusk with held := true } :=
  ⟨⟨rfl, rfl⟩, rfl, rfl, rfl, rfl, rfl, rfl, rfl, rfl⟩
theorem witness_dump : offering.hart.stopping = none ∧ 1 ≤ freeSlots offering 0 ∧ offering.hart.owner = some ⟨0, 1, 0, 0, 1, 0, 0, 0⟩ := by decide

/-! ### Witnesses: network, stacks -/

/-- A packet that a lane of core 0 has sent. -/
def aPacket (x : Transit) : Packet := ⟨4, 0, 0, 0, 0, .request, 2, .phys 0x10008, none, 4, 9, 0xFFFFFFFF, [], x, 0⟩

theorem witness_packet : packetAt { one with packets := [aPacket .mesh] } 0 (aPacket .mesh) ∧
    packetAt { one with packets := [aPacket .recovery] } 0 (aPacket .recovery) :=
  ⟨⟨rfl, rfl⟩, rfl, rfl⟩
theorem witness_suspect : (4, 0) ∈ inMesh ({ one with packets := [aPacket .mesh], clock := 0x400 } : State) ∧
    0 + one.netctl.toNat % 2 ^ 16 ≤ 0x400 ∧ one.suspects = [] ∧
    ∀ z ∈ inMesh ({ one with packets := [aPacket .mesh], clock := 0x400 } : State), 4 ≤ z.1 := by decide
theorem witness_advance : ({ one with packets := [aPacket .mesh], agenda := [.advance 4] } : State).agenda = [.advance 4] ∧ one.thermal = false := by
  decide
theorem witness_window : (∀ q ∈ [aPacket .mesh], q.precedes (aPacket .mesh) = false) ∧
    ({ aPacket .mesh with id := 3 } : Packet).precedes (aPacket .mesh) = true ∧ recovering one (sliceOf (aPacket .mesh).place) = 0 := by decide
theorem witness_lamp : one.lampHolder = none ∧
    ({ one with suspects := [(lampRouter 1, 4)] } : State).suspects.find? (fun y => y.1 == lampRouter ((one.lamp + 1) % 256)) = some (lampRouter 1, 4) ∧
    0 + 131072 ≤ ({ one with clock := 131072 } : State).clock := by decide

/-- The lamp held for that packet. -/
def lampHeld : State := { one with packets := [aPacket .adit], lampHolder := some ⟨1, 4, false⟩ }

theorem witness_recovery : lampHeld.lampHolder = some ⟨1, 4, false⟩ ∧ packetAt lampHeld 0 (aPacket .adit) ∧
    recovering lampHeld (sliceOf (aPacket .adit).place) < 4 ∧
    4 ≤ recovering ({ lampHeld with packets := aPacket .adit :: (List.range 4).map (fun i => { aPacket .recovery with id := 10 + i }) } : State)
      (sliceOf (aPacket .adit).place) :=
  ⟨rfl, ⟨rfl, rfl⟩, by decide, by decide⟩
theorem witness_netctl : (0x3FFFF : Word).toNat < 2 ^ 18 ∧ 64 ≤ (0x40 : Word).toNat % 2 ^ 16 ∧ ¬(64 ≤ (0x3F : Word).toNat % 2 ^ 16) := by decide

/-- A request for a row of bank 15 of pseudo-channel 63, of class 2, that came at cycle 0. -/
def aRequest : Request := ⟨63, 15, 9, 7, false, false, 2, 0⟩

/-- Stack 0 with that request, at cycle 1, and that row open with one segment, or none. -/
def rowState (o : List OpenRow) : State :=
  { one with clock := 1, hbm := one.hbm.set 0 { Stack.start with requests := [aRequest], opened := o } }

theorem ready_row (o : List OpenRow) (b : Nat) : ready (rowState o) 0 63 b := ⟨by simp [rowState, Stack.start], by simp [rowState, Stack.start]⟩
theorem witness_granted (o : List OpenRow) : granted (rowState o) 0 63 aRequest := by
  refine ⟨.inr ⟨fun q h => ?_, fun q ⟨x, hx, _, _, hq⟩ => ?_⟩, [], [], ?_, rfl, ready_row o _, by simp⟩
  · have := h.2.2
    simp [rowState, Stack.start, passedOf] at this
  · have : x = aRequest := by simpa [rowState, Stack.start] using hx
    subst this
    exact hq.ge
  · simp [rowState, Stack.start]
theorem witness_rows : (rowState [⟨63, 15, 9, 1⟩]).hbm[(0 : StackId)].opened.find? (fun x => x.chan == 63 && x.bank == 15) = some ⟨63, 15, 9, 1⟩ ∧
    (∀ o, (rowState []).hbm[(0 : StackId)].opened.find? (fun x => x.chan == 63 && x.bank == 15) = some o → o.row ≠ aRequest.row) ∧
    (∀ r ∈ (rowState []).hbm[(0 : StackId)].requests, r.refreshed = false) := by
  refine ⟨by decide, fun o h => ?_, by decide⟩
  simp [rowState, Stack.start] at h
/-- Class 0 has waited through 63 grants: it comes before class 2. -/
theorem witness_starves : starves { one with hbm := one.hbm.set 0 { Stack.start with
    requests := [aRequest, { aRequest with qos := 0 }], passed := [(63, 0, 63)] } } 0 63 0 := by
  refine ⟨by decide, ⟨{ aRequest with qos := 0 }, ?_, rfl, ⟨?_, ?_⟩, rfl⟩, ?_⟩ <;> simp [Stack.start, passedOf]
theorem witness_sleep : 0 < (one.hbm[(0 : StackId)]).mcstk.toNat / 256 % 2 ^ 24 ∧ (one.hbm[(0 : StackId)]).stopes = [] ∧
    (one.hbm[(0 : StackId)]).due = [] ∧ (one.hbm[(0 : StackId)]).requests = [] ∧ (one.hbm[(0 : StackId)]).asleep = [] ∧
    idleSince one.hbm[(0 : StackId)] 63 + 16 * ((one.hbm[(0 : StackId)]).mcstk.toNat / 256 % 2 ^ 24) ≤ ({ one with clock := 65536 } : State).clock ∧
    (63, 0) ∈ ({ (rowState []).hbm[(0 : StackId)] with asleep := [(63, 0)] } : Stack).asleep := by decide
theorem witness_request : one.thermal = false ∧ (∀ o ∈ (one.hbm[(0 : StackId)]).opened, o.chan ≠ aRequest.chan) ∧
    ({ one with agenda := [.request 0 .host aRequest] } : State).agenda = [.request 0 .host aRequest] ∧
    one.hart.owner.isSome = true := by decide
theorem witness_scrub : (0x10008 : PAddr).toNat < localBytes one ∧ stackOf one (0x10008 : PAddr).toNat = (0 : StackId).val ∧
    (one.hbm[(0 : StackId)]).mcstk.getLsbD 1 = true ∧ ready one 0 (channelOf 0x10008) (bankOf 0x10008) :=
  ⟨by decide, by decide, by decide, by unfold ready; decide⟩
theorem witness_mcstk : (0xFFFFFF07 : Word).toNat < 2 ^ 32 ∧ (0xFFFFFF07 : Word).toNat / 8 % 32 = 0 ∧ (8 : Word).toNat / 8 % 32 ≠ 0 ∧
    2 ^ 32 ≤ (0x100000000 : Word).toNat := by decide

/-! ### Witnesses: leases, blocks, the host -/

theorem witness_system_release : (withHart one (fun h => { h with buffer := [⟨.phys 0x10000, 8, 5, true, true, 0, 0, []⟩] })).hart.buffer =
      [⟨.phys 0x10000, 8, 5, true, true, 0, 0, []⟩] ∧ one.hart.core < 128 ∧
    storeReady (withHart one (fun h => { h with buffer := [⟨.phys 0x10000, 8, 5, true, true, 0, 0, []⟩] })).hart
      ⟨.phys 0x10000, 8, 5, true, true, 0, 0, []⟩ = true := by decide
theorem witness_decoder : ({ one with cxlMem := true, decoder := 0x100000 } : State).decoder ≤ (0x110000 : PAddr).toNat ∧
    (0x110000 : PAddr).toNat - 0x100000 + 64 ≤ localBytes one ∧ (0xFFFFF : PAddr).toNat < 0x100000 := by decide
theorem witness_lease_range : localBytes one ≤ 0x0008000000000000 + 2 ^ 31 * 63 ∧ (∀ h ∈ one.harts, drains h) ∧ one.thermal = false :=
  ⟨by decide, by unfold drains; decide, by decide⟩
theorem witness_block_turns : ({ one with blocks := one.blocks.set 255 (.removing 15), agenda := [.scrub 255] } : State).blocks[(255 : Fin 256)] =
      .removing 15 ∧ one.blocks[(255 : Fin 256)] = .free ∧ ({ one with agenda := [.lend 255] } : State).agenda = [.lend 255] := by decide

/-- Lease 63 in a state. -/
def leased (st : Nat) : State := { one with leases := one.leases.set 63 ⟨st, 0, 3, 1, 9⟩ }

theorem witness_lease : ((one.leases[(63 : Fin 64)]).state = 0) ∧ ((leased 1).leases[(63 : Fin 64)]).state = 1 ∧
    ((leased 1).leases[(63 : Fin 64)]).port = (3 : Fin 8).val ∧ ((leased 2).leases[(63 : Fin 64)]).state = 2 ∧ coresApart (leased 2) ∧
    ((leased 3).leases[(63 : Fin 64)]).state = 3 ∧ inFlight (leased 3) (0x0008000000000000 + 2 ^ 31 * 63) (0x0008000000000000 + 2 ^ 31 * 64) = 0 :=
  ⟨by decide, by decide, by decide, by decide, by unfold coresApart; decide, by decide, by decide⟩

/-- Block 255 in a state, partitions 0 and 15 active, their pages apart from it. -/
def blocked (b : BlockState) : State :=
  { one with
    blocks := one.blocks.set 255 b
    parts := (one.parts.set 0 { one.parts[0] with active := 1 }).set 15 { one.parts[15] with active := 1 } }

theorem witness_block : (blocked (.owned 0)).blocks[(255 : Fin 256)] = .owned (0 : PartId).val ∧ (0 : PartId) ≠ 15 ∧
    ((blocked (.owned 0)).parts[(0 : PartId)]).active ≠ 0 ∧ ((blocked (.owned 0)).parts[(15 : PartId)]).active ≠ 0 ∧
    (∀ m ∈ (blocked (.owned 0)).moves, m.1 ≠ 255) ∧
    ({ one with moves := [(255, 0, 15)] } : State).moves.filter (fun m => m.1 == 255) = [(255, 0, 15)] ∧
    (blocked (.scrubbing 15)).blocks[(255 : Fin 256)] = .scrubbing 15 ∧ (blocked .lent).blocks[(255 : Fin 256)] = .lent := by decide
theorem witness_block_pinned : blockPinned (blocked (.owned 0)) 255 = false := by decide +kernel
theorem witness_peer : (let a := (0x7F80000047 : PAddr).toNat / 64 * 64; a < localBytes (blocked .lent) ∧
    (blocked .lent).blocks[a / 2 ^ 31]? = some .lent) ∧ (List.replicate 64 (1 : Byte)).length = 64 := by decide
theorem witness_host : ({ one with cxlMem := true } : State).cxlMem = true ∧ one.bad = [] ∧ (0x10000 : PAddr).toNat + 64 ≤ localBytes one ∧
    (0x10000 : PAddr).toNat % 64 + 64 ≤ 64 ∧ badMem one 0x10000 64 = false ∧
    badMem ({ one with bad := [.dram 0x10008] } : State) 0x10008 1 = true ∧ one.cxlMem = false := by decide

/-- An active partition 1 with a mailbox and a control page. -/
def mailed : State := { one with parts := one.parts.set 1 { one.parts[1] with mboxAddr := 0x20000, pcpAddr := 0x30000, active := 1 } }

theorem witness_mailbox : (mailed.parts[(1 : PartId)]).active ≠ 0 ∧ (mailed.parts[(1 : PartId)]).mboxAddr ≠ 0 ∧
    (mailed.parts[(1 : PartId)]).mboxAddr.toNat % 8 = 0 ∧ (mailed.parts[(1 : PartId)]).pcpAddr.toNat % 8 = 0 ∧
    (∀ q : PartId, q ≠ 1 → (mailed.parts[q]).mboxAddr ≠ (mailed.parts[(1 : PartId)]).mboxAddr) ∧ (mailed.parts[(2 : PartId)]).active = 0 := by
  decide
theorem witness_cores : (∀ c, c < 128 → ((one.parts[(1 : PartId)]).cores).getLsbD c ≠ (2 : BitVec 128).getLsbD c → coreUsed one c = false ∧
      ((2 : BitVec 128).getLsbD c = true → ∀ q : PartId, q ≠ 1 → (one.parts[q]).cores.getLsbD c = false)) ∧
    (∃ c, c < 128 ∧ (one.parts[(1 : PartId)]).cores.getLsbD c ≠ (1 : BitVec 128).getLsbD c ∧ coreUsed one c = true) :=
  ⟨by decide, 0, by decide, by decide, by decide⟩

/-! ### Witnesses: start, operation -/

theorem witness_power_on : one.bootst = 0 ∧ (⟨true, true, 3, 2, true, 0xFF, 0, 0, 0, true⟩ : BootImage).readable = true := by decide

/-- The package started, its SPDM session open. -/
def started : State := { one with bootst := 5, spdm := ⟨3, true, true⟩, ide := 7, requireIde := true }

theorem witness_spdm : spdmRow started (.getMeasurements 5) = some (7, false, 0, started.spdm) ∧
    spdmRow started .finish = some (9, true, 0, ⟨3, false, true⟩) := by decide
theorem witness_ide : started.spdm.session = true ∧ one.spdm.session = false ∧ started.ide.getLsbD (0 : Fin 4) = true ∧
    started.ide.getLsbD (3 : Fin 4) = false := by decide

/-- Three counter banks enabled, the trace unit sampling and a convoy due. -/
def observed : State :=
  withHart { one with clock := 1048576 } (fun h => { h with
    banks := Vector.replicate 4 { Bank.start with selects := (Vector.replicate 6 0).set 0 4 }
    trace := { Trace.start with holder := some .guest, ctl := 3, convoys := [⟨0x1000, 2, 1, 2, 0, 0x800000⟩] } })

theorem witness_counting : 2 < (enabledBanks observed.hart).length ∧ observed.hart.quantumStart + 1048576 ≤ observed.clock ∧
    observed.hart.trace.holder.isSome = true ∧ observed.hart.trace.ctl.getLsbD 1 = true ∧
    observed.hart.trace.sampled + 2 ^ (observed.hart.trace.ctl.toNat / 256 % 16 + 12) ≤ observed.clock ∧
    observed.hart.trace.convoys = [⟨0x1000, 2, 1, 2, 0, 0x800000⟩] := by decide
theorem witness_throttle : one.throttle < 3 ∧ one.raised = none ∧
    ¬(∀ r, ({ one with throttle := 2, raised := some 1, clock := 2000000 } : State).raised = some r →
      r + 2000000 ≤ ({ one with throttle := 2, raised := some 1, clock := 2000000 } : State).clock) ∧ started.bootst = 5 ∧ one.bootst ≠ 5 ∧
    0 < ({ one with throttle := 1, clock := 20000000 } : State).throttle ∧ one.warm + 20000000 ≤ ({ one with clock := 20000000 } : State).clock := by
  decide
theorem witness_thermal : ({ one with thermal := true } : State).agenda = [] ∧
    ({ one with thermal := true, agenda := [.event .coldReset] } : State).agenda = .event .coldReset :: [] := by decide
theorem witness_error_rate : (correctedOf { one with corrected := [⟨3, 15, 65, List.replicate 65 0, true, none⟩] } 3 15).crossed = true ∧
    (correctedOf { one with corrected := [⟨3, 15, 64, List.replicate 64 0, false, none⟩] } 3 15).recent[63]? = some 0 ∧
    (correctedOf one 3 15).crossed = false ∧ (correctedOf one 3 15).logged = none ∧
    ({ one with agenda := [.corrected 127 15] } : State).agenda = [.corrected 127 15] ∧ one.thermal = false := by decide

/-! ### Witnesses: steps -/

/-- ADDI s3, s4, 5 placed where the next step fetches it. -/
def placedAddi : State := placed 0x0C640005

theorem witness_step : placedAddi.thermal = false ∧ placedAddi.agenda = [.run 0] ∧ (0 : CoreId).val = placedAddi.hart.core ∧
    gangSize placedAddi.hart = 1 ∧ placedAddi.hart.run = .running ∧ placedAddi.hart.held = none ∧ placedAddi.hart.queue = [] ∧
    awaitsVerdict placedAddi.hart = false ∧ decode 0x0C640005 = .ok (.addi 3 4 5) ∧ placedAddi.hart.started = false ∧
    placedAddi.hart.loop = none ∧ placedAddi.olds = [] := by decide
theorem witness_step_fetch : (fetch placedAddi 0 placedAddi.hart.pc).1 = .word 0x0C640005 ∧
    (fetch placedAddi 0 placedAddi.hart.pc).2.bad = [] ∧ (fetch placedAddi 0 placedAddi.hart.pc).2.olds = [] := by decide +kernel
theorem witness_step_issue : mustWait placedAddi (.addi 3 4 5) = false ∧ queueWord (.addi 3 4 5) = false ∧ enabledBanks placedAddi.hart = [] ∧
    vectorBusy placedAddi.hart = false ∧ mustWait (withHart placedAddi (fun h => { h with pending := 16 })) (.addi 3 4 5) = true := by decide

/-- VADD v4, v1, v2 placed where the next step fetches it, the control thread to run ahead. -/
def placedVadd : State := { placed 0b100000_000100_000001_000010_000_00000 with agenda := [.ahead 0] }

theorem witness_ahead : decode 0b100000_000100_000001_000010_000_00000 = .ok (.vadd 4 1 2 0) ∧ queueWord (.vadd 4 1 2 0) = true ∧
    isVector (.vadd 4 1 2 0) = true ∧ changesType (.vadd 4 1 2 0) = false ∧ placedVadd.hart.started = false ∧
    placedVadd.hart.queue.length < 256 ∧ mustWait placedVadd (.vadd 4 1 2 0) = false ∧ placedVadd.agenda = [.ahead 0] := by decide

/-- Two INT32 elements and that instruction at the head of the vector queue, its turn next. -/
def queuedVadd : State :=
  let s := pushQueue (atWord (vecs one 2 0x600 [(1, 3), (2, 3)]) 0b100000_000100_000001_000010_000_00000) (.vadd 4 1 2 0)
    (vecs one 2 0x600 [(1, 3), (2, 3)]).hart
  { s with agenda := [.vector 0 none] }

theorem witness_unit : coresApart queuedVadd ∧ unitWorks queuedVadd.hart = true ∧ queuedVadd.hart.held = none ∧ isJoint (.vadd 4 1 2 0) = false ∧
    queuedVadd.hart.queue.map (fun q => (q.work.item, q.work.ir)) = [(.vector, 0b100000_000100_000001_000010_000_00000)] ∧
    queuedVadd.bad = [] ∧ queuedVadd.olds = [] ∧
    queuedVadd.hart.queue.all (fun q => workReady { queuedVadd with hart := underTypes queuedVadd.hart q.work } q.work.seq (.vadd 4 1 2 0)) = true :=
  ⟨by unfold coresApart; decide, by decide, by decide, by decide, by decide, by decide, by decide, by decide⟩
theorem witness_unit_runs : queuedVadd.hart.queue.all (fun q =>
    match exec (.vadd 4 1 2 0) { queuedVadd with hart := underWork queuedVadd.hart q.work (some q.back) none none } with
    | .next t => decide (t.hart.core = 0 ∧ t.hart.owner = queuedVadd.hart.owner ∧ t.hart.stalled = false ∧ t.hart.held = none ∧ t.bad = [] ∧
        nested t.hart = nested queuedVadd.hart ∧ enabledBanks t.hart = [])
    | _ => false) = true := by decide +kernel
theorem witness_event : encode (.lampHop) = none ∧ ({ one with agenda := [.event .lampHop] } : State).agenda = .event .lampHop :: [] := by decide
theorem witness_one_hart_per_core : oneHartPerCore one ∧ ∃ t, step { one with agenda := [.pass 1] } = .next t :=
  ⟨⟨by unfold coresApart; decide, by decide⟩, _, rfl⟩

/-- A hart that is stopped with that instruction not started: it goes back to it. -/
theorem witness_rollback : (unstarted queuedVadd.hart).map (fun q => (q.work.pc, q.back.pending)) = [(0x1000, 0)] ∧
    gangSize queuedVadd.hart = 1 ∧ queuedVadd.hart.loop = none ∧ queuedVadd.hart.run = .running := by decide

/-! ### One step -/

/-- ADDI of s4 = 7 and 5 leaves 12 in s3 and moves the pc by 4. -/
theorem test_step_addi : (match step (withRegs placedAddi [(4, 7)]) with
    | .next t => getReg t 3 == 12 && t.hart.pc == 0x400004
    | _ => false) = true := by decide +kernel

/-! ### Witnesses: page faults -/

/-- The page at 0x401000 is on no table, the control page at 0x8000, BHEAD at `n`. -/
def faulting (s : State) (n : Nat) : State := { withPcp (mapped s) with mem := ssetBytes [] 0x8038 8 n }

theorem witness_page_fault : loadOf (getReg (faulting pads 5)) (.ldd 5 2 4) = some (5, 2, 0x401000, 8, false, false) ∧
    storeOf (getReg (faulting pads 5)) (.stw 5 2 4) = some (5, 2, 0x401000, 4, false, false) ∧ frozen (faulting pads 5).hart 5 = false ∧
    (∀ a, let r := reach (faulting pads 5) 0x401000 4 a;
      r.1 = .missing false ∧ mayEnter r.2.hart ∧ r.2.parts[partOf r.2.hart]? = some (faulting pads 5).parts[0] ∧
        pcpWord r.2 (partOf r.2.hart) 0x38 = 5 ∧ pcpWord r.2 (partOf r.2.hart) 0x40 = 0) ∧
    pcpWord (reach (faulting pads 32) 0x401000 4 .read).2 0 0x38 - pcpWord (reach (faulting pads 32) 0x401000 4 .read).2 0 0x40 = 32 := by
  refine ⟨by decide, by decide, by decide, fun a => ?_, by decide +kernel⟩
  cases a <;> exact ⟨by decide +kernel, ⟨by decide +kernel, by decide +kernel⟩, by decide +kernel, by decide +kernel, by decide +kernel⟩
theorem witness_absent : absent (faulting pads 5) 0x401000 :=
  ⟨by decide, by decide, by decide, by decide, by decide +kernel⟩
theorem witness_vector_page_fault : addressOperand (.vld 4 2 0) = some 258 ∧ addressOperand (.vst 1 2 0) = some 258 ∧
    freshStart (faulting pads 5).hart ∧ mayEnter (faulting pads 5).hart ∧ quiet (faulting pads 5) ∧
    loadRejects (faulting pads 5).hart 4 none = none ∧ storeRejects (faulting pads 5).hart 1 none = none ∧
    hasStage2 (faulting pads 5) (partOf (faulting pads 5).hart) = false ∧
    (∃ addr, vloadRow (faulting pads 5) (.vld 4 2 0) = some (4, 0, none, addr) ∧ vstoreRow (faulting pads 5) (.vst 1 2 0) =
      some (1, 0, none, addr) ∧ addr 0 = 0x400FFC ∧ addr 1 = 0x401000) ∧
    cachedAt (faulting pads 5) 0x400FFC 4 .write 0x10FFC ∧ cachedAt (faulting pads 5) 0x400FFC 4 .read 0x10FFC ∧
    ([0x401000] : List Nat).Pairwise (· < ·) ∧
    (∀ x, x ∈ [0x401000] ↔ ∃ j, j < 2 ∧ active (faulting pads 5).hart 0 j = true ∧ decide (j = 1) = true ∧ x = 0x401000 / 4096 * 4096) :=
  ⟨rfl, rfl, rfl, ⟨by decide, rfl⟩, ⟨by decide, rfl, rfl⟩, by decide, by decide, by decide, ⟨_, rfl, rfl, by decide, by decide⟩,
    ⟨by decide, page0, by decide, by decide, by decide, by decide, by decide, by decide, by decide⟩,
    ⟨by decide, page0, by decide, by decide, by decide, by decide, by decide, by decide, by decide⟩, by decide,
    fun x => ⟨fun h => ⟨1, by decide, by decide, rfl, by simpa using h⟩, fun ⟨_, _, _, _, h⟩ => by simp [h]⟩⟩

/-! ### Witnesses: frozen registers, gangs that trap -/

/-- A replayed loop that carries v9. -/
def carrying : State := withHart one (fun h => { h with loop := some { aLoop .replaying with carried := [9], grp := 1 } })

theorem witness_frozen_forms : plainTarget replaying (.lnext 5 0) = some 5 ∧ plainTarget replaying (.lmark 5 1 2 3) = some 5 ∧
    plainTarget replaying (.lddReg 5 1 2 .acq .device) = some 5 ∧ plainTarget (super replaying) (.harvest 5 1) = some 5 ∧
    plainTarget replaying (.launch 5 1) = some 5 ∧ plainTarget replaying (.copy 5 1 2 3 4) = some 5 := by decide
theorem witness_frozen_issue : carrying.hart.started = false ∧ mustWait carrying (.vadd 9 1 2 0) = false ∧ vectorBusy carrying.hart = false ∧
    nested carrying.hart = false ∧ (uses (.vadd 9 1 2 0)).vw = [9] ∧ 9 ∈ frozenRegs carrying.hart ∧ mustWait carrying (.vrcfg 1) = false ∧
    (∀ q, q < 9 → q ∉ frozenRegs carrying.hart) ∧ mustWait carrying (.bgld 4 1 2 0 5) = false ∧ frozen carrying.hart 5 = true ∧
    (∀ q, 4 ≤ q → q < 4 + groupOf carrying.hart.csr → q ∉ frozenRegs carrying.hart) := by decide

/-- The gang of two, the second member in a replayed loop. -/
def pairFrozen : State :=
  { super pair with others := pair.others.map (fun h => { h with loop := some (aLoop .replaying) }) }

theorem witness_frozen_gang : coresApart pairFrozen ∧ supervisor pairFrozen.hart = true ∧
    (∀ h ∈ gangNow pairFrozen, nested h = false ∧ (frozen h 5 = false → h.loop = none)) ∧ ∃ h ∈ gangNow pairFrozen, frozen h 5 = true :=
  ⟨by unfold coresApart; decide, by decide, by decide, by decide⟩
theorem witness_gang_traps : coresApart pair ∧ pair.hart ∈ gangNow pair ∧ ∀ h ∈ gangNow pair, mayEnter h :=
  ⟨by unfold coresApart; decide, by decide, by unfold mayEnter; decide⟩
theorem witness_trap_of : trapOf one (.trap 4095) = some ⟨0x19, 4095, 0, 0x1004, 0x1000, 0, 0, 0, 0⟩ ∧
    trapOf (withRegs one [(4, 3)]) (.jr 4) = some ⟨0x06, 3, 260, 0x1000, 0x1000, 0, 0, 0, 0⟩ ∧ (trapOf one (.csrw 1 0x006)).isSome = true ∧
    (trapOf one (.trapEntry 0x10 7 8)).isSome = true ∧ nested one.hart = false ∧ gangSize one.hart = 1 ∧
    (trapOf (setCsr one (fun c => { c with status := 0x21 })) (.bkpt 1)).isSome = true ∧ traceOn one.hart 0 = false := by decide
theorem witness_hypervisor : onHyper { one with launches := [⟨0, 1, 0x400000, 7, 1, 1, 2, none, [], 1, 0, 0, 0, 1, 0, 0, true, false⟩] } = true ∧
    onHyper one = false := by decide
theorem witness_may_write : vectorDone one.hart ∧ rowMayWrite one 0x003 0 ∧
    ¬vectorDone (withHart one (fun h => { h with vf := some ⟨0, 0, 0x1000, 0x2000, 1, [], startRegs 0, 0, 64, [], [], []⟩ })).hart :=
  ⟨⟨by decide, rfl⟩, fun _ _ => ⟨by decide, rfl⟩, fun h => absurd h.1 (by decide)⟩

/-! ### Witnesses: operands of vector instructions -/

theorem witness_register_traps : vectorOperands .add 4 [29, 2] = [4] ++ 29 :: [2] ∧ elemRow (getReg ints) (.vadd 4 29 2 0) = some (.add, 4, [29, 2], 0) ∧
    vectorOperands (.cmp false .lt) 1 [32, 2] = [] ++ 32 :: [2] ∧ regCount ints.hart.csr < 32 + groupOf ints.hart.csr ∧
    (let c := (vecs one 3 0x601 []).hart.csr
     (∀ q ∈ [4, 29, 2], q + groupOf c ≤ regCount c) ∧ (∀ q ∈ [4], q % groupOf c = 0) ∧ 29 % groupOf c ≠ 0) := by decide

/-- Two INT32 elements in v1, two FP32 ones in v3, INT16 ones in v5. -/
def mixed : State := vecs one 2 0x600 [(1, 3), (3, 1), (5, 4)]

theorem witness_type_traps : (∀ r ∈ vectorOperands .add 5 [1, 3], r + groupOf mixed.hart.csr ≤ regCount mixed.hart.csr ∧ r % groupOf mixed.hart.csr = 0) ∧
    mixed.hart.restart.epc = none ∧ destTag mixed.hart .add 5 [5, 1] 0 = some 3 ∧
    ((5 : Nat) ∈ [5, 1] ∧ tagOfReg mixed.hart 5 ≠ 0 ∧ narrowTag (tagOfReg mixed.hart 5) ≠ narrowTag 3) ∧
    dtagOf (vecs one 2 0 []).hart.csr = 0 ∧ tagOfReg mixed.hart 2 = 0 ∧
    (⟨.add, 4, [1, 3], 0⟩ : ElemWord).result mixed.hart = .inr 0 ∧ destTag mixed.hart .add 4 [1, 3] 0 = none ∧
    destTag mixed.hart (.cmp true .lt) 4 [1, 2] 0 = none := by decide
theorem witness_result_tags : (ElemOp.fma).tagClass.isSome = true ∧ tagOfReg mixed.hart 1 ≠ 0 ∧ tagOfReg mixed.hart 5 ≠ 0 ∧ tagOfReg mixed.hart 3 ≠ 0 ∧
    tableTag .fma 3 4 = some 3 ∧ tableTag .fma 3 1 = none := by decide

/-! ### Witnesses: engines and loops -/

/-- A copy whose clear of its mask stands in the vector queue. -/
def clearing : State :=
  withHart (withEngineX one (aCopy [0, 1])) (fun h => { h with
    queue := [⟨⟨1, 0, 0x1000, h.regs, h.vec.tags, 0, 0, 0, 0, false, [], 0, 0, .clear 5⟩,
      ⟨h.regs, h.csr, 0, h.latch, 0⟩⟩] })

theorem witness_copy_clear : acts clearing (aCopy [0, 1]) ∧ clearing.bad = [] ∧ clearing.early = [] ∧
    (∀ q ∈ (withEngineX one (aCopy [0, 1])).hart.queue, q.work.item ≠ .clear 5) ∧ ¬(∀ q ∈ clearing.hart.queue, q.work.item ≠ .clear 5) :=
  ⟨⟨by decide, rfl, rfl⟩, rfl, rfl, by decide, by decide⟩
theorem witness_gather_width : 4 = tagBytes (dtagOf { one.hart.csr with vtype := 0x600 }) := by decide

/-- A recorded word at offset 1 of the body; the word 0 is no instruction. -/
def anOp (ir : BitVec 32) : LoopOp := ⟨0, 0x1008, ir, false, none, none⟩

theorem witness_roles : roleFault { aLoop .recording with cur := [] } [] = none ∧
    roleFault (aLoop .recording) [anOp 0] = some 1 := by decide

/-- A replay that has two granules to read, of which none or the first has been read, or a store is held. -/
def replayReading (reads : List Nat) (accs : List (Nat × Byte)) : State :=
  { withHart one (fun h => { h with loop := some { aLoop .replaying with
      ops := [[⟨0, 0x1008, 0, false, some 0x400000, some (0, 2048, false)⟩], [⟨0, 0x1008, 0, false, some 0x400000, some (0, 2048, false)⟩], []] } }) with
    clock := 1, hbm := one.hbm.set 0 { Stack.start with stopes := [⟨0, .replay 0 0 4096, 0, 0, none, reads, accs, []⟩] } }

theorem witness_replay_reads : (replayReading [] []).hart.loop.any (fun l =>
      decide ((replayReads l ⟨0, .replay 0 0 4096, 0, 0, none, [], [], []⟩).filter (fun q => !([] : List Nat).contains q) = [0, 1]) &&
      decide ((replayReads l ⟨0, .replay 0 0 4096, 0, 0, none, [0], [], []⟩).filter (fun q => !([0] : List Nat).contains q) = [1])) = true ∧
    stepReady (replayReading [] []) 0 (1024 * 0) = true ∧ stepReady (replayReading [0] []) 0 (1024 * 1) = true ∧
    stopeAt (replayReading [0] [(7, 1)]) 0 0 = some ⟨0, .replay 0 0 4096, 0, 0, none, [0], [(7, 1)], []⟩ := by decide +kernel

/-! ### Witnesses: start and operation -/

/-- An image that passes every step, and the boot ROM at a step with it. -/
def anImage : BootImage := ⟨true, true, 3, 2, true, 0xFF, 0, 0, 0, true⟩

theorem witness_boot_steps : ({ one with bootst := 4, booting := some anImage } : State).bootst.toNat = 4 ∧
    ({ one with bootst := 4, booting := some anImage } : State).booting = some anImage ∧ anImage.rollback ≤ anImage.version ∧
    ¬((1 : Nat) = 1 → ({ anImage with readable := false } : BootImage).readable = true) ∧ 5 ≤ ({ one with bootst := 0x10F } : State).bootst.toNat := by
  decide
theorem witness_ready : started.bootst = 5 ∧ one.bootst ≠ 5 ∧ (∀ q ∈ one.packets, q.transit ≠ .recovery) ∧ uncached one 0x10000 = false := by
  decide +kernel
/-- The same with its trace area at 0x800000. -/
def traced : State := { observed with mem := ssetBytes [] 0x18 8 0x800000 }

theorem witness_trace_area : traceBase traced traced.hart = 0x800000 ∧ traced.hart.trace.convoys.isEmpty = false ∧
    (∀ q ∈ traced.parts.toList, 0x800000 + 2 ^ 20 ≤ q.pcpAddr.toNat ∨ q.pcpAddr.toNat + 0x28 ≤ 0x800000) ∧
    (withHart traced (fun h => { h with trace := { h.trace with ctl := 1 } })).hart.trace.ctl.getLsbD 0 = true ∧
    (withHart traced (fun h => { h with trace := { h.trace with ctl := 1 } })).hart.trace.ctl.getLsbD 1 = false := by decide +kernel
theorem witness_segments : ({ Stack.start with mcstk := 0x100003 } : Stack).mcstk.getLsbD 2 = false ∧ Stack.start.mcstk.getLsbD 2 = true := by decide
/-- A store to block 255 that waits behind a vector instruction keeps the block with its owner. -/
def heldStore : State := withHart queuedVadd (fun h => { h with buffer := [⟨.phys 0x7F80000000, 8, 5, false, false, 0, 1, []⟩] })
theorem witness_block_busy : blockPinned heldStore 255 = false ∧
    inFlight (settleRange heldStore (2 ^ 31 * 255) (2 ^ 31 * (255 + 1))) (2 ^ 31 * 255) (2 ^ 31 * (255 + 1)) ≠ 0 := by decide +kernel
/-- R358's placement table: x row 17 and y row 17 of the page at 0x600000, mapped to frame 118. -/
theorem test_row17_placement : (let p := { one with enstk := 0xFF }
    (stackOf p 0xEC44400, frameInStack p 0xEC44400, channelOf 0xEC44400, bankOf 0xEC44400, rowOf p 0xEC44400) = (6, 14, 17, 4, 28) ∧
    (stackOf p 0xED44400, frameInStack p 0xED44400, channelOf 0xED44400, bankOf 0xED44400, rowOf p 0xED44400) = (6, 14, 17, 4, 29)) := by decide
end Sys2Proof.Tests
end

/-! One hart to a core (R3, R38): the premise of the statements on gangs, at reset and after every step. -/

namespace Sys2Proof.Claims

open Sys2Proof.Machine

theorem coresOf_eq_harts (s : State) : coresOf s = ↑(s.harts.map (·.core)) := rfl

theorem card_coresOf (s : State) : (coresOf s).card = s.harts.length := by
  rw [coresOf_eq_harts, Multiset.coe_card, List.length_map]

/-- The invariant is about the cores of the harts alone, in whatever order the state lists its harts. -/
theorem oneHartPerCore_iff_coresOf (s : State) :
    oneHartPerCore s ↔ (coresOf s).Nodup ∧ ∀ c ∈ coresOf s, c < 128 := by
  rw [coresOf_eq_harts, Multiset.coe_nodup]
  simp only [Multiset.mem_coe, List.forall_mem_map]
  exact Iff.rfl

/-- Reset starts one hart on each of the cores 0 to 127 (R3). -/
theorem coresOf_reset : coresOf State.reset = Multiset.range 128 := by
  have hcores : State.reset.harts.map (·.core) = 0 :: (List.range 127).map Nat.succ :=
    congrArg (0 :: ·) List.map_map
  rw [coresOf_eq_harts, hcores, ← List.range_succ_eq_map]
  rfl

theorem oneHartPerCore_reset : oneHartPerCore State.reset := by
  rw [oneHartPerCore_iff_coresOf, coresOf_reset]
  exact ⟨Multiset.nodup_range 128, fun _ => Multiset.mem_range.1⟩

/-- Settles O59: the harts of the reset state stand on the cores 0 to 127, one each. -/
theorem coresApartAtReset : Obligations.CoresApartAtReset := by
  unfold Obligations.CoresApartAtReset
  refine ⟨oneHartPerCore_reset, ?_⟩
  rw [← card_coresOf, coresOf_reset, Multiset.card_range]

/-- Settles O60: a step leaves the harts on the cores on which they stood, or on those of the reset state (`step_cores`,
which goes through every turn and every instruction); the invariant holds of either. -/
theorem coresApartKept : Obligations.CoresApartKept := by
  unfold Obligations.CoresApartKept
  intro s t hs hstep
  rw [oneHartPerCore_iff_coresOf]
  rcases step_cores s t hstep with hsame | hreset
  · rw [hsame]
    exact (oneHartPerCore_iff_coresOf s).1 hs
  · rw [hreset]
    exact (oneHartPerCore_iff_coresOf State.reset).1 oneHartPerCore_reset

end Sys2Proof.Claims

/-! A queued grant of VL and the scalar register that the unit no longer writes (R181): the counterexample to the statement
that a step of the vector unit is `exec` of the queued word. -/

namespace Sys2Proof.Claims

open Sys2Proof.Machine

/-- VSETVL s5, s6 as it stands in the vector queue of core 0, entered with all registers at their start values. -/
def queuedGrant : Queued :=
  ⟨⟨1, 0x94A60000, 0, startRegs 0, Vector.replicate 64 0, 0, 2, 0, 0, false, [], 0, 0, .vector⟩,
    ⟨startRegs 0, Csr.start 0 0, 0, ⟨false, 0, 0⟩, 0⟩⟩

/-- The module with that word first in the queue of core 0, whose control thread has written 7 into s5 since, and the turn of
its vector unit next. -/
def grantOvertaken : State :=
  { State.reset with
    hart := { Hart.start 0 with run := .running, queue := [queuedGrant], regs := (startRegs 0).set 5 7 }
    agenda := [.vector 0 none] }

/-- What the word leaves where it is executed with s5 as its result. -/
def grantExecuted : State :=
  let u := { grantOvertaken with agenda := [] }
  grant { u with hart := underWork u.hart queuedGrant.work (some queuedGrant.back) (some 5) none } 5 0

/-- s5 of the acting hart after a step that completes. -/
def s5After (o : Out) : Word :=
  match o with
  | .next t => getReg t 5
  | _ => 0

theorem queuedGrant_decodes : decode queuedGrant.work.ir.toNat = .ok (.vsetvl 5 6) := by decide

/-- The unit grants a length without touching the register that VSETVL wrote as it entered the queue (R181). -/
theorem s5After_step_grantOvertaken : s5After (step grantOvertaken) = 7 := by decide

/-- With s5 as its result the grant of 0 elements would overwrite it. -/
theorem s5After_backTo_grantExecuted :
    s5After (.next { grantExecuted with hart := backTo grantOvertaken.hart grantExecuted.hart (some 5) none }) = 0 := by decide

/-- Refutes O57: VSETVL and VSETVT write their scalar register as they enter the queue (`grantsLength`), so the unit has no
scalar result for them (`unitResult`), while the statement takes `(uses x).sw`.  Once the control thread has written the
register again (7 in s5), the statement's state has the granted length there and the step's state has the 7. -/
theorem not_stepRunsWord : ¬ Obligations.StepRunsWord := by
  unfold Obligations.StepRunsWord
  rintro ⟨-, ⟨-, hunit⟩, -⟩
  have hstep := hunit grantOvertaken 0 [] queuedGrant [] (.vsetvl 5 6) rfl oneHartPerCore_reset.1 rfl rfl rfl rfl rfl rfl rfl
    queuedGrant_decodes rfl rfl rfl (by decide) grantExecuted rfl rfl rfl rfl rfl rfl rfl (by decide)
  have hs5 := congrArg s5After hstep
  rw [s5After_step_grantOvertaken] at hs5
  exact absurd (hs5.trans s5After_backTo_grantExecuted) (by decide)

end Sys2Proof.Claims

/-! What a trap leaves of the hart that takes it, as the statements say it, and of the other harts (R323). -/

namespace Sys2Proof.Machine

open Sys2Proof.Claims

/-- STATUS after trap entry is the table's (R321 to R323). -/
theorem trapStatus_agrees (c : Csr) : bitsAgree (trapStatus c) (enteredStatus c) := by
  intro k hk
  rw [trapStatus_bits c k hk]
  simp [enteredStatus, bits]

/-- The hart that a trap enters, from any hart that has no trap open and no marked loop. -/
theorem takeTrap_enters (s : State) (t : TrapInfo) (hm : mayEnter s.hart) :
    enteredBy s.hart (takeTrap s t).hart t.cause t.tval t.topnd t.epc := by
  obtain ⟨hn, hl⟩ := hm
  rw [takeTrap_hart s t hn hl]
  exact ⟨rfl, trapStatus_agrees s.hart.csr, rfl, rfl, rfl⟩

/-- Trap entry is on the hart's registers, CSRs, pc and vector state alone. -/
theorem entered_of_hart_eq {s u t : State} {cause : Nat} {tval topnd epc : Word} (hu : u.hart = s.hart)
    (h : entered u t cause tval topnd epc) : entered s t cause tval topnd epc := by
  unfold entered at *
  rwa [hu] at h

theorem takeTrap_entered (s : State) (t : TrapInfo) (hm : mayEnter s.hart) :
    entered s (takeTrap s t) t.cause t.tval t.topnd t.epc := takeTrap_enters s t hm

theorem trapAt_entered (s : State) (cause : Nat) (tval topnd : Word) (hm : mayEnter s.hart) :
    entered s (trapAt s cause tval topnd) cause tval topnd s.hart.pc := takeTrap_entered s _ hm

theorem trapWord_entered (s : State) (cause : Nat) (topnd : Word) (hm : mayEnter s.hart) :
    entered s (trapWord s cause topnd) cause (s.hart.ir.zeroExtend 64) topnd s.hart.pc := trapAt_entered s _ _ _ hm

/-- NEST is set by a trap (R323). -/
theorem nested_takeTrap (s : State) (t : TrapInfo) (hm : mayEnter s.hart) : nested (takeTrap s t).hart = true := by
  obtain ⟨-, hstatus, -⟩ := takeTrap_enters s t hm
  have h5 : (takeTrap s t).hart.csr.status.getLsbD 5 = true := hstatus 5 (by decide)
  have hbit : (bits (takeTrap s t).hart.csr.status 5 1).testBit 0 = true := by rw [testBit_bits]; simpa using h5
  have hlt : bits (takeTrap s t).hart.csr.status 5 1 < 2 := Nat.mod_lt _ (by decide)
  rw [Nat.testBit_zero] at hbit
  simp only [decide_eq_true_eq] at hbit
  rw [nested, beq_iff_eq]
  omega

theorem takeTrap_core (s : State) (t : TrapInfo) (hm : mayEnter s.hart) : (takeTrap s t).hart.core = s.hart.core := by
  rw [takeTrap_hart s t hm.1 hm.2]

theorem takeTrap_owner (s : State) (t : TrapInfo) (hm : mayEnter s.hart) : (takeTrap s t).hart.owner = s.hart.owner := by
  rw [takeTrap_hart s t hm.1 hm.2]

@[simp] theorem logCause_others (s : State) (c : Nat) (va : Word) : (logCause s c va).others = s.others := by
  unfold logCause; split <;> simp

/-- A state with the same other harts, and the acting one on the same core, has the other harts as they were. -/
theorem hartAt_other_congr {s u : State} (hcore : u.hart.core = s.hart.core) (ho : u.others = s.others) (c : Nat)
    (hc : c ≠ s.hart.core) : hartAt u c = hartAt s c := by
  simp only [hartAt, hcore, ho, if_neg hc.symm]

/-- Another hart is not changed by a trap of the acting one. -/
theorem hartAt_takeTrap_other (s : State) (t : TrapInfo) (hm : mayEnter s.hart) (c : Nat) (hc : c ≠ s.hart.core) :
    hartAt (takeTrap s t) c = hartAt s c :=
  hartAt_other_congr (takeTrap_core s t hm) (takeTrap_others s t hm.1) c hc

/-! ### Another hart acts -/

theorem mem_coresOf (s : State) (c : Nat) : c ∈ coresOf s ↔ ∃ g ∈ s.harts, g.core = c := by
  rw [coresOf_eq_harts, Multiset.mem_coe, List.mem_map]

theorem coresApart_iff (s : State) : coresApart s ↔ (coresOf s).Nodup := by
  rw [coresOf_eq_harts, Multiset.coe_nodup]
  exact Iff.rfl

theorem coresApart_of_cores {s t : State} (h : coresOf t = coresOf s) (hs : coresApart s) : coresApart t := by
  rw [coresApart_iff] at *
  rwa [h]

/-- A hart of the module is the one of its core. -/
theorem hartAt_of_mem (s : State) (hs : coresApart s) (h : Hart) (hm : h ∈ s.harts) : hartAt s h.core = h := by
  unfold hartAt
  by_cases he : s.hart.core = h.core
  · rw [if_pos he]
    exact List.inj_on_of_nodup_map hs (List.mem_cons_self ..) hm he
  · rw [if_neg he]
    have ho : h ∈ s.others := (List.mem_cons.1 hm).resolve_left (fun e => he (by rw [e]))
    cases hf : s.others.find? (fun g => g.core == h.core) with
    | none => exact absurd (List.find?_eq_none.1 hf h ho) (by simp)
    | some g =>
      have hg : g.core = h.core := by simpa using List.find?_some hf
      exact List.inj_on_of_nodup_map hs (List.mem_cons_of_mem _ (List.mem_of_find?_eq_some hf)) hm hg

/-- The hart of a core that has one. -/
theorem hartAt_mem (s : State) (c : Nat) (h : c ∈ coresOf s) : hartAt s c ∈ s.harts := by
  obtain ⟨g, hg, rfl⟩ := (mem_coresOf s c).1 h
  unfold hartAt
  split
  · exact List.mem_cons_self ..
  · next hne =>
    have ho : g ∈ s.others := (List.mem_cons.1 hg).resolve_left (fun e => hne (by rw [e]))
    cases hf : s.others.find? (fun x => x.core == g.core) with
    | none => exact absurd (List.find?_eq_none.1 hf g ho) (by simp)
    | some x => exact List.mem_cons_of_mem _ (List.mem_of_find?_eq_some hf)

/-- The harts are the same when another of them acts. -/
theorem mem_swapIn (g k : Hart) (c : Nat) (l : List Hart) (h : l.find? (fun x => x.core == c) = some k) (x : Hart) :
    x = k ∨ x ∈ swapIn g c l ↔ x = g ∨ x ∈ l := by
  induction l with
  | nil => cases h
  | cons y rest ih =>
    by_cases hy : y.core = c
    · rw [List.find?_cons_of_pos (by simpa using hy)] at h
      cases h
      simp only [swapIn, hy, if_true, List.mem_cons]
      tauto
    · rw [List.find?_cons_of_neg (by simpa using hy)] at h
      have := ih h
      simp only [swapIn, hy, if_false, List.mem_cons]
      tauto

theorem mem_harts_focus (s : State) (c : Nat) (x : Hart) : x ∈ (focus s c).harts ↔ x ∈ s.harts := by
  unfold focus
  split
  · rfl
  · split
    · rfl
    · next k hk =>
      simp only [State.harts, List.mem_cons]
      exact mem_swapIn s.hart k c s.others hk x

/-- Every hart is as it was when another of them acts. -/
theorem hartAt_focus (s : State) (c d : Nat) (hs : coresApart s) (hd : d ∈ coresOf s) : hartAt (focus s c) d = hartAt s d := by
  have hm : hartAt s d ∈ (focus s c).harts := (mem_harts_focus s c _).2 (hartAt_mem s d hd)
  have := hartAt_of_mem (focus s c) (coresApart_of_cores (coresOf_focus s c) hs) _ hm
  rwa [core_hartAt] at this

/-- The hart of a core that has one acts after a change of focus to it. -/
theorem focus_hart (s : State) (c : Nat) (h : c ∈ coresOf s) : (focus s c).hart = hartAt s c := by
  unfold focus hartAt
  split
  · rfl
  · next hne =>
    obtain ⟨g, hg, rfl⟩ := (mem_coresOf s c).1 h
    have ho : g ∈ s.others := (List.mem_cons.1 hg).resolve_left (fun e => hne (by rw [e]))
    cases hf : s.others.find? (fun x => x.core == g.core) with
    | none => exact absurd (List.find?_eq_none.1 hf g ho) (by simp)
    | some x => rfl

/-! ### The members of a gang -/

theorem gangMembers_sub (s : State) (h : Hart) (hm : h ∈ gangMembers s) : h ∈ s.harts := by
  obtain ⟨m, -, hf⟩ := List.mem_filterMap.1 hm
  exact List.mem_of_find?_eq_some hf

theorem gangNow_sub (s : State) (h : Hart) (hm : h ∈ gangNow s) : h ∈ s.harts := by
  unfold gangNow at hm
  split at hm
  · rw [List.mem_singleton.1 hm]
    exact List.mem_cons_self ..
  · exact gangMembers_sub s h hm

theorem gangNow_core_mem (s : State) (h : Hart) (hm : h ∈ gangNow s) : h.core ∈ coresOf s :=
  (mem_coresOf s _).2 ⟨h, gangNow_sub s h hm, rfl⟩

/-- A gang of more than one has an owner (R38). -/
theorem owner_of_gangSize (h : Hart) (hg : gangSize h ≠ 1) : ∃ o, h.owner = some o := by
  cases ho : h.owner with
  | none => exact absurd (by simp [gangSize, ho]) hg
  | some o => exact ⟨o, rfl⟩

/-- A member of a gang of more than one runs for its launch. -/
theorem gangNow_owner (s : State) (hg : gangSize s.hart ≠ 1) (h : Hart) (hm : h ∈ gangNow s) : h.owner.isSome = true := by
  obtain ⟨p, hp⟩ := owner_of_gangSize s.hart hg
  rw [gangNow, if_neg hg] at hm
  obtain ⟨m, -, hf⟩ := List.mem_filterMap.1 hm
  have := List.find?_some hf
  cases ho : h.owner with
  | none => simp [ho, hp] at this
  | some o => rfl

/-- The members of a gang are harts apart: each has its own member number. -/
theorem gangNow_nodup (s : State) : (gangNow s).Nodup := by
  unfold gangNow
  split
  · exact List.nodup_singleton _
  · next hg =>
    obtain ⟨p, hp⟩ := owner_of_gangSize s.hart hg
    refine List.Nodup.filterMap ?_ List.nodup_range
    intro m n h hm hn
    have h1 := List.find?_some hm
    have h2 := List.find?_some hn
    cases ho : h.owner with
    | none => simp [ho, hp] at h1
    | some o =>
      simp only [ho, hp, Bool.and_eq_true, beq_iff_eq] at h1 h2
      exact h1.2.symm.trans h2.2

theorem gangCores_nodup (s : State) (hs : coresApart s) : ((gangNow s).map (·.core)).Nodup :=
  List.Nodup.map_on (fun x hx y hy => List.inj_on_of_nodup_map hs (gangNow_sub s x hx) (gangNow_sub s y hy)) (gangNow_nodup s)

/-! ### The trap of a gang (R40) -/

/-- The trap of one member where another has trapped. -/
def memberTrap (low : Nat) (s : State) (c : Nat) : State :=
  takeTrap (focus s c) ⟨0x21, word low, 0, (focus s c).hart.pc, (focus s c).hart.pc, (focus s c).hart.ir, 0, 0, 0⟩

theorem coresOf_memberTrap (low : Nat) (s : State) (c : Nat) : coresOf (memberTrap low s c) = coresOf s := by
  simp [memberTrap]

/-- One member's trap: that of its hart, and no other hart changes. -/
theorem hartAt_memberTrap (low : Nat) (s : State) (c d : Nat) (hs : coresApart s) (hc : c ∈ coresOf s) (hd : d ∈ coresOf s)
    (hm : mayEnter (hartAt s c)) :
    (d ≠ c → hartAt (memberTrap low s c) d = hartAt s d) ∧
      (d = c → enteredBy (hartAt s c) (hartAt (memberTrap low s c) d) 0x21 (word low) 0 (hartAt s c).pc) := by
  have hf := focus_hart s c hc
  have hcore : (focus s c).hart.core = c := by rw [hf, core_hartAt]
  rw [← hf] at hm
  constructor
  · intro hne
    rw [memberTrap, hartAt_takeTrap_other _ _ hm d (by rw [hcore]; exact hne), hartAt_focus s c d hs hd]
  · rintro rfl
    have ht := takeTrap_enters (focus s d) ⟨0x21, word low, 0, (focus s d).hart.pc, (focus s d).hart.pc,
      (focus s d).hart.ir, 0, 0, 0⟩ hm
    have he : hartAt (memberTrap low s d) d = (memberTrap low s d).hart := by
      have h1 : (memberTrap low s d).hart.core = d := by rw [memberTrap, takeTrap_core _ _ hm, hcore]
      have h2 := hartAt_self (memberTrap low s d)
      rwa [h1] at h2
    rw [he, ← hf]
    exact ht

/-- The traps of some members in turn. -/
theorem hartAt_foldl_memberTrap (low : Nat) (cs : List Nat) (s : State) (d : Nat) (hs : coresApart s) (hn : cs.Nodup)
    (hc : ∀ c ∈ cs, c ∈ coresOf s) (hm : ∀ c ∈ cs, mayEnter (hartAt s c)) (hd : d ∈ coresOf s) :
    let t := cs.foldl (memberTrap low) s
    (d ∉ cs → hartAt t d = hartAt s d) ∧
      (d ∈ cs → enteredBy (hartAt s d) (hartAt t d) 0x21 (word low) 0 (hartAt s d).pc) := by
  induction cs generalizing s with
  | nil => exact ⟨fun _ => rfl, fun h => absurd h (List.not_mem_nil)⟩
  | cons c cs ih =>
    obtain ⟨hnc, hn⟩ := List.nodup_cons.1 hn
    have hcc := hc c (List.mem_cons_self ..)
    have hmc := hm c (List.mem_cons_self ..)
    have hcores := coresOf_memberTrap low s c
    have hother : ∀ x ∈ cs, hartAt (memberTrap low s c) x = hartAt s x := fun x hx =>
      (hartAt_memberTrap low s c x hs hcc (hc x (List.mem_cons_of_mem _ hx)) hmc).1 (fun e => hnc (e ▸ hx))
    have hrest := ih (memberTrap low s c) (coresApart_of_cores hcores hs) hn
      (fun x hx => hcores ▸ hc x (List.mem_cons_of_mem _ hx))
      (fun x hx => by rw [hother x hx]; exact hm x (List.mem_cons_of_mem _ hx)) (hcores ▸ hd)
    obtain ⟨hkeep, htrap⟩ := hrest
    obtain ⟨hne, hsame⟩ := hartAt_memberTrap low s c d hs hcc hd hmc
    rw [List.foldl_cons]
    constructor
    · intro hmem
      rw [List.mem_cons, not_or] at hmem
      rw [hkeep hmem.2, hne hmem.1]
    · intro hmem
      by_cases hdc : d = c
      · rw [hkeep (hdc ▸ hnc), hdc]
        rw [hdc] at hsame
        exact hsame rfl
      · have hdm := (List.mem_cons.1 hmem).resolve_left hdc
        have := htrap hdm
        rwa [hother d hdm] at this

/-- The numbers of a list of one number have it as their least. -/
theorem foldl_min_const (c : Nat) (l : List Nat) (h : ∀ x ∈ l, x = c) : l.foldl Nat.min c = c := by
  induction l with
  | nil => rfl
  | cons x l ih =>
    rw [List.foldl_cons, h x (List.mem_cons_self ..), show Nat.min c c = c from Nat.min_self c]
    exact ih (fun y hy => h y (List.mem_cons_of_mem _ hy))

/-- Where the acting hart alone has trapped, every other member takes cause 0x21, which names it (R40). -/
theorem spreadTraps_acting (s u : State) (cores : List Nat) (hcore : u.hart.core = s.hart.core) (ho : u.others = s.others)
    (hmine : s.hart.core ∈ cores) (hfree : ∀ c ∈ cores, nested (hartAt s c) = false) (hu : nested u.hart = true) :
    spreadTraps s u cores =
      focus ((cores.filter (fun c => c != s.hart.core && (hartAt u c).owner.isSome)).foldl (memberTrap s.hart.core) u)
        s.hart.core := by
  have hself : hartAt u s.hart.core = u.hart := by rw [← hcore]; exact hartAt_self u
  have hother := hartAt_other_congr hcore ho
  have hmem : ∀ c, c ∈ cores.filter (fun c => !nested (hartAt s c) && nested (hartAt u c)) ↔ c ∈ cores ∧ c = s.hart.core := by
    intro c
    rw [List.mem_filter]
    refine and_congr_right (fun hc => ?_)
    by_cases h : c = s.hart.core
    · have := hfree _ hmine
      rw [hartAt_self] at this
      simp [h, hself, hu, this]
    · simp [h, hother c h, hfree c hc]
  unfold spreadTraps
  extract_lets trapped standing
  have htr : ∀ x ∈ trapped, x = s.hart.core := fun x hx => ((hmem x).1 hx).2
  have hin : s.hart.core ∈ trapped := (hmem _).2 ⟨hmine, rfl⟩
  have hcontains : ∀ c, trapped.contains c = (c == s.hart.core) := fun c => by
    by_cases h : c = s.hart.core
    · simp [h, hin]
    · have : c ∉ trapped := fun hc => h (htr c hc)
      simp [h, this]
  have hlow : ∀ c0, c0 ∈ trapped → trapped.foldl Nat.min c0 = s.hart.core := fun c0 h0 => by
    rw [htr c0 h0]; exact foldl_min_const _ _ htr
  have hrest : standing = cores.filter (fun c => c != s.hart.core && (hartAt u c).owner.isSome) := by
    simp only [standing, hcontains]
    rfl
  rw [hrest]
  clear_value trapped
  cases trapped with
  | nil => exact absurd hin (List.not_mem_nil)
  | cons c0 rest =>
    dsimp only
    rw [hlow c0 (List.mem_cons_self ..)]
    rfl

end Sys2Proof.Machine

/-! The trap instructions, the row TRAP_ENTRY and the privilege checks (R149, R167, R323, R324). -/

namespace Sys2Proof.Claims

open Sys2Proof.Machine

/-- The causes of R324's table are those that the row TRAP_ENTRY takes: the acting hart's trap, and its gang's with it. -/
theorem execTrapEntry_known (c : BitVec 8) (v x : Word) (s : State)
    (hc : c ∈ [0x01, 0x02, 0x03, 0x04, 0x05, 0x06, 0x08, 0x09, 0x0A, 0x0B, 0x0C, 0x0D, 0x0E, 0x10, 0x18, 0x19, 0x1A, 0x21]) :
    exec (.trapEntry c v x) s = .next (spreadTraps s
      (takeTrap (logCause s c.toNat v)
        ⟨c.toNat, v, x, if c = 0x19 then s.hart.pc + 4 else s.hart.pc, s.hart.pc, s.hart.ir, 0, 0, 0⟩)
      ((gangNow s).map (·.core))) := by
  have hknown : ([0x01, 0x02, 0x03, 0x04, 0x05, 0x06, 0x08, 0x09, 0x0A, 0x0B, 0x0C, 0x0D, 0x0E, 0x10, 0x18, 0x19, 0x1A, 0x21] :
      List Nat).contains c.toNat = true := by
    have := List.mem_map_of_mem (f := BitVec.toNat) hc
    rw [List.contains_iff_mem]
    exact this
  have h19 : c.toNat = 0x19 ↔ c = 0x19 := by
    rw [← BitVec.toNat_inj]
    rfl
  show execTrapEntry c v x s = _
  simp only [execTrapEntry, hknown, h19, Bool.not_true, Bool.false_eq_true, if_false]

theorem mayEnter_logCause (s : State) (c : Nat) (v : Word) (hm : mayEnter s.hart) : mayEnter (logCause s c v).hart := by
  rwa [logCause_hart]

/-- A hart that runs alone stops no other. -/
theorem spreadTraps_alone (s u : State) (hu : u.hart.core = s.hart.core) (hs : nested s.hart = false)
    (ht : nested u.hart = true) : spreadTraps s u [s.hart.core] = u := by
  have hself : hartAt u s.hart.core = u.hart := by rw [← hu]; exact hartAt_self u
  have hfocus : focus u s.hart.core = u := by rw [← hu]; exact focus_self u
  simp [spreadTraps, hself, hs, ht, hfocus]

theorem trapInstructionsEnter : TrapInstructionsEnter := by
  intro s hm
  refine ⟨fun c => ⟨_, rfl, takeTrap_entered s _ hm⟩, fun c => ⟨_, rfl, takeTrap_entered s _ hm⟩, fun c v x hg hc => ?_⟩
  have hl := mayEnter_logCause s c.toNat v hm
  refine ⟨_, execTrapEntry_known c v x s hc, ?_⟩
  rw [gangNow, if_pos hg, List.map_singleton, spreadTraps_alone s _ (by rw [takeTrap_core _ _ hl, logCause_hart]) hm.1
    (nested_takeTrap _ _ hl)]
  exact entered_of_hart_eq (logCause_hart ..) (takeTrap_entered _ _ hl)

theorem gangTrapsTogether : GangTrapsTogether := by
  intro s c v x hs hmine hm hc
  have hl := mayEnter_logCause s c.toNat v (hm _ hmine)
  refine ⟨_, execTrapEntry_known c v x s (List.mem_append_left [0x21] hc), ?_⟩
  generalize hepc : (if c = 0x19 then s.hart.pc + 4 else s.hart.pc) = epc
  generalize hu : takeTrap (logCause s c.toNat v) ⟨c.toNat, v, x, epc, s.hart.pc, s.hart.ir, 0, 0, 0⟩ = u
  have hent : entered s u c.toNat v x epc := by
    rw [← hu]; exact entered_of_hart_eq (logCause_hart ..) (takeTrap_entered _ _ hl)
  have hcore : u.hart.core = s.hart.core := by rw [← hu, takeTrap_core _ _ hl, logCause_hart]
  have hothers : u.others = s.others := by rw [← hu, takeTrap_others _ _ hl.1, logCause_others]
  have hcores : coresOf u = coresOf s := by simp only [coresOf, hcore, hothers]
  have hat : ∀ h ∈ gangNow s, hartAt s h.core = h := fun h hh => hartAt_of_mem s hs h (gangNow_sub s h hh)
  have hrest : ∀ h ∈ gangNow s, h.core ≠ s.hart.core → hartAt u h.core = h := fun h hh hne =>
    (hartAt_other_congr hcore hothers h.core hne).trans (hat h hh)
  have hmineCore : s.hart.core ∈ (gangNow s).map (·.core) := List.mem_map_of_mem hmine
  have hfree : ∀ c ∈ (gangNow s).map (·.core), nested (hartAt s c) = false := by
    rw [List.forall_mem_map]
    exact fun h hh => by rw [hat h hh]; exact (hm h hh).1
  rw [spreadTraps_acting s u _ hcore hothers hmineCore hfree (hu ▸ nested_takeTrap _ _ hl)]
  generalize hcs : ((gangNow s).map (·.core)).filter (fun c => c != s.hart.core && (hartAt u c).owner.isSome) = cs
  have hmem : ∀ c, c ∈ cs ↔ c ∈ (gangNow s).map (·.core) ∧ c ≠ s.hart.core ∧ (hartAt u c).owner.isSome = true := by
    intro c
    rw [← hcs, List.mem_filter, Bool.and_eq_true, bne_iff_ne]
  have hnodup : cs.Nodup := hcs ▸ (gangCores_nodup s hs).filter _
  have hin : ∀ c ∈ cs, ∃ h ∈ gangNow s, h.core ≠ s.hart.core ∧ c = h.core := fun c hc => by
    obtain ⟨hg, hne, -⟩ := (hmem c).1 hc
    obtain ⟨h, hh, rfl⟩ := List.mem_map.1 hg
    exact ⟨h, hh, hne, rfl⟩
  have hfold := fun d => hartAt_foldl_memberTrap s.hart.core cs u d (coresApart_of_cores hcores hs) hnodup
    (fun c hc => by obtain ⟨h, hh, -, rfl⟩ := hin c hc; exact hcores ▸ gangNow_core_mem s h hh)
    (fun c hc => by obtain ⟨h, hh, hne, rfl⟩ := hin c hc; rw [hrest h hh hne]; exact hm h hh)
  generalize ht : cs.foldl (memberTrap s.hart.core) u = t at hfold ⊢
  have htcores : coresOf t = coresOf u := by
    rw [← ht]; exact coresOf_foldl _ (coresOf_memberTrap s.hart.core) cs u
  have htapart : coresApart t := coresApart_of_cores (htcores.trans hcores) hs
  have hmineIn : s.hart.core ∈ coresOf t := (htcores.trans hcores) ▸ gangNow_core_mem s s.hart hmine
  constructor
  · have hkeep := (hfold s.hart.core (htcores ▸ hmineIn)).1 (fun hc => ((hmem _).1 hc).2.1 rfl)
    have huh : hartAt u s.hart.core = u.hart := by rw [← hcore]; exact hartAt_self u
    unfold entered
    rw [focus_hart t _ hmineIn, hkeep, huh]
    exact hent
  · intro h hh hne
    have hg : gangSize s.hart ≠ 1 := fun hg => hne (by
      rw [gangNow, if_pos hg] at hh
      rw [List.mem_singleton.1 hh])
    have hhc : h.core ∈ coresOf u := hcores ▸ gangNow_core_mem s h hh
    have hcs : h.core ∈ cs := (hmem _).2 ⟨List.mem_map_of_mem hh, hne, by
      rw [hrest h hh hne]; exact gangNow_owner s hg h hh⟩
    have := (hfold h.core hhc).2 hcs
    rw [hartAt_focus t _ _ htapart (htcores ▸ hhc)]
    rwa [hrest h hh hne] at this

/-! ### The privilege checks -/

theorem jointTrap_alone (s : State) (cause : Nat) (topnd : Word) (hg : gangSize s.hart = 1) (hm : mayEnter s.hart) :
    jointTrap s cause topnd = .next (trapWord s cause topnd) := by
  have hcore : (trapWord s cause topnd).hart.core = s.hart.core := takeTrap_core _ _ hm
  have hfocus := focus_self (trapWord s cause topnd)
  rw [hcore] at hfocus
  simp [jointTrap, eachMember, gangNow, hg, hfocus]

theorem privilegedTraps : PrivilegedTraps := by
  intro s hm
  constructor
  · intro i hi hs
    have hword := trapWord_entered s 0x09 0 hm
    suffices exec i s = .next (trapWord s 0x09 0) from ⟨_, this, hword⟩
    rcases hi with rfl | ⟨⟨d, a, rfl | rfl⟩, hy⟩ | ⟨a, n, rfl⟩ | ⟨hg, ⟨a, rfl⟩ | ⟨d, a, rfl⟩⟩
    · exact privileged_kernel s _ hs
    · show mayClaim s _ = _
      simp [mayClaim, hs, hy]
    · show mayClaim s _ = _
      simp [mayClaim, hs, hy]
    · exact privileged_kernel s _ hs
    · show jointPrivileged s _ = _
      rw [jointPrivileged, hs, ← jointTrap_alone s _ _ hg hm]
      rfl
    · show jointPrivileged s _ = _
      rw [jointPrivileged, hs, ← jointTrap_alone s _ _ hg hm]
      rfl
  · intro hs he
    refine ⟨_, ?_, trapAt_entered s 0x06 _ 0 hm⟩
    have hb : bits s.hart.csr.epc 0 2 ≠ 0 := by simpa [bits] using he
    exact (privileged_supervisor s _ hs).trans (if_pos hb)

/-- Settles O17: each trap and each privilege check is one `takeTrap` (`takeTrap_entered`); a gang's trap is that of the acting
member and then one of every other (`spreadTraps_acting`, `hartAt_foldl_memberTrap`). -/
theorem trapCauses : Obligations.TrapCauses := ⟨trapInstructionsEnter, gangTrapsTogether, privilegedTraps⟩

end Sys2Proof.Claims

/-! The CSR instructions and the rows that write one register (R42, R43, R165, R166, R321). -/

namespace Sys2Proof.Claims

open Sys2Proof.Machine

/-! ### Which registers, and which values -/

theorem csrSupervisor_eq (c : Nat) : csrSupervisor c = csrWritable.csrForSupervisor c := by
  rw [Bool.eq_iff_iff]
  simp [csrSupervisor, csrWritable.csrForSupervisor]
  omega

/-- The writable registers, by number (R42). -/
theorem csrWritable_iff (c : Nat) : csrWritable c = true ↔
    c = 0x002 ∨ c = 0x003 ∨ c = 0x010 ∨ c = 0x011 ∨ c = 0x020 ∨ c = 0x021 ∨ c = 0x030 ∨ c = 0x100 ∨ c = 0x101 ∨ c = 0x102 ∨
      c = 0x103 ∨ c = 0x104 ∨ c = 0x105 := by
  simp [csrWritable, csrWritable.csrForSupervisor]
  omega

/-- A register that R42 lists is either writable or only read. -/
theorem csrReadOnly_eq (s : State) (c : Nat) (old : Word) (h : csrRead s c = some old) : csrReadOnly c = !csrWritable c := by
  unfold csrRead at h
  dsimp only at h
  split at h
  case h_24 => cases h
  all_goals rfl

theorem vtypeOk_iff (v : Word) :
    vtypeOk v = true ↔ v.toNat < 2 ^ 13 ∧ v.toNat % 8 < 4 ∧ v.toNat / 64 % 4 < 3 ∧ v.toNat / 512 % 16 < 5 := by
  have hv := v.isLt
  simp only [vtypeOk, Bool.and_eq_true, beq_iff_eq, bne_iff_ne, ne_eq, decide_eq_true_eq]
  simp only [bits]
  omega

theorem slbaseOk_iff (v : Word) : slbaseOk v = true ↔ v.toNat % 16384 = 0 ∧ 0x100000 ≤ v.toNat ∧ v.toNat ≤ 0x2FC000 := by
  have hv := v.isLt
  simp only [slbaseOk, Bool.and_eq_true, beq_iff_eq, decide_eq_true_eq]
  simp only [bits]
  omega

/-- The cause with which a writable register refuses a value that it does not take (R165). -/
def refusalCause (c : Nat) (v : Word) : Nat :=
  if c = 0x020 ∧ slbaseOk v = true then 0x01 else if c = 0x100 ∧ v.toNat / 4 % 4 = 2 then 0x09 else 0x02

/-- A register's own rule, against the table of the values that it takes (R17, R23, R56, R71, R165, R321). -/
theorem csrRefuses_eq (s : State) (c : Nat) (v : Word) :
    csrRefuses s c v = if csrTakes s c v = true then none else some (refusalCause c v) := by
  have hv := v.isLt
  unfold csrRefuses csrTakes refusalCause
  split
  · simp [vtypeOk_iff]
  · simp
  · have : bits v 13 51 = 0 ↔ v.toNat < 2 ^ 13 := by simp only [bits]; omega
    simp [this]
  · have hok := slbaseOk_iff v
    cases h : slbaseOk v
    · rw [h] at hok
      simp only [Bool.false_eq_true, false_iff] at hok
      simp [hok]
    · simp [hok.1 h]
      cases anySlotBusy s <;> simp
  · simp
  · simp only [show bits v 2 2 = v.toNat / 4 % 4 from rfl]
    by_cases h3 : v.toNat / 4 % 4 = 3
    · simp [h3]
    · by_cases h2 : v.toNat / 4 % 4 = 2
      · by_cases hm : modeOf s.hart = 2 <;> simp [h2, hm]
      · simp [h2, h3]
  · simp

/-! ### What a write leaves -/

/-- A register's value after a write of `v` that it takes (R321). -/
def writtenValue (s : State) (c : Nat) (v : Word) : Word := if c = 0x100 then statusWritten s.hart.csr.status v else v

theorem csrRead_advance (s : State) (x : Nat) : csrRead (advance s) x = csrRead s x := rfl

/-- A write of VTYPE sets it, with VL cut, and closes the open convoy (R35, R43). -/
theorem csrWrite_vtype (s : State) (v : Word) :
    ∃ a b, csrWrite s 0x002 v = { s with hart := { retype s.hart v with convoy := a, closed := b } } := by
  refine ⟨(closeConvoy s).hart.convoy, (closeConvoy s).hart.closed, ?_⟩
  show ({ closeConvoy s with hart := retype (closeConvoy s).hart v } : State) = _
  rw [closeConvoy_frame]
  rfl

/-- A write of VRCFG clears the vector state, and closes the open convoy (R17, R35). -/
theorem csrWrite_vrcfg (s : State) (v : Word) :
    ∃ a b, csrWrite s 0x003 v = { s with hart := { configure s.hart v.toNat with convoy := a, closed := b } } := by
  refine ⟨(closeConvoy s).hart.convoy, (closeConvoy s).hart.closed, ?_⟩
  show ({ closeConvoy s with hart := configure (closeConvoy s).hart v.toNat } : State) = _
  rw [closeConvoy_frame]
  rfl

theorem csrRead_csrWrite_same (s : State) (c : Nat) (v : Word) (hw : csrWritable c = true) (hp : partOf s.hart < 16) :
    csrRead (csrWrite s c v) c = some (writtenValue s c v) := by
  have hv : word v.toNat = v := by simp [word]
  have hage : csrRead (csrWrite s 0x030 v) 0x030 = some v := by
    simp [csrRead, csrWrite, ageOf, hp]
  obtain ⟨a, b, htype⟩ := csrWrite_vtype s v
  obtain ⟨a', b', hcfg⟩ := csrWrite_vrcfg s v
  rcases (csrWritable_iff c).1 hw with rfl | rfl | rfl | rfl | rfl | rfl | rfl | rfl | rfl | rfl | rfl | rfl | rfl
  · rw [htype]; rfl
  · rw [hcfg]; exact congrArg some hv
  case inr.inr.inr.inr.inr.inr.inl => exact hage
  all_goals rfl

/-- Every other register keeps its value, but VL where VTYPE or VRCFG is written (R17, R43). -/
theorem csrRead_csrWrite_other (s : State) (c x : Nat) (v : Word) (hw : csrWritable c = true) (hx : x ≠ c)
    (hvl : x = 0x001 → c ≠ 0x002 ∧ c ≠ 0x003) : csrRead (csrWrite s c v) x = csrRead s x := by
  obtain ⟨a, b, htype⟩ := csrWrite_vtype s v
  obtain ⟨a', b', hcfg⟩ := csrWrite_vrcfg s v
  unfold csrRead
  rcases (csrWritable_iff c).1 hw with rfl | rfl | rfl | rfl | rfl | rfl | rfl | rfl | rfl | rfl | rfl | rfl | rfl
  · rw [htype]
    split <;> first | rfl | exact absurd rfl hx | exact absurd rfl (hvl rfl).1
  · rw [hcfg]
    split <;> first | rfl | exact absurd rfl hx | exact absurd rfl (hvl rfl).2
  all_goals split <;> first | rfl | exact absurd rfl hx

/-- No write of a CSR touches a scalar register, memory or the pc. -/
theorem csrWrite_frame (s : State) (c : Nat) (v : Word) (hw : csrWritable c = true) :
    (csrWrite s c v).hart.regs = s.hart.regs ∧ (csrWrite s c v).mem = s.mem ∧ (csrWrite s c v).hart.pc = s.hart.pc := by
  obtain ⟨a, b, htype⟩ := csrWrite_vtype s v
  obtain ⟨a', b', hcfg⟩ := csrWrite_vrcfg s v
  rcases (csrWritable_iff c).1 hw with rfl | rfl | rfl | rfl | rfl | rfl | rfl | rfl | rfl | rfl | rfl | rfl | rfl
  · rw [htype]; exact ⟨rfl, rfl, rfl⟩
  · rw [hcfg]; exact ⟨rfl, rfl, rfl⟩
  all_goals exact ⟨rfl, rfl, rfl⟩

/-- STATUS takes PVTYPE, MEN and PMODE of what is written, and the rest stays (R321). -/
theorem getLsbD_statusWritten (old v : Word) (k : Nat) (hk : k < 64) :
    (statusWritten old v).getLsbD k =
      if (32 ≤ k ∧ k < 45) ∨ k = 4 ∨ k = 2 ∨ k = 3 then v.getLsbD k else old.getLsbD k := by
  simp only [statusWritten, getLsbD_setBits _ _ _ _ _ hk, testBit_bits]
  by_cases h2 : 2 ≤ k ∧ k < 2 + 2
  · rw [if_pos h2, if_pos (by omega), show 2 + (k - 2) = k by omega]
    simp only [show k - 2 < 2 by omega, decide_true, Bool.true_and]
  · rw [if_neg h2]
    by_cases h4 : 4 ≤ k ∧ k < 4 + 1
    · rw [if_pos h4, if_pos (by omega), show 4 + (k - 4) = k by omega]
      simp only [show k - 4 < 1 by omega, decide_true, Bool.true_and]
    · rw [if_neg h4]
      by_cases h32 : 32 ≤ k ∧ k < 32 + 13
      · rw [if_pos h32, if_pos (by omega), show 32 + (k - 32) = k by omega]
        simp only [show k - 32 < 13 by omega, decide_true, Bool.true_and]
      · rw [if_neg h32, if_neg (by omega)]

/-! ### The access -/

/-- A write of a register that R42 lists and the mode may write: performed, or refused by the register's own rule (R165). -/
theorem csrPut_writable (s : State) (c : Nat) (f : Word → Word) (k : State → State) (old : Word) (hr : csrRead s c = some old)
    (hw : csrWritable c = true) (hs : csrWritable.csrForSupervisor c = true → supervisor s.hart = true) :
    csrPut s c f k = if csrTakes s c (f old) = true then .next (k (csrWrite s c (f old)))
      else .next (trapWord s (refusalCause c (f old)) 0) := by
  have hprot : (csrSupervisor c && !supervisor s.hart) = false := by
    rw [csrSupervisor_eq]
    cases h : csrWritable.csrForSupervisor c
    · rfl
    · rw [hs h]; rfl
  simp only [csrPut, hr, csrReadOnly_eq s c old hr, hw, hprot, csrRefuses_eq, Bool.not_true, Bool.false_eq_true, if_false]
  by_cases ht : csrTakes s c (f old) = true
  · rw [if_pos ht, if_pos ht]
  · rw [if_neg ht, if_neg ht]

/-- The rows that write one register wait for nothing but VTYPE's and VRCFG's (R43). -/
theorem afterVector_done (s : State) (k : Out) (h : vectorDone s.hart) : afterVector s k = k := by
  obtain ⟨hb, hg⟩ := h
  simp [afterVector, hb, hg]

theorem afterVector_waits (s : State) (k : Out) (h : ¬vectorDone s.hart) : afterVector s k = .next (stall s) := by
  have : (vectorBusy s.hart || !(gatherRegs s.hart).isEmpty) = true := by
    by_contra hc
    rw [Bool.not_eq_true, Bool.or_eq_false_iff, Bool.not_eq_false', List.isEmpty_iff] at hc
    exact h hc
  simp [afterVector, this]

/-- How a write ends: an instruction goes on to the next word, a row leaves the pc. -/
def writeEnds (step : Word) (k : State → State) : Prop := (step = 4 ∧ k = advance) ∨ (step = 0 ∧ k = id)

/-- A CSR instruction or row is the access of R165 on its register. -/
theorem exec_csrChange (s : State) (i : Instr) (c : Nat) (f : Word → Word) (step : Word)
    (hi : csrChange (getReg s) i = some (c, f, step)) (hv : rowMayWrite s c step) :
    ∃ k, exec i s = csrPut s c f k ∧ writeEnds step k := by
  unfold csrChange at hi
  split at hi
  all_goals cases hi
  · exact ⟨advance, rfl, .inl ⟨rfl, rfl⟩⟩
  · exact ⟨advance, rfl, .inl ⟨rfl, rfl⟩⟩
  · exact ⟨advance, rfl, .inl ⟨rfl, rfl⟩⟩
  · exact ⟨id, afterVector_done s _ (hv rfl (.inl rfl)), .inr ⟨rfl, rfl⟩⟩
  · exact ⟨id, afterVector_done s _ (hv rfl (.inr rfl)), .inr ⟨rfl, rfl⟩⟩
  · exact ⟨id, rfl, .inr ⟨rfl, rfl⟩⟩
  · exact ⟨id, rfl, .inr ⟨rfl, rfl⟩⟩
  · exact ⟨id, rfl, .inr ⟨rfl, rfl⟩⟩
  · exact ⟨id, rfl, .inr ⟨rfl, rfl⟩⟩
  · exact ⟨id, rfl, .inr ⟨rfl, rfl⟩⟩
  · next c v =>
    refine ⟨id, ?_, .inr ⟨rfl, rfl⟩⟩
    show execRegisterWrite c v s = _
    unfold execRegisterWrite
    dsimp only
    split
    · next h => exact afterVector_done s _ (hv rfl h)
    · rfl

/-! ### The statements -/

theorem csrReadResults : CsrReadResults := by
  intro s d c v hr hs hf
  have hprot : (csrSupervisor c.toNat && !supervisor s.hart) = false := by
    rw [csrSupervisor_eq]
    cases h : csrWritable.csrForSupervisor c.toNat
    · rfl
    · rw [hs h]; rfl
  have hexec : exec (.csrr d c) s = .next (advance (setReg s d v)) := by
    show execCsrr d c s = _
    rw [execCsrr, hprot, guardWrite_free s d _ hf, hr]
    rfl
  refine ⟨_, hexec, ?_, fun r hrd => ?_, ?_, ?_⟩
  · rw [getReg_advance, getReg_setReg_same]
  · rw [getReg_advance, getReg_setReg_other s d r v hrd]
  · simp
  · unfold advance setPc setReg
    split <;> rfl

theorem csrWriteResults : CsrWriteResults := by
  intro s i c f step old hi hw hr hs ht hp hv
  obtain ⟨k, hexec, hk⟩ := exec_csrChange s i c f step hi hv
  rw [csrPut_writable s c f k old hr hw hs, if_pos ht] at hexec
  have hread : ∀ x, csrRead (k (csrWrite s c (f old))) x = csrRead (csrWrite s c (f old)) x := by
    rcases hk with ⟨-, rfl⟩ | ⟨-, rfl⟩
    · exact csrRead_advance _
    · exact fun _ => rfl
  obtain ⟨hregs, hmem, hpc⟩ := csrWrite_frame s c (f old) hw
  refine ⟨_, writtenValue s c (f old), hexec, ?_, fun b hb => ?_, fun x hx hvl => ?_, ?_, ?_, ?_⟩
  · rw [hread, csrRead_csrWrite_same s c _ hw hp]
  · unfold writtenValue
    by_cases hc : c = 0x100
    · subst hc
      cases hr
      rw [if_pos rfl, getLsbD_statusWritten _ _ _ hb]
      by_cases h : (32 ≤ b ∧ b < 45) ∨ b = 4 ∨ b = 2 ∨ b = 3 <;> simp [h]
    · simp [hc]
  · rw [hread, csrRead_csrWrite_other s c x _ hw hx hvl]
  · rcases hk with ⟨-, rfl⟩ | ⟨-, rfl⟩ <;> exact hregs
  · rcases hk with ⟨-, rfl⟩ | ⟨-, rfl⟩ <;> exact hmem
  · rcases hk with ⟨rfl, rfl⟩ | ⟨rfl, rfl⟩
    · rw [advance_hart_pc, hpc]
    · simpa using hpc

theorem csrRefusals : CsrRefusals := by
  intro s i c f step hi hm hv
  obtain ⟨k, hexec, -⟩ := exec_csrChange s i c f step hi hv
  rw [hexec]
  constructor
  · intro hr
    refine ⟨_, ?_, trapWord_entered s 0x01 0 hm⟩
    simp only [csrPut, hr]
  · intro old hr
    refine ⟨fun hw => ⟨_, ?_, trapWord_entered s 0x01 0 hm⟩, fun hs hk => ?_, fun hw hs ht => ?_⟩
    · simp only [csrPut, hr, csrReadOnly_eq s c old hr, hw, Bool.not_false, if_true]
    · have hw : csrWritable c = true := by simp [csrWritable, hs]
      refine ⟨_, ?_, trapWord_entered s 0x09 0 hm⟩
      simp [csrPut, hr, csrReadOnly_eq s c old hr, hw, csrSupervisor_eq, hs, hk]
    · refine ⟨_, refusalCause c (f old), ?_, trapWord_entered s _ 0 hm, rfl⟩
      rw [csrPut_writable s c f k old hr hw hs, if_neg (by rw [ht]; decide)]

theorem csrReadRefusals : CsrReadRefusals := by
  intro s d c hf hm
  show (_ → ∃ t, execCsrr d c s = _ ∧ _) ∧ (_ → _ → ∃ t, execCsrr d c s = _ ∧ _)
  constructor
  · intro hr
    have hprot : csrSupervisor c.toNat = false := by
      by_contra hc
      rw [Bool.not_eq_false, csrSupervisor_eq] at hc
      have hw : csrWritable c.toNat = true := by simp [csrWritable, hc]
      rcases (csrWritable_iff _).1 hw with h | h | h | h | h | h | h | h | h | h | h | h | h <;>
        simp [csrRead, h] at hr
    refine ⟨_, ?_, trapWord_entered s 0x01 0 hm⟩
    rw [execCsrr, hprot, guardWrite_free s d _ hf, hr]
    rfl
  · intro hs hk
    refine ⟨_, ?_, trapWord_entered s 0x09 0 hm⟩
    rw [execCsrr, csrSupervisor_eq, hs, hk]
    rfl

theorem vectorCsrSideEffects : VectorCsrSideEffects := by
  intro s v i j hi hj
  have hexecI : exec i s = afterVector s (csrPut s 0x003 (fun _ => v) id) := by rcases hi with rfl | rfl <;> rfl
  have hexecJ : exec j s = afterVector s (csrPut s 0x002 (fun _ => v) id) := by rcases hj with rfl | rfl <;> rfl
  refine ⟨fun hd ht => ?_, fun hd ht => ?_, fun hd => ?_⟩
  · obtain ⟨a, b, hcfg⟩ := csrWrite_vrcfg s v
    rw [afterVector_done s _ hd, csrPut_writable s 0x003 _ id _ rfl rfl (fun h => absurd h (by decide)), if_pos ht, hcfg] at hexecI
    refine ⟨_, hexecI, rfl, rfl, fun r => ⟨?_, ?_⟩, fun m => ⟨?_, ?_⟩⟩
    · simp [configure, Vec.start]
    · exact BitVec.getLsbD_allOnes.trans (decide_eq_true r.isLt)
    · simp [configure, Vec.start]
    · exact BitVec.getLsbD_allOnes.trans (decide_eq_true m.isLt)
  · obtain ⟨a, b, htype⟩ := csrWrite_vtype s v
    rw [afterVector_done s _ hd, csrPut_writable s 0x002 _ id _ rfl rfl (fun h => absurd h (by decide)), if_pos ht, htype] at hexecJ
    refine ⟨_, hexecJ, ?_⟩
    show (if vlmax { s.hart.csr with vtype := v } < s.hart.csr.vl.toNat then word (vlmax { s.hart.csr with vtype := v })
      else s.hart.csr.vl).toNat = min _ _
    have hlt := s.hart.csr.vl.isLt
    split
    · next h => rw [word, BitVec.toNat_ofNat, Nat.mod_eq_of_lt (by omega), Nat.min_eq_right h.le]
    · next h => rw [Nat.min_eq_left (by omega)]
  · rw [hexecI, hexecJ, afterVector_waits s _ hd, afterVector_waits s _ hd]
    exact ⟨rfl, rfl⟩

/-! ### The words -/

/-- The word of a CSR instruction: its template, its registers, the CSR's number and its funct4 (R165). -/
def csrWord (d a : SReg) (c : BitVec 12) (k : Nat) : Nat :=
  0x74000000 + d.val * 2 ^ 21 + a.val * 2 ^ 16 + c.toNat * 2 ^ 4 + k

section Fields

variable (d a : SReg) (c : BitVec 12) (k : Nat) (hk : k < 16)
include hk

theorem fld_csrWord : fld (csrWord d a c k) 26 6 = 29 ∧ fld (csrWord d a c k) 21 5 = d.val ∧
    fld (csrWord d a c k) 16 5 = a.val ∧ fld (csrWord d a c k) 0 4 = k := by
  have hd := d.isLt
  have ha := a.isLt
  have hc := c.isLt
  simp only [fld, csrWord, Nat.reducePow] at *
  omega

theorem sreg_csrWord : sreg (csrWord d a c k) 21 = d ∧ sreg (csrWord d a c k) 16 = a := by
  obtain ⟨-, hd, ha, -⟩ := fld_csrWord d a c k hk
  exact ⟨Fin.ext hd, Fin.ext ha⟩

theorem number_csrWord : BitVec.ofNat 12 (csrWord d a c k / 2 ^ 4) = c := by
  have hd := d.isLt
  have ha := a.isLt
  have hc := c.isLt
  apply BitVec.eq_of_toNat_eq
  simp only [BitVec.toNat_ofNat, csrWord, Nat.reducePow] at *
  omega

/-- How the word of a CSR instruction decodes. -/
theorem decode_csrWord : decode (csrWord d a c k) = decode1D (csrWord d a c k) := by
  simp only [decode, (fld_csrWord d a c k hk).1]

end Fields

/-- CSRR has rd, and its rs1 is reserved. -/
theorem decode_csrrWord (d a : SReg) (c : BitVec 12) :
    decode (csrWord d a c 0) = okIf (a.val == 0) (.csrr d c) := by
  obtain ⟨-, -, ha, hk⟩ := fld_csrWord d a c 0 (by decide)
  rw [decode_csrWord d a c 0 (by decide), decode1D, hk]
  simp only [ha, (sreg_csrWord d a c 0 (by decide)).1, number_csrWord d a c 0 (by decide)]

/-- CSRW, CSRS and CSRC have rs1, and their rd is reserved. -/
theorem decode_csrChangeWord (d a : SReg) (c : BitVec 12) :
    decode (csrWord d a c 1) = okIf (d.val == 0) (.csrw a c) ∧ decode (csrWord d a c 2) = okIf (d.val == 0) (.csrs a c) ∧
      decode (csrWord d a c 3) = okIf (d.val == 0) (.csrc a c) := by
  have hw : ∀ k < 16, decode (csrWord d a c k) = decode1D (csrWord d a c k) ∧ fld (csrWord d a c k) 0 4 = k ∧
      fld (csrWord d a c k) 21 5 = d.val ∧ sreg (csrWord d a c k) 16 = a ∧ BitVec.ofNat 12 (csrWord d a c k / 2 ^ 4) = c :=
    fun k hk => ⟨decode_csrWord d a c k hk, (fld_csrWord d a c k hk).2.2.2, (fld_csrWord d a c k hk).2.1,
      (sreg_csrWord d a c k hk).2, number_csrWord d a c k hk⟩
  refine ⟨?_, ?_, ?_⟩
  · obtain ⟨hdec, hk, hd, ha, hc⟩ := hw 1 (by decide)
    rw [hdec, decode1D, hk]
    simp only [hd, ha, hc]
  · obtain ⟨hdec, hk, hd, ha, hc⟩ := hw 2 (by decide)
    rw [hdec, decode1D, hk]
    simp only [hd, ha, hc]
  · obtain ⟨hdec, hk, hd, ha, hc⟩ := hw 3 (by decide)
    rw [hdec, decode1D, hk]
    simp only [hd, ha, hc]

theorem okIf_reserved (x : SReg) (i : Instr) (hx : x ≠ 0) : ∃ j, okIf (x.val == 0) i = .reserved j := by
  have : (x.val == 0) = false := by simpa using fun h => hx (Fin.ext h)
  exact ⟨some i, by rw [this]; rfl⟩

theorem csrWords : CsrWords := by
  intro d a c
  obtain ⟨h1, h2, h3⟩ := decode_csrChangeWord 0 a c
  obtain ⟨hd1, hd2, hd3⟩ := decode_csrChangeWord d a c
  refine ⟨decode_csrrWord d 0 c, h1, h2, h3, fun ha => ?_, fun k hlo hhi hd => ?_⟩
  · exact (decode_csrrWord d a c).symm ▸ okIf_reserved a _ ha
  · show ∃ i, decode (csrWord d a c k) = .reserved i
    obtain rfl | rfl | rfl : k = 1 ∨ k = 2 ∨ k = 3 := by omega
    · exact hd1 ▸ okIf_reserved d _ hd
    · exact hd2 ▸ okIf_reserved d _ hd
    · exact hd3 ▸ okIf_reserved d _ hd

/-- Settles O13: a write is the table of R165 (`csrPut_writable`) and its effect on each register (`csrRead_csrWrite_same`,
`csrRead_csrWrite_other`). -/
theorem csrAccessResults : Obligations.CsrAccessResults :=
  ⟨csrReadResults, csrWriteResults, vectorCsrSideEffects, csrRefusals, csrReadRefusals, csrWords⟩

end Sys2Proof.Claims

/-! Virtual processors (R15, R138, R203 to R206): taking a block fetches words and sets tags, and the registers, the scratchpad
and the CSRs of the hart stay. -/

namespace Sys2Proof.Machine

/-! ### What a walk and its caching leave (R330, R333) -/

/-- A relation that holds between a state and what one step of a translation makes of it: an entry written at its home, a miss
counted or a translation cached in a core, a translation cached in a die. -/
structure WalkKeeps (R : State → State → Prop) : Prop where
  refl : ∀ s, R s s
  trans : ∀ {s t u}, R s t → R t u → R s u
  write : ∀ s keep pa size v, R s (writeHome s keep pa size v)
  core : ∀ s c (f : Hart → Hart), (∀ g, ∃ banks tlb, f g = { g with banks := banks, tlb := tlb }) → R s (onCore s c f)
  die : ∀ s l, R s { s with dieTlb := l }

section Walk

variable {R : State → State → Prop} (hR : WalkKeeps R)
include hR

theorem WalkKeeps.markEntry (s : State) (part pa : Nat) (wr : Bool) : R s (markEntry s part pa wr).2 := by
  unfold Machine.markEntry
  generalize (if wr then 0x300#64 else 0x100#64) = mark
  dsimp only
  split
  · exact hR.refl s
  · exact hR.write ..

theorem WalkKeeps.markUsed (s : State) (part : Nat) (es : List (Nat × Bool)) (wr : Bool) : R s (markUsed s part es wr) := by
  fun_induction Machine.markUsed s part es wr with
  | case1 => exact hR.refl _
  | case2 s own e rest r ih =>
    refine hR.trans ?_ ih
    split
    · exact hR.trans (hR.markEntry ..) (hR.markEntry ..)
    · exact hR.markEntry ..
  | case3 s x rest _ ih => exact hR.trans (hR.markEntry ..) ih

theorem WalkKeeps.markTables (s : State) (core part va : Nat) : R s (markTables s core part va) := by
  have hfold : ∀ (es : List Nat) (s : State), R s (es.foldl (fun s x => (Machine.markEntry s part x false).2) s) := by
    intro es
    induction es with
    | nil => exact hR.refl
    | cons x xs ih => exact fun s => hR.trans (hR.markEntry ..) (ih _)
  unfold Machine.markTables
  split
  · exact hR.refl s
  · split
    · exact hR.refl s
    · exact hfold _ _

theorem WalkKeeps.cacheEntry (s : State) (core : Nat) (e : TlbEntry) : R s (cacheEntry s core e) :=
  hR.trans (hR.core s core _ (fun g => ⟨g.banks, (e :: g.tlb).take 64, rfl⟩)) (hR.die _ _)

theorem WalkKeeps.lookup (s : State) (core part va : Nat) : R s (lookup s core part va).2 := by
  have hcount : R s (onCore s core (fun h => countHart h 0x0E 8 1)) :=
    hR.core s core _ (fun g => ⟨(countHart g 0x0E 8 1).banks, g.tlb, countHart_frame ..⟩)
  unfold Machine.lookup
  split
  · exact hR.refl s
  · dsimp only
    split
    · next e _ => exact hR.trans hcount (hR.core _ core (fun h => { h with tlb := (e :: h.tlb).take 64 })
        (fun g => ⟨g.banks, (e :: g.tlb).take 64, rfl⟩))
    · have htables := hR.trans hcount (hR.markTables _ core part va)
      split
      · exact htables
      · split
        · exact hR.trans htables (hR.trans (hR.cacheEntry ..) (hR.cacheEntry ..))
        · exact hR.trans htables (hR.cacheEntry ..)

theorem WalkKeeps.permitted (s : State) (core part : Nat) (super : Bool) (va : Word) (a : Access) :
    R s (permitted s core part super va a).2 := by
  have h := hR.lookup s core part va.toNat
  unfold Machine.permitted
  split
  · exact hR.refl s
  · dsimp only
    split
    · exact h
    · split
      · exact h
      · split <;> exact h

theorem WalkKeeps.probe (s : State) (core part : Nat) (super : Bool) (va : Word) (size : Nat) (a : Access) :
    R s (probe s core part super va size a).2 := by
  have h := hR.permitted s core part super va a
  unfold Machine.probe
  dsimp only
  split
  · split
    · exact h
    · split <;> exact h
  · exact h

theorem WalkKeeps.translate (s : State) (core part : Nat) (super : Bool) (va : Word) (size : Nat) (a : Access) :
    R s (translate s core part super va size a).2 :=
  hR.trans (hR.probe ..) (hR.markUsed ..)

end Walk

theorem onCore_keeps {α : Type} (p : Hart → α) (s : State) (c : Nat) (f : Hart → Hart) (h : ∀ g, p (f g) = p g) :
    p (onCore s c f).hart = p s.hart := by
  unfold onCore
  split
  · exact h _
  · rfl

/-- What a walk does to the acting hart is its banks and its TLB. -/
theorem walkKeeps_hart {α : Type} (p : Hart → α) (h : ∀ g banks tlb, p { g with banks := banks, tlb := tlb } = p g) :
    WalkKeeps (fun s u => p u.hart = p s.hart) where
  refl _ := rfl
  trans h1 h2 := h2.trans h1
  write s keep pa size v := congrArg p (writeHome_hart s keep pa size v)
  core s c f hf := by
    refine onCore_keeps p s c f (fun g => ?_)
    obtain ⟨banks, tlb, hg⟩ := hf g
    rw [hg, h]
  die _ _ := rfl

/-! ### What fetching leaves -/

/-- What of a hart neither translation nor fetching touches: pc, scalar registers, CSRs, local memories, vector and mask
registers. -/
def dataOf (h : Hart) := (h.pc, h.regs, h.csr, h.spad, h.sdm, h.vec.vrf, h.vec.masks)

theorem dataOf_translate (s : State) (core part : Nat) (super : Bool) (va : Word) (size : Nat) (a : Access) :
    dataOf (translate s core part super va size a).2.hart = dataOf s.hart :=
  (walkKeeps_hart dataOf (fun _ _ _ => rfl)).translate s core part super va size a

theorem dataOf_fetch (s : State) (cache : Nat) (va : Word) : dataOf (fetch s cache va).2.hart = dataOf s.hart := by
  have h := dataOf_translate s s.hart.core (partOf s.hart) (supervisor s.hart) va 4 .exec
  fun_cases fetch s cache va with
  | case1 | case2 | case3 => rfl
  | case4 | case5 | case6 | case7 => exact h
  | case8 =>
    dsimp only
    split <;> exact h

/-! ### What taking a block leaves (R204) -/

theorem dataOf_takeBlock (s : State) (cluster : Nat) (va : Word) (len : Nat) (k : Block) :
    dataOf (takeBlock s cluster va len k).state.hart = dataOf s.hart := by
  fun_induction takeBlock s cluster va len k with
  | case1 => rfl
  | case2 => exact dataOf_fetch ..
  | case3 _ _ _ _ _ _ _ _ _ _ _ _ _ _ _ _ ih => exact ih.trans (dataOf_fetch ..)
  | case4 | case5 | case6 | case7 => rename_i ih; exact ih.trans (dataOf_fetch ..)

theorem dataOf_takeBlocks (s : State) (va : Word) (len : Nat) (cs : List Nat) (k : BlockSet) :
    dataOf (takeBlocks s va len cs k).state.hart = dataOf k.state.hart := by
  fun_induction takeBlocks s va len cs k with
  | case1 => rfl
  | case2 => exact dataOf_takeBlock ..
  | case3 => rename_i ih; exact ih.trans (dataOf_takeBlock ..)

theorem dataOf_vfProgress (h : Hart) (ds ms : List Nat) (vps : List Vp) (n : Nat) :
    dataOf (vfProgress h ds ms vps n) = dataOf h := by
  have hfold : ∀ (f : Hart → Nat → Hart), (∀ g x, dataOf (f g x) = dataOf g) → ∀ (xs : List Nat) g,
      dataOf (xs.foldl f g) = dataOf g := by
    intro f hf xs
    induction xs with
    | nil => exact fun _ => rfl
    | cons x xs ih => exact fun g => (ih _).trans (hf g x)
  unfold vfProgress
  split
  · refine (hfold _ ?_ ms _).trans (hfold _ ?_ ds h) <;> exact fun _ _ => rfl
  · refine (hfold _ ?_ ms _).trans (hfold _ ?_ ds h) <;> exact fun _ _ => rfl

/-! ### Targets, and the VP that executes -/

/-- A target is a signed count of words (R130). -/
theorem vpTarget_eq (pc : Word) (o : BitVec 19) : vpTarget pc o = pc + 4 * o.signExtend 64 := by
  rw [vpTarget, BitVec.shiftLeft_eq_mul_twoPow, BitVec.mul_comm]
  rfl

theorem vpOf_none (s : State) (h : s.hart.vpNow = none) : vpOf s = none := by
  unfold vpOf
  rw [h]
  split <;> simp_all

theorem vpOf_only (s : State) (r : VfRun) (v : Vp) (hr : s.hart.vf = some r) (hn : s.hart.vpNow = some v.elem)
    (hv : r.vps.filter (fun y => y.elem == v.elem) = [v]) : vpOf s = some v := by
  simp only [vpOf, hr, hn]
  rw [← List.head?_filter, hv]
  rfl

end Sys2Proof.Machine

namespace Sys2Proof.Claims

open Sys2Proof.Machine

/-- What a VF leaves running on its block: a virtual processor for each active element (R203, R204). -/
def startedRun (s : State) (b : Word) (len : Nat) (k : BlockSet) (es : List Nat) : Option VfRun :=
  if es = [] then none else
    some ⟨s.hart.vnow, s.hart.ir, s.hart.pc, b, len, k.words, s.hart.regs, s.hart.csr.vtype, s.hart.csr.vl,
      es.map (fun e => ⟨e, b, some 0, 0⟩), k.dests, k.masks⟩

/-- VF takes its block and starts its virtual processors (R203, R204). -/
theorem vf_starts (s : State) (m : MReg) (l : Fin 16) (o : BitVec 19) (hvf : s.hart.vf = none) :
    let b := s.hart.pc + 4 * o.signExtend 64
    let es := (List.range (lengthOf s.hart)).filter (active s.hart m)
    let cs := if es = [] then [0] else (es.map (fun e => e % 64 / 8)).eraseDups
    let k := takeBlocks s b (l.val + 1) cs ⟨s, [], [], [], none⟩
    k.fail = none → ∃ t, exec (.vf m l o) s = .next t ∧ t.hart.pc = s.hart.pc + 4 ∧ t.hart.regs = s.hart.regs ∧
      t.hart.spad = s.hart.spad ∧ t.hart.vec.vrf = s.hart.vec.vrf ∧ t.hart.vec.masks = s.hart.vec.masks ∧
      t.hart.vf = if es = [] then none else
        some ⟨s.hart.vnow, s.hart.ir, s.hart.pc, b, l.val + 1, k.words, s.hart.regs, s.hart.csr.vtype, s.hart.csr.vl,
          es.map (fun e => ⟨e, b, some 0, 0⟩), k.dests, k.masks⟩ := by
  intro b es cs k hfail
  have hcs : (if es.isEmpty then [0] else (es.map laneCluster).eraseDups) = cs := by simp only [List.isEmpty_iff]; rfl
  have hexec : exec (.vf m l o) s = .next (advance { k.state with hart := { vfProgress k.state.hart k.dests k.masks
      (es.map (fun e => ⟨e, b, some 0, 0⟩)) (lengthOf s.hart) with vf := startedRun s b (l.val + 1) k es } }) := by
    show execVf m l o s = _
    simp only [execVf, hvf, Option.isSome_none, Bool.false_eq_true, if_false, vpTarget_eq]
    rw [hcs, show takeBlocks s _ _ cs _ = k from rfl, hfail]
    simp only [List.isEmpty_iff, List.map_eq_nil_iff]
    rfl
  have hdata : dataOf (vfProgress k.state.hart k.dests k.masks (es.map (fun e => ⟨e, b, some 0, 0⟩)) (lengthOf s.hart)) =
      dataOf s.hart := (dataOf_vfProgress ..).trans (dataOf_takeBlocks ..)
  simp only [dataOf, Prod.mk.injEq] at hdata
  obtain ⟨hpc, hregs, -, hspad, -, hvrf, hmasks⟩ := hdata
  exact ⟨_, hexec, congrArg (· + 4) hpc, hregs, hspad, hvrf, hmasks, rfl⟩

/-- VPF and VPSTOP of the virtual processor that executes (R205). -/
theorem vp_controls (s : State) (r : VfRun) (v : Vp) (hr : s.hart.vf = some r) (hn : s.hart.vpNow = some v.elem)
    (hv : r.vps.filter (fun y => y.elem == v.elem) = [v]) :
    (∀ l o, exec (.vpf l o) s = .next { s with hart := { s.hart with vf := some { r with
      vps := r.vps.map (fun y => if y.elem = v.elem then { v with pc := v.pc + 4 * o.signExtend 64, word := none } else y) } } }) ∧
    (let rest := r.vps.filter (fun y => y.elem != v.elem)
    ∃ t, exec .vpstop s = .next t ∧ sameData s t ∧ t.hart.pc = s.hart.pc ∧
      t.hart.csr = { s.hart.csr with fcsr := s.hart.csr.fcsr ||| word (v.flags % 32) } ∧
      t.hart.vf = if rest = [] then none else some { r with vps := rest }) := by
  have hvp := vpOf_only s r v hr hn hv
  refine ⟨fun l o => ?_, ?_⟩
  · show execVpf l o s = _
    simp only [execVpf, hvp, putVp, hr, vpTarget_eq]
  · have hexec : exec .vpstop s = .next (finishVp s v) := by
      show execVpstop s = _
      rw [execVpstop, hvp]
    have hdata := dataOf_vfProgress (orFlags { s.hart with vf := some { r with vps := r.vps.filter (fun y => y.elem != v.elem) } }
      v.flags) r.dests r.maskDests (r.vps.filter (fun y => y.elem != v.elem))
      (if s.hart.vec.matrix then s.hart.csr.mvl.toNat else r.vl.toNat)
    simp only [dataOf, Prod.mk.injEq] at hdata
    obtain ⟨hpc, hregs, hcsr, hspad, hsdm, -, -⟩ := hdata
    simp only [finishVp, putVp, hr, List.isEmpty_iff] at hexec
    exact ⟨_, hexec, ⟨hregs, rfl, hspad, hsdm⟩, hpc, hcsr, rfl⟩

/-- Settles O45: taking a block leaves the hart's data (`dataOf_takeBlocks`), and so does the progress that VF and VPSTOP move
(`dataOf_vfProgress`). -/
theorem virtualProcessors : Obligations.VirtualProcessors := by
  intro s
  refine ⟨vf_starts s, vp_controls s, fun i hi hn hm => ?_, fun hvf => ⟨advance s, ?_, rfl⟩, fun hvf => ?_⟩
  · refine ⟨_, ?_, trapWord_entered s 0x01 0 hm⟩
    rcases hi with rfl | ⟨l, o, rfl⟩
    · show execVpstop s = _
      rw [execVpstop, vpOf_none s hn]
    · show execVpf l o s = _
      rw [execVpf, vpOf_none s hn]
  · show execVpjoin s = _
    rw [execVpjoin, hvf]
    rfl
  · show execVpjoin s = _
    rw [execVpjoin, if_pos (Option.isSome_iff_ne_none.2 hvf)]
    rfl

end Sys2Proof.Claims

/-! The checks of the vector operands of an elementwise instruction, in their order (R20, R178, R179, R185). -/

namespace Sys2Proof.Claims

open Sys2Proof.Machine

/-! ### The word of a row -/

/-- Each row of the elementwise table is the elementwise instruction of its word (R175). -/
theorem exec_elemRow (s : State) (i : Instr) (o : ElemOp) (d : Nat) (srcs : List Nat) (m : MReg)
    (h : elemRow (getReg s) i = some (o, d, srcs, m)) : exec i s = elementwise s ⟨o, d, srcs, m⟩ := by
  unfold elemRow at h
  split at h <;> cases h <;> rfl

/-- VBCAST has no vector source (R193). -/
theorem elemRow_bcast (R : SReg → Word) (i : Instr) (x : Word) (d : Nat) (srcs : List Nat) (m : MReg)
    (h : elemRow R i = some (.bcast x, d, srcs, m)) : srcs = [] := by
  unfold elemRow at h
  split at h <;> cases h
  rfl

/-- The destinations and sources that step 1 of R20 checks. -/
theorem vectorOperands_eq (o : ElemOp) (d : Nat) (srcs : List Nat) (m : MReg) :
    (if (⟨o, d, srcs, m⟩ : ElemWord).toMask then none else some d : Option Nat).toList ++ srcs = vectorOperands o d srcs := by
  unfold ElemWord.toMask vectorOperands
  cases o <;> rfl

/-- A word that R20 rejects traps at its own address, with the word in TVAL (R139, R149). -/
theorem operandTrap_of_rejects (s : State) (i : Instr) (w : ElemWord) (cause r : Nat) (hexec : exec i s = elementwise s w)
    (hm : mayEnter s.hart) (he : s.hart.restart.epc = none) (h : w.rejects s.hart = some (cause, topndV r 0)) :
    operandTrap s i cause r := by
  have htop : topndV r 0 = word (r + 512) := by simp [topndV, operandWord]
  rw [elementwise, h] at hexec
  simp only [vecTrap, vecTrapAt_fresh s _ _ _ he, htop] at hexec
  exact ⟨_, hexec, takeTrap_entered s _ hm⟩

/-! ### Registers -/

/-- The first operand that a test rejects. -/
theorem find?_first {α : Type} (p : α → Bool) (before after : List α) (r : α) (hb : ∀ q ∈ before, p q = false) (hr : p r = true) :
    (before ++ r :: after).find? p = some r :=
  List.find?_eq_some_iff_append.2 ⟨hr, before, after, rfl, fun q hq => by simp [hb q hq]⟩

theorem registerTraps : RegisterTraps := by
  intro s i o d srcs m hrow hm he g before r after hops
  have hreject : ∀ cause, regsFail s.hart.csr (before ++ r :: after) = some (cause, r) →
      (⟨o, d, srcs, m⟩ : ElemWord).rejects s.hart = some (cause, topndV r 0) := by
    intro cause h
    rw [← hops, ← vectorOperands_eq o d srcs m] at h
    simp only [ElemWord.rejects, h]
  refine ⟨fun hb hr => ?_, fun hall hb hr => ?_⟩
  · refine operandTrap_of_rejects s i _ 0x05 r (exec_elemRow s i o d srcs m hrow) hm he (hreject _ ?_)
    rw [regsFail, find?_first _ before after r (fun q hq => decide_eq_false (Nat.not_lt.2 (hb q hq))) (decide_eq_true hr)]
  · refine operandTrap_of_rejects s i _ 0x01 r (exec_elemRow s i o d srcs m hrow) hm he (hreject _ ?_)
    rw [hops] at hall
    have hnone : (before ++ r :: after).find? (fun r => decide (regCount s.hart.csr < r + g)) = none :=
      List.find?_eq_none.2 fun q hq => by simpa using hall q hq
    rw [regsFail, hnone, find?_first _ before after r (fun q hq => by simpa using hb q hq) (by simpa using hr)]
    rfl

/-! ### Tags and capacities -/

/-- Aligned operands share a register only where they are the same. -/
theorem shares_aligned (c : Csr) (d r : Nat) (hd : d % groupOf c = 0) (hr : r % groupOf c = 0) :
    shares c d r = true ↔ r = d := by
  obtain ⟨a, rfl⟩ := Nat.dvd_of_mod_eq_zero hd
  obtain ⟨b, rfl⟩ := Nat.dvd_of_mod_eq_zero hr
  have hg : 0 < groupOf c := Nat.two_pow_pos _
  simp only [shares, decide_eq_true_eq, ← Nat.mul_succ, Nat.mul_lt_mul_left hg]
  constructor
  · rintro ⟨h1, h2⟩
    rw [show a = b by omega]
  · intro h
    have := Nat.eq_of_mul_eq_mul_left hg h
    omega

/-- The destination's own check (R179, R185). -/
theorem destFails_aligned (h : Hart) (d t : Nat) (srcs : List Nat) (hd : d % groupOf h.csr = 0)
    (hs : ∀ r ∈ srcs, r % groupOf h.csr = 0) :
    destFails h d t srcs = true ↔
      capacity h.csr t < lengthOf h ∨ (d ∈ srcs ∧ tagOfReg h d ≠ 0 ∧ narrowTag (tagOfReg h d) ≠ narrowTag t) := by
  simp only [destFails, overfull, Bool.or_eq_true, decide_eq_true_eq, List.any_eq_true, Bool.and_eq_true, bne_iff_ne]
  refine or_congr_right ⟨?_, ?_⟩
  · rintro ⟨r, hr, ⟨h0, hn⟩, hsh⟩
    obtain rfl := (shares_aligned h.csr d r hd (hs r hr)).1 hsh
    exact ⟨hr, h0, hn⟩
  · rintro ⟨hr, h0, hn⟩
    exact ⟨d, hr, ⟨h0, hn⟩, (shares_aligned h.csr d d hd hd).2 rfl⟩

/-- The first of a row of numbers that satisfies a test. -/
theorem firstBelow_first (n k : Nat) (p : Nat → Bool) (hk : k < n) (hb : ∀ j < k, p j = false) (hp : p k = true) :
    firstBelow n p = some k := by
  have hfrom : ∀ n k e, e + k < e + n → (∀ j < k, p (e + j) = false) → p (e + k) = true → firstFrom p e n = some (e + k) := by
    intro n
    induction n with
    | zero => intro k e h; omega
    | succ n ih =>
      intro k e h hb hp
      cases k with
      | zero => exact if_pos hp
      | succ k =>
        have hrest := ih k (e + 1) (by omega) (fun j hj => by rw [← hb (j + 1) (by omega)]; congr 1; omega)
          (by rw [← hp]; congr 1; omega)
        have h0 : p e = false := hb 0 (by omega)
        rw [firstFrom, h0, if_neg (by decide), hrest]
        congr 1
        omega
  have h := hfrom n k 0 (by omega) (fun j hj => by rw [Nat.zero_add]; exact hb j hj) (by rwa [Nat.zero_add])
  rwa [Nat.zero_add] at h

/-- The source that step 3 of R20 rejects first. -/
theorem sourceFails_first (h : Hart) (before after : List Nat) (r : Nat) (bad : Option Nat) (anyTag : Bool)
    (hb : ∀ k q, before[k]? = some q →
      ¬((anyTag = false ∧ tagOfReg h q = 0) ∨ capacity h.csr (tagOfReg h q) < lengthOf h ∨ bad = some k))
    (hr : (anyTag = false ∧ tagOfReg h r = 0) ∨ capacity h.csr (tagOfReg h r) < lengthOf h ∨ bad = some before.length) :
    sourceFails h (before ++ r :: after) bad anyTag = some r := by
  unfold sourceFails
  rw [firstBelow_first _ before.length]
  · simp
  · simp
  · intro j hj
    have := hb j before[j] (List.getElem?_eq_getElem hj)
    simp only [not_or, not_and, Nat.not_lt] at this
    obtain ⟨h1, h2, h3⟩ := this
    have hq : (before ++ r :: after).getD j 0 = before[j] := by simp [List.getElem?_append_left hj, List.getElem?_eq_getElem hj]
    simp only [hq, overfull]
    simp only [Bool.or_eq_false_iff, Bool.and_eq_false_iff]
    refine ⟨⟨?_, decide_eq_false (Nat.not_lt.2 h2)⟩, by simpa using h3⟩
    cases anyTag
    · exact .inr (by simpa using h1 rfl)
    · exact .inl rfl
  · have hq : (before ++ r :: after).getD before.length 0 = r := by simp
    simp only [hq, overfull]
    simpa [or_assoc] using hr

/-- The place of the source whose pair the tag table rejects (R185). -/
def badPair (w : ElemWord) (h : Hart) : Option Nat :=
  match w.result h with
  | .inl _ => none
  | .inr i => some i

/-- The operand that step 3 of R20 rejects: the destination where its tag is known and does not suit, else the first source. -/
def typeReject (h : Hart) (o : ElemOp) (d : Nat) (srcs : List Nat) (m : MReg) : Option Nat :=
  let sources := sourceFails h srcs (badPair ⟨o, d, srcs, m⟩ h) (o == .mov)
  match destTag h o d srcs m with
  | some t => if destFails h d t srcs then some d else sources
  | none => sources

/-- What step 3 of R20 rejects, for every operation alike (R178, R187, R191). -/
theorem rejects_of_regs (h : Hart) (o : ElemOp) (d : Nat) (srcs : List Nat) (m : MReg)
    (hregs : regsFail h.csr (vectorOperands o d srcs) = none) (hbcast : ∀ x, o = .bcast x → dtagOf h.csr ≠ 0 ∧ srcs = []) :
    (⟨o, d, srcs, m⟩ : ElemWord).rejects h = (typeReject h o d srcs m).map (fun r => (0x03, topndV r 0)) := by
  rw [← vectorOperands_eq o d srcs m] at hregs
  unfold ElemWord.rejects
  dsimp only
  rw [hregs]
  cases o with
  | bcast x =>
    obtain ⟨hd, rfl⟩ := hbcast x rfl
    dsimp only
    rw [if_neg hd]
    rfl
  | cvt sat u t => rfl
  | _ =>
    refine congrArg (Option.map _) ?_
    cases hres : (⟨_, d, srcs, m⟩ : ElemWord).result h <;>
      simp only [typeReject, badPair, destTag, hres, typeFails] <;> rfl

theorem typeTraps : TypeTraps := by
  intro s i o d srcs m hrow hm he c tag hops destBad bad
  have hexec := exec_elemRow s i o d srcs m hrow
  have hregs : regsFail c (vectorOperands o d srcs) = none := (regsFail_none _ _).2 hops
  have hsrcs : ∀ r ∈ srcs, r % groupOf c = 0 := by
    intro r hr
    refine (hops r ?_).2
    unfold vectorOperands
    split
    · exact hr
    · exact List.mem_cons_of_mem d hr
  have hdest : ∀ t, destTag s.hart o d srcs m = some t → (destFails s.hart d t srcs = true ↔ destBad t) := by
    intro t ht
    refine destFails_aligned s.hart d t srcs ?_ hsrcs
    refine (hops d ?_).2
    unfold vectorOperands
    split
    · cases ht
    · exact List.mem_cons_self
  have htrap : ∀ r, (∀ x, o = .bcast x → dtagOf c ≠ 0) → typeReject s.hart o d srcs m = some r → operandTrap s i 0x03 r := by
    intro r hb h
    refine operandTrap_of_rejects s i _ 0x03 r hexec hm he ?_
    rw [rejects_of_regs s.hart o d srcs m hregs (fun x hx => ⟨hb x hx, elemRow_bcast _ i x d srcs m (hx ▸ hrow)⟩), h]
    rfl
  have hbcast : ∀ x, o = .bcast x → dtagOf c = 0 → operandTrap s i 0x03 d := by
    rintro x rfl hd
    refine operandTrap_of_rejects s i _ 0x03 d hexec hm he ?_
    rw [← vectorOperands_eq _ d srcs m] at hregs
    unfold ElemWord.rejects
    dsimp only
    rw [hregs]
    exact if_pos hd
  refine ⟨fun t ht hbad => ?_, hbcast, fun before r after hsplit hgood hbefore hr => ?_⟩
  · by_cases hb : ∃ x, o = .bcast x ∧ dtagOf c = 0
    · obtain ⟨x, hx, hd⟩ := hb
      exact hbcast x hx hd
    · refine htrap d (fun x hx hd => hb ⟨x, hx, hd⟩) ?_
      simp only [typeReject, ht, (hdest t ht).2 hbad, if_true]
  · have hne : ∀ x, o ≠ .bcast x := by
      rintro x rfl
      rw [elemRow_bcast _ i x d srcs m hrow] at hsplit
      simp at hsplit
    have hbadIff : ∀ q k, ((o == .mov) = false ∧ tagOfReg s.hart q = 0) ∨ capacity c (tagOfReg s.hart q) < lengthOf s.hart ∨
        badPair ⟨o, d, srcs, m⟩ s.hart = some k ↔ bad q k := by
      intro q k
      refine or_congr (and_congr_left' (by simp)) (or_congr_right ?_)
      unfold badPair
      split
      · next h => simp [h]
      · next h => simp [h]
    have hfirst : sourceFails s.hart srcs (badPair ⟨o, d, srcs, m⟩ s.hart) (o == .mov) = some r := by
      have h := sourceFails_first s.hart before after r _ _ (fun k q hq => (hbadIff q k).not.2 (hbefore k q hq))
        ((hbadIff r before.length).2 hr)
      rwa [← hsplit] at h
    refine htrap r (fun x hx => absurd hx (hne x)) ?_
    unfold typeReject
    dsimp only
    split
    · next t ht => rw [if_neg ((hdest t ht).not.2 (hgood t ht)), hfirst]
    · exact hfirst

/-! ### The tag table (R185) -/

/-- The classes of R185 by which pairs of tags they take. -/
def tableOf (k : TagClass) (x y : Nat) : Option Nat :=
  let floats := (x = 1 ∨ x = 2) ∧ (y = 1 ∨ y = 2)
  let ints := (x = 3 ∨ x = 4) ∧ (y = 3 ∨ y = 4)
  let int := if x = 4 ∧ y = 4 then 4 else 3
  match k with
  | .a => if floats then some (if x = 2 ∧ y = 2 then 2 else 1) else if ints then some int else none
  | .f => if floats ∧ x = y then some x else none
  | .i => if ints then some int else none
  | .b => if ints ∧ x = y then some x else none
  | .s => if ints then some x else none

theorem tableTag_eq (o : ElemOp) (k : TagClass) (h : o.tagClass = some k) (x y : Nat) : tableTag o x y = tableOf k x y := by
  cases o with
  | div u | min u | max u | cmp u => cases u <;> cases h <;> rfl
  | mov | sel | cvt | bcast => cases h
  | _ => cases h; rfl

theorem classTag_eq_tableOf (k : TagClass) (x y : Fin 16) : classTag k x y = tableOf k x y := by
  cases k
  all_goals
    revert x y
    decide

/-- The model's table is R185's, on tags of four bits. -/
theorem classTag_eq (o : ElemOp) (k : TagClass) (h : o.tagClass = some k) (x y : Nat) (hx : x < 16) (hy : y < 16) :
    classTag k x y = tableTag o x y :=
  (classTag_eq_tableOf k ⟨x, hx⟩ ⟨y, hy⟩).trans (tableTag_eq o k h x y).symm

/-- The table's results are tags, and typed. -/
theorem classTag_lt {k : TagClass} {x y t : Nat} (h : classTag k x y = some t) : t < 16 := by
  unfold classTag at h
  split at h <;> cases h <;> decide

theorem resultTags : ResultTags := by
  intro h o d m a b c ho ha hb hc table
  obtain ⟨k, hk⟩ := Option.isSome_iff_exists.1 ho
  have hlt : ∀ r, tagOfReg h r < 16 := fun r => BitVec.isLt _
  have htable : ∀ x y, classTag k (tagOfReg h x) (tagOfReg h y) = table x y := fun x y => classTag_eq o k hk _ _ (hlt x) (hlt y)
  refine ⟨?_, ?_, ?_⟩
  · simp only [ElemWord.result, resultTag, hk, ElemWord.tags, List.map, List.getD_cons_zero, List.getD_cons_succ,
      List.getD_nil, ha, or_self, if_false, htable a a]
    cases table a a <;> rfl
  · simp only [ElemWord.result, resultTag, hk, ElemWord.tags, List.map, List.getD_cons_zero, List.getD_cons_succ,
      ha, hb, or_self, if_false, htable a b]
    cases table a b <;> rfl
  · simp only [ElemWord.result, resultTag, hk, ElemWord.tags, List.map, List.getD_cons_zero, List.getD_cons_succ,
      ha, hb, or_self, if_false, htable a b]
    cases hab : table a b with
    | none => rfl
    | some t =>
      have ht : classTag k t (tagOfReg h c) = tableTag o t (tagOfReg h c) :=
        classTag_eq o k hk _ _ (classTag_lt ((htable a b).trans hab)) (hlt c)
      simp only [List.getElem?_cons_succ, List.getElem?_cons_zero, hc, if_false, ht]
      cases tableTag o t (tagOfReg h c) <;> rfl

/-- Settles O25: each check of R20 rejects the first operand that fails it (`rejects_of_regs`), and the tag table is R185's
(`classTag_eq`). -/
theorem vectorOperandTraps : Obligations.VectorOperandTraps := ⟨registerTraps, typeTraps, resultTags⟩

end Sys2Proof.Claims

/-! What a vector instruction leaves of its destination: tags, progress, elements, tail and slots; mask bits (R16, R21, R22, R25,
R26, R30, R175, R177, R190). -/

namespace Sys2Proof.Machine

/-! ### Tags and progress of a group -/

theorem mem_members (r g i : Nat) : i ∈ members r g ↔ r ≤ i ∧ i < r + g := by
  simp only [members, List.mem_map, List.mem_range]
  constructor
  · rintro ⟨k, hk, rfl⟩
    omega
  · rintro ⟨h1, h2⟩
    exact ⟨i - r, by omega, by omega⟩

/-- One value set at several places of a vector. -/
theorem getElem?_foldl_setIfInBounds {α : Type} {n : Nat} (is : List Nat) (v : α) (x : Vector α n) (k : Nat) (hk : k < n) :
    (is.foldl (fun x i => x.setIfInBounds i v) x)[k]? = if k ∈ is then some v else x[k]? := by
  induction is generalizing x with
  | nil => rfl
  | cons i is ih =>
    rw [List.foldl_cons, ih, Vector.getElem?_setIfInBounds]
    by_cases hki : i = k
    · subst hki
      simp [hk]
    · simp [hki, Ne.symm hki]

/-- One bit set at several places of a word. -/
theorem getLsbD_foldl_setBits {n : Nat} (is : List Nat) (w : BitVec n) (k : Nat) (hk : k < n) :
    (is.foldl (fun x i => setBits x i 1 1) w).getLsbD k = (decide (k ∈ is) || w.getLsbD k) := by
  induction is generalizing w with
  | nil => simp
  | cons i is ih =>
    rw [List.foldl_cons, ih, getLsbD_setBits _ _ _ _ _ hk]
    by_cases hki : k = i
    · simp [hki]
    · rw [if_neg (show ¬(i ≤ k ∧ k < i + 1) by omega)]
      simp [hki]

theorem tagOfReg_setTags (h : Hart) (r g t i : Nat) (hi : i < 64) :
    tagOfReg (setTags h r g t) i = if r ≤ i ∧ i < r + g then t % 16 else tagOfReg h i := by
  unfold tagOfReg setTags
  dsimp only
  rw [getElem?_foldl_setIfInBounds _ _ _ _ hi]
  simp only [mem_members]
  split
  · simp
  · rfl

/-- A destination that is complete holds its groups, complete (R25, R26). -/
theorem progress_completed (h : Hart) (r n : Nat) (i : Fin 64) (h1 : r ≤ i.val) (h2 : i.val < r + groupOf h.csr) :
    (completed h r n).vec.index[i] = (n + 63) / 64 ∧ (completed h r n).vec.complete.getLsbD i = true := by
  have hmem : i.val ∈ members r (groupOf h.csr) := (mem_members ..).2 ⟨h1, h2⟩
  constructor
  · have hindex : (completed h r n).vec.index[i.val]? = some (groupsOf n) := by
      refine (getElem?_foldl_setIfInBounds _ _ _ _ i.isLt).trans (if_pos hmem)
    rw [Vector.getElem?_eq_getElem i.isLt] at hindex
    exact Option.some.inj hindex
  · refine (getLsbD_foldl_setBits _ _ _ i.isLt).trans ?_
    rw [decide_eq_true hmem, Bool.true_or]

/-! ### Elements and slots -/

/-- Every element below the capacity of its tag lies in the registers of its group (R16, R18, R19). -/
theorem slotOf_inside (c : Csr) (d t e : Nat) (he : e < capacity c t) :
    d * regLen c ≤ slotOf c d (narrowTag t) e ∧ slotOf c d (narrowTag t) e < (d + groupOf c) * regLen c := by
  have hlen : ∃ q, regLen c = 64 * q := by
    have hk : bits c.vrcfg 0 2 < 4 := Nat.mod_lt _ (by decide)
    unfold regLen
    generalize bits c.vrcfg 0 2 = k at hk
    refine ⟨384 / 2 ^ k, ?_⟩
    interval_cases k <;> rfl
  obtain ⟨q, hq⟩ := hlen
  unfold capacity at he
  unfold slotOf
  rw [Nat.add_mul, Nat.mul_comm (groupOf c)]
  have hgroup : regLen c * groupOf c = 64 * (q * groupOf c) := by rw [hq, Nat.mul_assoc]
  rw [hgroup] at he ⊢
  generalize q * groupOf c = z at he ⊢
  cases hn : narrowTag t
  · rw [hn] at he
    simp only [Bool.false_eq_true, if_false] at he ⊢
    omega
  · rw [hn] at he
    simp only [if_true] at he ⊢
    omega

/-- Writing an element touches its slot alone. -/
theorem sget_putElem_other (c : Csr) (v : Vec) (r : Nat) (narrow : Bool) (e x k : Nat) (hk : k ≠ slotOf c r narrow e) :
    sget (putElem c v r narrow e x).vrf k = sget v.vrf k := by
  simp only [putElem, sget_sset, hk, if_false]

/-- What no write of an element changes, a loop over elements does not change. -/
theorem sweep_keeps {α : Type} (p : Vec → α) (f : Nat → Nat × Nat) (act : Nat → Bool) (zero : Bool) (write : Vec → Nat → Nat → Vec)
    (en e k : Nat) (v : Vec) (fl : Nat) (h : ∀ v a x, e ≤ a → a < e + k → p (write v a x) = p v) :
    p (sweep f act zero write en e k v fl).vec = p v := by
  induction k generalizing e v fl with
  | zero => rfl
  | succ k ih =>
    have hrest : ∀ v a x, e + 1 ≤ a → a < e + 1 + k → p (write v a x) = p v := fun v a x h1 h2 => h v a x (by omega) (by omega)
    unfold sweep
    split
    · dsimp only
      split
      · rfl
      · rw [ih _ _ _ hrest, h v e _ (Nat.le_refl _) (by omega)]
    · rw [ih _ _ _ hrest]
      split
      · exact h v e _ (Nat.le_refl _) (by omega)
      · rfl

/-- The flags of a loop that runs to its end: those of the elements that it computes (R72). -/
theorem sweep_flags (f : Nat → Nat × Nat) (act : Nat → Bool) (zero : Bool) (write : Vec → Nat → Nat → Vec) (en e k : Nat)
    (v : Vec) (fl : Nat) (hs : ∀ a, e ≤ a → a < e + k → act a = true → (f a).2 &&& en = 0) :
    (sweep f act zero write en e k v fl).flags = ((List.range' e k).filter act).foldl (fun fl a => fl ||| (f a).2) fl := by
  induction k generalizing e v fl with
  | zero => rfl
  | succ k ih =>
    have hs' : ∀ a, e + 1 ≤ a → a < e + 1 + k → act a = true → (f a).2 &&& en = 0 := fun a h1 h2 => hs a (by omega) (by omega)
    rw [List.range'_succ, List.filter_cons]
    unfold sweep
    by_cases he : act e = true
    · simp only [he, if_true, hs e (Nat.le_refl _) (by omega) he, ne_eq, not_true_eq_false, if_false]
      rw [ih _ _ _ hs']
      rfl
    · simp only [he, if_false, Bool.false_eq_true]
      exact ih _ _ _ hs'

/-! ### Tails (R30, R177) -/

/-- What no write of an element changes, a filled tail does not change. -/
theorem fillVec_keeps {α : Type} (p : Vec → α) (c : Csr) (v : Vec) (r : Nat) (narrow : Bool) (e k x : Nat)
    (h : ∀ v a, e ≤ a → a < e + k → p (putElem c v r narrow a x) = p v) : p (fillVec c v r narrow e k x) = p v := by
  induction k generalizing e v with
  | zero => rfl
  | succ k ih =>
    rw [fillVec, ih _ _ (fun v a h1 h2 => h v a (by omega) (by omega)), h v e (Nat.le_refl _) (by omega)]

theorem getElem_fillVec (h : Hart) (v : Vec) (r : Nat) (narrow : Bool) (e k x a : Nat) :
    getElem { h with vec := fillVec h.csr v r narrow e k x } r narrow a =
      if e ≤ a ∧ a < e + k then x % 2 ^ elemBits narrow else getElem { h with vec := v } r narrow a := by
  induction k generalizing e v with
  | zero =>
    have : ¬(e ≤ a ∧ a < e + 0) := by omega
    rw [if_neg this]
    rfl
  | succ k ih =>
    rw [fillVec, ih, getElem_putElem]
    by_cases hr : e + 1 ≤ a ∧ a < e + 1 + k
    · rw [if_pos hr, if_pos (by omega)]
    · rw [if_neg hr]
      by_cases hae : a = e
      · rw [if_pos hae, if_pos (by omega)]
      · rw [if_neg hae, if_neg (by omega)]

theorem vecTail_keeps {α : Type} (p : Vec → α) (h : Hart) (r t n : Nat)
    (hp : ∀ v a x, n ≤ a → a < capacity h.csr t → p (putElem h.csr v r (narrowTag t) a x) = p v) :
    p (vecTail h r t n).vec = p h.vec := by
  unfold vecTail
  split
  · rfl
  · exact fillVec_keeps p _ _ _ _ _ _ _ (fun v a h1 h2 => hp v a _ h1 (by omega))

/-- A tail changes nothing of the hart but the register file. -/
theorem vecTail_frame (h : Hart) (r t n : Nat) :
    vecTail h r t n = { h with vec := { h.vec with vrf := (vecTail h r t n).vec.vrf } } := by
  have hvec : { (vecTail h r t n).vec with vrf := [] } = { h.vec with vrf := [] } :=
    vecTail_keeps (fun v => { v with vrf := [] }) h r t n (fun _ _ _ _ _ => rfl)
  have hhart : vecTail h r t n = { h with vec := (vecTail h r t n).vec } := by
    unfold vecTail
    split <;> rfl
  rw [hhart]
  congr 1
  exact congrArg (fun v : Vec => { v with vrf := (vecTail h r t n).vec.vrf }) hvec

theorem tagBits_eq (t : Nat) : tagBits t = elemBits (narrowTag t) := by
  unfold tagBits tagBytes elemBits
  split <;> rfl

/-- The elements of a tail follow TPOL, from element `n` to the capacity. -/
theorem getElem_vecTail (h : Hart) (r t n a : Nat) :
    getElem (vecTail h r t n) r (narrowTag t) a =
      if n ≤ a ∧ a < capacity h.csr t ∧ tpolOf h.csr ≠ 0 then (if tpolOf h.csr = 1 then 0 else 2 ^ tagBits t - 1)
      else getElem h r (narrowTag t) a := by
  unfold vecTail
  by_cases h0 : tpolOf h.csr = 0
  · simp [h0]
  · rw [if_neg h0]
    dsimp only
    rw [getElem_fillVec, ← tagBits_eq]
    by_cases hr : n ≤ a ∧ a < capacity h.csr t
    · have hin : n ≤ a ∧ a < n + (capacity h.csr t - n) := by omega
      have htail : n ≤ a ∧ a < capacity h.csr t ∧ tpolOf h.csr ≠ 0 := ⟨hr.1, hr.2, h0⟩
      rw [if_pos hin, if_pos htail]
      have hpos := Nat.two_pow_pos (tagBits t)
      split
      · exact Nat.zero_mod _
      · exact Nat.mod_eq_of_lt (by omega)
    · have hout : ¬(n ≤ a ∧ a < n + (capacity h.csr t - n)) := by omega
      have htail : ¬(n ≤ a ∧ a < capacity h.csr t ∧ tpolOf h.csr ≠ 0) := fun hc => hr ⟨hc.1, hc.2.1⟩
      rw [if_neg hout, if_neg htail]

/-! ### The whole of a loop -/

/-- The hart after a loop over `n` elements that ran to its end, before its progress is set: tag, elements, flags, tail (R175). -/
def sweptHart (h : Hart) (d t n : Nat) (act : Nat → Bool) (zero : Bool) (f : Nat → Nat × Nat) : Hart :=
  let w := sweep f act zero (fun v e x => putElem h.csr v d (narrowTag t) e x) (enables h.csr) 0 n
    (setTags h d (groupOf h.csr) t).vec 0
  let h1 := orFlags { h with vec := w.vec } w.flags
  if n = 0 then h1 else vecTail h1 d t n

section Loop

variable (h : Hart) (d t n : Nat) (act : Nat → Bool) (zero : Bool) (f : Nat → Nat × Nat)

/-- What neither setting tags nor writing an element changes, a loop does not change. -/
theorem sweptHart_keeps {α : Type} (p : Vec → α) (htags : ∀ v ts, p { v with tags := ts } = p v)
    (hp : ∀ v a x, a < n ∨ a < capacity h.csr t → p (putElem h.csr v d (narrowTag t) a x) = p v) :
    p (sweptHart h d t n act zero f).vec = p h.vec := by
  unfold sweptHart
  dsimp only
  have hsweep := (sweep_keeps p f act zero (fun v e x => putElem h.csr v d (narrowTag t) e x) (enables h.csr) 0 n
    (setTags h d (groupOf h.csr) t).vec 0 (fun v a x _ ha => hp v a x (.inl (by omega)))).trans (htags _ _)
  split
  · exact hsweep
  · refine (vecTail_keeps p _ d t _ ?_).trans hsweep
    exact fun v a x _ ha => hp v a x (.inr ha)

/-- A loop leaves all of its hart but FCSR's flags, the group's tags and the register file. -/
theorem sweptHart_frame : sweptHart h d t n act zero f = { h with
    csr := { h.csr with fcsr := (sweptHart h d t n act zero f).csr.fcsr }
    vec := { (setTags h d (groupOf h.csr) t).vec with vrf := (sweptHart h d t n act zero f).vec.vrf } } := by
  unfold sweptHart
  dsimp only
  have hsweep := sweep_frame h.csr f act zero d (narrowTag t) (enables h.csr) 0 n
    (setTags h d (groupOf h.csr) t).vec 0
  dsimp only at hsweep
  rw [hsweep]
  split
  · rfl
  · rw [vecTail_frame]
    rfl

/-- The flags of a loop that no enabled flag stops (R72). -/
theorem sweptHart_fcsr (hf : ∀ e, e < n → act e = true → (f e).2 &&& enables h.csr = 0) :
    (sweptHart h d t n act zero f).csr.fcsr = h.csr.fcsr |||
      word (((List.range n).filter act).foldl (fun fl e => fl ||| (f e).2) 0 % 32) := by
  have hflags := sweep_flags f act zero (fun v e x => putElem h.csr v d (narrowTag t) e x) (enables h.csr) 0 n
    (setTags h d (groupOf h.csr) t).vec 0 (fun a _ ha => hf a (by omega))
  rw [← List.range_eq_range'] at hflags
  rw [← hflags]
  unfold sweptHart
  dsimp only
  split
  · rfl
  · rw [vecTail_frame]
    rfl

/-- The elements of a loop that no enabled flag stops (R30, R175, R177). -/
theorem getElem_sweptHart (hf : ∀ e, e < n → act e = true → (f e).2 &&& enables h.csr = 0) (e : Nat) :
    getElem (sweptHart h d t n act zero f) d (narrowTag t) e =
      if e < n then
        (if act e then (f e).1 % 2 ^ tagBits t else if zero then 0 else getElem h d (narrowTag t) e)
      else if n ≠ 0 ∧ e < capacity h.csr t ∧ tpolOf h.csr ≠ 0 then
        (if tpolOf h.csr = 1 then 0 else 2 ^ tagBits t - 1)
      else getElem h d (narrowTag t) e := by
  have hsweep := getElem_sweep h f act zero d (narrowTag t) (enables h.csr) 0 n
    (setTags h d (groupOf h.csr) t).vec 0 (fun a _ ha => hf a (by omega)) e
  simp only [Nat.zero_le, true_and, Nat.zero_add, ← tagBits_eq] at hsweep
  unfold sweptHart
  dsimp only
  by_cases hn : n = 0
  · rw [if_pos hn]
    refine hsweep.trans ?_
    have hlt : ¬e < n := by omega
    have hne : ¬(n ≠ 0 ∧ e < capacity h.csr t ∧ tpolOf h.csr ≠ 0) := fun hc => hc.1 hn
    rw [if_neg hlt, if_neg hlt, if_neg hne]
    rfl
  · rw [if_neg hn]
    refine (getElem_vecTail ..).trans ?_
    by_cases hlt : e < n
    · have hnot : ¬(n ≤ e ∧ e < capacity h.csr t ∧ tpolOf h.csr ≠ 0) := by omega
      rw [if_pos hlt] at hsweep ⊢
      exact (if_neg hnot).trans hsweep
    · rw [if_neg hlt] at hsweep ⊢
      have hiff : (n ≤ e ∧ e < capacity h.csr t ∧ tpolOf h.csr ≠ 0) ↔
          (n ≠ 0 ∧ e < capacity h.csr t ∧ tpolOf h.csr ≠ 0) := by omega
      simp only [← hiff]
      exact ite_congr rfl (fun _ => rfl) (fun _ => hsweep)

end Loop

/-- An instruction whose active elements raise no enabled flag is its loop, its progress and the next word (R175). -/
theorem vecLoop_eq (s : State) (d t : Nat) (act : Nat → Bool) (zero : Bool) (f : Nat → Nat × Nat)
    (hr : s.hart.restart = ⟨0, false, none, none⟩)
    (hf : ∀ e, e < lengthOf s.hart → act e = true → (f e).2 &&& enables s.hart.csr = 0) :
    vecLoop s d t act zero f =
      .next (advance { s with hart := completed (sweptHart s.hart d t (lengthOf s.hart) act zero f) d (lengthOf s.hart) }) := by
  rw [vecLoop_runs s d t act zero f (by rw [hr]) (fun e _ he => hf e he)]
  have hstart : (setTags s.hart d (groupOf s.hart.csr) t).restart.start = 0 := congrArg Restart.start hr
  dsimp only
  rw [hstart, Nat.sub_zero]
  rfl

end Sys2Proof.Machine

namespace Sys2Proof.Claims

open Sys2Proof.Machine

/-- A vector destination's hart: but for FCSR's flags, its group's tags and its elements, and then its progress, the hart is as
before (R21, R22, R25, R26). -/
theorem vectorDest_written (s : State) (d t n : Nat) (fcsr : Word) (vrf : Sparse 32) :
    let u := advance { s with hart := completed { s.hart with
      csr := { s.hart.csr with fcsr := fcsr }
      vec := { (setTags s.hart d (groupOf s.hart.csr) t).vec with vrf := vrf } } d n }
    wentOn s u none ∧ progressOf s u d n ∧
      ∀ r : Fin 64, tagOfReg u.hart r = if d ≤ r.val ∧ r.val < d + groupOf s.hart.csr then t % 16 else tagOfReg s.hart r :=
  ⟨⟨rfl, rfl, rfl, rfl, rfl, fun _ _ => rfl⟩, fun r h1 h2 => progress_completed _ d n r h1 h2,
    fun r => tagOfReg_setTags s.hart d _ t r r.isLt⟩

/-- What a loop over `n` elements of a destination whose registers hold them all leaves, with its progress at length `len`: the
flags of the active elements, the elements, the tail (R20, R175, R177). -/
theorem sweptHart_written (s : State) (d t n len : Nat) (act : Nat → Bool) (zero : Bool) (f : Nat → Nat × Nat)
    (hcap : n ≤ capacity s.hart.csr t) (hzero : ∀ e, e < n → act e = false → zero = ipolOf s.hart.csr)
    (hf : ∀ e, e < n → act e = true → (f e).2 &&& enables s.hart.csr = 0) :
    let u := advance { s with hart := completed (sweptHart s.hart d t n act zero f) d len }
    u.hart.csr = { s.hart.csr with fcsr := u.hart.csr.fcsr } ∧ u.hart.vec.acc = s.hart.vec.acc ∧
      u.hart.csr.fcsr = s.hart.csr.fcsr |||
        word (((List.range n).filter act).foldl (fun fl e => fl ||| (f e).2) 0 % 32) ∧
      wentOn s u none ∧ groupWritten s u d t ∧ progressOf s u d len ∧ elementsHold s u d t n n act (fun e => (f e).1) := by
  have hframe := sweptHart_frame s.hart d t n act zero f
  have hfcsr := sweptHart_fcsr s.hart d t n act zero f hf
  have helem := getElem_sweptHart s.hart d t n act zero f hf
  have hslots : ∀ k, (k < d * regLen s.hart.csr ∨ (d + groupOf s.hart.csr) * regLen s.hart.csr ≤ k) →
      sget (sweptHart s.hart d t n act zero f).vec.vrf k = sget s.hart.vec.vrf k := by
    intro k hk
    refine sweptHart_keeps s.hart d t n act zero f (fun v => sget v.vrf k) (fun _ _ => rfl) (fun v a x ha => ?_)
    have hslot := slotOf_inside s.hart.csr d t a (by omega)
    exact sget_putElem_other _ _ _ _ _ _ _ (by omega)
  intro u
  dsimp only [u]
  clear u
  generalize sweptHart s.hart d t n act zero f = l at hframe hfcsr helem hslots ⊢
  rw [hframe]
  obtain ⟨hwent, hprog, htags⟩ := vectorDest_written s d t len l.csr.fcsr l.vec.vrf
  rw [hframe] at helem
  refine ⟨rfl, rfl, hfcsr, hwent, ⟨htags, hslots⟩, hprog, fun e he => ?_, fun e h1 h2 => ?_⟩
  · refine (helem e).trans ((if_pos he).trans (ite_congr rfl (fun _ => rfl) (fun hact => ?_)))
    rw [hzero e he (by simpa using hact)]
  · refine (helem e).trans ?_
    rw [if_neg (by omega)]
    by_cases hn : n = 0 <;> by_cases h0 : tpolOf s.hart.csr = 0 <;> simp [hn, h0, h2]

/-- A loop over the elements of a destination whose registers hold them all completes with the flags of its active elements,
the elements, the tail and the progress (R20, R175, R177). -/
theorem vecLoop_written (s : State) (d t : Nat) (act : Nat → Bool) (f : Nat → Nat × Nat) (hr : freshStart s.hart)
    (hcap : lengthOf s.hart ≤ capacity s.hart.csr t)
    (hf : ∀ e, e < lengthOf s.hart → act e = true → (f e).2 &&& enables s.hart.csr = 0) :
    ∃ u, vecLoop s d t act (ipolOf s.hart.csr) f = .next u ∧ u.hart.csr = { s.hart.csr with fcsr := u.hart.csr.fcsr } ∧
      u.hart.csr.fcsr = s.hart.csr.fcsr |||
        word (((List.range (lengthOf s.hart)).filter act).foldl (fun fl e => fl ||| (f e).2) 0 % 32) ∧
      wentOn s u none ∧ elementsWritten s u d t (lengthOf s.hart) (lengthOf s.hart) act (fun e => (f e).1) := by
  obtain ⟨hcsr, -, hfcsr, hwent, hgroup, hprog, helem⟩ :=
    sweptHart_written s d t _ (lengthOf s.hart) act _ f hcap (fun _ _ _ => rfl) hf
  exact ⟨_, vecLoop_eq s d t act _ f hr hf, hcsr, hfcsr, hwent, hgroup, hprog, helem⟩

end Sys2Proof.Claims

/-! What a vector instruction with a mask destination leaves: its bits, its tail, its progress (R26, R177, R190). -/

namespace Sys2Proof.Machine

/-! ### Bits of a mask register -/

/-- Numbers without a common bit add up to their union. -/
theorem add_eq_or_of_disjoint (a b : Nat) (h : a &&& b = 0) : a + b = a ||| b := by
  have ha : a < 2 ^ (a + b) := Nat.lt_of_lt_of_le Nat.lt_two_pow_self (Nat.pow_le_pow_right (by decide) (by omega))
  have hb : b < 2 ^ (a + b) := Nat.lt_of_lt_of_le Nat.lt_two_pow_self (Nat.pow_le_pow_right (by decide) (by omega))
  have hand : BitVec.ofNat (a + b) a &&& BitVec.ofNat (a + b) b = 0#(a + b) := by rw [← BitVec.ofNat_and, h]
  have hadd := BitVec.toNat_add_of_and_eq_zero hand
  rw [BitVec.add_eq_or_of_and_eq_zero _ _ hand, BitVec.toNat_or, BitVec.toNat_ofNat, BitVec.toNat_ofNat, Nat.mod_eq_of_lt ha,
    Nat.mod_eq_of_lt hb] at hadd
  exact hadd.symm

/-- Taking away what two numbers share clears those bits. -/
theorem testBit_sub_and (v t k : Nat) : (v - (v &&& t)).testBit k = (v.testBit k && !t.testBit k) := by
  have hdisj : (v &&& t) &&& Nat.ldiff v t = 0 := by
    apply Nat.eq_of_testBit_eq
    intro i
    rw [Nat.testBit_and, Nat.testBit_and, Nat.testBit_ldiff]
    cases v.testBit i <;> cases t.testBit i <;> simp
  have hunion : (v &&& t) ||| Nat.ldiff v t = v := by
    apply Nat.eq_of_testBit_eq
    intro i
    rw [Nat.testBit_or, Nat.testBit_and, Nat.testBit_ldiff]
    cases v.testBit i <;> cases t.testBit i <;> rfl
  have hsum := (add_eq_or_of_disjoint _ _ hdisj).trans hunion
  rw [← Nat.testBit_ldiff]
  congr 1
  omega

theorem testBit_putBit (m e : Nat) (b : Bool) (k : Nat) : (putBit m e b).testBit k = if k = e then b else m.testBit k := by
  have hpow : (2 ^ e).testBit k = decide (k = e) := by rw [Nat.testBit_two_pow]; exact decide_eq_decide.2 eq_comm
  unfold putBit
  split
  · next hb =>
    rw [Nat.testBit_or, hpow]
    by_cases h : k = e <;> simp [h, hb]
  · next hb =>
    rw [Bool.not_eq_true] at hb
    split
    · next he =>
      have hand : m &&& 2 ^ e = 2 ^ e := by rw [Nat.and_two_pow, he]; simp
      rw [← hand, testBit_sub_and, hpow]
      by_cases h : k = e <;> simp [h, hb]
    · next he =>
      by_cases h : k = e
      · rw [if_pos h, h, hb]
        simpa using he
      · rw [if_neg h]

/-- The bits from `n` up to a higher one. -/
theorem testBit_span (n z k : Nat) (h : n ≤ z) : (2 ^ z - 2 ^ n).testBit k = decide (n ≤ k ∧ k < z) := by
  have hspan : 2 ^ z - 2 ^ n = (2 ^ (z - n) - 1) <<< n := by
    rw [Nat.shiftLeft_eq, Nat.sub_mul, ← Nat.pow_add, Nat.sub_add_cancel h, Nat.one_mul]
  rw [hspan, Nat.testBit_shiftLeft, Nat.testBit_two_pow_sub_one]
  by_cases hk : n ≤ k
  · simp only [hk, decide_true, Bool.true_and, true_and]
    exact decide_eq_decide.2 (by omega)
  · simp [hk]

/-! ### The loop -/

/-- Bit `k` of a mask register of the vector state. -/
def bitOf (d : Nat) (v : Vec) (k : Nat) : Bool := ((v.masks[d]?).getD 0).testBit k

theorem bitOf_putMaskBit (v : Vec) (d e x k : Nat) (hd : d < 8) :
    bitOf d (putMaskBit v d e x) k = if k = e then x != 0 else bitOf d v k := by
  unfold bitOf putMaskBit
  simp only [Vector.getElem?_setIfInBounds, if_pos hd]
  exact testBit_putBit ..

/-- A mask's bits after a loop that ran to its end: computed where active, zero or unchanged where not. -/
theorem bitOf_sweep (d : Nat) (hd : d < 8) (f : Nat → Nat × Nat) (act : Nat → Bool) (zero : Bool) (en e k : Nat)
    (v : Vec) (fl : Nat) (hs : ∀ a, e ≤ a → a < e + k → act a = true → (f a).2 &&& en = 0) (a : Nat) :
    bitOf d (sweep f act zero (fun v e x => putMaskBit v d e x) en e k v fl).vec a =
      if e ≤ a ∧ a < e + k then (if act a then (f a).1 != 0 else if zero then false else bitOf d v a) else bitOf d v a := by
  induction k generalizing e v fl with
  | zero =>
    have : ¬(e ≤ a ∧ a < e + 0) := by omega
    rw [if_neg this]
    rfl
  | succ k ih =>
    have hs' : ∀ b, e + 1 ≤ b → b < e + 1 + k → act b = true → (f b).2 &&& en = 0 := fun b h1 h2 => hs b (by omega) (by omega)
    have hfirst : (sweep f act zero (fun v e x => putMaskBit v d e x) en e (k + 1) v fl).vec =
        (sweep f act zero (fun v e x => putMaskBit v d e x) en (e + 1) k
          (if act e then putMaskBit v d e (f e).1 else if zero then putMaskBit v d e 0 else v)
          (if act e then fl ||| (f e).2 else fl)).vec := by
      rw [sweep]
      by_cases he : act e = true
      · simp only [he, if_true, hs e (Nat.le_refl _) (by omega) he, ne_eq, not_true_eq_false, if_false]
      · simp only [he, if_false, Bool.false_eq_true]
    rw [hfirst, ih _ _ _ hs']
    by_cases hae : a = e
    · subst hae
      have hout : ¬(a + 1 ≤ a ∧ a < a + 1 + k) := by omega
      have hin : a ≤ a ∧ a < a + (k + 1) := by omega
      rw [if_neg hout, if_pos hin]
      cases act a
      · cases zero
        · rfl
        · exact (bitOf_putMaskBit v d a 0 a hd).trans (if_pos rfl)
      · exact (bitOf_putMaskBit v d a (f a).1 a hd).trans (if_pos rfl)
    · have hv : bitOf d (if act e then putMaskBit v d e (f e).1 else if zero then putMaskBit v d e 0 else v) a = bitOf d v a := by
        split
        · exact (bitOf_putMaskBit v d e (f e).1 a hd).trans (if_neg hae)
        · split
          · exact (bitOf_putMaskBit v d e 0 a hd).trans (if_neg hae)
          · rfl
      have hiff : (e + 1 ≤ a ∧ a < e + 1 + k) ↔ (e ≤ a ∧ a < e + (k + 1)) := by omega
      simp only [hv, hiff]

/-- A mask's tail follows TPOL, from bit `n` up to VLMAX. -/
theorem bitOf_maskTail (h : Hart) (d n k : Nat) (hd : d < 8) :
    bitOf d (maskTail h d n).vec k =
      if n ≤ k ∧ k < vlmax h.csr ∧ tpolOf h.csr ≠ 0 then decide (tpolOf h.csr ≠ 1) else bitOf d h.vec k := by
  have hset : ∀ v, bitOf d (setMask h d v).vec k = v.testBit k := by
    intro v
    simp [bitOf, setMask, hd]
  have htop : (2 ^ Nat.max n (vlmax h.csr) - 2 ^ n).testBit k = decide (n ≤ k ∧ k < vlmax h.csr) := by
    rw [testBit_span _ _ _ (Nat.le_max_left ..)]
    exact decide_eq_decide.2 (by omega)
  unfold maskTail
  dsimp only
  by_cases h0 : tpolOf h.csr = 0
  · simp [h0]
  · rw [if_neg h0]
    by_cases h1 : tpolOf h.csr = 1
    · rw [if_pos h1, hset, testBit_sub_and, htop]
      by_cases hk : n ≤ k ∧ k < vlmax h.csr <;> simp [h1, hk, bitOf]
    · rw [if_neg h1, hset, Nat.testBit_or, htop]
      by_cases hk : n ≤ k ∧ k < vlmax h.csr <;> simp [h0, h1, hk, bitOf]

/-! ### The whole of a loop -/

/-- The hart after a loop over the bits of a mask that ran to its end, before its progress is set (R190). -/
def maskedHart (h : Hart) (d : Nat) (act : Nat → Bool) (zero : Bool) (f : Nat → Nat × Nat) : Hart :=
  let w := sweep f act zero (fun v e x => putMaskBit v d e x) (enables h.csr) 0 (lengthOf h) h.vec 0
  let h1 := orFlags { h with vec := w.vec } w.flags
  if lengthOf h = 0 then h1 else maskTail h1 d (lengthOf h)

/-- What no write of a mask register `d` changes, its tail does not change. -/
theorem maskTail_keeps {α : Type} (p : Vec → α) (h : Hart) (d n : Nat)
    (hp : ∀ v x, p { v with masks := v.masks.setIfInBounds d x } = p v) : p (maskTail h d n).vec = p h.vec := by
  unfold maskTail
  dsimp only
  split
  · rfl
  · split <;> exact hp _ _

/-- A mask's tail changes nothing of the hart but the masks. -/
theorem maskTail_frame (h : Hart) (d n : Nat) :
    maskTail h d n = { h with vec := { h.vec with masks := (maskTail h d n).vec.masks } } := by
  unfold maskTail
  dsimp only
  split
  · rfl
  · split <;> rfl

section Loop

variable (h : Hart) (d : Nat) (act : Nat → Bool) (zero : Bool) (f : Nat → Nat × Nat)

/-- What no write of the mask register `d` changes, a loop over its bits does not change. -/
theorem maskedHart_keeps {α : Type} (p : Vec → α) (hp : ∀ v x, p { v with masks := v.masks.setIfInBounds d x } = p v) :
    p (maskedHart h d act zero f).vec = p h.vec := by
  unfold maskedHart
  dsimp only
  have hsweep := sweep_keeps p f act zero (fun v e x => putMaskBit v d e x) (enables h.csr) 0 (lengthOf h) h.vec 0
    (fun v a x _ _ => hp v _)
  split
  · exact hsweep
  · exact (maskTail_keeps p _ d _ hp).trans hsweep

/-- A loop over a mask's bits leaves all of its hart but FCSR's flags and the masks. -/
theorem maskedHart_frame : maskedHart h d act zero f = { h with
    csr := { h.csr with fcsr := (maskedHart h d act zero f).csr.fcsr }
    vec := { h.vec with masks := (maskedHart h d act zero f).vec.masks } } := by
  have hvec : { (maskedHart h d act zero f).vec with masks := h.vec.masks } = h.vec :=
    maskedHart_keeps h d act zero f (fun v => { v with masks := h.vec.masks }) (fun _ _ => rfl)
  have hhart : maskedHart h d act zero f = { h with
      csr := { h.csr with fcsr := (maskedHart h d act zero f).csr.fcsr }, vec := (maskedHart h d act zero f).vec } := by
    unfold maskedHart
    dsimp only
    split
    · rfl
    · rw [maskTail_frame]
      rfl
  have hback := congrArg (fun v : Vec => { v with masks := (maskedHart h d act zero f).vec.masks }) hvec
  exact hhart.trans (congrArg (fun v => ({ h with
    csr := { h.csr with fcsr := (maskedHart h d act zero f).csr.fcsr }, vec := v } : Hart)) hback)

/-- The flags of a loop that no enabled flag stops (R72). -/
theorem maskedHart_fcsr (hf : ∀ e, e < lengthOf h → act e = true → (f e).2 &&& enables h.csr = 0) :
    (maskedHart h d act zero f).csr.fcsr = h.csr.fcsr |||
      word (((List.range (lengthOf h)).filter act).foldl (fun fl e => fl ||| (f e).2) 0 % 32) := by
  have hflags := sweep_flags f act zero (fun v e x => putMaskBit v d e x) (enables h.csr) 0 (lengthOf h) h.vec 0
    (fun a _ ha => hf a (by omega))
  rw [← List.range_eq_range'] at hflags
  rw [← hflags]
  unfold maskedHart
  dsimp only
  split
  · rfl
  · rw [maskTail_frame]
    rfl

/-- The bits of a loop that no enabled flag stops (R177, R190). -/
theorem bitOf_maskedHart (hd : d < 8) (hf : ∀ e, e < lengthOf h → act e = true → (f e).2 &&& enables h.csr = 0) (e : Nat) :
    bitOf d (maskedHart h d act zero f).vec e =
      if e < lengthOf h then (if act e then (f e).1 != 0 else if zero then false else bitOf d h.vec e)
      else if lengthOf h ≠ 0 ∧ e < vlmax h.csr ∧ tpolOf h.csr ≠ 0 then decide (tpolOf h.csr ≠ 1) else bitOf d h.vec e := by
  have hsweep := bitOf_sweep d hd f act zero (enables h.csr) 0 (lengthOf h) h.vec 0 (fun a _ ha => hf a (by omega)) e
  simp only [Nat.zero_le, true_and, Nat.zero_add] at hsweep
  unfold maskedHart
  dsimp only
  by_cases hn : lengthOf h = 0
  · rw [if_pos hn]
    refine hsweep.trans ?_
    have hlt : ¬e < lengthOf h := by omega
    have hne : ¬(lengthOf h ≠ 0 ∧ e < vlmax h.csr ∧ tpolOf h.csr ≠ 0) := fun hc => hc.1 hn
    rw [if_neg hlt, if_neg hlt, if_neg hne]
  · rw [if_neg hn]
    refine (bitOf_maskTail _ d _ e hd).trans ?_
    by_cases hlt : e < lengthOf h
    · have hnot : ¬(lengthOf h ≤ e ∧ e < vlmax h.csr ∧ tpolOf h.csr ≠ 0) := by omega
      rw [if_pos hlt] at hsweep ⊢
      exact (if_neg hnot).trans hsweep
    · rw [if_neg hlt] at hsweep ⊢
      have hiff : (lengthOf h ≤ e ∧ e < vlmax h.csr ∧ tpolOf h.csr ≠ 0) ↔
          (lengthOf h ≠ 0 ∧ e < vlmax h.csr ∧ tpolOf h.csr ≠ 0) := by omega
      simp only [← hiff]
      exact ite_congr rfl (fun _ => rfl) (fun _ => hsweep)

end Loop

/-- An instruction with a mask destination whose active elements raise no enabled flag is its loop, its progress and the next
word (R175, R190). -/
theorem maskLoop_eq (s : State) (d : Nat) (act : Nat → Bool) (zero : Bool) (f : Nat → Nat × Nat)
    (hr : s.hart.restart = ⟨0, false, none, none⟩)
    (hf : ∀ e, e < lengthOf s.hart → act e = true → (f e).2 &&& enables s.hart.csr = 0) :
    maskLoop s d act zero f =
      .next (advance { s with hart := completedMask (maskedHart s.hart d act zero f) d (lengthOf s.hart) }) := by
  have hstart : s.hart.restart.start = 0 := congrArg Restart.start hr
  have hstop : s.hart.restart.stop = none := congrArg Restart.stop hr
  have hnone := sweep_stop_none f act zero (fun v e x => putMaskBit v d e x) (enables s.hart.csr) 0 (lengthOf s.hart) s.hart.vec 0
    (fun e _ he => hf e (by omega))
  unfold maskLoop
  dsimp only
  rw [groupStop, hstop, hstart, Nat.sub_zero, hnone]
  simp only [Nat.lt_irrefl, if_false]
  rfl

end Sys2Proof.Machine

namespace Sys2Proof.Claims

open Sys2Proof.Machine

/-- A loop over a mask's bits completes with the flags of its active elements, the bits, the tail and the progress (R177,
R190). -/
theorem maskLoop_written (s : State) (d : Fin 8) (act : Nat → Bool) (f : Nat → Nat × Nat) (hr : freshStart s.hart)
    (hf : ∀ e, e < lengthOf s.hart → act e = true → (f e).2 &&& enables s.hart.csr = 0) :
    ∃ u, maskLoop s d.val act (ipolOf s.hart.csr) f = .next u ∧ u.hart.csr = { s.hart.csr with fcsr := u.hart.csr.fcsr } ∧
      u.hart.csr.fcsr = s.hart.csr.fcsr |||
        word (((List.range (lengthOf s.hart)).filter act).foldl (fun fl e => fl ||| (f e).2) 0 % 32) ∧
      wentOn s u (some d.val) ∧ u.hart.vec.vrf = s.hart.vec.vrf ∧ u.hart.vec.tags = s.hart.vec.tags ∧
      maskWritten s u d (lengthOf s.hart) act (fun e => (f e).1 != 0) := by
  have hframe := maskedHart_frame s.hart d act (ipolOf s.hart.csr) f
  have hfcsr := maskedHart_fcsr s.hart d act (ipolOf s.hart.csr) f hf
  have hbits := bitOf_maskedHart s.hart d act (ipolOf s.hart.csr) f d.isLt hf
  have hother : ∀ k : Fin 8, some d.val ≠ some k.val →
      (maskedHart s.hart d act (ipolOf s.hart.csr) f).vec.masks[k] = s.hart.vec.masks[k] := by
    intro k hk
    refine maskedHart_keeps s.hart d act _ f (fun v => v.masks[k]) (fun v x => ?_)
    exact Vector.getElem_setIfInBounds_ne k.isLt (fun h => hk (congrArg some h))
  refine ⟨_, maskLoop_eq s d act _ f hr hf, ?_⟩
  generalize maskedHart s.hart d act (ipolOf s.hart.csr) f = l at hframe hfcsr hbits hother ⊢
  rw [hframe]
  have hget : ∀ v : Vec, ∀ e, bitOf d.val v e = (v.masks[d]).testBit e := by
    intro v e
    simp [bitOf]
  refine ⟨rfl, hfcsr, ⟨rfl, rfl, rfl, rfl, rfl, hother⟩, rfl, rfl, fun e => ?_, ?_, ?_⟩
  · have he := hbits e
    rw [hget, hget] at he
    exact he
  · exact Vector.getElem_setIfInBounds_self d.isLt
  · refine (getLsbD_setBits _ _ _ _ _ d.isLt).trans ?_
    rw [if_pos ⟨Nat.le_refl _, Nat.lt_succ_self _⟩, Nat.sub_self]
    rfl

/-! ### The statement -/

/-- The element of a word is the row's element on the old state (R186 to R193). -/
theorem elem_eq_elemValue (s : State) (o : ElemOp) (d : Nat) (srcs : List Nat) (m : MReg) (tag e : Nat) :
    (⟨o, d, srcs, m⟩ : ElemWord).elem s.hart ((⟨o, d, srcs, m⟩ : ElemWord).tags s.hart) tag e = elemValue s o srcs m tag e := by
  have hsources : (List.range srcs.length).map (fun i =>
      getElem s.hart (srcs.getD i 0) (narrowTag ((srcs.map (tagOfReg s.hart)).getD i 0)) e) =
      srcs.map (fun r => getElem s.hart r (narrowTag (tagOfReg s.hart r)) e) := by
    refine List.ext_getElem (by simp) (fun i h1 h2 => ?_)
    simp only [List.length_map] at h2
    simp [h2]
  exact congrArg (fun xs => compute o s.hart.csr (srcs.map (tagOfReg s.hart)) tag xs (active s.hart m e)) hsources

/-- The destination of a compare is a mask register (R190). -/
theorem elemRow_cmp (R : SReg → Word) (i : Instr) (u : Bool) (c : Cond) (d : Nat) (srcs : List Nat) (m : MReg)
    (h : elemRow R i = some (.cmp u c, d, srcs, m)) : d < 8 := by
  unfold elemRow at h
  split at h <;> cases h
  exact Fin.isLt _

/-- A word that R20 accepts has a vector destination that holds every element at its tag (R179). -/
theorem capacity_of_accepted (h : Hart) (i : Instr) (R : SReg → Word) (o : ElemOp) (d : Nat) (srcs : List Nat) (m : MReg) (tag : Nat)
    (hrow : elemRow R i = some (o, d, srcs, m)) (hrej : (⟨o, d, srcs, m⟩ : ElemWord).rejects h = none)
    (htag : (⟨o, d, srcs, m⟩ : ElemWord).result h = .inl tag) (hvec : (⟨o, d, srcs, m⟩ : ElemWord).toMask = false) :
    lengthOf h ≤ capacity h.csr tag := by
  have hregs : regsFail h.csr (vectorOperands o d srcs) = none := by
    rw [← vectorOperands_eq o d srcs m]
    unfold ElemWord.rejects at hrej
    dsimp only at hrej
    split at hrej
    · cases hrej
    · assumption
  have hbcast : ∀ x, o = .bcast x → dtagOf h.csr ≠ 0 ∧ srcs = [] := by
    rintro x rfl
    refine ⟨fun hd => ?_, elemRow_bcast R i x d srcs m hrow⟩
    rw [← vectorOperands_eq _ d srcs m] at hregs
    unfold ElemWord.rejects at hrej
    dsimp only at hrej
    rw [hregs] at hrej
    simp [hd] at hrej
  rw [rejects_of_regs h o d srcs m hregs hbcast, Option.map_eq_none_iff] at hrej
  have hdest : destTag h o d srcs m = some tag := by
    unfold destTag
    cases o with
    | cmp => cases hvec
    | cvt sat u t =>
      unfold ElemWord.result resultTag at htag
      dsimp only [ElemOp.tagClass] at htag
      split at htag <;> cases htag
      rfl
    | _ => simp only [htag]
  have hpass : destFails h d tag srcs = false := by
    unfold typeReject at hrej
    rw [hdest] at hrej
    dsimp only at hrej
    split at hrej
    · cases hrej
    · next hc => simpa using hc
  rw [destFails, Bool.or_eq_false_iff] at hpass
  exact Nat.not_lt.1 (of_decide_eq_false hpass.1)

/-- Settles O22: the word's loop over the elements (`vecLoop_written`), or over the bits of a mask (`maskLoop_written`). -/
theorem elementwiseResults : Obligations.ElementwiseResults := by
  intro s i o d srcs m hrow hr hrej tag htag n v act hf
  have hact : (if o == .sel then fun _ => true else active s.hart m) = act := by
    funext e
    show _ = (o == .sel || active s.hart m e)
    cases o == .sel <;> rfl
  have helem : (⟨o, d, srcs, m⟩ : ElemWord).elem s.hart ((⟨o, d, srcs, m⟩ : ElemWord).tags s.hart) tag = v :=
    funext (elem_eq_elemValue s o d srcs m tag)
  have hexec : exec i s = if (⟨o, d, srcs, m⟩ : ElemWord).toMask then maskLoop s d act (ipolOf s.hart.csr) v
      else vecLoop s d tag act (ipolOf s.hart.csr) v := by
    rw [exec_elemRow s i o d srcs m hrow, elementwise, hrej]
    dsimp only
    rw [htag, hact]
    dsimp only
    rw [helem]
  cases hmask : (⟨o, d, srcs, m⟩ : ElemWord).toMask with
  | false =>
    rw [hmask] at hexec
    obtain ⟨u, hloop, hcsr, hfcsr, hwritten⟩ := vecLoop_written s d tag act v hr
      (capacity_of_accepted s.hart i (getReg s) o d srcs m tag hrow hrej htag hmask) hf
    refine ⟨u, hexec.trans hloop, hcsr, hfcsr, ?_⟩
    cases o with
    | cmp => cases hmask
    | _ => exact hwritten
  | true =>
    rw [hmask] at hexec
    cases o with
    | cmp c k =>
      have hd := elemRow_cmp (getReg s) i c k d srcs m hrow
      obtain ⟨u, hloop, hcsr, hfcsr, hwent, hvrf, htags, hbits⟩ := maskLoop_written s ⟨d, hd⟩ act v hr hf
      refine ⟨u, hexec.trans hloop, hcsr, hfcsr, fun k hk => ?_⟩
      obtain rfl : k = ⟨d, hd⟩ := Fin.ext hk
      exact ⟨hwent, hvrf, htags, hbits⟩
    | _ => cases hmask

end Sys2Proof.Claims

/-! Tiles to and from vector registers (R250, R254 to R256). -/

namespace Sys2Proof.Machine

/-! ### Tile elements (R247) -/

theorem accKey_inj {t i j a b : Nat} (hj : j < 384) (hb : b < 384) (h : accKey t i j = accKey t a b) : i = a ∧ j = b := by
  unfold accKey at h
  omega

/-- The elements of a tile's part lie in the tile. -/
theorem accKey_tile {t i j : Nat} (hi : i < 256) (hj : j < 384) : accKey t i j / 98304 = t := by
  unfold accKey
  omega

theorem sget_putAcc (v : Vec) (t i j x k : Nat) :
    sget (putAcc v t i j x).acc k = if k = accKey t i j then BitVec.ofNat 32 x else sget v.acc k := sget_sset ..

/-- Writing tile elements leaves all of the vector state but the accumulators. -/
theorem writeRow_frame (v : Vec) (t q j n : Nat) (x : Nat → Nat) :
    writeRow v t q j n x = { v with acc := (writeRow v t q j n x).acc } := by
  induction n generalizing v j with
  | zero => rfl
  | succ n ih =>
    rw [writeRow, ih]
    rfl

theorem sget_writeRow (v : Vec) (t q j n : Nat) (x : Nat → Nat) (k : Nat) :
    sget (writeRow v t q j n x).acc k =
      if accKey t q j ≤ k ∧ k < accKey t q j + n then BitVec.ofNat 32 (x (j + (k - accKey t q j))) else sget v.acc k := by
  induction n generalizing v j with
  | zero =>
    rw [if_neg (by omega)]
    rfl
  | succ n ih =>
    have hnext : accKey t q (j + 1) = accKey t q j + 1 := rfl
    rw [writeRow, ih, sget_putAcc, hnext]
    by_cases hk : k = accKey t q j
    · rw [if_neg (by omega), if_pos hk, if_pos (by omega), hk, Nat.sub_self, Nat.add_zero]
    · rw [if_neg hk]
      by_cases hin : accKey t q j + 1 ≤ k ∧ k < accKey t q j + 1 + n
      · rw [if_pos hin, if_pos (by omega), show j + 1 + (k - (accKey t q j + 1)) = j + (k - accKey t q j) by omega]
      · rw [if_neg hin, if_neg (by omega)]

/-! ### Checks (R250) -/

/-- Matrix mode on and the tile granted, a tile instruction goes on. -/
theorem matrixTile_pass (s : State) (t : TileId) (k : Out) (hm : s.hart.vec.matrix = true) (he : s.hart.csr.status.getLsbD 4 = true)
    (ht : t.val < tilesOf s.hart.csr) : matrixTile s t k = k := by
  have hbit : bits s.hart.csr.status 4 1 ≠ 0 := by
    intro h
    have := testBit_bits s.hart.csr.status 4 1 0
    rw [h, he] at this
    simp at this
  simp [matrixTile, matrixOn, hm, hbit, Nat.not_le.2 ht]

/-- Where nothing is uncorrectable, a tile is read (R394). -/
theorem readsTile_pass (s : State) (t : TileId) (reads : Nat → Nat → Bool) (k : Out) (hb : s.bad = []) : readsTile s t reads k = k := by
  simp [readsTile, badCells, hb, lowestOf]

/-! ### Slices (R255) -/

/-- The element of a slice in a register of a tag: under BF16, rounded (R255). -/
def sliceElem (c : Csr) (tag : Nat) (x : Nat → Nat) (j : Nat) : Nat × Nat :=
  if tag = 1 then (x j, 0) else convert c false false 1 2 (x j)

theorem sliceElem_fst (c : Csr) (tag : Nat) (x : Nat → Nat) (j : Nat) :
    (sliceElem c tag x j).1 = if tag = 1 then x j else (convert c false false 1 2 (x j)).1 := by
  unfold sliceElem
  split <;> rfl

/-- The hart after a slice of `n` elements `x` into register `d` (R255). -/
def slicedHart (h : Hart) (d n : Nat) (x : Nat → Nat) : Hart :=
  completed (sweptHart h d (dtagOf h.csr) n (fun _ => true) false (sliceElem h.csr (dtagOf h.csr) x)) d (lengthOf h)

/-- A slice of a tile whose operands pass their checks and whose elements raise no enabled flag is a loop over its elements. -/
theorem tileSlice_eq (s : State) (t : TileId) (d : VReg) (n : Nat) (reads : Nat → Nat → Bool) (x : Nat → Nat)
    (hr : s.hart.restart = ⟨0, false, none, none⟩) (hb : s.bad = []) (htag : floatTag (dtagOf s.hart.csr) = true)
    (hregs : regsFail s.hart.csr [d.val] = none) (hfull : overfull s.hart (dtagOf s.hart.csr) = false) (hn : 0 < n)
    (hen : enables s.hart.csr = 0) :
    tileSlice t d n reads x s = .next (advance { s with hart := slicedHart s.hart d.val n x }) := by
  have hstart : s.hart.restart.start = 0 := congrArg Restart.start hr
  have hz : groupStop s.hart n = n := by rw [groupStop, hr]
  have hf : (fun j => if dtagOf s.hart.csr = 1 then (x j, 0) else convert s.hart.csr false false 1 2 (x j)) =
      sliceElem s.hart.csr (dtagOf s.hart.csr) x := rfl
  have hnone := sweep_stop_none (sliceElem s.hart.csr (dtagOf s.hart.csr) x)
    (fun _ => true) false (fun v e x => putElem s.hart.csr v d (narrowTag (dtagOf s.hart.csr)) e x) (enables s.hart.csr) 0 n
    (setTags s.hart d (groupOf s.hart.csr) (dtagOf s.hart.csr)).vec 0 (fun e _ _ _ => by rw [hen, Nat.and_zero])
  unfold tileSlice
  rw [checkRegs_pass _ _ _ hregs]
  dsimp only
  rw [htag, hfull, Bool.not_true, Bool.or_self, if_neg (by decide), readsTile_pass _ _ _ _ hb]
  rw [hz, hstart, Nat.sub_zero, hf, hnone]
  simp only [Nat.lt_irrefl, if_false]
  unfold slicedHart sweptHart
  dsimp only
  rw [if_neg (Nat.ne_of_gt hn)]
  rfl

/-! ### One vector source (R20) -/

/-- A float source that holds every element passes step 3 of R20. -/
theorem typeFails_float (h : Hart) (a : Nat) (htag : floatTag (tagOfReg h a) = true) (hfull : overfull h (tagOfReg h a) = false) :
    typeFails h none (if floatTag (tagOfReg h a) then .inl (tagOfReg h a) else .inr 0) [a] false = none := by
  have hne : (tagOfReg h a == 0) = false := by
    cases hz : tagOfReg h a == 0
    · rfl
    · rw [eq_of_beq hz] at htag
      cases htag
  rw [if_pos htag]
  simp [typeFails, operandFails, sourceFails, firstBelow, firstFrom, hne, hfull]

end Sys2Proof.Machine

namespace Sys2Proof.Claims

open Sys2Proof.Machine

/-- A tile written: the accumulators alone have changed, those of the part to `f` and no other tile's. -/
theorem tileWritten_of_acc (s : State) (k : TileId) (acc : Sparse 32) (f : Nat → Nat → Nat)
    (hin : ∀ i j, i < partRows s.hart → j < partCols s.hart → (sget acc (accKey k.val i j)).toNat = f i j % 2 ^ 32)
    (hout : ∀ x, x / 98304 ≠ k.val → sget acc x = sget s.hart.vec.acc x) :
    tileWritten s (advance { s with hart := { s.hart with vec := { s.hart.vec with acc := acc } } }) k f :=
  ⟨⟨rfl, rfl, rfl, rfl, rfl, fun _ _ => rfl⟩, rfl, rfl, hin, hout⟩

theorem mzero_written (s : State) (k : TileId) (h : tileReady s k) :
    ∃ t, exec (.mzero k) s = .next t ∧ tileWritten s t k (fun _ _ => 0) ∧ t.hart.csr = s.hart.csr := by
  obtain ⟨-, hm, he, hk, -, hrows, -, hcols, -⟩ := h
  refine ⟨_, matrixTile_pass s k _ hm he hk, tileWritten_of_acc s k _ _ (fun i j hi hj => ?_) (fun x hx => ?_), rfl⟩
  · have htile := accKey_tile (t := k.val) (i := i) (j := j) (by omega) (by omega)
    rw [sget_sclear, if_pos (by omega)]
    rfl
  · rw [sget_sclear, if_neg (by omega)]

theorem mwrow_written (s : State) (k : TileId) (h : tileReady s k) (a : VReg) (r : SReg)
    (htag : tagOfReg s.hart a.val = 1 ∨ tagOfReg s.hart a.val = 2) (hregs : regsFail s.hart.csr [a.val] = none)
    (hfull : overfull s.hart (tagOfReg s.hart a.val) = false) :
    ∃ t, exec (.mwrow k a r) s = .next t ∧ t.hart.csr = s.hart.csr ∧ tileWritten s t k (fun i j =>
      if i = (getReg s r).toNat then
        getElem s.hart a.val (narrowTag (tagOfReg s.hart a.val)) j * (if tagOfReg s.hart a.val = 2 then 2 ^ 16 else 1)
      else tileElem s.hart k i j) := by
  obtain ⟨-, hm, he, hk, -, hrows, -, hcols, -⟩ := h
  have hfloat : floatTag (tagOfReg s.hart a.val) = true := by
    rcases htag with h | h <;> rw [h] <;> rfl
  have hexec : exec (.mwrow k a r) s = execMwrow k a r s := rfl
  rw [execMwrow, matrixTile_pass s k _ hm he hk, checkVec_pass _ _ _ _ _ _ hregs (typeFails_float s.hart a.val hfloat hfull)] at hexec
  have hframe : ∀ x, (if (getReg s r).toNat < partRows s.hart then writeRow s.hart.vec k.val (getReg s r).toNat 0 (partCols s.hart) x
      else s.hart.vec) = { s.hart.vec with acc := (if (getReg s r).toNat < partRows s.hart then
        writeRow s.hart.vec k.val (getReg s r).toNat 0 (partCols s.hart) x else s.hart.vec).acc } := by
    intro x
    split
    · exact writeRow_frame ..
    · rfl
  dsimp only at hexec
  rw [hframe] at hexec
  refine ⟨_, hexec, rfl, tileWritten_of_acc s k _ _ (fun i j hi hj => ?_) (fun x hx => ?_)⟩
  · by_cases hq : (getReg s r).toNat < partRows s.hart
    · rw [if_pos hq, sget_writeRow]
      by_cases hiq : i = (getReg s r).toNat
      · subst hiq
        have hin : accKey k.val (getReg s r).toNat 0 ≤ accKey k.val (getReg s r).toNat j ∧
            accKey k.val (getReg s r).toNat j < accKey k.val (getReg s r).toNat 0 + partCols s.hart := by unfold accKey; omega
        rw [if_pos hin, if_pos rfl, BitVec.toNat_ofNat]
        have hj : 0 + (accKey k.val (getReg s r).toNat j - accKey k.val (getReg s r).toNat 0) = j := by unfold accKey; omega
        rw [hj]
        split <;> simp
      · have hout : ¬(accKey k.val (getReg s r).toNat 0 ≤ accKey k.val i j ∧
            accKey k.val i j < accKey k.val (getReg s r).toNat 0 + partCols s.hart) := by unfold accKey; omega
        rw [if_neg hout, if_neg hiq]
        exact (Nat.mod_eq_of_lt (BitVec.isLt _)).symm
    · rw [if_neg hq, if_neg (by omega)]
      exact (Nat.mod_eq_of_lt (BitVec.isLt _)).symm
  · split
    · next hq =>
      rw [sget_writeRow, if_neg]
      unfold accKey
      omega
    · rfl

/-- A slice of a tile into a vector register of a float DTAG (R26, R255). -/
theorem slice_written (s : State) (k : TileId) (h : tileReady s k) (d : VReg) (n : Nat) (reads : Nat → Nat → Bool) (x : Nat → Nat)
    (htag : dtagOf s.hart.csr = 1 ∨ dtagOf s.hart.csr = 2) (hregs : regsFail s.hart.csr [d.val] = none)
    (hfull : overfull s.hart (dtagOf s.hart.csr) = false) (hn : 0 < n) (hcap : n ≤ capacity s.hart.csr (dtagOf s.hart.csr))
    (hen : bits s.hart.csr.fcsr 5 5 = 0) :
    ∃ t, matrixTile s k (tileSlice k d n reads x s) = .next t ∧ wentOn s t none ∧ t.hart.vec.acc = s.hart.vec.acc ∧
      t.hart.csr = { s.hart.csr with fcsr := t.hart.csr.fcsr } ∧
      groupWritten s t d.val (dtagOf s.hart.csr) ∧ progressOf s t d.val (lengthOf s.hart) ∧
      elementsHold s t d.val (dtagOf s.hart.csr) n n (fun _ => true)
        (fun j => if dtagOf s.hart.csr = 1 then x j else (convert s.hart.csr false false 1 2 (x j)).1) := by
  obtain ⟨hr, hm, he, hk, -, -, -, -, hb⟩ := h
  have hfloat : floatTag (dtagOf s.hart.csr) = true := by
    rcases htag with h | h <;> rw [h] <;> rfl
  obtain ⟨hcsr, hacc, -, hwent, hgroup, hprog, helem⟩ := sweptHart_written s d.val (dtagOf s.hart.csr) n (lengthOf s.hart)
    (fun _ => true) false (sliceElem s.hart.csr (dtagOf s.hart.csr) x) hcap (fun _ _ hc => absurd hc (by decide))
    (fun e _ _ => by rw [enables, hen, Nat.and_zero])
  simp only [sliceElem_fst] at helem
  exact ⟨_, (matrixTile_pass s k _ hm he hk).trans (tileSlice_eq s k d n reads x hr hb hfloat hregs hfull hn hen),
    hwent, hacc, hcsr, hgroup, hprog, helem⟩

theorem tileTransferResults : TileTransferResults := by
  intro s k h
  have hrows := h.2.2.2.2.1
  have hcols := h.2.2.2.2.2.2.1
  refine ⟨mzero_written s k h, fun a r htag hregs hfull => mwrow_written s k h a r htag hregs hfull,
    fun d r htag hregs hfull hcapR hcapC hen => ⟨?_, ?_⟩⟩
  · exact slice_written s k h d _ _ _ htag hregs hfull hcols hcapC hen
  · exact slice_written s k h d _ _ _ htag hregs hfull hrows hcapR hen

end Sys2Proof.Claims

/-! Tiles to and from memory (R257): an access that is served leaves the state as it is, a store waits only for packets. -/

namespace Sys2Proof.Machine

open Claims

/-! ### An access through a cached translation (R330, R333) -/

section Cached

variable {s : State} {va : Word} {n : Nat} {a : Access} {pa : Nat}

theorem permitted_cached (h : cachedAt s va n a pa) : permitted s s.hart.core (partOf s.hart) (supervisor s.hart) va a =
    ((.ok pa, entriesAt s false va), s) := by
  obtain ⟨hva, e, hfind, h1, h2, hpa, -, -, -⟩ := h
  have hhigh : bits va 48 16 = 0 := by
    simp only [bits]
    omega
  have hlookup : lookup s s.hart.core (partOf s.hart) va.toNat = (.inl e, s) := by
    unfold lookup
    rw [hartAt_self, hfind]
  unfold permitted
  rw [if_neg (not_not_intro hhigh), hlookup]
  simp [h1, h2, hpa, entriesAt, hfind]

theorem probe_cached (h : cachedAt s va n a pa) : probe s s.hart.core (partOf s.hart) (supervisor s.hart) va n a =
    ((.ok pa, entriesAt s false va), s) := by
  have hp := permitted_cached h
  obtain ⟨-, e, -, -, -, -, hserved, hwrite, -⟩ := h
  unfold probe
  rw [hp]
  dsimp only
  rw [hserved]
  dsimp only
  rw [if_neg]
  simp only [Bool.and_eq_true, beq_iff_eq, Bool.not_eq_true', not_and, Bool.not_eq_false]
  exact hwrite

/-- Entries whose A bit is set are not written again. -/
theorem markUsed_marked (s : State) (part : Nat) (es : List (Nat × Bool)) (h : ∀ x ∈ es, word8 s x.1 ||| 0x100#64 = word8 s x.1) :
    markUsed s part es false = s := by
  have hmark : ∀ pa, word8 s pa ||| 0x100#64 = word8 s pa → markEntry s part pa false = (false, s) := by
    intro pa hpa
    unfold markEntry
    simp only [Bool.false_eq_true, if_false]
    exact if_pos (by rw [decide_eq_true hpa]; rfl)
  fun_induction markUsed s part es false with
  | case1 => rfl
  | case2 s own e rest r ih =>
    have he := hmark e (h (e, false) (by simp))
    have hr : r = (false, s) := he
    rw [hr] at ih ⊢
    exact ih (fun x hx => h x (by simp [hx])) hmark
  | case3 s x rest _ ih =>
    rw [hmark x.1 (h x (by simp))] at ih ⊢
    exact ih (fun y hy => h y (by simp [hy])) hmark

theorem translate_cached (h : cachedAt s va n a pa) : translate s s.hart.core (partOf s.hart) (supervisor s.hart) va n a =
    ((.ok pa, entriesAt s false va), s) := by
  have hp := probe_cached h
  obtain ⟨-, e, hfind, -, -, -, -, -, hmarks⟩ := h
  have hentries : entriesAt s false va = e.entries := by simp [entriesAt, hfind]
  unfold translate
  rw [hp]
  dsimp only
  rw [markUsed_marked]
  intro x hx
  rw [hentries] at hx
  have hbit := hmarks x hx
  split at hbit
  · replace hbit : word8 s x.1 ||| 0x300#64 = word8 s x.1 := hbit
    calc word8 s x.1 ||| 0x100#64 = (word8 s x.1 ||| 0x300#64) ||| 0x100#64 := by rw [hbit]
      _ = word8 s x.1 ||| 0x300#64 := by rw [BitVec.or_assoc]; rfl
      _ = word8 s x.1 := hbit
  · exact hbit

end Cached

/-! ### One element (R213) -/

theorem pieceFate_lands {s : State} {f : Form} {local_ : Bool} {va : Word} {size : Nat} {p : Place} (hf : f.write = !f.read)
    (hb : s.bad = []) (h : lands s local_ f.kind va size p) : pieceFate s f local_ ⟨va, size⟩ = (.ok [p], s) := by
  have hkind : f.kind = if f.read then .read else .write := by
    unfold Form.kind
    rw [hf]
    cases f.read <;> rfl
  have hone : (f.read && f.write) = false := by
    rw [hf]
    cases f.read <;> rfl
  unfold pieceFate
  cases local_ with
  | true =>
    obtain ⟨-, -, rfl, hbusy, -⟩ := h
    have hgood : badBytes s s.hart (.spad (va.toNat - 0x100000)) size = false := by simp [badBytes, badPlace, hb]
    rw [if_pos rfl]
    dsimp only
    cases hr : f.read
    · rw [hf, hr, hbusy (by rw [hkind, hr]; rfl)]
      rfl
    · rw [hf, hr, hgood]
      rfl
  | false =>
    obtain ⟨-, pa, rfl, hcached⟩ := h
    rw [if_neg (by decide)]
    dsimp only
    rw [probe_cached hcached, hone]
    simp [badMem, lostLine, hb]

/-- Marking what a served element uses changes nothing; it sets the D bits of its entries later (R330). -/
theorem markPieces_lands {s : State} {f : Form} {local_ : Bool} {va : Word} {size : Nat} {p : Place}
    (h : lands s local_ f.kind va size p) : markPieces s f [⟨va, size⟩] = (entriesAt s local_ va, s) := by
  unfold markPieces
  rw [List.foldl_cons, List.foldl_nil]
  dsimp only
  cases local_ with
  | true =>
    obtain ⟨-, hhi, -⟩ := h
    rw [if_pos (by unfold globalBase; omega)]
    rfl
  | false =>
    obtain ⟨hlo, pa, -, hcached⟩ := h
    rw [if_neg (by unfold globalBase; omega), translate_cached hcached]
    rfl

/-- A served element is in range (R48). -/
theorem lands_inRange {s : State} {local_ : Bool} {a : Access} {va : Word} {size : Nat} {p : Place}
    (h : lands s local_ a va size p) : outOfRange local_ ⟨va, size⟩ = false := by
  unfold outOfRange
  cases local_ with
  | true =>
    obtain ⟨hlo, hhi, -⟩ := h
    simp [hlo, hhi]
  | false =>
    obtain ⟨hlo, -⟩ := h
    exact decide_eq_false (Nat.not_lt.2 hlo)

/-- An access is local where its elements are (R48). -/
theorem lands_local {s : State} {local_ : Bool} {a : Access} {va : Word} {size : Nat} {p : Place} (hs : 0 < size)
    (h : lands s local_ a va size p) : decide (va.toNat < globalBase) = local_ := by
  cases local_ with
  | true =>
    obtain ⟨-, hhi, -⟩ := h
    exact decide_eq_true (show va.toNat < 0x400000 by omega)
  | false =>
    obtain ⟨hlo, -⟩ := h
    exact decide_eq_false (Nat.not_lt.2 hlo)

/-! ### The whole of a tile (R257) -/

/-- Elements that are all served are judged so, and the state stays. -/
theorem judge_lands {s : State} {f : Form} {local_ : Bool} {addr : Nat → Word} {size : Nat} {place : Nat → Place}
    (hf : f.write = !f.read) (hb : s.bad = []) (es : List Nat) (acc : List Judged)
    (h : ∀ e ∈ es, (addr e).toNat % f.w = 0 ∧ lands s local_ f.kind (addr e) size (place e)) :
    judge s f local_ (fun e => [⟨addr e, size⟩]) es acc =
      (⟨acc.reverse ++ es.map (fun e => ⟨e, addr e, .ok [place e]⟩), none⟩, s) := by
  induction es generalizing acc with
  | nil => simp [judge]
  | cons e es ih =>
    obtain ⟨halign, hland⟩ := h e (by simp)
    have hrange : [(⟨addr e, size⟩ : Piece)].any (outOfRange local_) = false := by simp [lands_inRange hland]
    have hfate : elemFate s f local_ [⟨addr e, size⟩] = (.ok [place e], s) := by
      rw [elemFate, List.foldl_cons, List.foldl_nil, pieceFate_lands hf hb hland]
      rfl
    have haddr : addrOf [⟨addr e, size⟩] = addr e := rfl
    rw [judge]
    dsimp only
    rw [hrange, if_neg (by decide), haddr, if_neg (not_not_intro halign), hfate, ih _ (fun x hx => h x (by simp [hx]))]
    simp

/-- The elements of a tile access that are all served, with their places. -/
def servedEls (n : Nat) (place : Nat → Place) : List (Nat × List Place) := (List.range n).map (fun e => (e, [place e]))

/-- The judgement of an access of `n` elements that are all served. -/
def servedJudgement (n : Nat) (addr : Nat → Word) (place : Nat → Place) : Judgement :=
  ⟨(List.range n).map (fun e => ⟨e, addr e, .ok [place e]⟩), none⟩

section Served

variable (n : Nat) (addr : Nat → Word) (place : Nat → Place)

theorem firstWhere_served (p : Judged → Bool) (h : ∀ e, p ⟨e, addr e, .ok [place e]⟩ = false) :
    firstWhere (servedJudgement n addr place).els p = none := by
  simp [firstWhere, servedJudgement, h]

theorem tileTrap_served : tileTrap (servedJudgement n addr place) = none := by
  unfold tileTrap
  rw [firstWhere_served n addr place _ (fun _ => rfl), firstWhere_served n addr place _ (fun _ => rfl)]
  rfl

theorem tileBound_served (m : Nat) : tileBound (servedJudgement n addr place) m = m := by
  unfold tileBound
  rw [firstWhere_served n addr place _ (fun _ => rfl)]
  rfl

theorem resident_served :
    resident ((servedJudgement n addr place).els.filter (fun x => decide (x.e < n) && decide (x.e < n))) = servedEls n place := by
  have hall : (servedJudgement n addr place).els.filter (fun x => decide (x.e < n) && decide (x.e < n)) =
      (servedJudgement n addr place).els := by
    rw [List.filter_eq_self]
    simp [servedJudgement]
  rw [hall, resident, servedJudgement, List.filterMap_map, servedEls, ← List.filterMap_eq_map]
  rfl

end Served

/-- The address of element `e` of a tile (R257). -/
def tileAddr (s : State) (a r : SReg) (e : Nat) : Word :=
  getReg s a + word (e / partCols s.hart) * getReg s r + word (4 * (e % partCols s.hart))

/-- A tile access whose elements are all served performs them all and goes on. -/
theorem tileAccess_lands {s : State} {f : Form} {a r : SReg} (k : State → List (Nat × List Place) → State) {local_ : Bool}
    {place : Nat → Place} (hr : s.hart.restart = ⟨0, false, none, none⟩) (hf : f.write = !f.read) (hw : f.w = 4) (hb : s.bad = [])
    (hrows : 0 < partRows s.hart) (hcols : 0 < partCols s.hart)
    (hbase : (getReg s a).toNat % 4 = 0) (hstride : (getReg s r).toNat % 4 = 0)
    (h : ∀ e, e < partRows s.hart * partCols s.hart →
      (tileAddr s a r e).toNat % 4 = 0 ∧ lands s local_ f.kind (tileAddr s a r e) 4 (place e)) :
    tileAccess s f a r k = .next (advance (k s (servedEls (partRows s.hart * partCols s.hart) place))) := by
  have hstart : s.hart.restart.start = 0 := congrArg Restart.start hr
  have hstop : unitStop s.hart (partRows s.hart) = partRows s.hart := by rw [unitStop, hr]
  have hn : 0 < partRows s.hart * partCols s.hart := Nat.mul_pos hrows hcols
  have hland0 := (h 0 hn).2
  have hbase0 : tileAddr s a r 0 = getReg s a := by simp [tileAddr, word]
  have hlocal : decide ((getReg s a).toNat < globalBase) = local_ := hbase0 ▸ lands_local (by decide) hland0
  have hall : (List.range (partRows s.hart * partCols s.hart)).filter (fun e => decide (0 * partCols s.hart ≤ e)) =
      List.range (partRows s.hart * partCols s.hart) := by simp
  have hjudge : judge s f local_ (fun e => [⟨getReg s a + word (e / partCols s.hart) * getReg s r +
      word (4 * (e % partCols s.hart)), 4⟩]) (List.range (partRows s.hart * partCols s.hart)) [] =
      (servedJudgement (partRows s.hart * partCols s.hart) (tileAddr s a r) place, s) :=
    judge_lands hf hb _ [] (fun e he => ⟨by rw [hw]; exact (h e (List.mem_range.1 he)).1, (h e (List.mem_range.1 he)).2⟩)
  have hwait : (f.read && local_ && (servedEls (partRows s.hart * partCols s.hart) place).any
      (fun x => localPlace x.2 (copyCovers s s.hart (sender s.hart)))) = false := by
    cases hread : f.read
    · rfl
    · cases local_
      · rfl
      · rw [Bool.true_and, Bool.true_and, List.any_eq_false]
        intro x hx
        obtain ⟨e, he, rfl⟩ := List.mem_map.1 hx
        obtain ⟨-, -, hplace, -, hcopy⟩ := (h e (List.mem_range.1 he)).2
        have hkind : f.kind = .read := by
          unfold Form.kind
          rw [hf, hread]
          rfl
        rw [hplace]
        simpa [localPlace] using hcopy hkind
  unfold tileAccess
  dsimp only
  rw [if_neg (not_not_intro hbase), if_neg (not_not_intro hstride), hstart, hlocal, hall]
  change (if outOfRange local_ ⟨tileAddr s a r (0 * partCols s.hart), 4⟩ = true then _ else _) = _
  rw [Nat.zero_mul, lands_inRange hland0, if_neg (by decide)]
  rw [hjudge]
  dsimp only
  rw [tileTrap_served, tileBound_served]
  simp only [Option.isNone_none, if_true, hstop, resident_served, hwait, Bool.false_eq_true, if_false, Nat.lt_irrefl]
  rfl

/-! ### Loading a tile (R257) -/

/-- A lane of a hart with no store on its way reads the place as it is. -/
theorem laneRead_quiet {s : State} (hq : quiet s) (e : Nat) (p : Place) (n : Nat) : laneRead s e p n = (laneValue s p n, s) := by
  obtain ⟨hpackets, -, holds⟩ := hq
  have hhome : ∀ q, atHomeOf s q = s := by
    intro q
    unfold atHomeOf
    split
    · have hnone : ∀ k, s.packets.filter (fun p => p.transit == .recovery && p.endpoint == k) = [] := by
        intro k
        rw [List.filter_eq_nil_iff]
        intro p hp
        simp [(hpackets p hp).2]
      rw [drainRecovery, hnone]
      rfl
    · rfl
  have hsettle : ∀ c ps, settle s c ps = s := by
    intro c ps
    unfold settle
    rw [hhome]
    dsimp only
    rw [if_neg]
    simp only [List.any_eq_true, Bool.and_eq_true, beq_iff_eq, not_exists, not_and]
    exact fun q hq hcore => absurd hcore.1 (hpackets q hq).1
  have hold : oldAt s s.hart.core p = none := by simp [oldAt, holds]
  unfold laneRead
  rw [hsettle]
  dsimp only
  rw [hold]
  rfl

/-- The state with other accumulators. -/
def withAcc (s : State) (acc : Sparse 32) : State := { s with hart := { s.hart with vec := { s.hart.vec with acc := acc } } }

/-- The accumulators after `m` elements of a tile are loaded from their places. -/
def loadedAcc (s : State) (k : TileId) (place : Nat → Place) (m : Nat) : Sparse 32 :=
  (List.range m).foldl (fun acc e => sset acc (accKey k.val (e / partCols s.hart) (e % partCols s.hart))
    (BitVec.ofNat 32 (laneValue s (place e) 4))) s.hart.vec.acc

theorem loadedAcc_succ (s : State) (k : TileId) (place : Nat → Place) (m : Nat) :
    loadedAcc s k place (m + 1) = sset (loadedAcc s k place m) (accKey k.val (m / partCols s.hart) (m % partCols s.hart))
      (BitVec.ofNat 32 (laneValue s (place m) 4)) := by
  rw [loadedAcc, List.range_succ, List.foldl_append]
  rfl

/-- An element of the part after `m` elements are loaded in row-major order. -/
theorem sget_loadedAcc (s : State) (k : TileId) (place : Nat → Place) (m i j : Nat) (hnp : partCols s.hart ≤ 384)
    (hj : j < partCols s.hart) : sget (loadedAcc s k place m) (accKey k.val i j) =
      if i * partCols s.hart + j < m then BitVec.ofNat 32 (laneValue s (place (i * partCols s.hart + j)) 4)
      else sget s.hart.vec.acc (accKey k.val i j) := by
  induction m with
  | zero => rfl
  | succ m ih =>
    have hmod : m % partCols s.hart < partCols s.hart := Nat.mod_lt _ (by omega)
    have hdiv := Nat.div_add_mod m (partCols s.hart)
    rw [loadedAcc_succ, sget_sset, ih]
    by_cases hm : i * partCols s.hart + j = m
    · have hi : m / partCols s.hart = i := by rw [← hm, Nat.mul_comm, Nat.mul_add_div (by omega), Nat.div_eq_of_lt hj, Nat.add_zero]
      have hj' : m % partCols s.hart = j := by rw [← hm, Nat.mul_comm, Nat.mul_add_mod, Nat.mod_eq_of_lt hj]
      rw [if_pos (by rw [hi, hj']), if_pos (by omega), hm]
    · have hkey : accKey k.val i j ≠ accKey k.val (m / partCols s.hart) (m % partCols s.hart) := by
        intro hkey
        obtain ⟨hi, hj'⟩ := accKey_inj (by omega) (by omega) hkey
        rw [hi, hj', Nat.mul_comm] at hm
        exact hm hdiv
      rw [if_neg hkey]
      by_cases hlt : i * partCols s.hart + j < m
      · rw [if_pos hlt, if_pos (by omega)]
      · rw [if_neg hlt, if_neg (by omega)]

/-- Loading a tile writes no other tile. -/
theorem sget_loadedAcc_other (s : State) (k : TileId) (place : Nat → Place) (m x : Nat) (hnp : 0 < partCols s.hart)
    (hle : partCols s.hart ≤ 384) (hm : m ≤ 256 * partCols s.hart) (hx : x / 98304 ≠ k.val) :
    sget (loadedAcc s k place m) x = sget s.hart.vec.acc x := by
  induction m with
  | zero => rfl
  | succ m ih =>
    have hmod : m % partCols s.hart < partCols s.hart := Nat.mod_lt _ hnp
    have hrow : m / partCols s.hart < 256 := Nat.div_lt_of_lt_mul (by rw [Nat.mul_comm]; omega)
    have hkey : x ≠ accKey k.val (m / partCols s.hart) (m % partCols s.hart) := by
      rintro rfl
      exact hx (accKey_tile hrow (by omega))
    rw [loadedAcc_succ, sget_sset, if_neg hkey, ih (by omega)]

/-- One element of a tile loaded (R257). -/
def loadStep (s : State) (f : Form) (k : TileId) (np : Nat) (va : Word) (e : Nat) (p : Place) : State :=
  let v := laneRead (markTile s f va).2 (e % np) p 4
  { v.2 with hart := { v.2.hart with vec := putAcc v.2.hart.vec k.val (e / np) (e % np) v.1 } }

/-- Elements that are all served are loaded one by one, and nothing but the tile changes. -/
theorem loadSteps_lands {s : State} {f : Form} {k : TileId} {addr : Nat → Word} {local_ : Bool} {place : Nat → Place} (hq : quiet s)
    (m : Nat) (h : ∀ e, e < m → lands s local_ f.kind (addr e) 4 (place e)) :
    (List.range m).foldl (fun u e => loadStep u f k (partCols s.hart) (addr e) e (place e)) s = withAcc s (loadedAcc s k place m) := by
  induction m with
  | zero => rfl
  | succ m ih =>
    have hland : lands (withAcc s (loadedAcc s k place m)) local_ f.kind (addr m) 4 (place m) := h m (Nat.lt_succ_self m)
    have hquiet : quiet (withAcc s (loadedAcc s k place m)) := hq
    rw [List.range_succ, List.foldl_append, ih (fun e he => h e (by omega)), List.foldl_cons, List.foldl_nil, loadedAcc_succ]
    unfold loadStep markTile
    rw [markPieces_lands hland]
    dsimp only
    rw [laneRead_quiet hquiet]
    rfl

end Sys2Proof.Machine

namespace Sys2Proof.Claims

open Sys2Proof.Machine

theorem mldt_written (s : State) (k : TileId) (a r : SReg) (hready : tileReady s k) (hq : quiet s)
    (hbase : (getReg s a).toNat % 4 = 0) (hstride : (getReg s r).toNat % 4 = 0) (local_ : Bool) (place : Nat → Place)
    (h : ∀ e, e < partRows s.hart * partCols s.hart →
      (tileAddr s a r e).toNat % 4 = 0 ∧ lands s local_ .read (tileAddr s a r e) 4 (place e)) :
    ∃ t, exec (.mldt k a r) s = .next t ∧ t.hart.csr = s.hart.csr ∧
      tileWritten s t k (fun i j => laneValue s (place (i * partCols s.hart + j)) 4) := by
  obtain ⟨hr, hm, he, hk, hrows0, hrows, hcols0, hcols, hb⟩ := hready
  have hexec : exec (.mldt k a r) s = execMldt k a r s := rfl
  rw [execMldt, matrixTile_pass s k _ hm he hk] at hexec
  dsimp only at hexec
  rw [tileAccess_lands _ hr rfl rfl hb hrows0 hcols0 hbase hstride h, servedEls, List.foldl_map] at hexec
  have hload := loadSteps_lands (f := ⟨0, 4, false, true, false, 1, a.val⟩) (k := k) hq (partRows s.hart * partCols s.hart)
    (fun e he => (h e he).2)
  refine ⟨_, hexec.trans (congrArg (fun u => Host.Outcome.next (advance u)) hload), rfl,
    tileWritten_of_acc s k _ _ (fun i j hi hj => ?_) (fun x hx => ?_)⟩
  · have hlt : i * partCols s.hart + j < partRows s.hart * partCols s.hart := by
      calc i * partCols s.hart + j < i * partCols s.hart + partCols s.hart := by omega
        _ = (i + 1) * partCols s.hart := (Nat.succ_mul ..).symm
        _ ≤ partRows s.hart * partCols s.hart := Nat.mul_le_mul_right _ hi
    rw [sget_loadedAcc s k place _ i j hcols hj, if_pos hlt, BitVec.toNat_ofNat]
  · exact sget_loadedAcc_other s k place _ x hcols0 hcols (Nat.mul_le_mul_right _ hrows) hx

end Sys2Proof.Claims

/-! Storing a tile (R257): what waiting for packets leaves, and the packets that are sent (R210, R365). -/

namespace Sys2Proof.Claims

open Sys2Proof.Machine

/-! ### What waiting for packets leaves -/

/-- What of a hart performing packets does not touch. -/
def registersOf (h : Hart) := (h.core, h.pc, h.regs, h.csr, h.vec, h.engines)

/-- What performing packets leaves: the acting hart's registers, no packet that was not there, and no number that was given. -/
structure WaitKeeps (s u : State) : Prop where
  hart : registersOf u.hart = registersOf s.hart
  serial : s.serial ≤ u.serial
  packets : (u.packets.map doesOf).Sublist (s.packets.map doesOf)

theorem WaitKeeps.refl (s : State) : WaitKeeps s s := ⟨rfl, Nat.le_refl _, List.Sublist.refl _⟩

theorem WaitKeeps.trans {s t u : State} (h1 : WaitKeeps s t) (h2 : WaitKeeps t u) : WaitKeeps s u :=
  ⟨h2.hart.trans h1.hart, Nat.le_trans h1.serial h2.serial, h2.packets.trans h1.packets⟩

/-- A step that keeps the acting hart, the numbers and the packets. -/
theorem WaitKeeps.of_eq {s u : State} (hh : u.hart = s.hart) (hn : u.serial = s.serial) (hp : u.packets = s.packets) :
    WaitKeeps s u := ⟨by rw [hh], by rw [hn], by rw [hp]⟩

theorem WaitKeeps.core (s : State) (c : Nat) (f : Hart → Hart) (hf : ∀ g, registersOf (f g) = registersOf g) :
    WaitKeeps s (onCore s c f) := by
  refine ⟨onCore_keeps registersOf s c f hf, ?_, ?_⟩
  · unfold onCore
    split <;> exact Nat.le_refl _
  · unfold onCore
    split <;> exact List.Sublist.refl _

theorem serial_writeHome (s : State) (keep : Option Nat) (pa size v : Nat) : s.serial ≤ (writeHome s keep pa size v).serial := by
  have hnotify : ∀ (u : State) pa, (notifyWord u pa).serial = u.serial := by
    intro u pa
    unfold notifyWord
    split
    · rfl
    · dsimp only
      split <;> rfl
  have hsequence : ∀ (u : State) pa, u.serial ≤ (sequenceWord u pa).serial := by
    intro u pa
    unfold sequenceWord
    split
    · exact Nat.le_refl _
    · exact Nat.le_add_right ..
  unfold writeHome
  dsimp only
  rw [hnotify]
  refine Nat.le_trans ?_ (hsequence _ _)
  exact Nat.le_refl _

/-- Every step of a walk is such a step. -/
theorem walkKeeps_wait : WalkKeeps WaitKeeps where
  refl := WaitKeeps.refl
  trans := WaitKeeps.trans
  write s keep pa size v := ⟨by rw [writeHome_hart], serial_writeHome .., by rw [writeHome_packets]⟩
  core s c f hf := WaitKeeps.core s c f (fun g => by
    obtain ⟨banks, tlb, hg⟩ := hf g
    rw [hg]
    rfl)
  die _ _ := WaitKeeps.of_eq rfl rfl rfl

theorem WaitKeeps.writeChunks (s : State) (keep : Option Nat) (pa : Nat) (bs : List Byte) (fuel : Nat) :
    WaitKeeps s (writeChunks s keep pa bs fuel) := by
  fun_induction Machine.writeChunks s keep pa bs fuel with
  | case1 => exact WaitKeeps.refl _
  | case2 => exact WaitKeeps.refl _
  | case3 => rename_i ih; exact (walkKeeps_wait.write ..).trans ih

theorem WaitKeeps.dropOlds (s : State) (core : Nat) (p : Place) : WaitKeeps s (dropOlds s core p) := by
  unfold Machine.dropOlds
  split <;> exact WaitKeeps.of_eq rfl rfl rfl

theorem WaitKeeps.placeBytes (s : State) (core qos : Nat) (p : Place) (size data mask : Nat) :
    WaitKeeps s (placeBytes s core qos p size data mask) := by
  unfold Machine.placeBytes
  dsimp only
  refine (WaitKeeps.dropOlds s core p).trans ?_
  split
  · exact WaitKeeps.core _ _ _ (fun _ => rfl)
  · exact WaitKeeps.core _ _ _ (fun _ => rfl)
  · exact (WaitKeeps.writeChunks ..).trans (WaitKeeps.of_eq rfl rfl rfl)

/-- The state without a packet. -/
def withoutPacket (s : State) (p : Packet) : State :=
  { s with packets := s.packets.filter (fun q => q.id != p.id), suspects := s.suspects.filter (fun x => x.2 != p.id) }

theorem WaitKeeps.performPacket (s : State) (p : Packet) : WaitKeeps s (performPacket s p) := by
  have hremove : WaitKeeps s (withoutPacket s p) := ⟨rfl, Nat.le_refl _, List.filter_sublist.map doesOf⟩
  have hmark := hremove.trans
    (walkKeeps_wait.markUsed (withoutPacket s p) (partOf (hartAt (withoutPacket s p) p.core)) p.entries true)
  unfold Machine.performPacket
  dsimp only
  split
  · exact hmark.trans (WaitKeeps.placeBytes ..)
  · exact hmark.trans ((WaitKeeps.placeBytes ..).trans (WaitKeeps.placeBytes ..))

/-- A run over a list of steps each of which is such a step. -/
theorem WaitKeeps.foldl {α : Type} (f : State → α → State) (hf : ∀ s x, WaitKeeps s (f s x)) (xs : List α) (s : State) :
    WaitKeeps s (xs.foldl f s) := by
  induction xs generalizing s with
  | nil => exact WaitKeeps.refl s
  | cons x xs ih => exact (hf s x).trans (ih _)

theorem WaitKeeps.performWindow (s : State) (fuel : Nat) : WaitKeeps s (performWindow s fuel) := by
  fun_induction Machine.performWindow s fuel with
  | case1 => exact WaitKeeps.refl _
  | case2 => rename_i ih; exact (WaitKeeps.performPacket ..).trans ih
  | case3 => exact WaitKeeps.refl _

theorem WaitKeeps.arrive (s : State) (p : Packet) : WaitKeeps s (arrive s p) := by
  have hwindow : WaitKeeps s (setTransit (unsuspect s p.id) p.id .window) := by
    refine ⟨rfl, Nat.le_refl _, ?_⟩
    have hsame : ∀ q : Packet, doesOf (if q.id = p.id then { q with transit := .window } else q) = doesOf q := by
      intro q
      split <;> rfl
    rw [show (setTransit (unsuspect s p.id) p.id .window).packets = s.packets.map (fun q => if q.id = p.id then
      { q with transit := .window } else q) from rfl, List.map_map]
    rw [show doesOf ∘ (fun q : Packet => if q.id = p.id then { q with transit := .window } else q) = doesOf from funext hsame]
  exact hwindow.trans (WaitKeeps.performWindow ..)

theorem WaitKeeps.performNext (s : State) (p : Packet) : WaitKeeps s (performNext s p) := by
  have hdrain : WaitKeeps s (drainRecovery s p.endpoint) := WaitKeeps.foldl _ WaitKeeps.arrive _ s
  unfold Machine.performNext
  dsimp only
  split
  · exact hdrain.trans (WaitKeeps.performPacket ..)
  · exact hdrain

theorem WaitKeeps.performPackets (s : State) (f : Packet → Bool) : WaitKeeps s (performPackets s f) :=
  WaitKeeps.foldl _ WaitKeeps.performNext _ s

theorem WaitKeeps.markPieces (s : State) (f : Form) (va : Word) (size : Nat) : WaitKeeps s (markPieces s f [⟨va, size⟩]).2 := by
  unfold Machine.markPieces
  rw [List.foldl_cons, List.foldl_nil]
  dsimp only
  split
  · exact WaitKeeps.refl s
  · exact walkKeeps_wait.translate ..

/-! ### Sending a packet (R365) -/

/-- The packets of the same stream at a slice of a packet. -/
def inWindow (p q : Packet) : Bool := q.core == p.core && q.cluster == p.cluster && (meet q.places p.places).1

/-- A packet is sent at once where its window has room. -/
theorem sendPacket_room (s : State) (p : Packet) (h : s.packets.countP (inWindow p) < 32) :
    sendPacket s p = { s with packets := s.packets ++ [p], serial := s.serial + 1 } := by
  rw [List.countP_eq_length_filter] at h
  have hroom : ¬32 ≤ (s.packets.filter (fun q => q.core == p.core && q.cluster == p.cluster &&
      (meet q.places p.places).1)).length := Nat.not_le.2 h
  unfold sendPacket
  dsimp only
  split
  · rfl
  · rw [if_neg hroom]

/-- A packet is sent behind what is left of those before it. -/
theorem sendPacket_keeps (s : State) (p : Packet) : registersOf (sendPacket s p).hart = registersOf s.hart ∧
    s.serial + 1 ≤ (sendPacket s p).serial ∧ ((sendPacket s p).packets.map doesOf).Sublist (s.packets.map doesOf ++ [doesOf p]) := by
  have hwait : ∀ u, WaitKeeps s u → registersOf u.hart = registersOf s.hart ∧
      s.serial + 1 ≤ u.serial + 1 ∧ ((u.packets ++ [p]).map doesOf).Sublist (s.packets.map doesOf ++ [doesOf p]) := by
    intro u hu
    refine ⟨hu.hart, Nat.succ_le_succ hu.serial, ?_⟩
    rw [List.map_append]
    exact hu.packets.append (List.Sublist.refl _)
  unfold sendPacket
  dsimp only
  split
  · exact hwait s (WaitKeeps.refl s)
  · split
    · exact hwait _ (WaitKeeps.performPackets ..)
    · exact hwait s (WaitKeeps.refl s)

/-- A packet with bytes meets itself. -/
theorem inWindow_self (p : Packet) (h : 0 < p.size) : inWindow p p = true := by
  have hmeet : (meet p.places p.places).1 = true := by
    obtain ⟨x, hx⟩ : ∃ x, x ∈ p.places := List.exists_mem_of_length_pos (by simpa [Packet.places] using h)
    exact List.any_eq_true.2 ⟨x, hx, List.any_eq_true.2 ⟨x, hx, beq_self_eq_true _⟩⟩
  simp [inWindow, hmeet]

/-- Where the windows have room for a packet behind others, those before it fill no window of it. -/
theorem countP_of_windowFits (ps : List Packet) (p : Packet) (hp : 0 < p.size) (h : windowFits (ps ++ [p])) :
    ps.countP (inWindow p) < 32 := by
  have hall := h p (by simp)
  change (ps ++ [p]).countP (inWindow p) ≤ 32 at hall
  rw [List.countP_append, List.countP_cons_of_pos (inWindow_self p hp)] at hall
  omega

theorem windowFits_left (ps qs : List Packet) (h : windowFits (ps ++ qs)) : windowFits ps := by
  intro p hp
  refine Nat.le_trans ?_ (h p (List.mem_append_left _ hp))
  exact (List.sublist_append_left ps qs).countP_le

/-! ### Storing a tile (R257) -/

/-- A packet of a store, the `k`th that it sends. -/
def packetOf (s : State) (k : Nat) (x : Sending) : Packet :=
  ⟨s.serial + k, s.hart.core, x.e % 64 / 8, sender s.hart, x.e / 64, .request, classOfHart s s.hart, x.place, x.second, x.size,
    x.data, x.mask, x.entries, .mesh, s.clock⟩

theorem sentAs_succ (s : State) (g : Nat → Sending) (m : Nat) :
    sentAs s ((List.range (m + 1)).map g) = sentAs s ((List.range m).map g) ++ [packetOf s m (g m)] := by
  rw [List.range_succ, List.map_append, sentAs, List.mapIdx_append]
  simp [sentAs, packetOf]

theorem length_sentAs (s : State) (xs : List Sending) : (sentAs s xs).length = xs.length := List.length_mapIdx

/-- One element of a tile stored (R257). -/
def storeStep (s : State) (f : Form) (k : TileId) (np : Nat) (va : Word) (e : Nat) (p : Place) : State :=
  let u := markTile s f va
  sendElem u.2 (e % np) p none 4 (getAcc u.2.hart.vec k.val (e / np) (e % np)) (2 ^ 32 - 1) u.1

/-- What the packet of an element of a tile is to say (R257). -/
def tileSending (s : State) (k : TileId) (local_ : Bool) (addr : Nat → Word) (place : Nat → Place) (e : Nat) : Sending :=
  ⟨e % partCols s.hart, place e, none, 4, tileElem s.hart k (e / partCols s.hart) (e % partCols s.hart), 2 ^ 32 - 1,
    entriesAt s local_ (addr e)⟩

section Store

variable (s : State) (f : Form) (k : TileId) (local_ : Bool) (addr : Nat → Word) (place : Nat → Place)

/-- Some elements of a tile stored one by one. -/
def storeSteps (m : Nat) : State :=
  (List.range m).foldl (fun u e => storeStep u f k (partCols s.hart) (addr e) e (place e)) s

theorem storeSteps_succ (m : Nat) : storeSteps s f k addr place (m + 1) =
    storeStep (storeSteps s f k addr place m) f k (partCols s.hart) (addr m) m (place m) := by
  rw [storeSteps, List.range_succ, List.foldl_append]
  rfl

/-- The packets of a tile that are still under way, in order; the hart's registers are as before (R365). -/
theorem storeSteps_keep (m : Nat) : registersOf (storeSteps s f k addr place m).hart = registersOf s.hart ∧
    s.serial + m ≤ (storeSteps s f k addr place m).serial ∧
    ((storeSteps s f k addr place m).packets.map doesOf).Sublist
      ((s.packets ++ sentAs s ((List.range m).map (tileSending s k local_ addr place))).map doesOf) := by
  induction m with
  | zero =>
    refine ⟨rfl, Nat.le_refl _, ?_⟩
    simp [storeSteps, sentAs]
  | succ m ih =>
    obtain ⟨hregs, hserial, hpackets⟩ := ih
    rw [storeSteps_succ, sentAs_succ]
    generalize storeSteps s f k addr place m = u at hregs hserial hpackets ⊢
    have hmark := WaitKeeps.markPieces u f (addr m) 4
    unfold storeStep sendElem markTile
    generalize Machine.markPieces u f [⟨addr m, 4⟩] = x at hmark ⊢
    obtain ⟨es, u1⟩ := x
    have hregs1 : registersOf u1.hart = registersOf s.hart := hmark.hart.trans hregs
    obtain ⟨hcore, -, -, -, hvec, -⟩ : u1.hart.core = s.hart.core ∧ u1.hart.pc = s.hart.pc ∧ u1.hart.regs = s.hart.regs ∧
      u1.hart.csr = s.hart.csr ∧ u1.hart.vec = s.hart.vec ∧ u1.hart.engines = s.hart.engines := by
      simpa only [registersOf, Prod.mk.injEq] using hregs1
    obtain ⟨hsend, hserial2, hsub⟩ := sendPacket_keeps u1 ⟨u1.serial, u1.hart.core, laneCluster (m % partCols s.hart), sender u1.hart,
      m % partCols s.hart / 64, .request, classOfHart u1 u1.hart, place m, none, 4,
      getAcc u1.hart.vec k.val (m / partCols s.hart) (m % partCols s.hart), 2 ^ 32 - 1, es, .mesh, u1.clock⟩
    refine ⟨hsend.trans hregs1, ?_, ?_⟩
    · have hmarked := hmark.serial
      dsimp only at hmarked hserial2 ⊢
      omega
    · refine hsub.trans ?_
      rw [← List.append_assoc, List.map_append]
      refine (hmark.packets.trans hpackets).append ?_
      rw [doesOf, hcore, hvec]
      exact List.Sublist.refl _

/-- Where the windows have room, every packet is under way behind those before it, and nothing else has changed (R365). -/
theorem storeSteps_fit (m : Nat) (h : ∀ e, e < m → lands s local_ f.kind (addr e) 4 (place e))
    (hfit : windowFits (s.packets ++ sentAs s ((List.range m).map (tileSending s k local_ addr place)))) :
    storeSteps s f k addr place m = { s with
      packets := s.packets ++ sentAs s ((List.range m).map (tileSending s k local_ addr place)), serial := s.serial + m } := by
  induction m with
  | zero => simp [storeSteps, sentAs]
  | succ m ih =>
    rw [sentAs_succ, ← List.append_assoc] at hfit ⊢
    rw [storeSteps_succ, ih (fun e he => h e (by omega)) (windowFits_left _ _ hfit)]
    have hroom := countP_of_windowFits _ _ (Nat.succ_pos 3) hfit
    generalize sentAs s ((List.range m).map (tileSending s k local_ addr place)) = ps at hroom ⊢
    have hland : lands { s with packets := s.packets ++ ps, serial := s.serial + m } local_ f.kind (addr m) 4 (place m) :=
      h m (Nat.lt_succ_self m)
    unfold storeStep markTile
    rw [markPieces_lands hland]
    exact sendPacket_room { s with packets := s.packets ++ ps, serial := s.serial + m }
      (packetOf s m (tileSending s k local_ addr place m)) hroom

end Store

theorem mstt_sent (s : State) (k : TileId) (a r : SReg) (hready : tileReady s k)
    (hbase : (getReg s a).toNat % 4 = 0) (hstride : (getReg s r).toNat % 4 = 0) (local_ : Bool) (place : Nat → Place)
    (h : ∀ e, e < partRows s.hart * partCols s.hart →
      (tileAddr s a r e).toNat % 4 = 0 ∧ lands s local_ .write (tileAddr s a r e) 4 (place e)) :
    ∃ t, exec (.mstt k a r) s = .next t ∧ sent s t (sentAs s ((List.range (partRows s.hart * partCols s.hart)).map
      (tileSending s k local_ (tileAddr s a r) place))) id := by
  obtain ⟨hr, hm, he, hk, hrows0, hrows, hcols0, hcols, hb⟩ := hready
  have hexec : exec (.mstt k a r) s = execMstt k a r s := rfl
  unfold execMstt at hexec
  dsimp only at hexec
  rw [matrixTile_pass s k _ hm he hk, readsTile_pass s k _ _ hb, tileAccess_lands _ hr rfl rfl hb hrows0 hcols0 hbase hstride h,
    servedEls, List.foldl_map] at hexec
  obtain ⟨hregs, hserial, hpackets⟩ := storeSteps_keep s ⟨0, 4, true, false, false, 1, a.val⟩ k local_ (tileAddr s a r) place
    (partRows s.hart * partCols s.hart)
  have hfit := storeSteps_fit s ⟨0, 4, true, false, false, 1, a.val⟩ k local_ (tileAddr s a r) place
    (partRows s.hart * partCols s.hart) (fun e he => (h e he).2)
  have hlen : (sentAs s ((List.range (partRows s.hart * partCols s.hart)).map
      (tileSending s k local_ (tileAddr s a r) place))).length = partRows s.hart * partCols s.hart := by
    rw [length_sentAs, List.length_map, List.length_range]
  simp only [registersOf, Prod.mk.injEq] at hregs
  obtain ⟨-, hpc, hregs, hcsr, hvec, hengines⟩ := hregs
  refine ⟨_, hexec, fun hw => ?_, ?_, hpackets, congrArg (· + 4) hpc, hregs, hcsr, hvec, hengines⟩
  · rw [hlen]
    exact congrArg advance (hfit hw)
  · rw [hlen]
    exact hserial

theorem tileMemoryResults : TileMemoryResults := by
  intro s k a r hready hq h np addr hbase hstride local_ place w hw hall
  refine ⟨fun hread => ?_, fun hwrite => ?_⟩
  · subst hread
    exact mldt_written s k a r hready hq hbase hstride local_ place hall
  · subst hwrite
    exact mstt_sent s k a r hready hbase hstride local_ place hall

/-- Settles O38: a slice is a loop over its elements (`slice_written`); a tile access whose elements are all served performs each of
them (`tileAccess_lands`), where a load writes the tile alone (`loadSteps_lands`) and a store sends its packets (`storeSteps_fit`,
`storeSteps_keep`). -/
theorem tileMoves : Obligations.TileMoves := ⟨tileTransferResults, tileMemoryResults⟩

end Sys2Proof.Claims

/-! Where a scalar access goes by its address, the trap of one that is refused, and the batch of a page that is not resident (R44,
R45, R58, R161, R323, R327). -/

namespace Sys2Proof.Machine

open Sys2Proof.Claims

/-! ### Local addresses (R44, R45) -/

/-- An address beyond 48 bits has some of its upper bits set (R161). -/
theorem upperBits_ne_zero (va : Word) (h : 2 ^ 48 ≤ va.toNat) : bits va 48 16 ≠ 0 := by
  have := va.isLt
  unfold bits
  omega

theorem upperBits_eq_zero (va : Word) (h : va.toNat < 2 ^ 48) : bits va 48 16 = 0 := by
  unfold bits
  omega

/-- A local address reaches scalar data memory, the scratchpad but for a busy slot, or nothing (R44, R45, R58). -/
theorem reachLocal_eq (s : State) (va size : Nat) (a : Access) :
    reachLocal s va size a = if va < 0x10000 then .ok (.sdm va) []
      else if 0x100000 ≤ va ∧ va < 0x300000 then
        (if a = .write ∧ touchesBusySlot s s.hart (va - 0x100000) size = true then .trap 0x09 false
          else .ok (.spad (va - 0x100000)) [])
      else .trap 0x09 false := by
  simp only [reachLocal, Bool.and_eq_true, beq_iff_eq]

/-! ### Scalar loads and stores as accesses (R160, R162) -/

/-- A register-offset load that is no acquire loads at once (R132, R162). -/
theorem loadReg_plain (s : State) (d a b : SReg) (k : OrdKind) (n : Nat) (sx : Bool) (hk : (k == .acq) = false) :
    loadReg s d a b k n sx = load s d a (getReg s a + getReg s b) n sx := by
  rw [loadReg, hk]
  rfl

/-- A scalar load that is no acquire, by its row. -/
theorem exec_loadOf (s : State) (i : Instr) (d a : SReg) (va : Word) (n : Nat) (sx : Bool)
    (h : loadOf (getReg s) i = some (d, a, va, n, sx, false)) : exec i s = load s d a va n sx := by
  unfold loadOf at h
  split at h
  case h_15 => cases h
  all_goals
    simp only [Option.some.injEq, Prod.mk.injEq] at h
    obtain ⟨rfl, rfl, rfl, rfl, rfl, hk⟩ := h
  case h_8 | h_9 | h_10 | h_11 | h_12 | h_13 | h_14 => exact loadReg_plain _ _ _ _ _ _ _ hk
  all_goals rfl

/-- A scalar store, by its row. -/
theorem exec_storeOf (s : State) (i : Instr) (d a : SReg) (va : Word) (n : Nat) (rel sys : Bool)
    (h : storeOf (getReg s) i = some (d, a, va, n, rel, sys)) : exec i s = store s d a va n rel sys := by
  unfold storeOf at h
  split at h
  case h_9 => cases h
  all_goals
    simp only [Option.some.injEq, Prod.mk.injEq] at h
    obtain ⟨rfl, rfl, rfl, rfl, rfl, rfl⟩ := h
    rfl

/-- An access that is refused traps (R161). -/
theorem access_refused {s u : State} {va : Word} {n c : Nat} {w : Access} {st : Bool} (h : reach s va n w = (.trap c st, u))
    (a : SReg) (k : Place → List (Nat × Bool) → State → Out) : access s va n w a k = .next (addressTrap u c va a st) := by
  rw [access, h]

/-- An access to a page that is not resident is a page fault (R161, R327). -/
theorem access_missing {s u : State} {va : Word} {n : Nat} {w : Access} {st : Bool} (h : reach s va n w = (.missing st, u))
    (a : SReg) (k : Place → List (Nat × Bool) → State → Out) : access s va n w a k = .next (pageTrap u va a (w == .write) st) := by
  rw [access, h]

/-- A scalar access, by the row of its instruction: a load that is no acquire and whose register is free, or a store. -/
def accessOf (s : State) (i : Instr) (a : SReg) (va : Word) (n : Nat) (w : Access) : Prop :=
  (∃ d sx, loadOf (getReg s) i = some (d, a, va, n, sx, false) ∧ frozen s.hart d = false ∧ w = .read) ∨
    ∃ d rel sys, storeOf (getReg s) i = some (d, a, va, n, rel, sys) ∧ w = .write

/-- Such an instruction checks its access, and is done with it where that is not served. -/
theorem exec_accessOf {s : State} {i : Instr} {a : SReg} {va : Word} {n : Nat} {w : Access} (h : accessOf s i a va n w) :
    ∃ k, exec i s = access s va n w a k := by
  rcases h with ⟨d, sx, hrow, hfree, rfl⟩ | ⟨d, rel, sys, hrow, rfl⟩
  · exact ⟨_, (exec_loadOf s i d a va n sx hrow).trans (guardWrite_free s d _ hfree)⟩
  · exact ⟨_, exec_storeOf s i d a va n rel sys hrow⟩

/-! ### A page-fault batch in memory (R327) -/

@[simp] theorem length_natBytes (n v : Nat) : (natBytes n v).length = n := by
  induction n generalizing v with
  | zero => rfl
  | succ n ih => rw [natBytes, List.length_cons, ih]

theorem getElem_natBytes (n v i : Nat) (h : i < (natBytes n v).length) : (natBytes n v)[i] = BitVec.ofNat 8 (v / 256 ^ i) := by
  induction n generalizing v i with
  | zero => exact absurd h (Nat.not_lt_zero _)
  | succ n ih =>
    cases i with
    | zero => simp [natBytes]
    | succ i =>
      simp only [natBytes, List.getElem_cons_succ]
      rw [ih, Nat.div_div_eq_div_mul, ← Nat.pow_succ']

/-- The bytes as they stand in memory from an address on. -/
def bytesAt (m : Sparse 8) (a : Nat) (bs : List Byte) : Prop := ∀ i (h : i < bs.length), sget m (a + i) = bs[i]

theorem bytesAt_append {m : Sparse 8} {a : Nat} {xs ys : List Byte} (h : bytesAt m a (xs ++ ys)) :
    bytesAt m a xs ∧ bytesAt m (a + xs.length) ys := by
  constructor
  · intro i hi
    rw [h i (by rw [List.length_append]; omega), List.getElem_append_left hi]
  · intro i hi
    rw [Nat.add_assoc, h (xs.length + i) (by rw [List.length_append]; omega), List.getElem_append_right (Nat.le_add_right ..)]
    simp only [Nat.add_sub_cancel_left]

theorem bytesAt_natBytes {m : Sparse 8} {a n v : Nat} (h : bytesAt m a (natBytes n v)) : sgetBytes m a n = v % 256 ^ n := by
  apply sgetBytes_of_bytes
  intro i hi
  rw [h i (by rwa [length_natBytes]), getElem_natBytes]

theorem bytesAt_byte {m : Sparse 8} {a v : Nat} (h : bytesAt m a (natBytes 1 v)) : sget m a = BitVec.ofNat 8 v := h 0 Nat.one_pos

theorem bytesAt_zeros {m : Sparse 8} {a n : Nat} (h : bytesAt m a (natBytes n 0)) (j : Nat) (hlo : a ≤ j) (hhi : j < a + n) :
    sget m j = 0 := by
  have := h (j - a) (by rw [length_natBytes]; omega)
  rw [getElem_natBytes, Nat.zero_div, Nat.add_sub_cancel' hlo] at this
  exact this

/-- Bytes stand where they have been written. -/
theorem bytesAt_writeBytes (s : State) (keep : Option Nat) (a : Nat) (bs : List Byte) :
    bytesAt (writeBytes s keep a bs).mem a bs := by
  intro i hi
  rw [sget_writeBytes, dif_pos ⟨Nat.le_add_right .., Nat.add_lt_add_left hi a⟩]
  simp only [Nat.add_sub_cancel_left]

theorem sget_writeBytes_outside (s : State) (keep : Option Nat) (lo : Nat) (bs : List Byte) (a : Nat)
    (h : a < lo ∨ lo + bs.length ≤ a) : sget (writeBytes s keep lo bs).mem a = sget s.mem a := by
  rw [sget_writeBytes, dif_neg (by omega)]

theorem bytesAt_congr {m p : Sparse 8} {a : Nat} {bs : List Byte} (h : ∀ j, a ≤ j → j < a + bs.length → sget p j = sget m j)
    (hm : bytesAt m a bs) : bytesAt p a bs := by
  intro i hi
  rw [h (a + i) (Nat.le_add_right ..) (by omega), hm i hi]

theorem bytesNat_readBytes (s : State) (a n : Nat) : bytesNat (readBytes s a n) = sgetBytes s.mem a n := by
  induction n generalizing a with
  | zero => rfl
  | succ n ih =>
    rw [readBytes, List.range_succ_eq_map, List.map_cons, List.map_map, bytesNat, sgetBytes, ← ih, readBytes]
    simp [Function.comp_def, Nat.add_comm, Nat.add_left_comm]

theorem word8_aligned (s : State) (pa : Nat) (h : pa % 8 = 0) : word8 s pa = word (sgetBytes s.mem pa 8) := by
  rw [word8, Nat.div_mul_cancel (Nat.dvd_of_mod_eq_zero h)]

theorem word_mod (v : Nat) : word (v % 256 ^ 8) = word v := by
  apply BitVec.eq_of_toNat_eq
  simp only [word, BitVec.toNat_ofNat]
  omega

theorem word8_bytesAt {s : State} {pa v : Nat} (h : pa % 8 = 0) (hb : bytesAt s.mem pa (natBytes 8 v)) : word8 s pa = word v := by
  rw [word8_aligned s pa h, bytesAt_natBytes hb, word_mod]

theorem word_toNat (v : Word) : word v.toNat = v := BitVec.ofNat_toNat .. |>.trans (BitVec.setWidth_eq v)

/-! ### What a page fault writes -/

/-- The 512 bytes of a batch of one frame (R327). -/
def batchBytes (h : Hart) (k : Word) (frame flags : Nat) : List Byte :=
  (natBytes 8 k.toNat ++ natBytes 4 (launchOf h) ++ natBytes 1 h.core ++ natBytes 1 1 ++ natBytes 1 flags ++ natBytes 1 0 ++
    natBytes 8 0 ++ natBytes 40 0 ++ natBytes 8 frame) ++ natBytes 440 0

/-- Where the batch numbered `k` lies in a control page (R327). -/
def batchBase (p : Partition) (k : Word) : Nat := p.pcpAddr.toNat + 0x4000 + 512 * (k.toNat % 32)

theorem writeBatch_eq (s : State) (h : Hart) (p : Partition) (frame flags : Nat) (hp : s.parts[partOf h]? = some p) :
    writeBatch s h [frame] flags =
      setPcpWord (writeBytes s none (batchBase p (pcpWord s (partOf h) 0x38)) (batchBytes h (pcpWord s (partOf h) 0x38) frame flags))
        (partOf h) 0x38 (pcpWord s (partOf h) 0x38 + 1) := by
  simp only [writeBatch, hp]
  rfl

/-- The bytes of a batch are what R327 says of it. -/
theorem batchIs_of_bytesAt {t : State} {h : Hart} {p : Partition} {k : Word} {frame flags : Nat} (hpage : p.pcpAddr.toNat % 4096 = 0)
    (hb : bytesAt t.mem (batchBase p k) (batchBytes h k frame flags)) : batchIs t h p k [frame] flags := by
  have halign : batchBase p k % 8 = 0 := by unfold batchBase; omega
  obtain ⟨hb, hzeros⟩ := bytesAt_append hb
  obtain ⟨hb, hframe⟩ := bytesAt_append hb
  obtain ⟨hb, hpad⟩ := bytesAt_append hb
  obtain ⟨hb, hanswer⟩ := bytesAt_append hb
  obtain ⟨hb, hbyte⟩ := bytesAt_append hb
  obtain ⟨hb, hflags⟩ := bytesAt_append hb
  obtain ⟨hb, hcount⟩ := bytesAt_append hb
  obtain ⟨hb, hcore⟩ := bytesAt_append hb
  obtain ⟨hnumber, hlaunch⟩ := bytesAt_append hb
  simp only [List.length_append, length_natBytes, Nat.reduceAdd] at hzeros hframe hpad hanswer hbyte hflags hcount hcore hlaunch
  refine ⟨?_, ?_, bytesAt_byte hcore, bytesAt_byte hcount, bytesAt_byte hflags, ?_, fun i f hf => ?_, fun j hj => ?_⟩
  · exact (word8_bytesAt halign hnumber).trans (word_toNat k)
  · exact (bytesNat_readBytes ..).trans (bytesAt_natBytes hlaunch)
  · exact word8_bytesAt (by omega) hanswer
  · obtain ⟨rfl, rfl⟩ : i = 0 ∧ frame = f := by
      cases i with
      | zero => exact ⟨rfl, Option.some.inj hf⟩
      | succ i => simp at hf
    exact word8_bytesAt (by omega) hframe
  · rcases hj with rfl | hj | hj
    · exact bytesAt_byte hbyte
    · exact bytesAt_zeros hpad _ (by unfold batchBase; omega) (by unfold batchBase; omega)
    · exact bytesAt_zeros hzeros _ (by unfold batchBase; simp at hj; omega) (by unfold batchBase; omega)

/-- A trap of no breakpoint or watchpoint writes its fault record and nothing else of memory (R323, R326, R388). -/
theorem takeTrap_mem (s : State) (t : TrapInfo) (hm : mayEnter s.hart) (hc : t.cause ≠ 0x18 ∧ t.cause ≠ 0x1A) :
    (takeTrap s t).mem = (writeFaultRecord s s.hart t).mem ∧ (takeTrap s t).parts = s.parts := by
  have htrace : ¬((t.cause = 0x18 ∨ t.cause = 0x1A) ∧ traceOn s.hart 0 = true) := fun h => h.1.elim hc.1 hc.2
  unfold takeTrap
  simp only [hm.1, Bool.false_eq_true, if_false, if_neg htrace]
  exact ⟨rfl, writeFaultRecord_parts ..⟩

theorem length_faultRecord (s : State) (h : Hart) (t : TrapInfo) (n : Word) : (faultRecord s h t n).length = 64 := by
  simp [faultRecord]

/-- A fault record lies in FRING and FHEAD of its control page, and no other byte has changed (R307, R326). -/
theorem sget_writeFaultRecord (s : State) (h : Hart) (t : TrapInfo) (p : Partition) (hp : s.parts[partOf h]? = some p) (a : Nat)
    (ha : p.pcpAddr.toNat + 0x38 ≤ a) (hring : a < p.pcpAddr.toNat + 0x1000 ∨ p.pcpAddr.toNat + 0x3000 ≤ a) :
    sget (writeFaultRecord s h t).mem a = sget s.mem a := by
  unfold writeFaultRecord
  rw [hp]
  dsimp only
  rw [sget_setPcpWord _ _ _ _ p (by rw [writeBytes_parts]; exact hp), if_neg (by omega)]
  exact sget_writeBytes_outside _ _ _ _ _ (by rw [length_faultRecord]; omega)

/-- A page fault writes its batch, counts it in BHEAD and enters a trap; the fault record that follows lies elsewhere (R323, R326,
R327). -/
theorem pageTrap_batches (u : State) (p : Partition) (va : Word) (a : SReg) (wr st : Bool) (hm : mayEnter u.hart)
    (hp : u.parts[partOf u.hart]? = some p) (hpage : p.pcpAddr.toNat % 4096 = 0) (hroom : ringFull u (partOf u.hart) = false) :
    let k := pcpWord u (partOf u.hart) 0x38
    let t := pageTrap u va a wr st
    entered u t 0x08 k (word (a.val + 256)) u.hart.pc ∧
      batchIs t u.hart p k [va.toNat / 4096 * 4096] ((if st then 1 else 0) + if wr then 2 else 0) ∧
      pcpWord t (partOf u.hart) 0x38 = k + 1 := by
  intro k t
  let flags := (if st then 1 else 0) + if wr then 2 else 0
  let w := writeBytes u none (batchBase p k) (batchBytes u.hart k (va.toNat / 4096 * 4096) flags)
  let v := setPcpWord w (partOf u.hart) 0x38 (k + 1)
  have hw : w.parts[partOf u.hart]? = some p := by rw [writeBytes_parts]; exact hp
  have hvhart : v.hart = u.hart := (setPcpWord_hart ..).trans (writeBytes_hart ..)
  have hvparts : v.parts = u.parts := (setPcpWord_parts ..).trans (writeBytes_parts ..)
  have hmv : mayEnter v.hart := by rwa [hvhart]
  have hv : v.parts[partOf v.hart]? = some p := by rw [hvhart, hvparts]; exact hp
  have ht : t = takeTrap v ⟨0x08, k, topndS a, u.hart.pc, u.hart.pc, u.hart.ir, 0, 0, if st then 4 else 0⟩ := by
    show pageTrap u va a wr st = _
    rw [pageTrap, hroom, writeBatch_eq u u.hart p _ _ hp]
    rfl
  obtain ⟨hmem, hparts⟩ := takeTrap_mem v ⟨0x08, k, topndS a, u.hart.pc, u.hart.pc, u.hart.ir, 0, 0, if st then 4 else 0⟩ hmv
    ⟨(by decide : 0x08 ≠ 0x18), (by decide : 0x08 ≠ 0x1A)⟩
  rw [← ht] at hmem hparts
  have hkeep : ∀ j, p.pcpAddr.toNat + 0x38 ≤ j → j < p.pcpAddr.toNat + 0x1000 ∨ p.pcpAddr.toNat + 0x3000 ≤ j →
      sget t.mem j = sget v.mem j := fun j hj hring => by
    rw [hmem, sget_writeFaultRecord v v.hart _ p hv j hj hring]
  refine ⟨entered_of_hart_eq hvhart ?_, batchIs_of_bytesAt hpage (bytesAt_congr (fun j hlo hhi => ?_) (bytesAt_writeBytes u none _ _)), ?_⟩
  · rw [ht]
    exact takeTrap_entered v _ hmv
  · unfold batchBase at hlo hhi
    rw [hkeep j (by omega) (by omega), sget_setPcpWord w _ _ _ p hw, if_neg (by omega)]
  · have hcount : bytesAt t.mem (p.pcpAddr.toNat + 0x38) (natBytes 8 (k + 1).toNat) := by
      intro i hi
      rw [length_natBytes] at hi
      rw [getElem_natBytes, hkeep _ (by omega) (by omega), sget_setPcpWord w _ _ _ p hw, if_pos (by omega),
        Nat.add_sub_cancel_left]
    rw [pcpWord, hparts, hvparts, hp]
    exact (word8_bytesAt (by omega) hcount).trans (word_toNat _)

end Sys2Proof.Machine

namespace Sys2Proof.Claims

open Sys2Proof.Machine

theorem localReach : LocalReach := by
  intro s va n a
  have hlocal : va.toNat % n = 0 → va.toNat < 0x400000 → reach s va n a = (reachLocal s va.toNat n a, s) :=
    fun halign hlt => reach_local s va n a halign hlt
  refine ⟨fun h => reach_noncanonical s va n a (upperBits_ne_zero va h),
    fun h hm => reach_misaligned s va n a (upperBits_eq_zero va h) hm, fun hm h => ?_, fun hm h1 h2 => ?_, fun hm h1 h2 => ?_,
    fun hm h1 h2 => ?_⟩
  · rw [hlocal hm (by omega), reachLocal_eq, if_pos h]
  · rw [hlocal hm (by omega), reachLocal_eq, if_neg (by omega), if_neg (by omega)]
  · rw [hlocal hm (by omega), reachLocal_eq, if_neg (by omega), if_neg (by omega)]
  · rw [hlocal hm (by omega), reachLocal_eq, if_neg (by omega), if_pos ⟨h1, h2⟩]

theorem refusedAccessTraps : RefusedAccessTraps := by
  intro s i a va n w c st u hrow hreach hn hl
  obtain ⟨k, hexec⟩ := exec_accessOf hrow
  refine ⟨_, hexec.trans (access_refused hreach a k), ?_⟩
  have htrap := takeTrap_hart (logCause u c va) ⟨c, va, topndS a, u.hart.pc, u.hart.pc, u.hart.ir, 0, 0, if st then 4 else 0⟩
    (by rwa [logCause_hart]) (by rwa [logCause_hart])
  rw [logCause_hart] at htrap
  rw [addressTrap, htrap]
  exact ⟨rfl, rfl, rfl, rfl, rfl, rfl, rfl⟩

theorem pageFaultBatches : PageFaultBatches := by
  intro s i a va n wr st u p hrow hreach hm hp hpage k
  obtain ⟨c, hexec⟩ := exec_accessOf (w := if wr then .write else .read) (a := a) (va := va) (n := n) (i := i) (s := s) (by
    rcases hrow with ⟨d, sx, hload, hfree, rfl⟩ | ⟨d, rel, sys, hstore, rfl⟩
    · exact .inl ⟨d, sx, hload, hfree, rfl⟩
    · exact .inr ⟨d, rel, sys, hstore, rfl⟩)
  have hwr : ((if wr then .write else .read : Access) == .write) = wr := by cases wr <;> rfl
  rw [access_missing hreach, hwr] at hexec
  constructor
  · intro hfull
    have : ringFull u (partOf u.hart) = true := beq_iff_eq.2 hfull
    rw [hexec, pageTrap, if_pos this]
  · intro hroom
    exact ⟨_, hexec, pageTrap_batches u p va a wr st hm hp hpage (beq_eq_false_iff_ne.2 hroom)⟩

/-- Settles O9: a local address is judged by its range (`reachLocal_eq`); a refused access is one trap (`takeTrap_hart`), and one of a
page that is not resident a batch and then a trap whose fault record lies elsewhere (`pageTrap_batches`). -/
theorem scalarReach : Obligations.ScalarReach := ⟨localReach, refusedAccessTraps, pageFaultBatches⟩

end Sys2Proof.Claims

/-! CHAIN (R237, R371): contexts reserved at the hops, the block stored hop by hop, and the end; with what an engine of the acting
hart leaves as it goes on and as it ends (R109, R169, R230). -/

namespace Sys2Proof.Machine

open Sys2Proof.Claims

/-! ### A result that comes later (R150) -/

/-- The register that a pending result is written into holds it; every other is as before (R41, R150). -/
theorem regOf_writePending (h : Hart) (d : SReg) (v : Word) (r : SReg) :
    regOf (writePending h d v) r = if r = d ∧ d ≠ 0 then v else regOf h r := by
  unfold writePending writeAfter regOf
  by_cases hd : d = 0
  · simp [hd]
  · by_cases hr : r = d
    · simp [hr, hd]
    · have : d.val ≠ r.val := fun e => hr (Fin.ext e.symm)
      simp [hd, hr, this]

/-- The register is pending no more, and every other as it was (R150). -/
theorem pendingNow_writePending (h : Hart) (d : SReg) (v : Word) : pendingNow h (writePending h d v) d false := by
  intro r
  unfold writePending writeAfter
  by_cases hd : d = 0
  · simp [hd]
  · have hbit : r = d ↔ r.val - d.val = 0 ∧ d.val ≤ r.val := by rw [Fin.ext_iff]; omega
    simp only [hd, if_false, notPending, BitVec.getLsbD_and, BitVec.getLsbD_not, BitVec.getLsbD_shiftLeft, BitVec.getLsbD_one,
      r.isLt, decide_true, Bool.true_and, ne_eq, not_false_eq_true, and_true]
    by_cases hr : r = d
    · simp [hr]
    · rw [if_neg hr]
      by_cases hlt : r.val < d.val
      · simp [hlt]
      · have : r.val - d.val ≠ 0 := fun e => hr (hbit.2 ⟨e, Nat.not_lt.1 hlt⟩)
        simp [hlt, this]

/-- The event latch is set (R169). -/
theorem latchHart_latched (h : Hart) : (latchHart h).csr.status.getLsbD 6 = true := by
  rw [latchHart, getLsbD_setBits _ _ _ _ _ (by decide)]
  rfl

/-! ### An engine of the acting hart -/

theorem withEngine_acts {s : State} {x : Engine} (h : acts s x) (k : Owned → State) :
    withEngine s (me s).val x.id k = .next (k ⟨none, s.hart, x⟩) := by
  obtain ⟨hcore, howner, -⟩ := h
  have hme : s.hart.core = (me s).val := (Nat.mod_eq_of_lt hcore).symm
  simp only [withEngine, howner, if_pos hme]

/-- No other engine of the hart has its number. -/
theorem eq_of_acts {s : State} {x z : Engine} (h : acts s x) (hz : z ∈ s.hart.engines) (hid : z.id = x.id) : z = x := by
  obtain ⟨-, -, honly⟩ := h
  have : z ∈ s.hart.engines.filter (fun y => y.id == x.id) := List.mem_filter.2 ⟨hz, beq_iff_eq.2 hid⟩
  rw [honly] at this
  exact List.mem_singleton.1 this

/-- An engine of the acting hart changed is a change of that hart alone. -/
theorem setEngine_acting (s : State) (h : Hart) (x : Engine) (f : Engine → Engine) (hc : s.hart.core = h.core) :
    setEngine s ⟨none, h, x⟩ f = { s with hart := { s.hart with
      engines := s.hart.engines.map (fun z => if z.id = x.id then f z else z) } } := by
  simp only [setEngine, onOwner, onPlace, onCore, if_pos hc]

/-- An engine that is changed has gone on; `u` is the state with what else of the module has changed, the hart apart. -/
theorem engineNow_setEngine {s u : State} {x : Engine} (h : acts s x) (hu : u.hart = s.hart) (f : Engine → Engine) :
    engineNow s (setEngine u ⟨none, s.hart, x⟩ f) x (f x) := by
  rw [setEngine_acting u s.hart x f (by rw [hu]), hu]
  refine ⟨List.map_congr_left (fun z hz => ?_), rfl⟩
  by_cases hid : z.id = x.id
  · rw [eq_of_acts h hz hid]
  · rw [if_neg hid, if_neg hid]

/-- An engine that ends (R109, R169, R230). -/
theorem engineEnded_endEngine {s u : State} {x : Engine} (hu : u.hart = s.hart) (st index detail : Nat) :
    engineEnded s (endEngine u ⟨none, s.hart, x⟩ st index detail) x (statusWord x.kind.code st index detail) := by
  generalize hw : statusWord x.kind.code st index detail = w
  have hhart : (endEngine u ⟨none, s.hart, x⟩ st index detail).hart = deliverStatus s.hart x.id x.rd w := by
    simp only [endEngine, onOwner, onPlace, onCore, hu, if_true, hw]
  let g : Hart := { s.hart with engines := s.hart.engines.filter (fun y => y.id != x.id) }
  have hdeliver : deliverStatus s.hart x.id x.rd w = if x.rd = 0 then g else latchHart (writePending g x.rd w) := rfl
  have hreg : ∀ r, getReg (endEngine u ⟨none, s.hart, x⟩ st index detail) r = regOf (deliverStatus s.hart x.id x.rd w) r := fun r => by
    rw [← hhart]; rfl
  unfold engineEnded
  rw [hhart, hdeliver]
  by_cases hd : x.rd = 0
  · rw [if_pos hd]
    refine ⟨rfl, fun r => ?_, fun h => absurd hd h⟩
    rw [hreg, hdeliver, if_pos hd, if_neg (fun h => h.2 (h.1.trans hd))]
    rfl
  · rw [if_neg hd]
    refine ⟨?_, fun r => ?_, fun _ => ⟨?_, latchHart_latched _⟩⟩
    · simp only [latchHart, writePending, writeAfter, if_neg hd, g]
    · rw [hreg, hdeliver, if_neg hd, show regOf (latchHart (writePending g x.rd w)) r = regOf (writePending g x.rd w) r from rfl,
        regOf_writePending]
      have : (r = x.rd ∧ x.rd ≠ 0) = (r = x.rd ∧ r ≠ 0) := propext (and_congr_right (fun e => by rw [e]))
      simp only [this]
      rfl
    · exact (pendingNow_writePending g x.rd w x.rd).trans (if_pos ⟨rfl, hd⟩)

/-! ### Reservations (R371) -/

/-- A change of what contexts are held. -/
def onlyContexts (s u : State) : Prop := u = { s with chainCtx := u.chainCtx }

theorem onlyContexts.trans {s t u : State} (h1 : onlyContexts s t) (h2 : onlyContexts t u) : onlyContexts s u := by
  unfold onlyContexts at *
  rw [h2, h1]

theorem onlyContexts_serveHop (s : State) (c : Nat) : onlyContexts s (serveHop s c) := by
  unfold serveHop
  split
  · split <;> rfl
  · rfl

theorem onlyContexts_freeContext (s : State) (c e : Nat) : onlyContexts s (freeContext s c e) :=
  onlyContexts.trans (t := { s with chainCtx := s.chainCtx.filter (fun x => !(x.1 == c && x.2.1 == e)) }) rfl
    (onlyContexts_serveHop _ c)

theorem onlyContexts_freePassed (s : State) (e : Nat) (hops : List Nat) (served : Nat) :
    onlyContexts s (freePassed s e hops served) := by
  unfold freePassed
  generalize List.range hops.length = l
  induction l generalizing s with
  | nil => rfl
  | cons i l ih =>
    rw [List.foldl_cons]
    refine onlyContexts.trans ?_ (ih _)
    split
    · exact onlyContexts_freeContext ..
    · rfl

/-- A reservation that arrives at a hop where none waits takes a context there if one is free, and else waits (R371). -/
theorem serveHop_arrives (s : State) (c e : Nat) (h : ∀ y ∈ s.chainCtx, y.1 = c → y.2.2 = 1) :
    serveHop { s with chainCtx := s.chainCtx ++ [(c, e, 0)] } c =
      { s with chainCtx := s.chainCtx ++ [(c, e, if s.chainCtx.countP (fun y => y.1 == c) < 4 then 1 else 0)] } := by
  have hcount : contextsAt { s with chainCtx := s.chainCtx ++ [(c, e, 0)] } c = s.chainCtx.countP (fun y => y.1 == c) := by
    rw [contextsAt, List.countP_append, show List.countP _ [(c, e, 0)] = 0 by simp, Nat.add_zero]
    refine List.countP_congr (fun y hy => ?_)
    by_cases hc : y.1 = c
    · simp [hc, h y hy hc]
    · simp [hc]
  unfold serveHop
  rw [hcount]
  by_cases hroom : s.chainCtx.countP (fun y => y.1 == c) < 4
  · have hfind : (s.chainCtx ++ [(c, e, 0)]).find? (fun x => x.1 == c && x.2.2 == 0) = some (c, e, 0) := by
      rw [List.find?_append, List.find?_eq_none.2, Option.none_or]
      · simp
      · intro y hy hmatch
        simp only [Bool.and_eq_true, beq_iff_eq] at hmatch
        have := h y hy hmatch.1
        omega
    simp only [hfind, if_pos hroom, List.map_append, List.map_cons, List.map_nil, if_true]
    congr 2
    refine (List.map_congr_left (fun y hy => ?_)).trans (List.map_id _)
    rw [if_neg]
    · rfl
    · rintro rfl
      exact absurd (h _ hy rfl) Nat.zero_ne_one
  · simp only [if_neg hroom]

/-- The lowest hop that holds no context for a chain (R371). -/
theorem nextHop_eq_some {s : State} {hops : List Nat} {e c : Nat} (hc : c < 128) (hhop : c ∈ hops) (hfree : (c, e, 1) ∉ s.chainCtx)
    (hbelow : ∀ d ∈ hops, d < c → (d, e, 1) ∈ s.chainCtx) : (risingHops hops).find? (fun d => !holdsContext s d e) = some c := by
  rw [risingHops, List.find?_filter, List.find?_range_eq_some]
  refine ⟨by simpa [holdsContext] using ⟨hhop, hfree⟩, List.mem_range.2 hc, fun d hd => ?_⟩
  by_cases hm : d ∈ hops
  · simp [holdsContext, hbelow d hm hd]
  · simp [hm]

theorem nextHop_eq_none {s : State} {hops : List Nat} {e : Nat} (h : ∀ c ∈ hops, (c, e, 1) ∈ s.chainCtx) :
    (risingHops hops).find? (fun d => !holdsContext s d e) = none := by
  rw [List.find?_eq_none]
  intro c hc
  have : c ∈ hops := by simpa using (List.mem_filter.1 hc).2
  simp [holdsContext, h c this]

/-! ### The block (R237) -/

/-- A part of a store renumbered from 0. -/
theorem sget_sslice_zero {n : Nat} (m : Sparse n) (lo len k : Nat) (hk : k < len) :
    sget (sslice m lo (lo + len) 0) k = sget m (lo + k) := by
  unfold sslice
  induction m with
  | nil => rfl
  | cons p m ih =>
    obtain ⟨j, v⟩ := p
    by_cases hj : lo ≤ j ∧ j < lo + len
    · have hiff : k = j - lo + 0 ↔ lo + k = j := by omega
      simp only [List.filter_cons, hj, and_self, decide_true, if_true, List.map_cons, sget, ih, hiff]
    · have hne : lo + k ≠ j := by omega
      simp only [List.filter_cons, hj, decide_false, Bool.false_eq_true, if_false, sget, ih, if_neg hne]

/-- The entries of a store, renumbered by an offset, written over another: its value at every number that it lists. -/
theorem sget_soverlay_shift {n : Nat} (m p : Sparse n) (off a : Nat) (hp : p.Pairwise (fun x y => x.1 < y.1)) :
    sget (soverlay m (p.map (fun x => (x.1 + off, x.2)))) a =
      if ∃ x ∈ p, x.1 + off = a then sget p (a - off) else sget m a := by
  induction p generalizing m with
  | nil => simp [soverlay]
  | cons x p ih =>
    obtain ⟨j, v⟩ := x
    obtain ⟨hlt, hp⟩ := List.pairwise_cons.1 hp
    have hstep := ih (sset m (j + off) v) hp
    rw [soverlay] at hstep ⊢
    rw [List.map_cons, List.foldl_cons, hstep, sget_sset]
    by_cases ha : a = j + off
    · have hrest : ¬∃ x ∈ p, x.1 + off = a := by
        rintro ⟨y, hy, rfl⟩
        have : j < y.1 := hlt y hy
        omega
      rw [if_neg hrest, if_pos ha, if_pos ⟨_, List.mem_cons_self, ha.symm⟩, ha, Nat.add_sub_cancel]
      simp [sget]
    · have hiff : (∃ x ∈ (j, v) :: p, x.1 + off = a) ↔ ∃ x ∈ p, x.1 + off = a := by
        simp only [List.mem_cons, exists_eq_or_imp, or_iff_right_iff_imp]
        exact fun h => absurd h.symm ha
      simp only [if_neg ha, hiff]
      split
      · next hmem =>
        obtain ⟨y, -, rfl⟩ := hmem
        have : y.1 + off - off ≠ j := by omega
        simp only [sget, if_neg this]
      · rfl

/-- A number that a store does not list reads as zero. -/
theorem sget_unlisted {n : Nat} (p : Sparse n) (a : Nat) (h : ∀ x ∈ p, x.1 ≠ a) : sget p a = 0#n := by
  induction p with
  | nil => rfl
  | cons x p ih =>
    obtain ⟨j, v⟩ := x
    have hj : a ≠ j := fun e => h _ List.mem_cons_self e.symm
    rw [sget, if_neg hj]
    exact ih (fun y hy => h y (List.mem_cons_of_mem _ hy))

/-- A hop's scratchpad with the block in place, its arrival word apart (R237). -/
def blockStored (spad : Sparse 8) (off len : Nat) (block : Sparse 8) : Sparse 8 :=
  soverlay (sclear spad off (off + len)) (block.map (fun p => (p.1 + off, p.2)))

theorem sget_blockStored (spad : Sparse 8) (off len : Nat) (block : Sparse 8) (hin : ∀ q ∈ block, q.1 < len)
    (hwf : Sparse.wf block = true) (i : Nat) :
    sget (blockStored spad off len block) i = if off ≤ i ∧ i < off + len then sget block (i - off) else sget spad i := by
  rw [blockStored, sget_soverlay_shift _ _ _ _ ((Sparse.wf_iff block).1 hwf).1, sget_sclear]
  by_cases hi : off ≤ i ∧ i < off + len
  · simp only [if_pos hi]
    split
    · rfl
    · next hnone =>
      exact (sget_unlisted block _ (fun x hx e => hnone ⟨x, hx, by omega⟩)).symm
  · rw [if_neg hi, if_neg hi, if_neg]
    rintro ⟨x, hx, rfl⟩
    have := hin x hx
    omega

theorem hopStore_spad (h : Hart) (off len : Nat) (block : Sparse 8) (w : Option Nat) :
    (hopStore h off len block w).spad = match w with
      | none => blockStored h.spad off len block
      | some i => ssetBytes (blockStored h.spad off len block) (8 * i) 8
          ((sgetBytes (blockStored h.spad off len block) (8 * i) 8 + 1) % 2 ^ 64) := by
  cases w <;> rfl

/-- Outside the arrival word a hop holds the block where it lies, and what it held elsewhere (R237). -/
theorem sget_hopStore (h : Hart) (off len : Nat) (block : Sparse 8) (w : Option Nat) (hin : ∀ q ∈ block, q.1 < len)
    (hwf : Sparse.wf block = true) (i : Nat) (hi : ∀ a, w = some a → ¬(8 * a ≤ i ∧ i < 8 * a + 8)) :
    sget (hopStore h off len block w).spad i =
      if off ≤ i ∧ i < off + len then sget block (i - off) else sget h.spad i := by
  rw [hopStore_spad, ← sget_blockStored h.spad off len block hin hwf i]
  cases w with
  | none => rfl
  | some a => exact (sget_ssetBytes ..).trans (if_neg (hi a rfl))

/-- An arrival word apart from the block is raised by one, and the event latch is set (R169, R237). -/
theorem hopStore_arrives (h : Hart) (off len : Nat) (block : Sparse 8) (a : Nat) (hin : ∀ q ∈ block, q.1 < len)
    (hwf : Sparse.wf block = true) (hapart : 8 * a + 8 ≤ off ∨ off + len ≤ 8 * a) :
    sgetBytes (hopStore h off len block (some a)).spad (8 * a) 8 = (sgetBytes h.spad (8 * a) 8 + 1) % 2 ^ 64 ∧
      (hopStore h off len block (some a)).csr.status.getLsbD 6 = true := by
  refine ⟨?_, latchHart_latched _⟩
  have hold : sgetBytes (blockStored h.spad off len block) (8 * a) 8 = sgetBytes h.spad (8 * a) 8 :=
    sgetBytes_congr _ _ _ _ (fun i h1 h2 => by rw [sget_blockStored _ _ _ _ hin hwf, if_neg (by omega)])
  rw [hopStore_spad]
  dsimp only
  rw [sgetBytes_ssetBytes, hold, show (256 : Nat) ^ 8 = 2 ^ 64 from rfl, Nat.mod_mod]

/-! ### Serving a hop -/

/-- A core whose hart runs for an owner has a hart. -/
theorem exists_of_owner (s : State) (c : Nat) (h : (hartAt s c).owner.isSome = true) : ∃ g ∈ s.harts, g.core = c := by
  by_contra hnone
  have hcore : s.hart.core ≠ c := fun e => hnone ⟨_, List.mem_cons_self, e⟩
  have hfind : s.others.find? (fun g => g.core == c) = none :=
    List.find?_eq_none.2 (fun g hg e => hnone ⟨g, List.mem_cons_of_mem _ hg, beq_iff_eq.1 e⟩)
  rw [hartAt, if_neg hcore, hfind] at h
  exact Bool.false_ne_true h

end Sys2Proof.Machine

namespace Sys2Proof.Claims

open Sys2Proof.Machine

/-- With at most four deliveries the hart has a copy-tracking context for each (R53). -/
theorem hasContext_of_four (h : Hart) (e : Engine) (hfour : (localCopies h).length ≤ 4) : hasContext h e = true := by
  rw [hasContext, List.take_of_length_le hfour, Bool.not_or_self]

section Hops

variable {s : State} {x : Engine} {off n : Nat} {w : Option Nat} {hops : List Nat} {b : Option (Sparse 8)} {p st sk : Nat}

/-- CHAIN_RESERVATION of a chain that has its own context (R371). -/
theorem exec_chainReservation (hacts : acts s x) (hfour : (localCopies s.hart).length ≤ 4)
    (hkind : x.kind = .chain off n w hops none p st sk) :
    exec (.chainReservation (me s) x.id) s = .next (match (risingHops hops).find? (fun c => !holdsContext s c x.id) with
      | some c =>
        if s.chainCtx.any (fun y => y.1 == c && y.2.1 == x.id) then serveHop s c
        else serveHop { s with chainCtx := s.chainCtx ++ [(c, x.id, 0)] } c
      | none =>
        if (List.range n).any (fun i => badPlace s (.spad s.hart.core ((off + i) / 8))) then
          setEngine s ⟨none, s.hart, x⟩ (fun z => { z with fault := some (0x0B, 0, word (0x100000 + off), false) })
        else
          setEngine s ⟨none, s.hart, x⟩ (fun z => { z with
            kind := .chain off n w hops (some (sslice s.hart.spad off (off + n) 0)) p st sk })) := by
  refine (withEngine_acts hacts _).trans ?_
  simp only [hkind, hasContext_of_four s.hart x hfour, Bool.not_true, Bool.false_eq_true, if_false] <;> rfl

theorem chain_reserves (hacts : acts s x) (hfour : (localCopies s.hart).length ≤ 4)
    (hkind : x.kind = .chain off n w hops none p st sk) (c : Nat) (hc : c < 128) (hhop : c ∈ hops)
    (hfree : (c, x.id, 1) ∉ s.chainCtx) (hbelow : ∀ d ∈ hops, d < c → (d, x.id, 1) ∈ s.chainCtx)
    (hheld : ∀ y ∈ s.chainCtx, y.1 = c → y.2.1 ≠ x.id ∧ y.2.2 = 1) :
    ∃ t, exec (.chainReservation (me s) x.id) s = .next t ∧ t.hart = s.hart ∧
      t.chainCtx = s.chainCtx ++ [(c, x.id, if s.chainCtx.countP (fun y => y.1 == c) < 4 then 1 else 0)] := by
  have hnew : s.chainCtx.any (fun y => y.1 == c && y.2.1 == x.id) = false := by
    rw [List.any_eq_false]
    intro y hy hmatch
    simp only [Bool.and_eq_true, beq_iff_eq] at hmatch
    exact (hheld y hy hmatch.1).1 hmatch.2
  have hexec := exec_chainReservation hacts hfour hkind
  simp only [nextHop_eq_some hc hhop hfree hbelow, hnew, Bool.false_eq_true, if_false,
    serveHop_arrives s c x.id (fun y hy e => (hheld y hy e).2)] at hexec
  exact ⟨_, hexec, rfl, rfl⟩

theorem chain_reads (hacts : acts s x) (hbad : s.bad = []) (hfour : (localCopies s.hart).length ≤ 4)
    (hkind : x.kind = .chain off n w hops none p st sk) (hall : ∀ c ∈ hops, (c, x.id, 1) ∈ s.chainCtx) :
    ∃ t block, exec (.chainReservation (me s) x.id) s = .next t ∧
      engineNow s t x { x with kind := .chain off n w hops (some block) p st sk } ∧
      ∀ i, i < n → sget block i = sget s.hart.spad (off + i) := by
  have hgood : (List.range n).any (fun i => badPlace s (.spad s.hart.core ((off + i) / 8))) = false := by
    simp [badPlace, hbad]
  refine ⟨_, sslice s.hart.spad off (off + n) 0, exec_chainReservation hacts hfour hkind, ?_,
    fun i hi => sget_sslice_zero s.hart.spad off n i hi⟩
  simp only [nextHop_eq_none hall, hgood, Bool.false_eq_true, if_false]
  exact engineNow_setEngine hacts rfl _

/-- The state once hop `k` has stored the block or skipped it (R237). -/
def hopServed (s : State) (x : Engine) (off n : Nat) (w : Option Nat) (hops : List Nat) (block : Sparse 8) (p st sk k c : Nat) :
    State :=
  let ok := hopStores s ⟨none, s.hart, x⟩ c off n w
  setEngine (if ok then onCore s c (fun h => hopStore h off n block w) else s) ⟨none, s.hart, x⟩ (fun z => { z with
    kind := .chain off n w hops (some block) (p ||| 2 ^ k) (if ok then st + 1 else st) (if ok then sk else sk + 2 ^ k) })

theorem exec_chainHopStore (hacts : acts s x) {block : Sparse 8} (hkind : x.kind = .chain off n w hops (some block) p st sk)
    {c k : Nat} (hc : hops[k]? = some c) (hk : p.testBit k = false) (hbelow : ∀ j, j < k → p.testBit j = true) :
    exec (.chainHopStore (me s) x.id) s =
      .next (freePassed (hopServed s x off n w hops block p st sk k c) x.id hops (p ||| 2 ^ k)) := by
  have hlen : k < hops.length := (List.getElem?_eq_some_iff.1 hc).1
  have hfirst : firstBelow hops.length (fun i => !p.testBit i) = some k :=
    firstBelow_first _ _ _ hlen (fun j hj => by rw [hbelow j hj]; rfl) (by rw [hk]; rfl)
  refine (withEngine_acts hacts _).trans ?_
  simp only [hkind, hfirst, Option.getD_some, serveChain, hc, hk, Bool.false_eq_true, if_false]
  rfl

theorem chain_stores (hacts : acts s x) {block : Sparse 8} (hkind : x.kind = .chain off n w hops (some block) p st sk)
    {c k : Nat} (hc : hops[k]? = some c) (hk : p.testBit k = false) (hbelow : ∀ j, j < k → p.testBit j = true)
    (hother : c ≠ s.hart.core) (hin : ∀ q ∈ block, q.1 < n) (hwf : Sparse.wf block = true) :
    let ok := hopStores s ⟨none, s.hart, x⟩ c off n w
    let y := if ok then EngineKind.chain off n w hops (some block) (p ||| 2 ^ k) (st + 1) sk
      else .chain off n w hops (some block) (p ||| 2 ^ k) st (sk + 2 ^ k)
    ∃ t, exec (.chainHopStore (me s) x.id) s = .next t ∧ engineNow s t x { x with kind := y } ∧
      (ok = false → (hartAt t c).spad = (hartAt s c).spad) ∧
      (ok = true → ∀ i, (∀ a, w = some a → ¬(8 * a ≤ i ∧ i < 8 * a + 8)) →
        sget (hartAt t c).spad i = if off ≤ i ∧ i < off + n then sget block (i - off) else sget (hartAt s c).spad i) ∧
      (ok = true → ∀ a, w = some a → (8 * a + 8 ≤ off ∨ off + n ≤ 8 * a) →
        sgetBytes (hartAt t c).spad (8 * a) 8 = (sgetBytes (hartAt s c).spad (8 * a) 8 + 1) % 2 ^ 64 ∧
          (hartAt t c).csr.status.getLsbD 6 = true) := by
  intro ok y
  let u := if ok then onCore s c (fun h => hopStore h off n block w) else s
  let v := hopServed s x off n w hops block p st sk k c
  let t := freePassed v x.id hops (p ||| 2 ^ k)
  have ht : t = { v with chainCtx := t.chainCtx } := onlyContexts_freePassed ..
  have huhart : u.hart = s.hart := by
    show (if ok then onCore s c (fun h => hopStore h off n block w) else s).hart = s.hart
    split
    · rw [onCore, if_neg hother.symm]
    · rfl
  have hnow : engineNow s v x { x with kind := y } := by
    have hy : y = EngineKind.chain off n w hops (some block) (p ||| 2 ^ k) (if ok then st + 1 else st) (if ok then sk else sk + 2 ^ k) := by
      show (if ok then _ else _) = _
      split <;> rfl
    rw [hy]
    exact engineNow_setEngine hacts huhart _
  have hat : hartAt t c = hartAt u c := by
    have hv : v = { u with hart := _ } := setEngine_acting u s.hart x _ (by rw [huhart])
    have hvu : hartAt v c = hartAt u c := hartAt_other_congr (by rw [hv]) (by rw [hv]) c (by rwa [huhart])
    rw [ht, ← hvu]
    rfl
  have hstored : ok = true → hartAt t c = hopStore (hartAt s c) off n block w := fun hok => by
    have howner : (hartAt s c).owner.isSome = true := by
      have : hopStores s ⟨none, s.hart, x⟩ c off n w = true := hok
      simp only [hopStores, Bool.and_eq_true] at this
      exact this.1.1.1
    rw [hat, show u = onCore s c _ from if_pos hok]
    exact hartAt_onCore_same s c _ (fun h => core_hopStore ..) (exists_of_owner s c howner)
  refine ⟨t, exec_chainHopStore hacts hkind hc hk hbelow, ?_, fun hok => ?_, fun hok i hi => ?_, fun hok a ha hapart => ?_⟩
  · rw [ht]
    exact hnow
  · rw [hat, show u = s from if_neg (by rw [hok]; decide)]
  · rw [hstored hok]
    exact sget_hopStore _ off n block w hin hwf i hi
  · rw [hstored hok, ha]
    exact hopStore_arrives _ off n block a hin hwf hapart

theorem chain_ends (hacts : acts s x) (hkind : x.kind = .chain off n w hops b p st sk) (hfault : x.fault = none)
    (hb : b.isSome = true) (hall : ∀ j, j < hops.length → p.testBit j = true) :
    ∃ t, exec (.chainDone (me s) x.id) s = .next t ∧ engineEnded s t x
      (if st = hops.length then statusWord 5 0 st 0 else statusWord 5 3 st (sk + 256 * 0x09)) := by
  have hfull : ¬p + 1 < 2 ^ hops.length := by
    intro hlt
    have hmask : (2 ^ hops.length - 1) &&& p = 2 ^ hops.length - 1 := by
      apply Nat.eq_of_testBit_eq
      intro j
      rw [Nat.testBit_and, Nat.testBit_two_pow_sub_one]
      by_cases hj : j < hops.length
      · simp [hj, hall j hj]
      · simp [hj]
    have : (2 ^ hops.length - 1) &&& p ≤ p := Nat.and_le_right
    omega
  have hgo : ¬(b.isNone = true ∨ p + 1 < 2 ^ hops.length) := by
    rintro (hnone | hlt)
    · rw [Option.isNone_iff_eq_none] at hnone
      rw [hnone] at hb
      exact absurd hb (by decide)
    · exact hfull hlt
  have hcode : x.kind.code = 5 := by rw [hkind]; rfl
  have hexec : exec (.chainDone (me s) x.id) s = .next (if st = hops.length then endEngine s ⟨none, s.hart, x⟩ 0 st 0
      else endEngine (engineRecord s ⟨none, s.hart, x⟩ 0x09 (word (0x100000 + off)) false) ⟨none, s.hart, x⟩ 3 st
        (sk + 256 * 0x09)) := by
    refine (withEngine_acts hacts _).trans ?_
    simp only [hkind, hfault, if_neg hgo]
  refine ⟨_, hexec, ?_⟩
  split
  · exact hcode ▸ engineEnded_endEngine rfl 0 st 0
  · exact hcode ▸ engineEnded_endEngine (writeFaultRecord_hart ..) 3 st (sk + 256 * 0x09)

end Hops

/-- Settles O44: a reservation goes to the lowest hop without a context (`nextHop_eq_some`, `serveHop_arrives`); a hop's store is its
block over what it held (`sget_blockStored`) and its arrival word (`hopStore_arrives`); the end is that of every engine
(`engineEnded_endEngine`). -/
theorem chainSteps : Obligations.ChainSteps := by
  intro s x off n w hops b p st sk hacts hbad hkind hfour
  refine ⟨fun c hb hc hhop hfree hbelow hheld => ?_, fun hb hall => ?_,
    fun block c k hb hc hk hbelow hother hin hwf => ?_, fun hfault hb hall _ => chain_ends hacts hkind hfault hb hall⟩
  · subst hb
    exact chain_reserves hacts hfour hkind c hc hhop hfree hbelow hheld
  · subst hb
    exact chain_reads hacts hbad hfour hkind hall
  · subst hb
    exact chain_stores hacts hkind hc hk hbelow hother hin hwf

end Sys2Proof.Claims

/-! What performing the earlier accesses of a hart leaves (R92, R93, R100, R367): its buffered stores and its packets in flight write
memory, and no register. -/

namespace Sys2Proof.Machine

open Sys2Proof.Claims

/-! ### What every access that is performed keeps -/

/-- A relation that holds between a state and what one step of performing a store or a packet makes of it: a step of a walk, bytes
written in a local memory, packets gone or changed in where they are, the copies and marks of what is written. -/
structure FlushKeeps (R : State → State → Prop) : Prop extends WalkKeeps R where
  memories : ∀ s c (f : Hart → Hart), (∀ g, ∃ sdm spad, f g = { g with sdm := sdm, spad := spad }) → R s (onCore s c f)
  packets : ∀ s ps, (∀ q ∈ ps, ∃ p ∈ s.packets, q.id = p.id ∧ q.core = p.core) → R s { s with packets := ps }
  marks : ∀ s dirty olds pushes suspects lines,
    R s { s with dirty := dirty, olds := olds, pushes := pushes, suspects := suspects, hostLines := lines }

/-- A hart whose `n` oldest buffered stores are taken. -/
def withoutOldest (n : Nat) (h : Hart) : Hart := { h with buffer := h.buffer.drop n }

section Flush

variable {R : State → State → Prop} (hR : FlushKeeps R)
include hR

theorem FlushKeeps.foldl {α : Type} (f : State → α → State) (hf : ∀ s x, R s (f s x)) (xs : List α) (s : State) :
    R s (xs.foldl f s) := by
  induction xs generalizing s with
  | nil => exact hR.refl s
  | cons x xs ih => exact hR.trans (hf s x) (ih _)

theorem FlushKeeps.dropOlds (s : State) (core : Nat) (p : Place) : R s (dropOlds s core p) := by
  unfold Machine.dropOlds
  split
  · exact hR.refl s
  · exact hR.marks s _ _ _ _ _

theorem FlushKeeps.classPushes (n qos : Nat) (s : State) : R s (classPushes n qos s) := hR.marks s _ _ _ _ _

theorem FlushKeeps.roomInL1 (s : State) (core pa : Nat) : R s (roomInL1 s core pa) := by
  unfold Machine.roomInL1
  dsimp only
  split
  · exact hR.refl s
  · split
    · exact hR.refl s
    · exact hR.marks s _ _ _ _ _

theorem FlushKeeps.writeChunks (s : State) (keep : Option Nat) (pa : Nat) (bs : List Byte) (fuel : Nat) :
    R s (writeChunks s keep pa bs fuel) := by
  fun_induction Machine.writeChunks s keep pa bs fuel with
  | case1 => exact hR.refl _
  | case2 => exact hR.refl _
  | case3 => rename_i ih; exact hR.trans (hR.write ..) ih

theorem FlushKeeps.performStore (s : State) (core : Nat) (st : Store) : R s (performStore s core st) := by
  unfold Machine.performStore
  dsimp only
  refine hR.trans (hR.dropOlds s core st.place) ?_
  split
  · exact hR.memories _ _ _ (fun g => ⟨_, g.spad, rfl⟩)
  · exact hR.memories _ _ _ (fun g => ⟨g.sdm, _, rfl⟩)
  · refine hR.trans (hR.toWalkKeeps.markUsed (Machine.dropOlds s core st.place)
      (partOf (hartAt (Machine.dropOlds s core st.place) core)) st.entries true) ?_
    split
    · exact hR.trans (hR.write ..) (hR.classPushes ..)
    · exact hR.trans (hR.trans (hR.roomInL1 ..) (hR.marks _ _ _ _ _ _)) (hR.trans (hR.write ..) (hR.classPushes ..))

theorem FlushKeeps.placeBytes (s : State) (core qos : Nat) (p : Place) (size data mask : Nat) :
    R s (placeBytes s core qos p size data mask) := by
  unfold Machine.placeBytes
  dsimp only
  refine hR.trans (hR.dropOlds s core p) ?_
  split
  · exact hR.memories _ _ _ (fun g => ⟨_, g.spad, rfl⟩)
  · exact hR.memories _ _ _ (fun g => ⟨g.sdm, _, rfl⟩)
  · exact hR.trans (hR.writeChunks ..) (hR.trans (hR.classPushes ..) (hR.marks _ _ _ _ _ _))

/-- A packet that is performed leaves its list first. -/
theorem FlushKeeps.performPacket_rest (s : State) (p : Packet) : R (withoutPacket s p) (performPacket s p) := by
  have hmark := hR.toWalkKeeps.markUsed (withoutPacket s p) (partOf (hartAt (withoutPacket s p) p.core)) p.entries true
  unfold Machine.performPacket
  dsimp only
  split
  · exact hR.trans hmark (hR.placeBytes ..)
  · exact hR.trans hmark (hR.trans (hR.placeBytes ..) (hR.placeBytes ..))

theorem FlushKeeps.performPacket (s : State) (p : Packet) : R s (performPacket s p) :=
  hR.trans
    (hR.trans (hR.packets s (s.packets.filter (fun q => q.id != p.id)) (fun q hq => ⟨q, (List.mem_filter.1 hq).1, rfl, rfl⟩))
      (hR.marks _ _ _ _ _ _))
    (hR.performPacket_rest s p)

theorem FlushKeeps.performWindow (s : State) (fuel : Nat) : R s (performWindow s fuel) := by
  fun_induction Machine.performWindow s fuel with
  | case1 => exact hR.refl _
  | case2 => rename_i ih; exact hR.trans (hR.performPacket ..) ih
  | case3 => exact hR.refl _

theorem FlushKeeps.setTransit (s : State) (id : Nat) (x : Transit) : R s (setTransit s id x) := by
  refine hR.trans (hR.packets s (s.packets.map (fun p => if p.id = id then { p with transit := x } else p)) ?_)
    (hR.marks _ _ _ _ _ _)
  intro q hq
  obtain ⟨p, hp, rfl⟩ := List.mem_map.1 hq
  refine ⟨p, hp, ?_⟩
  split <;> exact ⟨rfl, rfl⟩

theorem FlushKeeps.arrive (s : State) (p : Packet) : R s (arrive s p) :=
  hR.trans (hR.marks s s.dirty s.olds s.pushes (s.suspects.filter (fun x => x.2 != p.id)) s.hostLines)
    (hR.trans (hR.setTransit ..) (hR.performWindow ..))

theorem FlushKeeps.drainRecovery (s : State) (e : Nat) : R s (drainRecovery s e) := hR.foldl _ hR.arrive _ s

theorem FlushKeeps.atHomeOf (s : State) (p : Place) : R s (atHomeOf s p) := by
  unfold Machine.atHomeOf
  split
  · exact hR.drainRecovery ..
  · exact hR.refl s

theorem FlushKeeps.performNext (s : State) (p : Packet) : R s (performNext s p) := by
  unfold Machine.performNext
  dsimp only
  split
  · exact hR.trans (hR.drainRecovery ..) (hR.performPacket ..)
  · exact hR.drainRecovery ..

theorem FlushKeeps.performPackets (s : State) (f : Packet → Bool) : R s (performPackets s f) := hR.foldl _ hR.performNext _ s

theorem FlushKeeps.performBuffered (s : State) (core : Nat) (st : Store) : R s (performBuffered s core st) := by
  have hpackets : R s (if st.release then Machine.performPackets s (fun p => p.core == core && decide (p.seq ≤ st.after)) else s) := by
    split
    · exact hR.performPackets ..
    · exact hR.refl s
  have hstore := hR.trans hpackets (hR.trans (hR.atHomeOf _ st.place) (hR.performStore _ core st))
  unfold Machine.performBuffered
  dsimp only
  split
  · exact hR.trans hstore (hR.marks _ _ _ _ _ _)
  · exact hstore

/-- The buffered stores of a core that may be performed leave the buffer first. -/
theorem FlushKeeps.drainBuffer (s : State) (core : Nat) :
    R (onCore s core (withoutOldest ((hartAt s core).buffer.takeWhile (storeReady (hartAt s core))).length)) (drainBuffer s core) :=
  hR.foldl _ (fun s st => hR.performBuffered s core st) _ _

end Flush

/-! ### Harts, packets and launches -/

/-- Every hart of a state is what it was, in all that `p` looks at. -/
def SameHarts {α : Type} (p : Hart → α) (s u : State) : Prop := u.harts.map p = s.harts.map p

/-- No packet is there that was not, by its number and its core. -/
def PacketsFrom (s u : State) : Prop := ∀ q ∈ u.packets, ∃ p ∈ s.packets, q.id = p.id ∧ q.core = p.core

/-- One hart changed in what `p` does not look at. -/
theorem SameHarts.onCore {α : Type} {p : Hart → α} (s : State) (c : Nat) (f : Hart → Hart) (hf : ∀ g, p (f g) = p g) :
    SameHarts p s (onCore s c f) := by
  unfold SameHarts Machine.onCore State.harts
  split
  · simp [hf]
  · simp only [List.map_cons, List.map_map, List.cons.injEq, true_and]
    refine List.map_congr_left (fun g _ => ?_)
    rw [Function.comp_apply]
    split
    · exact hf g
    · rfl

theorem flushKeeps_harts {α : Type} (p : Hart → α)
    (hp : ∀ g banks tlb sdm spad, p { g with banks := banks, tlb := tlb, sdm := sdm, spad := spad } = p g) :
    FlushKeeps (SameHarts p) :=
  {
    refl := fun _ => rfl
    trans := fun h1 h2 => Eq.trans h2 h1
    write := fun _ _ _ _ _ => by rw [SameHarts, State.harts, State.harts, writeHome_hart, writeHome_others]
    core := fun s c f hf => SameHarts.onCore s c f (fun g => by
      obtain ⟨banks, tlb, hg⟩ := hf g
      rw [hg]
      exact hp g banks tlb g.sdm g.spad)
    die := fun _ _ => rfl
    memories := fun s c f hf => SameHarts.onCore s c f (fun g => by
      obtain ⟨sdm, spad, hg⟩ := hf g
      rw [hg]
      exact hp g g.banks g.tlb sdm spad)
    packets := fun _ _ _ => rfl
    marks := fun _ _ _ _ _ _ => rfl }

theorem flushKeeps_packets : FlushKeeps PacketsFrom := by
  have hsame : ∀ s u : State, u.packets = s.packets → PacketsFrom s u := fun s u h q hq => ⟨q, h ▸ hq, rfl, rfl⟩
  have hcore : ∀ s c f, (onCore s c f).packets = s.packets := fun s c f => by unfold onCore; split <;> rfl
  exact {
    refl := fun s => hsame s s rfl
    trans := fun h1 h2 q hq => by
      obtain ⟨p, hp, hid, hc⟩ := h2 q hq
      obtain ⟨o, ho, hid1, hc1⟩ := h1 p hp
      exact ⟨o, ho, hid.trans hid1, hc.trans hc1⟩
    write := fun s keep pa size v => hsame _ _ (writeHome_packets ..)
    core := fun s c f _ => hsame _ _ (hcore s c f)
    die := fun s l => hsame s _ rfl
    memories := fun s c f _ => hsame _ _ (hcore s c f)
    packets := fun _ _ h => h
    marks := fun s _ _ _ _ _ => hsame s _ rfl }

@[simp] theorem onCore_launches (s : State) (c : Nat) (f : Hart → Hart) : (onCore s c f).launches = s.launches := by
  unfold onCore
  split <;> rfl

theorem flushKeeps_launches : FlushKeeps (fun s u => u.launches = s.launches) where
  refl _ := rfl
  trans h1 h2 := h2.trans h1
  write _ _ _ _ _ := writeHome_launches ..
  core s c f _ := onCore_launches s c f
  die _ _ := rfl
  memories s c f _ := onCore_launches s c f
  packets _ _ _ := rfl
  marks _ _ _ _ _ _ := rfl

/-- The hart of a core, in what such a map keeps of all. -/
theorem hartAt_of_map_harts {α : Type} {p : Hart → α} {s u : State} (hp : ∀ g h, p g = p h → g.core = h.core)
    (hmap : SameHarts p s u) (c : Nat) : p (hartAt u c) = p (hartAt s c) := by
  obtain ⟨hhart, hothers⟩ : p u.hart = p s.hart ∧ u.others.map p = s.others.map p := by
    simpa [SameHarts, State.harts] using hmap
  have hfind : ∀ l m : List Hart, l.map p = m.map p →
      p ((l.find? (fun h => h.core == c)).getD (Hart.start c)) = p ((m.find? (fun h => h.core == c)).getD (Hart.start c)) := by
    intro l
    induction l with
    | nil =>
      intro m hm
      rw [List.map_nil, eq_comm, List.map_eq_nil_iff] at hm
      rw [hm]
    | cons g l ih =>
      intro m hm
      cases m with
      | nil => cases hm
      | cons h m =>
        obtain ⟨hgh, hlm⟩ := List.cons.inj hm
        have hc := hp g h hgh
        by_cases hg : g.core = c
        · rw [List.find?_cons_of_pos (by simpa using hg), List.find?_cons_of_pos (by simpa [← hc] using hg)]
          exact hgh
        · rw [List.find?_cons_of_neg (by simpa using hg), List.find?_cons_of_neg (by simpa [← hc] using hg)]
          exact ih m hlm
  have hc := hp _ _ hhart
  unfold hartAt
  by_cases hs : s.hart.core = c
  · rw [if_pos hs, if_pos (hc.trans hs), hhart]
  · rw [if_neg hs, if_neg (fun e => hs (hc.symm.trans e))]
    exact hfind _ _ hothers

/-! ### LSYNC of a core (R100) -/

/-- A hart without what an access that is performed may change of one: its local memories, its counts and its translations. -/
def withoutMemories (h : Hart) : Hart := { h with sdm := [], spad := [], banks := Vector.replicate 4 Bank.start, tlb := [] }

/-- A hart without what performing its own accesses changes. -/
def withoutStores (h : Hart) : Hart := { withoutMemories h with buffer := [] }

theorem core_withoutMemories (g h : Hart) (e : withoutMemories g = withoutMemories h) : g.core = h.core := by
  have e := congrArg Hart.core e
  exact e

theorem core_withoutStores (g h : Hart) (e : withoutStores g = withoutStores h) : g.core = h.core := by
  have e := congrArg Hart.core e
  exact e

/-- Every hart keeps all else when the accesses of one are performed. -/
theorem harts_flushHart (s : State) (core : Nat) : SameHarts withoutStores s (flushHart s core) := by
  have hkeep := flushKeeps_harts withoutStores (fun _ _ _ _ _ => rfl)
  have hpackets := hkeep.performPackets s (fun p => p.core == core)
  have htaken : ∀ t n, SameHarts withoutStores t (onCore t core (withoutOldest n)) := fun t n =>
    SameHarts.onCore t core (withoutOldest n) (fun _ => rfl)
  exact hkeep.trans (hkeep.trans hpackets (htaken _ _)) (hkeep.drainBuffer (performPackets s (fun p => p.core == core)) core)

theorem launches_flushHart (s : State) (core : Nat) : (flushHart s core).launches = s.launches :=
  (flushKeeps_launches.drainBuffer _ core).trans ((onCore_launches ..).trans (flushKeeps_launches.performPackets s _))

/-- A packet that is performed is gone. -/
theorem performNext_removes (s : State) (p : Packet) : ∀ q ∈ (performNext s p).packets, q.id ≠ p.id := by
  unfold performNext
  dsimp only
  split
  · intro q hq
    obtain ⟨o, ho, hid, -⟩ := flushKeeps_packets.performPacket_rest _ p q hq
    rw [hid]
    simpa using (List.mem_filter.1 ho).2
  · next hgone =>
    intro q hq e
    exact hgone (List.any_eq_true.2 ⟨q, hq, beq_iff_eq.2 e⟩)

/-- The packets that a flush looks for are among those that it performs. -/
theorem mem_withEarlier (ps : List Packet) (f : Packet → Bool) (p : Packet) (hp : p ∈ ps) (hf : f p = true) :
    p ∈ withEarlier ps f := by
  induction ps with
  | nil => exact absurd hp List.not_mem_nil
  | cons q ps ih =>
    rw [withEarlier, List.foldr_cons]
    rcases List.mem_cons.1 hp with rfl | hp
    · rw [hf, Bool.true_or, if_pos rfl]
      exact List.mem_cons_self
    · have := ih hp
      split
      · exact List.mem_cons_of_mem _ this
      · exact this

/-- No packet that satisfies a test of cores is left once those are performed (R100). -/
theorem performPackets_clears (s : State) (core : Nat) :
    ∀ q ∈ (performPackets s (fun p => p.core == core)).packets, q.core ≠ core := by
  have hfold : ∀ (l : List Packet) (s : State), ∀ q ∈ (l.foldl performNext s).packets, ∀ p ∈ l, q.id ≠ p.id := by
    intro l
    induction l with
    | nil => exact fun _ _ _ _ h => absurd h List.not_mem_nil
    | cons p l ih =>
      intro s q hq o ho
      rcases List.mem_cons.1 ho with rfl | ho
      · obtain ⟨o', ho', hid, -⟩ := flushKeeps_packets.foldl _ flushKeeps_packets.performNext l (performNext s o) q hq
        rw [hid]
        exact performNext_removes s o o' ho'
      · exact ih _ q hq o ho
  intro q hq hcore
  obtain ⟨p, hp, hid, hc⟩ := flushKeeps_packets.performPackets s _ q hq
  exact hfold _ s q hq p (mem_withEarlier _ _ p hp (beq_iff_eq.2 (hc.symm.trans hcore))) hid

theorem packets_flushHart (s : State) (core : Nat) : ∀ q ∈ (flushHart s core).packets, q.core ≠ core := by
  intro q hq
  obtain ⟨p, hp, -, hc⟩ := flushKeeps_packets.drainBuffer _ core q hq
  rw [hc]
  refine performPackets_clears s core p ?_
  unfold onCore at hp
  split at hp <;> exact hp

/-- A hart whose buffered stores may all be performed has none left (R93, R100). -/
theorem buffer_flushHart (s : State) (core : Nat) (hcore : core ∈ coresOf s) (h : drains (hartAt s core)) :
    (hartAt (flushHart s core) core).buffer = [] := by
  let t := performPackets s (fun p => p.core == core)
  have hkeep := flushKeeps_harts withoutMemories (fun _ _ _ _ _ => rfl)
  have ht : withoutMemories (hartAt t core) = withoutMemories (hartAt s core) :=
    hartAt_of_map_harts core_withoutMemories (hkeep.performPackets s _) core
  have hbuffer : (hartAt t core).buffer = (hartAt s core).buffer := by
    have e := congrArg Hart.buffer ht
    exact e
  have hready : ∀ st, storeReady (hartAt t core) st = storeReady (hartAt s core) st := by
    intro st
    have e := congrArg (fun h => storeReady h st) ht
    exact e
  have hall : (hartAt t core).buffer.takeWhile (storeReady (hartAt t core)) = (hartAt t core).buffer :=
    List.takeWhile_eq_self_iff.2 (fun st hst => (hready st).trans (h st (hbuffer ▸ hst)))
  have hcores : core ∈ coresOf t := by
    rw [cores_performPackets]
    exact hcore
  have hout := hartAt_of_map_harts core_withoutMemories (hkeep.drainBuffer t core) core
  rw [hall, hartAt_onCore_same t core (withoutOldest _) (fun _ => rfl) ((mem_coresOf t core).1 hcores)] at hout
  have e := congrArg Hart.buffer hout
  exact Eq.trans e List.drop_length

end Sys2Proof.Machine

/-! What an instruction that every member of a gang does for its own hart leaves (R40): the hart of each member, and nothing else. -/

namespace Sys2Proof.Machine

open Sys2Proof.Claims

/-! ### One member acts -/

/-- The hart of one core changed by `f`, as the hart that acts. -/
def actAs (f : Hart → Hart) (s : State) (c : Nat) : State := { focus s c with hart := f (focus s c).hart }

section Act

variable {f : Hart → Hart} (hcore : ∀ h, (f h).core = h.core)
include hcore

theorem coresOf_actAs (s : State) (c : Nat) : coresOf (actAs f s c) = coresOf s := by
  rw [← coresOf_focus s c]
  simp only [coresOf, actAs, hcore]

theorem hartAt_actAs (s : State) (c d : Nat) (hs : coresApart s) (hc : c ∈ coresOf s) (hd : d ∈ coresOf s) :
    hartAt (actAs f s c) d = if d = c then f (hartAt s c) else hartAt s d := by
  have hself : (focus s c).hart.core = c := by rw [focus_hart s c hc, core_hartAt]
  have hacting : (actAs f s c).hart.core = c := (hcore _).trans hself
  split
  · next h =>
    subst h
    rw [← focus_hart s d hc, hartAt, if_pos hacting]
    rfl
  · next h =>
    rw [← hartAt_focus s c d hs hd]
    exact hartAt_other_congr (hacting.trans hself.symm) rfl d (by rwa [hself])

/-- Some members act in turn. -/
theorem hartAt_foldl_actAs (cs : List Nat) (s : State) (d : Nat) (hs : coresApart s) (hn : cs.Nodup) (hc : ∀ c ∈ cs, c ∈ coresOf s)
    (hd : d ∈ coresOf s) : hartAt (cs.foldl (actAs f) s) d = if d ∈ cs then f (hartAt s d) else hartAt s d := by
  induction cs generalizing s with
  | nil => rfl
  | cons c cs ih =>
    obtain ⟨hnc, hn⟩ := List.nodup_cons.1 hn
    have hcc := hc c List.mem_cons_self
    have hcores := coresOf_actAs hcore s c
    rw [List.foldl_cons, ih (actAs f s c) (coresApart_of_cores hcores hs) hn
      (fun x hx => hcores ▸ hc x (List.mem_cons_of_mem _ hx)) (hcores ▸ hd), hartAt_actAs hcore s c d hs hcc hd]
    by_cases hdc : d = c
    · subst hdc
      simp [hnc]
    · simp [hdc]

end Act

/-! ### All members act -/

/-- A state is another but for its harts. -/
def onlyHarts (s t : State) : Prop := ∃ h os, t = { s with hart := h, others := os }

theorem onlyHarts.refl (s : State) : onlyHarts s s := ⟨s.hart, s.others, rfl⟩

theorem onlyHarts.trans {s t u : State} (h1 : onlyHarts s t) (h2 : onlyHarts t u) : onlyHarts s u := by
  obtain ⟨h, os, rfl⟩ := h1
  obtain ⟨h', os', rfl⟩ := h2
  exact ⟨h', os', rfl⟩

theorem onlyHarts_focus (s : State) (c : Nat) : onlyHarts s (focus s c) := by
  unfold focus
  split
  · exact onlyHarts.refl s
  · split
    · exact onlyHarts.refl s
    · exact ⟨_, _, rfl⟩

theorem onlyHarts_actAs (f : Hart → Hart) (s : State) (c : Nat) : onlyHarts s (actAs f s c) :=
  (onlyHarts_focus s c).trans ⟨_, (focus s c).others, rfl⟩

theorem onlyHarts_foldl (f : Hart → Hart) (cs : List Nat) (s : State) : onlyHarts s (cs.foldl (actAs f) s) := by
  induction cs generalizing s with
  | nil => exact onlyHarts.refl s
  | cons c cs ih => exact (onlyHarts_actAs f s c).trans (ih _)

/-- What each member does for its own hart, in the order of the members. -/
theorem eachMember_eq_foldl {f : Hart → Hart} (hcore : ∀ h, (f h).core = h.core) (s : State) (hs : coresApart s) (ms : List Hart)
    (hms : ∀ h ∈ ms, h ∈ s.harts) (hn : (ms.map (·.core)).Nodup) :
    eachMember s ms (fun u => .next { u with hart := f u.hart }) = focus ((ms.map (·.core)).foldl (actAs f) s) s.hart.core := by
  suffices h : ∀ u, coresOf u = coresOf s → (∀ h ∈ ms, hartAt u h.core = h) →
      ms.foldl (fun s h => if (hartAt s h.core).owner = h.owner then actAs f s h.core else s) u = (ms.map (·.core)).foldl (actAs f) u from
    congrArg (focus · s.hart.core) (h s rfl (fun h hh => hartAt_of_mem s hs h (hms h hh)))
  induction ms with
  | nil => exact fun _ _ _ => rfl
  | cons m ms ih =>
    obtain ⟨hnm, hn⟩ := List.nodup_cons.1 hn
    have hin : ∀ h ∈ m :: ms, h.core ∈ coresOf s := fun h hh => (mem_coresOf s _).2 ⟨h, hms h hh, rfl⟩
    intro u hu hat
    rw [List.foldl_cons, List.map_cons, List.foldl_cons, if_pos (by rw [hat m List.mem_cons_self])]
    refine ih (fun h hh => hms h (List.mem_cons_of_mem _ hh)) hn _ ((coresOf_actAs hcore u m.core).trans hu) (fun h hh => ?_)
    have hne : h.core ≠ m.core := fun e => hnm (List.mem_map.2 ⟨h, hh, e⟩)
    rw [hartAt_actAs hcore u m.core h.core (coresApart_of_cores hu hs) (hu ▸ hin m List.mem_cons_self)
      (hu ▸ hin h (List.mem_cons_of_mem _ hh)), if_neg hne]
    exact hat h (List.mem_cons_of_mem _ hh)

/-- What every member of the gang does for its own hart is done for that hart, and for nothing else (R40). -/
theorem eachMember_gang {f : Hart → Hart} (hcore : ∀ h, (f h).core = h.core) (s : State) (hs : coresApart s) :
    let t := eachMember s (gangNow s) (fun u => .next { u with hart := f u.hart })
    onlyHarts s t ∧ ∀ h ∈ gangNow s, hartAt t h.core = f h := by
  have hn := gangCores_nodup s hs
  have hin : ∀ c ∈ (gangNow s).map (·.core), c ∈ coresOf s := by
    rw [List.forall_mem_map]
    exact gangNow_core_mem s
  dsimp only
  rw [eachMember_eq_foldl hcore s hs (gangNow s) (gangNow_sub s) hn]
  refine ⟨(onlyHarts_foldl f _ s).trans (onlyHarts_focus _ _), fun h hh => ?_⟩
  have hcores : coresOf (((gangNow s).map (·.core)).foldl (actAs f) s) = coresOf s := coresOf_foldl _ (coresOf_actAs hcore) _ s
  have hm := gangNow_core_mem s h hh
  rw [hartAt_focus _ _ _ (coresApart_of_cores hcores hs) (hcores ▸ hm), hartAt_foldl_actAs hcore _ s _ hs hn hin hm,
    if_pos (List.mem_map_of_mem hh), hartAt_of_mem s hs h (gangNow_sub s h hh)]

/-! ### A result that every member takes -/

/-- A hart that has its result, at its next instruction. -/
def withResult (d : SReg) (v : Word) (h : Hart) : Hart :=
  { h with regs := if d = 0 then h.regs else h.regs.set d v, pc := h.pc + 4 }

theorem advance_setReg (s : State) (d : SReg) (v : Word) : advance (setReg s d v) = { s with hart := withResult d v s.hart } := by
  unfold setReg withResult
  split <;> rfl

theorem regOf_withResult (d : SReg) (v : Word) (h : Hart) (r : SReg) :
    regOf (withResult d v h) r = if r = d ∧ d ≠ 0 then v else regOf h r := by
  unfold withResult regOf
  by_cases hd : d = 0
  · simp [hd]
  · by_cases hr : r = d
    · simp [hr, hd]
    · have : d.val ≠ r.val := fun e => hr (Fin.ext e.symm)
      simp [hd, hr, this]

/-- A result that every member takes is in its register, and nothing but the harts changes. -/
theorem jointResult_took (s : State) (hs : coresApart s) (d : SReg) (v : Word) :
    onlyHarts s (jointResult s d v) ∧ membersTook s (jointResult s d v) d v := by
  obtain ⟨honly, hat⟩ := eachMember_gang (f := withResult d v) (fun _ => rfl) s hs
  simp only [jointResult, advance_setReg]
  refine ⟨honly, fun h hh => ?_⟩
  rw [hat h hh]
  exact ⟨rfl, regOf_withResult d v h⟩

/-- An instruction whose register no marked loop holds on any member is done. -/
theorem jointGuard_free (s : State) (d : SReg) (k : Out) (h : ∀ h ∈ gangNow s, frozen h d = false) : jointGuard s d k = k := by
  have hany : (gangNow s).any (fun h => frozen h d) = false := List.any_eq_false.2 (fun g hg => by rw [h g hg]; decide)
  unfold jointGuard
  dsimp only
  rw [hany, if_neg (by decide)]

theorem leaderNow_mem (s : State) (h : s.hart ∈ gangNow s) : leaderNow s ∈ gangNow s := by
  unfold leaderNow
  cases hg : gangNow s with
  | nil => exact absurd (hg ▸ h) List.not_mem_nil
  | cons x xs => exact List.mem_cons_self

theorem getReg_focus_leader (s : State) (hs : coresApart s) (h : s.hart ∈ gangNow s) (a : SReg) :
    getReg (focus s (leaderNow s).core) a = regOf (leaderNow s) a := by
  have hl := leaderNow_mem s h
  show regOf (focus s (leaderNow s).core).hart a = _
  rw [focus_hart s _ (gangNow_core_mem s _ hl), hartAt_of_mem s hs _ (gangNow_sub s _ hl)]

end Sys2Proof.Machine

/-! LAUNCH, CANCEL and END (R64, R263 to R266). -/

namespace Sys2Proof.Claims

open Sys2Proof.Machine

/-! ### LAUNCH (R263) -/

/-- The register of a result that is to come is pending, and every other as it was (R150). -/
theorem pendingNow_setPending (h : Hart) (d : SReg) : pendingNow h (setPending h d) d true := by
  intro r
  unfold setPending
  by_cases hd : d = 0
  · simp [hd]
  · have hbit : r = d ↔ r.val - d.val = 0 ∧ d.val ≤ r.val := by rw [Fin.ext_iff]; omega
    simp only [hd, if_false, BitVec.getLsbD_or, BitVec.getLsbD_shiftLeft, BitVec.getLsbD_one, r.isLt, decide_true, Bool.true_and, ne_eq,
      not_false_eq_true, and_true]
    by_cases hr : r = d
    · simp [hr]
    · rw [if_neg hr]
      by_cases hlt : r.val < d.val
      · simp [hlt]
      · have : r.val - d.val ≠ 0 := fun e => hr (hbit.2 ⟨e, by omega⟩)
        simp [this]

/-- The hart of a member once its gang's LAUNCH has issued: the leader, on core `c`, sends `req`. -/
def launched (d : SReg) (c : Nat) (req : LaunchReq) (h : Hart) : Hart :=
  { h with
    pending := (setPending h d).pending, pc := h.pc + 4
    launchReqs := if h.core = c then h.launchReqs ++ [req] else h.launchReqs }

theorem advance_launched (u : State) (d : SReg) (c : Nat) (req : LaunchReq) :
    (let h := setPending u.hart d;
      advance { u with hart := if h.core = c then { h with launchReqs := h.launchReqs ++ [req] } else h }) =
      { u with hart := launched d c req u.hart } := by
  unfold launched setPending
  by_cases hd : d = 0 <;> by_cases hc : u.hart.core = c <;> simp only [hd, hc, if_true, if_false] <;> rfl

/-- The first of a list that satisfies a test of what `w` keeps, in two lists that `w` makes the same. -/
theorem find?_map_of_map_eq {α : Type} {w : α → α} {l m : List α} (h : l.map w = m.map w) (p : α → Bool)
    (hp : ∀ x, p (w x) = p x) : (l.find? p).map w = (m.find? p).map w := by
  have hcomp : p ∘ w = p := funext hp
  rw [← hcomp, ← List.find?_map, h, List.find?_map]

/-- The members of a gang are the same in two states whose harts agree in all but what a flush changes. -/
theorem gangNow_withoutStores (s u : State) (h : SameHarts withoutStores s u) :
    (gangNow u).map withoutStores = (gangNow s).map withoutStores := by
  have hmap : u.harts.map withoutStores = s.harts.map withoutStores := h
  obtain ⟨hhart, -⟩ : withoutStores u.hart = withoutStores s.hart ∧ u.others.map withoutStores = s.others.map withoutStores := by
    simpa [State.harts] using hmap
  have howner : u.hart.owner = s.hart.owner := by
    have e := congrArg Hart.owner hhart
    exact e
  have hcore : u.hart.core = s.hart.core := core_withoutStores _ _ hhart
  have hsize : gangSize u.hart = gangSize s.hart := by rw [gangSize, gangSize, howner]
  unfold gangNow
  rw [hsize]
  split
  · rw [List.map_singleton, List.map_singleton, hhart]
  · unfold gangMembers
    rw [List.map_filterMap, List.map_filterMap, hsize, howner, hcore]
    refine List.filterMap_congr (fun m _ => ?_)
    exact find?_map_of_map_eq hmap _ (fun _ => rfl)

/-- What the registers and requests of a hart are, where two harts agree in all but what a flush changes. -/
theorem launch_withoutStores {g h : Hart} (e : withoutStores g = withoutStores h) :
    g.pc = h.pc ∧ g.regs = h.regs ∧ g.pending = h.pending ∧ g.launchReqs = h.launchReqs := by
  have hpc := congrArg Hart.pc e
  have hregs := congrArg Hart.regs e
  have hpending := congrArg Hart.pending e
  have hreqs := congrArg Hart.launchReqs e
  exact ⟨hpc, hregs, hpending, hreqs⟩

/-- What LAUNCH is without a marked loop's register: the leader's earlier accesses are performed, and each member goes on. -/
theorem exec_launch (s : State) (d a : SReg) (hs : coresApart s) (hmine : s.hart ∈ gangNow s)
    (hfree : ∀ h ∈ gangNow s, frozen h d = false) :
    let l := leaderNow s
    let s1 := cleanL1 (flushHart s l.core) l.core
    exec (.launch d a) s = .next (eachMember s1 (gangNow s1) (fun u =>
      .next { u with hart := launched d l.core ⟨d, regOf l a, supervisor l, none, none⟩ u.hart })) := by
  show execLaunch d a s = _
  unfold execLaunch
  rw [jointGuard_free s d _ hfree]
  simp only [getReg_focus_leader s hs hmine, advance_launched]

theorem launch_sends (s : State) (d a : SReg) (hs : coresApart s) (hmine : s.hart ∈ gangNow s)
    (hfree : ∀ h ∈ gangNow s, frozen h d = false) :
    let l := leaderNow s
    ∃ t, exec (.launch d a) s = .next t ∧ membersNow s t (fun h g => g.regs = h.regs ∧ pendingNow h g d true) ∧
      (hartAt t l.core).launchReqs = l.launchReqs ++ [⟨d, regOf l a, supervisor l, none, none⟩] ∧
      (drains l → (hartAt t l.core).buffer = []) ∧ ∀ q ∈ t.packets, q.core ≠ l.core := by
  intro l
  generalize hs1 : cleanL1 (flushHart s l.core) l.core = s1
  generalize hreq : (⟨d, regOf l a, supervisor l, none, none⟩ : LaunchReq) = req
  have hexec := exec_launch s d a hs hmine hfree
  dsimp only at hexec
  rw [hs1, hreq] at hexec
  have hsame : SameHarts withoutStores s s1 := hs1 ▸ harts_flushHart s l.core
  have hcores : coresOf s1 = coresOf s := by
    rw [← hs1]
    exact cores_flushHart ..
  have hs1apart := coresApart_of_cores hcores hs
  obtain ⟨honly, hat⟩ := eachMember_gang (f := launched d l.core req) (fun _ => rfl) s1 hs1apart
  have hmember : ∀ h ∈ gangNow s, ∃ g ∈ gangNow s1, withoutStores g = withoutStores h := fun h hh =>
    List.mem_map.1 (gangNow_withoutStores s s1 hsame ▸ List.mem_map_of_mem hh)
  have hl := leaderNow_mem s hmine
  have hleader : hartAt (flushHart s l.core) l.core ∈ gangNow s1 ∧ (hartAt (flushHart s l.core) l.core).launchReqs = l.launchReqs := by
    obtain ⟨g, hg, he⟩ := hmember l hl
    have hgl : hartAt s1 l.core = g := core_withoutStores g l he ▸ hartAt_of_mem s1 hs1apart g (gangNow_sub s1 g hg)
    have hflush : hartAt s1 l.core = hartAt (flushHart s l.core) l.core := by rw [← hs1]; rfl
    rw [← hflush, hgl]
    exact ⟨hg, (launch_withoutStores he).2.2.2⟩
  obtain ⟨hin, hreqs⟩ := hleader
  have hlat := hat _ hin
  rw [core_hartAt] at hlat
  refine ⟨_, hexec, fun h hh => ?_, ?_, fun hdrains => ?_, ?_⟩
  · obtain ⟨g, hg, he⟩ := hmember h hh
    obtain ⟨hpc, hregs, hpending, -⟩ := launch_withoutStores he
    rw [← core_withoutStores g h he, hat g hg]
    refine ⟨congrArg (· + 4) hpc, hregs, fun r => ?_⟩
    have hset := pendingNow_setPending g d r
    rwa [hpending] at hset
  · rw [hlat, ← hreqs]
    exact if_pos (core_hartAt ..)
  · rw [hlat]
    refine buffer_flushHart s l.core (gangNow_core_mem s l hl) ?_
    rwa [hartAt_of_mem s hs l (gangNow_sub s l hl)]
  · obtain ⟨h, os, ht⟩ := honly
    rw [ht, ← hs1]
    exact packets_flushHart s l.core

end Sys2Proof.Claims

/-! Completion words and CANCEL (R264, R266). -/

namespace Sys2Proof.Claims

open Sys2Proof.Machine

/-! ### A word that is written -/

theorem word8_writeHome (s : State) (keep : Option Nat) (pa v : Nat) (h : pa % 8 = 0) : word8 (writeHome s keep pa 8 v) pa = word v := by
  rw [word8_aligned _ _ h, writeHome_mem, sgetBytes_ssetBytes, word_mod]

theorem word8_writeHome_apart (s : State) (keep : Option Nat) (pa a v : Nat) (h : pa % 8 = 0) (hd : pa + 8 ≤ a ∨ a + 8 ≤ pa) :
    word8 (writeHome s keep a 8 v) pa = word8 s pa := by
  rw [word8_aligned _ _ h, word8_aligned _ _ h, writeHome_mem, sgetBytes_ssetBytes_apart _ _ _ _ _ _ hd]

/-- The free entries of the partitions, written into their communication pages (R306). -/
theorem updateFree_induction (P : State → Prop) (s : State) (h : P s)
    (hstep : ∀ u (p : Nat) (b : Partition) v, P u → u.parts[p]? = some b → P (writeHome u none b.pcpAddr.toNat 8 v)) :
    P (updateFree s) := by
  unfold updateFree
  refine List.foldlRecOn _ _ h (fun u hu p _ => ?_)
  split
  · exact hu
  · next b hb =>
    dsimp only
    split
    · exact hu
    · rw [setPcpWord, hb]
      exact hstep u p b _ hu hb

/-! ### An entry that goes (R266) -/

/-- A state in all that a write at its home leaves alone, and that says whether the word of a launch may be written. -/
def homeFrame (s : State) := (s.hart, s.others, s.parts, s.enstk, s.blocks, s.leases)

theorem homeFrame_writeHome (s : State) (keep : Option Nat) (pa size v : Nat) :
    homeFrame (writeHome s keep pa size v) = homeFrame s := by
  unfold homeFrame writeHome
  rw [notifyWord_frame]
  unfold sequenceWord
  split <;> rfl

theorem homeFrame_updateFree (s : State) : homeFrame (updateFree s) = homeFrame s :=
  updateFree_induction (fun u => homeFrame u = homeFrame s) s rfl (fun _ _ _ _ hu _ => (homeFrame_writeHome ..).trans hu)

theorem launches_updateFree (s : State) : (updateFree s).launches = s.launches :=
  updateFree_induction (fun u => u.launches = s.launches) s rfl (fun _ _ _ _ hu _ => (writeHome_launches ..).trans hu)

theorem homeFrame_removeLaunch (s : State) (part id : Nat) : homeFrame (removeLaunch s part id) = homeFrame s := homeFrame_updateFree _

theorem launches_removeLaunch (s : State) (part id : Nat) :
    (removeLaunch s part id).launches = s.launches.filter (fun l => !(l.part == part && l.id == id)) := launches_updateFree _

theorem homeFrame_writeCompletion (s : State) (l : Launch) (v : Word) : homeFrame (writeCompletion s l v) = homeFrame s := by
  unfold writeCompletion
  split
  · split
    · rfl
    · exact homeFrame_writeHome ..
  · rfl

theorem launches_writeCompletion (s : State) (l : Launch) (v : Word) : (writeCompletion s l v).launches = s.launches := by
  unfold writeCompletion
  split
  · split
    · rfl
    · exact writeHome_launches ..
  · rfl

theorem refusal_of_homeFrame {s u : State} (h : homeFrame u = homeFrame s) (part pa : Nat) : refusal u part pa = refusal s part pa := by
  simp only [homeFrame, Prod.mk.injEq] at h
  obtain ⟨-, -, -, henstk, hblocks, hleases⟩ := h
  unfold refusal leaseOf localBytes stackCount
  rw [henstk, hblocks, hleases]

theorem word8_writeCompletion (s : State) (l : Launch) (v : Word) (pa : Nat) (hpa : l.completion = some pa) (h : pa % 8 = 0)
    (hr : refusal s l.part pa = none) : word8 (writeCompletion s l v) pa = v := by
  rw [writeCompletion, hpa]
  dsimp only
  rw [hr]
  exact (word8_writeHome s none pa v.toNat h).trans (word_toNat v)

/-! ### CANCEL (R264) -/

theorem execCancel_eq (s : State) (d a : SReg) (hs : coresApart s) (hmine : s.hart ∈ gangNow s)
    (hfree : ∀ h ∈ gangNow s, frozen h d = false) :
    exec (.cancel d a) s =
      let v := regOf (leaderNow s) a
      let id := v.toNat % 2 ^ 24
      if 2 ^ 24 ≤ v.toNat then .next (jointResult s d (statusWord 10 4 id 6))
      else
        let r := cancelLaunch s (partOf (leaderNow s)) id
        .next (jointResult r.2.2 d (statusWord 10 r.1 id r.2.1)) := by
  show execCancel d a s = _
  unfold execCancel
  rw [jointGuard_free s d _ hfree]
  simp only [getReg_focus_leader s hs hmine]
  generalize regOf (leaderNow s) a = v
  have hid : bits v 0 24 = v.toNat % 2 ^ 24 := by rw [bits, Nat.pow_zero, Nat.div_one]
  have hupper : bits v 24 40 ≠ 0 ↔ 2 ^ 24 ≤ v.toNat := by
    have := v.isLt
    unfold bits
    omega
  simp only [hid, hupper]

theorem launchAt_eq_none {s : State} {part id : Nat} (h : ∀ x ∈ s.launches, x.part = part → x.id ≠ id) :
    launchAt s part id = none := by
  refine List.find?_eq_none.2 (fun x hx => ?_)
  rw [Bool.and_eq_true, beq_iff_eq, beq_iff_eq]
  exact fun e => h x hx e.1 e.2

/-- A result that the gang takes in a state with the same harts. -/
theorem jointResult_took_of_harts {s u : State} (hs : coresApart s) (hh : u.hart = s.hart) (ho : u.others = s.others)
    (d : SReg) (v : Word) :
    onlyHarts u (jointResult u d v) ∧ membersTook s (jointResult u d v) d v := by
  have hharts : u.harts = s.harts := by rw [State.harts, State.harts, hh, ho]
  have hgang : gangNow u = gangNow s := by rw [gangNow, gangNow, gangMembers, gangMembers, hh, hharts]
  obtain ⟨honly, htook⟩ := jointResult_took u (by rwa [coresApart, hharts]) d v
  refine ⟨honly, ?_⟩
  unfold membersTook membersNow at *
  rwa [hgang] at htook

theorem onlyHarts_frame {s t : State} (h : onlyHarts s t) : t.launches = s.launches ∧ t.mem = s.mem := by
  obtain ⟨_, _, rfl⟩ := h
  exact ⟨rfl, rfl⟩

/-- A launch that has not started is withdrawn: its entry gone, and its completion word written with STATE 7 (R264). -/
theorem cancelLaunch_ready {s : State} {part id : Nat} {x : Launch} (h : launchAt s part id = some x) (hd : x.dispatched = 0)
    (hf : x.failed = false) :
    cancelLaunch s part id = (7, 0, writeCompletion (removeLaunch s part id) x (completionWord 0 7 0)) := by
  unfold cancelLaunch
  rw [h]
  simp [hd, hf]

theorem cancelLaunch_started {s : State} {part id : Nat} {x : Launch} (h : launchAt s part id = some x) (hd : 0 < x.dispatched) :
    cancelLaunch s part id = (6, 0, s) := by
  unfold cancelLaunch
  rw [h]
  simp [hd]

theorem cancelLaunch_foreign {s : State} {part id : Nat} (h : ∃ x ∈ s.launches, x.id = id)
    (hnone : ∀ x ∈ s.launches, x.part = part → x.id ≠ id) : cancelLaunch s part id = (4, 7, s) := by
  obtain ⟨x, hx, hid⟩ := h
  unfold cancelLaunch
  rw [launchAt_eq_none hnone]
  exact if_pos (List.any_eq_true.2 ⟨x, hx, by simpa using hid⟩)

theorem cancelLaunch_unknown {s : State} {part id : Nat} (h : ∀ x ∈ s.launches, x.id ≠ id) :
    cancelLaunch s part id = (4, 2, s) := by
  unfold cancelLaunch
  rw [launchAt_eq_none (fun x hx _ => h x hx)]
  refine if_neg (fun hany => ?_)
  obtain ⟨x, hx, hid⟩ := List.any_eq_true.1 hany
  exact h x hx (by simpa using hid)

theorem cancel_answers (s : State) (d a : SReg) (hs : coresApart s) (hmine : s.hart ∈ gangNow s)
    (hfree : ∀ h ∈ gangNow s, frozen h d = false) :
    let l := leaderNow s
    let v := regOf l a
    let id := v.toNat % 2 ^ 24
    (2 ^ 24 ≤ v.toNat → ∃ t, exec (.cancel d a) s = .next t ∧ t.launches = s.launches ∧
        membersTook s t d (statusWord 10 4 id 6)) ∧
      (v.toNat < 2 ^ 24 →
        (∀ x ∈ s.launches, x.id ≠ id) → ∃ t, exec (.cancel d a) s = .next t ∧ membersTook s t d (statusWord 10 4 id 2)) ∧
      (v.toNat < 2 ^ 24 → (∃ x ∈ s.launches, x.id = id) → (∀ x ∈ s.launches, x.part = partOf l → x.id ≠ id) →
        ∃ t, exec (.cancel d a) s = .next t ∧ membersTook s t d (statusWord 10 4 id 7)) ∧
      (v.toNat < 2 ^ 24 → ∀ x, launchAt s (partOf l) id = some x →
        (0 < x.dispatched → ∃ t, exec (.cancel d a) s = .next t ∧ t.launches = s.launches ∧
          membersTook s t d (statusWord 10 6 id 0)) ∧
        (x.dispatched = 0 → x.failed = false → ∃ t, exec (.cancel d a) s = .next t ∧ membersTook s t d (statusWord 10 7 id 0) ∧
          (∀ y ∈ t.launches, y.part = partOf l → y.id ≠ id) ∧
          ∀ pa, x.completion = some pa → pa % 8 = 0 → refusal s x.part pa = none → word8 t pa = finishedWord 0 7 0)) := by
  intro l v id
  have hexec := execCancel_eq s d a hs hmine hfree
  have hlaunches : ∀ w, (jointResult s d w).launches = s.launches := fun w => (onlyHarts_frame (jointResult_took s hs d w).1).1
  have htook : ∀ w, membersTook s (jointResult s d w) d w := fun w => (jointResult_took s hs d w).2
  have hshort : v.toNat < 2 ^ 24 → exec (.cancel d a) s = .next (jointResult (cancelLaunch s (partOf l) id).2.2 d
      (statusWord 10 (cancelLaunch s (partOf l) id).1 id (cancelLaunch s (partOf l) id).2.1)) := fun hv =>
    hexec.trans (if_neg (Nat.not_le.2 hv))
  refine ⟨fun hv => ⟨_, hexec.trans (if_pos hv), hlaunches _, htook _⟩, fun hv hnone => ?_, fun hv hsome hnone => ?_,
    fun hv x hx => ⟨fun hd => ?_, fun hd hf => ?_⟩⟩
  · refine ⟨_, hshort hv, ?_⟩
    rw [cancelLaunch_unknown hnone]
    exact htook _
  · refine ⟨_, hshort hv, ?_⟩
    rw [cancelLaunch_foreign hsome hnone]
    exact htook _
  · refine ⟨_, hshort hv, ?_⟩
    rw [cancelLaunch_started hx hd]
    exact ⟨hlaunches _, htook _⟩
  · rw [hshort hv, cancelLaunch_ready hx hd hf]
    have hframe := (homeFrame_writeCompletion (removeLaunch s (partOf l) id) x (completionWord 0 7 0)).trans
      (homeFrame_removeLaunch s _ _)
    generalize hu : writeCompletion (removeLaunch s (partOf l) id) x (completionWord 0 7 0) = u at hframe ⊢
    have hunits := hframe
    simp only [homeFrame, Prod.mk.injEq] at hunits
    obtain ⟨hhart, hothers, -⟩ := hunits
    obtain ⟨honly, hmembers⟩ := jointResult_took_of_harts hs hhart hothers d (statusWord 10 7 id 0)
    obtain ⟨hl, hmem⟩ := onlyHarts_frame honly
    refine ⟨_, rfl, hmembers, fun y hy hp hid => ?_, fun pa hpa haligned hr => ?_⟩
    · rw [hl, ← hu, launches_writeCompletion, launches_removeLaunch] at hy
      have := (List.mem_filter.1 hy).2
      simp [hp, hid] at this
    · rw [word8, hmem, ← word8, ← hu]
      exact word8_writeCompletion _ x _ pa hpa haligned ((refusal_of_homeFrame (homeFrame_removeLaunch s _ _) _ _).trans hr)

end Sys2Proof.Claims

/-! END (R64, R265). -/

namespace Sys2Proof.Claims

open Sys2Proof.Machine

theorem onCore_acting (s : State) (c : Nat) (f : Hart → Hart) (hc : s.hart.core = c) : onCore s c f = { s with hart := f s.hart } :=
  if_pos hc

theorem cancelStreams_nil (s : State) (h : s.hart.engines = []) : cancelStreams s s.hart.core = s := by
  rw [cancelStreams, hartAt_self, h]
  rfl

/-- END of a hart that runs alone and has nothing left to wait for (R265). -/
theorem execEndProg_alone (s : State) (hg : gangSize s.hart = 1) (hloop : s.hart.loop = none) (he : s.hart.engines = [])
    (hw : endWaits s.hart = false) : exec .endProg s = .next (endHart s s.hart.core) := by
  show execEndProg s = _
  have hgang : gangNow s = [s.hart] := if_pos hg
  unfold execEndProg
  simp [hgang, hloop, cancelStreams_nil s he, hw]

theorem endWaits_false (h : Hart) (hs : h.started = true ∨ (h.vf = none ∧ h.held = none)) (hq : h.queue = []) (hl : h.loads = [])
    (he : h.engines = []) (hr : h.launchReqs = []) : endWaits h = false := by
  unfold endWaits
  rcases hs with hs | ⟨hv, hh⟩
  · simp [hs, hq, hl, he, hr]
  · simp [hv, hh, hq, hl, he, hr]

theorem ended_retire (s : State) {g h : Hart} (e : withoutStores g = withoutStores h) : ended h (retire (closeHart s g)) := by
  have hregs := congrArg Hart.regs e
  have hcsr := congrArg Hart.csr e
  have hvec := congrArg Hart.vec e
  have hclose : (closeHart s g).regs = g.regs ∧ (closeHart s g).csr = g.csr ∧ (closeHart s g).vec = g.vec := by
    unfold closeHart
    split <;> exact ⟨rfl, rfl, rfl⟩
  obtain ⟨h1, h2, h3⟩ := hclose
  exact ⟨rfl, rfl, h1.trans hregs, h2.trans hcsr, h3.trans hvec, rfl, rfl⟩

theorem end_frees (s : State) :
    ended s.hart (endHart s s.hart.core).hart ∧ (∀ q ∈ (endHart s s.hart.core).packets, q.core ≠ s.hart.core) ∧
      (endHart s s.hart.core).launches = s.launches.map (fun x => if x.part = partOf s.hart ∧ x.id = launchOf s.hart then
        { x with gone := x.gone + 1, ended := x.ended + 1, flags := x.flags ||| s.hart.csr.fcsr.toNat % 32 } else x) := by
  have hself : hartAt s s.hart.core = s.hart := hartAt_self s
  have hpackets := packets_flushHart s s.hart.core
  have hlaunches := launches_flushHart s s.hart.core
  have hhart : withoutStores (flushHart s s.hart.core).hart = withoutStores s.hart := by
    have hmap : (flushHart s s.hart.core).harts.map withoutStores = s.harts.map withoutStores := harts_flushHart s s.hart.core
    exact (List.cons.inj hmap).1
  unfold endHart
  dsimp only
  rw [hself]
  generalize flushHart s s.hart.core = u at hpackets hlaunches hhart
  have hcore : u.hart.core = s.hart.core := core_withoutStores _ _ hhart
  rw [onCore_acting]
  case hc => exact hcore
  refine ⟨ended_retire s hhart, hpackets, ?_⟩
  show List.map _ u.launches = _
  rw [hlaunches]
  simp only [bits, Nat.pow_zero, Nat.div_one]
  rfl

theorem end_retires (s : State) (hg : gangSize s.hart = 1) (hloop : s.hart.loop = none)
    (hs : s.hart.started = true ∨ (s.hart.vf = none ∧ s.hart.held = none)) (hq : s.hart.queue = []) (hl : s.hart.loads = [])
    (he : s.hart.engines = []) (hr : s.hart.launchReqs = []) :
    ∃ t, exec .endProg s = .next t ∧ ended s.hart t.hart ∧ (∀ q ∈ t.packets, q.core ≠ s.hart.core) ∧
      t.launches = s.launches.map (fun x => if x.part = partOf s.hart ∧ x.id = launchOf s.hart then
        { x with gone := x.gone + 1, ended := x.ended + 1, flags := x.flags ||| s.hart.csr.fcsr.toNat % 32 } else x) :=
  ⟨_, execEndProg_alone s hg hloop he (endWaits_false s.hart hs hq hl he hr), end_frees s⟩

theorem launchInstructions : LaunchInstructions := fun s d a hs hmine hfree =>
  ⟨launch_sends s d a hs hmine hfree, cancel_answers s d a hs hmine hfree, end_retires s⟩

end Sys2Proof.Claims

/-! The answer of a LAUNCH, and the end of a launch (R263, R266, R308, R323). -/

namespace Sys2Proof.Claims

open Sys2Proof.Machine

/-! ### What the entry of a launch leaves -/

theorem markEntry_induction (P : State → Prop) (s : State) (part pa : Nat) (wr : Bool) (h : P s)
    (hstep : ∀ u a v, P u → P (writeHome u none a 8 v)) : P (markEntry s part pa wr).2 := by
  unfold markEntry
  generalize (if wr then 0x300#64 else 0x100#64) = mark
  dsimp only
  split
  · exact h
  · exact hstep s _ _ h

theorem markUsed_induction (P : State → Prop) (s : State) (part : Nat) (es : List (Nat × Bool)) (wr : Bool) (h : P s)
    (hstep : ∀ u a v, P u → P (writeHome u none a 8 v)) : P (markUsed s part es wr) := by
  fun_induction markUsed s part es wr with
  | case1 => exact h
  | case2 s own e rest r ih =>
    have hr : P r.2 := markEntry_induction P s part e wr h hstep
    refine ih ?_
    split
    · exact markEntry_induction P _ part own true hr hstep
    · exact hr
  | case3 s x rest _ ih => exact ih (markEntry_induction P s part x.1 wr h hstep)

/-- The harts of a state. -/
def hartsFrame (s : State) := (s.hart, s.others)

theorem hartsFrame_of_homeFrame {s u : State} (h : homeFrame u = homeFrame s) : hartsFrame u = hartsFrame s := by
  simp only [homeFrame, Prod.mk.injEq] at h
  obtain ⟨hhart, hothers, -⟩ := h
  rw [hartsFrame, hartsFrame, hhart, hothers]

theorem hartsFrame_updateFree (s : State) : hartsFrame (updateFree s) = hartsFrame s := hartsFrame_of_homeFrame (homeFrame_updateFree s)

theorem subscribe_frame (s : State) (who : Subscriber) (pa : Nat) :
    (subscribe s who pa).2.2.launches = s.launches ∧ hartsFrame (subscribe s who pa).2.2 = hartsFrame s := by
  unfold subscribe
  dsimp only
  split
  · exact ⟨rfl, rfl⟩
  · split
    · split <;> exact ⟨rfl, rfl⟩
    · split <;> exact ⟨rfl, rfl⟩

theorem settleLaunch_frame (s : State) (part launch : Nat) :
    (settleLaunch s part launch).launches = s.launches ∧ hartsFrame (settleLaunch s part launch) = hartsFrame s := by
  unfold settleLaunch
  split
  · exact ⟨rfl, rfl⟩
  · split <;> exact ⟨rfl, rfl⟩

/-- The entry of a launch: its record's fields, with no hart started, and the harts as they were (R308). -/
theorem enterLaunch_entry (s : State) (part : Nat) (r : Record) (pas : List Nat) {p : Partition} (hp : s.parts[part]? = some p) :
    ∃ l : Launch, (enterLaunch s part r pas).2.launches = s.launches ++ [l] ∧ (enterLaunch s part r pas).1 = l.id ∧
      hartsFrame (enterLaunch s part r pas).2 = hartsFrame s ∧ l.part = part ∧ l.entry = r.entry ∧ l.arg = r.arg ∧ l.size = r.size ∧
      l.cls = r.cls ∧ l.gangs = r.gangs ∧ l.dispatched = 0 ∧ l.gone = 0 ∧ l.failed = false := by
  unfold enterLaunch
  rw [hp]
  dsimp only
  generalize hsubs : List.foldl _ _ _ = subs
  have hframe : subs.2.launches = s.launches ∧ hartsFrame subs.2 = hartsFrame s := by
    rw [← hsubs]
    refine List.foldlRecOn
      (motive := fun (acc : List Dependence × State) => acc.2.launches = s.launches ∧ hartsFrame acc.2 = hartsFrame s) _ _ ⟨rfl, rfl⟩
      (fun acc hacc pa _ => ?_)
    obtain ⟨hl, hh⟩ := subscribe_frame acc.2 (.dependence part (freeId s part p.nextId 4097) acc.1.length) pa
    exact ⟨hl.trans hacc.1, hh.trans hacc.2⟩
  obtain ⟨hlaunches, hharts⟩ := hframe
  refine ⟨?l, ?launches, ?rest⟩
  case launches => rw [launches_updateFree, (settleLaunch_frame _ _ _).1, hlaunches]
  case rest =>
    refine ⟨rfl, ?_, rfl, rfl, rfl, rfl, rfl, rfl, rfl, rfl, rfl⟩
    rw [hartsFrame_updateFree, (settleLaunch_frame _ _ _).2]
    exact hharts

/-! ### LAUNCH_ANSWER (R263) -/

/-- The answer of a hart's only request (R263). -/
def launchAnswered (s t : State) (q : LaunchReq) (v : Word) : Prop :=
  t.hart.launchReqs = [] ∧ pendingNow s.hart t.hart q.rd false ∧ ∀ x, getReg t x = if x = q.rd ∧ x ≠ 0 then v else getReg s x

theorem answerLaunch_answers {s u : State} {q : LaunchReq} (hu : hartsFrame u = hartsFrame s) (hg : gangSize s.hart = 1)
    (hq : s.hart.launchReqs = [q]) (v : Word) :
    launchAnswered s (answerLaunch u s.hart q v) q v ∧ (answerLaunch u s.hart q v).launches = u.launches := by
  simp only [hartsFrame, Prod.mk.injEq] at hu
  obtain ⟨hhart, -⟩ := hu
  have hfocus : focus u s.hart.core = u := by rw [← hhart, focus_self]
  have hgang : gangNow u = [s.hart] := by rw [gangNow, hhart, if_pos hg]
  have hanswer : (answerLaunch u s.hart q v).hart = writePending { s.hart with launchReqs := [] } q.rd v ∧
      (answerLaunch u s.hart q v).launches = u.launches := by
    unfold answerLaunch
    rw [hfocus, hgang, onCore_acting _ _ _ (congrArg Hart.core hhart)]
    simp [onHarts, hhart, hq]
  obtain ⟨hout, hlaunches⟩ := hanswer
  refine ⟨⟨?_, ?_, fun x => ?_⟩, hlaunches⟩
  · rw [hout]
    unfold writePending writeAfter
    split <;> rfl
  · rw [hout]
    exact pendingNow_writePending { s.hart with launchReqs := [] } q.rd v
  · show regOf (answerLaunch u s.hart q v).hart x = _
    rw [hout, regOf_writePending]
    have hsame : (x = q.rd ∧ q.rd ≠ 0) = (x = q.rd ∧ x ≠ 0) := propext (and_congr_right (fun e => by rw [e]))
    simp only [hsame]
    rfl

theorem execLaunchAnswer_eq {s : State} {q : LaunchReq} {bs : List Byte} (hcore : s.hart.core < 128) (hq : s.hart.launchReqs = [q])
    (hb : q.batch = none) (hr : q.record = some bs) : exec (.launchAnswer (me s)) s = .next (judgeLaunch s s.hart q bs) := by
  show execLaunchAnswer (me s) s = _
  have hme : (me s).val = s.hart.core := Nat.mod_eq_of_lt hcore
  unfold execLaunchAnswer
  rw [hme, hartAt_self]
  simp only [hq, hb, considerLaunch, hr]

theorem judgeLaunch_rejects {s : State} {h : Hart} (q : LaunchReq) {bs : List Byte} {p : Partition} (hp : s.parts[partOf h]? = some p)
    (hc : recordRejects (recordOf bs) (popCount p.cores.toNat 128) ≠ 0) :
    judgeLaunch s h q bs = answerLaunch s h q (statusWord 9 4 0 (recordRejects (recordOf bs) (popCount p.cores.toNat 128))) := by
  unfold judgeLaunch
  dsimp only
  rw [hp]
  exact if_pos hc

/-- The table entries of a record's words are marked as used (R331), and nothing else of the store changes. -/
theorem markedWords_frame (s : State) (part : Nat) (ws : List (Xlat × List (Nat × Bool) × Word)) :
    let u := (ws.foldl (fun (acc : State × Bool) x => (markUsed acc.1 part x.2.1 acc.2, false)) (s, true)).1
    homeFrame u = homeFrame s ∧ u.launches = s.launches := by
  refine List.foldlRecOn (motive := fun (acc : State × Bool) => homeFrame acc.1 = homeFrame s ∧ acc.1.launches = s.launches)
    _ _ ⟨rfl, rfl⟩ (fun acc hacc x _ => ?_)
  refine markUsed_induction (fun u => homeFrame u = homeFrame s ∧ u.launches = s.launches) acc.1 part x.2.1 acc.2 hacc ?_
  intro u a v hu
  obtain ⟨hframe, hlaunches⟩ := hu
  exact ⟨(homeFrame_writeHome ..).trans hframe, (writeHome_launches ..).trans hlaunches⟩

/-- A record that passes every check, with its words reachable and room, is entered, its used table entries marked (R308, R331). -/
theorem judgeLaunch_enters {s : State} {h : Hart} {q : LaunchReq} {bs : List Byte} {p : Partition} (hp : s.parts[partOf h]? = some p)
    (hc : recordRejects (recordOf bs) (popCount p.cores.toNat 128) = 0) {ws : List (Xlat × List (Nat × Bool) × Word)}
    (hw : launchWords s h q.super (recordOf bs) = (ws, s)) (hok : ∀ w ∈ ws, ∃ pa, w.1 = .ok pa) (hbad : s.bad = [])
    (hroom : entriesHeld s < 4096) (hmine : entriesOf s (partOf h) < (pcpWord s (partOf h) 8).toNat) :
    ∃ u pas, homeFrame u = homeFrame s ∧ u.launches = s.launches ∧ judgeLaunch s h q bs =
      answerLaunch (enterLaunch u (partOf h) (recordOf bs) pas).2 h q
        (statusWord 9 0 (enterLaunch u (partOf h) (recordOf bs) pas).1 0) := by
  have hclean : ∀ pa, badMem s pa 8 = false := fun pa => by rw [badMem, hbad, List.any_nil]
  unfold judgeLaunch
  dsimp only
  rw [hp]
  dsimp only
  rw [if_neg (not_not.2 hc), hw]
  dsimp only
  split
  · next hdenied =>
    obtain ⟨w, hmem, hd⟩ := List.any_eq_true.1 hdenied
    obtain ⟨pa, hpa⟩ := hok w hmem
    simp [hpa, hclean] at hd
  split
  · next hmissing =>
    refine absurd hmissing ?_
    rw [List.filterMap_eq_nil_iff.2 (fun w hmem => ?_)]
    · decide
    · obtain ⟨pa, hpa⟩ := hok w hmem
      rw [hpa]
  rw [if_neg (Nat.not_le.2 hroom), if_neg (Nat.not_le.2 hmine)]
  obtain ⟨hframe, hlaunches⟩ := markedWords_frame s (partOf h) ws
  exact ⟨_, _, hframe, hlaunches, rfl⟩

theorem launchAnswers (s : State) (q : LaunchReq) (bs : List Byte) (hcore : s.hart.core < 128) (hg : gangSize s.hart = 1)
    (hq : s.hart.launchReqs = [q]) (hb : q.batch = none) (hr : q.record = some bs) (p : Partition)
    (hp : s.parts[partOf s.hart]? = some p) :
    let r := recordOf bs
    let code := recordRejects r (popCount p.cores.toNat 128)
    (code ≠ 0 → ∃ t, exec (.launchAnswer (me s)) s = .next t ∧ launchAnswered s t q (statusWord 9 4 0 code) ∧
        t.launches = s.launches) ∧
      (code = 0 → ∀ ws, launchWords s s.hart q.super r = (ws, s) → (∀ w ∈ ws, ∃ pa, w.1 = .ok pa) → s.bad = [] →
        s.launches.countP (fun l => l.completion.isSome) < 4096 →
        s.launches.countP (fun l => l.completion.isSome && l.part == partOf s.hart) < (pcpWord s (partOf s.hart) 8).toNat →
        ∃ t l, exec (.launchAnswer (me s)) s = .next t ∧ launchAnswered s t q (statusWord 9 0 l.id 0) ∧
          t.launches = s.launches ++ [l] ∧ l.part = partOf s.hart ∧ l.entry = r.entry ∧ l.arg = r.arg ∧ l.size = r.size ∧ l.cls = r.cls ∧ l.gangs = r.gangs ∧
          l.dispatched = 0 ∧ l.gone = 0 ∧ l.failed = false) := by
  intro r code
  have hexec := execLaunchAnswer_eq hcore hq hb hr
  constructor
  · intro hc
    rw [judgeLaunch_rejects q hp hc] at hexec
    exact ⟨_, hexec, answerLaunch_answers rfl hg hq _⟩
  · intro hc ws hw hok hbad hroom hmine
    obtain ⟨u, pas, hframe, hlaunches, hjudge⟩ := judgeLaunch_enters hp hc hw hok hbad hroom hmine
    have hparts : u.parts[partOf s.hart]? = some p := by
      have h := hframe
      simp only [homeFrame, Prod.mk.injEq] at h
      obtain ⟨-, -, hparts, -⟩ := h
      rwa [hparts]
    obtain ⟨l, hentered, hid, hharts, hfields⟩ := enterLaunch_entry u (partOf s.hart) r pas hparts
    obtain ⟨hanswer, hstore⟩ := answerLaunch_answers (hharts.trans (hartsFrame_of_homeFrame hframe)) hg hq (statusWord 9 0 l.id 0)
    rw [hjudge, hid] at hexec
    exact ⟨_, l, hexec, hanswer, by rw [hstore, hentered, hlaunches], hfields⟩

end Sys2Proof.Claims

/-! The end of a launch (R266, R323). -/

namespace Sys2Proof.Claims

open Sys2Proof.Machine

theorem launchAt_of_only {s : State} {l : Launch} (h : onlyLaunch s l) : launchAt s l.part l.id = some l := by
  rw [launchAt, ← List.head?_filter]
  exact congrArg List.head? h

theorem mem_of_onlyLaunch {s : State} {l : Launch} (h : onlyLaunch s l) : l ∈ s.launches := by
  have hmem : l ∈ s.launches.filter (fun x => x.part == l.part && x.id == l.id) := by
    rw [show s.launches.filter _ = [l] from h]
    exact List.mem_singleton_self l
  exact (List.mem_filter.1 hmem).1

/-! ### END_LAUNCH -/

theorem launches_finishStores (part qos : Nat) (s : State) (e : Stope) : (finishStores part qos s e).launches = s.launches := by
  have hkeep := flushKeeps_launches
  unfold finishStores
  split
  · rfl
  · exact hkeep.trans (hkeep.toWalkKeeps.markUsed s part e.entries true)
      (hkeep.trans (hkeep.foldl _ (fun u w => writeHome_launches ..) _ _) (hkeep.classPushes _ qos _))

theorem launches_stopOutside (s : State) (part launch : Nat) (work : List Nat) :
    (stopOutside s part launch work).launches = s.launches := by
  have hkeep := flushKeeps_launches
  exact hkeep.foldl _ (fun u e => by
    split
    · exact launches_finishStores ..
    · rfl) _ s

/-- A launch that is ended: no hart runs for it, and its entry is complete (R266, R323). -/
theorem endLaunchFor_ends (s : State) (l : Launch) (hl : l ∈ s.launches) :
    (∀ h ∈ (endLaunchFor s l.part l.id).harts, runsFor h l.part l.id = false) ∧
      ∃ m ∈ (endLaunchFor s l.part l.id).launches, m.part = l.part ∧ m.id = l.id ∧ m.failed = true ∧
        m.gone = l.size * l.gangs := by
  unfold endLaunchFor
  dsimp only
  generalize hu : List.foldl flushHart _ _ = u
  have hlaunches : u.launches = s.launches := by
    rw [← hu]
    exact flushKeeps_launches.foldl flushHart launches_flushHart _ _
  generalize hv : stopOutside u _ _ _ = v
  have hstopped : v.launches = s.launches := by
    rw [← hv, launches_stopOutside, hlaunches]
  constructor
  · intro h hh
    obtain ⟨g, rfl⟩ : ∃ g, h = if runsFor g l.part l.id then retire (closeHart v g) else g := by
      rcases List.mem_cons.1 hh with rfl | hh
      · exact ⟨v.hart, rfl⟩
      · obtain ⟨g, -, hg⟩ := List.mem_map.1 hh
        exact ⟨g, hg.symm⟩
    split
    · rfl
    · next hg => exact Bool.eq_false_iff.2 hg
  · refine ⟨_, List.mem_map_of_mem (show l ∈ v.launches from hstopped ▸ hl), ?_⟩
    rw [if_pos ⟨rfl, rfl⟩]
    exact ⟨rfl, rfl, rfl, rfl⟩

theorem endLaunch_ends (s : State) (p : PartId) (id : BitVec 24) (l : Launch) (hp : l.part = p.val) (hid : l.id = id.toNat)
    (honly : onlyLaunch s l) (hlive : l.live = true) : ∃ t, exec (.endLaunch p id) s = .next t ∧
      (∀ h ∈ t.harts, runsFor h p.val id.toNat = false) ∧
      ∃ m ∈ t.launches, m.part = l.part ∧ m.id = l.id ∧ m.failed = true ∧ m.gone = l.size * l.gangs := by
  have hat := launchAt_of_only honly
  have hends := endLaunchFor_ends s l (mem_of_onlyLaunch honly)
  rw [hp, hid] at hat hends
  obtain ⟨f, hexec⟩ : ∃ f, exec (.endLaunch p id) s = .next (dropSubs (endLaunchFor s p.val id.toNat) f) := by
    show ∃ f, execEndLaunch p id s = _
    unfold execEndLaunch
    rw [hat]
    simp only [hlive, Bool.not_true, Bool.false_eq_true, if_false]
    exact ⟨_, rfl⟩
  rw [hp, hid]
  exact ⟨_, hexec, hends⟩

/-! ### COMPLETION_WORD_WRITE -/

theorem execCompletionWordWrite_over {s : State} {p : PartId} {id : BitVec 24} {l : Launch} (hat : launchAt s p.val id.toNat = some l)
    (hgone : l.size * l.gangs ≤ l.gone) (hnone : ∀ h ∈ s.harts, runsFor h l.part l.id = false) :
    exec (.completionWordWrite p id) s = .next (removeLaunch
      (writeCompletion s l (completionWord l.ended (if l.failed then 3 else 0) l.flags)) p.val id.toNat) := by
  have hover : launchOver s l = true := by
    have hany : s.harts.any (fun h => runsFor h l.part l.id) = false := List.any_eq_false.2 (fun h hh => by rw [hnone h hh]; decide)
    rw [launchOver, hany, decide_eq_true hgone]
    rfl
  show execCompletionWordWrite p id s = _
  unfold execCompletionWordWrite
  rw [hat]
  simp only [hover, Bool.not_true, Bool.false_eq_true, if_false]

/-- A word apart from the free counts of the partitions is not changed when an entry goes. -/
theorem word8_removeLaunch (s : State) (part id pa : Nat) (h : pa % 8 = 0)
    (hapart : ∀ b ∈ s.parts, pa + 8 ≤ b.pcpAddr.toNat ∨ b.pcpAddr.toNat + 8 ≤ pa) :
    word8 (removeLaunch s part id) pa = word8 s pa := by
  suffices hword : word8 (removeLaunch s part id) pa = word8 s pa ∧ (removeLaunch s part id).parts = s.parts from hword.1
  refine updateFree_induction (fun u => word8 u pa = word8 s pa ∧ u.parts = s.parts) _ ⟨rfl, rfl⟩ (fun u q b v hu hb => ?_)
  obtain ⟨hword, hparts⟩ := hu
  rw [hparts] at hb
  exact ⟨(word8_writeHome_apart u none pa _ v h (hapart b (Vector.mem_of_getElem? hb))).trans hword, (writeHome_parts ..).trans hparts⟩

theorem completionWordWrite_writes (s : State) (p : PartId) (id : BitVec 24) (l : Launch) (hp : l.part = p.val) (hid : l.id = id.toNat)
    (honly : onlyLaunch s l) (hgone : l.size * l.gangs ≤ l.gone) (hnone : ∀ h ∈ s.harts, runsFor h l.part l.id = false) :
    ∃ t, exec (.completionWordWrite p id) s = .next t ∧ (∀ m ∈ t.launches, m.part = l.part → m.id ≠ l.id) ∧
      ∀ pa, l.completion = some pa → pa % 8 = 0 → refusal s l.part pa = none →
        (∀ b ∈ s.parts, pa + 8 ≤ b.pcpAddr.toNat ∨ b.pcpAddr.toNat + 8 ≤ pa) →
        word8 t pa = finishedWord l.ended (if l.failed then 3 else 0) l.flags := by
  have hat := launchAt_of_only honly
  rw [hp, hid] at hat
  refine ⟨_, execCompletionWordWrite_over hat hgone hnone, fun m hm hpart hmid => ?_, fun pa hpa h hr hapart => ?_⟩
  · rw [launches_removeLaunch] at hm
    have := (List.mem_filter.1 hm).2
    simp [hpart, hmid, hp, hid] at this
  · have hframe := homeFrame_writeCompletion s l (completionWord l.ended (if l.failed then 3 else 0) l.flags)
    simp only [homeFrame, Prod.mk.injEq] at hframe
    obtain ⟨-, -, hparts, -⟩ := hframe
    rw [word8_removeLaunch _ _ _ pa h (hparts ▸ hapart)]
    exact word8_writeCompletion s l _ pa hpa h hr

theorem launchEvents : LaunchEvents := fun s =>
  ⟨fun q bs hcore hg hq hb hr p hp => launchAnswers s q bs hcore hg hq hb hr p hp,
    fun p id l hp hid honly => ⟨endLaunch_ends s p id l hp hid honly, completionWordWrite_writes s p id l hp hid honly⟩⟩

end Sys2Proof.Claims

/-! The arbiter: dispatch rounds, aging, dependences and YIELD (R41, R170, R310, R311). -/

namespace Sys2Proof.Claims

open Sys2Proof.Machine

/-! ### A dispatch round (R310, R322) -/

/-- The lowest core that is free and allowed is the set of a gang of one. -/
theorem fitSet_one {s : State} {part k : Nat} (hk : k < 128)
    (hlow : ∀ j, j ≤ k → (mayDispatch s part j && idleCore s j) = decide (j = k)) : fitSet s part 1 (idleCore s) = some [k] := by
  have hset : ∀ c, (coreSet 1 c).bind (fun cs => if cs.all (fun x => mayDispatch s part x && idleCore s x) then some cs else none) =
      if mayDispatch s part c && idleCore s c then some [c] else none := fun c => by
    simp [coreSet]
  unfold fitSet
  simp only [hset]
  have hsplit : List.range 128 = List.range k ++ k :: (List.range (127 - k)).map (fun j => k + 1 + j) := by
    rw [show 128 = (k + 1) + (127 - k) by omega, List.range_add, List.range_succ, List.append_assoc]
    rfl
  refine List.findSome?_eq_some_iff.2 ⟨_, k, _, hsplit, ?_, fun j hj => ?_⟩
  · rw [hlow k (Nat.le_refl k), decide_eq_true rfl, if_pos rfl]
  · have hjk := List.mem_range.1 hj
    rw [hlow j (Nat.le_of_lt hjk), decide_eq_false (Nat.ne_of_lt hjk), if_neg Bool.false_ne_true]

/-- A round with one candidate, a launch that a core can take, starts a gang of it there. -/
theorem execDispatchRound_one {s : State} {p : PartId} {c : Candidate} {l : Launch} {cores : List Nat} (hc : candidates s p.val = [c])
    (hlaunch : c.husk = false) (hat : launchAt s p.val c.launch = some l) (hfit : fitSet s p.val c.size (idleCore s) = some cores) :
    exec (.dispatchRound p) s = .next (startGang s l cores) := by
  show execDispatchRound p s = _
  have hfits : fitsIn s p.val c (idleCore s) = true := by
    simp [fitsIn, hlaunch, hfit]
  have hdispatch : dispatch s p.val c = startGang s l cores := by
    simp [dispatch, hlaunch, hat, hfit]
  unfold execDispatchRound
  simp [hc, firstOf, hfits, hdispatch]

/-- A gang of one starts on its core as its launch says (R41). -/
theorem startGang_one (s : State) (l : Launch) (k : Nat) (hsize : l.size = 1) (hk : ∃ h ∈ s.harts, h.core = k) :
    (startGang s l [k]).mem = s.mem ∧
      (let h := hartAt (startGang s l [k]) k
      h.pc = l.entry &&& 0xFFFFFFFFFFFFFFFC ∧ h.regs = startRegs l.arg ∧ h.run = .running ∧ h.vec = Vec.start ∧
        h.csr = { Csr.start k (if l.hyper then 0 else pcpWord s l.part 0x28) with status := if l.hyper then 2 else 0 } ∧
        h.owner = some ⟨l.part, l.id, l.dispatched, 0, 1, k, l.current, s.clock⟩) ∧
      (startGang s l [k]).launches =
        s.launches.map (fun x => if x.part = l.part ∧ x.id = l.id then { x with dispatched := x.dispatched + 1 } else x) := by
  refine ⟨onCore_mem .., ?_, congrArg (List.map _) (onCore_launches ..)⟩
  have hat : hartAt (startGang s l [k]) k = _ := hartAt_onCore_same s k _ (fun _ => rfl) hk
  rw [hat]
  refine ⟨rfl, rfl, rfl, rfl, rfl, ?_⟩
  exact congrArg (fun n => some (⟨l.part, l.id, l.dispatched, 0, n, k, l.current, s.clock⟩ : Owner)) hsize

theorem dispatchRound_starts (s : State) (p : PartId) (c : Candidate) (l : Launch) (k : Nat) (hc : candidates s p.val = [c])
    (hlaunch : c.husk = false) (hcsize : c.size = 1) (hat : launchAt s p.val c.launch = some l) (hsize : l.size = 1) (hk : k < 128)
    (hcore : ∃ h ∈ s.harts, h.core = k) (hlow : ∀ j, j ≤ k → (mayDispatch s p.val j && idleCore s j) = decide (j = k)) :
    ∃ t, exec (.dispatchRound p) s = .next t ∧ t.mem = s.mem ∧
      (let h := hartAt t k
      h.pc = l.entry &&& 0xFFFFFFFFFFFFFFFC ∧ h.regs = startRegs l.arg ∧ h.run = .running ∧ h.vec = Vec.start ∧
        h.csr = { Csr.start k (if l.hyper then 0 else pcpWord s l.part 0x28) with status := if l.hyper then 2 else 0 } ∧
        h.owner = some ⟨l.part, l.id, l.dispatched, 0, 1, k, l.current, s.clock⟩) ∧
      t.launches = s.launches.map (fun x => if x.part = l.part ∧ x.id = l.id then { x with dispatched := x.dispatched + 1 } else x) :=
  ⟨_, execDispatchRound_one hc hlaunch hat (hcsize ▸ fitSet_one hk hlow), startGang_one s l k hsize hcore⟩

/-! ### Aging (R310) -/

/-- The entries of a partition that have gangs to start. -/
def startable (s : State) (part : Nat) : List Launch :=
  s.launches.filter (fun l => l.part == part && (entryState l == .ready || entryState l == .active))

/-- The candidate of a launch. -/
def launchCandidate (s : State) (l : Launch) : Candidate :=
  ⟨false, l.id, l.dispatched, l.size, roundClass s l.current l.arrival l.rise, l.arrival, l.rise⟩

/-- The candidates that are launches come first, in the order of their entries. -/
theorem candidates_launch {s : State} {part k : Nat} {l : Launch} (h : (startable s part)[k]? = some l) :
    (candidates s part)[k]? = some (launchCandidate s l) := by
  have hlt : k < (startable s part).length := (List.getElem?_eq_some_iff.1 h).1
  refine (List.getElem?_append_left (by rwa [List.length_map])).trans ?_
  exact List.getElem?_map.trans (congrArg (Option.map (launchCandidate s)) h)

theorem launch_of_candidate {s : State} {part k : Nat} {c : Candidate} (hk : (candidates s part)[k]? = some c)
    (hlaunch : c.husk = false) : ∃ l, (startable s part)[k]? = some l ∧ c = launchCandidate s l := by
  by_cases hlt : k < (startable s part).length
  · refine ⟨_, List.getElem?_eq_getElem hlt, ?_⟩
    rw [candidates_launch (List.getElem?_eq_getElem hlt)] at hk
    exact (Option.some.inj hk).symm
  · have hhusk := (List.getElem?_append_right (by rw [List.length_map]; exact Nat.not_lt.1 hlt)).symm.trans hk
    obtain ⟨x, -, hx⟩ := List.mem_filterMap.1 (List.mem_of_getElem? hhusk)
    split at hx
    · split at hx
      · rw [← Option.some.inj hx] at hlaunch
        simp at hlaunch
      · cases hx
    · cases hx

/-- A launch whose class rises at the clock `now`. -/
def risen (part id now : Nat) (x : Launch) : Launch :=
  if x.part = part ∧ x.id = id then { x with current := x.current + 1, rise := now } else x

theorem startable_risen (s : State) (part id now : Nat) :
    startable { s with launches := s.launches.map (risen part id now) } part = (startable s part).map (risen part id now) := by
  have hkeep : ∀ x, (risen part id now x).part = x.part ∧ entryState (risen part id now x) = entryState x := fun x => by
    unfold risen
    split <;> exact ⟨rfl, rfl⟩
  unfold startable
  rw [List.filter_map]
  refine congrArg (List.map _) (List.filter_congr (fun x _ => ?_))
  rw [Function.comp_apply, (hkeep x).1, (hkeep x).2]

/-- A class that rises counts from the next cycle on (R310). -/
theorem roundClass_risen (s : State) (cls : Nat) {arrival rise : Nat} (ha : arrival < s.clock) (hr : rise < s.clock) :
    roundClass s (cls + 1) arrival s.clock = roundClass s cls arrival rise := by
  rw [roundClass, roundClass, if_pos ⟨rfl, ha⟩, if_neg (fun h => Nat.ne_of_lt hr h.1)]
  rfl

theorem agingRise_rises (s : State) (p : PartId) (k : Nat) (c : Candidate) (hk : (candidates s p.val)[k]? = some c)
    (hlaunch : c.husk = false) : ∃ t, exec (.agingRise p k) s = .next t ∧
      t = (if c.rise + (s.parts[p]).age.toNat ≤ s.clock ∧ c.rise < s.clock ∧ c.cls < 3 then
        { s with launches := s.launches.map (fun x => if x.part = p.val ∧ x.id = c.launch then
            { x with current := x.current + 1, rise := s.clock } else x) } else s) ∧
      (c.arrival < s.clock → ((candidates t p.val)[k]?).map (·.cls) = some c.cls) := by
  have hpart : s.parts[p.val]? = some s.parts[p] := Vector.getElem?_eq_getElem p.isLt
  obtain ⟨l, hl, rfl⟩ := launch_of_candidate hk hlaunch
  by_cases hdue : (launchCandidate s l).rise + (s.parts[p]).age.toNat ≤ s.clock ∧ (launchCandidate s l).rise < s.clock ∧
      (launchCandidate s l).cls < 3
  · have hexec : exec (.agingRise p k) s = .next { s with launches := s.launches.map (risen p.val l.id s.clock) } := by
      show execAgingRise p k s = _
      unfold execAgingRise
      simp only [hk, hpart, if_pos hdue]
      rfl
    refine ⟨_, hexec, (if_pos hdue).symm, fun harrival => ?_⟩
    obtain ⟨-, hrise, -⟩ := hdue
    have hmine : l.part = p.val := by
      have hmem := (List.mem_filter.1 (List.mem_of_getElem? hl)).2
      exact beq_iff_eq.1 (Bool.and_eq_true_iff.1 hmem).1
    have hnext := (congrArg (fun ls => ls[k]?) (startable_risen s p.val l.id s.clock)).trans
      (List.getElem?_map.trans (congrArg (Option.map (risen p.val l.id s.clock)) hl))
    rw [candidates_launch hnext]
    show some (launchCandidate _ (risen p.val l.id s.clock l)).cls = some (launchCandidate s l).cls
    rw [risen, if_pos ⟨hmine, rfl⟩]
    exact congrArg some (roundClass_risen s l.current harrival hrise)
  · have hexec : exec (.agingRise p k) s = .next s := by
      show execAgingRise p k s = _
      unfold execAgingRise
      simp only [hk, hpart, if_neg hdue]
    exact ⟨s, hexec, (if_neg hdue).symm, fun _ => by rw [hk]; rfl⟩

/-! ### Dependences (R311) -/

theorem onlyLaunch_map {s t : State} {l : Launch} (h : onlyLaunch s l) (g : Launch → Launch)
    (hg : ∀ x, (g x).part = x.part ∧ (g x).id = x.id) (ht : t.launches = s.launches.map g) : onlyLaunch t (g l) := by
  have hl : s.launches.filter (fun x => x.part == l.part && x.id == l.id) = [l] := h
  unfold onlyLaunch
  rw [ht, List.filter_map, (hg l).1, (hg l).2]
  have hsame : ((fun x : Launch => x.part == l.part && x.id == l.id) ∘ g) = fun x => x.part == l.part && x.id == l.id :=
    funext (fun x => by rw [Function.comp_apply, (hg x).1, (hg x).2])
  rw [hsame, hl, List.map_singleton]

theorem settleLaunch_leaves (s : State) (part launch : Nat) :
    (settleLaunch s part launch).mem = s.mem ∧ ∀ z ∈ (settleLaunch s part launch).pushes, z ∈ s.pushes := by
  unfold settleLaunch
  split
  · exact ⟨rfl, fun _ h => h⟩
  · split
    · exact ⟨rfl, fun _ h => (List.mem_filter.1 h).1⟩
    · exact ⟨rfl, fun _ h => h⟩

/-- The only push to an address, taken, leaves none to it. -/
theorem none_of_erase {ps : List Push} {y : Push} {f : Push → Bool} (h : ps.filter f = [y]) : ∀ z ∈ ps.erase y, f z = false := by
  have hyf : f y = true := (List.mem_filter.1 (h ▸ List.mem_singleton_self y : y ∈ ps.filter f)).2
  induction ps with
  | nil => exact fun z hz => absurd hz List.not_mem_nil
  | cons q ps ih =>
    by_cases hq : q = y
    · subst hq
      rw [List.filter_cons_of_pos hyf] at h
      rw [List.erase_cons_head]
      intro z hz
      exact Bool.eq_false_iff.2 (List.filter_eq_nil_iff.1 (List.cons.inj h).2 z hz)
    · have hfq : f q = false := Bool.eq_false_iff.2 (fun hfq => by
        rw [List.filter_cons_of_pos hfq] at h
        exact hq (List.cons.inj h).1)
      rw [List.filter_cons_of_neg (by rw [hfq]; decide)] at h
      rw [List.erase_cons_tail (by simpa using hq)]
      intro z hz
      rcases List.mem_cons.1 hz with rfl | hz
      · exact hfq
      · exact ih h z hz

/-- A launch with its dependences changed by `g`. -/
def withDeps (part id : Nat) (g : List Dependence → List Dependence) (l : Launch) : Launch :=
  if l.part = part ∧ l.id = id then { l with deps := g l.deps } else l

theorem withDeps_named (part id : Nat) (g : List Dependence → List Dependence) (l : Launch) :
    (withDeps part id g l).part = l.part ∧ (withDeps part id g l).id = l.id := by
  unfold withDeps
  split <;> exact ⟨rfl, rfl⟩

/-- A state whose launches have the dependences of one of them changed has that launch, changed. -/
theorem onlyLaunch_withDeps {s t : State} {l : Launch} {part id : Nat} (honly : onlyLaunch s l) (hp : l.part = part) (hid : l.id = id)
    (g : List Dependence → List Dependence) (ht : t.launches = s.launches.map (withDeps part id g)) :
    ∃ m, onlyLaunch t m ∧ m.part = l.part ∧ m.id = l.id ∧ m.deps = g l.deps := by
  obtain ⟨hpart, hlaunch⟩ := withDeps_named part id g l
  refine ⟨_, onlyLaunch_map honly _ (withDeps_named part id g) ht, hpart, hlaunch, ?_⟩
  rw [withDeps, if_pos ⟨hp, hid⟩]

/-- The push `y`, which meets a dependence, taken: the push is gone, and the dependence done (R311). -/
def dependenceMet (s : State) (part id d : Nat) (y : Push) : State :=
  { unsuspect { s with pushes := s.pushes.erase y } y.id with
    launches := s.launches.map (withDeps part id (List.mapIdx (fun i x => if i = d then { x with done := true } else x))) }

/-- The word of a dependence read again, which is `x` after it (R311). -/
def dependenceRead (s : State) (part id d : Nat) (x : Dependence) : State :=
  { s with launches := s.launches.map (withDeps part id (fun ds => ds.set d x)) }

theorem dependence_satisfied (s : State) (p : PartId) (id : BitVec 24) (d : Fin 2) (l : Launch) (x : Dependence) (y : Push)
    (honly : onlyLaunch s l) (hp : l.part = p.val) (hid : l.id = id.toNat) (hx : l.deps[d.val]? = some x)
    (hy : s.pushes.filter (fun z => z.who == .dependence p.val id.toNat d.val) = [y]) (hmesh : y.transit = .mesh)
    (hfree : recovering s y.endpoint = 0) (htop : y.value.getLsbD 63 = true) :
    ∃ t m, exec (.dependenceSatisfied p id d) s = .next t ∧ onlyLaunch t m ∧ m.part = l.part ∧ m.id = l.id ∧
      m.deps[d.val]? = some { x with done := true } ∧ ∀ z ∈ t.pushes, z.who ≠ .dependence p.val id.toNat d.val := by
  have hwho : y.who = .dependence p.val id.toNat d.val := by
    have hmem : y ∈ s.pushes.filter (fun z => z.who == .dependence p.val id.toNat d.val) := hy ▸ List.mem_singleton_self y
    exact beq_iff_eq.1 (List.mem_filter.1 hmem).2
  have hfind : s.pushes.find? (fun x => x.who == .dependence p.val id.toNat d.val && x.transit == .mesh) = some y := by
    have hcomm : (fun x : Push => x.who == .dependence p.val id.toNat d.val && x.transit == .mesh) =
        fun x => x.transit == .mesh && x.who == .dependence p.val id.toNat d.val := funext (fun _ => Bool.and_comm ..)
    rw [hcomm, ← List.head?_filter, ← List.filter_filter, hy, List.filter_cons_of_pos (by rw [hmesh]; decide)]
    rfl
  have hexec : exec (.dependenceSatisfied p id d) s = .next (settleLaunch (dependenceMet s p.val id.toNat d.val y) p.val id.toNat) := by
    have hbit : y.value.toNat.testBit 63 = true := htop
    show execDependenceSatisfied p id d s = _
    unfold execDependenceSatisfied
    dsimp only
    rw [hfind]
    simp only [hfree, if_true, deliver, hwho, hbit, and_true]
    rfl
  obtain ⟨hlaunches, -⟩ := settleLaunch_frame (dependenceMet s p.val id.toNat d.val y) p.val id.toNat
  obtain ⟨m, hm, hpart, hlaunch, hdeps⟩ := onlyLaunch_withDeps honly hp hid _ hlaunches
  refine ⟨_, m, hexec, hm, hpart, hlaunch, ?_, fun z hz => ?_⟩
  · rw [hdeps, List.getElem?_mapIdx, hx]
    exact congrArg some (if_pos rfl)
  · have hgone := none_of_erase hy z ((settleLaunch_leaves _ _ _).2 z hz)
    exact fun e => by simp [e] at hgone

theorem dependence_polled (s : State) (p : PartId) (id : BitVec 24) (d : Fin 2) (l : Launch) (x : Dependence)
    (honly : onlyLaunch s l) (hp : l.part = p.val) (hid : l.id = id.toNat) (hx : l.deps[d.val]? = some x) (hrefused : x.refused = true)
    (hdone : x.done = false) (hdue : x.polled + 4096 ≤ s.clock) :
    ∃ t m, exec (.dependencePoll p id d) s = .next t ∧ onlyLaunch t m ∧ m.part = l.part ∧ m.id = l.id ∧ t.mem = s.mem ∧
      m.deps[d.val]? = some { x with done := (word8 s x.pa).getLsbD 63, polled := s.clock } := by
  have hat := launchAt_of_only honly
  rw [hp, hid] at hat
  have hexec : exec (.dependencePoll p id d) s = .next (settleLaunch (dependenceRead s p.val id.toNat d.val
      { x with done := (word8 s x.pa).getLsbD 63, polled := s.clock }) p.val id.toNat) := by
    show execDependencePoll p id d s = _
    unfold execDependencePoll
    rw [hat, Option.bind_some, hx]
    simp only [hrefused, hdone, hdue]
    rfl
  obtain ⟨hlaunches, -⟩ := settleLaunch_frame (dependenceRead s p.val id.toNat d.val
      { x with done := (word8 s x.pa).getLsbD 63, polled := s.clock }) p.val id.toNat
  obtain ⟨m, hm, hpart, hlaunch, hdeps⟩ := onlyLaunch_withDeps honly hp hid _ hlaunches
  refine ⟨_, m, hexec, hm, hpart, hlaunch, (settleLaunch_leaves _ _ _).1, ?_⟩
  rw [hdeps, List.getElem?_set_self (List.getElem?_eq_some_iff.1 hx).1]

end Sys2Proof.Claims

/-! YIELD (R170), and the obligation. -/

namespace Sys2Proof.Claims

open Sys2Proof.Machine

/-- What a hart that runs alone does for itself is all that its gang does. -/
theorem eachMember_alone (s : State) (f : State → State) (h : (f s).hart.core = s.hart.core) :
    eachMember s [s.hart] (fun u => .next (f u)) = f s := by
  have hfocus : focus (f s) s.hart.core = f s := by rw [← h, focus_self]
  simp [eachMember, hfocus]

theorem execYield_alone (s : State) (hg : gangSize s.hart = 1) : exec .yield s =
    .next (if s.hart.owner.isSome && yieldTaken s s.hart then stopGang (advance s) s.hart.core .preempt else advance s) := by
  show execYield s = _
  have hgang : gangNow s = [s.hart] := if_pos hg
  have hleader : leaderNow s = s.hart := by rw [leaderNow, hgang]; rfl
  unfold execYield
  rw [hgang, hleader, eachMember_alone s advance rfl]

theorem closeHart_keeps {α : Type} (p : Hart → α) (hp : ∀ h convoy closed, p { h with convoy := convoy, closed := closed } = p h)
    (s : State) (h : Hart) : p (closeHart s h) = p h := by
  unfold closeHart
  split
  · rfl
  · exact hp h _ _

/-- The stop of a hart that acts, with no marked loop and no wait: it is latched as stopped, its convoy closed (R172, R315). -/
theorem stopHart_acting (s : State) (r : StopReason) (pc : Word) (hloop : s.hart.loop = none) (hrun : s.hart.run = .running) :
    let t := stopHart s s.hart.core r pc none
    t.hart.stopping = some r ∧ t.hart.regs = s.hart.regs ∧ t.hart.vec = s.hart.vec ∧ t.mem = s.mem ∧ t.hart.pc = pc ∧
      t.hart.run = .stopped none := by
  have hkeep := closeHart_keeps (fun h => (h.core, h.loop, h.run, h.regs, h.vec)) (fun _ _ _ => rfl) s s.hart
  simp only [Prod.mk.injEq] at hkeep
  obtain ⟨hcore, hl, hr, hregs, hvec⟩ := hkeep
  rw [hloop] at hl
  rw [hrun] at hr
  have hcore : (closeConvoy s).hart.core = s.hart.core := hcore
  have hfocus : focus (closeConvoy s) s.hart.core = closeConvoy s := by rw [← hcore, focus_self]
  have hdecline : declineLoop (closeConvoy s).hart 11 = (closeConvoy s).hart := by
    rw [declineLoop, show (closeConvoy s).hart.loop = none from hl]
  have hstall : stallOf (closeConvoy s).hart = none := by
    rw [stallOf, show (closeConvoy s).hart.run = .running from hr]
  unfold stopHart
  dsimp only
  rw [focus_self, hfocus, onCore_acting _ _ _ hcore, hdecline, show (closeConvoy s).hart.run = .running from hr, countHart_frame]
  dsimp only
  rw [hstall]
  exact ⟨rfl, hregs, hvec, rfl, rfl, rfl⟩

/-- A hart that runs alone, with nothing to roll back and no stall, stops at its own pc (R172, R315). -/
theorem stopGang_alone (s : State) (r : StopReason) (hg : gangSize s.hart = 1) (hrun : s.hart.run = .running)
    (hu : unstarted s.hart = []) : stopGang s s.hart.core r = stopHart s s.hart.core r s.hart.pc none := by
  have hgang : gangNow s = [s.hart] := if_pos hg
  have hroll : onCore s s.hart.core rollbackHart = s := by
    rw [onCore_acting _ _ _ rfl, rollbackHart, hu]
  have hstall : stallOf s.hart = none := by rw [stallOf, hrun]
  unfold stopGang
  simp [hgang, hroll, hstall]

theorem yield_goes (s : State) (hg : gangSize s.hart = 1) :
    ((s.hart.owner = none ∨ yieldTaken s s.hart = false) → ∃ t, exec .yield s = .next t ∧ s.onlyPc t (s.hart.pc + 4)) ∧
      (s.hart.owner.isSome = true → yieldTaken s s.hart = true → s.hart.loop = none → s.hart.run = .running →
        unstarted s.hart = [] → ∃ t, exec .yield s = .next t ∧ stoppedAt s t .preempt ∧ t.hart.pc = s.hart.pc + 4 ∧
          t.hart.run = .stopped none) := by
  have hexec := execYield_alone s hg
  refine ⟨fun h => ⟨advance s, ?_, rfl⟩, fun ho hy hloop hrun hu => ?_⟩
  · rw [hexec, if_neg]
    rcases h with h | h <;> simp [h]
  · rw [if_pos (by rw [ho, hy]; rfl)] at hexec
    obtain ⟨hstopping, hregs, hvec, hmem, hpc, hstop⟩ := stopHart_acting (advance s) .preempt (advance s).hart.pc hloop hrun
    have hgang : stopGang (advance s) s.hart.core .preempt = _ := stopGang_alone (advance s) .preempt hg hrun hu
    rw [hgang] at hexec
    exact ⟨_, hexec, ⟨hstopping, hregs, hvec, hmem⟩, hpc, hstop⟩

theorem arbiterSteps : ArbiterSteps := fun s =>
  ⟨fun p c l k hc hlaunch hcsize hat hsize hk hcore hlow => dispatchRound_starts s p c l k hc hlaunch hcsize hat hsize hk hcore hlow,
    fun p k c hk hlaunch => agingRise_rises s p k c hk hlaunch,
    fun p id d l x y honly hp hid hx =>
      ⟨fun hy hmesh hfree htop => dependence_satisfied s p id d l x y honly hp hid hx hy hmesh hfree htop,
        fun hrefused hdone hdue => dependence_polled s p id d l x honly hp hid hx hrefused hdone hdue⟩,
    yield_goes s⟩

/-- Settles O48: LAUNCH flushes its leader and the gang goes on, CANCEL, END and the store's answer are their branches with what a flush
and a write at its home leave alone, and a round, a rise, a dependence and a YIELD are each one change of a launch or of a hart. -/
theorem launchesAndArbiter : Obligations.LaunchesAndArbiter := ⟨launchInstructions, launchEvents, arbiterSteps⟩

end Sys2Proof.Claims

/-! Rounded patterns fit their format (R66 to R70), and the scalar FP instructions (R71 to R73, R148, R155 to R157). -/

namespace Sys2Proof.Machine

/-! ### A rounded pattern fits its format -/

/-- The patterns of a format's finite numbers, as magnitude and sign. -/
theorem signBit_add_lt (f : FloatFmt) (neg : Bool) {mag : Nat} (h : mag ≤ 2 ^ (f.eb + f.mb) - 1) :
    signBit f neg + mag < 2 ^ (f.eb + f.mb + 1) := by
  have hpos := Nat.two_pow_pos (f.eb + f.mb)
  unfold signBit
  rw [Nat.pow_succ]
  split <;> omega

/-- The pattern of an infinity has the largest exponent, and so stays below the sign. -/
theorem topExponent_le (f : FloatFmt) : (2 ^ f.eb - 1) * 2 ^ f.mb ≤ 2 ^ (f.eb + f.mb) - 1 := by
  have hmb := Nat.two_pow_pos f.mb
  rw [Nat.pow_add, Nat.sub_mul, Nat.one_mul]
  omega

theorem infBits_lt (f : FloatFmt) (neg : Bool) : infBits f neg < 2 ^ (f.eb + f.mb + 1) :=
  signBit_add_lt f neg (topExponent_le f)

theorem nanBits_lt (f : FloatFmt) : nanBits f < 2 ^ (f.eb + f.mb + 1) := by
  have htop := topExponent_le f
  have hquiet : 2 ^ (f.mb - 1) ≤ 2 ^ (f.eb + f.mb) := Nat.pow_le_pow_right (by decide) (by omega)
  have hpos := Nat.two_pow_pos (f.eb + f.mb)
  rw [nanBits, Nat.pow_succ]
  omega

theorem roundFin_lt (f : FloatFmt) (rm : Rm) (ftz neg : Bool) (m : Nat) (e : Int) :
    (roundFin f rm ftz neg m e).1 < 2 ^ (f.eb + f.mb + 1) := by
  have htop := topExponent_le f
  have hzero : signBit f neg < 2 ^ (f.eb + f.mb + 1) := signBit_add_lt f neg (Nat.zero_le _)
  unfold roundFin
  split
  · exact hzero
  · dsimp only
    split
    · dsimp only
      split
      · exact infBits_lt f neg
      · exact Nat.lt_of_le_of_lt (Nat.sub_le _ _) (infBits_lt f neg)
    · next hmag =>
      split
      · exact hzero
      · exact signBit_add_lt f neg (by omega)

/-- A packed number is a pattern of its format. -/
theorem pack_lt (f : FloatFmt) (rm : Rm) (ftz : Bool) (x : Num × Nat) : (pack f rm ftz x).1 < 2 ^ (f.eb + f.mb + 1) := by
  unfold pack
  split
  · exact nanBits_lt f
  · exact infBits_lt f _
  · exact roundFin_lt ..

theorem toNat_word_of_lt {v : Nat} (h : v < 2 ^ 64) : (word v).toNat = v := by
  rw [word, BitVec.toNat_ofNat, Nat.mod_eq_of_lt h]

theorem bits_low {n : Nat} (w : BitVec n) (len : Nat) : bits w 0 len = w.toNat % 2 ^ len := by
  rw [bits, Nat.pow_zero, Nat.div_one]

/-! ### The end of a scalar FP instruction -/

/-- A result that raises no enabled flag is written, and its flags are joined (R72). -/
theorem fpResult_completes (s : State) (d : SReg) (v : Word) (fl : Nat) (hfree : frozen s.hart d = false)
    (hfl : fl &&& enables s.hart.csr = 0) : fpResult s d v fl = .next (advance (setReg { s with hart := orFlags s.hart fl } d v)) := by
  rw [fpResult, guardWrite_free s d _ hfree]
  exact if_neg (not_not_intro hfl)

/-- A result that raises an enabled flag traps with its flags joined and the register unwritten (R73). -/
theorem fpResult_traps (s : State) (d : SReg) (v : Word) (fl : Nat) (hfree : frozen s.hart d = false)
    (hfl : fl &&& enables s.hart.csr ≠ 0) :
    fpResult s d v fl = .next (trapAt { s with hart := orFlags s.hart fl } 0x10 (word fl) (topndS d)) := by
  rw [fpResult, guardWrite_free s d _ hfree]
  exact if_pos hfl

/-- A result written, and the next word: nothing but the register and the pc has changed. -/
theorem onlyResult_advance_setReg (s : State) (d : SReg) (v : Word) : s.onlyResult (advance (setReg s d v)) d v (s.hart.pc + 4) := by
  refine ⟨?_, fun r hr => ?_, ?_, ?_⟩
  · rw [getReg_advance, getReg_setReg_same]
  · rw [getReg_advance, getReg_setReg_other s d r v hr]
  · simp
  · unfold advance setPc setReg
    split <;> rfl

end Sys2Proof.Machine

namespace Sys2Proof.Claims

open Sys2Proof.Machine

/-- Each row of the table of scalar FP instructions ends in its value and its flags (R155 to R157). -/
theorem exec_floating (s : State) (i : Instr) (d : SReg) (v : Word) (fl : Nat) (h : floating s i = some (d, v, fl)) :
    exec i s = fpResult s d v fl := by
  unfold floating at h
  simp only [← bits_low] at h
  split at h <;> cases h <;> rfl

/-- Settles O4: the instruction is its value's end (`exec_floating`), which an enabled flag makes a trap (`trapAt_entered`). -/
theorem floatEnabledFlagTraps : Obligations.FloatEnabledFlagTraps := by
  intro s i d v fl hrow hfree hfl hnest hloop
  have hexec := (exec_floating s i d v fl hrow).trans (fpResult_traps s d v fl hfree hfl)
  obtain ⟨hcsr, -, hpc, hregs, -⟩ :=
    trapAt_entered { s with hart := orFlags s.hart fl } 0x10 (word fl) (topndS d) ⟨hnest, hloop⟩
  refine ⟨_, hexec, hregs, ?_⟩
  rw [hcsr]
  refine ⟨rfl, rfl, rfl, ?_, rfl, hpc⟩
  simp [topndS, operandWord]

theorem floatResults : FloatResults := by
  intro s i d v fl hrow hfree hfl
  refine ⟨_, (exec_floating s i d v fl hrow).trans (fpResult_completes s d v fl hfree hfl), ?_, ?_⟩
  · simp [orFlags]
  · simp only [advance_hart_csr, setReg_hart_csr]
    exact onlyResult_advance_setReg { s with hart := orFlags s.hart fl } d v

theorem floatUpperBitsZero : FloatUpperBitsZero := by
  intro s i d v fl hrow
  have hsingle : ∀ rm ftz n, (word (pack fp32 rm ftz n).1).toNat < 2 ^ 32 := fun rm ftz n => by
    have hlt : (pack fp32 rm ftz n).1 < 2 ^ 32 := pack_lt fp32 rm ftz n
    rw [toNat_word_of_lt (by omega)]
    exact hlt
  have hbf : ∀ rm ftz n, (word (pack bf16 rm ftz n).1).toNat < 2 ^ 16 := fun rm ftz n => by
    have hlt : (pack bf16 rm ftz n).1 < 2 ^ 16 := pack_lt bf16 rm ftz n
    rw [toNat_word_of_lt (by omega)]
    exact hlt
  have hbit : ∀ b : Bool, (if b then 1 else 0 : Word).toNat < 2 ^ 32 := by decide
  unfold floating at hrow
  split at hrow <;> cases hrow
  case h_9 => exact hbit _
  case h_10 => trivial
  case h_11 => trivial
  case h_14 => exact hbf ..
  all_goals exact hsingle ..

/-- Settles O5: the instruction is its value's end (`exec_floating`), and a packed pattern fits its format (`pack_lt`). -/
theorem floatCompletes : Obligations.FloatCompletes := ⟨floatResults, floatUpperBitsZero⟩

end Sys2Proof.Claims

/-! Integer elements are the bit-vector operation of their width (R75, R185, R186, R189). -/

namespace Sys2Proof.Machine

open Sys2Proof.Claims

/-! ### Numbers of a width as bit vectors -/

/-- A bit vector as an integer operation reads it: unsigned, or in two's complement (R185). -/
def readBits {n : Nat} (u : Bool) (x : BitVec n) : Int := if u then (x.toNat : Int) else x.toInt

theorem wrap_eq (n : Nat) (v : Int) : wrap n v = (BitVec.ofInt n v).toNat := (BitVec.toNat_ofInt v).symm

theorem ofInt_readBits {n : Nat} (u : Bool) (x : BitVec n) : BitVec.ofInt n (readBits u x) = x := by
  cases u
  · exact BitVec.ofInt_toInt
  · exact (BitVec.ofInt_natCast n x.toNat).trans (by rw [BitVec.ofNat_toNat, BitVec.setWidth_eq])

theorem wrap_readBits {n : Nat} (u : Bool) (x : BitVec n) : wrap n (readBits u x) = x.toNat := by
  rw [wrap_eq, ofInt_readBits]

/-- A pattern of a tag's width is read as its bit vector is. -/
theorem intElem_eq (u : Bool) (t x : Nat) (hx : x < 2 ^ tagBits t) : intElem u t x = readBits u (BitVec.ofNat (tagBits t) x) := by
  have hnat : (BitVec.ofNat (tagBits t) x).toNat = x := by rw [BitVec.toNat_ofNat, Nat.mod_eq_of_lt hx]
  unfold intElem readBits signed
  rw [BitVec.toInt_eq_toNat_cond, hnat, Nat.mod_eq_of_lt hx]

theorem readBits_eq_zero {n : Nat} (u : Bool) (x : BitVec n) : readBits u x = 0 ↔ x = 0#n := by
  constructor
  · intro h
    rw [← ofInt_readBits u x, h]
    exact BitVec.ofInt_ofNat n 0
  · rintro rfl
    cases u <;> simp [readBits]

/-! ### Each operation -/

section Operation

variable {n : Nat} (x y : BitVec n)

theorem quotient_zero (u : Bool) (h : y = 0#n) : quotient n (readBits u x) (readBits u y) = (-1#n : BitVec n).toNat := by
  rw [quotient, if_pos ((readBits_eq_zero u y).2 h), BitVec.neg_one_eq_allOnes, BitVec.toNat_allOnes]

theorem quotient_signed (h : y ≠ 0#n) : quotient n (readBits false x) (readBits false y) = (x.sdiv y).toNat := by
  have hz : x.sdiv y = BitVec.ofInt n (x.toInt.tdiv y.toInt) :=
    BitVec.eq_of_toInt_eq (by rw [BitVec.toInt_sdiv, BitVec.toInt_ofInt])
  rw [quotient, if_neg (fun hy => h ((readBits_eq_zero false y).1 hy)), wrap_eq, hz]
  rfl

theorem quotient_unsigned (h : y ≠ 0#n) : quotient n (readBits true x) (readBits true y) = (x / y).toNat := by
  rw [quotient, if_neg (fun hy => h ((readBits_eq_zero true y).1 hy)), BitVec.toNat_udiv]
  show wrap n ((x.toNat / y.toNat : Nat) : Int) = _
  rw [wrap_eq, BitVec.ofInt_natCast, BitVec.toNat_ofNat, Nat.mod_eq_of_lt (Nat.lt_of_le_of_lt (Nat.div_le_self ..) x.isLt)]

theorem remainder_zero (u : Bool) (h : y = 0#n) : remainder n (readBits u x) (readBits u y) = x.toNat := by
  rw [remainder, if_pos ((readBits_eq_zero u y).2 h), wrap_readBits]

theorem remainder_signed (h : y ≠ 0#n) : remainder n (readBits false x) (readBits false y) = (x.srem y).toNat := by
  have hz : x.srem y = BitVec.ofInt n (x.toInt.tmod y.toInt) := by
    rw [← BitVec.toInt_srem, BitVec.ofInt_toInt]
  rw [remainder, if_neg (fun hy => h ((readBits_eq_zero false y).1 hy)), wrap_eq, hz]
  rfl

theorem remainder_unsigned (h : y ≠ 0#n) : remainder n (readBits true x) (readBits true y) = (x % y).toNat := by
  rw [remainder, if_neg (fun hy => h ((readBits_eq_zero true y).1 hy)), BitVec.toNat_umod]
  show wrap n ((x.toNat % y.toNat : Nat) : Int) = _
  rw [wrap_eq, BitVec.ofInt_natCast, BitVec.toNat_ofNat, Nat.mod_eq_of_lt (Nat.lt_of_le_of_lt (Nat.mod_le ..) x.isLt)]

theorem wrap_min (u : Bool) : wrap n (min (readBits u x) (readBits u y)) = (if readBits u x ≤ readBits u y then x else y).toNat := by
  rw [min_def]
  split <;> exact wrap_readBits u _

theorem wrap_max (u : Bool) : wrap n (max (readBits u x) (readBits u y)) = (if readBits u x ≤ readBits u y then y else x).toNat := by
  rw [max_def]
  split <;> exact wrap_readBits u _

theorem readBits_unsigned_le : readBits true x ≤ readBits true y ↔ x ≤ y := Int.ofNat_le

theorem wrap_abs : wrap n (if readBits false x < 0 then -readBits false x else readBits false x) =
    (if x.toInt < 0 then -x else x).toNat := by
  rw [wrap_eq]
  show (BitVec.ofInt n (if x.toInt < 0 then -x.toInt else x.toInt)).toNat = _
  split
  · rw [BitVec.ofInt_neg, BitVec.ofInt_toInt]
  · rw [BitVec.ofInt_toInt]

theorem wrap_sshiftRight (k : Nat) : wrap n (readBits false x / (2 ^ k : Nat)) = (x.sshiftRight k).toNat := by
  rw [wrap_eq]
  show (BitVec.ofInt n (x.toInt / (2 ^ k : Nat))).toNat = _
  rw [← Int.shiftRight_eq_div_pow, ← BitVec.toInt_sshiftRight, BitVec.ofInt_toInt]

/-- An integer operation on two sources of one width is the bit-vector operation of that width (R75, R186, R189). -/
theorem intOp_eq_intElement (o : ElemOp) (c : Int) (z : BitVec n) (h : intElement o x y = some z) :
    intOp o n (readBits o.unsigned x) (readBits o.unsigned y) c = z.toNat := by
  have hx := fun u => ofInt_readBits u x
  have hy := fun u => ofInt_readBits u y
  unfold intElement at h
  split at h <;> cases h <;> simp only [intOp, ElemOp.unsigned, wrap_readBits]
  case h_1 => rw [wrap_eq, BitVec.ofInt_add, hx, hy]
  case h_2 => rw [wrap_eq, Int.sub_eq_add_neg, BitVec.ofInt_add, BitVec.ofInt_neg, hx, hy, BitVec.sub_eq_add_neg]
  case h_3 => rw [wrap_eq, Int.sub_eq_add_neg, BitVec.ofInt_add, BitVec.ofInt_neg, hx, hy, BitVec.sub_eq_add_neg]
  case h_4 => rw [wrap_eq, BitVec.ofInt_mul, hx, hy]
  case h_5 =>
    split
    · next hzero => exact quotient_zero x y false hzero
    · next hne => exact quotient_signed x y hne
  case h_6 =>
    split
    · next hzero => exact quotient_zero x y true hzero
    · next hne => exact quotient_unsigned x y hne
  case h_7 =>
    split
    · next hzero => exact remainder_zero x y false hzero
    · next hne => exact remainder_signed x y hne
  case h_8 =>
    split
    · next hzero => exact remainder_zero x y true hzero
    · next hne => exact remainder_unsigned x y hne
  case h_9 => exact wrap_min x y false
  case h_10 => simp only [wrap_min, readBits_unsigned_le]
  case h_11 => exact wrap_max x y false
  case h_12 => simp only [wrap_max, readBits_unsigned_le]
  case h_13 => exact (BitVec.toNat_and ..).symm
  case h_14 => exact (BitVec.toNat_or ..).symm
  case h_15 => exact (BitVec.toNat_xor ..).symm
  case h_16 => rw [BitVec.toNat_shiftLeft, Nat.shiftLeft_eq]
  case h_17 => rw [BitVec.toNat_ushiftRight, Nat.shiftRight_eq_div_pow]
  case h_18 => exact wrap_sshiftRight x _
  case h_19 => exact wrap_abs x
  case h_20 => rw [wrap_eq, BitVec.ofInt_neg, hx]

end Operation

end Sys2Proof.Machine

namespace Sys2Proof.Claims

open Sys2Proof.Machine

/-- The operations of R75, R186 and R189 that the bit-vector table gives are computed as integers where the result tag is no
float (R185). -/
theorem compute_intElement (o : ElemOp) (c : Csr) (t t2 : Nat) (x y : Nat) (m : Bool) {n : Nat} {a b z : BitVec n}
    (h : intElement o a b = some z) (ht : floatTag t = false) :
    compute o c [t, t2] t [x, y] m =
      (intOp o (tagBits t) (intElem o.unsigned t x) (intElem o.unsigned t2 y) (intElem o.unsigned 0 0), 0) := by
  have hint : (if floatTag t then (floatOp o (tagFmt t) (vrmOf c) (ftzOf c) (operand (tagFmt t) (ftzOf c) x)
      (operand (tagFmt t2) (ftzOf c) y) (operand (tagFmt 0) (ftzOf c) 0)) else
      (intOp o (tagBits t) (intElem o.unsigned t x) (intElem o.unsigned t2 y) (intElem o.unsigned 0 0), 0)) =
      (intOp o (tagBits t) (intElem o.unsigned t x) (intElem o.unsigned t2 y) (intElem o.unsigned 0 0), 0) := by
    rw [ht, if_neg (by decide)]
  cases o with
  | mov => cases h
  | sel => cases h
  | bcast => cases h
  | cvt => cases h
  | _ => exact hint

/-- Settles O23: the element is an integer operation (`compute_intElement`), which is the bit-vector one (`intOp_eq_intElement`). -/
theorem integerElements : Obligations.IntegerElements := by
  intro s o m tag x y htag hx hy z hz
  have hint : floatTag tag = false := by rcases htag with rfl | rfl <;> rfl
  rw [compute_intElement o s.hart.csr tag tag x y m hz hint, intElem_eq _ _ _ hx, intElem_eq _ _ _ hy,
    intOp_eq_intElement _ _ o _ z hz]

end Sys2Proof.Claims

/-! The trap of the first element that raises an enabled flag (R73, R175, R399). -/

namespace Sys2Proof.Machine

open Sys2Proof.Claims

/-- Trap entry leaves what the vector unit holds (R399). -/
theorem takeTrap_held (s : State) (t : TrapInfo) (hm : mayEnter s.hart) :
    (takeTrap s t).hart.started = s.hart.started ∧ (takeTrap s t).hart.held = s.hart.held := by
  rw [takeTrap_hart s t hm.1 hm.2]
  exact ⟨rfl, rfl⟩

/-- The trap of an instruction that has started: the hart enters it behind the instruction, which the vector unit holds (R399). -/
theorem startedTrap_enters (s : State) (tags : Vector (BitVec 4) 64) (cause : Nat) (tval topnd : Word) (at_ : Nat) (useM0 : Bool)
    (flags : Nat) (undo : List Undo) (hm : mayEnter s.hart) (he : s.hart.restart.epc = none) :
    let t := startedTrap s tags cause tval topnd at_ useM0 flags undo
    entered s t cause tval topnd (s.hart.pc + 4) ∧ t.hart.started = true ∧ t.hart.held = some (heldAt s.hart tags at_ useM0 undo) := by
  unfold startedTrap
  dsimp only
  rw [he, Option.getD_none]
  exact ⟨takeTrap_entered
    { s with hart := { s.hart with held := some (heldAt s.hart tags at_ useM0 undo), started := true } } _ hm, takeTrap_held _ _ hm⟩

/-- An element is read under VRCFG from the register file, and from nothing else of a hart. -/
theorem getElem_congr {g h : Hart} (hvrf : g.vec.vrf = h.vec.vrf) (hcfg : g.csr.vrcfg = h.csr.vrcfg) (r : Nat) (narrow : Bool)
    (e : Nat) : getElem g r narrow e = getElem h r narrow e := by
  simp only [getElem, slotOf, regLen, hvrf, hcfg]

/-- A loop that stops at element `a` leaves the elements as one that ends before it. -/
theorem sweep_vec_stopped (f : Nat → Nat × Nat) (act : Nat → Bool) (zero : Bool) (write : Vec → Nat → Nat → Vec) (en e k : Nat)
    (v : Vec) (fl fl' a : Nat) (h1 : e ≤ a) (h2 : a < e + k) (ha : act a = true) (hf : (f a).2 &&& en ≠ 0)
    (hb : ∀ b, e ≤ b → b < a → act b = true → (f b).2 &&& en = 0) :
    (sweep f act zero write en e k v fl).vec = (sweep f act zero write en e (a - e) v fl').vec := by
  induction k generalizing e v fl fl' with
  | zero => omega
  | succ k ih =>
    by_cases hea : e = a
    · subst hea
      rw [Nat.sub_self]
      unfold sweep
      simp [ha, hf]
    · have hrest := fun v fl fl' => ih (e + 1) v fl fl' (by omega) (by omega) (fun b h3 => hb b (by omega))
      have hnext : a - e = a - (e + 1) + 1 := by omega
      rw [hnext]
      unfold sweep
      split
      · next he =>
        simp only [hb e (Nat.le_refl _) (by omega) he, ne_eq, not_true_eq_false, if_false]
        exact hrest ..
      · exact hrest ..

/-- The hart at the trap of element `e`: the group's tags, the elements below `e`, the flags up to it, the progress before its
group (R22, R73, R175). -/
def stoppedHart (h : Hart) (d t n : Nat) (act : Nat → Bool) (zero : Bool) (f : Nat → Nat × Nat) (e : Nat) : Hart :=
  let h0 := setTags h d (groupOf h.csr) t
  let w := sweep f act zero (fun v e x => putElem h.csr v d (narrowTag t) e x) (enables h.csr) 0 n h0.vec 0
  setProgress (orFlags { h0 with vec := w.vec } w.flags) d (e / 64) false

section Stopped

variable (d t : Nat) (act : Nat → Bool) (zero : Bool) (f : Nat → Nat × Nat) (e : Nat)

/-- The first active element that raises an enabled flag ends the loop in the trap of a started instruction (R73). -/
theorem vecLoop_stops (s : State) (hr : freshStart s.hart) (he : e < lengthOf s.hart) (ha : act e = true)
    (hf : (f e).2 &&& enables s.hart.csr ≠ 0) (hb : ∀ j, j < e → act j = true → (f j).2 &&& enables s.hart.csr = 0) :
    ∃ undo, vecLoop s d t act zero f = .next (startedTrap
      { s with hart := stoppedHart s.hart d t (lengthOf s.hart) act zero f e } s.hart.vec.tags 0x10 (word (f e).2) (topndV d e)
      (e / 64 * 64) false 0 undo) := by
  have hstop := sweep_stop_some f act zero (fun v e x => putElem s.hart.csr v d (narrowTag t) e x) (enables s.hart.csr) 0
    (lengthOf s.hart) (setTags s.hart d (groupOf s.hart.csr) t).vec 0 e (Nat.zero_le _) (by omega) ha hf (fun b _ => hb b)
  have hz : groupStop (setTags s.hart d (groupOf s.hart.csr) t) (lengthOf (setTags s.hart d (groupOf s.hart.csr) t)) =
      lengthOf s.hart := by
    rw [groupStop, show (setTags s.hart d (groupOf s.hart.csr) t).restart = _ from hr]
    rfl
  have hstart : (setTags s.hart d (groupOf s.hart.csr) t).restart.start = 0 := congrArg Restart.start hr
  unfold vecLoop
  dsimp only
  rw [hz, hstart, Nat.sub_zero]
  rw [show (setTags s.hart d (groupOf s.hart.csr) t).csr = s.hart.csr from rfl, hstop]
  exact ⟨_, rfl⟩

/-- The elements at the trap: those below it are written, and no other (R73). -/
theorem getElem_stoppedHart (h : Hart) (n : Nat) (he : e < n) (ha : act e = true) (hf : (f e).2 &&& enables h.csr ≠ 0)
    (hb : ∀ j, j < e → act j = true → (f j).2 &&& enables h.csr = 0) (j : Nat) :
    getElem (stoppedHart h d t n act zero f e) d (narrowTag t) j =
      if j < e then (if act j then (f j).1 % 2 ^ tagBits t else if zero then 0 else getElem h d (narrowTag t) j)
      else getElem h d (narrowTag t) j := by
  have hvec := sweep_vec_stopped f act zero (fun v e x => putElem h.csr v d (narrowTag t) e x) (enables h.csr) 0 n
    (setTags h d (groupOf h.csr) t).vec 0 0 e (Nat.zero_le _) (by omega) ha hf (fun b _ => hb b)
  have hsweep := getElem_sweep h f act zero d (narrowTag t) (enables h.csr) 0 e (setTags h d (groupOf h.csr) t).vec 0
    (fun a _ h2 => hb a (by omega)) j
  simp only [Nat.zero_le, true_and, Nat.zero_add, ← tagBits_eq] at hsweep
  rw [Nat.sub_zero] at hvec
  rw [← hvec] at hsweep
  exact hsweep

end Stopped

end Sys2Proof.Machine

namespace Sys2Proof.Claims

open Sys2Proof.Machine

/-- An elementwise word that R20 accepts, with a vector destination, is its loop over the elements (R175). -/
theorem exec_elemRow_vector (s : State) (i : Instr) (o : ElemOp) (d : Nat) (srcs : List Nat) (m : MReg) (tag : Nat)
    (hrow : elemRow (getReg s) i = some (o, d, srcs, m)) (hrej : (⟨o, d, srcs, m⟩ : ElemWord).rejects s.hart = none)
    (htag : (⟨o, d, srcs, m⟩ : ElemWord).result s.hart = .inl tag) (hvec : (⟨o, d, srcs, m⟩ : ElemWord).toMask = false) :
    exec i s = vecLoop s d tag (elemActive s o m) (ipolOf s.hart.csr) (elemValue s o srcs m tag) := by
  have hact : (if o == .sel then fun _ => true else active s.hart m) = elemActive s o m := by
    funext e
    show _ = (o == .sel || active s.hart m e)
    cases o == .sel <;> rfl
  have helem : (⟨o, d, srcs, m⟩ : ElemWord).elem s.hart ((⟨o, d, srcs, m⟩ : ElemWord).tags s.hart) tag = elemValue s o srcs m tag :=
    funext (elem_eq_elemValue s o d srcs m tag)
  rw [exec_elemRow s i o d srcs m hrow, elementwise, hrej]
  dsimp only
  rw [htag, hact, hvec, if_neg (by decide)]
  dsimp only
  rw [helem]

/-- Settles O24: the loop stops at the element (`vecLoop_stops`), where it has written those below (`getElem_stoppedHart`) and the
hart enters the trap of a started instruction (`startedTrap_enters`). -/
theorem elementFlagTraps : Obligations.ElementFlagTraps := by
  intro s i o d srcs m hrow hr hm hcmp hrej tag htag v act e he ha hf hb
  have hvec : (⟨o, d, srcs, m⟩ : ElemWord).toMask = false := by
    cases o with
    | cmp u c => exact absurd rfl (hcmp u c)
    | _ => rfl
  obtain ⟨undo, hloop⟩ := vecLoop_stops d tag act (ipolOf s.hart.csr) v e s hr he ha hf hb
  obtain ⟨⟨hcsr, -, hpc, -, hvrf⟩, hstarted, hheld⟩ := startedTrap_enters
    { s with hart := stoppedHart s.hart d tag (lengthOf s.hart) act (ipolOf s.hart.csr) v e } s.hart.vec.tags 0x10
    (word (v e).2) (topndV d e) (e / 64 * 64) false 0 undo hm (congrArg Restart.epc hr)
  have hget := getElem_stoppedHart d tag act (ipolOf s.hart.csr) v e s.hart _ he ha hf hb
  refine ⟨_, (exec_elemRow_vector s i o d srcs m tag hrow hrej htag hvec).trans hloop, ?_⟩
  generalize startedTrap { s with hart := stoppedHart s.hart d tag (lengthOf s.hart) act (ipolOf s.hart.csr) v e } _ _ _ _ _ _ _ _ = t
    at hcsr hpc hvrf hstarted hheld ⊢
  have hsame : ∀ j, getElem t.hart d (narrowTag tag) j =
      getElem (stoppedHart s.hart d tag (lengthOf s.hart) act (ipolOf s.hart.csr) v e) d (narrowTag tag) j :=
    getElem_congr (congrArg Vec.vrf hvrf) (by rw [hcsr]) d (narrowTag tag)
  refine ⟨by rw [hcsr]; rfl, by rw [hcsr], ?_, by rw [hcsr]; rfl, hpc, hstarted, ⟨_, hheld, rfl, rfl, rfl⟩, fun j hj => ?_,
    fun j hj _ => ?_⟩
  · rw [hcsr]
    simp [topndV, operandWord, Nat.mul_comm e]
  · rw [hsame, hget, if_pos hj]
  · rw [hsame, hget, if_neg (Nat.not_lt.2 hj)]

end Sys2Proof.Claims

/-! Outer products and slides (R86, R251 to R253). -/

namespace Sys2Proof.Machine

open Sys2Proof.Claims

/-! ### One K step (R251) -/

theorem getAcc_lt (v : Vec) (t i j : Nat) : getAcc v t i j < 2 ^ 32 := BitVec.isLt _

theorem accumulate_lt (c : Csr) (sub : Bool) (t acc a b : Nat) : (accumulate c sub t acc a b).1 < 2 ^ 32 := pack_lt fp32 _ _ _

theorem getAcc_putAcc (v : Vec) (t i j x a b : Nat) (hj : j < 384) (hb : b < 384) (hx : x < 2 ^ 32) :
    getAcc (putAcc v t i j x) t a b = if a = i ∧ b = j then x else getAcc v t a b := by
  unfold getAcc
  rw [sget_putAcc]
  by_cases h : a = i ∧ b = j
  · rw [if_pos h, h.1, h.2, if_pos rfl, BitVec.toNat_ofNat, Nat.mod_eq_of_lt hx]
  · rw [if_neg h, if_neg (fun hk => h (accKey_inj hb hj hk))]

/-- The vector state with the tile elements of `ps` at `f`, and nothing else changed. -/
structure PairsWritten (tile : Nat) (ps : List (Nat × Nat)) (f : Nat → Nat → Nat) (v w : Vec) : Prop where
  frame : w = { v with acc := w.acc }
  elems : ∀ i j, j < 384 → getAcc w tile i j = if (i, j) ∈ ps then f i j else getAcc v tile i j
  tiles : ∀ x, x / 98304 ≠ tile → sget w.acc x = sget v.acc x

/-- Pairs that raise no enabled flag are accumulated each on its old element (R86, R251). -/
theorem kPairs_written (c : Csr) (sub : Bool) (tile np tag : Nat) (a b : Nat → Nat) (ps : List (Nat × Nat)) (v : Vec) (fl : Nat)
    (hnodup : ps.Nodup) (hin : ∀ p ∈ ps, p.1 < 256 ∧ p.2 < 384)
    (hf : ∀ p ∈ ps, (accumulate c sub tag (getAcc v tile p.1 p.2) (a p.1) (b p.2)).2 &&& enables c = 0) :
    (kPairs c sub tile np tag a b ps v fl).stop = none ∧
      PairsWritten tile ps (fun i j => (accumulate c sub tag (getAcc v tile i j) (a i) (b j)).1) v
        (kPairs c sub tile np tag a b ps v fl).vec := by
  induction ps generalizing v fl with
  | nil => exact ⟨rfl, rfl, fun _ _ _ => by simp [kPairs], fun _ _ => rfl⟩
  | cons p ps ih =>
    obtain ⟨i, j⟩ := p
    obtain ⟨hnew, hrest⟩ := List.nodup_cons.1 hnodup
    obtain ⟨hi, hj⟩ : i < 256 ∧ j < 384 := hin (i, j) List.mem_cons_self
    have hfirst : (accumulate c sub tag (getAcc v tile i j) (a i) (b j)).2 &&& enables c = 0 := hf (i, j) List.mem_cons_self
    have hlt := accumulate_lt c sub tag (getAcc v tile i j) (a i) (b j)
    generalize hr : accumulate c sub tag (getAcc v tile i j) (a i) (b j) = r at hfirst hlt
    have hkeep : ∀ p ∈ ps, getAcc (putAcc v tile i j r.1) tile p.1 p.2 = getAcc v tile p.1 p.2 := by
      intro p hp
      rw [getAcc_putAcc _ _ _ _ _ _ _ hj (hin p (List.mem_cons_of_mem _ hp)).2 hlt, if_neg]
      rintro ⟨h1, h2⟩
      exact hnew (by rwa [show (i, j) = p from Prod.ext h1.symm h2.symm])
    obtain ⟨hstop, hframe, helems, htiles⟩ := ih (putAcc v tile i j r.1) (fl ||| r.2) hrest
      (fun p hp => hin p (List.mem_cons_of_mem _ hp)) (fun p hp => by rw [hkeep p hp]; exact hf p (List.mem_cons_of_mem _ hp))
    have hstep : kPairs c sub tile np tag a b ((i, j) :: ps) v fl =
        kPairs c sub tile np tag a b ps (putAcc v tile i j r.1) (fl ||| r.2) := by
      rw [kPairs, hr, if_neg (not_not_intro hfirst)]
    rw [hstep]
    refine ⟨hstop, hframe, fun x y hy => ?_, fun k hk => ?_⟩
    · rw [helems x y hy, getAcc_putAcc _ _ _ _ _ _ _ hj hy hlt]
      by_cases hxy : x = i ∧ y = j
      · obtain ⟨rfl, rfl⟩ := hxy
        rw [if_neg hnew, if_pos ⟨rfl, rfl⟩, if_pos List.mem_cons_self, hr]
      · have hmem : (x, y) ∈ (i, j) :: ps ↔ (x, y) ∈ ps := by simp [hxy]
        simp only [hmem, if_neg hxy]
    · rw [htiles k hk, sget_putAcc, if_neg]
      rintro rfl
      exact hk (accKey_tile hi hj)

/-- The pairs that a K step accumulates, in its order (R251). -/
def stepPairs (h : Hart) (mr mc : MReg) : List (Nat × Nat) :=
  ((List.range (partRows h)).filter (active h mr)) ×ˢ ((List.range (partCols h)).filter (active h mc))

theorem mem_stepPairs (h : Hart) (mr mc : MReg) (i j : Nat) :
    (i, j) ∈ stepPairs h mr mc ↔ (i < partRows h ∧ active h mr i = true) ∧ j < partCols h ∧ active h mc j = true := by
  simp only [stepPairs, List.mem_product, List.mem_filter, List.mem_range]

theorem nodup_stepPairs (h : Hart) (mr mc : MReg) : (stepPairs h mr mc).Nodup :=
  (List.nodup_range.filter _).product (List.nodup_range.filter _)

/-- A K step whose pairs raise no enabled flag is the run over its pairs (R73). -/
theorem kStep_of_stop_none {h : Hart} {sub : Bool} {tile tag : Nat} {a b : Nat → Nat} {mr mc : MReg} {fl : Nat}
    (hstop : (kPairs h.csr sub tile (partCols h) tag a b (stepPairs h mr mc) h.vec fl).stop = none) :
    kStep h sub tile tag a b mr mc fl = kPairs h.csr sub tile (partCols h) tag a b (stepPairs h mr mc) h.vec fl := by
  unfold kStep
  dsimp only
  split
  · next x hsome => exact absurd (hstop.symm.trans hsome) (Option.some_ne_none x).symm
  · rfl

/-- What an accumulation leaves of a hart's part of a tile: `f` where row and column are active, and nothing else of the vector
state changed. -/
structure PartWritten (h : Hart) (tile : Nat) (mr mc : MReg) (f : Nat → Nat → Nat) (w : Vec) : Prop where
  frame : w = { h.vec with acc := w.acc }
  elems : ∀ i j, i < partRows h → j < partCols h →
    getAcc w tile i j = if active h mr i && active h mc j then f i j else getAcc h.vec tile i j
  tiles : ∀ x, x / 98304 ≠ tile → sget w.acc x = sget h.vec.acc x

section Step

variable (h : Hart) (tile tag : Nat) (mr mc : MReg) (hrows : partRows h ≤ 256) (hcols : partCols h ≤ 384)
include hrows hcols

/-- A K step that raises no enabled flag accumulates every active element (R251). -/
theorem kStep_written (sub : Bool) (a b : Nat → Nat) (fl : Nat)
    (hf : ∀ i j, i < partRows h → j < partCols h → (active h mr i && active h mc j) = true →
      (accumulate h.csr sub tag (getAcc h.vec tile i j) (a i) (b j)).2 &&& enables h.csr = 0) :
    (kStep h sub tile tag a b mr mc fl).stop = none ∧
      PartWritten h tile mr mc (fun i j => (accumulate h.csr sub tag (getAcc h.vec tile i j) (a i) (b j)).1)
        (kStep h sub tile tag a b mr mc fl).vec := by
  have hmem : ∀ p ∈ stepPairs h mr mc, (p.1 < partRows h ∧ active h mr p.1 = true) ∧ p.2 < partCols h ∧ active h mc p.2 = true :=
    fun p hp => (mem_stepPairs h mr mc p.1 p.2).1 hp
  obtain ⟨hstop, hframe, helems, htiles⟩ := kPairs_written h.csr sub tile (partCols h) tag a b (stepPairs h mr mc) h.vec fl
    (nodup_stepPairs h mr mc)
    (fun p hp => by obtain ⟨⟨hi, -⟩, hj, -⟩ := hmem p hp; exact ⟨by omega, by omega⟩)
    (fun p hp => by obtain ⟨⟨hi, hx⟩, hj, hy⟩ := hmem p hp; exact hf p.1 p.2 hi hj (by rw [hx, hy]; rfl))
  rw [kStep_of_stop_none hstop]
  refine ⟨hstop, hframe, fun i j hi hj => ?_, htiles⟩
  have hiff : (i, j) ∈ stepPairs h mr mc ↔ (active h mr i && active h mc j) = true := by
    rw [mem_stepPairs, Bool.and_eq_true]
    tauto
  rw [helems i j (by omega)]
  simp only [hiff]

/-- The steps of a slide in order, with no flag enabled: every active element takes the products one after another (R253). -/
theorem slideSteps_written (a b k n fl : Nat) (hen : enables h.csr = 0) :
    (slideSteps h tile a b tag mr mc k n fl).1.stop = none ∧
      PartWritten h tile mr mc (fun i j => (List.range' k n).foldl (fun acc q =>
          (accumulate h.csr false tag acc (slideElem h a tag (i + q)) (getElem h (b + q) (narrowTag tag) j)).1)
        (getAcc h.vec tile i j)) (slideSteps h tile a b tag mr mc k n fl).1.vec := by
  induction n generalizing h k fl with
  | zero => exact ⟨rfl, rfl, fun _ _ _ _ => by simp [slideSteps], fun _ _ => rfl⟩
  | succ n ih =>
    obtain ⟨hstop, hframe, helems, htiles⟩ := kStep_written h tile tag mr mc hrows hcols false
      (fun i => slideElem h a tag (i + k)) (getElem h (b + k) (narrowTag tag)) fl (fun _ _ _ _ _ => by rw [hen, Nat.and_zero])
    have hstep : slideSteps h tile a b tag mr mc k (n + 1) fl =
        slideSteps { h with vec := (kStep h false tile tag (fun i => slideElem h a tag (i + k))
          (getElem h (b + k) (narrowTag tag)) mr mc fl).vec } tile a b tag mr mc (k + 1) n
          (kStep h false tile tag (fun i => slideElem h a tag (i + k)) (getElem h (b + k) (narrowTag tag)) mr mc fl).flags := by
      rw [slideSteps, hstop]
    rw [hstep]
    generalize kStep h false tile tag (fun i => slideElem h a tag (i + k)) (getElem h (b + k) (narrowTag tag)) mr mc fl = r at *
    rw [hframe]
    obtain ⟨hstop', hframe', helems', htiles'⟩ := ih { h with vec := { h.vec with acc := r.vec.acc } } hrows hcols (k + 1) r.flags hen
    refine ⟨hstop', hframe', fun i j hi hj => ?_, fun x hx => (htiles' x hx).trans (htiles x hx)⟩
    refine (helems' i j hi hj).trans ?_
    have hfirst : getAcc { h.vec with acc := r.vec.acc } tile i j = _ := helems i j hi hj
    show (if (active h mr i && active h mc j) = true then _ else _) = _
    by_cases hact : (active h mr i && active h mc j) = true
    · rw [if_pos hact, if_pos hact, hfirst, if_pos hact, List.range'_succ, List.foldl_cons]
      rfl
    · rw [if_neg hact, if_neg hact, hfirst, if_neg hact]

end Step

/-! ### The instructions -/

/-- The hart after an accumulation: its accumulators, and the flags joined (R72). -/
def productHart (h : Hart) (acc : Sparse 32) (fl : Nat) : Hart := orFlags { h with vec := { h.vec with acc := acc } } fl

/-- Two float sources of one tag that hold every element pass step 3 of R20 (R251). -/
theorem typeFails_outer (h : Hart) (a b : Nat) (htag : tagOfReg h a = 1 ∨ tagOfReg h a = 2) (hb : tagOfReg h b = tagOfReg h a)
    (hfull : overfull h (tagOfReg h a) = false) :
    typeFails h none (outerRejects (tagOfReg h a) (tagOfReg h b)) [a, b] false = none := by
  have hres : outerRejects (tagOfReg h a) (tagOfReg h b) = .inl (tagOfReg h a) := by
    rw [hb]
    rcases htag with e | e <;> rw [e] <;> rfl
  have hne : (tagOfReg h a == 0) = false := by
    rcases htag with e | e <;> rw [e] <;> rfl
  rw [hres]
  simp [typeFails, operandFails, sourceFails, firstBelow, firstFrom, hb, hne, hfull]

/-- An outer product that its checks accept and that raises no enabled flag is one K step (R251). -/
theorem outer_runs (s : State) (k : TileId) (h : tileReady s k) (sub : Bool) (a b : VReg) (mr mc : MReg)
    (htag : tagOfReg s.hart a.val = 1 ∨ tagOfReg s.hart a.val = 2) (hb : tagOfReg s.hart b.val = tagOfReg s.hart a.val)
    (hregs : regsFail s.hart.csr [a.val, b.val] = none) (hfull : overfull s.hart (tagOfReg s.hart a.val) = false)
    (hf : ∀ i j, i < partRows s.hart → j < partCols s.hart → (active s.hart mr i && active s.hart mc j) = true →
      (accumulate s.hart.csr sub (tagOfReg s.hart a.val) (tileElem s.hart k i j)
        (getElem s.hart a.val (narrowTag (tagOfReg s.hart a.val)) i)
        (getElem s.hart b.val (narrowTag (tagOfReg s.hart a.val)) j)).2 &&& enables s.hart.csr = 0) :
    ∃ r : KStep, outer sub k a b mr mc s = .next (advance { s with hart := productHart s.hart r.vec.acc r.flags }) ∧
      PartWritten s.hart k.val mr mc (fun i j => (accumulate s.hart.csr sub (tagOfReg s.hart a.val) (tileElem s.hart k i j)
        (getElem s.hart a.val (narrowTag (tagOfReg s.hart a.val)) i)
        (getElem s.hart b.val (narrowTag (tagOfReg s.hart a.val)) j)).1) r.vec := by
  obtain ⟨-, hm, he, hk, -, hrows, -, hcols, hbad⟩ := h
  obtain ⟨hstop, hwritten⟩ := kStep_written s.hart k.val (tagOfReg s.hart a.val) mr mc hrows hcols sub
    (getElem s.hart a.val (narrowTag (tagOfReg s.hart a.val))) (getElem s.hart b.val (narrowTag (tagOfReg s.hart a.val))) 0 hf
  refine ⟨_, ?_, hwritten⟩
  unfold outer
  rw [matrixTile_pass s k _ hm he hk]
  dsimp only
  rw [checkVec_pass _ _ _ _ _ _ hregs (typeFails_outer s.hart a.val b.val htag hb hfull), readsTile_pass s k _ _ hbad, hstop]
  dsimp only
  rw [hwritten.frame]
  rfl

/-- A slide that its checks accept, with no flag enabled, is its steps in order (R253). -/
theorem execMxsld_runs (s : State) (k : TileId) (h : tileReady s k) (a b : VReg) (mr mc : MReg) (n : Fin 64)
    (hrej : slideRejects s.hart a.val b.val (n.val + 1) = none) (hen : enables s.hart.csr = 0) :
    ∃ r : KStep, execMxsld k a b mr mc n s = .next (advance { s with hart := productHart s.hart r.vec.acc r.flags }) ∧
      PartWritten s.hart k.val mr mc (fun i j => (List.range (n.val + 1)).foldl (fun acc q =>
        (accumulate s.hart.csr false (tagOfReg s.hart a.val) acc (slideElem s.hart a.val (tagOfReg s.hart a.val) (i + q))
          (getElem s.hart (b.val + q) (narrowTag (tagOfReg s.hart a.val)) j)).1) (tileElem s.hart k i j)) r.vec := by
  obtain ⟨hr, hm, he, hk, -, hrows, -, hcols, hbad⟩ := h
  have hstart : s.hart.restart.start = 0 := congrArg Restart.start hr
  have hz : unitStop s.hart (n.val + 1) = n.val + 1 := by rw [unitStop, hr]
  obtain ⟨hstop, hwritten⟩ := slideSteps_written s.hart k.val (tagOfReg s.hart a.val) mr mc hrows hcols a.val b.val 0 (n.val + 1) 0 hen
  rw [← List.range_eq_range'] at hwritten
  refine ⟨_, ?_, hwritten⟩
  unfold execMxsld
  rw [matrixTile_pass s k _ hm he hk]
  dsimp only
  rw [hrej]
  dsimp only
  rw [readsTile_pass s k _ _ hbad, hz, hstart, Nat.sub_zero, hstop]
  simp only [Nat.lt_irrefl, if_false]
  rw [hwritten.frame]
  rfl

end Sys2Proof.Machine

namespace Sys2Proof.Claims

open Sys2Proof.Machine

/-- An accumulation in a tile leaves nothing else of the module changed but the flags and the pc. -/
theorem tileWritten_of_part (s : State) (k : TileId) (mr mc : MReg) (f : Nat → Nat → Nat) (w : Vec) (fl : Nat)
    (h : PartWritten s.hart k.val mr mc f w) :
    tileWritten s (advance { s with hart := productHart s.hart w.acc fl }) k
      (fun i j => if active s.hart mr i && active s.hart mc j then f i j else tileElem s.hart k i j) := by
  refine ⟨⟨rfl, rfl, rfl, rfl, rfl, fun _ _ => rfl⟩, rfl, rfl, fun i j hi hj => ?_, h.tiles⟩
  have helem : getAcc w k.val i j = if active s.hart mr i && active s.hart mc j then f i j else tileElem s.hart k i j := h.elems i j hi hj
  have hlt := getAcc_lt w k.val i j
  rw [helem] at hlt
  exact helem.trans (Nat.mod_eq_of_lt hlt).symm

/-- Settles O36: an outer product is one K step (`outer_runs`), a slide its steps in order (`execMxsld_runs`), and each step
accumulates every active element (`kStep_written`). -/
theorem outerProductResults : Obligations.OuterProductResults := by
  intro s k a b mr mc hready h tag act
  refine ⟨fun sub i hi htag hb hregs hfull hf => ?_, fun n hrej hen => ?_⟩
  · have hexec : exec i s = outer sub k a b mr mc s := by
      rcases hi with ⟨rfl, rfl⟩ | ⟨rfl, rfl⟩ <;> rfl
    obtain ⟨r, hrun, hpart⟩ := outer_runs s k hready sub a b mr mc htag hb hregs hfull hf
    exact ⟨_, hexec.trans hrun, tileWritten_of_part s k mr mc _ r.vec r.flags hpart, rfl⟩
  · obtain ⟨r, hrun, hpart⟩ := execMxsld_runs s k hready a b mr mc n hrej hen
    exact ⟨_, hrun, rfl, tileWritten_of_part s k mr mc _ r.vec r.flags hpart⟩

end Sys2Proof.Claims

/-! Vector accesses whose active elements are all served, of several pieces each (R48, R208, R213, R330). -/

namespace Sys2Proof.Machine

open Sys2Proof.Claims

/-! ### The pieces of one element -/

/-- Every piece of an element is served, each at its place. -/
def piecesLand (s : State) (local_ : Bool) (a : Access) (qs : List Piece) (ps : List Place) : Prop :=
  List.Forall₂ (fun (q : Piece) p => lands s local_ a q.addr q.size p) qs ps

/-- One piece of an element marked as used, for the access of the hart of `s` (R330). -/
def markPiece (s : State) (f : Form) (acc : List (Nat × Bool) × State) (p : Piece) : List (Nat × Bool) × State :=
  if p.addr.toNat < globalBase then acc
  else
    let r := translate acc.2 s.hart.core (partOf s.hart) (supervisor s.hart) p.addr p.size f.kind
    (acc.1 ++ r.1.2, r.2)

theorem markPieces_eq (s : State) (f : Form) (qs : List Piece) : markPieces s f qs = qs.foldl (markPiece s f) ([], s) := rfl

section Pieces

variable {s : State} {f : Form} {local_ : Bool} {qs : List Piece} {ps : List Place}

/-- An element whose pieces are all served is served at their places (R213). -/
theorem elemFate_lands (hf : f.write = !f.read) (hb : s.bad = []) (h : piecesLand s local_ f.kind qs ps) :
    elemFate s f local_ qs = (.ok ps, s) := by
  have hfold : ∀ acc, qs.foldl (fun acc p => let r := pieceFate acc.2 f local_ p; (joinFate acc.1 r.1, r.2)) (.ok acc, s) =
      (.ok (acc ++ ps), s) := by
    induction h with
    | nil => exact fun acc => by rw [List.append_nil]; rfl
    | cons hland _ ih =>
      intro acc
      rw [List.foldl_cons]
      dsimp only
      rw [pieceFate_lands hf hb hland]
      refine (ih _).trans ?_
      rw [List.append_assoc]
      rfl
  exact hfold []

/-- Marking what a served piece uses changes nothing, and gives its entries (R330). -/
theorem markPiece_lands {q : Piece} {p : Place} (es : List (Nat × Bool)) (h : lands s local_ f.kind q.addr q.size p) :
    markPiece s f (es, s) q = (es ++ entriesAt s local_ q.addr, s) := by
  unfold markPiece
  cases local_ with
  | true =>
    obtain ⟨-, hhi, -⟩ := h
    have hlow : q.addr.toNat < globalBase := by unfold globalBase; omega
    rw [if_pos hlow]
    exact congrArg (·, s) (List.append_nil es).symm
  | false =>
    obtain ⟨hlo, pa, -, hcached⟩ := h
    have hhigh : ¬q.addr.toNat < globalBase := by unfold globalBase; omega
    rw [if_neg hhigh]
    dsimp only
    rw [translate_cached hcached]

/-- Marking what a served element uses changes nothing, and gives the entries of its pieces (R330). -/
theorem markPieces_pieces (h : piecesLand s local_ f.kind qs ps) :
    markPieces s f qs = (qs.flatMap (fun q => entriesAt s local_ q.addr), s) := by
  have hfold : ∀ es, qs.foldl (markPiece s f) (es, s) = (es ++ qs.flatMap (fun q => entriesAt s local_ q.addr), s) := by
    induction h with
    | nil => exact fun es => by rw [List.flatMap_nil, List.append_nil]; rfl
    | cons hland _ ih =>
      intro es
      rw [List.foldl_cons, markPiece_lands es hland, ih, List.flatMap_cons, List.append_assoc]
  exact hfold []

/-- A served piece is in range (R48). -/
theorem piecesLand_inRange {a : Access} (h : piecesLand s local_ a qs ps) : qs.any (outOfRange local_) = false := by
  induction h with
  | nil => rfl
  | cons hland _ ih =>
    rw [List.any_cons, ih, Bool.or_false]
    exact lands_inRange hland

end Pieces

/-- An access is local where its elements are (R48). -/
theorem piecesLand_local {s : State} {local_ : Bool} {a : Access} {q : Piece} {qs : List Piece} {ps : List Place} (hs : 0 < q.size)
    (h : piecesLand s local_ a (q :: qs) ps) : decide ((addrOf (q :: qs)).toNat < globalBase) = local_ := by
  obtain ⟨p, rest, hland, -, -⟩ := List.forall₂_cons_left_iff.1 h
  exact lands_local hs hland

/-- A served element that is read waits for no running copy (R54). -/
theorem piecesLand_uncovered {s : State} {local_ : Bool} {qs : List Piece} {ps : List Place} (h : piecesLand s local_ .read qs ps) :
    (local_ && localPlace ps (copyCovers s s.hart (sender s.hart))) = false := by
  cases local_ with
  | false => rfl
  | true =>
    rw [Bool.true_and, localPlace]
    induction h with
    | nil => rfl
    | cons hland _ ih =>
      obtain ⟨-, -, rfl, -, hcopy⟩ := hland
      rw [List.any_cons, ih, Bool.or_false]
      exact hcopy rfl

/-- A place is served for an address and an access at one place alone. -/
theorem lands_unique {s : State} {local_ : Bool} {a : Access} {va : Word} {m n : Nat} {p q : Place} (hp : lands s local_ a va m p)
    (hq : lands s local_ a va n q) : p = q := by
  cases local_ with
  | true =>
    obtain ⟨-, -, rfl, -⟩ := hp
    obtain ⟨-, -, rfl, -⟩ := hq
    rfl
  | false =>
    obtain ⟨-, pa, rfl, -, e, he, -, -, rfl, -⟩ := hp
    obtain ⟨-, pb, rfl, -, g, hg, -, -, rfl, -⟩ := hq
    rw [Option.some.inj (he.symm.trans hg)]

/-! ### The elements of an access (R208) -/

/-- Elements that are all served are judged so, and the state stays. -/
theorem judge_pieces {s : State} {f : Form} {local_ : Bool} {pieces : Nat → List Piece} {place : Nat → List Place}
    (hf : f.write = !f.read) (hb : s.bad = []) (es : List Nat) (acc : List Judged)
    (h : ∀ e ∈ es, (addrOf (pieces e)).toNat % f.w = 0 ∧ piecesLand s local_ f.kind (pieces e) (place e)) :
    judge s f local_ pieces es acc =
      (⟨acc.reverse ++ es.map (fun e => ⟨e, addrOf (pieces e), .ok (place e)⟩), none⟩, s) := by
  induction es generalizing acc with
  | nil => rw [judge, List.map_nil, List.append_nil]
  | cons e es ih =>
    obtain ⟨halign, hland⟩ := h e List.mem_cons_self
    rw [judge]
    dsimp only
    rw [piecesLand_inRange hland, if_neg (by decide), if_neg (not_not_intro halign), elemFate_lands hf hb hland,
      ih _ (fun x hx => h x (List.mem_cons_of_mem _ hx)), List.reverse_cons, List.append_assoc]
    rfl

/-- The plan of an access whose elements are all resident: every one is performed, and nothing traps or trims it (R213). -/
theorem plan_resident (s : State) (f : Form) (n : Nat) (es : List Nat) (js : List Judged) (h : ∀ j ∈ js, ∃ ps, j.fate = .ok ps) :
    plan s f n es ⟨js, none⟩ = ⟨n, none, resident js, none, [], none⟩ := by
  have hany : js.any (·.failed) = false := by
    rw [List.any_eq_false]
    intro j hj
    obtain ⟨ps, hps⟩ := h j hj
    simp [Judged.failed, hps]
  have hnone : ∀ p : Judged → Bool, (∀ j ∈ js, p j = false) → firstWhere js p = none := fun p hp =>
    List.find?_eq_none.2 (fun j hj => by rw [hp j hj]; decide)
  unfold plan
  dsimp only
  rw [hany, Bool.and_false, if_neg (by decide), hnone, hnone]
  · intro j hj
    obtain ⟨ps, hps⟩ := h j hj
    rw [hps]
  · intro j hj
    obtain ⟨ps, hps⟩ := h j hj
    rw [hps]

/-- The elements of an access that are active, with their places (R208). -/
def activeEls (h : Hart) (m : MReg) (n : Nat) (place : Nat → List Place) : List (Nat × List Place) :=
  ((List.range n).filter (active h m)).map (fun e => (e, place e))

/-- A new access whose active elements are all aligned and served performs each of them, in order, and ends with no trap (R208). -/
theorem vecAccess_lands {s : State} {f : Form} {n : Nat} {pieces : Nat → List Piece} {place : Nat → List Place} {local_ : Bool}
    (k : State → Plan → Out) (hr : freshStart s.hart) (hf : f.write = !f.read) (hb : s.bad = [])
    (hpieces : ∀ e, e < n → active s.hart f.m e = true → ∃ q qs, pieces e = q :: qs ∧ 0 < q.size)
    (h : ∀ e, e < n → active s.hart f.m e = true →
      (addrOf (pieces e)).toNat % f.w = 0 ∧ piecesLand s local_ f.kind (pieces e) (place e)) :
    vecAccess s f n pieces k = k s ⟨n, none, activeEls s.hart f.m n place, none, [], none⟩ := by
  have hes : (List.range n).filter (fun e => decide (s.hart.restart.start ≤ e) && enabled s.hart f.m e) =
      (List.range n).filter (active s.hart f.m) := by
    refine List.filter_congr (fun e _ => ?_)
    rw [show s.hart.restart = _ from hr, enabled, show s.hart.restart = _ from hr]
    simp
  have hz : groupStop s.hart n = n := by rw [groupStop, show s.hart.restart = _ from hr]
  have hmem : ∀ e ∈ (List.range n).filter (active s.hart f.m), e < n ∧ active s.hart f.m e = true := fun e he => by
    simpa using he
  have hjudge := judge_pieces hf hb ((List.range n).filter (active s.hart f.m)) [] (fun e he => h e (hmem e he).1 (hmem e he).2)
  have hels : resident (((List.range n).filter (active s.hart f.m)).map (fun e => ⟨e, addrOf (pieces e), .ok (place e)⟩)) =
      activeEls s.hart f.m n place := by
    rw [resident, List.filterMap_map, activeEls, ← List.filterMap_eq_map]
    rfl
  have hplan := plan_resident s f n ((List.range n).filter (active s.hart f.m))
    (((List.range n).filter (active s.hart f.m)).map (fun e => ⟨e, addrOf (pieces e), .ok (place e)⟩))
    (fun j hj => by obtain ⟨e, -, rfl⟩ := List.mem_map.1 hj; exact ⟨_, rfl⟩)
  rw [hels] at hplan
  unfold vecAccess
  dsimp only
  rw [hes, hz]
  split
  · next hnil => simp [activeEls, hnil]
  · next e0 es hcons =>
    have hhead : e0 ∈ (List.range n).filter (active s.hart f.m) := by rw [hcons]; exact List.mem_cons_self
    obtain ⟨he0, ha0⟩ := hmem e0 hhead
    obtain ⟨halign, hland⟩ := h e0 he0 ha0
    obtain ⟨q, qs, hq, hsize⟩ := hpieces e0 he0 ha0
    have hfirst : (List.range n).find? (active s.hart f.m) = some e0 := by
      rw [← List.head?_filter, hcons]
      rfl
    have hlocal : decide ((addrOf (pieces e0)).toNat < globalBase) = local_ := by
      rw [hq] at hland ⊢
      exact piecesLand_local hsize hland
    have hwait : (local_ && f.read && (activeEls s.hart f.m n place).any
        (fun x => localPlace x.2 (copyCovers s s.hart (sender s.hart)))) = false := by
      cases hread : f.read with
      | false => rw [Bool.and_false, Bool.false_and]
      | true =>
        rw [Bool.and_true, Bool.and_eq_false_imp]
        intro hl
        rw [List.any_eq_false]
        intro x hx
        obtain ⟨e, he, rfl⟩ := List.mem_map.1 hx
        have hkind : f.kind = .read := by
          unfold Form.kind
          rw [hf, hread]
          rfl
        have hunc := piecesLand_uncovered (hkind ▸ (h e (hmem e he).1 (hmem e he).2).2)
        rw [hl, Bool.true_and] at hunc
        rw [hunc]
        decide
    simp only [hfirst, hlocal, halign, piecesLand_inRange hland, hjudge, List.reverse_nil, List.nil_append, hplan,
      Plan.upTo, Option.isNone_none, Nat.lt_irrefl, decide_false, Bool.and_false, hwait, ne_eq, not_true_eq_false, and_false,
      Bool.false_eq_true, if_false]
    rfl

end Sys2Proof.Machine

/-! What a load leaves of its destination (R30, R209), and the narrow loads (R78, R80, R215, R216). -/

namespace Sys2Proof.Machine

open Sys2Proof.Claims

/-! ### Some elements written one after another -/

/-- The vector state with some elements of an operand at `x`, written in order. -/
def writeElems (c : Csr) (v : Vec) (r : Nat) (narrow : Bool) (es : List Nat) (x : Nat → Nat) : Vec :=
  es.foldl (fun v e => putElem c v r narrow e (x e)) v

/-- What no write of an element changes, writing some of them does not change. -/
theorem writeElems_keeps {α : Type} (p : Vec → α) (c : Csr) (v : Vec) (r : Nat) (narrow : Bool) (es : List Nat) (x : Nat → Nat)
    (h : ∀ v, ∀ e ∈ es, ∀ y, p (putElem c v r narrow e y) = p v) : p (writeElems c v r narrow es x) = p v := by
  induction es generalizing v with
  | nil => rfl
  | cons e es ih =>
    exact (ih _ (fun v a ha y => h v a (List.mem_cons_of_mem _ ha) y)).trans (h v e List.mem_cons_self _)

theorem writeElems_frame (c : Csr) (v : Vec) (r : Nat) (narrow : Bool) (es : List Nat) (x : Nat → Nat) :
    writeElems c v r narrow es x = { v with vrf := (writeElems c v r narrow es x).vrf } :=
  congrArg (fun u : Vec => { u with vrf := (writeElems c v r narrow es x).vrf })
    (writeElems_keeps (fun u : Vec => { u with vrf := [] }) c v r narrow es x (fun _ _ _ _ => rfl))

theorem getElem_writeElems (h : Hart) (v : Vec) (r : Nat) (narrow : Bool) (es : List Nat) (x : Nat → Nat) (a : Nat) :
    getElem { h with vec := writeElems h.csr v r narrow es x } r narrow a =
      if a ∈ es then x a % 2 ^ elemBits narrow else getElem { h with vec := v } r narrow a := by
  induction es generalizing v with
  | nil => rw [if_neg List.not_mem_nil]; rfl
  | cons e es ih =>
    refine (ih (putElem h.csr v r narrow e (x e))).trans ?_
    rw [getElem_putElem]
    by_cases hes : a ∈ es
    · rw [if_pos hes, if_pos (List.mem_cons_of_mem _ hes)]
    · rw [if_neg hes]
      by_cases hae : a = e
      · subst hae
        rw [if_pos rfl, if_pos List.mem_cons_self]
      · rw [if_neg hae, if_neg (by simp [hae, hes])]

/-! ### A load's destination (R30, R209) -/

/-- The hart whose destination a load of `n` elements has written: the group's tags, the active elements at `x`, the flags `fcsr`. -/
def loadedHart (h : Hart) (d t n : Nat) (m : MReg) (x : Nat → Nat) (fcsr : Word) : Hart :=
  { h with
    csr := { h.csr with fcsr := fcsr }
    vec := writeElems h.csr (setTags h d (groupOf h.csr) t).vec d (narrowTag t) ((List.range n).filter (active h m)) x }

theorem active_loadedHart (h : Hart) (d t n : Nat) (m : MReg) (x : Nat → Nat) (fcsr : Word) (e : Nat) :
    active (loadedHart h d t n m x fcsr) m e = active h m e := by
  have hmasks : (loadedHart h d t n m x fcsr).vec.masks = h.vec.masks := writeElems_keeps Vec.masks _ _ _ _ _ _ (fun _ _ _ _ => rfl)
  rw [active, active, maskBit, maskBit, hmasks]

section Load

variable (h : Hart) (d t n : Nat) (m : MReg) (x : Nat → Nat) (fcsr : Word)

/-- The vector state with the elements that the mask disables at zero under IPOL (R209). -/
def zeroedVec (len : Nat) : Vec :=
  if ipolOf h.csr && m != 0 then
    writeElems h.csr h.vec d (narrowTag t) ((List.range len).filter (fun e => !active h m e)) (fun _ => 0)
  else h.vec

theorem zeroInactive_eq (len : Nat) : zeroInactive h m d (narrowTag t) len = { h with vec := zeroedVec h d t m len } := by
  unfold zeroInactive zeroedVec
  split <;> rfl

/-- Where elements are inactive, there is a mask. -/
theorem mask_of_inactive {e : Nat} (he : active h m e = false) : (m != 0) = true := by
  unfold active at he
  rw [Bool.or_eq_false_iff] at he
  rw [bne, he.1]
  rfl

/-- The hart of a load before its progress is set: elements, zeros and tail. -/
def closedHart : Hart :=
  let h1 := loadedHart h d t n m x fcsr
  if n = 0 then h1 else vecTail (zeroInactive h1 m d (narrowTag t) n) d t n

theorem closeLoad_eq : closeLoad (loadedHart h d t n m x fcsr) m d t n n = completed (closedHart h d t n m x fcsr) d n := by
  unfold closeLoad closedHart
  dsimp only
  split
  · next hn => rw [hn]
  · rfl

theorem getElem_closedHart (e : Nat) : getElem (closedHart h d t n m x fcsr) d (narrowTag t) e =
    if e < n then (if active h m e then x e % 2 ^ tagBits t else if ipolOf h.csr then 0 else getElem h d (narrowTag t) e)
    else if n ≠ 0 ∧ e < capacity h.csr t ∧ tpolOf h.csr ≠ 0 then (if tpolOf h.csr = 1 then 0 else 2 ^ tagBits t - 1)
    else getElem h d (narrowTag t) e := by
  have hloaded : getElem (loadedHart h d t n m x fcsr) d (narrowTag t) e =
      if e < n ∧ active h m e = true then x e % 2 ^ tagBits t else getElem h d (narrowTag t) e := by
    refine (getElem_writeElems h _ d (narrowTag t) _ x e).trans ?_
    simp only [List.mem_filter, List.mem_range, tagBits_eq]
    rfl
  have hzero : getElem (zeroInactive (loadedHart h d t n m x fcsr) m d (narrowTag t) n) d (narrowTag t) e =
      if e < n then (if active h m e then x e % 2 ^ tagBits t else if ipolOf h.csr then 0 else getElem h d (narrowTag t) e)
      else getElem h d (narrowTag t) e := by
    rw [zeroInactive_eq, zeroedVec]
    by_cases hz : (ipolOf h.csr && m != 0) = true
    · have hi : ipolOf h.csr = true := (Bool.and_eq_true_iff.1 hz).1
      rw [if_pos (show (ipolOf (loadedHart h d t n m x fcsr).csr && m != 0) = true from hz)]
      refine (getElem_writeElems (loadedHart h d t n m x fcsr) _ d (narrowTag t) _ (fun _ => 0) e).trans ?_
      refine (if_congr Iff.rfl (Nat.zero_mod _) hloaded).trans ?_
      simp only [List.mem_filter, List.mem_range, Bool.not_eq_true', active_loadedHart, hi, if_true]
      by_cases he : e < n <;> by_cases ha : active h m e = true <;> simp [he, ha]
    · rw [if_neg (show ¬(ipolOf (loadedHart h d t n m x fcsr).csr && m != 0) = true from hz)]
      refine Eq.trans hloaded ?_
      by_cases he : e < n
      · by_cases ha : active h m e = true
        · simp only [he, ha, and_self, if_true]
        · have hi : ipolOf h.csr = false := by
            rwa [mask_of_inactive h m (by simpa using ha), Bool.and_true, Bool.not_eq_true] at hz
          simp only [he, ha, hi, and_false, if_true, if_false, Bool.false_eq_true]
      · simp only [he, false_and, if_false]
  unfold closedHart
  dsimp only
  by_cases hn : n = 0
  · have hlt : ¬e < n := by omega
    rw [if_pos hn, hloaded, if_neg (fun hc => hlt hc.1), if_neg hlt, if_neg (fun hc => hc.1 hn)]
  · rw [if_neg hn]
    refine (getElem_vecTail ..).trans ?_
    rw [hzero]
    by_cases hlt : e < n
    · rw [if_pos hlt, if_pos hlt, if_neg (by omega)]
    · have hiff : (n ≤ e ∧ e < capacity h.csr t ∧ tpolOf h.csr ≠ 0) ↔ (n ≠ 0 ∧ e < capacity h.csr t ∧ tpolOf h.csr ≠ 0) := by omega
      rw [if_neg hlt, if_neg hlt, zeroInactive_eq]
      exact if_congr hiff rfl rfl

/-- What neither setting tags nor writing an element changes, a load does not change. -/
theorem closedHart_keeps {α : Type} (p : Vec → α) (htags : ∀ v ts, p { v with tags := ts } = p v)
    (hp : ∀ v a y, a < n ∨ a < capacity h.csr t → p (putElem h.csr v d (narrowTag t) a y) = p v) :
    p (closedHart h d t n m x fcsr).vec = p h.vec := by
  have hloaded : p (loadedHart h d t n m x fcsr).vec = p h.vec := by
    refine (writeElems_keeps p _ _ _ _ _ _ (fun v e he y => hp v e y (.inl ?_))).trans (htags _ _)
    exact List.mem_range.1 (List.mem_filter.1 he).1
  have hzeroed : p (zeroedVec (loadedHart h d t n m x fcsr) d t m n) = p h.vec := by
    unfold zeroedVec
    split
    · refine (writeElems_keeps p _ _ _ _ _ _ (fun v e he y => hp v e y (.inl ?_))).trans hloaded
      exact List.mem_range.1 (List.mem_filter.1 he).1
    · exact hloaded
  unfold closedHart
  dsimp only
  split
  · exact hloaded
  · rw [zeroInactive_eq]
    exact (vecTail_keeps p { loadedHart h d t n m x fcsr with vec := zeroedVec (loadedHart h d t n m x fcsr) d t m n } d t n
      (fun v a y _ ha => hp v a y (.inr ha))).trans hzeroed

/-- A load leaves all of its hart but FCSR, the group's tags and the register file. -/
theorem closedHart_frame : closedHart h d t n m x fcsr = { h with
    csr := { h.csr with fcsr := fcsr }
    vec := { (setTags h d (groupOf h.csr) t).vec with vrf := (closedHart h d t n m x fcsr).vec.vrf } } := by
  have hloaded := writeElems_frame h.csr (setTags h d (groupOf h.csr) t).vec d (narrowTag t) ((List.range n).filter (active h m)) x
  have hzeroed : zeroedVec (loadedHart h d t n m x fcsr) d t m n = { (loadedHart h d t n m x fcsr).vec with
      vrf := (zeroedVec (loadedHart h d t n m x fcsr) d t m n).vrf } := by
    unfold zeroedVec
    split
    · exact writeElems_frame ..
    · rfl
  unfold closedHart
  dsimp only
  split
  · unfold loadedHart
    rw [hloaded]
  · rw [vecTail_frame, zeroInactive_eq, hzeroed]
    unfold loadedHart
    rw [hloaded]

end Load

end Sys2Proof.Machine

namespace Sys2Proof.Claims

open Sys2Proof.Machine

/-- A load of `n` elements that its destination holds leaves the active ones at `x`, the flags, the tail and the progress (R30, R209). -/
theorem closedHart_written (s : State) (d t n : Nat) (m : MReg) (x : Nat → Nat) (fcsr : Word) (hcap : n ≤ capacity s.hart.csr t) :
    let u := advance { s with hart := completed (closedHart s.hart d t n m x fcsr) d n }
    wentOn s u none ∧ elementsWritten s u d t n n (active s.hart m) x ∧ u.hart.csr = { s.hart.csr with fcsr := u.hart.csr.fcsr } := by
  have hframe := closedHart_frame s.hart d t n m x fcsr
  have helem := getElem_closedHart s.hart d t n m x fcsr
  have hslots : ∀ k, (k < d * regLen s.hart.csr ∨ (d + groupOf s.hart.csr) * regLen s.hart.csr ≤ k) →
      sget (closedHart s.hart d t n m x fcsr).vec.vrf k = sget s.hart.vec.vrf k := by
    intro k hk
    refine closedHart_keeps s.hart d t n m x fcsr (fun v => sget v.vrf k) (fun _ _ => rfl) (fun v a y ha => ?_)
    have hslot := slotOf_inside s.hart.csr d t a (by omega)
    exact sget_putElem_other _ _ _ _ _ _ _ (by omega)
  intro u
  dsimp only [u]
  clear u
  generalize closedHart s.hart d t n m x fcsr = l at hframe helem hslots ⊢
  rw [hframe] at helem ⊢
  obtain ⟨hwent, hprog, htags⟩ := vectorDest_written s d t n fcsr l.vec.vrf
  refine ⟨hwent, ⟨⟨htags, hslots⟩, hprog, fun e he => (helem e).trans (if_pos he), fun e h1 h2 => (helem e).trans ?_⟩, rfl⟩
  rw [if_neg (by omega)]
  by_cases hn : n = 0 <;> by_cases h0 : tpolOf s.hart.csr = 0 <;> simp [hn, h0, h2]

end Sys2Proof.Claims

/-! The narrow loads (R78, R80, R215, R216). -/

namespace Sys2Proof.Machine

open Sys2Proof.Claims

/-! ### The pieces of a narrow element -/

/-- The data of a narrow element is one piece, or two of one byte. -/
theorem cutPieces_eq (a : Word) (n : Nat) : cutPieces a n = [⟨a, n⟩] ∨ n = 2 ∧ cutPieces a n = [⟨a, 1⟩, ⟨a + 1, 1⟩] := by
  unfold cutPieces
  split
  · next h => exact .inr ⟨h.1, rfl⟩
  · exact .inl rfl

theorem narrowSpot_size_pos (f : Fmt) (e : Nat) : 0 < (narrowSpot f e).2.2 := by
  cases f <;> simp [narrowSpot, fmtBits, ceilDiv] <;> split <;> decide

/-- A narrow element has a first piece, and it is not empty. -/
theorem narrowPieces_cons (f : Fmt) (base : Word) (stride scale : Option Word) (e : Nat) :
    ∃ q qs, narrowPieces f base stride scale e = q :: qs ∧ 0 < q.size := by
  unfold narrowPieces
  obtain h | ⟨-, h⟩ := cutPieces_eq (narrowAddr f base stride e) (narrowSpot f e).2.2
  · rw [h]
    exact ⟨_, _, rfl, narrowSpot_size_pos f e⟩
  · rw [h]
    exact ⟨_, _, rfl, Nat.one_pos⟩

/-- Of some pieces that are all served, the last is served at the last place and the others at those before it. -/
theorem piecesLand_split {s : State} {local_ : Bool} {a : Access} {qs : List Piece} {q : Piece} {ps : List Place}
    (h : piecesLand s local_ a (qs ++ [q]) ps) :
    ∃ rest p, ps = rest ++ [p] ∧ piecesLand s local_ a qs rest ∧ lands s local_ a q.addr q.size p := by
  have hrev := List.forall₂_reverse_iff.2 h
  rw [List.reverse_concat] at hrev
  obtain ⟨p, rest, hland, hrest, hps⟩ := List.forall₂_cons_left_iff.1 hrev
  refine ⟨rest.reverse, p, List.reverse_eq_cons_iff.1 hps, ?_, hland⟩
  rw [piecesLand, ← List.forall₂_reverse_iff, List.reverse_reverse]
  exact hrest

/-- The scale byte of a served element is served at its last place. -/
theorem scale_lands {s : State} {local_ : Bool} {a : Access} {f : Fmt} {base sc : Word} {stride : Option Word} {e : Nat} {ps : List Place}
    (h : piecesLand s local_ a (narrowPieces f base stride (some sc) e) ps) :
    ∃ p, ps.getLast? = some p ∧ lands s local_ a (sc + word (e / 16)) 1 p := by
  obtain ⟨rest, p, rfl, -, hland⟩ := piecesLand_split h
  exact ⟨p, List.getLast?_concat, hland⟩

/-! ### Joined flags -/

/-- Joining flags keeps the trap enables (R71, R72). -/
theorem bits_joinFlags (x : Word) (fl : Nat) : bits (x ||| word (fl % 32)) 5 5 = bits x 5 5 := by
  refine Nat.eq_of_testBit_eq (fun k => ?_)
  rw [testBit_bits, testBit_bits, BitVec.getLsbD_or, word, BitVec.getLsbD_ofNat, show 32 = 2 ^ 5 from rfl, Nat.testBit_mod_two_pow,
    decide_eq_false (show ¬5 + k < 5 by omega), Bool.false_and, Bool.and_false, Bool.or_false]

/-! ### The elements of a narrow load -/

/-- The scale byte of an element: read at its place where the block's was not read last, and 127 without one (R80, R216). -/
def byteRead (s : State) (e : Nat) (place : Option Place) (scale : Option (Nat × Nat)) : Nat × State :=
  match place, scale with
  | some p, some y => if y.1 = e / 16 then (y.2, s) else laneRead s e p 1
  | some p, none => laneRead s e p 1
  | none, _ => (127, s)

/-- An element of a narrow load with its flags, and the state once it is read. -/
def narrowStep (s : State) (f : Fmt) (tag : Nat) (scaled : Bool) (scale : Option (Nat × Nat)) (e : Nat) (ps : List Place) :
    (Nat × Nat) × Nat × State :=
  let d := narrowRead s e (splitScale scaled ps).1 (narrowSpot f e).2.2
  let b := byteRead d.2 e (splitScale scaled ps).2 scale
  (widenNarrow b.2.hart.csr f tag (d.1 / 2 ^ (narrowSpot f e).2.1 % 2 ^ fmtBits f) b.1, b)

theorem narrowElems_eq (s : State) (f : Fmt) (fm : Form) (pieces : Nat → List Piece) (r tag : Nat) (scaled : Bool)
    (scale : Option (Nat × Nat)) (e : Nat) (ps : List Place) (rest : List (Nat × List Place)) :
    narrowElems s f fm pieces r tag scaled scale ((e, ps) :: rest) =
      let w := narrowStep (markPieces s fm (pieces e)).2 f tag scaled scale e ps
      if w.1.2 &&& enables w.2.2.hart.csr ≠ 0 then ⟨w.2.2, some (e, w.1.2, w.1.2)⟩
      else narrowElems { w.2.2 with hart := setElem (orFlags w.2.2.hart w.1.2) r (narrowTag tag) e w.1.1 } f fm pieces r tag scaled
        (some (e / 16, w.2.1)) rest := rfl

/-- A state whose hart has taken flags and written vector registers. -/
def withData (s : State) (x : Word) (v : Vec) : State := { s with hart := { s.hart with csr := { s.hart.csr with fcsr := x }, vec := v } }

section Elements

variable (s : State) (f : Fmt) (tag : Nat) (scaled : Bool) (place : Nat → List Place)

/-- The scale byte under which a narrow load widens an element (R80). -/
def elemScale (e : Nat) : Nat := if scaled then laneValue s ((place e).getLastD (.sdm 0)) 1 else 127

/-- A narrow load's element with its flags (R80, R216). -/
def narrowValue (e : Nat) : Nat × Nat :=
  widenNarrow s.hart.csr f tag (narrowData s (if scaled then (place e).dropLast else place e) (narrowSpot f e).2.2 /
    2 ^ (narrowSpot f e).2.1 % 2 ^ fmtBits f) (elemScale s scaled place e)

variable {s}

theorem narrowRead_quiet (hq : quiet s) (e : Nat) (ps : List Place) (n : Nat) : narrowRead s e ps n = (narrowData s ps n, s) := by
  match ps with
  | [] => rfl
  | [p] => exact laneRead_quiet hq e p n
  | [p, q] =>
    unfold narrowRead
    dsimp only
    rw [laneRead_quiet hq, laneRead_quiet hq]
    rfl
  | p :: _ :: _ :: _ => exact laneRead_quiet hq e p n

/-- What is known of the scale byte read last: it is that of every element of its block. -/
def scaleKnown (s : State) (scaled : Bool) (place : Nat → List Place) (es : List Nat) (scale : Option (Nat × Nat)) : Prop :=
  ∀ y, scale = some y → ∀ e ∈ es, y.1 = e / 16 → y.2 = elemScale s scaled place e

variable {f tag scaled place} {fm : Form} {pieces : Nat → List Piece} {local_ : Bool} {r : Nat}

/-- One element of a narrow load of a hart with no store on its way. -/
theorem narrowElems_cons (hq : quiet s) (x : Word) (v : Vec) (hx : bits x 5 5 = bits s.hart.csr.fcsr 5 5) (e : Nat)
    (rest : List (Nat × List Place)) (scale : Option (Nat × Nat)) (hscale : scaleKnown s scaled place [e] scale)
    (hland : piecesLand s local_ fm.kind (pieces e) (place e)) (hplace : scaled = true → ∃ p, (place e).getLast? = some p)
    (hquiet : (narrowValue s f tag scaled place e).2 &&& bits s.hart.csr.fcsr 5 5 = 0) :
    narrowElems (withData s x v) f fm pieces r tag scaled scale ((e, place e) :: rest) =
      narrowElems (withData s (x ||| word ((narrowValue s f tag scaled place e).2 % 32))
        (putElem s.hart.csr v r (narrowTag tag) e (narrowValue s f tag scaled place e).1)) f fm pieces r tag scaled
        (some (e / 16, elemScale s scaled place e)) rest := by
  have hq' : quiet (withData s x v) := hq
  have hmark : (markPieces (withData s x v) fm (pieces e)).2 = withData s x v :=
    congrArg Prod.snd (markPieces_pieces (s := withData s x v) (local_ := local_) hland)
  have hsplit : (splitScale scaled (place e)).1 = if scaled then (place e).dropLast else place e := by
    cases scaled <;> rfl
  have hbyte : byteRead (withData s x v) e (splitScale scaled (place e)).2 scale = (elemScale s scaled place e, withData s x v) := by
    cases scaled with
    | false => cases scale <;> rfl
    | true =>
      obtain ⟨p, hp⟩ := hplace rfl
      have hread : laneRead (withData s x v) e p 1 = (elemScale s true place e, withData s x v) := by
        rw [laneRead_quiet hq', elemScale, if_pos rfl, List.getLastD_eq_getLast?, hp]
        rfl
      rw [show (splitScale true (place e)).2 = some p from hp]
      cases scale with
      | none => exact hread
      | some y =>
        unfold byteRead
        dsimp only
        split
        · next hy => rw [hscale y rfl e List.mem_cons_self hy]
        · exact hread
  have hstep : narrowStep (withData s x v) f tag scaled scale e (place e) =
      (narrowValue s f tag scaled place e, elemScale s scaled place e, withData s x v) := by
    unfold narrowStep
    rw [narrowRead_quiet hq', hsplit]
    dsimp only
    rw [hbyte]
    rfl
  rw [narrowElems_eq, hmark, hstep]
  refine if_neg (not_not_intro ?_)
  rw [enables]
  exact (congrArg _ hx).trans hquiet

/-- The elements of a narrow load of a hart with no store on its way: each is widened under its block's scale, and none traps. -/
theorem narrowElems_runs (hq : quiet s) (es : List Nat) (x : Word) (v : Vec) (scale : Option (Nat × Nat))
    (hx : bits x 5 5 = bits s.hart.csr.fcsr 5 5) (hscale : scaleKnown s scaled place es scale)
    (hblock : ∀ e ∈ es, ∀ a ∈ es, e / 16 = a / 16 → elemScale s scaled place e = elemScale s scaled place a)
    (h : ∀ e ∈ es, piecesLand s local_ fm.kind (pieces e) (place e) ∧ (scaled = true → ∃ p, (place e).getLast? = some p) ∧
      (narrowValue s f tag scaled place e).2 &&& bits s.hart.csr.fcsr 5 5 = 0) :
    ∃ y, narrowElems (withData s x v) f fm pieces r tag scaled scale (es.map (fun e => (e, place e))) =
      ⟨withData s y (writeElems s.hart.csr v r (narrowTag tag) es (fun e => (narrowValue s f tag scaled place e).1)), none⟩ := by
  induction es generalizing x v scale with
  | nil => exact ⟨x, rfl⟩
  | cons e es ih =>
    obtain ⟨hland, hplace, hquiet⟩ := h e List.mem_cons_self
    have hhere : scaleKnown s scaled place [e] scale := fun y hy a ha =>
      hscale y hy a (List.mem_singleton.1 ha ▸ List.mem_cons_self)
    rw [List.map_cons, narrowElems_cons hq x v hx e _ scale hhere hland hplace hquiet]
    refine ih _ _ _ ((bits_joinFlags _ _).trans hx) ?_ (fun a ha b hb => hblock a (List.mem_cons_of_mem _ ha) b (List.mem_cons_of_mem _ hb))
      (fun a ha => h a (List.mem_cons_of_mem _ ha))
    rintro - ⟨rfl⟩ a ha hea
    exact hblock e List.mem_cons_self a (List.mem_cons_of_mem _ ha) hea

end Elements

/-- A narrow load whose pieces are served and that raises no enabled flag is its elements, its close and the next word (R215, R216). -/
theorem narrowLoad_runs (s : State) (f : Fmt) (g : DTag) (t : VReg) (b sc : SReg) (st : Option SReg) (m : MReg) (local_ : Bool)
    (place : Nat → List Place) (hr : freshStart s.hart) (hq : quiet s) (hpair : narrowPair f g = true)
    (hregs : regsFail s.hart.csr [t.val] = none) (hfull : overfull s.hart (dtagNum g) = false)
    (hbase : (getReg s b).toNat % fmtAlign f = 0) (hstride : ∀ r, st = some r → (getReg s r).toNat % fmtAlign f = 0)
    (hland : ∀ e, e < lengthOf s.hart → active s.hart m e = true → piecesLand s local_ .read
      (narrowPieces f (getReg s b) (st.map (getReg s)) (if !unscaled f g then some (getReg s sc) else none) e) (place e))
    (hquiet : ∀ e, e < lengthOf s.hart → active s.hart m e = true →
      (narrowValue s f (dtagNum g) (!unscaled f g) place e).2 &&& bits s.hart.csr.fcsr 5 5 = 0) :
    ∃ y, narrowLoad s f g t b sc st m = .next (advance { s with hart := completed (closedHart s.hart t.val (dtagNum g)
      (lengthOf s.hart) m (fun e => (narrowValue s f (dtagNum g) (!unscaled f g) place e).1) y) t.val (lengthOf s.hart) }) := by
  have hactive : ∀ e ∈ (List.range (lengthOf s.hart)).filter (active s.hart m), e < lengthOf s.hart ∧ active s.hart m e = true :=
    fun e he => by simpa using he
  have hlast : ∀ e, e < lengthOf s.hart → active s.hart m e = true → (!unscaled f g) = true →
      ∃ p, (place e).getLast? = some p ∧ lands s local_ .read (getReg s sc + word (e / 16)) 1 p := by
    intro e he ha hs
    have hp := hland e he ha
    rw [if_pos hs] at hp
    exact scale_lands hp
  have hblock : ∀ e ∈ (List.range (lengthOf s.hart)).filter (active s.hart m),
      ∀ a ∈ (List.range (lengthOf s.hart)).filter (active s.hart m), e / 16 = a / 16 →
      elemScale s (!unscaled f g) place e = elemScale s (!unscaled f g) place a := by
    intro e he a ha hea
    unfold elemScale
    by_cases hs : (!unscaled f g) = true
    · obtain ⟨p, hp, hlp⟩ := hlast e (hactive e he).1 (hactive e he).2 hs
      obtain ⟨q, hq', hlq⟩ := hlast a (hactive a ha).1 (hactive a ha).2 hs
      rw [← hea] at hlq
      rw [List.getLastD_eq_getLast?, List.getLastD_eq_getLast?, hp, hq', lands_unique hlp hlq]
    · rw [if_neg hs, if_neg hs]
  obtain ⟨y, hy⟩ := narrowElems_runs (fm := ⟨m, 1, false, true, false, 1, b.val⟩) (r := t.val) hq
    ((List.range (lengthOf s.hart)).filter (active s.hart m)) s.hart.csr.fcsr (setTags s.hart t.val (groupOf s.hart.csr) (dtagNum g)).vec
    none rfl (fun y hy => absurd hy (by simp)) hblock
    (fun e he => ⟨hland e (hactive e he).1 (hactive e he).2,
      fun hs => (hlast e (hactive e he).1 (hactive e he).2 hs).imp (fun _ hp => hp.1), hquiet e (hactive e he).1 (hactive e he).2⟩)
  refine ⟨y, ?_⟩
  have haccess := fun k => vecAccess_lands (s := s) (f := ⟨m, 1, false, true, false, 1, b.val⟩) k hr rfl hq.2.1
    (fun e _ _ => narrowPieces_cons f (getReg s b) (st.map (getReg s)) (if !unscaled f g then some (getReg s sc) else none) e)
    (fun e he ha => ⟨Nat.mod_one _, hland e he ha⟩)
  have hstrides : ((st.map (getReg s)).map (fun x => decide (x.toNat % fmtAlign f ≠ 0))).getD false = false := by
    cases st with
    | none => rfl
    | some r => simpa using hstride r rfl
  unfold narrowLoad
  dsimp only
  rw [hpair, checkRegs_pass _ _ _ hregs, hfull, hstrides]
  simp only [hbase, ne_eq, not_true_eq_false, and_false, Bool.not_true, Bool.false_eq_true, if_false]
  refine (haccess _).trans ?_
  have helems : narrowElems { s with hart := setTags s.hart t.val (groupOf s.hart.csr) (dtagNum g) } f
      ⟨m, 1, false, true, false, 1, b.val⟩ _ t.val (dtagNum g) (!unscaled f g) none
      (activeEls s.hart m (lengthOf s.hart) place) = _ := hy
  dsimp only
  rw [helems]
  rw [loadLeft]
  dsimp only
  have hclose := closeLoad_eq s.hart t.val (dtagNum g) (lengthOf s.hart) m
    (fun e => (narrowValue s f (dtagNum g) (!unscaled f g) place e).1) y
  rw [show closeLoad (withData s y _).hart m t.val (dtagNum g) (lengthOf s.hart) (lengthOf s.hart) = _ from hclose]
  have hm0 : (completed (closedHart s.hart t.val (dtagNum g) (lengthOf s.hart) m
      (fun e => (narrowValue s f (dtagNum g) (!unscaled f g) place e).1) y) t.val (lengthOf s.hart)).restart.useM0 = false := by
    rw [closedHart_frame]
    exact congrArg Restart.useM0 hr
  unfold finish
  dsimp only
  rw [hm0]
  rfl

end Sys2Proof.Machine

namespace Sys2Proof.Claims

open Sys2Proof.Machine

/-- A narrow load is its row (R215). -/
theorem exec_vldnRow {i : Instr} {t : VReg} {b sc : SReg} {st : Option SReg} {m : MReg} {f : Fmt} {g : DTag} (s : State)
    (h : vldnRow i = some (t, b, sc, st, m, f, g)) : exec i s = narrowLoad s f g t b sc st m := by
  unfold vldnRow at h
  split at h
  · cases h; rfl
  · cases h; rfl
  · cases h

/-- Settles O32: the active elements in order, each from the place of its pieces under the scale byte of its block. -/
theorem narrowLoadResults : Obligations.NarrowLoadResults := by
  unfold Obligations.NarrowLoadResults
  intro s i t b sc st m f g hrow hr hq hpair n tag scaled base hregs hfull hbase hstride pieces local_ place hland code scale v hquiet
  obtain ⟨y, hy⟩ := narrowLoad_runs s f g t b sc st m local_ place hr hq hpair hregs hfull hbase hstride hland hquiet
  have hcap : n ≤ capacity s.hart.csr tag := Nat.le_of_not_lt (of_decide_eq_false hfull)
  exact ⟨_, (exec_vldnRow s hrow).trans hy, closedHart_written s t.val tag n m (fun e => (v e).1) y hcap⟩

end Sys2Proof.Claims

/-! Stores of several packets each (R92, R210, R365): what sending packets leaves, whatever is performed meanwhile. -/

namespace Sys2Proof.Machine

open Sys2Proof.Claims

/-! ### Marking the pieces of an element (R330) -/

/-- What every walk keeps, marking the entries of an element's pieces keeps. -/
theorem walkKeeps_markPieces {R : State → State → Prop} (hR : WalkKeeps R) (s : State) (f : Form) (qs : List Piece) :
    R s (markPieces s f qs).2 := by
  have hpiece : ∀ acc q, R acc.2 (markPiece s f acc q).2 := by
    intro acc q
    unfold markPiece
    split
    · exact hR.refl _
    · exact hR.translate ..
  have hfold : ∀ acc, R acc.2 (qs.foldl (markPiece s f) acc).2 := by
    induction qs with
    | nil => exact fun acc => hR.refl _
    | cons q qs ih => exact fun acc => hR.trans (hpiece acc q) (ih _)
  exact hfold ([], s)

/-! ### The acting hart while packets are performed (R365) -/

/-- The acting hart keeps all but its memories and translations. -/
theorem SameHarts.acting {s u : State} (h : SameHarts withoutMemories s u) : withoutMemories u.hart = withoutMemories s.hart := by
  have hharts : u.harts.map withoutMemories = s.harts.map withoutMemories := h
  exact (List.cons.inj hharts).1

theorem acting_sendPacket (s : State) (p : Packet) : withoutMemories (sendPacket s p).hart = withoutMemories s.hart := by
  unfold sendPacket
  dsimp only
  split
  · rfl
  · split
    · exact ((flushKeeps_harts withoutMemories (fun _ _ _ _ _ => rfl)).performPackets _ _).acting
    · rfl

theorem acting_markPieces (s : State) (f : Form) (qs : List Piece) :
    withoutMemories (markPieces s f qs).2.hart = withoutMemories s.hart :=
  (walkKeeps_markPieces (flushKeeps_harts withoutMemories (fun _ _ _ _ _ => rfl)).toWalkKeeps s f qs).acting

/-! ### Packets sent one after another -/

theorem sentAs_concat (s : State) (xs : List Sending) (y : Sending) : sentAs s (xs ++ [y]) = sentAs s xs ++ [packetOf s xs.length y] := by
  rw [sentAs, List.mapIdx_append]
  simp [sentAs, packetOf]

/-- From `s`, the packets `xs` have been sent in order, and FCSR is `x`: all are under way where the streams have room, and nothing else
has changed; else the oldest are performed meanwhile (R92, R365). -/
structure Sends (s u : State) (xs : List Sending) (x : Word) : Prop where
  fits : windowFits (s.packets ++ sentAs s xs) →
    u = withData { s with packets := s.packets ++ sentAs s xs, serial := s.serial + xs.length } x s.hart.vec
  hart : withoutMemories u.hart = withoutMemories (withData s x s.hart.vec).hart
  serial : s.serial + xs.length ≤ u.serial
  packets : (u.packets.map doesOf).Sublist ((s.packets ++ sentAs s xs).map doesOf)

theorem Sends.refl (s : State) : Sends s s [] s.hart.csr.fcsr := by
  refine ⟨fun _ => ?_, rfl, Nat.le_refl _, ?_⟩
  · rw [show sentAs s [] = [] from rfl, List.append_nil]
    rfl
  · rw [show sentAs s [] = [] from rfl, List.append_nil]

section Sends

variable {s u : State} {xs : List Sending} {x : Word}

theorem Sends.core (h : Sends s u xs x) : u.hart.core = s.hart.core := by
  have hcore := congrArg Hart.core h.hart
  exact hcore

theorem Sends.pc (h : Sends s u xs x) : u.hart.pc = s.hart.pc := by
  have hpc := congrArg Hart.pc h.hart
  exact hpc

theorem Sends.regs (h : Sends s u xs x) : u.hart.regs = s.hart.regs := by
  have hregs := congrArg Hart.regs h.hart
  exact hregs

theorem Sends.vec (h : Sends s u xs x) : u.hart.vec = s.hart.vec := by
  have hvec := congrArg Hart.vec h.hart
  exact hvec

theorem Sends.csr (h : Sends s u xs x) : u.hart.csr = { s.hart.csr with fcsr := x } := by
  have hcsr := congrArg Hart.csr h.hart
  exact hcsr

theorem Sends.engines (h : Sends s u xs x) : u.hart.engines = s.hart.engines := by
  have hengines := congrArg Hart.engines h.hart
  exact hengines

/-- Joining flags sends nothing. -/
theorem Sends.joinFlags (h : Sends s u xs x) (fl : Nat) :
    Sends s { u with hart := orFlags u.hart fl } xs (x ||| word (fl % 32)) := by
  refine ⟨fun hw => ?_, ?_, h.serial, h.packets⟩
  · rw [h.fits hw]
    rfl
  · have hflags : orFlags u.hart fl = { u.hart with csr := { s.hart.csr with fcsr := x ||| word (fl % 32) } } := by
      rw [orFlags, h.csr]
    exact (congrArg withoutMemories hflags).trans
      (congrArg (fun g : Hart => { g with csr := { s.hart.csr with fcsr := x ||| word (fl % 32) } }) h.hart)

/-- One packet more, whose pieces are served and marked first. -/
theorem Sends.send (h : Sends s u xs x) (f : Form) {local_ : Bool} {qs : List Piece} {ps : List Place} (y : Sending)
    (hland : piecesLand s local_ f.kind qs ps) (hentries : y.entries = qs.flatMap (fun q => entriesAt s local_ q.addr))
    (hsize : 0 < y.size) :
    Sends s (sendElem (markPieces u f qs).2 y.e y.place y.second y.size y.data y.mask (markPieces u f qs).1) (xs ++ [y]) x := by
  have hmark := walkKeeps_markPieces walkKeeps_wait u f qs
  have hacting := acting_markPieces u f qs
  obtain ⟨-, hserial, hpackets⟩ := sendPacket_keeps (markPieces u f qs).2 ⟨(markPieces u f qs).2.serial, (markPieces u f qs).2.hart.core,
    laneCluster y.e, sender (markPieces u f qs).2.hart, y.e / 64, .request, classOfHart (markPieces u f qs).2 (markPieces u f qs).2.hart,
    y.place, y.second, y.size, y.data, y.mask, (markPieces u f qs).1, .mesh, (markPieces u f qs).2.clock⟩
  refine ⟨fun hw => ?_, ?_, ?_, ?_⟩
  · rw [sentAs_concat, ← List.append_assoc] at hw
    have hroom := countP_of_windowFits _ _ (show 0 < (packetOf s xs.length y).size from hsize) hw
    have hu := h.fits (windowFits_left _ _ hw)
    have hland' : piecesLand u local_ f.kind qs ps := hu ▸ hland
    have hentries' : qs.flatMap (fun q => entriesAt u local_ q.addr) = y.entries := by
      rw [hu]
      exact hentries.symm
    rw [markPieces_pieces hland', hentries', sentAs_concat, ← List.append_assoc, List.length_append, hu]
    generalize sentAs s xs = before at hroom ⊢
    exact sendPacket_room (withData { s with packets := s.packets ++ before, serial := s.serial + xs.length } x s.hart.vec)
      (packetOf s xs.length y) hroom
  · exact (acting_sendPacket ..).trans (hacting.trans h.hart)
  · have hmarked := hmark.serial
    have hbefore := h.serial
    rw [List.length_append, List.length_singleton, ← Nat.add_assoc]
    exact Nat.le_trans (by omega) hserial
  · refine hpackets.trans ?_
    rw [sentAs_concat, ← List.append_assoc, List.map_append]
    refine (hmark.packets.trans h.packets).append ?_
    have hcore : (markPieces u f qs).2.hart.core = s.hart.core := (congrArg Hart.core hacting).trans h.core
    rw [doesOf, hcore]
    exact List.Sublist.refl _

end Sends

end Sys2Proof.Machine

/-! The narrow stores (R78, R82 to R85, R96, R216). -/

namespace Sys2Proof.Machine

open Sys2Proof.Claims

/-! ### Elements block by block -/

/-- The elements of a block of 16. -/
def blockElems (j : Nat) : List Nat := (List.range 16).map (fun q => 16 * j + q)

theorem mem_blockElems {j e : Nat} : e ∈ blockElems j ↔ e / 16 = j := by
  simp only [blockElems, List.mem_map, List.mem_range]
  constructor
  · rintro ⟨q, hq, rfl⟩
    omega
  · intro h
    exact ⟨e % 16, Nat.mod_lt _ (by decide), by omega⟩

theorem range_blocks (k : Nat) : List.range (16 * k) = (List.range k).flatMap blockElems := by
  induction k with
  | zero => rfl
  | succ k ih =>
    rw [Nat.mul_succ, List.range_add, ih, List.range_succ (n := k), List.flatMap_append]
    exact congrArg (_ ++ ·) (List.flatMap_singleton blockElems k).symm

/-- The elements below `n` are those of its blocks. -/
theorem filter_range_blocks (n : Nat) (p : Nat → Bool) :
    (List.range n).filter p = (List.range ((n + 15) / 16)).flatMap (fun j => (blockElems j).filter (fun e => decide (e < n) && p e)) := by
  have hwide : (List.range (16 * ((n + 15) / 16))).filter (fun e => decide (e < n) && p e) = (List.range n).filter p := by
    obtain ⟨c, hc⟩ : ∃ c, 16 * ((n + 15) / 16) = n + c := ⟨16 * ((n + 15) / 16) - n, by omega⟩
    rw [hc, List.range_add, List.filter_append]
    have hbeyond : ((List.range c).map (n + ·)).filter (fun e => decide (e < n) && p e) = [] := by
      simp
    rw [hbeyond, List.append_nil]
    refine List.filter_congr (fun e he => ?_)
    rw [decide_eq_true (List.mem_range.1 he), Bool.true_and]
  rw [← hwide, range_blocks, List.filter_flatMap]

/-- The elements of one block among the active ones below `n`. -/
theorem filter_block (n j : Nat) (p : Nat → Bool) :
    ((List.range n).filter p).filter (fun e => e / 16 == j) = (blockElems j).filter (fun e => decide (e < n) && p e) := by
  have hrange : (List.range n).Pairwise (· < ·) := List.pairwise_lt_range
  have hblock : (blockElems j).Pairwise (· < ·) := by
    refine List.Pairwise.map _ (fun a b hab => ?_) (List.pairwise_lt_range (n := 16))
    omega
  refine List.Pairwise.eq_of_mem_iff ((hrange.filter _).filter _) (hblock.filter _) (fun e => ?_)
  simp only [List.mem_filter, List.mem_range, mem_blockElems, beq_iff_eq, Bool.and_eq_true, decide_eq_true_eq]
  tauto

/-! ### What a narrow store sends -/

/-- A narrow store with the places at which its pieces are served. -/
structure NarrowStore where
  t : VReg
  b : SReg
  sc : SReg
  m : MReg
  f : Fmt
  r : NRound
  local_ : Bool
  place : Nat → List Place

namespace NarrowStore

variable (o : NarrowStore)

/-- Its accesses. -/
def form : Form := ⟨o.m, 1, true, false, false, 1, o.b.val⟩

/-- The tag of its source. -/
def tag (h : Hart) : Nat := tagOfReg h o.t.val

/-- Whether its blocks have scale bytes (R78). -/
def scaled (h : Hart) : Bool := floatTag (o.tag h) && o.f != .fp16

/-- The pieces of its elements (R215). -/
def pieces (s : State) : Nat → List Piece :=
  narrowPieces o.f (getReg s o.b) none (if o.scaled s.hart then some (getReg s o.sc) else none)

/-- The active elements of a block. -/
def live (h : Hart) (j : Nat) : List Nat := (blockElems j).filter (fun e => decide (e < lengthOf h) && active h o.m e)

/-- The scale byte of a block (R82, R83). -/
def byte (h : Hart) (j : Nat) : Nat :=
  if o.scaled h then
    scaleByte o.f ((o.live h j).map (fun e => operand (tagFmt (o.tag h)) (ftzOf h.csr) (getElem h o.t.val (narrowTag (o.tag h)) e)))
  else 127

/-- The code of an element with its flags (R81, R84, R85). -/
def code (h : Hart) (e : Nat) : Nat × Nat :=
  narrowCode h.csr o.f o.r (o.tag h) (o.byte h (e / 16)) e (getElem h o.t.val (narrowTag (o.tag h)) e)

/-- The joined flags of some elements. -/
def flags (h : Hart) (es : List Nat) : Nat := es.foldl (fun fl e => fl ||| (o.code h e).2) 0

/-- The packet of an element at its place. -/
def packet (s : State) (e : Nat) (p : Place) (q : Option Place) (size : Nat) : Sending :=
  ⟨e, p, q, size, (o.code s.hart e).1 * 2 ^ (narrowSpot o.f e).2.1, (2 ^ fmtBits o.f - 1) * 2 ^ (narrowSpot o.f e).2.1,
    (if o.scaled s.hart then (o.pieces s e).dropLast else o.pieces s e).flatMap (fun q => entriesAt s o.local_ q.addr)⟩

/-- What an element sends: one packet, over two pages where it lies in both. -/
def element (s : State) (e : Nat) : List Sending :=
  match if o.scaled s.hart then (o.place e).dropLast else o.place e with
  | [p, q] => [o.packet s e p (some q) 2]
  | p :: _ => [o.packet s e p none (narrowSpot o.f e).2.2]
  | [] => []

/-- What a block's scale byte sends. -/
def scale (s : State) (j : Nat) : List Sending :=
  match (o.live s.hart j).head?.bind (fun e => (o.place e).getLast?) with
  | some p => if o.scaled s.hart then
      [⟨16 * j, p, none, 1, o.byte s.hart j, 255, ((o.pieces s (16 * j)).getLast?).toList.flatMap (fun q => entriesAt s o.local_ q.addr)⟩]
    else []
  | none => []

/-- What a block sends. -/
def block (s : State) (j : Nat) : List Sending := (o.live s.hart j).flatMap (o.element s) ++ o.scale s j

/-- Every active element's pieces are served. -/
def served (s : State) : Prop :=
  ∀ e, e < lengthOf s.hart → active s.hart o.m e = true → piecesLand s o.local_ .write (o.pieces s e) (o.place e)

variable {o} {s u : State} {xs : List Sending} {x : Word}

theorem mem_live {h : Hart} {j e : Nat} : e ∈ o.live h j ↔ e / 16 = j ∧ e < lengthOf h ∧ active h o.m e = true := by
  simp [live, mem_blockElems]

/-- The data of a served element is served. -/
theorem data_lands (h : o.served s) {e : Nat} (he : e < lengthOf s.hart) (ha : active s.hart o.m e = true) :
    ∃ q qs p ps, (splitScale (o.scaled s.hart) (o.pieces s e)).1 = q :: qs ∧ (splitScale (o.scaled s.hart) (o.place e)).1 = p :: ps ∧
      piecesLand s o.local_ .write (q :: qs) (p :: ps) := by
  have hland := h e he ha
  have hcut : ∃ q qs, cutPieces (narrowAddr o.f (getReg s o.b) none e) (narrowSpot o.f e).2.2 = q :: qs := by
    obtain hc | ⟨-, hc⟩ := cutPieces_eq (narrowAddr o.f (getReg s o.b) none e) (narrowSpot o.f e).2.2
    · exact ⟨_, _, hc⟩
    · exact ⟨_, _, hc⟩
  obtain ⟨q, qs, hq⟩ := hcut
  unfold pieces narrowPieces at hland ⊢
  rw [hq] at hland ⊢
  cases hs : o.scaled s.hart with
  | false =>
    rw [hs] at hland
    obtain ⟨p, ps, hp, hps, hplace⟩ := List.forall₂_cons_left_iff.1 hland
    refine ⟨q, qs ++ [], p, ps, rfl, hplace, List.Forall₂.cons hp hps⟩
  | true =>
    rw [hs] at hland
    obtain ⟨rest, last, hrest, hdata, -⟩ := piecesLand_split hland
    obtain ⟨p, ps, hp, hps, rfl⟩ := List.forall₂_cons_left_iff.1 hdata
    refine ⟨q, qs, p, ps, List.dropLast_concat, ?_, hdata⟩
    rw [hrest]
    exact List.dropLast_concat

theorem splitScale_fst {α : Type} (scaled : Bool) (xs : List α) : (splitScale scaled xs).1 = if scaled then xs.dropLast else xs := by
  cases scaled <;> rfl

/-- An element of a narrow store sends its packet. -/
theorem sends_element (hs : Sends s u xs x) (h : o.served s) {e : Nat} (he : e < lengthOf s.hart) (ha : active s.hart o.m e = true) :
    Sends s (sendNarrow (markPieces u o.form (splitScale (o.scaled s.hart) (o.pieces s e)).1).2 o.f e (o.code s.hart e).1
      (splitScale (o.scaled s.hart) (o.place e)).1 (markPieces u o.form (splitScale (o.scaled s.hart) (o.pieces s e)).1).1)
      (xs ++ o.element s e) x := by
  obtain ⟨q, qs, p, ps, hpieces, hplace, hland⟩ := data_lands h he ha
  have hentries : ∀ p q n, (o.packet s e p q n).entries =
      (splitScale (o.scaled s.hart) (o.pieces s e)).1.flatMap (fun q => entriesAt s o.local_ q.addr) := by
    intro p q n
    rw [splitScale_fst]
    rfl
  have hsend := fun y => hs.send o.form (local_ := o.local_) (qs := (splitScale (o.scaled s.hart) (o.pieces s e)).1)
    (ps := (splitScale (o.scaled s.hart) (o.place e)).1) y (by rw [hpieces, hplace]; exact hland)
  unfold element
  rw [← splitScale_fst, hplace]
  match ps with
  | [] => exact hsend (o.packet s e p none (narrowSpot o.f e).2.2) (hentries ..) (narrowSpot_size_pos o.f e)
  | [p2] => exact hsend (o.packet s e p (some p2) 2) (hentries ..) Nat.two_pos
  | _ :: _ :: _ => exact hsend (o.packet s e p none (narrowSpot o.f e).2.2) (hentries ..) (narrowSpot_size_pos o.f e)

/-- The scale byte of a block sent, where it has a place (R216). -/
def sendScale (o : NarrowStore) (s u : State) (j : Nat) (p : Option Place) : State :=
  match p with
  | some p =>
    let k := markPieces u o.form (splitScale (o.scaled s.hart) (o.pieces s (16 * j))).2.toList
    sendElem k.2 (16 * j) p none 1 (o.byte s.hart j) 255 k.1
  | none => u

/-- The place of a block's scale byte: that of its first active element. -/
def scalePlace (o : NarrowStore) (s : State) (j : Nat) : Option Place :=
  (o.live s.hart j).head?.bind (fun e => (splitScale (o.scaled s.hart) (o.place e)).2)

/-- The scale byte of a block is sent behind its elements. -/
theorem sends_scale (hs : Sends s u xs x) (h : o.served s) (j : Nat) :
    Sends s (o.sendScale s u j (o.scalePlace s j)) (xs ++ o.scale s j) x := by
  have hnone : Sends s u (xs ++ []) x := by rwa [List.append_nil]
  unfold scale scalePlace
  cases hlive : o.live s.hart j with
  | nil => exact hnone
  | cons e es =>
    obtain ⟨hej, he, ha⟩ := mem_live.1 (show e ∈ o.live s.hart j by rw [hlive]; exact List.mem_cons_self)
    have hland := h e he ha
    cases hsc : o.scaled s.hart with
    | false =>
      rw [List.head?_cons, Option.bind_some, Option.bind_some]
      cases (o.place e).getLast? with
      | none => exact hnone
      | some p => exact hnone
    | true =>
      unfold pieces at hland
      rw [hsc, if_pos rfl] at hland
      obtain ⟨p, hp, hscale⟩ := scale_lands hland
      rw [hej] at hscale
      have hpiece : (splitScale (o.scaled s.hart) (o.pieces s (16 * j))).2.toList = [⟨getReg s o.sc + word j, 1⟩] := by
        rw [hsc, pieces, hsc, if_pos rfl, narrowPieces, splitScale]
        simp
      have hbyte := hs.send o.form (local_ := o.local_) (qs := (splitScale (o.scaled s.hart) (o.pieces s (16 * j))).2.toList) (ps := [p])
        ⟨16 * j, p, none, 1, o.byte s.hart j, 255, (splitScale (o.scaled s.hart) (o.pieces s (16 * j))).2.toList.flatMap
          (fun q => entriesAt s o.local_ q.addr)⟩ (hpiece ▸ List.Forall₂.cons hscale List.Forall₂.nil) rfl Nat.one_pos
      rw [List.head?_cons, Option.bind_some, Option.bind_some, hp, show (splitScale true (o.place e)).2 = some p from hp]
      dsimp only
      rw [if_pos rfl]
      rw [hsc] at hbyte
      unfold sendScale
      dsimp only
      rw [hsc]
      exact hbyte

/-- An element found by its number among some with their values. -/
theorem find?_keyed {α : Type} (l : List Nat) (g : Nat → α) (e : Nat) (he : e ∈ l) :
    (l.map (fun e => (e, g e))).find? (fun c => c.1 == e) = some (e, g e) := by
  induction l with
  | nil => cases he
  | cons a l ih =>
    rw [List.map_cons]
    by_cases ha : a = e
    · subst ha
      exact List.find?_cons_of_pos (beq_self_eq_true a)
    · refine (List.find?_cons_of_neg (by simpa using ha)).trans ?_
      exact ih ((List.mem_cons.1 he).resolve_left (Ne.symm ha))

/-- The elements of a block with their places. -/
def mine (o : NarrowStore) (s : State) (j : Nat) : List (Nat × List Place) := (o.live s.hart j).map (fun e => (e, o.place e))

theorem filter_activeEls (s : State) (j : Nat) :
    (activeEls s.hart o.m (lengthOf s.hart) o.place).filter (fun x => x.1 / 16 == j) = o.mine s j := by
  rw [activeEls, List.filter_map, mine, live, ← filter_block]
  rfl

/-- The codes of a block, each with its element. -/
def codes (o : NarrowStore) (h : Hart) (j : Nat) : List (Nat × Nat × Nat) := (o.live h j).map (fun e => (e, o.code h e))

/-- The codes of a block are those of its elements under its scale byte, whatever has been sent before. -/
theorem blockCodes_eq (hs : Sends s u xs x) (j : Nat) :
    blockCodes u.hart o.f o.r o.t.val (o.tag s.hart) (o.byte s.hart j) (o.mine s j) = o.codes s.hart j := by
  rw [blockCodes, mine, List.map_map, codes]
  refine List.map_congr_left (fun e he => ?_)
  obtain ⟨hej, -, -⟩ := mem_live.1 he
  dsimp only [Function.comp_apply]
  rw [code, hej, getElem, hs.csr, hs.vec]
  rfl

/-- One element of a block sent, with its code found among those of the block. -/
def sendElement (o : NarrowStore) (s : State) (j : Nat) (u : State) (x : Nat × List Place) : State :=
  let c := ((o.codes s.hart j).find? (fun c => c.1 == x.1)).getD (0, 0, 0)
  let k := markPieces u o.form (splitScale (o.scaled s.hart) (o.pieces s x.1)).1
  sendNarrow k.2 o.f x.1 c.2.1 (splitScale (o.scaled s.hart) x.2).1 k.1

/-- The elements of a block sent one by one. -/
def sendElements (o : NarrowStore) (s u : State) (j : Nat) : State := (o.mine s j).foldl (o.sendElement s j) u

theorem sends_elements (hs : Sends s u xs x) (h : o.served s) (j : Nat) :
    Sends s (o.sendElements s u j) (xs ++ (o.live s.hart j).flatMap (o.element s)) x := by
  have hfold : ∀ es : List Nat, (∀ e ∈ es, e ∈ o.live s.hart j) → ∀ u xs, Sends s u xs x →
      Sends s ((es.map (fun e => (e, o.place e))).foldl (o.sendElement s j) u) (xs ++ es.flatMap (o.element s)) x := by
    intro es
    induction es with
    | nil => exact fun _ u xs hs => by rwa [List.flatMap_nil, List.append_nil]
    | cons e es ih =>
      intro hes u xs hs
      have he := hes e List.mem_cons_self
      obtain ⟨-, hlt, ha⟩ := mem_live.1 he
      rw [List.map_cons, List.foldl_cons, List.flatMap_cons, ← List.append_assoc]
      refine ih (fun a ha => hes a (List.mem_cons_of_mem _ ha)) _ _ ?_
      rw [sendElement, codes, find?_keyed _ _ e he]
      exact sends_element hs h hlt ha
  exact hfold _ (fun _ he => he) u xs hs

/-- A block that raises no enabled flag is sent: its elements, its scale byte, its flags. -/
def sendBlock (o : NarrowStore) (s u : State) (j : Nat) : State :=
  if (o.live s.hart j).isEmpty then u
  else
    let w := o.sendScale s (o.sendElements s u j) j (o.scalePlace s j)
    { w with hart := orFlags w.hart (o.flags s.hart (o.live s.hart j)) }

theorem sends_block (hs : Sends s u xs x) (h : o.served s) (j : Nat) :
    Sends s (o.sendBlock s u j) (xs ++ o.block s j) (x ||| word (o.flags s.hart (o.live s.hart j) % 32)) := by
  unfold sendBlock block
  split
  · next hnil =>
    rw [List.isEmpty_iff.1 hnil, List.flatMap_nil, List.nil_append]
    have hnone : o.scale s j = [] := by rw [scale, List.isEmpty_iff.1 hnil]; rfl
    rw [hnone, List.append_nil]
    simpa [flags, word] using hs
  · rw [← List.append_assoc]
    exact (sends_scale (sends_elements hs h j) h j).joinFlags _

/-- A block of a narrow store with no flag enabled is sent, and the store goes on with the next. -/
theorem storeBlocks_block (hs : Sends s u xs x) (hx : bits x 5 5 = 0) (act : Nat → Bool)
    (hact : ∀ e, e < lengthOf s.hart → act e = active s.hart o.m e) (j k : Nat) :
    storeBlocks u o.f o.r o.form (o.pieces s) o.t.val (o.tag s.hart) (o.scaled s.hart) act (lengthOf s.hart)
      (activeEls s.hart o.m (lengthOf s.hart) o.place) j (k + 1) =
    storeBlocks (o.sendBlock s u j) o.f o.r o.form (o.pieces s) o.t.val (o.tag s.hart) (o.scaled s.hart) act (lengthOf s.hart)
      (activeEls s.hart o.m (lengthOf s.hart) o.place) (j + 1) k := by
  have hlive : ((List.range 16).map (fun q => 16 * j + q)).filter (fun e => decide (e < lengthOf s.hart) && act e) = o.live s.hart j := by
    refine List.filter_congr (fun e _ => ?_)
    by_cases he : e < lengthOf s.hart
    · rw [hact e he]
    · rw [decide_eq_false he, Bool.false_and, Bool.false_and]
  have hbyte : (if o.scaled s.hart then scaleByte o.f ((o.live s.hart j).map (fun e =>
      operand (tagFmt (o.tag s.hart)) (ftzOf u.hart.csr) (getElem u.hart o.t.val (narrowTag (o.tag s.hart)) e))) else 127) =
      o.byte s.hart j := by
    unfold byte getElem
    rw [hs.csr, hs.vec]
    rfl
  have henables : enables u.hart.csr = 0 := by rw [hs.csr]; exact hx
  have hquiet : (o.codes s.hart j).find? (fun c => decide (c.2.2 &&& enables u.hart.csr ≠ 0)) = none := by
    refine List.find?_eq_none.2 (fun c _ => ?_)
    rw [henables, Nat.and_zero]
    decide
  have hflags : (o.codes s.hart j).foldl (fun a c => a ||| c.2.2) 0 = o.flags s.hart (o.live s.hart j) := by
    rw [codes, List.foldl_map]
    rfl
  have hplace : ((o.mine s j).head?.bind (fun x => (splitScale (o.scaled s.hart) x.2).2)) = o.scalePlace s j := by
    rw [mine, scalePlace]
    cases o.live s.hart j <;> rfl
  rw [storeBlocks]
  dsimp only
  rw [filter_activeEls, hlive, hbyte, blockCodes_eq hs, hquiet, hflags, hplace]
  unfold sendBlock
  by_cases hnil : (o.live s.hart j).isEmpty
  · rw [if_pos hnil, if_pos (by rw [mine]; simpa using hnil)]
  · rw [if_neg hnil, if_neg (by rw [mine]; simpa using hnil)]
    rfl

/-- The joined flags of two runs of elements. -/
theorem flags_append (h : Hart) (es fs : List Nat) : o.flags h (es ++ fs) = o.flags h es ||| o.flags h fs := by
  have hfold : ∀ a, fs.foldl (fun fl e => fl ||| (o.code h e).2) a = a ||| o.flags h fs := by
    unfold flags
    induction fs with
    | nil => exact fun a => (Nat.or_zero a).symm
    | cons e fs ih => exact fun a => by rw [List.foldl_cons, List.foldl_cons, ih, ih (0 ||| _), Nat.zero_or, Nat.or_assoc]
  rw [flags, List.foldl_append]
  exact hfold _

/-- Flags joined in two steps are joined at once. -/
theorem joinFlags_join (x : Word) (a b : Nat) : x ||| word (a % 32) ||| word (b % 32) = x ||| word ((a ||| b) % 32) := by
  have hmod : (a ||| b) % 32 = a % 32 ||| b % 32 := Nat.or_mod_two_pow (n := 5)
  rw [BitVec.or_assoc, hmod, word, word, word, BitVec.ofNat_or]

/-- The blocks of a narrow store with no flag enabled are sent in order, and none traps. -/
theorem sends_blocks (h : o.served s) (act : Nat → Bool) (hact : ∀ e, e < lengthOf s.hart → act e = active s.hart o.m e) (k j : Nat)
    (hs : Sends s u xs x) (hx : bits x 5 5 = 0) :
    ∃ v, storeBlocks u o.f o.r o.form (o.pieces s) o.t.val (o.tag s.hart) (o.scaled s.hart) act (lengthOf s.hart)
        (activeEls s.hart o.m (lengthOf s.hart) o.place) j k = ⟨v, none⟩ ∧
      Sends s v (xs ++ (List.range' j k).flatMap (o.block s))
        (x ||| word (o.flags s.hart ((List.range' j k).flatMap (o.live s.hart)) % 32)) := by
  induction k generalizing j u xs x with
  | zero =>
    refine ⟨u, rfl, ?_⟩
    simpa [flags, word] using hs
  | succ k ih =>
    obtain ⟨v, hv, hsv⟩ := ih (j + 1) (sends_block hs h j) ((bits_joinFlags _ _).trans hx)
    refine ⟨v, (storeBlocks_block hs hx act hact j k).trans hv, ?_⟩
    rw [List.range'_succ, List.flatMap_cons, List.flatMap_cons, flags_append, ← joinFlags_join, ← List.append_assoc]
    exact hsv

/-- All that a narrow store sends, block after block. -/
def sendings (o : NarrowStore) (s : State) : List Sending := (List.range ((lengthOf s.hart + 15) / 16)).flatMap (o.block s)

/-- FCSR with the flags of a narrow store joined (R72). -/
def joined (o : NarrowStore) (h : Hart) : Word := h.csr.fcsr ||| word (o.flags h ((List.range (lengthOf h)).filter (active h o.m)) % 32)

/-- SEED after a narrow store: a stochastic one has taken its length of it (R84; log 29). -/
def seedAfter (o : NarrowStore) (h : Hart) : Word := if o.r = .sr then h.csr.seed + BitVec.ofNat 64 (lengthOf h) else h.csr.seed

/-- A state whose store is complete: SEED set, and the next word. -/
def complete (o : NarrowStore) (s v : State) : State := advance (setCsr v (fun c => { c with seed := o.seedAfter s.hart }))

/-- A narrow store whose pieces are served, with no flag enabled, sends its blocks and goes on (R216). -/
theorem execVstn_runs (o : NarrowStore) (s : State) (hr : freshStart s.hart) (hb : s.bad = [])
    (hsource : narrowSource o.f (o.tag s.hart) = true) (hregs : regsFail s.hart.csr [o.t.val] = none)
    (hfull : overfull s.hart (o.tag s.hart) = false) (hbase : (getReg s o.b).toNat % fmtAlign o.f = 0)
    (hen : bits s.hart.csr.fcsr 5 5 = 0) (h : o.served s) :
    ∃ v, execVstn o.t o.b o.sc o.m o.f o.r s = .next (o.complete s v) ∧ Sends s v (o.sendings s) (o.joined s.hart) := by
  have hact : ∀ e, e < lengthOf s.hart → (enabled s.hart o.m e && decide (s.hart.restart.start ≤ e) && decide (e < lengthOf s.hart)) =
      active s.hart o.m e := by
    intro e he
    have hstart : s.hart.restart.start = 0 := congrArg Restart.start hr
    have hm0 : s.hart.restart.useM0 = false := congrArg Restart.useM0 hr
    simp [enabled, hstart, hm0, he]
  obtain ⟨v, hv, hsv⟩ := sends_blocks h _ hact ((lengthOf s.hart + 15) / 16) 0 (Sends.refl s) hen
  refine ⟨v, ?_, ?_⟩
  · have haccess := fun k => vecAccess_lands (s := s) (f := o.form) k hr rfl hb (fun e _ _ => narrowPieces_cons _ _ _ _ e)
      (fun e he ha => ⟨Nat.mod_one _, h e he ha⟩)
    unfold execVstn
    dsimp only
    rw [checkRegs_pass _ _ _ hregs, show tagOfReg s.hart o.t.val = o.tag s.hart from rfl, hsource, hfull]
    simp only [hbase, ne_eq, not_true_eq_false, and_false, Bool.not_true, Bool.or_false, Bool.false_eq_true, if_false]
    refine (haccess _).trans ?_
    have hseed : (if (o.r == .sr && true && true) = true then v.hart.csr.seed + word (lengthOf s.hart) else v.hart.csr.seed) =
        o.seedAfter s.hart := by
      rw [hsv.csr, seedAfter]
      cases o.r <;> rfl
    have hm0 : v.hart.restart.useM0 = false := (congrArg (fun g : Hart => g.restart.useM0) hsv.hart).trans (congrArg Restart.useM0 hr)
    unfold form pieces scaled at hv
    dsimp only
    rw [show activeEls s.hart o.form.m (lengthOf s.hart) o.place = activeEls s.hart o.m (lengthOf s.hart) o.place from rfl,
      show ceilDiv (lengthOf s.hart) 16 = (lengthOf s.hart + 15) / 16 from rfl, hv]
    dsimp only [Option.isNone_none]
    rw [hseed]
    unfold finish
    dsimp only
    rw [show (setCsr v _).hart.restart.useM0 = false from hm0]
    rfl
  · rw [sendings, joined, filter_range_blocks, List.range_eq_range']
    exact hsv

/-- A narrow store that is complete has sent its packets, and has joined its flags and taken its part of SEED. -/
theorem complete_sent (hs : Sends s u xs x) :
    sent { s with hart := { s.hart with csr := { s.hart.csr with fcsr := x, seed := o.seedAfter s.hart } } } (o.complete s u)
      (sentAs s xs) id := by
  have hlen : (sentAs s xs).length = xs.length := length_sentAs s xs
  refine ⟨fun hw => ?_, hlen ▸ hs.serial, hs.packets, congrArg (· + 4) hs.pc, hs.regs, ?_, hs.vec, hs.engines⟩
  · rw [hs.fits hw, hlen]
    rfl
  · change ({ u.hart.csr with seed := o.seedAfter s.hart } : Csr) = _
    rw [hs.csr]

end NarrowStore

end Sys2Proof.Machine

namespace Sys2Proof.Claims

open Sys2Proof.Machine

/-- Settles O33: the blocks are sent one after another (`NarrowStore.sends_blocks`), each element by one packet (`Sends.send`). -/
theorem narrowStoreResults : Obligations.NarrowStoreResults := by
  unfold Obligations.NarrowStoreResults
  intro s t b sc m f r hr hb h n tag scaled base old hsource hregs hfull hbase hen pieces local_ place hland
    live byte code marks element scale ps flags
  obtain ⟨v, hv, hsv⟩ := NarrowStore.execVstn_runs ⟨t, b, sc, m, f, r, local_, place⟩ s hr hb hsource hregs hfull hbase hen hland
  exact ⟨_, hv, NarrowStore.complete_sent hsv⟩

end Sys2Proof.Claims

/-! Outer products, slides and narrow stores complete, whatever their values (R86, R216, R251 to R253). -/

namespace Sys2Proof.Claims

open Sys2Proof.Machine

/-- What an instruction that completes leaves of its hart but accumulators and flags, whatever memory it has written. -/
def completesAs (s t : State) : Prop :=
  t.hart.pc = s.hart.pc + 4 ∧ t.hart.regs = s.hart.regs ∧ t.hart.vec.vrf = s.hart.vec.vrf ∧ t.hart.vec.masks = s.hart.vec.masks ∧
    t.hart.stalled = s.hart.stalled ∧ nested t.hart = nested s.hart

theorem completesAs_product (s : State) (acc : Sparse 32) (fl : Nat) :
    completesAs s (advance { s with hart := productHart s.hart acc fl }) := ⟨rfl, rfl, rfl, rfl, rfl, rfl⟩

theorem completesAs_store {s u : State} {o : NarrowStore} {xs : List Sending} {x : Word} (hs : Sends s u xs x) :
    completesAs s (o.complete s u) := by
  have hstalled := congrArg Hart.stalled hs.hart
  have hnested := congrArg nested hs.hart
  refine ⟨congrArg (· + 4) hs.pc, hs.regs, congrArg Vec.vrf hs.vec, congrArg Vec.masks hs.vec, hstalled, hnested⟩

/-- Settles O37: the products by the tile that they write (`outer_runs`, `execMxsld_runs`), the store by what it sends
(`NarrowStore.execVstn_runs`). -/
theorem productsAndNarrowStoresComplete : Obligations.ProductsAndNarrowStoresComplete := by
  unfold Obligations.ProductsAndNarrowStoresComplete
  intro s a b hen h tag completes
  have hquiet : ∀ x, x &&& enables s.hart.csr = 0 := fun x => by rw [enables, hen, Nat.and_zero]
  refine ⟨fun k mr mc hready htag hb hregs hfull => ?_, fun k mr mc n hready hrej => ?_,
    fun r sc m f rm hr hbad hsource hregs hfull hbase local_ place hland => ?_⟩
  · have hproduct : ∀ sub, ∃ t, outer sub k a b mr mc s = .next t ∧ completesAs s t := by
      intro sub
      obtain ⟨w, hrun, -⟩ := outer_runs s k hready sub a b mr mc htag hb hregs hfull (fun _ _ _ _ _ => hquiet _)
      exact ⟨_, hrun, completesAs_product s w.vec.acc w.flags⟩
    exact ⟨hproduct false, hproduct true⟩
  · obtain ⟨w, hrun, -⟩ := execMxsld_runs s k hready a b mr mc n hrej hen
    exact ⟨_, hrun, completesAs_product s w.vec.acc w.flags⟩
  · obtain ⟨v, hrun, hs⟩ := NarrowStore.execVstn_runs ⟨a, r, sc, m, f, rm, local_, place⟩ s hr hbad hsource hregs hfull hbase hen hland
    exact ⟨_, hrun, completesAs_store hs⟩

end Sys2Proof.Claims

/-! The reductions (R87, R202). -/

namespace Sys2Proof.Machine

open Sys2Proof.Claims

/-! ### Checks -/

/-- Operands that R20, R178 and R202 accept pass the checks of a reduction. -/
theorem checkApart_pass (s : State) (d : Nat) (srcs own : List Nat) (tag bad : Option Nat) (k : Out)
    (hregs : regsFail s.hart.csr (d :: srcs) = none) (hown : ∀ r ∈ own, shares s.hart.csr d r = false)
    (hop : operandFails s.hart (some d) tag bad srcs false = none) : checkApart s d srcs own tag bad k = k := by
  have hany : own.any (fun r => shares s.hart.csr d r) = false := by
    rw [List.any_eq_false]
    intro r hr
    rw [hown r hr]
    decide
  rw [checkApart, checkRegs_pass _ _ _ hregs, hany, hop]
  rfl

/-- The last combination of a reduction: the initial value, and what the tree left in lane 0 (R87). -/
def lastCombined (o : RedOp) (h : Hart) (t init : Nat) (p : Partials) : Nat × Nat :=
  match partialAt p 0 with
  | none => (init, 0)
  | some v => combineLast o h.csr t (toPartial o t init) v

/-- The hart of a reduction with its tags, the carry cleared and the flags `fl` joined (R31, R87). -/
def reducedBase (h : Hart) (d t fl : Nat) : Hart := setCarry (orFlags (setTags h d (groupOf h.csr) t) fl) []

/-- Of two carries set one after the other, the second is left. -/
theorem setCarry_orFlags_setCarry (h : Hart) (fl : Nat) (p q : Partials) :
    setCarry (orFlags (setCarry h p) fl) q = setCarry (orFlags h fl) q := rfl

theorem setCarry_orFlags_vec (h : Hart) (v : Vec) (fl : Nat) : setCarry (orFlags { h with vec := v } fl) [] =
    { h with csr := { h.csr with fcsr := h.csr.fcsr ||| word (fl % 32) }, vec := { v with carry := [], carryCount := 0 } } := rfl

theorem reducedBase_eq (h : Hart) (d t fl : Nat) : reducedBase h d t fl =
    { h with
      csr := { h.csr with fcsr := h.csr.fcsr ||| word (fl % 32) }
      vec := { (setTags h d (groupOf h.csr) t).vec with carry := [], carryCount := 0 } } :=
  setCarry_orFlags_vec h (setTags h d (groupOf h.csr) t).vec fl

/-- That hart with element `e` of the destination at `x`. -/
def reducedHead (h : Hart) (d t e x fl : Nat) : Hart := setElem (reducedBase h d t fl) d (narrowTag t) e x

theorem reducedHead_frame (h : Hart) (d t e x fl : Nat) (vrf : Sparse 32) :
    { reducedHead h d t e x fl with vec := { (reducedHead h d t e x fl).vec with vrf := vrf } } =
      { h with
        csr := { h.csr with fcsr := h.csr.fcsr ||| word (fl % 32) }
        vec := { (setTags h d (groupOf h.csr) t).vec with carry := [], carryCount := 0, vrf := vrf } } := by
  rw [reducedHead, reducedBase_eq]
  rfl

theorem getElem_reducedHead (h : Hart) (d t e x fl a : Nat) : getElem (reducedHead h d t e x fl) d (narrowTag t) a =
    if a = e then x % 2 ^ tagBits t else getElem h d (narrowTag t) a := by
  refine (getElem_putElem (reducedBase h d t fl) _ d (narrowTag t) e x a).trans ?_
  rw [tagBits_eq]
  rfl

/-- The hart of a reduction but for its progress: its element 0 and its tail (R202). -/
def reducedHart (h : Hart) (d t x fl : Nat) : Hart := vecTail (reducedHead h d t 0 x fl) d t 1

section Reduction

variable (o : RedOp) (d a b : VReg) (m : MReg) (s : State)

/-- A reduction whose operands are accepted passes its checks. -/
theorem reduction_accepted (h : redAccepts s o d a b) (k : Out) :
    checkApart s d.val [a.val, b.val] [a.val] (knownTag (tagOfReg s.hart a.val))
      (if tagOfReg s.hart a.val ≠ 0 ∧ tagOfReg s.hart b.val ≠ 0 ∧ (tagOfReg s.hart a.val ≠ tagOfReg s.hart b.val ∨
        (o.unsigned && floatTag (tagOfReg s.hart a.val)) = true) then some 0 else none) k = k := by
  obtain ⟨hne, hb, hu, hregs, hdest, hfull, hsa, -⟩ := h
  have hbad : ¬(tagOfReg s.hart a.val ≠ 0 ∧ tagOfReg s.hart b.val ≠ 0 ∧ (tagOfReg s.hart a.val ≠ tagOfReg s.hart b.val ∨
      (o.unsigned && floatTag (tagOfReg s.hart a.val)) = true)) := by
    rintro ⟨-, -, hne | hfloat⟩
    · exact hne hb.symm
    · obtain ⟨ho, hf⟩ := Bool.and_eq_true_iff.1 hfloat
      rw [hu ho] at hf
      cases hf
  refine checkApart_pass s _ _ _ _ _ k hregs (fun r hr => by rw [List.mem_singleton.1 hr]; exact hsa) ?_
  rw [if_neg hbad, knownTag, if_neg hne]
  simp [operandFails, hdest, sourceFails, firstBelow, firstFrom, hb, hne, hfull]

/-- At length 0 a reduction completes with no element changed (R202). -/
theorem reduction_empty (h : redAccepts s o d a b) (hn : lengthOf s.hart = 0) : reduction o d a b m s =
    .next (advance { s with hart := completed (setTags s.hart d.val (groupOf s.hart.csr) (tagOfReg s.hart a.val)) d.val 0 }) := by
  unfold reduction
  dsimp only
  rw [reduction_accepted o d a b s h, if_pos hn]

/-- A reduction that raises no enabled flag is its folds, its tree and its last combination (R87). -/
theorem reduction_runs (h : redAccepts s o d a b) (hr : freshStart s.hart) (hn : lengthOf s.hart ≠ 0) (r : Fold) (tr : Partials × Nat)
    (z : Nat × Nat) (hfold : foldGroups o s.hart a.val (tagOfReg s.hart a.val) m 0 (groupsOf (lengthOf s.hart)) [] 0 = r)
    (htree : tree o s.hart.csr (floatTag (tagOfReg s.hart a.val)) r.parts = tr)
    (hlast : lastCombined o s.hart (tagOfReg s.hart a.val) (getElem s.hart b.val (narrowTag (tagOfReg s.hart a.val)) 0) tr.1 = z)
    (hstop : r.stop = none) (hfl : (tr.2 ||| z.2) &&& enables s.hart.csr = 0) :
    reduction o d a b m s = .next (advance { s with
      hart := completed (reducedHart s.hart d.val (tagOfReg s.hart a.val) z.1 (r.flags ||| (tr.2 ||| z.2))) d.val (lengthOf s.hart) }) := by
  subst htree hlast
  have hstart : s.hart.restart.start = 0 := congrArg Restart.start hr
  have hz : groupStop s.hart (lengthOf s.hart) = lengthOf s.hart := by rw [groupStop, show s.hart.restart = _ from hr]
  unfold reduction
  dsimp only
  rw [reduction_accepted o d a b s h, if_neg hn, hstart, hz, Nat.zero_div, if_pos rfl, Nat.sub_zero, hfold, hstop]
  dsimp only
  rw [if_neg (Nat.lt_irrefl _), setCarry_orFlags_setCarry, reducedHart, reducedHead, reducedBase]
  unfold lastCombined at hfl ⊢
  cases hp : partialAt (tree o s.hart.csr (floatTag (tagOfReg s.hart a.val)) r.parts).1 0 with
  | none =>
    rw [hp] at hfl
    exact if_neg (not_not_intro hfl)
  | some v =>
    rw [hp] at hfl
    exact if_neg (not_not_intro hfl)

end Reduction

section Reduced

variable (h : Hart) (d t x fl : Nat)

/-- A reduction leaves all of its hart but FCSR, the carry, the group's tags and the register file. -/
theorem reducedHart_frame : reducedHart h d t x fl = { h with
    csr := { h.csr with fcsr := h.csr.fcsr ||| word (fl % 32) }
    vec := { (setTags h d (groupOf h.csr) t).vec with carry := [], carryCount := 0, vrf := (reducedHart h d t x fl).vec.vrf } } :=
  (vecTail_frame (reducedHead h d t 0 x fl) d t 1).trans (reducedHead_frame h d t 0 x fl _)

theorem getElem_reducedHart (e : Nat) : getElem (reducedHart h d t x fl) d (narrowTag t) e =
    if 1 ≤ e ∧ e < capacity h.csr t ∧ tpolOf h.csr ≠ 0 then (if tpolOf h.csr = 1 then 0 else 2 ^ tagBits t - 1)
    else if e = 0 then x % 2 ^ tagBits t else getElem h d (narrowTag t) e := by
  rw [reducedHart, getElem_vecTail, getElem_reducedHead]
  rfl

/-- A reduction writes no slot outside the registers of its destination. -/
theorem sget_reducedHart (hcap : 0 < capacity h.csr t) (k : Nat)
    (hk : k < d * regLen h.csr ∨ (d + groupOf h.csr) * regLen h.csr ≤ k) :
    sget (reducedHart h d t x fl).vec.vrf k = sget h.vec.vrf k := by
  have hother : ∀ a, a < capacity h.csr t → ∀ v y,
      sget (putElem (reducedBase h d t fl).csr v d (narrowTag t) a y).vrf k = sget v.vrf k := by
    intro a ha v y
    have hslot : d * regLen h.csr ≤ slotOf (reducedBase h d t fl).csr d (narrowTag t) a ∧
        slotOf (reducedBase h d t fl).csr d (narrowTag t) a < (d + groupOf h.csr) * regLen h.csr :=
      slotOf_inside (reducedBase h d t fl).csr d t a ha
    exact sget_putElem_other _ _ _ _ _ _ _ (by omega)
  have htail : sget (reducedHart h d t x fl).vec.vrf k = sget (reducedHead h d t 0 x fl).vec.vrf k :=
    vecTail_keeps (fun v => sget v.vrf k) (reducedHead h d t 0 x fl) d t 1 (fun v a y _ ha => hother a ha v y)
  exact htail.trans (hother 0 hcap _ x)

end Reduced

end Sys2Proof.Machine

namespace Sys2Proof.Claims

open Sys2Proof.Machine

/-- A reduction is its row (R202). -/
theorem exec_redRow {i : Instr} {o : RedOp} {d a b : VReg} {m : MReg} (s : State) (h : redRow i = some (o, d, a, b, m)) :
    exec i s = reduction o d a b m s := by
  unfold redRow at h
  split at h
  case h_6 => cases h
  all_goals
    simp only [Option.some.injEq, Prod.mk.injEq] at h
    obtain ⟨rfl, rfl, rfl, rfl, rfl⟩ := h
    rfl

/-- Accepted operands hold element 0. -/
theorem redAccepts_capacity {s : State} {o : RedOp} {d a b : VReg} (h : redAccepts s o d a b) (hn : lengthOf s.hart ≠ 0) :
    0 < capacity s.hart.csr (tagOfReg s.hart a.val) := by
  obtain ⟨-, -, -, -, -, hfull, -⟩ := h
  exact Nat.lt_of_lt_of_le (Nat.pos_of_ne_zero hn) (Nat.le_of_not_lt (of_decide_eq_false hfull))

/-- A reduction's destination holds its value in element 0 and is tail above it, with the progress of the length (R26, R202). -/
theorem reducedHart_written (s : State) (d t n x fl : Nat) (hcap : 0 < capacity s.hart.csr t) (hn : n ≠ 0) :
    let u := advance { s with hart := completed (reducedHart s.hart d t x fl) d n }
    wentOn s u none ∧ elementsWritten s u d t n 1 (fun _ => true) (fun _ => x) ∧ u.hart.vec.carry = [] ∧
      u.hart.csr = { s.hart.csr with fcsr := s.hart.csr.fcsr ||| word (fl % 32) } := by
  have hframe := reducedHart_frame s.hart d t x fl
  have helem := getElem_reducedHart s.hart d t x fl
  have hslots := sget_reducedHart s.hart d t x fl hcap
  intro u
  dsimp only [u]
  clear u
  generalize reducedHart s.hart d t x fl = l at hframe helem hslots ⊢
  rw [hframe] at helem ⊢
  refine ⟨⟨rfl, rfl, rfl, rfl, rfl, fun _ _ => rfl⟩, ⟨⟨fun r => tagOfReg_setTags s.hart d _ t r r.isLt, hslots⟩,
    fun r h1 h2 => progress_completed _ d n r h1 h2, fun e he => ?_, fun e h1 h2 => ?_⟩, rfl, rfl⟩
  · refine (helem e).trans ?_
    rw [if_neg (by omega), if_pos (Nat.lt_one_iff.1 he), if_pos rfl]
  · refine (helem e).trans ?_
    rw [if_neg (show e ≠ 0 by omega)]
    by_cases h0 : tpolOf s.hart.csr = 0 <;> simp [hn, h0, h1, h2]

/-- Reductions at any length. -/
theorem reductionResults : ReductionResults := by
  intro s i o d a b m hrow hr haccept h tag n init r z fl hstop hfl
  by_cases hn : lengthOf s.hart = 0
  · refine ⟨_, (exec_redRow s hrow).trans (reduction_empty o d a b m s haccept hn), ⟨rfl, rfl, rfl, rfl, rfl, fun _ _ => rfl⟩,
      fun hn' => absurd hn hn', fun _ => ?_⟩
    obtain ⟨-, hprog, htags⟩ := vectorDest_written s d.val tag 0 s.hart.csr.fcsr s.hart.vec.vrf
    refine ⟨⟨⟨htags, fun _ _ => rfl⟩, hprog, fun e he => absurd he (Nat.not_lt_zero e), fun e _ _ => ?_⟩, rfl⟩
    rw [if_pos (.inl rfl)]
    rfl
  · have hcap : 0 < capacity s.hart.csr tag := redAccepts_capacity haccept hn
    have hlast : lastCombined o h tag init (tree o h.csr (floatTag tag) r.parts).1 = z := by
      cases hp : partialAt (tree o h.csr (floatTag tag) r.parts).1 0 with
      | none => simp only [lastCombined, z, hp]
      | some v => simp only [lastCombined, z, hp]
    obtain ⟨hwent, helems, hcarry, hcsr⟩ := reducedHart_written s d.val tag (lengthOf s.hart) z.1 (r.flags ||| fl) hcap hn
    exact ⟨_, (exec_redRow s hrow).trans (reduction_runs o d a b m s haccept hr hn r _ z rfl rfl hlast hstop hfl), hwent,
      fun _ => ⟨helems, hcarry, hcsr⟩, fun hn' => absurd hn' hn⟩

end Sys2Proof.Claims

/-! Reductions of INT32 sources: an associative and commutative operation, so that the order of the lanes does not matter (R87, R202). -/

namespace Sys2Proof.Machine

open Sys2Proof.Claims

/-! ### The operation on patterns -/

/-- Two INT32 patterns combined (R87). -/
def intCombine (o : RedOp) (x y : Nat) : Nat :=
  match o with
  | .sum => (x + y) % 2 ^ 32
  | .max u => if u then Nat.max x y else wrap 32 (max (signed 32 x) (signed 32 y))
  | .min u => if u then Nat.min x y else wrap 32 (min (signed 32 x) (signed 32 y))

theorem combine_int (o : RedOp) (c : Csr) (x y : Nat) : combine o c false x y = (intCombine o x y, 0) := by
  cases o <;> rfl

theorem signed_bounds (x : Nat) : -2 ^ 31 ≤ signed 32 x ∧ signed 32 x < 2 ^ 31 := by
  unfold signed
  dsimp only
  split <;> omega

theorem signed_wrap {z : Int} (h : -2 ^ 31 ≤ z ∧ z < 2 ^ 31) : signed 32 (wrap 32 z) = z := by
  unfold signed wrap
  dsimp only
  split <;> omega

theorem intCombine_comm (o : RedOp) : Std.Commutative (intCombine o) := by
  refine ⟨fun x y => ?_⟩
  cases o with
  | sum => exact congrArg (· % 2 ^ 32) (Nat.add_comm x y)
  | max u =>
    cases u
    · exact congrArg (wrap 32) (max_comm _ _)
    · exact Nat.max_comm x y
  | min u =>
    cases u
    · exact congrArg (wrap 32) (min_comm _ _)
    · exact Nat.min_comm x y

theorem intCombine_assoc (o : RedOp) : Std.Associative (intCombine o) := by
  refine ⟨fun x y z => ?_⟩
  have hx := signed_bounds x
  have hy := signed_bounds y
  have hz := signed_bounds z
  cases o with
  | sum =>
    unfold intCombine
    dsimp only
    omega
  | max u =>
    cases u
    · change wrap 32 (max (signed 32 (wrap 32 (max _ _))) _) = wrap 32 (max _ (signed 32 (wrap 32 (max _ _))))
      rw [signed_wrap (by omega), signed_wrap (by omega), max_assoc]
    · exact Nat.max_assoc x y z
  | min u =>
    cases u
    · change wrap 32 (min (signed 32 (wrap 32 (min _ _))) _) = wrap 32 (min _ (signed 32 (wrap 32 (min _ _))))
      rw [signed_wrap (by omega), signed_wrap (by omega), min_assoc]
    · exact Nat.min_assoc x y z

theorem intCombine_lt (o : RedOp) {x y : Nat} (hx : x < 2 ^ 32) (hy : y < 2 ^ 32) : intCombine o x y < 2 ^ 32 := by
  have hwrap : ∀ z, wrap 32 z < 2 ^ 32 := fun z => by unfold wrap; omega
  cases o with
  | sum => exact Nat.mod_lt _ (by decide)
  | max u =>
    cases u
    · exact hwrap _
    · exact Nat.max_lt.2 ⟨hx, hy⟩
  | min u =>
    cases u
    · exact hwrap _
    · exact Nat.lt_of_le_of_lt (Nat.min_le_left x y) hx

/-! ### Partials of lanes -/

/-- Two partials of INT32 patterns combined, where EMPTY gives way (R87). -/
def partCombine (o : RedOp) : Option Nat → Option Nat → Option Nat := Option.merge (intCombine o)

theorem partCombine_comm (o : RedOp) : Std.Commutative (partCombine o) :=
  haveI := intCombine_comm o
  Option.commutative_merge (intCombine o)

theorem partCombine_assoc (o : RedOp) : Std.Associative (partCombine o) :=
  haveI := intCombine_assoc o
  Option.associative_merge (intCombine o)

theorem combineOpt_int (o : RedOp) (c : Csr) (x y : Option Nat) : combineOpt o c false x y = (partCombine o x y, 0) := by
  cases x with
  | none => cases y <;> rfl
  | some x =>
    cases y with
    | none => rfl
    | some y =>
      unfold combineOpt
      dsimp only
      rw [combine_int]
      rfl

theorem partialAt_lt {p : Partials} {l x : Nat} (h : partialAt p l = some x) : x < 2 ^ 32 := by
  unfold partialAt at h
  obtain ⟨y, -, rfl⟩ := Option.map_eq_some_iff.1 h
  exact y.2.isLt

theorem partialAt_putPartial (p : Partials) (l v j : Nat) :
    partialAt (putPartial p l v) j = if j = l then some (v % 2 ^ 32) else partialAt p j := by
  unfold partialAt putPartial
  by_cases hj : j = l
  · subst hj
    rw [if_pos rfl, List.find?_cons_of_pos (p := fun x : Nat × BitVec 32 => x.1 == j) (beq_self_eq_true j)]
    exact congrArg some (BitVec.toNat_ofNat v 32)
  · rw [if_neg hj, List.find?_cons_of_neg (p := fun x : Nat × BitVec 32 => x.1 == j) (by simpa using Ne.symm hj), List.find?_filter]
    congr 2
    funext x
    by_cases hx : x.1 = j
    · simp [hx, hj]
    · simp [hx]

section Total

variable {α : Type} (op : α → α → α) [Std.Commutative op] [Std.Associative op]

/-- A fold over a set where the value of one place takes one more operand. -/
theorem fold_update (e : α) (S : Finset Nat) (P Q : Nat → α) (l : Nat) (y : α) (hl : l ∈ S) (hQ : Q l = op (P l) y)
    (hrest : ∀ j ∈ S, j ≠ l → Q j = P j) : S.fold op e Q = op (S.fold op e P) y := by
  have hrest' : ∀ j ∈ S.erase l, Q j = P j := fun j hj => hrest j (Finset.mem_of_mem_erase hj) (Finset.ne_of_mem_erase hj)
  rw [← Finset.insert_erase hl, Finset.fold_insert (Finset.notMem_erase l S), Finset.fold_insert (Finset.notMem_erase l S),
    Finset.fold_congr hrest', hQ, Std.Associative.assoc (op := op), Std.Associative.assoc (op := op),
    Std.Commutative.comm (op := op) y]

/-- A fold over twice as many places is one over pairs of them. -/
theorem fold_halve (e : α) (he : op e e = e) (P : Nat → α) (w : Nat) :
    (Finset.range (w + w)).fold op e P = (Finset.range w).fold op e (fun l => op (P l) (P (l + w))) := by
  have hpairs := Finset.fold_op_distrib (op := op) (s := Finset.range w) (f := P) (g := fun l => P (l + w)) (b₁ := e) (b₂ := e)
  have hunion := Finset.fold_disjUnion (op := op) (f := P) (b₁ := e) (b₂ := e)
    (Finset.disjoint_range_addLeftEmbedding w (Finset.range w))
  rw [he] at hpairs hunion
  rw [hpairs, Finset.range_add, ← Finset.disjUnion_eq_union _ _ (Finset.disjoint_range_addLeftEmbedding w (Finset.range w)), hunion,
    Finset.fold_map]
  have hshift : P ∘ addLeftEmbedding w = fun l => P (l + w) := funext (fun l => congrArg P (Nat.add_comm w l))
  rw [hshift]

end Total

/-! ### The tree over the lanes (R87) -/

/-- What the partials of lanes 0 to `w` - 1 combine to. -/
def laneTotal (o : RedOp) (w : Nat) (p : Partials) : Option Nat :=
  haveI := partCombine_comm o
  haveI := partCombine_assoc o
  (Finset.range w).fold (partCombine o) none (partialAt p)

/-- The partials with one lane at a combination, where that is not EMPTY. -/
def putCombined (p : Partials) (l : Nat) (r : Option Nat) : Partials :=
  match r with
  | some v => putPartial p l v
  | none => p

theorem partCombine_lt {o : RedOp} {x y : Option Nat} (hx : ∀ v, x = some v → v < 2 ^ 32) (hy : ∀ v, y = some v → v < 2 ^ 32) {v : Nat}
    (h : partCombine o x y = some v) : v < 2 ^ 32 := by
  cases x with
  | none =>
    cases y with
    | none => cases h
    | some y => exact hy v h
  | some x =>
    cases y with
    | none => exact hx v h
    | some y =>
      rw [← Option.some.inj h]
      exact intCombine_lt o (hx x rfl) (hy y rfl)

/-- A lane that takes one more operand holds the combination. -/
theorem partialAt_putCombined (o : RedOp) (p : Partials) (l : Nat) (y : Option Nat) (hy : ∀ v, y = some v → v < 2 ^ 32) (j : Nat) :
    partialAt (putCombined p l (partCombine o (partialAt p l) y)) j =
      if j = l then partCombine o (partialAt p l) y else partialAt p j := by
  cases hr : partCombine o (partialAt p l) y with
  | some v =>
    refine (partialAt_putPartial p l v j).trans ?_
    rw [Nat.mod_eq_of_lt (partCombine_lt (fun _ h => partialAt_lt h) hy hr)]
  | none =>
    have hl : partialAt p l = none := by
      cases hp : partialAt p l with
      | none => rfl
      | some x => cases y <;> rw [hp] at hr <;> cases hr
    by_cases hj : j = l
    · rw [if_pos hj, hj]
      exact hl
    · rw [if_neg hj]
      rfl

theorem treeLevel_succ (o : RedOp) (c : Csr) (w l k : Nat) (p : Partials) (fl : Nat) : treeLevel o c false w l (k + 1) p fl =
    treeLevel o c false w (l + 1) k (putCombined p l (partCombine o (partialAt p l) (partialAt p (l + w)))) fl := by
  have hstep : treeLevel o c false w l (k + 1) p fl =
      treeLevel o c false w (l + 1) k (putCombined p l (combineOpt o c false (partialAt p l) (partialAt p (l + w))).1)
        (fl ||| (combineOpt o c false (partialAt p l) (partialAt p (l + w))).2) := rfl
  rw [hstep, combineOpt_int, Nat.or_zero]

/-- One level of the tree combines each of its lanes with the one `w` above, in turn, and raises no flag. -/
theorem treeLevel_int (o : RedOp) (c : Csr) (w l k : Nat) (p : Partials) (fl : Nat) (hk : l + k ≤ w) :
    (treeLevel o c false w l k p fl).2 = fl ∧ ∀ j, partialAt (treeLevel o c false w l k p fl).1 j =
      if l ≤ j ∧ j < l + k then partCombine o (partialAt p j) (partialAt p (j + w)) else partialAt p j := by
  induction k generalizing l p with
  | zero => exact ⟨rfl, fun j => (if_neg (by omega)).symm⟩
  | succ k ih =>
    have hput := partialAt_putCombined o p l (partialAt p (l + w)) (fun _ h => partialAt_lt h)
    rw [treeLevel_succ]
    obtain ⟨hflags, hparts⟩ := ih (l + 1) (putCombined p l (partCombine o (partialAt p l) (partialAt p (l + w)))) (by omega)
    refine ⟨hflags, fun j => (hparts j).trans ?_⟩
    rw [hput, hput]
    by_cases hj : j = l
    · subst hj
      rw [if_neg (by omega), if_pos rfl, if_pos (by omega)]
    · rw [if_neg hj]
      by_cases hin : l + 1 ≤ j ∧ j < l + 1 + k
      · rw [if_pos hin, if_neg (by omega), if_pos (by omega)]
      · rw [if_neg hin, if_neg (by omega)]

/-- A level of the tree keeps the total of twice as many lanes as it leaves. -/
theorem laneTotal_treeLevel (o : RedOp) (c : Csr) (w : Nat) (p : Partials) (fl : Nat) :
    laneTotal o w (treeLevel o c false w 0 w p fl).1 = laneTotal o (w + w) p := by
  have := partCombine_comm o
  have := partCombine_assoc o
  obtain ⟨-, hparts⟩ := treeLevel_int o c w 0 w p fl (by omega)
  have hhalve := fold_halve (partCombine o) none rfl (partialAt p) w
  refine Eq.trans (Finset.fold_congr (fun j hj => ?_)) hhalve.symm
  rw [hparts, if_pos (by simpa using hj)]

/-- The tree leaves the total of all 64 lanes in lane 0, and raises no flag (R87). -/
theorem tree_int (o : RedOp) (c : Csr) (p : Partials) :
    partialAt (tree o c false p).1 0 = laneTotal o 64 p ∧ (tree o c false p).2 = 0 := by
  have hflags : ∀ w q fl, (treeLevel o c false w 0 w q fl).2 = fl := fun w q fl => (treeLevel_int o c w 0 w q fl (by omega)).1
  have hone : ∀ q, laneTotal o 1 q = partialAt q 0 := by
    intro q
    have := partCombine_comm o
    have := partCombine_assoc o
    have hlast : ∀ x : Option Nat, partCombine o x none = x := fun x => by cases x <;> rfl
    rw [laneTotal, Finset.range_one, Finset.fold_singleton, hlast]
  constructor
  · rw [← hone]
    unfold tree
    simp only [List.foldl_cons, List.foldl_nil, laneTotal_treeLevel, Nat.reduceAdd]
  · unfold tree
    simp only [List.foldl_cons, List.foldl_nil, hflags]

/-! ### The elements folded into the lanes (R87) -/

/-- The total of the lanes takes what one of them takes. -/
theorem laneTotal_putCombined (o : RedOp) (p : Partials) (l : Nat) (hl : l < 64) (y : Option Nat) (hy : ∀ v, y = some v → v < 2 ^ 32) :
    laneTotal o 64 (putCombined p l (partCombine o (partialAt p l) y)) = partCombine o (laneTotal o 64 p) y := by
  have := partCombine_comm o
  have := partCombine_assoc o
  have hput := partialAt_putCombined o p l y hy
  exact fold_update (partCombine o) none (Finset.range 64) (partialAt p) _ l y (Finset.mem_range.2 hl) ((hput l).trans (if_pos rfl))
    (fun j _ hj => (hput j).trans (if_neg hj))

section Folds

variable (o : RedOp) (h : Hart) (a : Nat) (m : MReg)

/-- The active elements of an INT32 operand combined into a total, in turn. -/
def foldActive (e k : Nat) (x : Option Nat) : Option Nat :=
  ((List.range' e k).filter (active h m)).foldl (fun acc e => partCombine o acc (some (getElem h a false e))) x

/-- One element folded: nothing where it is inactive. -/
theorem foldElems_succ (e k : Nat) (p : Partials) (fl : Nat) : foldElems o h a 3 m e (k + 1) p fl =
    foldElems o h a 3 m (e + 1) k
      (if active h m e then putCombined p (e % 64) (partCombine o (partialAt p (e % 64)) (some (getElem h a false e))) else p) fl := by
  rw [foldElems]
  split
  · have helem : toPartial o 3 (getElem h a (narrowTag 3) e) = getElem h a false e := by cases o <;> rfl
    dsimp only
    rw [helem, show floatTag 3 = false from rfl, combineOpt_int, if_neg (not_not_intro (Nat.zero_and _)), Nat.or_zero]
    cases partialAt p (e % 64) <;> rfl
  · rfl

/-- Folding INT32 elements raises no flag and traps nowhere; the total of the lanes takes each active element in turn. -/
theorem foldElems_int (e k : Nat) (p : Partials) (fl : Nat) :
    ∃ q, foldElems o h a 3 m e k p fl = ⟨q, fl, none⟩ ∧ laneTotal o 64 q = foldActive o h a m e k (laneTotal o 64 p) := by
  induction k generalizing e p with
  | zero => exact ⟨p, rfl, rfl⟩
  | succ k ih =>
    rw [foldElems_succ]
    obtain ⟨q, hq, htotal⟩ := ih (e + 1)
      (if active h m e then putCombined p (e % 64) (partCombine o (partialAt p (e % 64)) (some (getElem h a false e))) else p)
    refine ⟨q, hq, htotal.trans ?_⟩
    unfold foldActive
    rw [List.range'_succ]
    by_cases ha : active h m e = true
    · rw [if_pos ha, List.filter_cons_of_pos ha, List.foldl_cons,
        laneTotal_putCombined o p (e % 64) (Nat.mod_lt _ (by decide)) _ (fun v hv => Option.some.inj hv ▸ getElem_lt h a false e)]
    · rw [if_neg ha, List.filter_cons_of_neg ha]

theorem foldActive_append (e i k : Nat) (x : Option Nat) :
    foldActive o h a m e (i + k) x = foldActive o h a m (e + i) k (foldActive o h a m e i x) := by
  unfold foldActive
  rw [← List.range'_append_1, List.filter_append, List.foldl_append]

/-- Folding groups of INT32 elements is folding their elements. -/
theorem foldGroups_int (g k : Nat) (p : Partials) (fl : Nat) :
    ∃ q, foldGroups o h a 3 m g k p fl = ⟨q, fl, none⟩ ∧
      laneTotal o 64 q = foldActive o h a m (64 * g) (min (64 * k) (lengthOf h - 64 * g)) (laneTotal o 64 p) := by
  induction k generalizing g p with
  | zero => exact ⟨p, rfl, by rw [Nat.mul_zero, Nat.zero_min]; rfl⟩
  | succ k ih =>
    obtain ⟨q, hq, htotal⟩ := foldElems_int o h a m (64 * g) (Nat.min 64 (lengthOf h - 64 * g)) p fl
    obtain ⟨r, hr, hrest⟩ := ih (g + 1) q
    refine ⟨r, ?_, hrest.trans ?_⟩
    · rw [foldGroups, hq]
      exact hr
    · rw [htotal]
      by_cases hfull : 64 ≤ lengthOf h - 64 * g
      · have hcount : min (64 * (k + 1)) (lengthOf h - 64 * g) = 64 + min (64 * k) (lengthOf h - 64 * (g + 1)) := by omega
        rw [hcount, foldActive_append, show Nat.min 64 (lengthOf h - 64 * g) = 64 from Nat.min_eq_left hfull, Nat.mul_succ]
      · have hrest : min (64 * k) (lengthOf h - 64 * (g + 1)) = 0 := by omega
        have hcount : min (64 * (k + 1)) (lengthOf h - 64 * g) = lengthOf h - 64 * g := by omega
        rw [hrest, hcount, show Nat.min 64 (lengthOf h - 64 * g) = lengthOf h - 64 * g from Nat.min_eq_right (by omega)]
        rfl

/-- The folds of an INT32 reduction of `n` elements raise no flag, and leave in the lanes the total of the active ones. -/
theorem foldGroups_all : ∃ q, foldGroups o h a 3 m 0 (groupsOf (lengthOf h)) [] 0 = ⟨q, 0, none⟩ ∧
    laneTotal o 64 q = ((List.range (lengthOf h)).filter (active h m)).foldl (fun acc e => partCombine o acc (some (getElem h a false e)))
      none := by
  obtain ⟨q, hq, htotal⟩ := foldGroups_int o h a m 0 (groupsOf (lengthOf h)) [] 0
  refine ⟨q, hq, htotal.trans ?_⟩
  have hempty : laneTotal o 64 [] = none := by
    have := partCombine_comm o
    have := partCombine_assoc o
    have hconst : ∀ w, (Finset.range w).fold (partCombine o) none (partialAt []) = none := by
      intro w
      induction w with
      | zero => exact Finset.fold_empty
      | succ w ih => rw [Finset.range_add_one, Finset.fold_insert Finset.notMem_range_self, ih]; rfl
    exact hconst 64
  have hcount : min (64 * groupsOf (lengthOf h)) (lengthOf h - 64 * 0) = lengthOf h := by
    unfold groupsOf ceilDiv
    omega
  rw [hempty, hcount, foldActive, Nat.mul_zero, ← List.range_eq_range']

end Folds

/-! ### The value (R202) -/

/-- A total combined with an initial value is the initial value combined with every operand in turn. -/
theorem partCombine_foldl (o : RedOp) (b : Nat) (f : Nat → Nat) (es : List Nat) :
    partCombine o (some b) (es.foldl (fun acc e => partCombine o acc (some (f e))) none) =
      some (es.foldl (fun acc e => intCombine o acc (f e)) b) := by
  induction es using List.reverseRecOn with
  | nil => rfl
  | append_singleton es e ih =>
    rw [List.foldl_concat, List.foldl_concat, ← (partCombine_assoc o).assoc, ih]
    rfl

/-- What an INT32 pattern stands for in a reduction: unsigned in a `.u` form, else signed (R202). -/
def redVal (o : RedOp) (x : Nat) : Int := if o.unsigned then (x : Int) else if x < 2 ^ 31 then (x : Int) else (x : Int) - 2 ^ 32

/-- A pattern stands for an integer: modulo 2^32 in a sum, else exactly. -/
def standsFor (o : RedOp) (x : Nat) (z : Int) : Prop := x < 2 ^ 32 ∧ (x : Int) = z % 2 ^ 32 ∧ (o ≠ .sum → z = redVal o x)

theorem redVal_mod (o : RedOp) {x : Nat} (hx : x < 2 ^ 32) : (x : Int) = redVal o x % 2 ^ 32 := by
  unfold redVal
  split
  · omega
  · split <;> omega

theorem redVal_signed (o : RedOp) (ho : o.unsigned = false) {x : Nat} (hx : x < 2 ^ 32) : redVal o x = signed 32 x := by
  rw [redVal, ho, if_neg Bool.false_ne_true, signed]
  split <;> split <;> omega

theorem standsFor_wrap (o : RedOp) (ho : o.unsigned = false) {z : Int} (hz : -2 ^ 31 ≤ z ∧ z < 2 ^ 31) : standsFor o (wrap 32 z) z := by
  have hlt : wrap 32 z < 2 ^ 32 := by unfold wrap; omega
  refine ⟨hlt, by unfold wrap; omega, fun _ => ?_⟩
  rw [redVal_signed o ho hlt, signed_wrap hz]

/-- Combining two patterns combines what they stand for. -/
theorem standsFor_combine (o : RedOp) {x y : Nat} {z : Int} (hx : standsFor o x z) (hy : y < 2 ^ 32) :
    standsFor o (intCombine o x y) (redInt o z (redVal o y)) := by
  obtain ⟨hlt, hmod, hexact⟩ := hx
  have hymod := redVal_mod o hy
  have hbx := signed_bounds x
  have hby := signed_bounds y
  cases o with
  | sum =>
    refine ⟨Nat.mod_lt _ (by decide), ?_, fun h => absurd rfl h⟩
    unfold intCombine redInt
    dsimp only
    omega
  | max u =>
    rw [hexact nofun]
    cases u with
    | false =>
      rw [redVal_signed _ rfl hlt, redVal_signed _ rfl hy]
      exact standsFor_wrap _ rfl (by omega)
    | true =>
      have hmax : ((Nat.max x y : Nat) : Int) = max (x : Int) y := Nat.cast_max x y
      exact ⟨intCombine_lt _ hlt hy, by change ((Nat.max x y : Nat) : Int) = max (x : Int) y % 2 ^ 32; omega, fun _ => hmax.symm⟩
  | min u =>
    rw [hexact nofun]
    cases u with
    | false =>
      rw [redVal_signed _ rfl hlt, redVal_signed _ rfl hy]
      exact standsFor_wrap _ rfl (by omega)
    | true =>
      have hmin : ((Nat.min x y : Nat) : Int) = min (x : Int) y := Nat.cast_min x y
      exact ⟨intCombine_lt _ hlt hy, by change ((Nat.min x y : Nat) : Int) = min (x : Int) y % 2 ^ 32; omega, fun _ => hmin.symm⟩

theorem standsFor_foldl (o : RedOp) (f : Nat → Nat) (hf : ∀ e, f e < 2 ^ 32) (es : List Nat) (b : Nat) (z : Int) (hb : standsFor o b z) :
    standsFor o (es.foldl (fun acc e => intCombine o acc (f e)) b) (es.foldl (fun acc e => redInt o acc (redVal o (f e))) z) := by
  induction es generalizing b z with
  | nil => exact hb
  | cons e es ih => exact ih _ _ (standsFor_combine o hb (hf e))

/-- The last combination of an INT32 reduction whose lanes have a total. -/
theorem lastCombined_int (o : RedOp) (h : Hart) (init : Nat) (p : Partials) (f : Nat → Nat) (es : List Nat) (hinit : init < 2 ^ 32)
    (hf : ∀ e, f e < 2 ^ 32)
    (hp : partialAt p 0 = es.foldl (fun acc e => partCombine o acc (some (f e))) none) :
    (lastCombined o h 3 init p).2 = 0 ∧ ((lastCombined o h 3 init p).1 % 2 ^ 32 : Int) =
      es.foldl (fun acc e => redInt o acc (redVal o (f e))) (redVal o init) % 2 ^ 32 := by
  have hall := partCombine_foldl o init f es
  obtain ⟨-, hvalue, -⟩ := standsFor_foldl o f hf es init (redVal o init) ⟨hinit, redVal_mod o hinit, fun _ => rfl⟩
  unfold lastCombined
  rw [hp]
  cases htotal : es.foldl (fun acc e => partCombine o acc (some (f e))) none with
  | none =>
    rw [htotal] at hall
    have hinit' : init = es.foldl (fun acc e => intCombine o acc (f e)) init := Option.some.inj hall
    refine ⟨rfl, ?_⟩
    dsimp only
    rw [← hvalue, ← hinit']
    omega
  | some v =>
    rw [htotal] at hall
    have hlast : combineLast o h.csr 3 (toPartial o 3 init) v = (intCombine o init v % 2 ^ 32, 0) := by
      have hpart : toPartial o 3 init = init := by cases o <;> rfl
      rw [hpart, combineLast, show floatTag 3 = false from rfl, combine_int]
      rfl
    have hfold : intCombine o init v = es.foldl (fun acc e => intCombine o acc (f e)) init := Option.some.inj hall
    dsimp only
    rw [hlast]
    refine ⟨rfl, ?_⟩
    rw [← hvalue, ← hfold]
    omega

end Sys2Proof.Machine

namespace Sys2Proof.Claims

open Sys2Proof.Machine

/-- INT32 reductions by their value alone. -/
theorem integerReductions : IntegerReductions := by
  intro s i o d a b m hrow hr haccept htag hn read
  obtain ⟨q, hfold, htotal⟩ := foldGroups_all o s.hart a.val m
  obtain ⟨htree, hflags⟩ := tree_int o s.hart.csr q
  obtain ⟨hlastFlags, hlast⟩ := lastCombined_int o s.hart (getElem s.hart b.val false 0) (tree o s.hart.csr false q).1
    (getElem s.hart a.val false) ((List.range (lengthOf s.hart)).filter (active s.hart m)) (getElem_lt s.hart b.val false 0)
    (getElem_lt s.hart a.val false) (htree.trans htotal)
  have hrun := reduction_runs o d a b m s haccept hr hn ⟨q, 0, none⟩ (tree o s.hart.csr false q)
    (lastCombined o s.hart 3 (getElem s.hart b.val false 0) (tree o s.hart.csr false q).1) (htag ▸ hfold) (by rw [htag]; rfl)
    (by rw [htag]; rfl) rfl (by rw [hflags, hlastFlags]; exact Nat.zero_and _)
  have hcap : 0 < capacity s.hart.csr (tagOfReg s.hart a.val) := redAccepts_capacity haccept hn
  obtain ⟨-, ⟨-, -, helem, -⟩, -⟩ := reducedHart_written s d.val (tagOfReg s.hart a.val) (lengthOf s.hart) _ _ hcap hn
  have hvalue := helem 0 Nat.one_pos
  refine ⟨_, (exec_redRow s hrow).trans hrun, ?_⟩
  rw [htag] at hvalue ⊢
  refine (congrArg Nat.cast (hvalue.trans (if_pos rfl))).trans ?_
  rw [Int.natCast_mod]
  exact hlast

/-- Settles O27: a reduction is its checks, its folds, its tree and its last combination (`reduction_runs`); on INT32 patterns the
combination is associative and commutative, so the tree gives the total of the elements in any order (`tree_int`). -/
theorem reductionsComplete : Obligations.ReductionsComplete := ⟨reductionResults, integerReductions⟩

end Sys2Proof.Claims

/-! Gang exchanges (R258 to R260): what every member of the gang takes. -/

namespace Sys2Proof.Machine

open Sys2Proof.Claims

/-! ### Elements that a member's registers hold -/

/-- Every operand holds some elements (R16, R18). -/
theorem capacity_pos (c : Csr) (t : Nat) : 0 < capacity c t := by
  have hlen : 0 < regLen c := by
    have hk : bits c.vrcfg 0 2 < 4 := Nat.mod_lt _ (by decide)
    unfold regLen
    generalize bits c.vrcfg 0 2 = k at hk
    interval_cases k <;> decide
  have hgroup : 0 < groupOf c := Nat.two_pow_pos _
  unfold capacity
  split
  · exact Nat.mul_pos (Nat.mul_pos hlen hgroup) Nat.two_pos
  · exact Nat.mul_pos (Nat.mul_pos hlen hgroup) Nat.one_pos

/-- An operand that is full has no tail. -/
theorem vecTail_full (h : Hart) (r t n : Nat) (hn : capacity h.csr t ≤ n) : vecTail h r t n = h := by
  unfold vecTail
  rw [Nat.sub_eq_zero_of_le hn]
  split <;> rfl

/-- A write of an element that does nothing at or above the capacity. -/
def putHeld (c : Csr) (d : Nat) (narrow : Bool) (cap : Nat) (v : Vec) (e x : Nat) : Vec :=
  if cap ≤ e then v else putElem c v d narrow e x

/-- One element of a loop without flags. -/
theorem sweep_quiet_succ (f : Nat → Nat) (act : Nat → Bool) (zero : Bool) (write : Vec → Nat → Nat → Vec) (en e k : Nat) (v : Vec) :
    sweep (fun e => (f e, 0)) act zero write en e (k + 1) v 0 = sweep (fun e => (f e, 0)) act zero write en (e + 1) k
      (if act e then write v e (f e) else if zero then write v e 0 else v) 0 := by
  rw [sweep]
  simp only [Nat.zero_and, ne_eq, not_true_eq_false, if_false, Nat.or_zero]
  split <;> rfl

/-- A loop without flags whose writes do nothing at or above the capacity is one over the elements below it. -/
theorem sweep_held (f : Nat → Nat) (act : Nat → Bool) (zero : Bool) (c : Csr) (d : Nat) (narrow : Bool) (cap e k : Nat) (v : Vec) (en : Nat) :
    (sweep (fun e => (f e, 0)) act zero (putHeld c d narrow cap) 0 e k v 0).vec =
      (sweep (fun e => (f e, 0)) act zero (fun v e x => putElem c v d narrow e x) en e (min k (cap - e)) v 0).vec := by
  induction k generalizing e v with
  | zero => rw [Nat.zero_min]; rfl
  | succ k ih =>
    rw [sweep_quiet_succ, ih]
    by_cases he : cap ≤ e
    · have hput : ∀ x, putHeld c d narrow cap v e x = v := fun x => if_pos he
      have hnone : min (k + 1) (cap - e) = 0 := by omega
      have hnone' : min k (cap - (e + 1)) = 0 := by omega
      rw [hnone, hnone', hput, hput, ite_self, ite_self]
      rfl
    · have hput : ∀ x, putHeld c d narrow cap v e x = putElem c v d narrow e x := fun x => if_neg he
      have hmin : min (k + 1) (cap - e) = min k (cap - (e + 1)) + 1 := by omega
      rw [hmin, sweep_quiet_succ, hput, hput]

/-! ### One member -/

/-- A member's part of an exchange of `n` elements: its elements, flags, tail and progress, and the next word (R258). -/
def exchanged (d a : VReg) (m : MReg) (n : Nat) (f : Hart → Nat → Nat) (fl : Nat → Nat) (h : Hart) : Hart :=
  let tag := tagOfReg h a.val
  let h1 := exchangeElems (setTags h d.val (groupOf h.csr) tag) d.val tag m (f h) 0 n
  let h2 := orFlags h1 (flagsFrom fl 0 n)
  let h3 := completed (if n = 0 then h2 else vecTail h2 d.val tag n) d.val n
  { h3 with pc := h3.pc + 4 }

theorem core_exchanged (d a : VReg) (m : MReg) (n : Nat) (f : Hart → Nat → Nat) (fl : Nat → Nat) (h : Hart) :
    (exchanged d a m n f fl h).core = h.core := by
  unfold exchanged
  dsimp only
  split
  · rfl
  · rw [vecTail_frame]
    rfl

/-- A tail is the same behind the length and behind what the registers hold of it. -/
theorem vecTail_held (h : Hart) (r t n : Nat) : vecTail h r t n = vecTail h r t (min n (capacity h.csr t)) := by
  by_cases hn : n ≤ capacity h.csr t
  · rw [Nat.min_eq_left hn]
  · rw [vecTail_full h r t n (by omega), vecTail_full h r t _ (by omega)]

/-- Filling elements does not read FCSR. -/
theorem fillVec_fcsr (c : Csr) (w : Word) (v : Vec) (r : Nat) (narrow : Bool) (e k x : Nat) :
    fillVec { c with fcsr := w } v r narrow e k x = fillVec c v r narrow e k x := by
  induction k generalizing e v with
  | zero => rfl
  | succ k ih => exact ih (putElem c v r narrow e x) (e + 1)

/-- Joining flags and a tail do not meet. -/
theorem vecTail_orFlags (h : Hart) (fl r t n : Nat) : vecTail (orFlags h fl) r t n = orFlags (vecTail h r t n) fl := by
  unfold vecTail
  split
  · next h0 => rw [if_pos (show tpolOf h.csr = 0 from h0)]
  · next h0 =>
    rw [if_neg (show ¬tpolOf h.csr = 0 from h0)]
    exact congrArg (fun v => orFlags { h with vec := v } fl) (fillVec_fcsr h.csr _ h.vec r (narrowTag t) n _ _)

section Member

variable (d a : VReg) (m : MReg) (n : Nat) (f : Hart → Nat → Nat) (fl : Nat → Nat) (h : Hart)

/-- The loop over the elements of an exchange that a member's registers hold. -/
def heldSweep : Sweep :=
  sweep (fun e => (f h e % 2 ^ tagBits (tagOfReg h a.val), 0)) (active h m) (ipolOf h.csr)
    (fun v e x => putElem h.csr v d.val (narrowTag (tagOfReg h a.val)) e x) (enables h.csr) 0
    (min n (capacity h.csr (tagOfReg h a.val))) (setTags h d.val (groupOf h.csr) (tagOfReg h a.val)).vec 0

theorem exchangeElems_held : exchangeElems (setTags h d.val (groupOf h.csr) (tagOfReg h a.val)) d.val (tagOfReg h a.val) m (f h) 0 n =
    { h with vec := (heldSweep d a m n f h).vec } := by
  have hvec := sweep_held (fun e => f h e % 2 ^ tagBits (tagOfReg h a.val)) (active h m) (ipolOf h.csr) h.csr d.val
    (narrowTag (tagOfReg h a.val)) (capacity h.csr (tagOfReg h a.val)) 0 n (setTags h d.val (groupOf h.csr) (tagOfReg h a.val)).vec
    (enables h.csr)
  exact congrArg (fun v => { h with vec := v }) hvec

/-- The whole of that loop, with its tail. -/
def heldHart : Hart :=
  sweptHart h d.val (tagOfReg h a.val) (min n (capacity h.csr (tagOfReg h a.val))) (active h m) (ipolOf h.csr)
    (fun e => (f h e % 2 ^ tagBits (tagOfReg h a.val), 0))

theorem heldHart_eq : heldHart d a m n f h =
    let h1 := orFlags { h with vec := (heldSweep d a m n f h).vec } (heldSweep d a m n f h).flags
    if min n (capacity h.csr (tagOfReg h a.val)) = 0 then h1
    else vecTail h1 d.val (tagOfReg h a.val) (min n (capacity h.csr (tagOfReg h a.val))) := rfl

/-- A member's part of an exchange is that loop, with the flags of the exchange. -/
theorem exchanged_eq : exchanged d a m n f fl h = { completed (heldHart d a m n f h) d.val n with
    pc := h.pc + 4
    csr := { h.csr with fcsr := h.csr.fcsr ||| word (flagsFrom fl 0 n % 32) } } := by
  have hzero : min n (capacity h.csr (tagOfReg h a.val)) = 0 ↔ n = 0 := by
    have hcap := capacity_pos h.csr (tagOfReg h a.val)
    omega
  unfold exchanged
  dsimp only
  rw [exchangeElems_held, heldHart_eq]
  generalize heldSweep d a m n f h = w
  dsimp only
  simp only [hzero]
  by_cases hn : n = 0
  · rw [if_pos hn, if_pos hn]
    rfl
  · have htail : vecTail { h with vec := w.vec } d.val (tagOfReg h a.val) n =
        vecTail { h with vec := w.vec } d.val (tagOfReg h a.val) (min n (capacity h.csr (tagOfReg h a.val))) := vecTail_held ..
    have hframe := vecTail_frame { h with vec := w.vec } d.val (tagOfReg h a.val) (min n (capacity h.csr (tagOfReg h a.val)))
    rw [if_neg hn, if_neg hn, vecTail_orFlags, vecTail_orFlags, htail, hframe]
    rfl

end Member

/-! ### The whole gang -/

theorem firstFrom_none (p : Nat → Bool) (k n : Nat) (h : ∀ j < n, p (k + j) = false) : firstFrom p k n = none := by
  induction n generalizing k with
  | zero => rfl
  | succ n ih =>
    have hfirst : p k = false := h 0 (Nat.succ_pos n)
    rw [firstFrom, hfirst, if_neg Bool.false_ne_true]
    exact ih (k + 1) (fun j hj => by rw [Nat.add_right_comm]; exact h (j + 1) (by omega))

/-- An exchange that every member's checks accept and that raises no enabled flag is done for every member (R40, R258). -/
theorem exchange_runs (s : State) (d a : VReg) (m : MReg) (bad : Bool) (reads : Hart → Hart → Nat → Bool) (f : Hart → Nat → Nat)
    (fl : Nat → Nat) (hs : coresApart s) (hr : freshStart s.hart) (hb : s.bad = [])
    (hchecks : ∀ h ∈ gangNow s, exchangeFails h d.val a.val bad = none)
    (hquiet : ∀ h ∈ gangNow s, ∀ e, e < lengthOf (leaderNow s) → fl e &&& enables h.csr = 0) :
    ∃ t, exchange s d a m bad reads f fl = .next t ∧ t.mem = s.mem ∧
      ∀ h ∈ gangNow s, hartAt t h.core = exchanged d a m (lengthOf (leaderNow s)) f fl h := by
  have hpass : (gangNow s).any (fun h => (exchangeFails h d.val a.val bad).isSome) = false :=
    List.any_eq_false.2 (fun h hh => by rw [hchecks h hh]; decide)
  have hstart : s.hart.restart.start = 0 := congrArg Restart.start hr
  have hz : groupStop s.hart (lengthOf (leaderNow s)) = lengthOf (leaderNow s) := by rw [groupStop, show s.hart.restart = _ from hr]
  have hstop : firstBelow (lengthOf (leaderNow s)) (fun i => (gangNow s).any (fun h => fl (0 + i) &&& enables h.csr != 0)) = none := by
    refine firstFrom_none _ 0 _ (fun j hj => List.any_eq_false.2 (fun h hh => ?_))
    rw [Nat.zero_add, Nat.zero_add, hquiet h hh j hj]
    decide
  obtain ⟨honly, hat⟩ := eachMember_gang (core_exchanged d a m (lengthOf (leaderNow s)) f fl) s hs
  refine ⟨_, ?_, (onlyHarts_frame honly).2, hat⟩
  unfold exchange exchangeGuard
  dsimp only
  rw [hpass, hb, hstart, hz, Nat.sub_zero, hstop, if_neg Bool.false_ne_true, if_pos (show ([] : List BadPlace).isEmpty = true from rfl)]
  dsimp only
  refine congrArg (fun k => Host.Outcome.next (eachMember s (gangNow s) k)) (funext (fun u => ?_))
  unfold exchangeEnd
  dsimp only [Option.map_none]
  rw [if_neg (Nat.lt_irrefl _)]
  rfl

end Sys2Proof.Machine

namespace Sys2Proof.Claims

open Sys2Proof.Machine

/-- A member's part of an exchange: it has gone on, with its destination written as far as its registers hold it (R258; log 28). -/
theorem exchanged_written (s t : State) (d a : VReg) (m : MReg) (n : Nat) (f : Hart → Nat → Nat) (fl : Nat → Nat) (h : Hart)
    (hmem : t.mem = s.mem) :
    let sh := { s with hart := h }
    let th := { t with hart := exchanged d a m n f fl h }
    wentOn sh th none ∧ th.hart.csr = { h.csr with fcsr := th.hart.csr.fcsr } ∧
      elementsWritten sh th d.val (tagOfReg h a.val) n (min n (capacity h.csr (tagOfReg h a.val))) (active h m) (f h) := by
  have hzero : min n (capacity h.csr (tagOfReg h a.val)) = 0 ↔ n = 0 := by
    have hcap := capacity_pos h.csr (tagOfReg h a.val)
    omega
  obtain ⟨hcsr, -, -, hwent, hgroup, hprog, hlow, hhigh⟩ := sweptHart_written { s with hart := h } d.val (tagOfReg h a.val)
    (min n (capacity h.csr (tagOfReg h a.val))) n (active h m) (ipolOf h.csr) (fun e => (f h e % 2 ^ tagBits (tagOfReg h a.val), 0))
    (Nat.min_le_right _ _) (fun _ _ _ => rfl) (fun _ _ _ => Nat.zero_and _)
  obtain ⟨-, hregs, -, hspad, hsdm, hmasks⟩ := hwent
  change (heldHart d a m n f h).csr = _ at hcsr
  dsimp only
  rw [exchanged_eq]
  have helem : ∀ e, getElem { completed (heldHart d a m n f h) d.val n with
      pc := h.pc + 4, csr := { h.csr with fcsr := h.csr.fcsr ||| word (flagsFrom fl 0 n % 32) } } d.val (narrowTag (tagOfReg h a.val)) e =
      getElem (heldHart d a m n f h) d.val (narrowTag (tagOfReg h a.val)) e := by
    intro e
    unfold Machine.getElem
    rw [hcsr]
    rfl
  refine ⟨⟨rfl, hregs, hmem, hspad, hsdm, hmasks⟩, rfl, hgroup, hprog, fun e he => (helem e).trans ?_, fun e h1 h2 => (helem e).trans ?_⟩
  · refine (hlow e he).trans ?_
    rw [Nat.mod_mod]
  · exact (hhigh e h1 h2).trans (if_congr (or_congr hzero Iff.rfl) rfl rfl)

/-- A member whose operands are accepted fails no check of an exchange (R20, R258). -/
theorem exchangeFails_none {h : Hart} {d a : Nat} (hregs : regsFail h.csr [d, a] = none) (htag : tagOfReg h a ≠ 0)
    (hshare : shares h.csr d a = false) : exchangeFails h d a false = none := by
  unfold exchangeFails
  rw [hregs, hshare]
  simp [htag]

theorem leaderNow_mem_of_mem {s : State} {g : Hart} (hg : g ∈ gangNow s) : leaderNow s ∈ gangNow s := by
  unfold leaderNow
  cases hgang : gangNow s with
  | nil => rw [hgang] at hg; cases hg
  | cons x xs => exact List.mem_cons_self

/-- Under GRED no member's tag is another than the leader's, where all members have one (R260). -/
theorem gredBad_false (s : State) (a : VReg) (h : ∀ h ∈ gangNow s, ∀ g ∈ gangNow s, tagOfReg g a.val = tagOfReg h a.val) :
    ((gangNow s).any (fun g => tagOfReg g a.val != tagOfReg (leaderNow s) a.val)) = false := by
  rw [List.any_eq_false]
  intro g hg
  rw [h _ (leaderNow_mem_of_mem hg) g hg]
  simp

/-- Settles O39: an exchange is one step of every member (`exchange_runs`), each a loop over the elements that its registers hold
(`exchanged_written`). -/
theorem gangExchangeResults : Obligations.GangExchangeResults := by
  unfold Obligations.GangExchangeResults
  intro s i d a m hs hr hb gang n num value hkind hmembers
  have hchecks : ∀ h ∈ gangNow s, exchangeFails h d.val a.val false = none := fun h hh => by
    obtain ⟨-, hregs, htag, hshare, -⟩ := hmembers h hh
    exact exchangeFails_none hregs htag hshare
  have hmember : ∀ f fl t, exec i s = .next t → t.mem = s.mem → (∀ h ∈ gang, f h = fun e => (value h e).1) →
      (∀ h ∈ gang, hartAt t h.core = exchanged d a m n f fl h) → ∃ t, exec i s = .next t ∧ t.mem = s.mem ∧ ∀ h ∈ gang,
        let sh := { s with hart := h }
        let th := { t with hart := hartAt t h.core }
        wentOn sh th none ∧ th.hart.csr = { h.csr with fcsr := th.hart.csr.fcsr } ∧
          elementsWritten sh th d.val (tagOfReg h a.val) n (Nat.min n (capacity h.csr (tagOfReg h a.val))) (active h m)
            (fun e => (value h e).1) := by
    intro f fl t hexec hmem hf hat
    refine ⟨t, hexec, hmem, fun h hh => ?_⟩
    rw [← hf h hh, hat h hh]
    exact exchanged_written s t d a m n f fl h hmem
  obtain ⟨r, rfl | rfl⟩ | ⟨rfl, htags⟩ := hkind
  · have hexec : exec (.gperm d a r m) s = exchange s d a m false _ (fun h e => (value h e).1) (fun _ => 0) := rfl
    obtain ⟨t, ht, hmem, hat⟩ := exchange_runs s d a m false _ (fun h e => (value h e).1) (fun _ => 0) hs hr hb hchecks
      (fun _ _ _ _ => Nat.zero_and _)
    exact hmember _ _ t (hexec.trans ht) hmem (fun _ _ => rfl) hat
  · have hexec : exec (.gbcast d a r m) s = exchange s d a m false _ (fun h e => (value h e).1) (fun _ => 0) := rfl
    obtain ⟨t, ht, hmem, hat⟩ := exchange_runs s d a m false _ (fun h e => (value h e).1) (fun _ => 0) hs hr hb hchecks
      (fun _ _ _ _ => Nat.zero_and _)
    exact hmember _ _ t (hexec.trans ht) hmem (fun _ _ => rfl) hat
  · have hbad := gredBad_false s a htags
    have hexec : exec (.gred d a m) s = exchange s d a m ((gangNow s).any (fun g => tagOfReg g a.val != tagOfReg (leaderNow s) a.val)) _
        (fun _ e => (value (leaderNow s) e).1) (fun e => (value (leaderNow s) e).2) := rfl
    rw [hbad] at hexec
    have hsame : ∀ h ∈ gang, ∀ e, value h e = value (leaderNow s) e := by
      intro h hh e
      change gangSum _ (tagOfReg h a.val) _ = gangSum _ (tagOfReg (leaderNow s) a.val) _
      rw [htags _ (leaderNow_mem_of_mem hh) h hh]
    obtain ⟨t, ht, hmem, hat⟩ := exchange_runs s d a m false _ (fun _ e => (value (leaderNow s) e).1) (fun e => (value (leaderNow s) e).2)
      hs hr hb hchecks (fun h hh e he => by
        obtain ⟨-, -, -, -, hquiet⟩ := hmembers h hh
        rw [← hsame h hh e]
        exact hquiet e he)
    exact hmember _ _ t (hexec.trans ht) hmem (fun h hh => funext (fun e => congrArg Prod.fst (hsame h hh e).symm)) hat

end Sys2Proof.Claims

/-! Scalar stores: into the buffer, seen by the hart's own loads, and performed as they drain (R8, R93, R105, R330, R367). -/

namespace Sys2Proof.Machine

open Sys2Proof.Claims

/-! ### What the hart's own loads see (R93, R105) -/

theorem storeByte_inside (st : Store) {k : Nat} (h : k < st.size) :
    storeByte st (st.place.plus k) = some (BitVec.ofNat 8 (st.data.toNat / 256 ^ k)) := by
  unfold storeByte Place.plus
  cases st.place <;> simp [h]

theorem storeByte_outside (st : Store) {q : Place} (h : ∀ k, k < st.size → q ≠ st.place.plus k) : storeByte st q = none := by
  have hoff : ∀ a b : Nat, a ≤ b → a + (b - a) = b := fun a b hab => by omega
  unfold storeByte
  unfold Place.plus at h
  cases hp : st.place <;> cases q <;> simp only [hp] at h ⊢
  all_goals
    split
    · next i hi =>
      split at hi
      · next hab =>
        obtain rfl := Option.some.inj hi
        rw [if_neg (fun hlt => h _ hlt (by rw [hoff _ _ hab]))]
      · cases hi
    · rfl

/-- A store that enters the buffer is the youngest there. -/
theorem scalarByte_youngest (s : State) (h : Hart) (bs : List Store) (st : Store) (q : Place) :
    scalarByte s { h with buffer := bs ++ [st] } q =
      (storeByte st q).getD (scalarByte s { h with buffer := bs } q) := by
  unfold scalarByte
  rw [List.reverse_append, List.reverse_singleton, List.singleton_append, List.findSome?_cons]
  cases storeByte st q with
  | none => rfl
  | some b => rfl

/-! ### What a performed store leaves (R8, R93, R330) -/

theorem sget_markEntry (s : State) (part pa : Nat) (wr : Bool) (a : Nat) (h : a < pa / 8 * 8 ∨ pa / 8 * 8 + 8 ≤ a) :
    sget (markEntry s part pa wr).2.mem a = sget s.mem a := by
  unfold markEntry
  generalize (if wr then 0x300#64 else 0x100#64) = mark
  dsimp only
  split
  · rfl
  · rw [sget_writeHome, if_neg (by omega)]

/-- Setting A and D bits writes no word but those of the entries. -/
theorem sget_markUsed (s : State) (part : Nat) (es : List (Nat × Bool)) (wr : Bool) (a : Nat)
    (h : ∀ x ∈ es, a < x.1 / 8 * 8 ∨ x.1 / 8 * 8 + 8 ≤ a) : sget (markUsed s part es wr).mem a = sget s.mem a := by
  fun_induction markUsed s part es wr with
  | case1 => rfl
  | case2 s own e rest r ih =>
    simp only [List.forall_mem_cons] at h
    obtain ⟨hown, he, hrest⟩ := h
    rw [ih hrest]
    split
    · rw [sget_markEntry _ _ _ _ _ hown, sget_markEntry _ _ _ _ _ he]
    · exact sget_markEntry _ _ _ _ _ he
  | case3 s x rest _ ih =>
    simp only [List.forall_mem_cons] at h
    obtain ⟨hx, hrest⟩ := h
    rw [ih hrest, sget_markEntry _ _ _ _ _ hx]

@[simp] theorem dropOlds_hart (s : State) (core : Nat) (p : Place) : (dropOlds s core p).hart = s.hart := by
  unfold dropOlds
  split <;> rfl

@[simp] theorem markUsed_hart (s : State) (part : Nat) (es : List (Nat × Bool)) (wr : Bool) :
    (markUsed s part es wr).hart = s.hart :=
  markUsed_induction (fun u => u.hart = s.hart) s part es wr rfl (fun u a v hu => by rw [writeHome_hart, hu])

@[simp] theorem roomInL1_hart (s : State) (core pa : Nat) : (roomInL1 s core pa).hart = s.hart := by
  unfold roomInL1
  dsimp only
  split
  · rfl
  · split <;> rfl

/-- A store to global memory leaves the acting hart as it was. -/
theorem performStore_hart {s : State} {core : Nat} {st : Store} {pa : Nat} (h : st.place = .phys pa) :
    (performStore s core st).hart = s.hart := by
  unfold performStore
  simp only [h, classPushes, writeHome_hart]
  split <;> simp only [markUsed_hart, roomInL1_hart, dropOlds_hart]

/-- The acting hart after its store to a local memory (R8). -/
theorem performStore_sdm {s : State} {st : Store} {o : Nat} (h : st.place = .sdm o) :
    performStore s s.hart.core st = { dropOlds s s.hart.core st.place with
      hart := { s.hart with sdm := ssetBytes s.hart.sdm o st.size st.data.toNat } } := by
  have hc : (dropOlds s s.hart.core st.place).hart.core = s.hart.core := by rw [dropOlds_hart]
  rw [h] at hc
  simp only [performStore, h]
  rw [onCore_acting _ _ _ hc, dropOlds_hart]

theorem performStore_spad {s : State} {st : Store} {o : Nat} (h : st.place = .spad o) :
    performStore s s.hart.core st = { dropOlds s s.hart.core st.place with
      hart := { s.hart with spad := ssetBytes s.hart.spad o st.size st.data.toNat } } := by
  have hc : (dropOlds s s.hart.core st.place).hart.core = s.hart.core := by rw [dropOlds_hart]
  rw [h] at hc
  simp only [performStore, h]
  rw [onCore_acting _ _ _ hc, dropOlds_hart]

/-- A store of the acting hart writes its bytes, lowest first, at its place. -/
theorem byteAt_performStore_inside (s : State) (st : Store) {k : Nat} (hk : k < st.size) :
    byteAt (performStore s s.hart.core st) (performStore s s.hart.core st).hart (st.place.plus k) =
      BitVec.ofNat 8 (st.data.toNat / 256 ^ k) := by
  have hin : ∀ o, o ≤ o + k ∧ o + k < o + st.size := fun o => ⟨by omega, by omega⟩
  cases hp : st.place with
  | sdm o =>
    rw [performStore_sdm hp]
    simp only [Place.plus, byteAt, sget_ssetBytes, if_pos (hin o), Nat.add_sub_cancel_left]
  | spad o =>
    rw [performStore_spad hp]
    simp only [Place.plus, byteAt, sget_ssetBytes, if_pos (hin o), Nat.add_sub_cancel_left]
  | phys pa =>
    simp only [Place.plus, byteAt, sget_performStore s _ st pa hp, if_pos (hin pa), Nat.add_sub_cancel_left]

/-- A store of the acting hart writes nothing else but the entries of its translation. -/
theorem byteAt_performStore_outside (s : State) (st : Store) {q : Place} (hq : ∀ k, k < st.size → q ≠ st.place.plus k)
    (hentries : ∀ x ∈ st.entries, ∀ k, k < 8 → q ≠ .phys (x.1 / 8 * 8 + k)) :
    byteAt (performStore s s.hart.core st) (performStore s s.hart.core st).hart q = byteAt s s.hart q := by
  have hout : ∀ (mk : Nat → Place) (o a : Nat), (∀ k, k < st.size → mk a ≠ mk (o + k)) → ¬(o ≤ a ∧ a < o + st.size) :=
    fun mk o a h hin => h (a - o) (by omega) (by rw [Nat.add_sub_cancel' hin.1])
  cases hp : st.place with
  | sdm o =>
    rw [performStore_sdm hp]
    rw [hp] at hq
    cases q with
    | sdm a => simp only [byteAt, sget_ssetBytes, if_neg (hout _ _ _ hq)]
    | spad a => rfl
    | phys a => simp only [byteAt, dropOlds_mem]
  | spad o =>
    rw [performStore_spad hp]
    rw [hp] at hq
    cases q with
    | sdm a => rfl
    | spad a => simp only [byteAt, sget_ssetBytes, if_neg (hout _ _ _ hq)]
    | phys a => simp only [byteAt, dropOlds_mem]
  | phys pa =>
    rw [performStore_hart hp]
    rw [hp] at hq
    cases q with
    | sdm a => rfl
    | spad a => rfl
    | phys a =>
      have hentry : ∀ x ∈ st.entries, a < x.1 / 8 * 8 ∨ x.1 / 8 * 8 + 8 ≤ a := fun x hx => by
        by_contra hin
        exact hentries x hx (a - x.1 / 8 * 8) (by omega) (by rw [Nat.add_sub_cancel' (by omega)])
      simp only [byteAt]
      rw [sget_performStore s _ st pa hp, if_neg (hout _ _ _ hq), sget_markUsed _ _ _ _ _ hentry, dropOlds_mem]

/-! ### The drain -/

/-- What is recovered at a home leaves the acting hart what it is, but for its local memories, counts and translations. -/
theorem atHomeOf_hart (s : State) (p : Place) : withoutMemories (atHomeOf s p).hart = withoutMemories s.hart :=
  (List.cons.inj ((flushKeeps_harts withoutMemories (fun _ _ _ _ _ => rfl)).atHomeOf s p)).1

theorem performStore_actingHart (s : State) (st : Store) :
    withoutMemories (performStore s s.hart.core st).hart = withoutMemories s.hart :=
  (List.cons.inj ((flushKeeps_harts withoutMemories (fun _ _ _ _ _ => rfl)).performStore s s.hart.core st)).1

/-- The oldest store of the acting hart that is no release is performed once its home has handled what was recovered. -/
theorem drainOne_plain {s : State} {st : Store} {rest : List Store} (hb : s.hart.buffer = st :: rest)
    (hready : storeReady s.hart st = true) (hrel : st.release = false) :
    drainOne s s.hart.core =
      performStore (atHomeOf { s with hart := { s.hart with buffer := rest } } st.place) s.hart.core st := by
  unfold drainOne
  simp only [hartAt_self, hb, hready, if_true, onCore_self]
  unfold performBuffered
  simp only [hrel, Bool.false_and, Bool.false_eq_true, if_false]

end Sys2Proof.Machine

namespace Sys2Proof.Claims

open Sys2Proof.Machine

theorem storeEntersBuffer : StoreEntersBuffer := by
  intro s i d a va n rel sys p es u hi hserved
  obtain ⟨hreach, hwatch, hbad⟩ := hserved
  rw [exec_storeOf s i d a va n rel sys hi, store, access_served s u va n .write a _ p es hreach hwatch hbad]
  rfl

theorem storeForwards : StoreForwards := by
  intro s i d a va n rel sys p es u t hi hserved ht
  rw [storeEntersBuffer s i d a va n rel sys p es u hi hserved] at ht
  obtain rfl := Host.Outcome.next.inj ht
  refine ⟨fun k hk => ?_, fun q hq => ?_⟩
  · exact (scalarByte_youngest _ _ u.hart.buffer _ _).trans (by rw [storeByte_inside ⟨p, _, _, _, _, _, _, _⟩ hk]; rfl)
  · exact (scalarByte_youngest _ _ u.hart.buffer _ _).trans (by rw [storeByte_outside ⟨p, _, _, _, _, _, _, _⟩ hq]; rfl)

theorem drainPerformsOldestStore : DrainPerformsOldestStore := by
  intro s st rest hcore hb hready hrel w
  have hw : withoutMemories w.hart = withoutMemories { s.hart with buffer := rest } := atHomeOf_hart _ st.place
  have hc : w.hart.core = s.hart.core := core_withoutMemories w.hart { s.hart with buffer := rest } hw
  have hexec : exec (.storeBufferDrain (Fin.ofNat 128 s.hart.core)) s = .next (performStore w w.hart.core st) := by
    rw [hc, ← drainOne_plain hb hready hrel]
    exact congrArg (fun c => Host.Outcome.next (drainOne s c)) (Nat.mod_eq_of_lt hcore)
  refine ⟨_, hexec, ?_, fun k hk => byteAt_performStore_inside w st hk, fun q hq he => byteAt_performStore_outside w st hq he⟩
  have hbuffer := congrArg Hart.buffer ((performStore_actingHart w st).trans hw)
  exact hbuffer

/-- Settles O8: a store is the youngest of its buffer when it enters, and the drain performs it behind what its home recovers. -/
theorem storesBuffered : Obligations.StoresBuffered := ⟨storeEntersBuffer, storeForwards, drainPerformsOldestStore⟩

end Sys2Proof.Claims

/-! GSYNC, SFENCE.T and HARVEST (R104, R261, R267, R331, R334, R335). -/

namespace Sys2Proof.Machine

open Sys2Proof.Claims

/-! ### Dirty bytes (R60) -/

/-- Every dirty byte was there before, or is one of core `c`. -/
structure DirtyFrom (c : Nat) (xs ys : List DirtyByte) : Prop where
  bytes : ∀ b ∈ ys, b ∈ xs ∨ b.core = c

theorem DirtyFrom.of_mem {c : Nat} {xs ys : List DirtyByte} (h : ∀ b ∈ ys, b ∈ xs) : DirtyFrom c xs ys := ⟨fun b hb => .inl (h b hb)⟩

theorem DirtyFrom.of_eq {c : Nat} {xs ys : List DirtyByte} (h : ys = xs) : DirtyFrom c xs ys := .of_mem (fun _ hb => h ▸ hb)

theorem DirtyFrom.refl {c : Nat} (xs : List DirtyByte) : DirtyFrom c xs xs := .of_eq rfl

theorem DirtyFrom.trans {c : Nat} {xs ys zs : List DirtyByte} (h1 : DirtyFrom c xs ys) (h2 : DirtyFrom c ys zs) : DirtyFrom c xs zs :=
  ⟨fun b hb => (h2.bytes b hb).elim (h1.bytes b) .inr⟩

theorem DirtyFrom.filter {c : Nat} (xs : List DirtyByte) (f : DirtyByte → Bool) : DirtyFrom c xs (xs.filter f) :=
  .of_mem (fun _ hb => (List.mem_filter.1 hb).1)

@[simp] theorem onCore_packets (s : State) (c : Nat) (f : Hart → Hart) : (onCore s c f).packets = s.packets := by
  unfold onCore
  split <;> rfl

@[simp] theorem onCore_dirty (s : State) (c : Nat) (f : Hart → Hart) : (onCore s c f).dirty = s.dirty := by
  unfold onCore
  split <;> rfl

@[simp] theorem dropOlds_dirty (s : State) (core : Nat) (p : Place) : (dropOlds s core p).dirty = s.dirty := by
  unfold dropOlds
  split <;> rfl

@[simp] theorem classPushes_dirty (n q : Nat) (s : State) : (classPushes n q s).dirty = s.dirty := rfl

section Dirty

variable {c : Nat}

theorem dirty_writeHome (s : State) (keep : Option Nat) (pa size v : Nat) : DirtyFrom c s.dirty (writeHome s keep pa size v).dirty := by
  simp only [writeHome, notifyWord_dirty, sequenceWord_dirty]
  exact .filter _ _

theorem walkKeeps_dirty (c : Nat) : WalkKeeps (fun s u => DirtyFrom c s.dirty u.dirty) where
  refl _ := .refl _
  trans := .trans
  write := dirty_writeHome
  core s d f _ := .of_eq (onCore_dirty s d f)
  die _ _ := .refl _

theorem dirty_foldl {α : Type} (f : State → α → State) (hf : ∀ s x, DirtyFrom c s.dirty (f s x).dirty) (xs : List α) (s : State) :
    DirtyFrom c s.dirty (xs.foldl f s).dirty := by
  induction xs generalizing s with
  | nil => exact .refl _
  | cons x xs ih => exact (hf s x).trans (ih _)

theorem dirty_writeChunks (s : State) (keep : Option Nat) (pa : Nat) (bs : List Byte) (fuel : Nat) :
    DirtyFrom c s.dirty (writeChunks s keep pa bs fuel).dirty := by
  fun_induction Machine.writeChunks s keep pa bs fuel with
  | case1 => exact .refl _
  | case2 => exact .refl _
  | case3 => rename_i ih; exact (dirty_writeHome ..).trans ih

theorem dirty_placeBytes (s : State) (core qos : Nat) (p : Place) (size data mask : Nat) :
    DirtyFrom c s.dirty (placeBytes s core qos p size data mask).dirty := by
  rw [← dropOlds_dirty s core p]
  unfold placeBytes
  dsimp only
  split
  · exact .of_eq (onCore_dirty ..)
  · exact .of_eq (onCore_dirty ..)
  · exact (dirty_writeChunks _ _ _ _ _).trans (.filter _ _)

theorem dirty_performPacket (s : State) (p : Packet) : DirtyFrom c s.dirty (performPacket s p).dirty := by
  have hmark := (walkKeeps_dirty c).markUsed (withoutPacket s p) (partOf (hartAt (withoutPacket s p) p.core)) p.entries true
  unfold performPacket
  dsimp only
  split
  · exact hmark.trans (dirty_placeBytes ..)
  · exact hmark.trans ((dirty_placeBytes ..).trans (dirty_placeBytes ..))

theorem dirty_performWindow (s : State) (fuel : Nat) : DirtyFrom c s.dirty (performWindow s fuel).dirty := by
  fun_induction performWindow s fuel with
  | case1 => exact .refl _
  | case2 => rename_i ih; exact (dirty_performPacket ..).trans ih
  | case3 => exact .refl _

theorem dirty_arrive (s : State) (p : Packet) : DirtyFrom c s.dirty (arrive s p).dirty :=
  dirty_performWindow (setTransit (unsuspect s p.id) p.id .window) s.packets.length

theorem dirty_drainRecovery (s : State) (e : Nat) : DirtyFrom c s.dirty (drainRecovery s e).dirty := dirty_foldl _ dirty_arrive _ s

theorem dirty_atHomeOf (s : State) (p : Place) : DirtyFrom c s.dirty (atHomeOf s p).dirty := by
  unfold atHomeOf
  split
  · exact dirty_drainRecovery ..
  · exact .refl _

theorem dirty_performNext (s : State) (p : Packet) : DirtyFrom c s.dirty (performNext s p).dirty := by
  unfold performNext
  dsimp only
  split
  · exact (dirty_drainRecovery ..).trans (dirty_performPacket ..)
  · exact dirty_drainRecovery ..

theorem dirty_performPackets (s : State) (f : Packet → Bool) : DirtyFrom c s.dirty (performPackets s f).dirty :=
  dirty_foldl _ dirty_performNext _ s

theorem dirty_roomInL1 (s : State) (core pa : Nat) : DirtyFrom c s.dirty (roomInL1 s core pa).dirty := by
  unfold roomInL1
  dsimp only
  split
  · exact .refl _
  · split
    · exact .refl _
    · exact .filter _ _

/-- A scalar store makes bytes of its own core dirty. -/
theorem dirty_dirtyFor (s : State) (pa size : Nat) : DirtyFrom c s.dirty (s.dirty ++ dirtyFor s c pa size) :=
  ⟨fun b hb => (List.mem_append.1 hb).imp id (fun hnew => by
    obtain ⟨i, -, hi⟩ := List.mem_filterMap.1 hnew
    split at hi
    · cases hi
    · rw [← Option.some.inj hi])⟩

theorem dirty_performStore (s : State) (st : Store) : DirtyFrom c s.dirty (performStore s c st).dirty := by
  rw [← dropOlds_dirty s c st.place]
  unfold performStore
  dsimp only
  split
  · exact .of_eq (onCore_dirty ..)
  · exact .of_eq (onCore_dirty ..)
  · refine ((walkKeeps_dirty c).markUsed (dropOlds s c st.place) (partOf (hartAt (dropOlds s c st.place) c)) st.entries true).trans ?_
    split
    · rw [classPushes_dirty]
      exact dirty_writeHome ..
    · rw [classPushes_dirty]
      refine DirtyFrom.trans ?_ (dirty_writeHome ..)
      exact (dirty_roomInL1 ..).trans (dirty_dirtyFor ..)

theorem dirty_performBuffered (s : State) (st : Store) : DirtyFrom c s.dirty (performBuffered s c st).dirty := by
  have hpackets : DirtyFrom c s.dirty
      (if st.release then performPackets s (fun p => p.core == c && decide (p.seq ≤ st.after)) else s).dirty := by
    split
    · exact dirty_performPackets ..
    · exact .refl _
  have hstore := hpackets.trans ((dirty_atHomeOf _ st.place).trans (dirty_performStore _ st))
  unfold performBuffered
  dsimp only
  split <;> exact hstore

theorem dirty_flushHart (s : State) : DirtyFrom c s.dirty (flushHart s c).dirty := by
  refine (dirty_performPackets s (fun p => p.core == c)).trans ?_
  rw [← onCore_dirty (performPackets s (fun p => p.core == c)) c]
  exact dirty_foldl _ dirty_performBuffered _ _

end Dirty

/-! ### One member performs its accesses (R104) -/

/-- Performing the accesses of one hart leaves another's registers and its buffer. -/
theorem hartAt_flushHart_other (s : State) {core d : Nat} (h : core ≠ d) :
    withoutMemories (hartAt (flushHart s core) d) = withoutMemories (hartAt s d) := by
  have hkeep := flushKeeps_harts withoutMemories (fun _ _ _ _ _ => rfl)
  have hdrain := hartAt_of_map_harts core_withoutMemories (hkeep.drainBuffer (performPackets s (fun p => p.core == core)) core) d
  rw [hartAt_onCore_other _ core d (withoutOldest _) (fun _ => rfl) h] at hdrain
  exact hdrain.trans (hartAt_of_map_harts core_withoutMemories (hkeep.performPackets s _) d)

/-- What GSYNC does for the member on core `c`. -/
def syncAs (s : State) (c : Nat) : State :=
  advance (cleanL1 (flushHart (focus s c) (focus s c).hart.core) (focus s c).hart.core)

theorem execGsync_eq (s : State) : exec .gsync s = .next (eachMember s (gangNow s) (fun u =>
    .next (advance (cleanL1 (flushHart u u.hart.core) u.hart.core)))) := rfl

theorem coresOf_syncAs (s : State) (c : Nat) : coresOf (syncAs s c) = coresOf s := by
  rw [syncAs, cores_advance, cores_cleanL1, cores_flushHart, coresOf_focus]

theorem onlyHarts_lists {s t : State} (h : onlyHarts s t) : t.packets = s.packets ∧ t.dirty = s.dirty := by
  obtain ⟨_, _, rfl⟩ := h
  exact ⟨rfl, rfl⟩

theorem packets_syncAs (s : State) {c : Nat} (hc : c ∈ coresOf s) :
    ∀ q ∈ (syncAs s c).packets, q.core ≠ c ∧ ∃ p ∈ s.packets, p.core = q.core := by
  have hself : (focus s c).hart.core = c := by rw [focus_hart s c hc, core_hartAt]
  intro q hq
  change q ∈ (flushHart (focus s c) (focus s c).hart.core).packets at hq
  rw [hself] at hq
  refine ⟨packets_flushHart _ c q hq, ?_⟩
  obtain ⟨p, hp, -, hpc⟩ := flushKeeps_packets.drainBuffer _ c q hq
  rw [onCore_packets] at hp
  obtain ⟨o, ho, -, hoc⟩ := flushKeeps_packets.performPackets (focus s c) _ p hp
  exact ⟨o, (onlyHarts_lists (onlyHarts_focus s c)).1 ▸ ho, (hpc.trans hoc).symm⟩

theorem dirty_syncAs (s : State) {c : Nat} (hc : c ∈ coresOf s) : ∀ b ∈ (syncAs s c).dirty, b.core ≠ c ∧ b ∈ s.dirty := by
  have hself : (focus s c).hart.core = c := by rw [focus_hart s c hc, core_hartAt]
  intro b hb
  change b ∈ (flushHart (focus s c) (focus s c).hart.core).dirty.filter (fun b => b.core != (focus s c).hart.core) at hb
  rw [hself] at hb
  obtain ⟨hb, hne⟩ := List.mem_filter.1 hb
  have hne : b.core ≠ c := by simpa using hne
  refine ⟨hne, ?_⟩
  have hfrom := ((dirty_flushHart (focus s c)).bytes b hb).resolve_right hne
  exact (onlyHarts_lists (onlyHarts_focus s c)).2 ▸ hfrom

theorem hartAt_syncAs_other (s : State) {c d : Nat} (hs : coresApart s) (hc : c ∈ coresOf s) (hd : d ∈ coresOf s) (h : d ≠ c) :
    withoutMemories (hartAt (syncAs s c) d) = withoutMemories (hartAt s d) := by
  have hself : (focus s c).hart.core = c := by rw [focus_hart s c hc, core_hartAt]
  have hflush := (List.cons.inj (harts_flushHart (focus s c) c)).1
  have hcore := (core_withoutStores _ _ hflush).trans hself
  rw [← hartAt_focus s c d hs hd, ← hartAt_flushHart_other (focus s c) (Ne.symm h)]
  unfold syncAs
  rw [hself]
  have hgo := hartAt_other_congr (s := flushHart (focus s c) c) (u := advance (cleanL1 (flushHart (focus s c) c) c)) rfl rfl d
    (by rwa [hcore])
  rw [hgo]

/-- A member that has performed its accesses and goes on. -/
def synced (h g : Hart) : Prop := g.pc = h.pc + 4 ∧ g.regs = h.regs ∧ g.buffer = []

theorem synced_congr {h g k : Hart} (e : withoutMemories k = withoutMemories g) (hg : synced h g) : synced h k := by
  obtain ⟨hpc, hregs, hbuffer⟩ := hg
  have epc := congrArg Hart.pc e
  have eregs := congrArg Hart.regs e
  have ebuffer := congrArg Hart.buffer e
  exact ⟨Eq.trans epc hpc, Eq.trans eregs hregs, Eq.trans ebuffer hbuffer⟩

theorem drains_congr {g h : Hart} (e : withoutMemories g = withoutMemories h) (hd : drains h) : drains g := by
  have hbuffer : g.buffer = h.buffer := by
    have e := congrArg Hart.buffer e
    exact e
  intro st hst
  have hready := congrArg (fun h => storeReady h st) e
  exact Eq.trans hready (hd st (hbuffer ▸ hst))

theorem hartAt_syncAs_self (s : State) {c : Nat} (hc : c ∈ coresOf s) (hd : drains (hartAt s c)) :
    synced (hartAt s c) (hartAt (syncAs s c) c) := by
  have hfocus := focus_hart s c hc
  have hself : (focus s c).hart.core = c := by rw [hfocus, core_hartAt]
  have hat : hartAt (focus s c) c = hartAt s c := (if_pos hself).trans hfocus
  have hflush := (List.cons.inj (harts_flushHart (focus s c) c)).1
  rw [hfocus] at hflush
  have hcore := (core_withoutStores _ _ hflush).trans (core_hartAt s c)
  have hsync : hartAt (syncAs s c) c = { (flushHart (focus s c) c).hart with pc := (flushHart (focus s c) c).hart.pc + 4 } := by
    unfold syncAs
    rw [hself]
    exact if_pos hcore
  obtain ⟨hpc, hregs, -, -⟩ := launch_withoutStores hflush
  have hbuffer := buffer_flushHart (focus s c) c (by rwa [coresOf_focus]) (by rwa [hat])
  rw [hartAt, if_pos hcore] at hbuffer
  rw [hsync]
  exact ⟨congrArg (· + 4) hpc, hregs, hbuffer⟩

/-! ### GSYNC (R104, R261) -/

/-- What GSYNC does for one member after another. -/
def syncMember (s : State) (h : Hart) : State := if (hartAt s h.core).owner = h.owner then syncAs s h.core else s

/-- What has been done once some members have performed their accesses and gone on. -/
structure Synced (s : State) (ms : List Hart) (t : State) : Prop where
  cores : coresOf t = coresOf s
  others : ∀ d ∈ coresOf s, d ∉ ms.map (·.core) → withoutMemories (hartAt t d) = withoutMemories (hartAt s d)
  members : ∀ h ∈ ms, synced h (hartAt t h.core)
  packets : ∀ q ∈ t.packets, q.core ∉ ms.map (·.core) ∧ ∃ p ∈ s.packets, p.core = q.core
  dirty : ∀ b ∈ t.dirty, b.core ∉ ms.map (·.core) ∧ b ∈ s.dirty

theorem synced_foldl (ms : List Hart) (s : State) (hs : coresApart s) (hin : ∀ h ∈ ms, h.core ∈ coresOf s)
    (hn : (ms.map (·.core)).Nodup) (hat : ∀ h ∈ ms, withoutMemories (hartAt s h.core) = withoutMemories h)
    (hdrains : ∀ h ∈ ms, drains h) : Synced s ms (ms.foldl syncMember s) := by
  induction ms generalizing s with
  | nil =>
    exact ⟨rfl, fun _ _ _ => rfl, fun _ h => absurd h List.not_mem_nil, fun q hq => ⟨List.not_mem_nil, q, hq, rfl⟩,
      fun b hb => ⟨List.not_mem_nil, hb⟩⟩
  | cons m ms ih =>
    obtain ⟨hnm, hn⟩ := List.nodup_cons.1 hn
    simp only [List.forall_mem_cons] at hin hat hdrains
    obtain ⟨hm, hin⟩ := hin
    obtain ⟨hatm, hat⟩ := hat
    obtain ⟨hdm, hdrains⟩ := hdrains
    have hstep : syncMember s m = syncAs s m.core := by
      have howner := congrArg Hart.owner hatm
      exact if_pos howner
    have hcores := coresOf_syncAs s m.core
    have hself : synced m (hartAt (syncAs s m.core) m.core) := by
      obtain ⟨hpc, hregs, hbuffer⟩ := hartAt_syncAs_self s hm (drains_congr hatm hdm)
      have epc := congrArg Hart.pc hatm
      have eregs := congrArg Hart.regs hatm
      exact ⟨hpc.trans (congrArg (· + 4) epc), hregs.trans eregs, hbuffer⟩
    have hother : ∀ d ∈ coresOf s, d ≠ m.core → withoutMemories (hartAt (syncAs s m.core) d) = withoutMemories (hartAt s d) :=
      fun d hd hne => hartAt_syncAs_other s hs hm hd hne
    have hne : ∀ h ∈ ms, h.core ≠ m.core := fun h hh e => hnm (List.mem_map.2 ⟨h, hh, e⟩)
    rw [List.foldl_cons, hstep]
    obtain ⟨hc, ho, hmem, hp, hd⟩ := ih (syncAs s m.core) (coresApart_of_cores hcores hs) (fun h hh => hcores ▸ hin h hh) hn
      (fun h hh => (hother _ (hin h hh) (hne h hh)).trans (hat h hh)) hdrains
    rw [hcores] at hc ho
    refine ⟨hc, fun d hdc hnot => ?_, ?_, fun q hq => ?_, fun b hb => ?_⟩
    · rw [List.map_cons, List.mem_cons, not_or] at hnot
      exact (ho d hdc hnot.2).trans (hother d hdc hnot.1)
    · rw [List.forall_mem_cons]
      exact ⟨synced_congr (ho m.core hm hnm) hself, hmem⟩
    · obtain ⟨hnot, p, hpm, hpq⟩ := hp q hq
      obtain ⟨hpne, o, hom, hop⟩ := packets_syncAs s hm p hpm
      rw [List.map_cons, List.mem_cons, not_or]
      exact ⟨⟨hpq ▸ hpne, hnot⟩, o, hom, hop.trans hpq⟩
    · obtain ⟨hnot, hbm⟩ := hd b hb
      obtain ⟨hbne, hbs⟩ := dirty_syncAs s hm b hbm
      rw [List.map_cons, List.mem_cons, not_or]
      exact ⟨⟨hbne, hnot⟩, hbs⟩

end Sys2Proof.Machine

namespace Sys2Proof.Claims

open Sys2Proof.Machine

theorem gsync_completes (s : State) (hs : coresApart s) (hdrains : ∀ h ∈ gangNow s, drains h) :
    ∃ t, exec .gsync s = .next t ∧ membersNow s t (fun h g => g.buffer = [] ∧ g.regs = h.regs) ∧
      ∀ h ∈ gangNow s, (∀ p ∈ t.packets, p.core ≠ h.core) ∧ ∀ b ∈ t.dirty, b.core ≠ h.core := by
  have hin := gangNow_core_mem s
  have hsynced := synced_foldl (gangNow s) s hs hin (gangCores_nodup s hs)
    (fun h hh => congrArg withoutMemories (hartAt_of_mem s hs h (gangNow_sub s h hh))) hdrains
  generalize hu : (gangNow s).foldl syncMember s = u at hsynced
  obtain ⟨hcores, -, hmembers, hpackets, hdirty⟩ := hsynced
  obtain ⟨hfp, hfd⟩ := onlyHarts_lists (onlyHarts_focus u s.hart.core)
  refine ⟨focus u s.hart.core, ?_, fun h hh => ?_, fun h hh => ⟨fun p hp e => ?_, fun b hb e => ?_⟩⟩
  · rw [execGsync_eq, ← hu]
    rfl
  · rw [hartAt_focus u _ _ (coresApart_of_cores hcores hs) (hcores ▸ hin h hh)]
    obtain ⟨hpc, hregs, hbuffer⟩ := hmembers h hh
    exact ⟨hpc, hbuffer, hregs⟩
  · exact (hpackets p (hfp ▸ hp)).1 (e ▸ List.mem_map_of_mem hh)
  · exact (hdirty b (hfd ▸ hb)).1 (e ▸ List.mem_map_of_mem hh)

/-! ### SFENCE.T (R334) -/

/-- The members of a gang are the same in two states whose harts agree in all that `w` keeps. -/
theorem gangNow_map {w : Hart → Hart} (hw : ∀ h, (w h).core = h.core ∧ (w h).owner = h.owner) {s u : State} (h : SameHarts w s u) :
    (gangNow u).map w = (gangNow s).map w := by
  have hmap : u.harts.map w = s.harts.map w := h
  have hhart : w u.hart = w s.hart := (List.cons.inj h).1
  have howner : u.hart.owner = s.hart.owner := by rw [← (hw u.hart).2, hhart, (hw s.hart).2]
  have hcore : u.hart.core = s.hart.core := by rw [← (hw u.hart).1, hhart, (hw s.hart).1]
  have hsize : gangSize u.hart = gangSize s.hart := by rw [gangSize, gangSize, howner]
  unfold gangNow
  rw [hsize]
  split
  · rw [List.map_singleton, List.map_singleton, hhart]
  · unfold gangMembers
    rw [List.map_filterMap, List.map_filterMap, hsize, howner, hcore]
    exact List.filterMap_congr (fun m _ => find?_map_of_map_eq hmap _ (fun x => by rw [(hw x).1, (hw x).2]))

/-- What holds of every hart holds of every hart once some have acted in turn. -/
theorem forall_harts_foldl_actAs (P : Hart → Prop) {f : Hart → Hart} (hf : ∀ h, P h → P (f h)) (cs : List Nat) (s : State)
    (h : ∀ g ∈ s.harts, P g) : ∀ g ∈ (cs.foldl (actAs f) s).harts, P g := by
  induction cs generalizing s with
  | nil => exact h
  | cons c cs ih =>
    have hfocus : ∀ g ∈ (focus s c).harts, P g := fun g hg => h g ((mem_harts_focus s c g).1 hg)
    simp only [State.harts, List.forall_mem_cons] at hfocus
    refine ih (actAs f s c) ?_
    simp only [State.harts, actAs, List.forall_mem_cons]
    exact ⟨hf _ hfocus.1, hfocus.2⟩

theorem forall_harts_eachMember (P : Hart → Prop) {f : Hart → Hart} (hcore : ∀ h, (f h).core = h.core) (hf : ∀ h, P h → P (f h))
    (s : State) (hs : coresApart s) (h : ∀ g ∈ s.harts, P g) :
    ∀ g ∈ (eachMember s (gangNow s) (fun u => .next { u with hart := f u.hart })).harts, P g := by
  rw [eachMember_eq_foldl hcore s hs (gangNow s) (gangNow_sub s) (gangCores_nodup s hs)]
  intro g hg
  exact forall_harts_foldl_actAs P hf _ s h g ((mem_harts_focus _ _ g).1 hg)

/-- A hart that goes on to its next word. -/
def goOn (h : Hart) : Hart := { h with pc := h.pc + 4 }

/-- Whether SFENCE.T of the acting hart's gang drops a cached translation. -/
def fenceDrops (s : State) (a : SReg) : TlbEntry → Bool :=
  fenced (partOf (leaderNow s)) (modeOf (leaderNow s) == 2)
    (if a = 0 then none else some (getReg (focus s (leaderNow s).core) a).toNat)

/-- The engines of a hart behind SFENCE.T: those of the partition translate their addresses afresh. -/
def fencedEngines (s : State) (h : Hart) : List Engine :=
  if partOf h = partOf (leaderNow s) then h.engines.map (dropPlaces (fun _ => true)) else h.engines

/-- A hart behind SFENCE.T. -/
def fencedHart (s : State) (a : SReg) (h : Hart) : Hart :=
  { h with tlb := h.tlb.filter (fun e => !fenceDrops s a e), engines := fencedEngines s h }

/-- The module once SFENCE.T has dropped the translations that it fences. -/
def fencedState (s : State) (a : SReg) : State :=
  let s1 := flushHart s (leaderNow s).core
  onHarts { s1 with
    dieTlb := s1.dieTlb.filter (fun x => !fenceDrops s a x.2)
    husks := s1.husks.map (fun k => { k with image := { k.image with engines := fencedEngines s k.image } }) } (fencedHart s a)

theorem harts_fencedState_eq (s : State) (a : SReg) :
    (fencedState s a).harts = (flushHart s (leaderNow s).core).harts.map (fencedHart s a) := rfl

theorem exec_sfenceT (s : State) (a : SReg) (hsup : supervisor s.hart = true) :
    exec (.sfenceT a) s = .next (eachMember (fencedState s a) (gangNow (fencedState s a)) (fun u =>
      .next { u with hart := goOn u.hart })) := by
  show execSfenceT a s = _
  unfold execSfenceT jointPrivileged
  rw [if_pos hsup]
  rfl

/-- A hart without what performing its accesses and fencing its translations changes. -/
def withoutWork (h : Hart) : Hart := { withoutStores h with engines := [] }

theorem harts_fencedState (s : State) (a : SReg) : SameHarts withoutWork s (fencedState s a) := by
  have hflush := congrArg (List.map (fun h : Hart => { h with engines := [] })) (harts_flushHart s (leaderNow s).core)
  rw [List.map_map, List.map_map] at hflush
  rw [SameHarts, harts_fencedState_eq, List.map_map]
  exact hflush

theorem coresOf_fencedState (s : State) (a : SReg) : coresOf (fencedState s a) = coresOf s := by
  refine (coresOf_onHarts _ _ ?_).trans ?_
  · exact fun _ => rfl
  · exact cores_flushHart s (leaderNow s).core

/-- A translation that SFENCE.T does not drop is none that it fences (R331, R334). -/
theorem not_fenceDrops (s : State) (a : SReg) (e : TlbEntry) (h : fenceDrops s a e = false) (hp : e.part = partOf (leaderNow s)) :
    let va := (getReg (focus s (leaderNow s).core) a).toNat
    (modeOf (leaderNow s) ≠ 2 → e.stage = 1 → a ≠ 0 ∧ va / e.spans.1 ≠ e.page / e.spans.1) ∧
      (modeOf (leaderNow s) = 2 → a ≠ 0 ∧ va / e.spans.2 ≠ e.ipa / e.spans.2) := by
  unfold fenceDrops fenced at h
  refine ⟨fun hm he => ?_, fun hm => ?_⟩
  · by_cases ha : a = 0
    · simp [hp, he, ha] at h
    · simpa [hp, hm, he, ha] using h
  · by_cases ha : a = 0
    · simp [hp, hm, ha] at h
    · simpa [hp, hm, ha] using h

theorem sfenceT_fences (s : State) (a : SReg) (hs : coresApart s) (hsup : supervisor s.hart = true) :
    ∃ t, exec (.sfenceT a) s = .next t ∧ membersNow s t (fun h g => g.regs = h.regs ∧ g.csr = h.csr) ∧
      (∀ h ∈ t.harts, ∀ e ∈ h.tlb, fenceDrops s a e = false) ∧ ∀ x ∈ t.dieTlb, fenceDrops s a x.2 = false := by
  have hapart := coresApart_of_cores (coresOf_fencedState s a) hs
  obtain ⟨honly, hat⟩ := eachMember_gang (f := goOn) (fun _ => rfl) (fencedState s a) hapart
  refine ⟨_, exec_sfenceT s a hsup, fun h hh => ?_, ?_, ?_⟩
  · obtain ⟨g, hg, he⟩ : ∃ g ∈ gangNow (fencedState s a), withoutWork g = withoutWork h :=
      List.mem_map.1 (gangNow_map (w := withoutWork) (fun _ => ⟨rfl, rfl⟩) (harts_fencedState s a) ▸ List.mem_map_of_mem hh)
    have hcore : g.core = h.core := by
      have e := congrArg Hart.core he
      exact e
    have hpc := congrArg Hart.pc he
    have hregs := congrArg Hart.regs he
    have hcsr := congrArg Hart.csr he
    rw [← hcore, hat g hg]
    exact ⟨congrArg (· + 4) hpc, hregs, hcsr⟩
  · refine forall_harts_eachMember (f := goOn) (fun h => ∀ e ∈ h.tlb, fenceDrops s a e = false) (fun _ => rfl) (fun _ h => h) _
      hapart (fun g hg e he => ?_)
    rw [harts_fencedState_eq] at hg
    obtain ⟨h, -, rfl⟩ := List.mem_map.1 hg
    simpa using (List.mem_filter.1 he).2
  · obtain ⟨_, _, ht⟩ := honly
    rw [ht]
    intro x hx
    simpa using (List.mem_filter.1 hx).2

theorem gangWideFences : GangWideFences := by
  intro s hs
  refine ⟨gsync_completes s hs, fun a hsup => ?_⟩
  obtain ⟨t, ht, hmem, hharts, hdie⟩ := sfenceT_fences s a hs hsup
  exact ⟨t, ht, hmem, fun h hh e he => not_fenceDrops s a e (hharts h hh e he), fun x hx => not_fenceDrops s a x.2 (hdie x hx)⟩

/-! ### HARVEST (R267, R335) -/

/-- Reading and clearing D bits leaves the harts. -/
theorem hartsFrame_harvest (s : State) (core part : Nat) (hyper : Bool) (base size : Nat) :
    hartsFrame (harvest s core part hyper base size).2 = hartsFrame s := by
  have hwrite : ∀ u keep pa size v, hartsFrame (writeHome u keep pa size v) = hartsFrame u := fun u keep pa size v => by
    rw [hartsFrame, hartsFrame, writeHome_hart, writeHome_others]
  have hmarks : ∀ (own : List Nat) (u : State), hartsFrame (own.foldl (fun s x => (markEntry s part x true).2) u) = hartsFrame u := by
    intro own
    induction own with
    | nil => exact fun _ => rfl
    | cons x own ih =>
      exact fun u => (ih _).trans (markEntry_induction (fun v => hartsFrame v = hartsFrame u) u part x true rfl
        (fun v a w hv => (hwrite ..).trans hv))
  unfold harvest
  generalize List.range 64 = pages
  suffices h : ∀ acc : Nat × State, hartsFrame (pages.foldl _ acc).2 = hartsFrame acc.2 from h (0, s)
  induction pages with
  | nil => exact fun _ => rfl
  | cons i pages ih =>
    intro acc
    rw [List.foldl_cons, ih]
    split
    · rfl
    · dsimp only
      split
      · exact (hmarks _ _).trans (hwrite ..)
      · rfl

theorem exec_harvest (s : State) (d a : SReg) (hsup : supervisor s.hart = true) (hfree : ∀ h ∈ gangNow s, frozen h d = false) :
    let l := leaderNow s
    let v := (getReg (focus s l.core) a).toNat
    let z := classSize (v % 8)
    let x := harvest s l.core (partOf l) (modeOf l == 2) (v / (64 * z) * (64 * z)) z
    exec (.harvest d a) s = .next (if 5 ≤ v % 8 then jointResult s d 0 else jointResult x.2 d (word x.1)) := by
  show execHarvest d a s = _
  unfold execHarvest jointPrivileged
  rw [if_pos hsup, jointGuard_free s d _ hfree]
  dsimp only
  split <;> rfl

theorem harvestResults : HarvestResults := by
  intro s d a hs hsup hfree l v
  have hexec := exec_harvest s d a hsup hfree
  by_cases hv : 5 ≤ v % 8
  · obtain ⟨honly, htook⟩ := jointResult_took s hs d 0
    refine ⟨_, hexec.trans (congrArg _ (if_pos hv)), fun _ => ⟨fun h hh => ?_, (onlyHarts_frame honly).2⟩, fun hlt => by omega⟩
    obtain ⟨hpc, hregs⟩ := htook h hh
    refine ⟨hpc, fun r => (hregs r).trans ?_⟩
    by_cases hr : r = d
    · by_cases hd : d = 0
      · rw [if_neg (fun h => h.2 hd), if_pos hr, hr, hd]
        rfl
      · rw [if_pos ⟨hr, hd⟩, if_pos hr]
    · rw [if_neg (fun h => hr h.1), if_neg hr]
      rfl
  · obtain ⟨hhart, hothers⟩ := Prod.mk.inj (hartsFrame_harvest s l.core (partOf l) (modeOf l == 2)
      (v / (64 * classSize (v % 8)) * (64 * classSize (v % 8))) (classSize (v % 8)))
    obtain ⟨honly, htook⟩ := jointResult_took_of_harts hs hhart hothers d (word _)
    exact ⟨_, hexec.trans (congrArg _ (if_neg hv)), fun hge => absurd hge hv, fun _ => ⟨htook, (onlyHarts_frame honly).2⟩⟩

/-- Settles O19: each member of the gang performs its own accesses, and what the leader fences or harvests leaves the gang as it is. -/
theorem gangFences : Obligations.GangFences := ⟨gangWideFences, harvestResults⟩

end Sys2Proof.Claims

/-! Plain vector stores: one packet for each active element (R92, R207, R210, R365). -/

namespace Sys2Proof.Machine

open Sys2Proof.Claims

theorem tagBytes_pos (t : Nat) : 0 < tagBytes t := by
  unfold tagBytes
  split <;> decide

/-- What the packet of element `e` of a plain store says (R210). -/
def elementSending (s : State) (r tag : Nat) (place : Nat → Place) (entries : Nat → List (Nat × Bool)) (e : Nat) : Sending :=
  ⟨e, place e, none, tagBytes tag, getElem s.hart r (narrowTag tag) e, 2 ^ tagBits tag - 1, entries e⟩

theorem storePackets_eq (s : State) (r tag n : Nat) (act : Nat → Bool) (place : Nat → Place) (entries : Nat → List (Nat × Bool)) :
    storePackets s r tag n act place entries =
      sentAs s (((List.range n).filter act).map (elementSending s r tag place entries)) := rfl

/-- The elements of a plain store are sent one after another. -/
theorem sends_storeElems {s u : State} {xs : List Sending} {x : Word} (hs : Sends s u xs x) (f : Form) (r tag : Nat) {local_ : Bool}
    (addr : Nat → Word) (place : Nat → Place) (es : List Nat)
    (hland : ∀ e ∈ es, lands s local_ f.kind (addr e) (tagBytes tag) (place e)) :
    Sends s (storeElems u f (fun e => [⟨addr e, tagBytes tag⟩]) r tag (es.map (fun e => (e, [place e]))))
      (xs ++ es.map (elementSending s r tag place (fun e => entriesAt s local_ (addr e)))) x := by
  induction es generalizing u xs with
  | nil =>
    rw [List.map_nil, List.map_nil, List.append_nil]
    exact hs
  | cons e es ih =>
    simp only [List.forall_mem_cons] at hland
    obtain ⟨he, hes⟩ := hland
    have hvalue : getElem (markPieces u f [⟨addr e, tagBytes tag⟩]).2.hart r (narrowTag tag) e = getElem s.hart r (narrowTag tag) e := by
      have e := congrArg (fun h => getElem h r (narrowTag tag) e) ((acting_markPieces u f [⟨addr e, tagBytes tag⟩]).trans hs.hart)
      exact e
    have hsend := hs.send f (elementSending s r tag place (fun e => entriesAt s local_ (addr e)) e)
      (List.Forall₂.cons (a := (⟨addr e, tagBytes tag⟩ : Piece)) he .nil) (List.append_nil _).symm (tagBytes_pos tag)
    rw [List.map_cons, List.map_cons, List.append_cons]
    refine ih ?_ hes
    dsimp only
    rw [hvalue]
    exact hsend

/-- An access that performs all its elements without a trap goes on (R208). -/
theorem finish_served {s : State} (hm0 : s.hart.restart.useM0 = false) (tags : Vector (BitVec 4) 64) (f : Form) (n : Nat)
    (els : List (Nat × List Place)) : finish s tags f ⟨n, none, els, none, [], none⟩ = .next (advance s) := by
  unfold finish
  dsimp only
  rw [hm0, if_neg (by decide)]

/-- A plain store whose active elements are aligned and served sends them in order and goes on. -/
theorem vecStore_runs {s : State} (t : VReg) (f : Form) (n : Nat) (addr : Nat → Word) (hr : freshStart s.hart) (hb : s.bad = [])
    (hwrite : f.write = true) (hread : f.read = false) (hw : f.w = tagBytes (tagOfReg s.hart t.val)) {local_ : Bool} {place : Nat → Place}
    (h : ∀ e, e < n → active s.hart f.m e = true → (addr e).toNat % tagBytes (tagOfReg s.hart t.val) = 0 ∧
      lands s local_ .write (addr e) (tagBytes (tagOfReg s.hart t.val)) (place e)) :
    let tag := tagOfReg s.hart t.val
    ∃ v, vecStore s t f n addr = .next (advance v) ∧
      Sends s v (((List.range n).filter (active s.hart f.m)).map
        (elementSending s t.val tag place (fun e => entriesAt s local_ (addr e)))) s.hart.csr.fcsr := by
  intro tag
  have hkind : f.kind = .write := by rw [Form.kind, hwrite]; rfl
  have hmem : ∀ e ∈ (List.range n).filter (active s.hart f.m), lands s local_ f.kind (addr e) (tagBytes tag) (place e) := fun e he => by
    obtain ⟨hlt, ha⟩ : e < n ∧ active s.hart f.m e = true := by simpa using he
    exact hkind ▸ (h e hlt ha).2
  have hsends := sends_storeElems (Sends.refl s) f t.val tag addr place _ hmem
  refine ⟨_, ?_, hsends⟩
  have haccess := fun k => vecAccess_lands (s := s) (f := f) (n := n) (pieces := fun e => [⟨addr e, tagBytes tag⟩])
    (place := fun e => [place e]) (local_ := local_) k hr (by rw [hwrite, hread]; rfl) hb
    (fun e _ _ => ⟨_, [], rfl, tagBytes_pos tag⟩)
    (fun e he ha => ⟨hw ▸ (h e he ha).1, .cons (hkind ▸ (h e he ha).2) .nil⟩)
  have hm0 := (congrArg (fun g : Hart => g.restart.useM0) hsends.hart).trans (congrArg Restart.useM0 hr)
  unfold vecStore
  rw [haccess]
  exact finish_served hm0 _ f n _

/-- A store that goes on has sent its packets. -/
theorem Sends.advance_sent {s v : State} {xs : List Sending} (h : Sends s v xs s.hart.csr.fcsr) :
    sent s (advance v) (sentAs s xs) id := by
  have hlen : (sentAs s xs).length = xs.length := length_sentAs s xs
  refine ⟨fun hw => ?_, hlen ▸ h.serial, h.packets, congrArg (· + 4) h.pc, h.regs, h.csr, h.vec, h.engines⟩
  rw [h.fits hw, hlen]
  rfl

end Sys2Proof.Machine

namespace Sys2Proof.Claims

open Sys2Proof.Machine

/-- What a row of the plain stores executes: its operands checked, then its elements stored (R210). -/
theorem exec_vstoreRow (s : State) (i : Instr) (t : VReg) (m : MReg) (vi : Option VReg) (addr : Nat → Word)
    (hi : vstoreRow s i = some (t, m, vi, addr)) :
    ∃ file reg, exec i s = checkStore s t vi (vecStore s t ⟨m, tagBytes (tagOfReg s.hart t.val), true, false, false, file, reg⟩
      (lengthOf s.hart) addr) := by
  unfold vstoreRow at hi
  split at hi
  · cases hi
    exact ⟨_, _, rfl⟩
  · cases hi
    exact ⟨_, _, rfl⟩
  · cases hi
    exact ⟨_, _, rfl⟩
  · cases hi

/-- Settles O29: the elements are sent one after another (`sends_storeElems`), each by one packet (`Sends.send`). -/
theorem vectorStoreResults : Obligations.VectorStoreResults := by
  unfold Obligations.VectorStoreResults
  intro s i t m vi addr hi hr hb hreject n tag local_ place h
  obtain ⟨file, reg, hexec⟩ := exec_vstoreRow s i t m vi addr hi
  obtain ⟨v, hv, hsends⟩ := vecStore_runs t ⟨m, tagBytes (tagOfReg s.hart t.val), true, false, false, file, reg⟩ n addr hr hb rfl rfl rfl h
  refine ⟨advance v, ?_, hsends.advance_sent⟩
  rw [hexec, checkStore, hreject]
  exact hv

end Sys2Proof.Claims

/-! The network: packets that arrive, suspects, the lamp and its recovery, NETCTL (R118, R364 to R370). -/

namespace Sys2Proof.Machine

open Sys2Proof.Claims

/-! ### A packet that is performed (R118) -/

@[simp] theorem markUsed_packets (s : State) (part : Nat) (es : List (Nat × Bool)) (wr : Bool) :
    (markUsed s part es wr).packets = s.packets :=
  markUsed_induction (fun u => u.packets = s.packets) s part es wr rfl (fun u a v hu => by rw [writeHome_packets, hu])

@[simp] theorem dropOlds_packets (s : State) (core : Nat) (p : Place) : (dropOlds s core p).packets = s.packets := by
  unfold dropOlds
  split <;> rfl

@[simp] theorem placeBytes_packets (s : State) (core qos : Nat) (p : Place) (size data mask : Nat) :
    (placeBytes s core qos p size data mask).packets = s.packets := by
  rw [← dropOlds_packets s core p]
  unfold placeBytes
  dsimp only
  split
  · exact onCore_packets ..
  · exact onCore_packets ..
  · exact writeBytes_packets ..

theorem performPacket_packets (s : State) (p : Packet) :
    (performPacket s p).packets = s.packets.filter (fun q => q.id != p.id) := by
  unfold performPacket
  dsimp only
  split <;> simp only [placeBytes_packets, markUsed_packets]

/-- Setting A and D bits looks at memory and at the owners of its blocks alone. -/
theorem markEntry_congr {s u : State} (hmem : u.mem = s.mem) (hhome : homeFrame u = homeFrame s) (part pa : Nat) (wr : Bool) :
    (markEntry u part pa wr).1 = (markEntry s part pa wr).1 ∧ (markEntry u part pa wr).2.mem = (markEntry s part pa wr).2.mem ∧
      homeFrame (markEntry u part pa wr).2 = homeFrame (markEntry s part pa wr).2 := by
  have hword : word8 u pa = word8 s pa := by rw [word8, word8, hmem]
  unfold markEntry
  rw [hword, refusal_of_homeFrame hhome]
  generalize (if wr then 0x300#64 else 0x100#64) = mark
  dsimp only
  split
  · exact ⟨rfl, hmem, hhome⟩
  · refine ⟨rfl, ?_, ?_⟩
    · rw [writeHome_mem, writeHome_mem, hmem]
    · rw [homeFrame_writeHome, homeFrame_writeHome, hhome]

theorem markUsed_congr {s u : State} (hmem : u.mem = s.mem) (hhome : homeFrame u = homeFrame s) (part : Nat) (es : List (Nat × Bool))
    (wr : Bool) : (markUsed u part es wr).mem = (markUsed s part es wr).mem := by
  fun_induction markUsed s part es wr generalizing u with
  | case1 => exact hmem
  | case2 s own e rest r =>
    rename_i ih
    obtain ⟨hr, hmem1, hhome1⟩ := markEntry_congr hmem hhome part e wr
    obtain ⟨-, hmem2, hhome2⟩ := markEntry_congr hmem1 hhome1 part own true
    rw [markUsed, hr]
    refine ih ?_ ?_
    · split
      · exact hmem2
      · exact hmem1
    · split
      · exact hhome2
      · exact hhome1
  | case3 s x rest hx =>
    rename_i ih
    obtain ⟨-, hmem1, hhome1⟩ := markEntry_congr hmem hhome part x.1 wr
    rw [markUsed]
    · exact ih hmem1 hhome1
    · exact hx

/-- Bytes of a store element written in global memory (R85). -/
theorem sget_placeBytes (s : State) (core qos pa size data mask a : Nat) :
    sget (placeBytes s core qos (.phys pa) size data mask).mem a = if pa ≤ a ∧ a < pa + size then
      BitVec.ofNat 8 (mergeBits size (sgetBytes s.mem pa size) data mask / 256 ^ (a - pa)) else sget s.mem a := by
  have hmem := dropOlds_mem s core (.phys pa)
  unfold placeBytes
  dsimp only [classPushes]
  rw [sget_writeBytes]
  simp only [length_natBytes, hmem]
  split
  · rw [getElem_natBytes]
  · rfl

/-- A packet to global memory writes the bits of its data that its mask names, and its entries' A and D bits (R85, R330). -/
theorem sget_performPacket (s : State) (p : Packet) {pa : Nat} (hp : p.place = .phys pa) (hsecond : p.second = none) (a : Nat) :
    let u := markUsed s (partOf (hartAt s p.core)) p.entries true
    sget (performPacket s p).mem a = if pa ≤ a ∧ a < pa + p.size then
      BitVec.ofNat 8 (mergeBits p.size (sgetBytes u.mem pa p.size) p.data p.mask / 256 ^ (a - pa)) else sget u.mem a := by
  intro u
  have hu : (markUsed (withoutPacket s p) (partOf (hartAt s p.core)) p.entries true).mem = u.mem :=
    markUsed_congr (s := s) (u := withoutPacket s p) rfl rfl _ _ _
  have hperform : performPacket s p = placeBytes (markUsed (withoutPacket s p) (partOf (hartAt s p.core)) p.entries true)
      p.core p.qos (.phys pa) p.size p.data p.mask := by
    unfold performPacket
    dsimp only
    rw [hsecond, hp]
    rfl
  rw [hperform, sget_placeBytes, hu]

/-! ### Arrival (R118, R365) -/

/-- A packet that waits in its window. -/
def waiting (p : Packet) : Packet := { p with transit := .window }

/-- The module with a packet at its destination. -/
def arrived (s : State) (p : Packet) : State := setTransit (unsuspect s p.id) p.id .window

theorem arrived_packets (s : State) (p : Packet) :
    (arrived s p).packets = s.packets.map (fun q => if q.id = p.id then waiting q else q) := rfl

theorem precedes_waiting (q p : Packet) : q.precedes (waiting p) = q.precedes p := rfl

theorem waiting_precedes (q p : Packet) : (waiting q).precedes p = q.precedes p := rfl

/-- Who precedes a packet does not change when one arrives. -/
theorem any_precedes_arrived (s : State) (p r : Packet) :
    (arrived s p).packets.any (fun q => q.precedes r) = s.packets.any (fun q => q.precedes r) := by
  have hsame : (fun q : Packet => q.precedes r) ∘ (fun q => if q.id = p.id then waiting q else q) = fun q => q.precedes r := by
    funext q
    rw [Function.comp_apply]
    split
    · exact waiting_precedes q r
    · rfl
  rw [arrived_packets, List.any_map, hsame]

theorem performPacket_arrived_packets (s : State) (p : Packet) :
    (performPacket (arrived s p) (waiting p)).packets = s.packets.filter (fun q => q.id != p.id) := by
  rw [performPacket_packets, arrived_packets, List.filter_map]
  have hsame : ∀ q ∈ s.packets.filter (fun q => q.id != p.id), (if q.id = p.id then waiting q else q) = q := fun q hq => by
    have hne : q.id ≠ p.id := by simpa using (List.mem_filter.1 hq).2
    exact if_neg hne
  have hids : (fun q : Packet => q.id != (waiting p).id) ∘ (fun q => if q.id = p.id then waiting q else q) = fun q => q.id != p.id := by
    funext q
    rw [Function.comp_apply]
    split <;> rfl
  rw [hids, List.map_congr_left hsame, List.map_id']

section Arrive

variable {s : State} {k : Nat} {p : Packet} (hat : packetAt s k p) (hnone : ∀ q ∈ s.packets, q.transit ≠ .window)
include hat

theorem packetAt_unique {q : Packet} (hq : q ∈ s.packets) (hid : q.id = p.id) : q = p := by
  have hmem : q ∈ s.packets.filter (fun q => q.id == p.id) := List.mem_filter.2 ⟨hq, by simpa using hid⟩
  rw [hat.2] at hmem
  exact List.mem_singleton.1 hmem

theorem packetAt_mem : p ∈ s.packets := List.mem_of_getElem? hat.1

include hnone

/-- The packet that arrives is the only one in a window. -/
theorem window_arrived {q : Packet} (hq : q ∈ (arrived s p).packets) (hwin : q.transit = .window) : q = waiting p := by
  rw [arrived_packets] at hq
  obtain ⟨o, ho, rfl⟩ := List.mem_map.1 hq
  by_cases hid : o.id = p.id
  · rw [if_pos hid, packetAt_unique hat ho hid]
  · rw [if_neg hid] at hwin
    exact absurd hwin (hnone o ho)

theorem nextInWindow_arrived_first (hfirst : ∀ q ∈ s.packets, q.precedes p = false) : nextInWindow (arrived s p) = some (waiting p) := by
  have hin : waiting p ∈ (arrived s p).packets := by
    rw [arrived_packets]
    exact List.mem_map.2 ⟨p, packetAt_mem hat, if_pos rfl⟩
  have hready : ((waiting p).transit == .window && !(arrived s p).packets.any (fun q => q.precedes (waiting p))) = true := by
    rw [any_precedes_arrived, Bool.and_eq_true, Bool.not_eq_true', List.any_eq_false]
    exact ⟨rfl, fun q hq => by rw [precedes_waiting, hfirst q hq]; decide⟩
  unfold nextInWindow
  cases hfind : (arrived s p).packets.find? _ with
  | none => exact absurd hready (List.find?_eq_none.1 hfind _ hin)
  | some q =>
    have hq := List.find?_some hfind
    rw [Bool.and_eq_true, beq_iff_eq] at hq
    rw [window_arrived hat hnone (List.mem_of_find?_eq_some hfind) hq.1]

theorem nextInWindow_arrived_later (hlater : ∃ q ∈ s.packets, q.precedes p = true) : nextInWindow (arrived s p) = none := by
  obtain ⟨o, ho, hprec⟩ := hlater
  refine List.find?_eq_none.2 (fun q hq hready => ?_)
  rw [Bool.and_eq_true, beq_iff_eq, Bool.not_eq_true'] at hready
  obtain rfl := window_arrived hat hnone hq hready.1
  rw [any_precedes_arrived, List.any_eq_false] at hready
  exact hready.2 o ho (by rw [precedes_waiting, hprec])

/-- A packet that none precedes is performed when it arrives. -/
theorem arrive_first (hfirst : ∀ q ∈ s.packets, q.precedes p = false) : arrive s p = performPacket (arrived s p) (waiting p) := by
  have hlen : s.packets.length ≠ 0 := fun h => by
    have := packetAt_mem hat
    rw [List.length_eq_zero_iff.1 h] at this
    cases this
  obtain ⟨n, hn⟩ := Nat.exists_eq_succ_of_ne_zero hlen
  have hrest : nextInWindow (performPacket (arrived s p) (waiting p)) = none := by
    refine List.find?_eq_none.2 (fun q hq hready => ?_)
    rw [performPacket_arrived_packets] at hq
    rw [Bool.and_eq_true, beq_iff_eq] at hready
    exact hnone q (List.mem_filter.1 hq).1 hready.1
  have hdone : ∀ fuel, performWindow (performPacket (arrived s p) (waiting p)) fuel = performPacket (arrived s p) (waiting p) := by
    intro fuel
    cases fuel with
    | zero => rfl
    | succ m => rw [performWindow, hrest]
  show performWindow (arrived s p) s.packets.length = _
  rw [hn, performWindow, nextInWindow_arrived_first hat hnone hfirst]
  exact hdone n

/-- A packet that another precedes waits in its window. -/
theorem arrive_later (hlater : ∃ q ∈ s.packets, q.precedes p = true) : arrive s p = arrived s p := by
  show performWindow (arrived s p) s.packets.length = _
  cases s.packets.length with
  | zero => rfl
  | succ m => rw [performWindow, nextInWindow_arrived_later hat hnone hlater]

end Arrive

end Sys2Proof.Machine

namespace Sys2Proof.Claims

open Sys2Proof.Machine

theorem exec_arrival {s : State} {k : Nat} {p : Packet} {i : Instr} (hat : packetAt s k p)
    (hi : (p.transit = .mesh ∧ recovering s (sliceOf p.place) = 0 ∧ i = .packetArrival k) ∨
      (p.transit = .recovery ∧ i = .recoveryBufferDrain k)) : exec i s = .next (arrive s p) := by
  obtain ⟨hmesh, hfree, rfl⟩ | ⟨hrec, rfl⟩ := hi
  · show execPacketArrival k s = _
    unfold execPacketArrival
    rw [hat.1]
    exact congrArg _ (if_pos ⟨hmesh, hfree⟩)
  · show execRecoveryBufferDrain k s = _
    unfold execRecoveryBufferDrain
    rw [hat.1]
    exact congrArg _ (if_pos hrec)

theorem arrival_performs {s : State} {k : Nat} {p : Packet} (hat : packetAt s k p) (hnone : ∀ q ∈ s.packets, q.transit ≠ .window)
    (hfirst : ∀ q ∈ s.packets, q.precedes p = false) :
    (arrive s p).packets = s.packets.filter (fun q => q.id != p.id) ∧
      ∀ pa, p.place = .phys pa → p.second = none →
        let u := markUsed s (partOf (hartAt s p.core)) p.entries true
        u.sameOutside (arrive s p) pa p.size ∧
          sgetBytes (arrive s p).mem pa p.size = mergeBits p.size (sgetBytes u.mem pa p.size) p.data p.mask % 256 ^ p.size := by
  rw [arrive_first hat hnone hfirst]
  refine ⟨performPacket_arrived_packets s p, fun pa hp hsecond => ?_⟩
  have hu : (markUsed (arrived s p) (partOf (hartAt s p.core)) p.entries true).mem =
      (markUsed s (partOf (hartAt s p.core)) p.entries true).mem := markUsed_congr (s := s) (u := arrived s p) rfl rfl _ _ _
  have hget := sget_performPacket (arrived s p) (waiting p) (pa := pa) hp hsecond
  dsimp only at hget
  rw [show markUsed (arrived s p) (partOf (hartAt (arrived s p) (waiting p).core)) (waiting p).entries true =
    markUsed (arrived s p) (partOf (hartAt s p.core)) p.entries true from rfl, hu] at hget
  refine ⟨fun a ha => (hget a).trans (if_neg ha), sgetBytes_of_bytes _ _ _ _ (fun i hi => ?_)⟩
  refine (hget (pa + i)).trans ((if_pos (show pa ≤ pa + i ∧ pa + i < pa + p.size by omega)).trans ?_)
  rw [Nat.add_sub_cancel_left]
  rfl

/-- The oldest packet or push that has not advanced becomes suspect (R366). -/
theorem blockSuspect_adds (s : State) (r : RouterId) (x : Nat × Nat) (hx : x ∈ inMesh s) (hlate : x.2 + s.netctl.toNat % 2 ^ 16 ≤ s.clock)
    (hfree : ∀ y ∈ s.suspects, y.1 ≠ r.val ∧ y.2 ≠ x.1)
    (hold : ∀ z ∈ inMesh s, z.2 + s.netctl.toNat % 2 ^ 16 ≤ s.clock → (∀ y ∈ s.suspects, y.2 ≠ z.1) → x.1 ≤ z.1) :
    exec (.blockSuspect r) s = .next { s with suspects := s.suspects ++ [(r.val, x.1)] } := by
  have hlist : ∀ z, z ∈ (inMesh s).filter (fun p => decide (p.2 + bits s.netctl 0 16 ≤ s.clock) && !s.suspects.any (fun y => y.2 == p.1)) ↔
      z ∈ inMesh s ∧ z.2 + s.netctl.toNat % 2 ^ 16 ≤ s.clock ∧ ∀ y ∈ s.suspects, y.2 ≠ z.1 := fun z => by
    simp [bits_low]
  have hmin : (((inMesh s).filter (fun p => decide (p.2 + bits s.netctl 0 16 ≤ s.clock) &&
      !s.suspects.any (fun y => y.2 == p.1))).map (·.1)).min? = some x.1 := by
    rw [List.min?_eq_some_iff]
    refine ⟨List.mem_map.2 ⟨x, (hlist x).2 ⟨hx, hlate, fun y hy => (hfree y hy).2⟩, rfl⟩, fun b hb => ?_⟩
    obtain ⟨z, hz, rfl⟩ := List.mem_map.1 hb
    obtain ⟨hmesh, hzlate, hzfree⟩ := (hlist z).1 hz
    exact hold z hmesh hzlate hzfree
  have hany : s.suspects.any (fun x => x.1 == r.val) = false := List.any_eq_false.2 (fun y hy => by simpa using (hfree y hy).1)
  show execBlockSuspect r s = _
  unfold execBlockSuspect
  dsimp only
  rw [hmin]
  dsimp only
  rw [hany, if_neg (by decide)]

theorem advance_unsuspects (s : State) (id : Nat) (hcold : s.thermal = false) (hturn : s.agenda = [.advance id]) :
    ∃ t, step s = .next t ∧ t.mem = s.mem ∧ (∀ q ∈ t.packets, q.id = id → q.transit = .mesh → q.since = s.clock) ∧
      ∀ x ∈ t.suspects, x.2 ≠ id := by
  refine ⟨advancePacket { s with agenda := [] } id, ?_, rfl, fun q hq hid hmesh => ?_, fun x hx => ?_⟩
  · rw [step, runStep, hcold, hturn]
    rfl
  · obtain ⟨o, -, rfl⟩ := List.mem_map.1 hq
    by_cases h : o.id = id ∧ o.transit = .mesh
    · rw [if_pos h]
    · rw [if_neg h] at hid hmesh
      exact absurd ⟨hid, hmesh⟩ h
  · simpa using (List.mem_filter.1 hx).2

theorem setTransit_ids (s : State) (id : Nat) (x : Transit) :
    (∀ q ∈ (setTransit s id x).packets, q.id = id → q.transit = x) ∧ ∀ q ∈ (setTransit s id x).pushes, q.id = id → q.transit = x := by
  refine ⟨fun q hq hid => ?_, fun q hq hid => ?_⟩
  · obtain ⟨o, -, rfl⟩ := List.mem_map.1 hq
    by_cases h : o.id = id
    · rw [if_pos h]
    · rw [if_neg h] at hid
      exact absurd hid h
  · obtain ⟨o, -, rfl⟩ := List.mem_map.1 hq
    by_cases h : o.id = id
    · rw [if_pos h]
    · rw [if_neg h] at hid
      exact absurd hid h

/-- The lamp where it goes on, seen by die 0 at its routers (R366, R368). -/
def lampAt (s : State) (p : Nat) : State :=
  { s with lamp := p, lampSeen := if routerDie (lampRouter p) = 0 then s.clock else s.lampSeen }

/-- The lamp held at a router, whose suspect takes the adit lane (R367). -/
def lampHeld (s : State) (p : Nat) (x : Nat × Nat) : State :=
  setTransit { lampAt s p with lampHolder := some ⟨lampRouter p, x.2, false⟩, suspects := s.suspects.filter (fun y => y.2 != x.2) } x.2 .adit

theorem exec_lampHop (s : State) (h : s.lampHolder = none) :
    exec .lampHop s = .next (match s.suspects.find? (fun y => y.1 == lampRouter ((s.lamp + 1) % 256)) with
      | some x => lampHeld s ((s.lamp + 1) % 256) x
      | none => lampAt s ((s.lamp + 1) % 256)) := by
  show execLampHop s = _
  unfold execLampHop
  split
  · next hheld => rw [h] at hheld; cases hheld
  · cases hfind : s.suspects.find? (fun y => y.1 == lampRouter ((s.lamp + 1) % 256)) with
    | none => dsimp only; rw [hfind]; rfl
    | some x => dsimp only; rw [hfind]; rfl

theorem lampHop_moves (s : State) (h : s.lampHolder = none) :
    ∃ t, exec .lampHop s = .next t ∧ t.lamp = (s.lamp + 1) % 256 ∧ t.mem = s.mem ∧
      ((∀ x ∈ s.suspects, x.1 ≠ lampRouter ((s.lamp + 1) % 256)) → t.lampHolder = none ∧ t.packets = s.packets) ∧
      (∀ x, s.suspects.find? (fun y => y.1 == lampRouter ((s.lamp + 1) % 256)) = some x →
        t.lampHolder = some ⟨lampRouter ((s.lamp + 1) % 256), x.2, false⟩ ∧
          (∀ q ∈ t.packets, q.id = x.2 → q.transit = .adit) ∧ ∀ q ∈ t.pushes, q.id = x.2 → q.transit = .adit) := by
  have hexec := exec_lampHop s h
  cases hfind : s.suspects.find? (fun y => y.1 == lampRouter ((s.lamp + 1) % 256)) with
  | none =>
    rw [hfind] at hexec
    exact ⟨_, hexec, rfl, rfl, fun _ => ⟨h, rfl⟩, fun x hx => by cases hx⟩
  | some x =>
    rw [hfind] at hexec
    refine ⟨_, hexec, rfl, rfl, fun hnone => ?_, fun y hy => ?_⟩
    · have hx := List.find?_some hfind
      exact absurd (beq_iff_eq.1 hx) (hnone x (List.mem_of_find?_eq_some hfind))
    · obtain rfl := Option.some.inj hy
      exact ⟨rfl, setTransit_ids _ x.2 .adit⟩

theorem endpointOf_packetAt {s : State} {k : Nat} {p : Packet} (hat : packetAt s k p) : endpointOf s p.id = some (sliceOf p.place) := by
  have hfind : s.packets.find? (fun q => q.id == p.id) = some p := by
    rw [← List.head?_filter, hat.2]
    rfl
  rw [endpointOf, hfind]
  rfl

theorem recoveryBufferAccept_accepts (s : State) (h : LampHolder) (k : Nat) (p : Packet) (hheld : s.lampHolder = some h)
    (hnew : h.accepted = false) (hat : packetAt s k p) (hid : p.id = h.packet) :
    (recovering s (sliceOf p.place) < 4 → ∃ t, exec .recoveryBufferAccept s = .next t ∧ t.lampHolder = some { h with accepted := true } ∧
      ∀ q ∈ t.packets, q.id = p.id → q.transit = .recovery) ∧
    (4 ≤ recovering s (sliceOf p.place) → exec .recoveryBufferAccept s = .next s) := by
  have hexec : exec .recoveryBufferAccept s = .next (if recovering s (sliceOf p.place) < 4 then
      setTransit { s with lampHolder := some { h with accepted := true } } h.packet .recovery else s) := by
    show execRecoveryBufferAccept s = _
    unfold execRecoveryBufferAccept
    rw [hheld]
    dsimp only
    rw [hnew, ← hid, endpointOf_packetAt hat]
    rfl
  refine ⟨fun hroom => ?_, fun hfull => ?_⟩
  · rw [if_pos hroom] at hexec
    refine ⟨_, hexec, rfl, ?_⟩
    rw [hid]
    exact (setTransit_ids _ h.packet .recovery).1
  · rw [hexec, if_neg (by omega)]

theorem lampRelease_frees (s : State) (h : LampHolder) (hheld : s.lampHolder = some h) :
    exec .lampRelease s = .next (if h.accepted then { s with lampHolder := none } else s) := by
  show execLampRelease s = _
  unfold execLampRelease
  rw [hheld]

/-- A record that is appended is the newest of its die's log (R391). -/
theorem logged_logPit (s : State) (die : DieId) (source unit code detail : Nat) :
    logged s (logPit s die.val source unit code detail) die source unit code detail := by
  have hget : s.pits[die.val]? = some s.pits[die] := Vector.getElem?_eq_getElem die.isLt
  unfold logged logPit
  rw [hget]
  dsimp only
  refine ⟨?_, fun d hd => ?_⟩
  · exact Vector.getElem_setIfInBounds_self ..
  · exact Vector.getElem_setIfInBounds_ne _ (fun e => hd (Fin.ext e.symm))

theorem lampRegenerate_logs (s : State) (h : s.lampHolder = none) (hlost : s.lampSeen + 131072 ≤ s.clock) :
    ∃ t, exec .lampRegenerate s = .next t ∧ t.lamp = 0 ∧ t.lampSeen = s.clock ∧ logged s t 0 3 (lampRouter 0) 0x01 0 := by
  have hcond : (s.lampHolder.isNone && decide (s.lampSeen + 131072 ≤ s.clock)) = true := by simp [h, hlost]
  have hexec : exec .lampRegenerate s = .next (logPit { s with lamp := 0, lampSeen := s.clock } 0 3 (lampRouter 0) 0x01 0) :=
    congrArg Host.Outcome.next (if_pos hcond)
  exact ⟨_, hexec, rfl, rfl, logged_logPit { s with lamp := 0, lampSeen := s.clock } 0 3 (lampRouter 0) 0x01 0⟩

theorem netctlWrite_checks (s : State) (v : Word) :
    exec (.netctlWrite v) s = .next (if v.toNat < 2 ^ 18 ∧ 64 ≤ v.toNat % 2 ^ 16 then { s with netctl := v } else s) := by
  have hcond : (bits v 18 46 ≠ 0 ∨ bits v 0 16 < 64) ↔ ¬(v.toNat < 2 ^ 18 ∧ 64 ≤ v.toNat % 2 ^ 16) := by
    have := v.isLt
    simp only [bits]
    omega
  show execNetctlWrite v s = _
  unfold execNetctlWrite
  by_cases h : v.toNat < 2 ^ 18 ∧ 64 ≤ v.toNat % 2 ^ 16
  · rw [if_neg (fun h' => hcond.1 h' h), if_pos h]
  · rw [if_pos (hcond.2 h), if_neg h]

/-- Settles O50: one lemma for each step of the network. -/
theorem networkSteps : Obligations.NetworkSteps := by
  intro s blkt
  refine ⟨fun k p i hat hi hnone => ⟨fun hfirst => ?_, fun hlater => ?_⟩, fun k p hp hrec => ?_, blockSuspect_adds s, advance_unsuspects s,
    lampHop_moves s, recoveryBufferAccept_accepts s, lampRelease_frees s, lampRegenerate_logs s, netctlWrite_checks s⟩
  · exact ⟨_, exec_arrival hat hi, arrival_performs hat hnone hfirst⟩
  · have hexec := exec_arrival hat hi
    rw [arrive_later hat hnone hlater] at hexec
    exact ⟨_, hexec, rfl, rfl⟩
  · show execPacketArrival k s = _
    unfold execPacketArrival
    rw [hp]
    exact congrArg _ (if_neg (fun h => by have := h.2; simp only [Packet.endpoint] at this; omega))

end Sys2Proof.Claims

/-! The host and partition firmware: CXL.mem, the mailbox, partition blocks, the start of a partition (R94, R108, R307, R322, R372 to R382). -/

namespace Sys2Proof.Machine

open Sys2Proof.Claims

/-! ### Homes with nothing recovered (R367) -/

/-- Where no packet waits in a recovery buffer, an access that arrives finds its home as it is. -/
theorem atHomeOf_idle {s : State} (h : ∀ q ∈ s.packets, q.transit ≠ .recovery) (p : Place) : atHomeOf s p = s := by
  unfold atHomeOf
  split
  · next pa =>
    have hnone : s.packets.filter (fun q => q.transit == .recovery && q.endpoint == homeOf pa) = [] := by
      rw [List.filter_eq_nil_iff]
      intro q hq
      simp [h q hq]
    rw [drainRecovery, hnone]
    rfl
  · rfl

@[simp] theorem logPit_outbox (s : State) (d a b c e : Nat) : (logPit s d a b c e).outbox = s.outbox := by
  unfold logPit
  split <;> rfl

@[simp] theorem logPlace_outbox (s : State) (pa : Nat) : (logPlace s pa).outbox = s.outbox := by
  unfold logPlace
  split <;> exact logPit_outbox ..

/-! ### CXL.mem (R108, R373) -/

theorem devicePa_covered {s : State} {pa : PAddr} (hlo : s.decoder ≤ pa.toNat) (hhi : pa.toNat - s.decoder < localBytes s) :
    devicePa s pa = some (pa.toNat - s.decoder) := if_pos ⟨hlo, hhi⟩

theorem devicePa_outside {s : State} {pa : PAddr} (h : pa.toNat < s.decoder ∨ s.decoder + localBytes s ≤ pa.toNat) :
    devicePa s pa = none := if_neg (by omega)

/-- The lines of a range that the host read are among its copies, but for those of a near-bank footprint. -/
theorem mem_hostCopies {s : State} {a n l : Nat} (hlo : a / 64 ≤ l) (hhi : 64 * l < a + n) (hc : uncached s (64 * l) = false) :
    (l, false) ∈ hostCopies s a n := by
  unfold hostCopies
  refine List.mem_append_right _ (List.mem_map.2 ⟨l, ?_, rfl⟩)
  refine List.mem_filter.2 ⟨List.mem_map.2 ⟨l - a / 64, List.mem_range.2 ?_, Nat.add_sub_cancel' hlo⟩, by rw [hc]; rfl⟩
  omega

theorem mem_backInvalidate {s : State} {x : Nat × Bool} (h : x ∈ (backInvalidate s).hostLines) : x.2 = false := by
  simpa using (List.mem_filter.1 h).2

/-- A release at system scope that leaves the buffer leaves the host no copy from before a device write (R94). -/
theorem drainOne_system {s : State} {st : Store} {rest : List Store} (hb : s.hart.buffer = st :: rest)
    (hready : storeReady s.hart st = true) (hrel : st.release = true) (hsys : st.system = true) :
    ∃ u, drainOne s s.hart.core = backInvalidate u := by
  unfold drainOne
  simp only [hartAt_self, hb, hready, if_true]
  unfold performBuffered
  simp only [hrel, hsys, Bool.and_self, if_true]
  exact ⟨_, rfl⟩

/-! ### The mailbox (R376) -/

@[simp] theorem sequenceWord_msix (s : State) (pa : Nat) : (sequenceWord s pa).msix = s.msix := by
  unfold sequenceWord
  split <;> rfl

/-- Whether the word at an address is the NOTIFY word of a partition's mailbox. -/
def mailboxWord (s : State) (pa p : Nat) : Bool :=
  match s.parts[p]? with
  | some b => b.active != 0 && b.mboxAddr != 0 && decide (pa / 8 * 8 = b.mboxAddr.toNat + 8)
  | none => false

theorem mailboxWord_iff (s : State) (pa : Nat) (p : PartId) : mailboxWord s pa p.val = true ↔
    s.parts[p].active ≠ 0 ∧ s.parts[p].mboxAddr ≠ 0 ∧ pa / 8 * 8 = s.parts[p].mboxAddr.toNat + 8 := by
  have hp : s.parts[p.val]? = some s.parts[p] := Vector.getElem?_eq_getElem p.isLt
  rw [mailboxWord, hp]
  simp only [Bool.and_eq_true, bne_iff_ne, decide_eq_true_eq, and_assoc]

theorem notifyWord_msix_of_find {s : State} {pa p : Nat} (h : (List.range 16).find? (mailboxWord s pa) = some p) :
    (notifyWord s pa).msix =
      let vec := 32 * p + bits (word8 s pa) 0 5
      if s.msix.contains vec then s.msix else s.msix ++ [vec] := by
  have heq : notifyWord s pa = match (List.range 16).find? (mailboxWord s pa) with
      | none => s
      | some p =>
        let vec := 32 * p + bits (word8 s pa) 0 5
        if s.msix.contains vec then s else { s with msix := s.msix ++ [vec] } := rfl
  rw [heq, h]
  dsimp only
  split <;> rfl

/-- The NOTIFY word of a mailbox that no other partition shares raises its partition's vector, once. -/
theorem notifyWord_mailbox {s : State} {p : PartId} (hactive : s.parts[p].active ≠ 0) (hbox : s.parts[p].mboxAddr ≠ 0)
    (halign : s.parts[p].mboxAddr.toNat % 8 = 0) (hown : ∀ q : PartId, q ≠ p → s.parts[q].mboxAddr ≠ s.parts[p].mboxAddr) :
    (notifyWord s (s.parts[p].mboxAddr.toNat + 8)).msix =
      let vec := 32 * p.val + (word8 s (s.parts[p].mboxAddr.toNat + 8)).toNat % 32
      if s.msix.contains vec then s.msix else s.msix ++ [vec] := by
  have hmine : mailboxWord s (s.parts[p].mboxAddr.toNat + 8) p.val = true :=
    (mailboxWord_iff ..).2 ⟨hactive, hbox, by omega⟩
  have hothers : ∀ q, q < 16 → mailboxWord s (s.parts[p].mboxAddr.toNat + 8) q = true → q = p.val := by
    intro q hq hword
    obtain ⟨-, -, hplace⟩ := (mailboxWord_iff s _ ⟨q, hq⟩).1 hword
    by_contra hne
    exact hown ⟨q, hq⟩ (fun h => hne (congrArg Fin.val h)) (BitVec.eq_of_toNat_eq (by omega))
  have hfind : (List.range 16).find? (mailboxWord s (s.parts[p].mboxAddr.toNat + 8)) = some p.val := by
    cases hf : (List.range 16).find? (mailboxWord s (s.parts[p].mboxAddr.toNat + 8)) with
    | none => exact absurd hmine (List.find?_eq_none.1 hf p.val (List.mem_range.2 p.isLt))
    | some q => rw [hothers q (List.mem_range.1 (List.mem_of_find?_eq_some hf)) (List.find?_some hf)]
  have hbits : ∀ w : Word, bits w 0 5 = w.toNat % 32 := fun w => by simp [bits]
  rw [notifyWord_msix_of_find hfind, hbits]

/-! ### Partition blocks (R372, R374, R382) -/

theorem getLsbD_xmaskOthers (s : State) (p : PartId) (qs : List PartId) (m : BitVec 128) (c : Nat) :
    (qs.foldl (fun m q => if q = p then m else m ||| s.parts[q.val].cores) m).getLsbD c =
      (m.getLsbD c || decide (∃ q ∈ qs, q ≠ p ∧ s.parts[q.val].cores.getLsbD c = true)) := by
  induction qs generalizing m with
  | nil => simp
  | cons q qs ih =>
    rw [List.foldl_cons, ih]
    by_cases hq : q = p <;> simp [hq, Bool.or_assoc]

/-- A core that leaves its partition holds no bank for the guest and has every bank zeroed, wherever the quantum then starts. -/
theorem banks_leavePartition (h : Hart) (now : Nat) (k : Fin 4) :
    let b := (restartQuantum h (leavePartition h) now).banks[k]
    b.holder ≠ some .guest ∧ b.counts = Vector.replicate 8 0 ∧ b.selects = Vector.replicate 6 0 := by
  have hb : (restartQuantum h (leavePartition h) now).banks = (leavePartition h).banks := by
    unfold restartQuantum
    split <;> rfl
  have hk : (leavePartition h).banks[k] =
      { Bank.start with holder := if h.banks[k].holder = some .guest then none else h.banks[k].holder } := Vector.getElem_map ..
  dsimp only
  rw [hb, hk]
  refine ⟨?_, rfl, rfl⟩
  dsimp only
  split
  · exact fun h => nomatch h
  · next hne => exact hne

end Sys2Proof.Machine

namespace Sys2Proof.Claims

open Sys2Proof.Machine

theorem hostMemWrite_performed (s : State) (pa : PAddr) (bs : List Byte) : let a := pa.toNat - s.decoder
    s.cxlMem = true → s.bad = [] → (∀ q ∈ s.packets, q.transit ≠ .recovery) → s.decoder ≤ pa.toNat → a < localBytes s →
    a + bs.length ≤ localBytes s → a % 64 + bs.length ≤ 64 →
    ∃ t, exec (.hostMemWrite pa bs) s = .next t ∧ readBytes t a bs.length = bs ∧ s.sameOutside t a bs.length ∧ t.hart = s.hart := by
  intro a hcxl hbad hrec hlo hhi hend hline
  have hpartial : partialLost s a bs.length = false := by rw [partialLost, hbad]; rfl
  let w := writeBytes (clearCovered s a bs.length) none a bs
  have hexec : exec (.hostMemWrite pa bs) s =
      .next { classPushes s.pushes.length (bits s.netctl 16 2) w with hostLines := s.hostLines } := by
    show execHostMemWrite pa bs s = _
    unfold execHostMemWrite
    rw [devicePa_covered hlo hhi]
    dsimp only
    have hpass : ¬((!s.cxlMem || decide (localBytes s < a + bs.length) || decide (64 < a % 64 + bs.length) ||
        partialLost s a bs.length) = true) := by
      simp [hcxl, hpartial]
      omega
    rw [if_neg hpass, atHomeOf_idle hrec]
  refine ⟨_, hexec, readBytes_writeBytes _ none a bs, fun b hb => ?_, writeBytes_hart ..⟩
  exact (sget_writeBytes _ none a bs b).trans (dif_neg hb)

theorem hostMemRead_answered (s : State) (pa : PAddr) (n : Fin 65) : let a := pa.toNat - s.decoder
    s.cxlMem = true → (∀ q ∈ s.packets, q.transit ≠ .recovery) → s.decoder ≤ pa.toNat → a < localBytes s → a + n.val ≤ localBytes s →
    (badMem s a n.val = false → ∃ t, exec (.hostMemRead pa n) s = .next t ∧
      t = { s with outbox := .hostRead a (readBytes s a n.val) :: s.outbox, hostLines := t.hostLines } ∧
      ∀ l, a / 64 ≤ l → 64 * l < a + n.val → uncached s (64 * l) = false → (l, false) ∈ t.hostLines) ∧
    (badMem s a n.val = true → ∃ t, exec (.hostMemRead pa n) s = .next t ∧
      t.outbox = .hostFailed a :: s.outbox ∧ t.mem = s.mem) := by
  intro a hcxl hrec hlo hhi hend
  have hexec : exec (.hostMemRead pa n) s = .next (if badMem s a n.val then
      logPlace { s with outbox := .hostFailed a :: s.outbox } a
      else { s with outbox := .hostRead a (readBytes s a n.val) :: s.outbox, hostLines := hostCopies s a n.val }) := by
    show execHostMemRead pa n s = _
    unfold execHostMemRead
    rw [devicePa_covered hlo hhi]
    dsimp only
    have hpass : ¬((!s.cxlMem || decide (localBytes s < a + n.val)) = true) := by
      simp [hcxl]
      omega
    rw [if_neg hpass, atHomeOf_idle hrec, atHomeOf_idle hrec]
  rw [hexec]
  refine ⟨fun hgood => ?_, fun hbad => ?_⟩
  · rw [hgood]
    exact ⟨_, rfl, rfl, fun l => mem_hostCopies⟩
  · rw [hbad]
    exact ⟨_, rfl, logPlace_outbox .., logPlace_mem ..⟩

theorem hostMem_undecoded (s : State) (i : Instr) (pa : PAddr)
    (hi : (∃ bs, i = .hostMemWrite pa bs) ∨ ∃ n, i = .hostMemRead pa n)
    (h : s.cxlMem = false ∨ pa.toNat < s.decoder ∨ s.decoder + localBytes s ≤ pa.toNat) : exec i s = .next s := by
  obtain ⟨bs, rfl⟩ | ⟨n, rfl⟩ := hi
  · show execHostMemWrite pa bs s = _
    unfold execHostMemWrite
    obtain hoff | hout := h
    · split
      · rfl
      · simp [hoff]
    · rw [devicePa_outside hout]
  · show execHostMemRead pa n s = _
    unfold execHostMemRead
    obtain hoff | hout := h
    · split
      · rfl
      · simp [hoff]
    · rw [devicePa_outside hout]

theorem drain_system_backInvalidates (s : State) (st : Store) (rest : List Store) (hcore : s.hart.core < 128)
    (hb : s.hart.buffer = st :: rest) (hrel : st.release = true) (hsys : st.system = true) (hready : storeReady s.hart st = true) :
    ∃ t, exec (.storeBufferDrain (me s)) s = .next t ∧ ∀ x ∈ t.hostLines, x.2 = false := by
  obtain ⟨u, hu⟩ := drainOne_system hb hready hrel hsys
  have hexec : exec (.storeBufferDrain (me s)) s = .next (drainOne s s.hart.core) :=
    congrArg (fun c => Host.Outcome.next (drainOne s c)) (Nat.mod_eq_of_lt hcore)
  exact ⟨_, hexec.trans (congrArg _ hu), fun x => mem_backInvalidate⟩

theorem notify_raises (s : State) (p : PartId) (v : Word) (hactive : s.parts[p].active ≠ 0) (hbox : s.parts[p].mboxAddr ≠ 0)
    (halign : s.parts[p].mboxAddr.toNat % 8 = 0) (hown : ∀ q : PartId, q ≠ p → s.parts[q].mboxAddr ≠ s.parts[p].mboxAddr) :
    ∃ t, exec (.notify p v) s = .next t ∧ word8 t (s.parts[p].mboxAddr.toNat + 8) = v ∧
      (let vec := 32 * p.val + v.toNat % 32
      t.msix = if s.msix.contains vec then s.msix else s.msix ++ [vec]) := by
  let pa := s.parts[p].mboxAddr.toNat + 8
  have hpa : pa % 8 = 0 := by omega
  have hexec : exec (.notify p v) s = .next (writeHome s none pa 8 v.toNat) := by
    show execNotify p v s = _
    unfold execNotify
    dsimp only
    rw [if_neg (not_or.2 ⟨hactive, hbox⟩)]
  have hwritten : word8 (writeHome s none pa 8 v.toNat) pa = v := (word8_writeHome s none pa v.toNat hpa).trans (word_toNat v)
  refine ⟨_, hexec, hwritten, ?_⟩
  let w := sequenceWord { s with
    mem := ssetBytes s.mem pa 8 v.toNat
    dirty := s.dirty.filter (fun b => decide (b.pa / 64 ≠ pa / 64) || some b.core == none)
    hostLines := s.hostLines.map (fun x => if x.1 = pa / 64 then (x.1, true) else x) } pa
  have hparts : w.parts = s.parts := sequenceWord_parts ..
  have hmsix : w.msix = s.msix := sequenceWord_msix ..
  have hw : word8 w pa = v := by
    refine Eq.trans ?_ hwritten
    unfold word8 writeHome
    rw [notifyWord_mem]
  have hraised := notifyWord_mailbox (s := w) (p := p) (by rwa [hparts]) (by rwa [hparts]) (by rwa [hparts])
    (fun q => by rw [hparts]; exact hown q)
  rw [hparts, hmsix, hw] at hraised
  exact hraised

theorem bdoneWrite_written (s : State) (p : PartId) (v : Word) (hactive : s.parts[p].active ≠ 0) (hcxl : s.cxlMem = true)
    (halign : s.parts[p].pcpAddr.toNat % 8 = 0) :
    ∃ t, exec (.bdoneWrite p v) s = .next t ∧ pcpWord t p.val 0x40 = v ∧ s.sameOutside t (s.parts[p].pcpAddr.toNat + 0x40) 8 := by
  have hp : s.parts[p.val]? = some s.parts[p] := Vector.getElem?_eq_getElem p.isLt
  have hexec : exec (.bdoneWrite p v) s = .next (setPcpWord s p.val 0x40 v) := by
    show execBdoneWrite p v s = _
    unfold execBdoneWrite
    rw [if_pos (Bool.and_eq_true_iff.2 ⟨hcxl, bne_iff_ne.2 hactive⟩)]
  refine ⟨_, hexec, ?_, fun a ha => ?_⟩
  · rw [pcpWord, setPcpWord_parts, hp, setPcpWord, hp]
    exact (word8_writeHome s none _ v.toNat (by omega)).trans (word_toNat v)
  · rw [sget_setPcpWord s p.val 0x40 v _ hp, if_neg ha]

theorem partitionBlockWrite_active (s : State) (p : PartId) (v : Word) (hactive : s.parts[p].active ≠ 0) (f : BlockField) :
    exec (.partitionBlockWrite p f v) s = .next s := by
  show execPartitionBlockWrite p f v s = _
  unfold execPartitionBlockWrite
  rw [if_pos hactive]

theorem partitionBlockWrite_idle (s : State) (p : PartId) (v : Word) (hidle : (s.parts[p]).active = 0) :
    exec (.partitionBlockWrite p .pcpAddr v) s = .next (blockWritten s p (fun b => { b with pcpAddr := v })) ∧
    exec (.partitionBlockWrite p .mboxAddr v) s = .next (blockWritten s p (fun b => { b with mboxAddr := v })) ∧
    exec (.partitionBlockWrite p .hostWin v) s = .next (blockWritten s p (fun b => { b with hostWin := v })) := by
  have hwrite : ∀ f, exec (.partitionBlockWrite p f v) s = .next (setPart s p (fun b => match f with
      | .pcpAddr => { b with pcpAddr := v }
      | .mboxAddr => { b with mboxAddr := v }
      | .hostWin => { b with hostWin := v })) := by
    intro f
    show execPartitionBlockWrite p f v s = _
    unfold execPartitionBlockWrite
    rw [if_neg (not_not.2 hidle)] <;> rfl
  exact ⟨hwrite .pcpAddr, hwrite .mboxAddr, hwrite .hostWin⟩

theorem coresWrite_allowed (s : State) (p : PartId) (v : BitVec 128) :
    let old := (s.parts[p]).cores
    (∀ c, c < 128 → old.getLsbD c ≠ v.getLsbD c → coreUsed s c = false ∧
      (v.getLsbD c = true → ∀ q : PartId, q ≠ p → (s.parts[q]).cores.getLsbD c = false)) →
    ∃ t, exec (.coresWrite p v) s = .next t ∧ t.parts = s.parts.set p { s.parts[p] with cores := v } ∧ t.mem = s.mem ∧
      (old.getLsbD s.hart.core = true → v.getLsbD s.hart.core = false → ∀ k : Fin 4, (t.hart.banks[k]).holder ≠ some .guest ∧
        (t.hart.banks[k]).counts = Vector.replicate 8 0 ∧ (t.hart.banks[k]).selects = Vector.replicate 6 0) := by
  intro old hmoves
  let moved := (List.range 128).filter (fun c => old.getLsbD c != v.getLsbD c)
  have hmoved : moved.any (fun c => coreUsed s c || (v.getLsbD c && coreElsewhere s p c)) = false := by
    rw [List.any_eq_false]
    intro c hc
    obtain ⟨hlt, hne⟩ := List.mem_filter.1 hc
    obtain ⟨hunused, hothers⟩ := hmoves c (List.mem_range.1 hlt) (by simpa using hne)
    rw [hunused, Bool.false_or]
    intro hboth
    obtain ⟨hv, helse⟩ := Bool.and_eq_true_iff.1 hboth
    obtain ⟨q, -, hq⟩ := List.any_eq_true.1 helse
    obtain ⟨hqp, hqc⟩ := Bool.and_eq_true_iff.1 hq
    exact absurd hqc (by rw [hothers hv q (by simpa using hqp)]; decide)
  have hexec : exec (.coresWrite p v) s = .next (onHarts (setPart s p (fun b => { b with cores := v })) (fun h =>
      if old.getLsbD h.core && !v.getLsbD h.core then restartQuantum h (leavePartition h) s.clock else h)) := by
    show execCoresWrite p v s = _
    unfold execCoresWrite
    dsimp only
    rw [if_neg (by rw [hmoved]; decide)]
  refine ⟨_, hexec, rfl, rfl, fun hold hnew k => ?_⟩
  simp only [onHarts, setPart, hold, hnew, Bool.not_false, Bool.and_self, if_true]
  exact banks_leavePartition s.hart s.clock k

theorem coresWrite_inUse (s : State) (p : PartId) (v : BitVec 128)
    (h : ∃ c, c < 128 ∧ (s.parts[p]).cores.getLsbD c ≠ v.getLsbD c ∧ coreUsed s c = true) : exec (.coresWrite p v) s = .next s := by
  obtain ⟨c, hc, hne, hused⟩ := h
  show execCoresWrite p v s = _
  unfold execCoresWrite
  dsimp only
  rw [if_pos]
  exact List.any_eq_true.2 ⟨c, List.mem_filter.2 ⟨List.mem_range.2 hc, by simpa using hne⟩, by rw [hused]; rfl⟩

theorem xmaskWrite_others (s : State) (p : PartId) (v : BitVec 128) :
    ∃ t, exec (.xmaskWrite p v) s = .next t ∧ t = blockWritten s p (fun b => { b with xmask := (t.parts[p]).xmask }) ∧
      ∀ c, c < 128 → (t.parts[p]).xmask.getLsbD c =
        (v.getLsbD c && decide (∀ q : PartId, q ≠ p → (s.parts[q]).cores.getLsbD c = false)) := by
  refine ⟨_, rfl, ?_, fun c hc => ?_⟩
  · simp [setPart, blockWritten]
  · simp only [setPart, Fin.getElem_fin, Vector.getElem_set_self]
    rw [BitVec.getLsbD_and, BitVec.getLsbD_not, getLsbD_xmaskOthers]
    simp only [hc, BitVec.getLsbD_zero, Bool.false_or, List.mem_finRange, true_and, decide_true, Bool.true_and, ← decide_not,
      not_exists, not_and, Bool.not_eq_true, ne_eq]

theorem activeWrite_unbooted (s : State) (p : PartId) (v : Word) (fw : FirmwareStart) (h : s.bootst ≠ 5) :
    exec (.activeWrite p v fw) s = .next s := by
  show execActiveWrite p v fw s = _
  unfold execActiveWrite
  have hoff : (!firmwareRuns s) = true := by
    rw [firmwareRuns, beq_false_of_ne h]
    rfl
  dsimp only
  rw [if_pos hoff]

theorem activeWrite_noStart (s : State) (p : PartId) (v : Word) (fw : FirmwareStart) (hboot : s.bootst = 5)
    (h : (s.parts[p]).active ≠ 0 ∨ v = 0) :
    exec (.activeWrite p v fw) s = .next (blockWritten s p (fun b => { b with active := v })) := by
  show execActiveWrite p v fw s = _
  unfold execActiveWrite
  have hon : ¬(!firmwareRuns s) = true := by simp [firmwareRuns, hboot]
  dsimp only
  rw [if_neg hon, if_pos h]
  rfl

theorem parts_updateFree (s : State) : (updateFree s).parts = s.parts :=
  updateFree_induction (fun u => u.parts = s.parts) s rfl (fun _ _ _ _ hu _ => (writeHome_parts ..).trans hu)

theorem activeWrite_starts (s : State) (p : PartId) (v : Word) (fw : FirmwareStart) (hboot : s.bootst = 5)
    (hold : (s.parts[p]).active = 0) (hv : v ≠ 0) :
    ∃ t ls l, exec (.activeWrite p v fw) s = .next t ∧ (t.parts[p]).active = v ∧ (t.parts[p]).nextId = 1 ∧
      t.launches = s.launches ++ ls ++ [l] ∧ l.part = p.val ∧ l.entry = fw.foremanEntry ∧ l.arg = fw.foremanArg ∧ l.size = 1 ∧
      l.cls = 3 ∧ l.gangs = 1 ∧ l.hyper = false ∧ l.completion = none ∧
      (fw.hypervisor = none → ls = [] ∧ (t.parts[p]).stage2 = none) ∧
      ∀ e a root, fw.hypervisor = some (e, a, root) → (t.parts[p]).stage2 = some root.toNat ∧
        ∃ m, ls = [m] ∧ m.part = p.val ∧ m.entry = e ∧ m.arg = a ∧ m.hyper = true := by
  let hyper := match fw.hypervisor with
    | some (e, a, _) => [firmwareLaunch s p.val 0xFFFFFF e a true]
    | none => []
  let s2 := setPart (setPart s p (fun b => { b with active := v })) p (fun b => { b with
    nextId := 1, stage2 := fw.hypervisor.map (fun x => x.2.2.toNat) })
  let l := firmwareLaunch s p.val 0 fw.foremanEntry fw.foremanArg false
  let u : State := { s2 with launches := s2.launches ++ hyper ++ [l] }
  have hexec : exec (.activeWrite p v fw) s = .next (updateFree u) := by
    show execActiveWrite p v fw s = _
    unfold execActiveWrite
    have hstart : ¬((s.parts[p]).active ≠ 0 ∨ v = 0) := not_or.2 ⟨not_not.2 hold, hv⟩
    have hon : ¬(!firmwareRuns s) = true := by simp [firmwareRuns, hboot]
    dsimp only
    rw [if_neg hon, if_neg hstart] <;> rfl
  have hparts : (updateFree u).parts = u.parts := parts_updateFree u
  have hpart : u.parts[p] = { s.parts[p] with
      active := v, nextId := 1, stage2 := fw.hypervisor.map (fun x => x.2.2.toNat) } := by
    simp [u, s2, setPart]
  refine ⟨updateFree u, hyper, l, hexec, ?_, ?_, launches_updateFree u, rfl, rfl, rfl, rfl, rfl, rfl, rfl, rfl, fun hnone => ?_,
    fun e a root hsome => ?_⟩
  · rw [hparts, hpart]
  · rw [hparts, hpart]
  · rw [hparts, hpart]
    simp only [hyper, hnone]
    exact ⟨trivial, rfl⟩
  · rw [hparts, hpart]
    simp only [hyper, hsome]
    exact ⟨rfl, _, rfl, rfl, rfl, rfl, rfl⟩

/-- Settles O53, clause by clause: the home of the access has nothing recovered, and each block write is its field's. -/
theorem hostAccess : Obligations.HostAccess := by
  intro s
  refine ⟨hostMemWrite_performed s, hostMemRead_answered s, hostMem_undecoded s, drain_system_backInvalidates s,
    fun p v hactive => ⟨notify_raises s p v hactive, bdoneWrite_written s p v hactive, partitionBlockWrite_active s p v hactive⟩,
    partitionBlockWrite_idle s, coresWrite_allowed s, coresWrite_inUse s, xmaskWrite_others s, activeWrite_unbooted s,
    activeWrite_noStart s, activeWrite_starts s⟩

end Sys2Proof.Claims

/-! Standing-load slots, and what arrives at them: answers, pushes, counts and timeouts (R57, R220 to R226). -/

namespace Sys2Proof.Machine

open Sys2Proof.Claims

/-! ### The fields of a slot (R56, R57) -/

/-- A part of a number read where the number was written. -/
theorem sgetBytes_ssetBytes_within (m : Sparse 8) (k len v : Nat) {i n : Nat} (h : i + n ≤ len) :
    sgetBytes (ssetBytes m k len v) (k + i) n = v / 256 ^ i % 256 ^ n := by
  refine sgetBytes_of_bytes _ _ _ _ (fun j hj => ?_)
  rw [sget_ssetBytes, if_pos (by omega), show k + i + j - k = i + j by omega, Nat.pow_add, Nat.div_div_eq_div_mul]

theorem slotOffset_eq (h : Hart) (n : Nat) : slotOffset h n = slotOffset h 0 + 16 * n := by
  unfold slotOffset
  omega

theorem slotFlags_lt (h : Hart) (n : Nat) : slotFlags h n < 256 := by
  have := (sget h.spad (slotOffset h n + 15)).isLt
  simp only [slotFlags, sgetBytes]
  omega

theorem slotOvr_lt (h : Hart) (n : Nat) : slotOvr h n < 2 ^ 16 := by
  have h0 := (sget h.spad (slotOffset h n + 12)).isLt
  have h1 := (sget h.spad (slotOffset h n + 12 + 1)).isLt
  simp only [slotOvr, sgetBytes]
  omega

/-- The fields of a slot that is written are those written (R57). -/
theorem slotIs_writeSlot (h : Hart) (n : Nat) (value : Word) (seq : BitVec 32) {ovr st flags : Nat} (hovr : ovr < 2 ^ 16)
    (hst : st < 256) (hflags : flags < 256) : slotIs (writeSlot h n value seq ovr st flags) n value seq ovr st flags := by
  have hvalue := value.isLt
  have hseq := seq.isLt
  generalize hx : value.toNat + 2 ^ 64 * seq.toNat + 2 ^ 96 * (ovr % 2 ^ 16) + 2 ^ 112 * st + 2 ^ 120 * flags = x
  have hspad : (writeSlot h n value seq ovr st flags).spad = ssetBytes h.spad (slotOffset h n) 16 x := by rw [← hx]; rfl
  have hoff : slotOffset (writeSlot h n value seq ovr st flags) n = slotOffset h n := rfl
  have hpart : ∀ i k, i + k ≤ 16 → sgetBytes (ssetBytes h.spad (slotOffset h n) 16 x) (slotOffset h n + i) k = x / 256 ^ i % 256 ^ k :=
    fun i k hik => sgetBytes_ssetBytes_within _ _ _ _ hik
  have hvalueBytes := hpart 0 8 (by decide)
  rw [Nat.add_zero] at hvalueBytes
  unfold slotIs slotValue slotSeq slotOvr slotState slotFlags
  rw [hspad, hoff, hpart 8 4 (by decide), hpart 12 2 (by decide), hpart 15 1 (by decide), sget_ssetBytes, if_pos (by omega),
    Nat.add_sub_cancel_left, hvalueBytes]
  refine ⟨BitVec.eq_of_toNat_eq ?_, BitVec.eq_of_toNat_eq ?_, ?_, ?_, ?_⟩
  · simp only [word, BitVec.toNat_ofNat]
    omega
  · simp only [BitVec.toNat_ofNat]
    omega
  · omega
  · simp only [BitVec.toNat_ofNat]
    omega
  · omega

theorem otherSlots_writeSlot (h : Hart) (n : Nat) (value : Word) (seq : BitVec 32) (ovr st flags : Nat) :
    otherSlots h (writeSlot h n value seq ovr st flags) n := by
  intro a ha
  exact (sget_ssetBytes ..).trans (if_neg ha)

theorem otherSlots_congr {h g k : Hart} (hspad : g.spad = k.spad) {n : Nat} (hk : otherSlots h k n) : otherSlots h g n := by
  intro a ha
  rw [hspad]
  exact hk a ha

/-- The fields of a slot are in the scratchpad, at the slot's offset. -/
theorem slotIs_congr {g h : Hart} (hbase : g.csr.slbase = h.csr.slbase) (hspad : g.spad = h.spad) {n : Nat} {value : Word}
    {seq : BitVec 32} {ovr st flags : Nat} (hslot : slotIs h n value seq ovr st flags) : slotIs g n value seq ovr st flags := by
  unfold slotIs slotValue slotSeq slotOvr slotState slotFlags slotOffset at hslot ⊢
  rw [hbase, hspad]
  exact hslot

/-- A pending result changes the registers alone (R150). -/
theorem writePending_frame (h : Hart) (r : SReg) (v : Word) : writePending h r v =
    { h with regs := (writePending h r v).regs, pending := (writePending h r v).pending, queue := (writePending h r v).queue } := by
  unfold writePending writeAfter
  split <;> rfl

/-- Setting the state of a slot changes that byte of it alone (R58). -/
theorem slotState_setSlotState (h : Hart) (n : Nat) {st : Nat} (hst : st < 256) : slotState (setSlotState h n st) n = st := by
  have hbyte : sget (setSlotState h n st).spad (slotOffset h n + 14) = BitVec.ofNat 8 st := by
    simp only [setSlotState, sget_sset, if_pos]
  refine (congrArg BitVec.toNat hbyte).trans ?_
  rw [BitVec.toNat_ofNat]
  exact Nat.mod_eq_of_lt hst

theorem slotValue_setSlotState (h : Hart) (n st : Nat) : slotValue (setSlotState h n st) n = slotValue h n := by
  refine congrArg word (sgetBytes_congr _ _ _ _ (fun a hlo hhi => ?_))
  have ha : slotOffset (setSlotState h n st) n = slotOffset h n := rfl
  rw [ha] at hlo hhi
  simp only [setSlotState, sget_sset]
  rw [if_neg (by omega)]

/-! ### The home's answer (R220) -/

theorem answerSlot_accepted (h : Hart) (a : StandAnswer) (hkept : a.kept = none) (hr : a.refusal = 0) :
    answerSlot h a = { writeSlot h a.slot a.value a.seq 0 1 0 with recv := sset h.recv a.slot (BitVec.ofNat 32 a.held) } := by
  have hrecv : ∀ ovr st flags : Nat, ({ writeSlot h a.slot a.value a.seq ovr st flags with
      recv := sset (writeSlot h a.slot a.value a.seq ovr st flags).recv a.slot (BitVec.ofNat 32 a.held) } : Hart) =
      { writeSlot h a.slot a.value a.seq ovr st flags with recv := sset h.recv a.slot (BitVec.ofNat 32 a.held) } := fun _ _ _ => rfl
  unfold answerSlot
  rw [if_pos hr, hkept]
  exact hrecv 0 1 0

theorem answerSlot_refused (h : Hart) (a : StandAnswer) (hr : a.refusal ≠ 0) :
    answerSlot h a = writeSlot h a.slot a.value 0 a.refusal 3 0 := if_neg hr

/-- What a written slot is, its hart is with another received count. -/
theorem slotIs_withRecv (h : Hart) (r : Sparse 32) {n : Nat} {value : Word} {seq : BitVec 32} {ovr st flags : Nat}
    (hslot : slotIs h n value seq ovr st flags) : slotIs { h with recv := r } n value seq ovr st flags := hslot

theorem otherSlots_withRecv (h g : Hart) (r : Sparse 32) {n : Nat} (hg : otherSlots h g n) : otherSlots h { g with recv := r } n := hg

theorem received_withRecv (h : Hart) (m : Sparse 32) (n : Nat) (b : BitVec 32) : received { h with recv := sset m n b } n = b.toNat := by
  simp only [received, sget_sset, if_pos]

theorem answerSlot_arms (h : Hart) (a : StandAnswer) (hkept : a.kept = none) (hr : a.refusal = 0) :
    slotIs (answerSlot h a) a.slot a.value a.seq 0 1 0 ∧ otherSlots h (answerSlot h a) a.slot ∧
      received (answerSlot h a) a.slot = a.held % 2 ^ 32 := by
  rw [answerSlot_accepted h a hkept hr]
  exact ⟨slotIs_withRecv _ _ (slotIs_writeSlot h a.slot a.value a.seq (by decide) (by decide) (by decide)),
    otherSlots_withRecv _ _ _ (otherSlots_writeSlot h a.slot a.value a.seq 0 1 0), (received_withRecv ..).trans (BitVec.toNat_ofNat ..)⟩

theorem answerSlot_refuses (h : Hart) (a : StandAnswer) (hr : a.refusal ≠ 0) (hlt : a.refusal < 2 ^ 16) :
    slotIs (answerSlot h a) a.slot a.value 0 a.refusal 3 0 ∧ otherSlots h (answerSlot h a) a.slot := by
  rw [answerSlot_refused h a hr]
  exact ⟨slotIs_writeSlot h a.slot a.value 0 hlt (by decide) (by decide), otherSlots_writeSlot h a.slot a.value 0 a.refusal 3 0⟩

/-- The hart of a slot that its answer arms or refuses keeps all but its scratchpad and its received counts. -/
theorem answerSlot_frame (h : Hart) (a : StandAnswer) (hkept : a.kept = none) :
    ∃ spad recv, answerSlot h a = { h with spad := spad, recv := recv } := by
  have hframe : ∀ (q : BitVec 32) (ovr st flags : Nat) r, ({ writeSlot h a.slot a.value q ovr st flags with recv := r } : Hart) =
      { h with spad := (writeSlot h a.slot a.value q ovr st flags).spad, recv := r } := fun _ _ _ _ _ => rfl
  have hspad : ∀ (q : BitVec 32) (ovr st flags : Nat), writeSlot h a.slot a.value q ovr st flags =
      { h with spad := (writeSlot h a.slot a.value q ovr st flags).spad, recv := h.recv } := fun _ _ _ _ => rfl
  by_cases hr : a.refusal = 0
  · rw [answerSlot_accepted h a hkept hr]
    exact ⟨_, _, hframe a.seq 0 1 0 _⟩
  · rw [answerSlot_refused h a hr]
    exact ⟨_, _, hspad 0 a.refusal 3 0⟩

/-! ### Pushes (R221) -/

theorem applyPush_newer (h : Hart) (n : Nat) (v : Word) (q : BitVec 32) (hq : newer q (slotSeq h n) = true) :
    ∃ banks, applyPush h n v q = { latchHart (writeSlot h n v q
      (if slotFlags h n % 2 = 1 then Nat.min (slotOvr h n + 1) 0xFFFF else slotOvr h n) (slotState h n)
      ((if slotFlags h n % 2 = 1 then slotFlags h n ||| 2 else slotFlags h n) ||| 1)) with banks := banks } := by
  unfold applyPush
  rw [if_pos hq]
  dsimp only
  split
  · rw [countHart_frame, countHart_frame]
    exact ⟨_, rfl⟩
  · rw [countHart_frame]
    exact ⟨_, rfl⟩

theorem applyPush_older (h : Hart) (n : Nat) (v : Word) (q : BitVec 32) (hq : newer q (slotSeq h n) = false) :
    ∃ banks, applyPush h n v q = { h with banks := banks } := by
  unfold applyPush
  rw [hq, if_neg (by decide), countHart_frame]
  exact ⟨_, rfl⟩

/-- A push leaves all of its hart but the slot, the event latch and the counts. -/
theorem applyPush_frame (h : Hart) (n : Nat) (v : Word) (q : BitVec 32) : ∃ banks status,
    applyPush h n v q = { h with banks := banks, csr := { h.csr with status := status }, spad := (applyPush h n v q).spad } := by
  cases hq : newer q (slotSeq h n) with
  | true =>
    obtain ⟨banks, he⟩ := applyPush_newer h n v q hq
    rw [he]
    exact ⟨banks, _, rfl⟩
  | false =>
    obtain ⟨banks, he⟩ := applyPush_older h n v q hq
    rw [he]
    exact ⟨banks, h.csr.status, rfl⟩

theorem orFlag_lt {x : Nat} (hx : x < 256) (y : Nat) (hy : y < 256) : x ||| y < 256 := Nat.or_lt_two_pow (n := 8) hx hy

/-- The slot that a newer push leaves: fresh, with the push's value and sequence, and its overrun counted (R221). -/
theorem applyPush_slot (h : Hart) (n : Nat) (v : Word) (q : BitVec 32) (hq : newer q (slotSeq h n) = true) :
    slotIs (applyPush h n v q) n v q (if slotFlags h n % 2 = 1 then Nat.min (slotOvr h n + 1) 0xFFFF else slotOvr h n) (slotState h n)
      ((if slotFlags h n % 2 = 1 then slotFlags h n ||| 2 else slotFlags h n) ||| 1) ∧
    otherSlots h (applyPush h n v q) n ∧ (applyPush h n v q).csr.status.getLsbD 6 = true := by
  obtain ⟨banks, he⟩ := applyPush_newer h n v q hq
  have hflags := slotFlags_lt h n
  have hovr := slotOvr_lt h n
  have hstate : slotState h n < 256 := (sget h.spad (slotOffset h n + 14)).isLt
  rw [he]
  generalize hovr' : (if slotFlags h n % 2 = 1 then Nat.min (slotOvr h n + 1) 0xFFFF else slotOvr h n) = ovr
  generalize hflags' : (if slotFlags h n % 2 = 1 then slotFlags h n ||| 2 else slotFlags h n) ||| 1 = flags
  let w := writeSlot h n v q ovr (slotState h n) flags
  refine ⟨slotIs_congr (h := w) rfl rfl (slotIs_writeSlot h n v q ?_ hstate ?_),
    otherSlots_congr (k := w) rfl (otherSlots_writeSlot h n v q ovr (slotState h n) flags), latchHart_latched w⟩
  · rw [← hovr']
    split
    · exact Nat.lt_of_le_of_lt (Nat.min_le_right _ _) (by decide)
    · exact hovr
  · rw [← hflags']
    refine orFlag_lt ?_ 1 (by decide)
    split
    · exact orFlag_lt hflags 2 (by decide)
    · exact hflags

/-- A slot that does not drain has no count to be complete (R224). -/
theorem settleDrain_armed (s : State) {n : Nat} (h : slotState s.hart n ≠ 2) : settleDrain s s.hart.core n = s := by
  unfold settleDrain
  rw [hartAt_self]
  split
  · rfl
  · rw [if_neg (fun hc => h hc.1)]

/-- Only a slot is written, with the unstands settled, when a drain completes. -/
theorem settleDrain_homes (s : State) (core n : Nat) :
    (settleDrain s core n).directory = s.directory ∧ (settleDrain s core n).bounces = s.bounces := by
  unfold settleDrain
  split
  · exact ⟨rfl, rfl⟩
  · dsimp only
    split
    · unfold onCore
      split <;> exact ⟨rfl, rfl⟩
    · exact ⟨rfl, rfl⟩

end Sys2Proof.Machine

namespace Sys2Proof.Claims

open Sys2Proof.Machine

/-! ### What arrives from the homes -/

theorem standAnswer_arrives (s : State) (k : Nat) (a : StandAnswer) (ha : s.stands[k]? = some a) (hc : a.core = s.hart.core)
    (hlt : a.refusal < 2 ^ 16) (hkept : a.kept = none) :
    ∃ t, exec (.standAnswer k) s = .next t ∧ t.stands = s.stands.eraseIdx k ∧ t.mem = s.mem ∧
      otherSlots s.hart t.hart a.slot ∧
      (if a.refusal = 0 then slotIs t.hart a.slot a.value a.seq 0 1 0 ∧ received t.hart a.slot = a.held % 2 ^ 32
        else slotIs t.hart a.slot a.value 0 a.refusal 3 0) ∧
      (∀ d, a.rd = some d → pendingNow s.hart t.hart d false ∧ ∀ q, getReg t q = if q = d ∧ d ≠ 0 then a.value else getReg s q) ∧
      (a.rd = none → t.hart.regs = s.hart.regs) := by
  let h1 := answerSlot s.hart a
  let h2 := match a.rd with
    | some r => writePending h1 r a.value
    | none => h1
  have hexec : exec (.standAnswer k) s = .next { s with stands := s.stands.eraseIdx k, hart := h2 } := by
    show execStandAnswer k s = _
    unfold execStandAnswer
    rw [ha]
    dsimp only
    rw [hc]
    exact congrArg Host.Outcome.next (onCore_self { s with stands := s.stands.eraseIdx k } _)
  obtain ⟨spad, recv, hframe⟩ := answerSlot_frame s.hart a hkept
  have hh2 : h2 = { h1 with regs := h2.regs, pending := h2.pending, queue := h2.queue } := by
    simp only [h2]
    split
    · exact writePending_frame ..
    · rfl
  have hslots : otherSlots s.hart h1 a.slot ∧ (if a.refusal = 0 then slotIs h1 a.slot a.value a.seq 0 1 0 ∧
      received h1 a.slot = a.held % 2 ^ 32 else slotIs h1 a.slot a.value 0 a.refusal 3 0) := by
    by_cases hr : a.refusal = 0
    · obtain ⟨hslot, hother, hrecv⟩ := answerSlot_arms s.hart a hkept hr
      rw [if_pos hr]
      exact ⟨hother, hslot, hrecv⟩
    · obtain ⟨hslot, hother⟩ := answerSlot_refuses s.hart a hr hlt
      rw [if_neg hr]
      exact ⟨hother, hslot⟩
  refine ⟨_, hexec, rfl, rfl, ?_, ?_, fun d hd => ?_, fun hd => ?_⟩
  · dsimp only
    rw [hh2]
    exact hslots.1
  · dsimp only
    rw [hh2]
    exact hslots.2
  · have he : h2 = writePending h1 d a.value := by simp only [h2, hd]
    have hp : h1.pending = s.hart.pending := by
      have e := congrArg Hart.pending hframe
      exact e
    have hr : ∀ q, regOf h1 q = regOf s.hart q := fun q => by
      have e := congrArg (fun g => regOf g q) hframe
      exact e
    dsimp only
    rw [he]
    refine ⟨fun r => ?_, fun q => ?_⟩
    · rw [← hp]
      exact pendingNow_writePending h1 d a.value r
    · exact (regOf_writePending h1 d a.value q).trans (by rw [hr]; rfl)
  · have he : h2 = h1 := by simp only [h2, hd]
    dsimp only
    rw [he]
    have e := congrArg Hart.regs hframe
    exact e

/-- A push of a slot of the acting hart is handled there once it arrives behind no recovered packet. -/
theorem execPushArrival_mine (s : State) (k : Nat) (p : Push) (hp : s.pushes[k]? = some p) (hmesh : p.transit = .mesh)
    (hrec : recovering s p.endpoint = 0) :
    exec (.pushArrival k) s = .next (deliver (unsuspect { s with pushes := s.pushes.eraseIdx k } p.id) p) := by
  show execPushArrival k s = _
  unfold execPushArrival
  rw [hp]
  dsimp only
  rw [if_pos ⟨hmesh, hrec⟩]

/-- No answer is on its way to a slot of the hart that has none outstanding. -/
theorem noAnswer_of_free {s : State} {core n part launch pa : Nat} (h : standOutstanding s core n = false) :
    s.stands.any (fun a => a.core == core && a.slot == n && a.part == part && a.launch == launch && a.pa == pa) = false := by
  rw [List.any_eq_false]
  intro a ha hall
  refine (List.any_eq_false.1 h) a ha ?_
  simp only [Bool.and_eq_true] at hall
  obtain ⟨⟨⟨hslot, -⟩, -⟩, -⟩ := hall
  rw [Bool.and_eq_true]
  exact hslot

theorem runsGang_self {h : Hart} (ho : h.owner.isSome = true) : runsGang h (partOf h) (launchOf h) (gangOf h) = true := by
  obtain ⟨o, ho⟩ := Option.isSome_iff_exists.1 ho
  simp [runsGang, runsFor, partOf, launchOf, gangOf, ho]

theorem push_arrives (s : State) (k : Nat) (p : Push) (n : Nat) (hp : s.pushes[k]? = some p) (hmesh : p.transit = .mesh)
    (hrec : recovering s p.endpoint = 0) (hwho : p.who = slotOwner s.hart n) (howner : s.hart.owner.isSome = true)
    (hfree : standOutstanding s s.hart.core n = false) (hparked : parkedAt s p.pa p.who = false) (harmed : slotState s.hart n = 1) :
    let h := s.hart
    let fresh := decide (slotFlags h n % 2 = 1)
    ∃ t, exec (.pushArrival k) s = .next t ∧ t.pushes = s.pushes.eraseIdx k ∧ t.hart.regs = s.hart.regs ∧
      otherSlots h t.hart n ∧ received t.hart n = (received h n + 1) % 2 ^ 32 ∧
      (1 ≤ (p.seq - slotSeq h n).toNat ∧ (p.seq - slotSeq h n).toNat ≤ 2 ^ 31 →
        slotIs t.hart n p.value p.seq (if fresh then Nat.min (slotOvr h n + 1) 0xFFFF else slotOvr h n) 1
          ((if fresh then slotFlags h n ||| 2 else slotFlags h n) ||| 1) ∧ t.hart.csr.status.getLsbD 6 = true) ∧
      (¬(1 ≤ (p.seq - slotSeq h n).toNat ∧ (p.seq - slotSeq h n).toNat ≤ 2 ^ 31) → t.hart.spad = h.spad) := by
  intro h fresh
  let g := receive h n 1
  let t : State := { unsuspect { s with pushes := s.pushes.eraseIdx k } p.id with hart := applyPush g n p.value p.seq }
  have hstate : slotState (applyPush g n p.value p.seq) n = 1 := by
    cases hq : newer p.seq (slotSeq g n) with
    | true =>
      obtain ⟨⟨-, -, -, hst, -⟩, -⟩ := applyPush_slot g n p.value p.seq hq
      exact hst.trans harmed
    | false =>
      obtain ⟨banks, he⟩ := applyPush_older g n p.value p.seq hq
      rw [he]
      exact harmed
  have hexec : exec (.pushArrival k) s = .next t := by
    rw [execPushArrival_mine s k p hp hmesh hrec]
    unfold deliver
    have hself := hartAt_self (unsuspect { s with pushes := s.pushes.eraseIdx k } p.id)
    have hon := onCore_self (unsuspect { s with pushes := s.pushes.eraseIdx k } p.id) (fun h => applyPush (receive h n 1) n p.value p.seq)
    rw [hwho] at hparked ⊢
    unfold slotOwner at hparked ⊢
    dsimp only
    rw [show (unsuspect { s with pushes := s.pushes.eraseIdx k } p.id).stands = s.stands from rfl, noAnswer_of_free hfree,
      show parkedAt (unsuspect { s with pushes := s.pushes.eraseIdx k } p.id) p.pa _ = false from hparked, if_neg (by decide),
      if_neg (by decide)]
    have hrun : (runsGang (hartAt (unsuspect { s with pushes := s.pushes.eraseIdx k } p.id) s.hart.core) (partOf s.hart)
        (launchOf s.hart) (gangOf s.hart) && (slotState (hartAt (unsuspect { s with pushes := s.pushes.eraseIdx k } p.id)
          s.hart.core) n == 1 || slotState (hartAt (unsuspect { s with pushes := s.pushes.eraseIdx k } p.id) s.hart.core) n == 2)) =
        true := by
      rw [show hartAt (unsuspect { s with pushes := s.pushes.eraseIdx k } p.id) s.hart.core = s.hart from hself,
        runsGang_self howner, harmed]
      rfl
    rw [if_pos hrun, show onCore (unsuspect { s with pushes := s.pushes.eraseIdx k } p.id) s.hart.core
      (fun h => applyPush (receive h n 1) n p.value p.seq) = t from hon]
    have hcore : t.hart.core = s.hart.core := by
      obtain ⟨banks, status, he⟩ := applyPush_frame g n p.value p.seq
      have e := congrArg Hart.core he
      exact e
    rw [← hcore, settleDrain_armed t (by rw [hstate]; decide)]
  obtain ⟨banks, status, hframe⟩ := applyPush_frame g n p.value p.seq
  have hother : otherSlots h (applyPush g n p.value p.seq) n := by
    cases hq : newer p.seq (slotSeq g n) with
    | true => exact (applyPush_slot g n p.value p.seq hq).2.1
    | false =>
      obtain ⟨banks, he⟩ := applyPush_older g n p.value p.seq hq
      rw [he]
      exact fun _ _ => rfl
  have hrecv : received (applyPush g n p.value p.seq) n = (received h n + 1) % 2 ^ 32 := by
    have hg : (applyPush g n p.value p.seq).recv = g.recv := by
      have e := congrArg Hart.recv hframe
      exact e
    unfold received
    rw [hg]
    simp only [g, receive, sget_sset, if_pos, BitVec.toNat_ofNat]
    rfl
  have hregs : t.hart.regs = s.hart.regs := by
    have e := congrArg Hart.regs hframe
    exact e
  refine ⟨t, hexec, rfl, hregs, hother, hrecv, fun hnew => ?_, fun hold => ?_⟩
  · obtain ⟨hslot, -, hlatch⟩ := applyPush_slot g n p.value p.seq (decide_eq_true hnew)
    have hg : slotState g n = 1 := harmed
    rw [hg] at hslot
    refine ⟨?_, hlatch⟩
    simp only [fresh, decide_eq_true_eq]
    exact hslot
  · obtain ⟨banks, he⟩ := applyPush_older g n p.value p.seq (decide_eq_false hold)
    have e := congrArg Hart.spad he
    exact e

theorem push_bounces (s : State) (k : Nat) (p : Push) (n : Nat) (hp : s.pushes[k]? = some p) (hmesh : p.transit = .mesh)
    (hrec : recovering s p.endpoint = 0) (hwho : p.who = slotOwner s.hart n) (hfree : standOutstanding s s.hart.core n = false)
    (hparked : parkedAt s p.pa p.who = true) : ∃ t, exec (.pushArrival k) s = .next t ∧ t.pushes = s.pushes.eraseIdx k ∧
      t.bounces = s.bounces ++ [p] ∧ t.hart = s.hart := by
  have hexec : exec (.pushArrival k) s = .next { unsuspect { s with pushes := s.pushes.eraseIdx k } p.id with
      bounces := s.bounces ++ [p] } := by
    rw [execPushArrival_mine s k p hp hmesh hrec]
    unfold deliver
    rw [hwho] at hparked ⊢
    unfold slotOwner at hparked ⊢
    dsimp only
    rw [show (unsuspect { s with pushes := s.pushes.eraseIdx k } p.id).stands = s.stands from rfl, noAnswer_of_free hfree,
      show parkedAt (unsuspect { s with pushes := s.pushes.eraseIdx k } p.id) p.pa _ = true from hparked, if_neg (by decide), if_pos rfl]
    rfl
  exact ⟨_, hexec, rfl, rfl, rfl⟩

theorem bounceDrain_homes (s : State) (p : Push) :
    (bounceDrain s p).directory = s.directory ∧ (bounceDrain s p).bounces = s.bounces := by
  unfold bounceDrain
  split
  · exact settleDrain_homes ..
  · exact ⟨rfl, rfl⟩

/-- The entry that takes the place of the entries of a word is the one found for it. -/
theorem find?_replaced {l : List DirEntry} {pa : Nat} {d e : DirEntry} (he : l.find? (fun y => y.pa == pa) = some e) (hd : d.pa = pa) :
    (l.map (fun y => if y.pa = pa then d else y)).find? (fun y => y.pa == pa) = some d := by
  have hpa : e.pa = pa := by simpa using List.find?_some he
  have hsame : ((fun y : DirEntry => y.pa == pa) ∘ fun y => if y.pa = pa then d else y) = fun y => y.pa == pa := by
    funext y
    by_cases hy : y.pa = pa <;> simp [hy, hd]
  rw [List.find?_map, hsame, he, Option.map_some, if_pos hpa]

/-- The entry of a home whose one subscription changes and completes no re-arm. -/
theorem atHome_lone {s : State} {pa : Nat} {who : Subscriber} {f : Sub → Sub} {e : DirEntry} {b : Sub}
    (he : s.directory.find? (fun y => y.pa == pa) = some e) (hb : e.subs = [b]) (hwho : b.who = who) (hrearm : (f b).rearm = none) :
    (atHome s pa who f).directory.find? (fun y => y.pa == pa) = some { e with subs := [f b] } := by
  have hrun : completeRearm pa (f b) = (f b, []) := by
    unfold completeRearm
    rw [hrearm]
  have hpa : e.pa = pa := by simpa using List.find?_some he
  unfold atHome
  rw [he]
  dsimp only
  rw [hb, List.map_cons, List.map_nil, if_pos hwho, hrun]
  exact find?_replaced (d := { e with subs := [f b] }) he hpa

theorem atHome_bounces (s : State) (pa : Nat) (who : Subscriber) (f : Sub → Sub) : (atHome s pa who f).bounces = s.bounces := by
  unfold atHome
  split <;> rfl

theorem bounce_counted (s : State) (k : Nat) (p : Push) (hp : s.bounces[k]? = some p) :
    ∃ t, exec (.pushBounce k) s = .next t ∧ t.bounces = s.bounces.eraseIdx k ∧
      ∀ e b, s.directory.find? (fun y => y.pa == p.pa) = some e → e.subs = [b] → b.who = p.who → b.rearm = none →
        ∃ f g, t.directory.find? (fun y => y.pa == p.pa) = some f ∧ f.subs = [g] ∧ g.sent = b.sent - 1 ∧
          (b.parked = true → g.latest = match b.latest with
            | none => some (p.value, p.seq)
            | some x => if newer p.seq x.2 then some (p.value, p.seq) else some x) := by
  let s1 : State := { s with bounces := s.bounces.eraseIdx k, husks := s.husks.map (wakeFor p.who) }
  obtain ⟨hdir, hbounces⟩ := bounceDrain_homes (atHome s1 p.pa p.who (bounceSub p)) p
  have hexec : exec (.pushBounce k) s = .next (bounceDrain (atHome s1 p.pa p.who (bounceSub p)) p) := by
    show execPushBounce k s = _
    unfold execPushBounce
    rw [hp]
  refine ⟨_, hexec, hbounces.trans (atHome_bounces ..), fun e b he hb hwho hrearm => ?_⟩
  refine ⟨{ e with subs := [bounceSub p b] }, bounceSub p b, ?_, rfl, rfl, fun hparked => ?_⟩
  · rw [hdir]
    exact atHome_lone (s := s1) he hb hwho hrearm
  · unfold bounceSub
    exact if_pos hparked

theorem unstandAnswer_settles (s : State) (k : Nat) (u : Unstand) (hu : s.unstands[k]? = some u) (hc : u.core = s.hart.core)
    (honly : ∀ x ∈ s.unstands, x ≠ u → x.core ≠ u.core ∨ x.slot ≠ u.slot) (hdrain : slotState s.hart u.slot = 2) :
    ∃ t, exec (.unstandAnswer k) s = .next t ∧
      (received s.hart u.slot = u.count → slotState t.hart u.slot = 0 ∧ pendingNow s.hart t.hart u.rd false ∧
        ∀ q, getReg t q = if q = u.rd ∧ q ≠ 0 then statusWord 8 0 u.count (slotSeq s.hart u.slot).toNat else getReg s q) ∧
      (received s.hart u.slot ≠ u.count → t.hart = s.hart) := by
  obtain ⟨hk, huk⟩ := List.getElem?_eq_some_iff.1 hu
  let us := s.unstands.set k { u with arrived := true }
  have hmem : ({ u with arrived := true } : Unstand) ∈ us := List.mem_iff_getElem.2 ⟨k, by simpa [us] using hk, by simp [us]⟩
  obtain ⟨x, hx⟩ : ∃ x, us.find? (fun y => y.core == u.core && y.slot == u.slot && y.arrived) = some x := by
    rw [← Option.isSome_iff_exists, List.find?_isSome]
    exact ⟨_, hmem, by simp⟩
  have hsame : x.count = u.count ∧ x.rd = u.rd := by
    have hmatch := List.find?_some hx
    simp only [Bool.and_eq_true, beq_iff_eq] at hmatch
    obtain ⟨⟨hxc, hxs⟩, -⟩ := hmatch
    rcases List.mem_or_eq_of_mem_set (List.mem_of_find?_eq_some hx) with hin | rfl
    · by_cases hxu : x = u
      · rw [hxu]
        exact ⟨rfl, rfl⟩
      · exact absurd (honly x hin hxu) (by simp [hxc, hxs])
    · exact ⟨rfl, rfl⟩
  have hexec : exec (.unstandAnswer k) s = .next (settleDrain { s with unstands := us } s.hart.core u.slot) := by
    show execUnstandAnswer k s = _
    unfold execUnstandAnswer
    rw [hu, ← hc]
  have hsettle : settleDrain { s with unstands := us } s.hart.core u.slot =
      if received s.hart u.slot = u.count then
        { s with
          unstands := us.filter (fun y => !(y.core == s.hart.core && y.slot == u.slot))
          hart := writePending (setSlotState s.hart u.slot 0) u.rd (statusWord 8 0 u.count (slotSeq s.hart u.slot).toNat) }
      else { s with unstands := us } := by
    have hself := hartAt_self { s with unstands := us }
    unfold settleDrain
    dsimp only
    rw [← hc, hx]
    dsimp only
    rw [hc, hself]
    dsimp only
    rw [hsame.1, hsame.2]
    refine if_congr ⟨fun h => h.2, fun h => ⟨hdrain, h⟩⟩ ?_ rfl
    exact onCore_self { s with unstands := us.filter (fun y => !(y.core == s.hart.core && y.slot == u.slot)) } _
  refine ⟨_, hexec, fun hcount => ?_, fun hcount => ?_⟩
  · rw [hsettle, if_pos hcount]
    refine ⟨?_, fun r => pendingNow_writePending (setSlotState s.hart u.slot 0) u.rd _ r, fun q => ?_⟩
    · dsimp only
      rw [writePending_frame]
      exact slotState_setSlotState s.hart u.slot (st := 0) (by decide)
    · have hreg := regOf_writePending (setSlotState s.hart u.slot 0) u.rd (statusWord 8 0 u.count (slotSeq s.hart u.slot).toNat) q
      refine hreg.trans (if_congr ⟨fun h => ⟨h.1, h.1 ▸ h.2⟩, fun h => ⟨h.1, h.1 ▸ h.2⟩⟩ rfl rfl)
  · rw [hsettle, if_neg hcount]

theorem waitslTimeout_answers (s : State) (d : SReg) (n since due : Nat) (hcore : s.hart.core < 128)
    (hrun : s.hart.run = .waitSlot d n since due) (hdue : due ≤ s.clock) (hfresh : slotFlags s.hart n % 2 = 0) :
    ∃ t, exec (.waitslTimeout (me s)) s = .next t ∧ t.hart.run = .running ∧ t.hart.pc = s.hart.pc + 4 ∧
      ∀ q, getReg t q = if q = d ∧ q ≠ 0 then 0 else getReg s q := by
  have hanswer : stallAnswer s.hart n s.clock due = some 0 := by
    unfold stallAnswer
    rw [if_neg (by omega), if_pos hdue]
  have hexec : exec (.waitslTimeout (me s)) s = .next { s with hart := { withResult d 0 s.hart with run := .running } } := by
    have hme : (me s).val = s.hart.core := Nat.mod_eq_of_lt hcore
    show execWaitslTimeout (me s) s = _
    unfold execWaitslTimeout
    rw [hme, onCore_self]
    dsimp only
    rw [hrun]
    dsimp only
    rw [if_pos hanswer]
    rfl
  refine ⟨_, hexec, rfl, rfl, fun q => ?_⟩
  exact (regOf_withResult d 0 s.hart q).trans (if_congr ⟨fun h => ⟨h.1, h.1 ▸ h.2⟩, fun h => ⟨h.1, h.1 ▸ h.2⟩⟩ rfl rfl)

theorem standingEvents : StandingEvents := by
  intro s
  exact ⟨fun k a ha hc _ hlt hkept => standAnswer_arrives s k a ha hc hlt hkept,
    fun k p n hp hmesh hrec hwho howner hfree hparked harmed _ => push_arrives s k p n hp hmesh hrec hwho howner hfree hparked harmed,
    fun k p n hp hmesh hrec hwho hfree hparked => push_bounces s k p n hp hmesh hrec hwho hfree hparked,
    bounce_counted s,
    fun k u hu hc _ honly hdrain => unstandAnswer_settles s k u hu hc honly hdrain,
    fun d n since due hcore hrun hdue hfresh => waitslTimeout_answers s d n since due hcore hrun hdue hfresh⟩

end Sys2Proof.Claims

/-! Performing what a hart has sent does not look at the timeout point of a `WAITSL` (R103, R223). -/

namespace Sys2Proof.Machine

open Sys2Proof.Claims

/-- A hart with no timeout point kept. -/
def noWait (h : Hart) : Hart := { h with waitDue := none }

/-- A state whose acting hart keeps no timeout point. -/
def dropWait (s : State) : State := { s with hart := noWait s.hart }

theorem onCore_dropWait (s : State) (c : Nat) (f : Hart → Hart) (hf : ∀ h, f (noWait h) = noWait (f h)) :
    onCore (dropWait s) c f = dropWait (onCore s c f) := by
  unfold onCore
  by_cases hc : s.hart.core = c
  · rw [if_pos hc, if_pos (show (dropWait s).hart.core = c from hc)]
    exact congrArg (fun h => { s with hart := h }) (hf s.hart)
  · rw [if_neg hc, if_neg (show ¬(dropWait s).hart.core = c from hc)]
    rfl

theorem hartAt_dropWait {α : Type} (p : Hart → α) (hp : ∀ h, p (noWait h) = p h) (s : State) (c : Nat) :
    p (hartAt (dropWait s) c) = p (hartAt s c) := by
  unfold hartAt
  by_cases hc : s.hart.core = c
  · rw [if_pos hc, if_pos (show (dropWait s).hart.core = c from hc)]
    exact hp s.hart
  · rw [if_neg hc, if_neg (show ¬(dropWait s).hart.core = c from hc)]
    rfl

theorem classOfHart_dropWait (s : State) (c : Nat) :
    classOfHart (dropWait s) (hartAt (dropWait s) c) = classOfHart s (hartAt s c) :=
  hartAt_dropWait (classOfHart s) (fun _ => rfl) s c

/-! ### Writes at the homes -/

theorem sequenceWord_dropWait (s : State) (pa : Nat) : sequenceWord (dropWait s) pa = dropWait (sequenceWord s pa) := by
  unfold sequenceWord
  dsimp only [dropWait]
  split <;> rfl

theorem notifyWord_dropWait (s : State) (pa : Nat) : notifyWord (dropWait s) pa = dropWait (notifyWord s pa) := by
  unfold notifyWord
  rw [show (dropWait s).parts = s.parts from rfl]
  split
  · rfl
  · next p _ =>
    by_cases h : s.msix.contains (32 * p + bits (word8 s pa) 0 5) = true
    · rw [if_pos h, if_pos (show (dropWait s).msix.contains (32 * p + bits (word8 (dropWait s) pa) 0 5) = true from h)]
    · rw [if_neg h, if_neg (show ¬(dropWait s).msix.contains (32 * p + bits (word8 (dropWait s) pa) 0 5) = true from h)]
      rfl

theorem writeHome_dropWait (s : State) (keep : Option Nat) (pa size v : Nat) :
    writeHome (dropWait s) keep pa size v = dropWait (writeHome s keep pa size v) := by
  unfold writeHome
  dsimp only
  rw [← notifyWord_dropWait, ← sequenceWord_dropWait]
  rfl

theorem writeChunks_dropWait (s : State) (keep : Option Nat) (pa : Nat) (bs : List Byte) (fuel : Nat) :
    writeChunks (dropWait s) keep pa bs fuel = dropWait (writeChunks s keep pa bs fuel) := by
  induction fuel generalizing s pa bs with
  | zero => rfl
  | succ fuel ih =>
    unfold writeChunks
    split
    · rfl
    · dsimp only
      rw [writeHome_dropWait, ih]

theorem markEntry_dropWait (s : State) (part pa : Nat) (wr : Bool) :
    markEntry (dropWait s) part pa wr = ((markEntry s part pa wr).1, dropWait (markEntry s part pa wr).2) := by
  unfold markEntry
  generalize (if wr then 0x300#64 else 0x100#64) = mark
  rw [show word8 (dropWait s) pa = word8 s pa from rfl, show refusal (dropWait s) part pa = refusal s part pa from rfl]
  dsimp only
  split
  · rfl
  · rw [writeHome_dropWait]

theorem markUsed_dropWait (s : State) (part : Nat) (es : List (Nat × Bool)) (wr : Bool) :
    markUsed (dropWait s) part es wr = dropWait (markUsed s part es wr) := by
  fun_induction markUsed s part es wr with
  | case1 => rw [markUsed]
  | case2 s own e rest r ih =>
    rw [markUsed, ← ih, markEntry_dropWait]
    dsimp only
    split
    · rw [markEntry_dropWait]
    · rfl
  | case3 s x rest hx ih =>
    rw [markUsed, markEntry_dropWait, ih]
    exact hx

theorem dropOlds_dropWait (s : State) (core : Nat) (p : Place) : dropOlds (dropWait s) core p = dropWait (dropOlds s core p) := by
  unfold dropOlds
  by_cases h : s.olds.isEmpty = true
  · rw [if_pos h, if_pos (show (dropWait s).olds.isEmpty = true from h)]
  · rw [if_neg h, if_neg (show ¬(dropWait s).olds.isEmpty = true from h)]
    rfl

theorem roomInL1_dropWait (s : State) (core pa : Nat) : roomInL1 (dropWait s) core pa = dropWait (roomInL1 s core pa) := by
  unfold roomInL1
  rw [show dirtyLines (dropWait s) core pa = dirtyLines s core pa from rfl]
  dsimp only
  split
  · rfl
  · split <;> rfl

theorem classPushes_dropWait (n qos : Nat) (s : State) : classPushes n qos (dropWait s) = dropWait (classPushes n qos s) := rfl

/-! ### Stores and packets performed -/

/-- A state with the bytes of a store dirty in its hart's L1. -/
def withDirtyFor (s : State) (core pa size : Nat) : State := { s with dirty := s.dirty ++ dirtyFor s core pa size }

/-- A store written at its home, with the class of its hart given to its pushes. -/
def storedAt (s : State) (core pa : Nat) (st : Store) (h : Hart) : State :=
  classPushes s.pushes.length (classOfHart s h) (writeHome s (some core) pa st.size st.data.toNat)

theorem storedAt_dropWait (s u : State) (core pa : Nat) (st : Store) :
    storedAt (dropWait s) core pa st (hartAt (dropWait u) core) = dropWait (storedAt s core pa st (hartAt u core)) := by
  have hclass : classOfHart (dropWait s) (hartAt (dropWait u) core) = classOfHart s (hartAt u core) :=
    hartAt_dropWait (classOfHart s) (fun _ => rfl) u core
  unfold storedAt
  rw [hclass, writeHome_dropWait]
  rfl

theorem performStore_dropWait (s : State) (core : Nat) (st : Store) :
    performStore (dropWait s) core st = dropWait (performStore s core st) := by
  have hpart := fun u => hartAt_dropWait partOf (fun _ => rfl) u core
  unfold performStore
  rw [dropOlds_dropWait]
  generalize dropOlds s core st.place = u
  dsimp only
  split
  · exact onCore_dropWait u core _ (fun _ => rfl)
  · exact onCore_dropWait u core _ (fun _ => rfl)
  · next pa _ =>
    rw [hpart, markUsed_dropWait]
    generalize markUsed u (partOf (hartAt u core)) st.entries true = w
    rw [show uncached (dropWait w) _ = uncached w _ from rfl, roomInL1_dropWait]
    split
    · exact storedAt_dropWait w u core pa st
    · exact storedAt_dropWait (withDirtyFor (roomInL1 w core pa) core pa st.size) u core pa st

theorem placeBytes_dropWait (s : State) (core qos : Nat) (p : Place) (size data mask : Nat) :
    placeBytes (dropWait s) core qos p size data mask = dropWait (placeBytes s core qos p size data mask) := by
  unfold placeBytes
  rw [dropOlds_dropWait]
  generalize dropOlds s core p = u
  dsimp only
  split
  · exact onCore_dropWait u core _ (fun _ => rfl)
  · exact onCore_dropWait u core _ (fun _ => rfl)
  · unfold writeBytes
    rw [writeChunks_dropWait]
    rfl

theorem performPacket_dropWait (s : State) (p : Packet) : performPacket (dropWait s) p = dropWait (performPacket s p) := by
  have hpart := fun u => hartAt_dropWait partOf (fun _ => rfl) u p.core
  let w := withoutPacket s p
  have hmark : markUsed (dropWait w) (partOf (hartAt (dropWait w) p.core)) p.entries true =
      dropWait (markUsed w (partOf (hartAt w p.core)) p.entries true) := by
    rw [hpart, markUsed_dropWait]
  have heq : ∀ u : State, performPacket u p =
      let v := markUsed (withoutPacket u p) (partOf (hartAt (withoutPacket u p) p.core)) p.entries true
      match p.second with
      | none => placeBytes v p.core p.qos p.place p.size p.data p.mask
      | some q => placeBytes (placeBytes v p.core p.qos p.place 1 (p.data % 256) (p.mask % 256)) p.core p.qos q 1 (p.data / 256)
          (p.mask / 256) := fun _ => rfl
  rw [heq, heq, show withoutPacket (dropWait s) p = dropWait w from rfl, hmark]
  dsimp only
  split
  · exact placeBytes_dropWait ..
  · rw [placeBytes_dropWait]
    exact placeBytes_dropWait ..

theorem performWindow_dropWait (s : State) (fuel : Nat) : performWindow (dropWait s) fuel = dropWait (performWindow s fuel) := by
  induction fuel generalizing s with
  | zero => rfl
  | succ fuel ih =>
    unfold performWindow
    rw [show nextInWindow (dropWait s) = nextInWindow s from rfl]
    split
    · rw [performPacket_dropWait, ih]
    · rfl

/-- A run over a list of steps none of which looks at the timeout point. -/
theorem foldl_dropWait {α : Type} (f : State → α → State) (hf : ∀ s x, f (dropWait s) x = dropWait (f s x)) (xs : List α) (s : State) :
    xs.foldl f (dropWait s) = dropWait (xs.foldl f s) := by
  induction xs generalizing s with
  | nil => rfl
  | cons x xs ih => rw [List.foldl_cons, List.foldl_cons, hf, ih]

theorem drainRecovery_dropWait (s : State) (e : Nat) : drainRecovery (dropWait s) e = dropWait (drainRecovery s e) :=
  foldl_dropWait arrive (fun u p => performWindow_dropWait (setTransit (unsuspect u p.id) p.id .window) u.packets.length) _ s

theorem atHomeOf_dropWait (s : State) (p : Place) : atHomeOf (dropWait s) p = dropWait (atHomeOf s p) := by
  unfold atHomeOf
  split
  · exact drainRecovery_dropWait ..
  · rfl

theorem performNext_dropWait (s : State) (p : Packet) : performNext (dropWait s) p = dropWait (performNext s p) := by
  unfold performNext
  rw [drainRecovery_dropWait]
  dsimp only
  rw [show (dropWait (drainRecovery s p.endpoint)).packets = (drainRecovery s p.endpoint).packets from rfl]
  split
  · exact performPacket_dropWait ..
  · rfl

theorem performPackets_dropWait (s : State) (f : Packet → Bool) : performPackets (dropWait s) f = dropWait (performPackets s f) :=
  foldl_dropWait performNext performNext_dropWait _ s

theorem performBuffered_dropWait (s : State) (core : Nat) (st : Store) :
    performBuffered (dropWait s) core st = dropWait (performBuffered s core st) := by
  have hpackets : (if st.release then performPackets (dropWait s) (fun p => p.core == core && decide (p.seq ≤ st.after)) else dropWait s) =
      dropWait (if st.release then performPackets s (fun p => p.core == core && decide (p.seq ≤ st.after)) else s) := by
    split
    · exact performPackets_dropWait ..
    · rfl
  unfold performBuffered
  rw [hpackets]
  dsimp only
  rw [atHomeOf_dropWait, performStore_dropWait]
  split <;> rfl

theorem drainBuffer_dropWait (s : State) (core : Nat) : drainBuffer (dropWait s) core = dropWait (drainBuffer s core) := by
  have hout := hartAt_dropWait (fun h => h.buffer.takeWhile (storeReady h)) (fun _ => rfl) s core
  unfold drainBuffer
  dsimp only at hout ⊢
  rw [hout]
  have hdrop := onCore_dropWait s core (withoutOldest ((hartAt s core).buffer.takeWhile (storeReady (hartAt s core))).length) (fun _ => rfl)
  exact (congrArg (fun u => List.foldl (fun s st => performBuffered s core st) u _) hdrop).trans
    (foldl_dropWait _ (fun u st => performBuffered_dropWait u core st) _ _)

theorem acquireNow_dropWait (s : State) : acquireNow (dropWait s) = dropWait (acquireNow s) := by
  have hpackets := performPackets_dropWait s (fun p => p.core == s.hart.core)
  unfold acquireNow
  rw [show (dropWait s).hart.released = s.hart.released from rfl]
  split
  · dsimp only
    rw [show (dropWait s).hart.core = s.hart.core from rfl, hpackets, drainBuffer_dropWait]
    rfl
  · rfl

end Sys2Proof.Machine

/-! The scalar standing-load instructions (R219 to R224). -/

namespace Sys2Proof.Machine

open Sys2Proof.Claims

/-! ### What performing a hart's own accesses leaves of it -/

/-- A hart without what performing its own accesses, or an acquire of it, changes. -/
def settledHart (h : Hart) : Hart := { withoutStores h with released := false }

theorem settledHart_of_withoutMemories {g h : Hart} (e : withoutMemories g = withoutMemories { h with buffer := [] }) :
    settledHart g = settledHart h := by
  have e := congrArg settledHart e
  exact e

/-- What a hart keeps while its accesses are performed. -/
structure Settled (g h : Hart) : Prop where
  core : g.core = h.core
  owner : g.owner = h.owner
  pc : g.pc = h.pc
  regs : g.regs = h.regs
  pending : g.pending = h.pending
  csr : g.csr = h.csr
  run : g.run = h.run
  waitDue : g.waitDue = h.waitDue
  vec : g.vec = h.vec
  restart : g.restart = h.restart

theorem Settled.of_eq {g h : Hart} (e : settledHart g = settledHart h) : Settled g h := by
  have core := congrArg Hart.core e
  have owner := congrArg Hart.owner e
  have pc := congrArg Hart.pc e
  have regs := congrArg Hart.regs e
  have pending := congrArg Hart.pending e
  have csr := congrArg Hart.csr e
  have run := congrArg Hart.run e
  have waitDue := congrArg Hart.waitDue e
  have vec := congrArg Hart.vec e
  have restart := congrArg Hart.restart e
  exact ⟨core, owner, pc, regs, pending, csr, run, waitDue, vec, restart⟩

theorem Settled.refl (h : Hart) : Settled h h := Settled.of_eq rfl

theorem Settled.trans {f g h : Hart} (hfg : Settled f g) (hgh : Settled g h) : Settled f h :=
  ⟨hfg.core.trans hgh.core, hfg.owner.trans hgh.owner, hfg.pc.trans hgh.pc, hfg.regs.trans hgh.regs, hfg.pending.trans hgh.pending,
    hfg.csr.trans hgh.csr, hfg.run.trans hgh.run, hfg.waitDue.trans hgh.waitDue, hfg.vec.trans hgh.vec,
    hfg.restart.trans hgh.restart⟩

theorem Settled.slotOwner_eq {g h : Hart} (e : Settled g h) (n : Nat) : slotOwner g n = slotOwner h n := by
  simp only [slotOwner, partOf, launchOf, gangOf, e.core, e.owner]

theorem getReg_of_settled {s u : State} (e : Settled u.hart s.hart) (r : SReg) : getReg u r = getReg s r := by
  unfold getReg
  rw [e.regs]

theorem withoutOldest_all {h : Hart} (hd : drains h) :
    withoutOldest (h.buffer.takeWhile (storeReady h)).length h = { h with buffer := [] } := by
  rw [List.takeWhile_eq_self_iff.2 hd, withoutOldest, List.drop_length]

/-- A hart whose stores may all be performed has none once they are (R93). -/
theorem drainBuffer_hart {s : State} (hd : drains s.hart) :
    withoutMemories (drainBuffer s s.hart.core).hart = withoutMemories { s.hart with buffer := [] } := by
  have h := (List.cons.inj ((flushKeeps_harts withoutMemories (fun _ _ _ _ _ => rfl)).drainBuffer s s.hart.core)).1
  rw [hartAt_self, onCore_self] at h
  refine h.trans ?_
  rw [withoutOldest_all hd]

theorem drainBuffer_settled {s : State} (hd : drains s.hart) : settledHart (drainBuffer s s.hart.core).hart = settledHart s.hart :=
  settledHart_of_withoutMemories (drainBuffer_hart hd)

theorem drainBuffer_empty {s : State} (hd : drains s.hart) : (drainBuffer s s.hart.core).hart.buffer = [] := by
  have h := congrArg Hart.buffer (drainBuffer_hart hd)
  exact h

theorem performPackets_hart (s : State) (f : Packet → Bool) : withoutMemories (performPackets s f).hart = withoutMemories s.hart :=
  (List.cons.inj ((flushKeeps_harts withoutMemories (fun _ _ _ _ _ => rfl)).performPackets s f)).1

/-- A drain of the acting hart, whatever of its buffer may be performed, leaves all else of it. -/
theorem drainBuffer_withoutStores (s : State) (core : Nat) :
    settledHart (drainBuffer s core).hart = settledHart s.hart := by
  have hkeep := flushKeeps_harts settledHart (fun _ _ _ _ _ => rfl)
  have htaken : ∀ n, SameHarts settledHart s (onCore s core (withoutOldest n)) := fun n =>
    SameHarts.onCore s core (withoutOldest n) (fun _ => rfl)
  have hall : SameHarts settledHart s (drainBuffer s core) := hkeep.trans (htaken _) (hkeep.drainBuffer s core)
  exact (List.cons.inj hall).1

/-- An acquire leaves all of its hart but what performing its accesses changes (R101). -/
theorem acquireNow_settled (s : State) : settledHart (acquireNow s).hart = settledHart s.hart := by
  unfold acquireNow
  split
  · have h1 := congrArg settledHart (performPackets_hart s (fun p => p.core == s.hart.core))
    exact (drainBuffer_withoutStores (performPackets s (fun p => p.core == s.hart.core)) s.hart.core).trans h1
  · rfl

theorem flushKeeps_clock : FlushKeeps (fun s u => u.clock = s.clock) where
  refl _ := rfl
  trans h1 h2 := h2.trans h1
  write _ _ _ _ _ := writeHome_clock ..
  core s c f _ := by unfold onCore; split <;> rfl
  die _ _ := rfl
  memories s c f _ := by unfold onCore; split <;> rfl
  packets _ _ _ := rfl
  marks _ _ _ _ _ _ := rfl

theorem clock_drainBuffer (s : State) (core : Nat) : (drainBuffer s core).clock = s.clock :=
  (flushKeeps_clock.drainBuffer s core).trans (by unfold onCore; split <;> rfl)

/-! ### The stores before a standing instruction (R56, R93, R105) -/

/-- The stores of a hart that may all be performed are, where one of them satisfies `f`, before `k`. -/
theorem afterStores_drained {s : State} (hd : drains s.hart) (f : Store → Bool) (k : State → Out) :
    afterStores s f k = k (if s.hart.buffer.any f then drainBuffer s s.hart.core else s) := by
  unfold afterStores
  split
  · dsimp only
    rw [drainBuffer_empty hd, List.any_nil, if_neg (by decide)]
  · rfl

theorem slotsStored_settled {s : State} (hd : drains s.hart) : Settled (slotsStored s).hart s.hart := by
  unfold slotsStored
  split
  · exact Settled.of_eq (drainBuffer_settled hd)
  · exact Settled.refl _

theorem slotsStored_drains {s : State} (hd : drains s.hart) : drains (slotsStored s).hart := by
  unfold slotsStored
  split
  · unfold drains
    rw [drainBuffer_empty hd]
    exact fun st hst => absurd hst List.not_mem_nil
  · exact hd

theorem slotsStored_clock (s : State) : (slotsStored s).clock = s.clock := by
  unfold slotsStored
  split
  · exact clock_drainBuffer ..
  · rfl

theorem wordStored_settled {s : State} (hd : drains s.hart) (pa : Nat) : Settled (wordStored s pa).hart s.hart := by
  unfold wordStored
  split
  · exact Settled.of_eq (drainBuffer_settled hd)
  · exact Settled.refl _

/-- A standing instruction whose checks pass goes on behind the stores to its slots (R219). -/
theorem withSlot_free {s : State} {d r : SReg} (hf : frozen s.hart d = false) (hs : slotFree s r) (hd : drains s.hart)
    (k : State → Nat → Out) : withSlot s d r k = k (slotsStored s) (getReg s r).toNat := by
  obtain ⟨hlt, hfree⟩ := hs
  unfold withSlot
  rw [guardWrite_free s d _ hf]
  dsimp only
  rw [if_neg (Nat.not_le.2 hlt), hfree, if_neg (by decide), afterStores_drained hd]
  rfl

/-- A value acquired drops copies alone. -/
theorem acquireSlot_frame (s : State) (n : Nat) : acquireSlot s n = { s with olds := (acquireSlot s n).olds } := by
  unfold acquireSlot
  split <;> rfl

/-! ### Subscribing at the home (R220) -/

theorem subscribe_refusal (s : State) (who : Subscriber) (pa : Nat) : (subscribe s who pa).1 = refusalOf s (pa / 8 * 8) := by
  unfold subscribe refusalOf
  dsimp only
  rw [show leaseBase = 0x0008000000000000 from rfl]
  split
  · rfl
  · split
    · split <;> rfl
    · rw [bankEntries]
      split <;> rfl

theorem subscribe_frame (s : State) (who : Subscriber) (pa : Nat) :
    (subscribe s who pa).2.2 = { s with directory := (subscribe s who pa).2.2.directory } := by
  unfold subscribe
  dsimp only
  split
  · rfl
  · split <;> split <;> rfl

/-- A refused subscription leaves the directory. -/
theorem subscribe_refused {s : State} {who : Subscriber} {pa : Nat} (h : (subscribe s who pa).1 ≠ 0) :
    (subscribe s who pa).2.2.directory = s.directory := by
  unfold subscribe at h ⊢
  dsimp only at h ⊢
  split
  · rfl
  · next hbase =>
    rw [if_neg hbase] at h
    split
    · next e he =>
      rw [he] at h
      dsimp only at h
      split
      · rfl
      · next hroom => exact absurd (by rw [if_neg hroom]) h
    · next he =>
      rw [he] at h
      dsimp only at h
      split
      · rfl
      · next hroom => exact absurd (by rw [if_neg hroom]) h

/-- An accepted one is in its word's entry, with the entry's sequence. -/
theorem subscribe_accepted {s : State} {who : Subscriber} {pa : Nat} (h : (subscribe s who pa).1 = 0) :
    ∃ e ∈ (subscribe s who pa).2.2.directory, e.pa = pa / 8 * 8 ∧ e.seq = (subscribe s who pa).2.1 ∧
      ⟨who, 0, false, none, none⟩ ∈ e.subs := by
  unfold subscribe at h ⊢
  dsimp only at h ⊢
  split
  · next hbase =>
    rw [if_pos hbase] at h
    exact absurd h (show (3 : Nat) ≠ 0 by decide)
  · next hbase =>
    rw [if_neg hbase] at h
    split
    · next e he =>
      rw [he] at h
      dsimp only at h
      have hpa : e.pa = pa / 8 * 8 := by simpa using List.find?_some he
      split
      · next hroom =>
        rw [if_pos hroom] at h
        exact absurd h (show (1 : Nat) ≠ 0 by decide)
      · exact ⟨{ e with subs := e.subs ++ [⟨who, 0, false, none, none⟩] },
          List.mem_map.2 ⟨e, List.mem_of_find?_eq_some he, if_pos hpa⟩, hpa, rfl, by simp⟩
    · next he =>
      rw [he] at h
      dsimp only at h
      split
      · next hroom =>
        rw [if_pos hroom] at h
        exact absurd h (show (2 : Nat) ≠ 0 by decide)
      · exact ⟨⟨pa / 8 * 8, 0, [⟨who, 0, false, none, none⟩]⟩, by simp, rfl, rfl, by simp⟩

/-- The answer that the home sends to a request of the acting hart (R220). -/
def answerTo (s : State) (n pa : Nat) (rd : Option SReg) : StandAnswer :=
  let r := subscribe s (slotOwner s.hart n) pa
  ⟨s.hart.core, n, partOf s.hart, launchOf s.hart, pa / 8 * 8, rd, word8 s pa, r.2.1, r.1, 0, none⟩

/-- A request: its word is read, its answer is on the way, and no more than the directory and the copies of the word change. -/
theorem requestStand_eq (s : State) (n pa : Nat) (rd : Option SReg) : requestStand s n pa rd = (word8 s pa,
    { s with
      olds := (dropOlds s s.hart.core (.phys pa)).olds
      directory := (subscribe s (slotOwner s.hart n) pa).2.2.directory
      stands := s.stands ++ [answerTo s n pa rd] }) := by
  have holds : ∀ l, (subscribe { s with olds := l } (slotOwner s.hart n) pa).1 = (subscribe s (slotOwner s.hart n) pa).1 ∧
      (subscribe { s with olds := l } (slotOwner s.hart n) pa).2.1 = (subscribe s (slotOwner s.hart n) pa).2.1 ∧
      (subscribe { s with olds := l } (slotOwner s.hart n) pa).2.2 =
        { s with olds := l, directory := (subscribe s (slotOwner s.hart n) pa).2.2.directory } := by
    intro l
    unfold subscribe bankEntries
    dsimp only
    split
    · exact ⟨rfl, rfl, rfl⟩
    · split <;> split <;> exact ⟨rfl, rfl, rfl⟩
  have hdrop : dropOlds s s.hart.core (.phys pa) = { s with olds := (dropOlds s s.hart.core (.phys pa)).olds } := by
    unfold dropOlds
    split <;> rfl
  unfold requestStand
  rw [hdrop]
  generalize (dropOlds s s.hart.core (.phys pa)).olds = l
  obtain ⟨h1, h2, h3⟩ := holds l
  dsimp only
  rw [h1, h2, h3]
  rfl

end Sys2Proof.Machine

namespace Sys2Proof.Claims

open Sys2Proof.Machine

/-- The slot whose value is taken is fresh no more, and no other byte of the scratchpad changes (R222). -/
theorem clearFresh_slot (h : Hart) (n : Nat) :
    slotIs (clearFresh h n) n (slotValue h n) (slotSeq h n) (slotOvr h n) (slotState h n) (slotFlags h n / 2 * 2) ∧
      otherSlots h (clearFresh h n) n := by
  have hbyte : ∀ a, sget (clearFresh h n).spad a =
      if a = slotOffset h n + 15 then BitVec.ofNat 8 (slotFlags h n / 2 * 2) else sget h.spad a := fun a => sget_sset ..
  have hsame : ∀ i k, i + k ≤ 15 → sgetBytes (clearFresh h n).spad (slotOffset h n + i) k = sgetBytes h.spad (slotOffset h n + i) k :=
    fun i k hik => sgetBytes_congr _ _ _ _ (fun a hlo hhi => (hbyte a).trans (if_neg (by omega)))
  have hvalue := hsame 0 8 (by decide)
  rw [Nat.add_zero] at hvalue
  refine ⟨⟨congrArg word hvalue, congrArg (BitVec.ofNat 32) (hsame 8 4 (by decide)), hsame 12 2 (by decide), ?_, ?_⟩,
    fun a ha => (hbyte a).trans (if_neg (by omega))⟩
  · exact congrArg BitVec.toNat ((hbyte (slotOffset h n + 14)).trans (if_neg (by omega)))
  · have hflags := slotFlags_lt h n
    refine (Nat.add_zero _).trans ((congrArg BitVec.toNat ((hbyte (slotOffset h n + 15)).trans (if_pos rfl))).trans ?_)
    rw [BitVec.toNat_ofNat]
    omega

section Instructions

variable {s : State} {d r : SReg} (hf : frozen s.hart d = false) (hs : slotFree s r) (hd : drains s.hart)
include hf hs hd

theorem stand_subscribes :
    let u := slotsStored s
    let n := (getReg s r).toNat
    let st := slotState u.hart n
    ∀ a pa, (st = 0 ∨ st = 3) → (getReg s a).toNat % 8 = 0 → 0x400000 ≤ (getReg s a).toNat → u.bad = [] →
      cachedAt u (getReg s a) 8 .read pa →
      let v := acquireNow (wordStored u pa)
      ∃ t ans, exec (.stand d a r) s = .next t ∧ t.hart.pc = s.hart.pc + 4 ∧ t.hart.regs = s.hart.regs ∧ t.mem = v.mem ∧
        pendingNow s.hart t.hart d true ∧ t.stands = v.stands ++ [ans] ∧
        ans.core = s.hart.core ∧ ans.slot = n ∧ ans.rd = some d ∧ ans.pa = pa / 8 * 8 ∧ ans.value = word8 v pa ∧ ans.held = 0 ∧
        ans.refusal = refusalOf v (pa / 8 * 8) ∧
        (ans.refusal ≠ 0 → t.directory = v.directory) ∧
        (ans.refusal = 0 → ∃ e ∈ t.directory, e.pa = pa / 8 * 8 ∧ e.seq = ans.seq ∧
          ⟨slotOwner s.hart n, 0, false, none, none⟩ ∈ e.subs) := by
  intro u n st a pa hst halign hglobal hbad hcached v
  have hu : Settled u.hart s.hart := slotsStored_settled hd
  have hv : Settled v.hart s.hart := (Settled.of_eq (acquireNow_settled _)).trans ((wordStored_settled (slotsStored_drains hd) pa).trans hu)
  have hva : bits (getReg s a) 48 16 = 0 := by
    obtain ⟨hlt, -⟩ := hcached
    unfold bits
    omega
  have hidle : ¬(slotState (slotsStored s).hart n = 1 ∨ slotState (slotsStored s).hart n = 2 ∨ slotState (slotsStored s).hart n = 4) := by
    change ¬(st = 1 ∨ st = 2 ∨ st = 4)
    omega
  let w : State := { v with
    olds := (dropOlds v v.hart.core (.phys pa)).olds
    directory := (subscribe v (slotOwner v.hart n) pa).2.2.directory
    stands := v.stands ++ [answerTo v n pa (some d)] }
  have hexec : exec (.stand d a r) s = .next (advance { w with hart := setPending v.hart d }) := by
    show execStand d a r s = _
    unfold execStand
    rw [withSlot_free hf hs hd]
    dsimp only
    rw [getReg_of_settled hu, if_neg hidle, if_neg (not_not.2 hva), if_neg (not_not.2 halign),
      if_neg (show ¬(getReg s a).toNat < globalBase from Nat.not_lt.2 hglobal), translate_cached hcached]
    dsimp only
    rw [show badMem u pa 8 = false by unfold badMem; rw [hbad]; rfl, if_neg (by decide), afterStores_drained (slotsStored_drains hd),
      show (if u.hart.buffer.any (fun st => st.place.word8 == (Place.phys pa).word8) then drainBuffer u u.hart.core else u) =
        wordStored u pa from rfl, requestStand_eq]
  have hrefusal : (answerTo v n pa (some d)).refusal = refusalOf v (pa / 8 * 8) := subscribe_refusal ..
  refine ⟨_, answerTo v n pa (some d), hexec, ?_, ?_, rfl, ?_, rfl, hv.core, rfl, rfl, rfl, rfl, rfl, hrefusal, fun h => ?_, fun h => ?_⟩
  · have hpc : (setPending v.hart d).pc = v.hart.pc := by unfold setPending; split <;> rfl
    exact congrArg (· + 4) (hpc.trans hv.pc)
  · have hregs : (setPending v.hart d).regs = v.hart.regs := by unfold setPending; split <;> rfl
    exact hregs.trans hv.regs
  · intro q
    rw [← hv.pending]
    exact pendingNow_setPending v.hart d q
  · exact subscribe_refused h
  · obtain ⟨e, he, hpa, hseq, hsub⟩ := subscribe_accepted (s := v) (who := slotOwner v.hart n) (pa := pa) h
    rw [hv.slotOwner_eq] at hsub
    exact ⟨e, he, hpa, hseq, hsub⟩

theorem unstand_drains :
    let u := slotsStored s
    let n := (getReg s r).toNat
    let st := slotState u.hart n
    (st = 1 ∨ st = 4) → ∃ t, exec (.unstand d r) s = .next t ∧ t.hart.pc = s.hart.pc + 4 ∧ t.hart.regs = s.hart.regs ∧
      pendingNow s.hart t.hart d true ∧ slotState t.hart n = 2 ∧ slotValue t.hart n = slotValue u.hart n ∧
      t.unstands = u.unstands ++ [⟨s.hart.core, n, partOf s.hart, launchOf s.hart, (slotWords u n).headD 0, d, sentTo u (slotOwner s.hart n), false⟩] ∧
      ∀ e ∈ t.directory, ∀ b ∈ e.subs, b.who ≠ slotOwner s.hart n := by
  intro u n st hst
  have hu : Settled u.hart s.hart := slotsStored_settled hd
  let g := setSlotState u.hart n 2
  have hexec : exec (.unstand d r) s = .next (advance { dropSubs u (fun _ w => w == slotOwner s.hart n) with
      unstands := u.unstands ++ [⟨s.hart.core, n, partOf s.hart, launchOf s.hart, (slotWords u n).headD 0, d, sentTo u (slotOwner s.hart n), false⟩]
      hart := setPending g d }) := by
    show execUnstand d r s = _
    unfold execUnstand
    rw [withSlot_free hf hs hd]
    dsimp only
    rw [if_pos hst, hu.slotOwner_eq, hu.core, show partOf (slotsStored s).hart = partOf s.hart from congrArg (fun o => (o.map Owner.part).getD 0) hu.owner,
      show launchOf (slotsStored s).hart = launchOf s.hart from congrArg (fun o => (o.map Owner.launch).getD 0) hu.owner]
    rfl
  have hframe : setPending g d = { g with pending := (setPending g d).pending } := by unfold setPending; split <;> rfl
  refine ⟨_, hexec, ?_, ?_, ?_, ?_, ?_, rfl, fun e he b hb hwho => ?_⟩
  · have hpc := congrArg Hart.pc hframe
    exact congrArg (· + 4) (hpc.trans hu.pc)
  · have hregs := congrArg Hart.regs hframe
    exact hregs.trans hu.regs
  · intro q
    rw [← hu.pending]
    exact pendingNow_setPending g d q
  · have hstate := congrArg (fun h => slotState h n) hframe
    exact hstate.trans (slotState_setSlotState u.hart n (st := 2) (by decide))
  · have hvalue := congrArg (fun h => slotValue h n) hframe
    exact hvalue.trans (slotValue_setSlotState u.hart n 2)
  · obtain ⟨e', -, rfl⟩ := List.mem_map.1 (List.mem_filter.1 he).1
    have hnot := (List.mem_filter.1 hb).2
    rw [hwho] at hnot
    dsimp only at hnot
    rw [beq_self_eq_true] at hnot
    exact absurd hnot (by decide)

theorem unstand_reports :
    let u := slotsStored s
    let n := (getReg s r).toNat
    let st := slotState u.hart n
    st ≠ 1 → st ≠ 4 → ∃ t, exec (.unstand d r) s = .next t ∧ t.hart.pc = s.hart.pc + 4 ∧ t.mem = u.mem ∧
      slotState t.hart n = (if st = 3 then 0 else st) ∧ ∀ q, getReg t q = if q = d ∧ d ≠ 0 then
        (if st = 3 then statusWord 8 0 0 (slotSeq u.hart n).toNat else statusWord 8 4 0 (if st = 2 then 2 else 1))
        else getReg s q := by
  intro u n st h1 h4
  have hu : Settled u.hart s.hart := slotsStored_settled hd
  let g := if st = 3 then setSlotState u.hart n 0 else u.hart
  let v := if st = 3 then statusWord 8 0 0 (slotSeq u.hart n).toNat else statusWord 8 4 0 (if st = 2 then 2 else 1)
  have hexec : exec (.unstand d r) s = .next { u with hart := withResult d v g } := by
    show execUnstand d r s = _
    unfold execUnstand
    rw [withSlot_free hf hs hd]
    dsimp only
    rw [if_neg (show ¬(slotState (slotsStored s).hart n = 1 ∨ slotState (slotsStored s).hart n = 4) from not_or.2 ⟨h1, h4⟩)]
    by_cases h3 : st = 3
    · rw [if_pos (show slotState (slotsStored s).hart n = 3 from h3), advance_setReg]
      simp only [g, v, if_pos h3]
      rfl
    · rw [if_neg (show ¬slotState (slotsStored s).hart n = 3 from h3), advance_setReg]
      simp only [g, v, if_neg h3]
      rfl
  have hpc : g.pc = u.hart.pc := by simp only [g]; split <;> rfl
  have hregs : g.regs = u.hart.regs := by simp only [g]; split <;> rfl
  refine ⟨_, hexec, congrArg (· + 4) (hpc.trans hu.pc), rfl, ?_, fun q => ?_⟩
  · show slotState g n = _
    simp only [g]
    split
    · exact slotState_setSlotState u.hart n (st := 0) (by decide)
    · rfl
  · refine (regOf_withResult d v g q).trans ?_
    have hq : regOf g q = getReg s q := by
      unfold regOf getReg
      rw [hregs, hu.regs]
    rw [hq]

theorem take_takes :
    let u := slotsStored s
    let n := (getReg s r).toNat
    let st := slotState u.hart n
    let v := if st = 1 ∨ st = 2 then acquireNow u else u
    ∃ t, exec (.take d r) s = .next t ∧ t.hart.pc = s.hart.pc + 4 ∧ t.mem = v.mem ∧ otherSlots v.hart t.hart n ∧
      slotIs t.hart n (slotValue v.hart n) (slotSeq v.hart n) (slotOvr v.hart n) (slotState v.hart n) (slotFlags v.hart n / 2 * 2) ∧
      ∀ q, getReg t q = if q = d ∧ d ≠ 0 then slotValue v.hart n else getReg s q := by
  intro u n st v
  have hu : Settled u.hart s.hart := slotsStored_settled hd
  have hv : Settled v.hart s.hart := by
    simp only [v]
    split
    · exact (Settled.of_eq (acquireNow_settled u)).trans hu
    · exact hu
  let w : State := if st = 1 ∨ st = 2 then acquireSlot (acquireNow u) n else u
  have hw : w = { v with olds := w.olds } := by
    simp only [w, v]
    split
    · exact acquireSlot_frame ..
    · rfl
  have hhart : w.hart = v.hart := by
    have e := congrArg State.hart hw
    exact e
  have hmem : w.mem = v.mem := by
    have e := congrArg State.mem hw
    exact e
  have hlive : slotLive u.hart n = true ↔ st = 1 ∨ st = 2 := by
    simp only [slotLive, Bool.or_eq_true, beq_iff_eq]
    exact Iff.rfl
  have hexec : exec (.take d r) s = .next { w with hart := withResult d (slotValue v.hart n) (clearFresh v.hart n) } := by
    show execTake d r s = _
    unfold execTake
    rw [withSlot_free hf hs hd]
    dsimp only
    rw [advance_setReg, show (if slotLive (slotsStored s).hart (getReg s r).toNat = true then
      acquireSlot (acquireNow (slotsStored s)) (getReg s r).toNat else slotsStored s) = w from if_congr hlive rfl rfl]
    rw [hhart]
  obtain ⟨hslot, hother⟩ := clearFresh_slot v.hart n
  refine ⟨_, hexec, congrArg (· + 4) hv.pc, hmem, hother, hslot, fun q => ?_⟩
  refine (regOf_withResult d _ (clearFresh v.hart n) q).trans ?_
  rw [show regOf (clearFresh v.hart n) q = getReg s q from getReg_of_settled hv q]

theorem waitsl_answers (b : SReg) (due : Nat) :
    let u := slotsStored s
    let n := (getReg s r).toNat
    let st := slotState u.hart n
    (∀ x, s.hart.waitDue = some (s.hart.pc, x) → due = x) →
      ((∀ x, s.hart.waitDue ≠ some (s.hart.pc, x)) → due = s.clock + (getReg s b).toNat) →
      ∃ t, exec (.waitsl d r b) s = .next t ∧
      let fresh := slotFlags u.hart n % 2 = 1
      let answers := fun (v : Word) (w : State) => t.hart.pc = s.hart.pc + 4 ∧ t.hart.run = s.hart.run ∧ t.mem = w.mem ∧
        t.hart.spad = w.hart.spad ∧ ∀ q, getReg t q = if q = d ∧ d ≠ 0 then v else getReg s q
      (st ≠ 1 → st ≠ 2 → answers 2 u) ∧
      ((st = 1 ∨ st = 2) → fresh → answers 1 (acquireNow u)) ∧
      ((st = 1 ∨ st = 2) → ¬fresh → due ≤ s.clock → answers 0 u) ∧
      ((st = 1 ∨ st = 2) → ¬fresh → s.clock < due → t.hart.pc = s.hart.pc ∧ t.hart.regs = s.hart.regs ∧ t.mem = u.mem ∧
        t.hart.spad = u.hart.spad ∧ t.hart.run = .waitSlot d n s.clock due) := by
  intro u n st hkept hnew
  have hu : Settled u.hart s.hart := slotsStored_settled hd
  have hclock : u.clock = s.clock := slotsStored_clock s
  have hpoint : waitPoint u (getReg u b) = due := by
    unfold waitPoint
    rw [hu.waitDue, hu.pc, hclock, getReg_of_settled hu]
    split
    · next pc x hw =>
      split
      · next hpc =>
        rw [hpc] at hw
        exact (hkept x hw).symm
      · next hpc =>
        exact (hnew (fun y hy => hpc (by rw [hw] at hy; exact (Prod.mk.inj (Option.some.inj hy)).1))).symm
    · next hw => exact (hnew (fun y hy => by rw [hw] at hy; cases hy)).symm
  have hexec : exec (.waitsl d r b) s = match waitAnswer u.hart n u.clock due with
      | some v => .next (advance (setReg (if v = 1 then acquireSlot (acquireNow (dropWait u)) n else dropWait u) d (word v)))
      | none => .next { dropWait u with hart := { noWait u.hart with run := .waitSlot d n u.clock due } } := by
    show execWaitsl d r b s = _
    unfold execWaitsl
    rw [withSlot_free hf hs hd]
    dsimp only
    rw [hpoint]
    rfl
  have hanswer : ∀ (v : Nat) (w : State), Settled w.hart (noWait s.hart) →
      let t := advance (setReg w d (word v))
      t.hart.pc = s.hart.pc + 4 ∧ t.hart.run = s.hart.run ∧ t.mem = w.mem ∧
        t.hart.spad = w.hart.spad ∧ ∀ q, getReg t q = if q = d ∧ d ≠ 0 then word v else getReg s q := by
    intro v w hw t
    have ht : t = { w with hart := withResult d (word v) w.hart } := advance_setReg ..
    rw [ht]
    refine ⟨congrArg (· + 4) hw.pc, hw.run, rfl, rfl, fun q => ?_⟩
    refine (regOf_withResult d _ w.hart q).trans ?_
    rw [show regOf w.hart q = getReg s q by unfold regOf getReg; rw [hw.regs]; rfl]
  have hdrop : Settled (dropWait u).hart (noWait s.hart) :=
    ⟨hu.core, hu.owner, hu.pc, hu.regs, hu.pending, hu.csr, hu.run, rfl, hu.vec, hu.restart⟩
  have hstate : waitAnswer u.hart n u.clock due =
      if st ≠ 1 ∧ st ≠ 2 then some 2 else if slotFlags u.hart n % 2 = 1 then some 1 else if due ≤ s.clock then some 0 else none := by
    rw [← hclock]
    rfl
  by_cases hidle : st ≠ 1 ∧ st ≠ 2
  · rw [hexec, hstate, if_pos hidle]
    refine ⟨_, rfl, fun _ _ => ?_, fun hl => ?_, fun hl => ?_, fun hl => ?_⟩
    · exact hanswer 2 (dropWait u) hdrop
    · omega
    · omega
    · omega
  have hlive : st = 1 ∨ st = 2 := by omega
  rw [hexec, hstate, if_neg hidle]
  by_cases hfresh : slotFlags u.hart n % 2 = 1
  · rw [if_pos hfresh]
    refine ⟨_, rfl, fun h1 h2 => absurd ⟨h1, h2⟩ hidle, fun _ _ => ?_, fun _ hn => absurd hfresh hn, fun _ hn => absurd hfresh hn⟩
    have hacquire : acquireNow (dropWait u) = dropWait (acquireNow u) := acquireNow_dropWait u
    have hw := acquireSlot_frame (acquireNow (dropWait u)) n
    have hsettled : Settled (acquireSlot (acquireNow (dropWait u)) n).hart (noWait s.hart) := by
      rw [hw]
      exact (Settled.of_eq (acquireNow_settled (dropWait u))).trans hdrop
    have h := hanswer 1 (acquireSlot (acquireNow (dropWait u)) n) hsettled
    have hmem : (acquireSlot (acquireNow (dropWait u)) n).mem = (acquireNow u).mem := by
      rw [hw, hacquire]
      rfl
    have hspad : (acquireSlot (acquireNow (dropWait u)) n).hart.spad = (acquireNow u).hart.spad := by
      rw [hw, hacquire]
      rfl
    rw [hmem, hspad] at h
    exact h
  rw [if_neg hfresh]
  by_cases hdue : due ≤ s.clock
  · rw [if_pos hdue]
    refine ⟨_, rfl, fun h1 h2 => absurd ⟨h1, h2⟩ hidle, fun _ hy => absurd hy hfresh, fun _ _ _ => ?_, fun _ _ hlt => ?_⟩
    · exact hanswer 0 (dropWait u) hdrop
    · omega
  · rw [if_neg hdue]
    refine ⟨_, rfl, fun h1 h2 => absurd ⟨h1, h2⟩ hidle, fun _ hy => absurd hy hfresh, fun _ _ hle => absurd hle hdue, fun _ _ _ => ?_⟩
    exact ⟨hu.pc, hu.regs, rfl, rfl, by rw [hclock]⟩

end Instructions

theorem standingInstructions : StandingInstructions := by
  intro s d r hf hs hd
  exact ⟨stand_subscribes hf hs hd, unstand_drains hf hs hd, unstand_reports hf hs hd, take_takes hf hs hd, waitsl_answers hf hs hd⟩

end Sys2Proof.Claims

/-! The vector standing-load instructions (R103, R227). -/

namespace Sys2Proof.Machine

open Sys2Proof.Claims

/-! ### Elements of a fresh instruction -/

theorem activeSlots_fresh {s : State} (hr : freshStart s.hart) (m : MReg) (sl n : Nat) :
    activeSlots s m sl n = ((List.range n).filter (active s.hart m)).map (fun e => (e, sl + e)) := by
  unfold activeSlots
  refine congrArg (List.map _) (List.filter_congr (fun e _ => ?_))
  rw [show s.hart.restart = _ from hr, enabled, show s.hart.restart = _ from hr]
  simp

theorem groupStop_fresh {h : Hart} (hr : freshStart h) (n : Nat) : groupStop h n = n := by
  rw [groupStop, show h.restart = _ from hr]

/-- A destination that some elements of a value are written into depends on as many bits of them as it holds. -/
theorem elementsWritten_mod {s t : State} {d tag n tail : Nat} {act : Nat → Bool} {f : Nat → Nat}
    (h : elementsWritten s t d tag n tail act (fun e => f e % 2 ^ tagBits tag)) : elementsWritten s t d tag n tail act f := by
  obtain ⟨hgroup, hprogress, hbody, htail⟩ := h
  refine ⟨hgroup, hprogress, fun e he => ?_, htail⟩
  rw [hbody e he, Nat.mod_mod]

/-- What no store on its way is for, an earlier packet of a lane cluster is not waited for (R95). -/
theorem settle_quiet {s : State} (hmine : ∀ q ∈ s.packets, q.core ≠ s.hart.core) {c : Nat} {ps : List Place}
    (hhome : atHomeOf s (ps.headD (.sdm 0)) = s) : settle s c ps = s := by
  unfold settle
  rw [hhome]
  dsimp only
  rw [if_neg]
  simp only [List.any_eq_true, Bool.and_eq_true, beq_iff_eq, not_exists, not_and]
  exact fun q hq hcore => absurd hcore.1 (hmine q hq)

theorem releaseWaits_drained {h : Hart} (hd : h.released = true → drains h) : releaseWaits h = false := by
  unfold releaseWaits
  cases hr : h.released with
  | false => rfl
  | true =>
    rw [Bool.true_and, Bool.not_eq_false']
    exact List.all_eq_true.2 (hd hr)

/-! ### VSTAND (R227) -/

/-- An element whose slot takes a subscription, and whose word is cached, is served at the word. -/
theorem standFate_cached {s : State} {va : Word} {slot pa : Nat} (hst : slotState s.hart slot = 0 ∨ slotState s.hart slot = 3)
    (halign : va.toNat % 8 = 0) (hglobal : 0x400000 ≤ va.toNat) (hbad : s.bad = []) (hc : cachedAt s va 8 .read pa) :
    standFate s va slot = (.ok [.phys pa], s) := by
  have hva : bits va 48 16 = 0 := by
    obtain ⟨hlt, -⟩ := hc
    unfold bits
    omega
  unfold standFate
  dsimp only
  rw [if_neg (by rw [hva]; omega), if_neg (not_not.2 halign), if_neg (show ¬va.toNat < globalBase from Nat.not_lt.2 hglobal),
    probe_cached hc]
  dsimp only
  rw [show badMem s pa 8 = false by unfold badMem; rw [hbad]; rfl, if_neg (by decide)]

section Stand

variable {s : State} (sl : Nat) (addr : Nat → Word) (pa : Nat → Nat)

/-- What every active element of a served `VSTAND` meets (R220). -/
def standServed (s : State) (es : List Nat) : Prop :=
  ∀ e ∈ es, (slotState s.hart (sl + e) = 0 ∨ slotState s.hart (sl + e) = 3) ∧ (addr e).toNat % 8 = 0 ∧
    0x400000 ≤ (addr e).toNat ∧ cachedAt s (addr e) 8 .read (pa e)

theorem judgeStands_served (hbad : s.bad = []) (es : List Nat) (acc : List Judged) (h : standServed sl addr pa s es) :
    judgeStands s addr (es.map (fun e => (e, sl + e))) acc =
      (acc.reverse ++ es.map (fun e => ⟨e, addr e, .ok [.phys (pa e)]⟩), s) := by
  induction es generalizing acc with
  | nil => rw [List.map_nil, judgeStands, List.map_nil, List.append_nil]
  | cons e es ih =>
    obtain ⟨hst, halign, hglobal, hc⟩ := h e List.mem_cons_self
    rw [List.map_cons, judgeStands, standFate_cached hst halign hglobal hbad hc]
    dsimp only
    rw [ih _ (fun x hx => h x (List.mem_cons_of_mem _ hx)), List.reverse_cons, List.append_assoc]
    rfl

/-- A state in which requests of the acting hart are at their homes and words of theirs in a vector register. -/
def withStands (s : State) (dir : List DirEntry) (q : List StandAnswer) (v : Vec) : State :=
  { s with directory := dir, stands := s.stands ++ q, hart := { s.hart with vec := v } }

/-- What of an answer the request says. -/
def requestOf (a : StandAnswer) : Nat × Nat × Nat × Word × Option SReg := (a.core, a.slot, a.pa, a.value, a.rd)

/-- The requests of a served `VSTAND`, one for each active element in order, and the words they return (R220, R227). -/
theorem standElems_served (hq : quiet s) (f : Form) (hf : f.kind = .read) (r : VReg) (narrow : Bool) (w : Nat) (es : List Nat)
    (dir : List DirEntry) (q : List StandAnswer) (v : Vec) (h : standServed sl addr pa s es) :
    ∃ dir' q', standElems (withStands s dir q v) f addr r narrow w sl (es.map (fun e => (e, [.phys (pa e)]))) =
        withStands s dir' (q ++ q') (writeElems s.hart.csr v r.val narrow es (fun e => (word8 s (pa e)).toNat % 2 ^ w)) ∧
      q'.map requestOf = es.map (fun e => (s.hart.core, sl + e, pa e / 8 * 8, word8 s (pa e), none)) := by
  obtain ⟨hpackets, hbad, holds⟩ := hq
  induction es generalizing dir q v with
  | nil => exact ⟨dir, [], by rw [List.append_nil]; rfl, rfl⟩
  | cons e es ih =>
    obtain ⟨-, -, hglobal, hc⟩ := h e List.mem_cons_self
    let u := withStands s dir q v
    have hmark : (markPieces u f [⟨addr e, 8⟩]).2 = u := by
      have hland : piecesLand u false f.kind [⟨addr e, 8⟩] [.phys (pa e)] := .cons ⟨hglobal, pa e, rfl, hf ▸ hc⟩ .nil
      exact congrArg Prod.snd (markPieces_pieces hland)
    have hsettle : settle u (laneCluster e) (placeRange (.phys (pa e)) 8) = u :=
      settle_quiet (s := u) (fun q hq => (hpackets q hq).1) (atHomeOf_idle (s := u) (fun q hq => (hpackets q hq).2) _)
    have hdrop : (dropOlds u u.hart.core (.phys (pa e))).olds = u.olds := by
      unfold dropOlds
      rw [if_pos (List.isEmpty_iff.2 (show u.olds = [] from holds))]
    let dir1 := (subscribe u (slotOwner u.hart (sl + e)) (pa e)).2.2.directory
    have hstep : requestStand u (sl + e) (pa e) none = (word8 s (pa e), withStands s dir1 (q ++ [answerTo u (sl + e) (pa e) none]) v) := by
      rw [requestStand_eq, hdrop]
      unfold withStands
      rw [← List.append_assoc]
      rfl
    obtain ⟨dir', q', hrun, hmap⟩ := ih dir1 (q ++ [answerTo u (sl + e) (pa e) none])
      (putElem s.hart.csr v r.val narrow e ((word8 s (pa e)).toNat % 2 ^ w)) (fun x hx => h x (List.mem_cons_of_mem _ hx))
    refine ⟨dir', answerTo u (sl + e) (pa e) none :: q', ?_, ?_⟩
    · rw [List.append_cons, List.map_cons, standElems, List.foldl_cons]
      dsimp only
      rw [hmark, hsettle, hstep]
      exact hrun
    · have hword : word8 u (pa e) = word8 s (pa e) := rfl
      rw [List.map_cons, List.map_cons, hmap, requestOf, answerTo]
      dsimp only
      rw [hword]
      rfl

end Stand

/-! ### VTAKE (R227) -/

/-- The values of slots acquired with no store of the hart on its way: copies alone are dropped. -/
theorem acquireSlots_frame (h : Hart) (xs : List (Nat × Nat)) {s : State} (hmine : ∀ q ∈ s.packets, q.core ≠ s.hart.core) :
    ∃ l, xs.foldl (fun s x =>
      let t := settle s (laneCluster x.1) (placeRange (.spad (slotOffset s.hart x.2)) 16)
      if slotLive h x.2 then acquireSlot t x.2 else t) s = { s with olds := l } := by
  have hfold : ∀ (xs : List (Nat × Nat)) (l : List OldWord), ∃ l', xs.foldl (fun s x =>
      let t := settle s (laneCluster x.1) (placeRange (.spad (slotOffset s.hart x.2)) 16)
      if slotLive h x.2 then acquireSlot t x.2 else t) { s with olds := l } = { s with olds := l' } := by
    intro xs
    induction xs with
    | nil => exact fun l => ⟨l, rfl⟩
    | cons x xs ih =>
      intro l
      rw [List.foldl_cons]
      dsimp only
      rw [settle_quiet (s := { s with olds := l }) hmine rfl]
      split
      · rw [acquireSlot_frame]
        exact ih _
      · exact ih l
  exact hfold xs s.olds

/-- The FRESH bit of some slots cleared, from slot `k` on. -/
def freshCleared (h : Hart) (k : Nat) (es : List Nat) (spad : Sparse 8) : Prop :=
  ∀ a, sget spad a = if ∃ e ∈ es, a = slotOffset h (k + e) + 15 then BitVec.ofNat 8 ((sget h.spad a).toNat / 2 * 2) else sget h.spad a

theorem slotFlags_byte (h : Hart) (n : Nat) : slotFlags h n = (sget h.spad (slotOffset h n + 15)).toNat := Nat.add_zero _

/-- The slots whose FRESH bits are cleared keep their values. -/
theorem slotValue_freshCleared {h : Hart} {k : Nat} {es : List Nat} {spad : Sparse 8} (hc : freshCleared h k es spad) (n : Nat) :
    word (sgetBytes spad (slotOffset h n) 8) = slotValue h n := by
  refine congrArg word (sgetBytes_congr _ _ _ _ (fun a hlo hhi => ?_))
  rw [hc a, if_neg]
  rintro ⟨e, -, ha⟩
  rw [slotOffset_eq h n] at hlo hhi
  rw [slotOffset_eq h (k + e)] at ha
  omega

theorem writeElems_concat (c : Csr) (v : Vec) (r : Nat) (narrow : Bool) (es : List Nat) (e : Nat) (x : Nat → Nat) :
    writeElems c v r narrow (es ++ [e]) x = putElem c (writeElems c v r narrow es x) r narrow e (x e) := List.foldl_concat ..

/-- The elements of a `VTAKE`: each takes its slot's value and clears its FRESH bit (R222, R227). -/
theorem takeElems_eq (h : Hart) (v : Vec) (d : Nat) (narrow : Bool) (w k : Nat) (es : List Nat) :
    ∃ spad, es.foldl (fun (g : Hart) e => clearFresh (setElem g d narrow e ((slotValue g (k + e)).toNat % 2 ^ w)) (k + e))
        { h with vec := v } =
      { h with spad := spad, vec := writeElems h.csr v d narrow es (fun e => (slotValue h (k + e)).toNat % 2 ^ w) } ∧
      freshCleared h k es spad := by
  induction es using List.reverseRecOn with
  | nil => exact ⟨h.spad, rfl, fun a => by simp⟩
  | append_singleton es e ih =>
    obtain ⟨spad, hrun, hclear⟩ := ih
    rw [List.foldl_append, hrun, List.foldl_cons, List.foldl_nil]
    have hvalue : slotValue { h with spad := spad, vec := writeElems h.csr v d narrow es (fun e => (slotValue h (k + e)).toNat % 2 ^ w) } (k + e) =
        slotValue h (k + e) := slotValue_freshCleared hclear (k + e)
    refine ⟨sset spad (slotOffset h (k + e) + 15) (BitVec.ofNat 8 ((sget spad (slotOffset h (k + e) + 15)).toNat / 2 * 2)), ?_, fun a => ?_⟩
    · rw [hvalue, writeElems_concat]
      unfold clearFresh
      rw [slotFlags_byte]
      rfl
    · rw [sget_sset]
      by_cases ha : a = slotOffset h (k + e) + 15
      · rw [if_pos ha, if_pos ⟨e, List.mem_append_right _ (List.mem_singleton_self e), ha⟩, ← ha, hclear a]
        split
        · rw [BitVec.toNat_ofNat]
          have hlt := (sget h.spad a).isLt
          congr 1
          omega
        · rfl
      · rw [if_neg ha, hclear a]
        refine if_congr ⟨fun ⟨x, hx, hax⟩ => ⟨x, List.mem_append_left _ hx, hax⟩, fun ⟨x, hx, hax⟩ => ?_⟩ rfl rfl
        rcases List.mem_append.1 hx with hx | hx
        · exact ⟨x, hx, hax⟩
        · exact absurd (List.mem_singleton.1 hx ▸ hax) ha

/-- A slot whose FRESH bit is cleared among others keeps its other fields. -/
theorem slotIs_freshCleared {h g : Hart} {k : Nat} {es : List Nat} (hcsr : g.csr = h.csr) (hc : freshCleared h k es g.spad) {e : Nat}
    (he : e ∈ es) : slotIs g (k + e) (slotValue h (k + e)) (slotSeq h (k + e)) (slotOvr h (k + e)) (slotState h (k + e))
      (slotFlags h (k + e) / 2 * 2) := by
  have hoff : slotOffset g (k + e) = slotOffset h (k + e) := by rw [slotOffset, hcsr]; rfl
  have hsame : ∀ i n, i + n ≤ 15 → sgetBytes g.spad (slotOffset h (k + e) + i) n = sgetBytes h.spad (slotOffset h (k + e) + i) n := by
    intro i n hin
    refine sgetBytes_congr _ _ _ _ (fun a hlo hhi => ?_)
    rw [hc a, if_neg]
    rintro ⟨x, -, ha⟩
    rw [slotOffset_eq h (k + e)] at hlo hhi
    rw [slotOffset_eq h (k + x)] at ha
    omega
  have hvalue := hsame 0 8 (by decide)
  have hstate := hsame 14 1 (by decide)
  rw [Nat.add_zero] at hvalue
  simp only [sgetBytes, Nat.mul_zero, Nat.add_zero] at hstate
  unfold slotIs
  rw [slotFlags_byte g, hoff, hc, if_pos ⟨e, he, rfl⟩, slotFlags_byte h, BitVec.toNat_ofNat, slotValue, slotSeq, slotOvr, slotState, hoff]
  have hlt := (sget h.spad (slotOffset h (k + e) + 15)).isLt
  exact ⟨congrArg word hvalue, congrArg (BitVec.ofNat 32) (hsame 8 4 (by decide)), hsame 12 2 (by decide), hstate, by omega⟩

end Sys2Proof.Machine

namespace Sys2Proof.Claims

open Sys2Proof.Machine

/-- A destination of the standing-load instructions holds as many elements as the length (R20, R227). -/
theorem standRejects_capacity {h : Hart} {t : VReg} {vi : Option VReg} (hrej : standRejects h t vi = none) :
    lengthOf h ≤ capacity h.csr (dtagOf h.csr) := by
  unfold standRejects at hrej
  dsimp only at hrej
  split at hrej
  · cases hrej
  · split at hrej
    · cases hrej
    · next hd =>
      have hfull : overfull h (dtagOf h.csr) = false := by
        rw [Bool.or_eq_true, not_or, destFails, Bool.or_eq_true, not_or, Bool.not_eq_true] at hd
        simpa using hd.2.1
      exact Nat.le_of_not_lt (of_decide_eq_false hfull)

/-- A standing-load instruction whose elements are in its destination closes it and goes on (R209, R227). -/
theorem stand_finishes {s : State} (hr : freshStart s.hart) (m : MReg) (d t n : Nat) (x : Nat → Nat) (f : Form)
    (tags : Vector (BitVec 4) 64) (els : List (Nat × List Place)) :
    let g := loadedHart s.hart d t n m x s.hart.csr.fcsr
    finish { s with hart := loadLeft g m d t n ⟨n, none, els, none, [], none⟩ } tags f ⟨n, none, els, none, [], none⟩ =
      .next (advance { s with hart := completed (closedHart s.hart d t n m x s.hart.csr.fcsr) d n }) := by
  intro g
  have hleft : loadLeft g m d t n ⟨n, none, els, none, [], none⟩ = completed (closedHart s.hart d t n m x s.hart.csr.fcsr) d n :=
    closeLoad_eq s.hart d t n m x s.hart.csr.fcsr
  have hm0 : (completed (closedHart s.hart d t n m x s.hart.csr.fcsr) d n).restart.useM0 = false := by
    rw [closedHart_frame]
    exact congrArg Restart.useM0 hr
  rw [hleft]
  exact finish_served hm0 tags f n els

theorem vstand_requests (s : State) (t : VReg) (m : MReg) (sl : SReg) (hr : freshStart s.hart) (hd : s.hart.released = true → drains s.hart) :
    let h := s.hart
    let n := lengthOf h
    let tag := dtagOf h.csr
    let k := (getReg s sl).toNat
    let es := (List.range n).filter (active h m)
    k + n ≤ 1024 → (∀ e ∈ es, standOutstanding s h.core (k + e) = false) →
    ∀ b i (pa : Nat → Nat), standRejects h t (some i) = none →
      let v := acquireNow s
      quiet v →
      (∀ e ∈ es, (slotState v.hart (k + e) = 0 ∨ slotState v.hart (k + e) = 3) ∧ (indexAddr s b i e).toNat % 8 = 0 ∧
        0x400000 ≤ (indexAddr s b i e).toNat ∧ cachedAt v (indexAddr s b i e) 8 .read (pa e)) →
      ∃ u, exec (.vstand t b i m sl) s = .next u ∧ wentOn v u none ∧ u.hart.csr = h.csr ∧
        elementsWritten v u t.val tag n n (active h m) (fun e => (word8 v (pa e)).toNat) ∧
        ∃ q, u.stands = v.stands ++ q ∧ q.map (fun a => (a.core, a.slot, a.pa, a.value, a.rd)) =
          es.map (fun e => (h.core, k + e, pa e / 8 * 8, word8 v (pa e), none)) := by
  intro h n tag k es hroom hfree b i pa hrej v hq hserved
  have hv : Settled v.hart h := Settled.of_eq (acquireNow_settled s)
  have hact : ∀ e, active v.hart m e = active h m e := fun e => by
    unfold active maskBit
    rw [hv.vec]
  let x := fun e => (word8 v (pa e)).toNat % 2 ^ tagBits tag
  let f : Form := ⟨m, 8, false, true, false, 2, i.val⟩
  obtain ⟨dir, q, hrun, hmap⟩ := standElems_served k (indexAddr s b i) pa hq f rfl t (narrowTag tag) (tagBits tag) es v.directory []
    (setTags v.hart t.val (groupOf v.hart.csr) tag).vec hserved
  let els := es.map (fun e => (e, [Place.phys (pa e)]))
  let p : Plan := ⟨n, none, els, none, [], none⟩
  have hes : es = (List.range n).filter (active v.hart m) := List.filter_congr (fun e _ => (hact e).symm)
  have hplan : ∀ l, (plan s f n l ⟨es.map (fun e => ⟨e, indexAddr s b i e, .ok [.phys (pa e)]⟩), none⟩).upTo (groupStop h n) = p := by
    intro l
    have hres : resident (es.map (fun e => (⟨e, indexAddr s b i e, .ok [.phys (pa e)]⟩ : Judged))) = els := by
      rw [resident, List.filterMap_map]
      exact congrFun List.filterMap_eq_map es
    rw [plan_resident s f n l _ (fun j hj => by obtain ⟨e, -, rfl⟩ := List.mem_map.1 hj; exact ⟨_, rfl⟩), hres, groupStop_fresh hr]
    simp only [Plan.upTo, Option.isNone_none, Nat.lt_irrefl, decide_false, Bool.and_false, Bool.false_eq_true, if_false]
    rfl
  have hloaded : withStands v dir ([] ++ q) (writeElems v.hart.csr (setTags v.hart t.val (groupOf v.hart.csr) tag).vec t.val (narrowTag tag) es x) =
      { withStands v dir q v.hart.vec with hart := loadedHart v.hart t.val tag n m x v.hart.csr.fcsr } := by
    unfold withStands loadedHart
    rw [← hes, List.nil_append]
  have hfreshV : freshStart v.hart := hv.restart.trans hr
  have hwait : ((es.map (fun e => (e, k + e))).any (fun y => standOutstanding s h.core y.2) || releaseWaits h) = false := by
    rw [releaseWaits_drained hd, Bool.or_false, List.any_map, List.any_eq_false]
    intro e he
    rw [Function.comp_apply, hfree e he]
    decide
  have hexec : exec (.vstand t b i m sl) s = .next (advance { withStands v dir q v.hart.vec with
      hart := completed (closedHart v.hart t.val tag n m x v.hart.csr.fcsr) t.val n }) := by
    have hfinish := stand_finishes (s := withStands v dir q v.hart.vec) hfreshV m t.val tag n x f h.vec.tags els
    show execVstand t b i m sl s = _
    unfold execVstand
    dsimp only
    rw [hrej]
    dsimp only
    rw [if_neg (Nat.not_lt.2 hroom), activeSlots_fresh hr, hwait, if_neg (by decide),
      judgeStands_served k (indexAddr s b i) pa hq.2.1 es [] hserved]
    dsimp only
    rw [List.reverse_nil, List.nil_append, hplan, show groupOf s.hart.csr = groupOf v.hart.csr by rw [hv.csr]]
    have hstart : ({ v with hart := setTags v.hart t.val (groupOf v.hart.csr) tag } : State) =
        withStands v v.directory [] (setTags v.hart t.val (groupOf v.hart.csr) tag).vec := by
      unfold withStands
      rw [List.append_nil]
      rfl
    rw [show ({ acquireNow s with hart := setTags (acquireNow s).hart t.val (groupOf v.hart.csr) (dtagOf s.hart.csr) } : State) =
      withStands v v.directory [] (setTags v.hart t.val (groupOf v.hart.csr) tag).vec from hstart]
    have hall : standElems (withStands v v.directory [] (setTags v.hart t.val (groupOf v.hart.csr) tag).vec) f (indexAddr s b i) t
        (narrowTag tag) (tagBits tag) k els =
        { withStands v dir q v.hart.vec with hart := loadedHart v.hart t.val tag n m x v.hart.csr.fcsr } := hrun.trans hloaded
    rw [show standElems (withStands v v.directory [] (setTags v.hart t.val (groupOf v.hart.csr) tag).vec)
      ⟨m, 8, false, true, false, 2, i.val⟩ (indexAddr s b i) t (narrowTag (dtagOf s.hart.csr)) (tagBits (dtagOf s.hart.csr))
      (getReg s sl).toNat p.els = _ from hall]
    exact hfinish
  have hcap : n ≤ capacity v.hart.csr tag := by
    rw [hv.csr]
    exact standRejects_capacity hrej
  obtain ⟨hwent, hwritten, hcsr⟩ := closedHart_written v t.val tag n m x v.hart.csr.fcsr hcap
  have hframe := closedHart_frame v.hart t.val tag n m x v.hart.csr.fcsr
  refine ⟨_, hexec, hwent, ?_, ?_, q, rfl, ?_⟩
  · exact (congrArg Hart.csr hframe).trans hv.csr
  · rw [← funext hact]
    exact elementsWritten_mod hwritten
  · rw [← hv.core]
    exact hmap

/-- VTAKE takes the values of its slots, clears FRESH of each, and comes after the releases before it where a slot is live
(R103, R222, R227). -/
theorem vtake_takes (s : State) (t : VReg) (m : MReg) (sl : SReg) (hr : freshStart s.hart) (hd : s.hart.released = true → drains s.hart) :
    let h := s.hart
    let n := lengthOf h
    let tag := dtagOf h.csr
    let k := (getReg s sl).toNat
    let es := (List.range n).filter (active h m)
    k + n ≤ 1024 → (∀ e ∈ es, standOutstanding s h.core (k + e) = false) → standRejects h t none = none →
      let v := if es.any (fun e => slotLive h (k + e)) then acquireNow s else s
      (∀ q ∈ v.packets, q.core ≠ h.core) →
      ∃ u, exec (.vtake t m sl) s = .next u ∧ u.hart.pc = h.pc + 4 ∧ u.hart.regs = h.regs ∧ u.mem = v.mem ∧ u.hart.csr = h.csr ∧
        elementsWritten v u t.val tag n n (active h m) (fun e => (slotValue v.hart (k + e)).toNat) ∧
        (∀ e ∈ es, slotIs u.hart (k + e) (slotValue v.hart (k + e)) (slotSeq v.hart (k + e)) (slotOvr v.hart (k + e))
          (slotState v.hart (k + e)) (slotFlags v.hart (k + e) / 2 * 2)) ∧
        ∀ a, (∀ e ∈ es, a ≠ slotOffset h (k + e) + 15) → sget u.hart.spad a = sget v.hart.spad a := by
  intro h n tag k es hroom hfree hrej v hmine
  have hv : Settled v.hart h := by
    dsimp only [v]
    split
    · exact Settled.of_eq (acquireNow_settled s)
    · exact Settled.refl _
  have hact : ∀ e, active v.hart m e = active h m e := fun e => by
    unfold active maskBit
    rw [hv.vec]
  have hes : es = (List.range n).filter (active v.hart m) := List.filter_congr (fun e _ => (hact e).symm)
  have hoffset : ∀ i, slotOffset v.hart i = slotOffset h i := fun i => by
    rw [slotOffset, hv.csr]
    rfl
  let x := fun e => (slotValue v.hart (k + e)).toNat % 2 ^ tagBits tag
  let f : Form := ⟨m, 8, false, true, false, 6, sl.val⟩
  let xs := es.map (fun e => (e, k + e))
  obtain ⟨l, hacquired⟩ := acquireSlots_frame h xs (s := v) (hv.core.symm ▸ hmine)
  obtain ⟨spad, htaken, hclear⟩ := takeElems_eq v.hart (setTags v.hart t.val (groupOf v.hart.csr) tag).vec t.val (narrowTag tag) (tagBits tag) k es
  let w : State := { v with olds := l, hart := { v.hart with spad := spad } }
  have hfreshW : freshStart w.hart := hv.restart.trans hr
  have hfinish := stand_finishes (s := w) hfreshW m t.val tag n x f h.vec.tags []
  have hexec : exec (.vtake t m sl) s =
      .next (advance { w with hart := completed (closedHart w.hart t.val tag n m x w.hart.csr.fcsr) t.val n }) := by
    have hlive : xs.any (fun y => slotLive h y.2) = es.any (fun e => slotLive h (k + e)) := List.any_map
    have hnone : xs.any (fun y => standOutstanding s h.core y.2) = false := by
      rw [List.any_map, List.any_eq_false]
      intro e he
      rw [Function.comp_apply, hfree e he]
      decide
    have hloaded : xs.foldl (fun g y => clearFresh (setElem g t.val (narrowTag tag) y.1 ((slotValue g y.2).toNat % 2 ^ tagBits tag)) y.2)
        (setTags v.hart t.val (groupOf h.csr) tag) = loadedHart w.hart t.val tag n m x w.hart.csr.fcsr := by
      rw [List.foldl_map, ← hv.csr, loadedHart]
      refine Eq.trans htaken ?_
      rw [hes]
      rfl
    show execVtake t m sl s = _
    unfold execVtake
    dsimp only
    rw [hrej]
    dsimp only
    rw [if_neg (Nat.not_lt.2 hroom), groupStop_fresh hr, activeSlots_fresh hr,
      show ((List.range (lengthOf s.hart)).filter (active s.hart m)).map (fun e => (e, (getReg s sl).toNat + e)) = xs from rfl,
      hnone, hlive, releaseWaits_drained hd, Bool.and_false, Bool.or_false, if_neg (by decide), hacquired, hloaded, if_neg (Nat.lt_irrefl n)]
    exact hfinish
  have hcap : n ≤ capacity w.hart.csr tag := by
    rw [show w.hart.csr = h.csr from hv.csr]
    exact standRejects_capacity hrej
  obtain ⟨⟨hpc, hregs, hmem, hspad, -, -⟩, hwritten, -⟩ := closedHart_written w t.val tag n m x w.hart.csr.fcsr hcap
  have hframe := closedHart_frame w.hart t.val tag n m x w.hart.csr.fcsr
  have hcsr : (completed (closedHart w.hart t.val tag n m x w.hart.csr.fcsr) t.val n).csr = h.csr :=
    (congrArg Hart.csr hframe).trans hv.csr
  have hcleared : freshCleared v.hart k es (completed (closedHart w.hart t.val tag n m x w.hart.csr.fcsr) t.val n).spad := by
    have e : _ = spad := hspad
    exact e ▸ hclear
  refine ⟨_, hexec, hpc.trans (congrArg (· + 4) hv.pc), hregs.trans hv.regs, hmem, hcsr, ?_, fun e he => ?_, fun a ha => ?_⟩
  · rw [← funext hact]
    exact elementsWritten_mod hwritten
  · exact slotIs_freshCleared (hcsr.trans hv.csr.symm) hcleared he
  · refine (hcleared a).trans (if_neg ?_)
    rintro ⟨e, he, rfl⟩
    exact ha e he (congrArg (· + 15) (hoffset (k + e)))

theorem standingVectors : StandingVectors :=
  fun s t m sl hr hd hroom hfree =>
    ⟨vstand_requests s t m sl hr hd hroom hfree, vtake_takes s t m sl hr hd hroom hfree⟩

/-- Settles O47: the scalar instructions, the vector ones and the events of standing loads, each by its own slot rule. -/
theorem standingLoads : Obligations.StandingLoads := ⟨standingInstructions, standingVectors, standingEvents⟩

end Sys2Proof.Claims

/-! What a replay leaves of the machine (R242, R349): no word of a loop's body changes the engines of a stack, and only a trap
that ends its launch could, which leaves the pc where it was. -/

namespace Sys2Proof.Machine

open Sys2Proof.Claims

/-! ### Where the control thread is, and the stacks -/

/-- Where the control thread of a hart is, with what its vector unit has in its queue. -/
def courseOf (h : Hart) : List Queued × Word := (h.queue, h.pc)

/-- A state whose acting hart is where it was, and whose stacks are as they were. -/
structure Stays (s u : State) : Prop where
  hbm : u.hbm = s.hbm
  course : courseOf u.hart = courseOf s.hart

theorem Stays.refl (s : State) : Stays s s := ⟨rfl, rfl⟩

theorem Stays.trans {s t u : State} (h1 : Stays s t) (h2 : Stays t u) : Stays s u := ⟨h2.hbm.trans h1.hbm, h2.course.trans h1.course⟩

theorem writeHome_hbm (s : State) (keep : Option Nat) (pa size v : Nat) : (writeHome s keep pa size v).hbm = s.hbm := by
  unfold writeHome
  rw [notifyWord_frame]
  unfold sequenceWord
  split <;> rfl

theorem stays_onCore (s : State) (c : Nat) (f : Hart → Hart) (hf : ∀ g, courseOf (f g) = courseOf g) : Stays s (onCore s c f) := by
  unfold onCore
  split
  · exact ⟨rfl, hf _⟩
  · exact ⟨rfl, rfl⟩

theorem stays_onHarts (s : State) (f : Hart → Hart) (hf : courseOf (f s.hart) = courseOf s.hart) : Stays s (onHarts s f) := ⟨rfl, hf⟩

theorem flushKeeps_stays : FlushKeeps Stays where
  refl := Stays.refl
  trans := Stays.trans
  write s keep pa size v := ⟨writeHome_hbm .., congrArg courseOf (writeHome_hart ..)⟩
  core s c f hf := stays_onCore s c f (fun g => by obtain ⟨_, _, e⟩ := hf g; rw [e]; rfl)
  die _ _ := ⟨rfl, rfl⟩
  memories s c f hf := stays_onCore s c f (fun g => by obtain ⟨_, _, e⟩ := hf g; rw [e]; rfl)
  packets _ _ _ := ⟨rfl, rfl⟩
  marks _ _ _ _ _ _ := ⟨rfl, rfl⟩

theorem stays_flushHart (s : State) (core : Nat) : Stays s (flushHart s core) :=
  (flushKeeps_stays.performPackets s _).trans
    ((stays_onCore (performPackets s _) core (withoutOldest _) (fun _ => rfl)).trans (flushKeeps_stays.drainBuffer _ _))

/-! ### Traps -/

theorem stays_writeBytes (s : State) (pa : Nat) (bs : List Byte) : Stays s (writeBytes s none pa bs) :=
  flushKeeps_stays.writeChunks ..

theorem stays_setPcpWord (s : State) (part off : Nat) (v : Word) : Stays s (setPcpWord s part off v) := by
  unfold setPcpWord
  split
  · exact flushKeeps_stays.write ..
  · exact Stays.refl s

theorem stays_writeFaultRecord (s : State) (h : Hart) (t : TrapInfo) : Stays s (writeFaultRecord s h t) := by
  unfold writeFaultRecord
  split
  · exact Stays.refl s
  · exact (stays_writeBytes ..).trans (stays_setPcpWord ..)

theorem stays_writeBatch (s : State) (h : Hart) (frames : List Nat) (flags : Nat) : Stays s (writeBatch s h frames flags) := by
  unfold writeBatch
  split
  · exact Stays.refl s
  · exact (stays_writeBytes ..).trans (stays_setPcpWord ..)

theorem stays_writeTrace (s : State) (core kind : Nat) (head : Word) (members elapsed : Nat) (tail : List Byte) :
    Stays s (writeTrace s core kind head members elapsed tail) := by
  unfold writeTrace writeTraceAt
  have hcount := fun u => stays_onCore u core (fun h => { h with trace := { h.trace with count := h.trace.count + 1 } }) (fun _ => rfl)
  exact (stays_writeBytes s _ _).trans ((hcount _).trans (flushKeeps_stays.write _ none _ 8 _))

theorem stays_logPit (s : State) (d a b c e : Nat) : Stays s (logPit s d a b c e) := by
  unfold logPit
  split
  · exact Stays.refl s
  · exact ⟨rfl, rfl⟩

theorem stays_logError (s : State) (c : Nat) (va : Word) : Stays s (logError s c va) := by
  unfold logError logStructure logPlace
  split
  · exact stays_logPit ..
  · split
    · exact stays_logPit ..
    · split <;> exact stays_logPit ..

theorem stays_logCause (s : State) (c : Nat) (va : Word) : Stays s (logCause s c va) := by
  unfold logCause
  split
  · exact stays_logError ..
  · exact Stays.refl s

theorem courseOf_closeHart (s : State) (h : Hart) : courseOf (closeHart s h) = courseOf h := by
  unfold closeHart
  split <;> rfl

theorem courseOf_countHart (h : Hart) (a b c : Nat) : courseOf (countHart h a b c) = courseOf h := by
  unfold countHart
  split <;> rfl

theorem pc_declineLoop (h : Hart) (detail : Nat) : (declineLoop h detail).pc = h.pc := by
  unfold declineLoop writePending writeAfter latchHart
  split
  · split
    · refine (congrArg Prod.snd (courseOf_countHart ..)).trans ?_
      dsimp only
      split <;> rfl
    · rfl
  · rfl

theorem queue_declineLoop (h : Hart) (detail : Nat) (hq : h.queue = []) : (declineLoop h detail).queue = [] := by
  unfold declineLoop writePending writeAfter latchHart
  split
  · split
    · refine (congrArg Prod.fst (courseOf_countHart ..)).trans ?_
      dsimp only
      split
      · exact hq
      · dsimp only
        rw [hq]
        rfl
    · exact hq
  · exact hq

/-- A hart with nothing in its queue stops where it is. -/
theorem pc_stopShort {h : Hart} (hq : h.queue = []) : (stopShort h).pc = h.pc := by
  have hnone : unstarted h = [] := by
    unfold unstarted
    rw [hq]
    split <;> rfl
  show (rollbackHart h).pc = h.pc
  unfold rollbackHart
  rw [hnone]

theorem pc_of_courseOf {g h : Hart} (e : courseOf g = courseOf h) : g.pc = h.pc := congrArg Prod.snd e

theorem stays_finishStores (part qos : Nat) (s : State) (e : Stope) : Stays s (finishStores part qos s e) := by
  unfold finishStores
  split
  · exact Stays.refl s
  · exact (flushKeeps_stays.toWalkKeeps.markUsed ..).trans
      ((flushKeeps_stays.foldl _ (fun u w => flushKeeps_stays.write ..) _ _).trans (flushKeeps_stays.classPushes ..))

theorem courseOf_stopOutside (s : State) (part launch : Nat) (work : List Nat) :
    courseOf (stopOutside s part launch work).hart = courseOf s.hart := by
  have hfold : ∀ qos, Stays s ((s.hbm.toList.flatMap (·.stopes)).foldl (fun s e =>
      if work.contains e.job.serves then finishStores part qos s e else s) s) := fun qos =>
    flushKeeps_stays.foldl _ (fun u e => by
      split
      · exact stays_finishStores ..
      · exact Stays.refl u) _ s
  exact (hfold _).course

/-- The end of its launch leaves the pc of a hart with nothing in its queue. -/
theorem pc_endLaunchFor {s : State} (hq : s.hart.queue = []) (part launch : Nat) : (endLaunchFor s part launch).hart.pc = s.hart.pc := by
  let s1 := onHarts s (fun h => if runsFor h part launch then stopShort h else h)
  have h1 : s1.hart.pc = s.hart.pc := by
    show (if runsFor s.hart part launch then stopShort s.hart else s.hart).pc = _
    split
    · exact pc_stopShort hq
    · rfl
  have h2 : ∀ cores : List Nat, (cores.foldl flushHart s1).hart.pc = s.hart.pc := fun cores =>
    (pc_of_courseOf (flushKeeps_stays.foldl flushHart stays_flushHart cores s1).course).trans h1
  have h3 : ∀ u work, (stopOutside u part launch work).hart.pc = u.hart.pc := fun u work =>
    pc_of_courseOf (courseOf_stopOutside u part launch work)
  have h4 : ∀ u : State, (if runsFor u.hart part launch then retire (closeHart u u.hart) else u.hart).pc = u.hart.pc := by
    intro u
    split
    · have hclose := pc_of_courseOf (courseOf_closeHart u u.hart)
      exact hclose
    · rfl
  exact (h4 _).trans ((h3 _ _).trans (h2 _))

/-- What a trap does: no stack changes and nothing enters the queue, or its launch ends and the pc stays. -/
theorem takeTrap_leaves {s : State} (hq : s.hart.queue = []) (t : TrapInfo) :
    ((takeTrap s t).hbm = s.hbm ∧ (takeTrap s t).hart.queue = []) ∨ (takeTrap s t).hart.pc = s.hart.pc := by
  unfold takeTrap
  dsimp only
  split
  · have hrecord := stays_writeFaultRecord s s.hart { t with flags := t.flags ||| 2 }
    have hq1 := (congrArg Prod.fst hrecord.course).trans hq
    exact .inr ((pc_endLaunchFor hq1 _ _).trans (pc_of_courseOf hrecord.course))
  · have hclosed : Stays s (closeConvoy (writeFaultRecord s s.hart t)) :=
      (stays_writeFaultRecord s s.hart t).trans ⟨rfl, courseOf_closeHart ..⟩
    generalize closeConvoy (writeFaultRecord s s.hart t) = s1 at hclosed ⊢
    have htraced : Stays s (if (t.cause = 0x18 ∨ t.cause = 0x1A) ∧ traceOn s.hart 0 = true then
        writeTrace s1 s.hart.core 4 t.head t.members 0 (natBytes 8 t.tval.toNat) else s1) := by
      split
      · exact hclosed.trans (stays_writeTrace ..)
      · exact hclosed
    generalize (if (t.cause = 0x18 ∨ t.cause = 0x1A) ∧ traceOn s.hart 0 = true then
        writeTrace s1 s.hart.core 4 t.head t.members 0 (natBytes 8 t.tval.toNat) else s1) = s2 at htraced ⊢
    exact .inl ⟨htraced.hbm, queue_declineLoop _ 11 ((congrArg Prod.fst htraced.course).trans hq)⟩

/-! ### Words of a loop's body -/

/-- What a word of a loop's body may leave: stacks as they were and nothing in the queue, or a pc that has not moved. -/
structure Leaves (s : State) (o : Out) : Prop where
  left : ∀ t, o = .next t → (t.hbm = s.hbm ∧ t.hart.queue = []) ∨ t.hart.pc = s.hart.pc

theorem Leaves.of_stays {s u : State} {o : Out} (hs : Stays s u) (h : Leaves u o) : Leaves s o := by
  refine ⟨fun t ht => ?_⟩
  obtain ⟨hhbm, hqueue⟩ | hpc := h.left t ht
  · exact .inl ⟨hhbm.trans hs.hbm, hqueue⟩
  · exact .inr (hpc.trans (pc_of_courseOf hs.course))

theorem stays_hart {s : State} {g : Hart} (hg : courseOf g = courseOf s.hart) : Stays s { s with hart := g } := ⟨rfl, hg⟩

theorem leaves_next {s t : State} (hhbm : t.hbm = s.hbm) (hq : t.hart.queue = []) : Leaves s (.next t) := by
  refine ⟨fun u hu => ?_⟩
  cases hu
  exact .inl ⟨hhbm, hq⟩

theorem Stays.queue {s u : State} (h : Stays s u) (hq : s.hart.queue = []) : u.hart.queue = [] := (congrArg Prod.fst h.course).trans hq

theorem leaves_takeTrap {s u : State} (hs : Stays s u) (hq : s.hart.queue = []) (t : TrapInfo) : Leaves s (.next (takeTrap u t)) := by
  refine Leaves.of_stays hs ⟨fun v hv => ?_⟩
  cases hv
  exact takeTrap_leaves (hs.queue hq) t

theorem leaves_startedTrap {s u : State} (hs : Stays s u) (hq : s.hart.queue = []) (tags : Vector (BitVec 4) 64) (cause : Nat)
    (tval topnd : Word) (at_ : Nat) (m0 : Bool) (flags : Nat) (undo : List Undo) :
    Leaves s (.next (startedTrap u tags cause tval topnd at_ m0 flags undo)) := by
  unfold startedTrap
  refine leaves_takeTrap (hs.trans ?_) hq _
  exact ⟨rfl, rfl⟩

theorem leaves_vecTrapAt {s : State} (hq : s.hart.queue = []) (cause : Nat) (tval topnd : Word) :
    Leaves s (vecTrapAt s cause tval topnd) := by
  unfold vecTrapAt
  split
  · exact leaves_startedTrap (Stays.refl s) hq ..
  · exact leaves_takeTrap (Stays.refl s) hq _

theorem leaves_vecTrap {s : State} (hq : s.hart.queue = []) (cause : Nat) (topnd : Word) : Leaves s (vecTrap s cause topnd) :=
  leaves_vecTrapAt hq ..

theorem leaves_pauseAt {s u : State} (hs : Stays s u) (tags : Vector (BitVec 4) 64) (at_ : Nat) (m0 : Bool) :
    Leaves s (pauseAt u tags at_ m0) := by
  refine ⟨fun t ht => ?_⟩
  cases ht
  exact .inr (pc_of_courseOf hs.course)

theorem leaves_trappedHart {s : State} {g : Hart} (hg : courseOf g = courseOf s.hart) (hq : s.hart.queue = [])
    (tags : Vector (BitVec 4) 64) (cause : Nat) (tval topnd : Word) (at_ : Nat) (m0 : Bool) (flags : Nat) (undo : List Undo) :
    Leaves s (.next (startedTrap { s with hart := g } tags cause tval topnd at_ m0 flags undo)) :=
  leaves_startedTrap (stays_hart hg) hq ..

theorem leaves_pausedHart {s : State} {g : Hart} (hg : courseOf g = courseOf s.hart) (tags : Vector (BitVec 4) 64) (at_ : Nat)
    (m0 : Bool) : Leaves s (pauseAt { s with hart := g } tags at_ m0) := leaves_pauseAt (stays_hart hg) ..

/-- A word that goes on leaves no trace but in its hart. -/
theorem leaves_advance {s : State} {g : Hart} (hg : courseOf g = courseOf s.hart) (hq : s.hart.queue = []) :
    Leaves s (.next (advance { s with hart := g })) :=
  leaves_next rfl ((congrArg Prod.fst hg).trans hq)

@[simp] theorem courseOf_setTags (h : Hart) (r g t : Nat) : courseOf (setTags h r g t) = courseOf h := rfl
@[simp] theorem courseOf_setProgress (h : Hart) (r g : Nat) (b : Bool) : courseOf (setProgress h r g b) = courseOf h := rfl
@[simp] theorem courseOf_completed (h : Hart) (r n : Nat) : courseOf (completed h r n) = courseOf h := rfl
@[simp] theorem courseOf_orFlags (h : Hart) (fl : Nat) : courseOf (orFlags h fl) = courseOf h := rfl
@[simp] theorem courseOf_setCarry (h : Hart) (p : Partials) : courseOf (setCarry h p) = courseOf h := rfl
@[simp] theorem courseOf_setElem (h : Hart) (r : Nat) (narrow : Bool) (e x : Nat) : courseOf (setElem h r narrow e x) = courseOf h := rfl
@[simp] theorem courseOf_setMask (h : Hart) (m v : Nat) : courseOf (setMask h m v) = courseOf h := rfl
@[simp] theorem courseOf_setMaskProgress (h : Hart) (m g : Nat) (b : Bool) : courseOf (setMaskProgress h m g b) = courseOf h := rfl
@[simp] theorem courseOf_completedMask (h : Hart) (m n : Nat) : courseOf (completedMask h m n) = courseOf h := rfl

@[simp] theorem courseOf_vecTail (h : Hart) (r t n : Nat) : courseOf (vecTail h r t n) = courseOf h := by
  rw [vecTail_frame]
  rfl

@[simp] theorem courseOf_maskTail (h : Hart) (d n : Nat) : courseOf (maskTail h d n) = courseOf h := by
  rw [maskTail_frame]
  rfl

theorem leaves_vecLoop {s : State} (hq : s.hart.queue = []) (d t : Nat) (act : Nat → Bool) (zero : Bool) (f : Nat → Nat × Nat) :
    Leaves s (vecLoop s d t act zero f) := by
  unfold vecLoop
  dsimp only
  split
  · exact leaves_trappedHart (by rfl) hq ..
  · split
    · exact leaves_pausedHart (by rfl) ..
    · refine leaves_advance ?_ hq
      rw [courseOf_completed]
      split
      · rfl
      · exact courseOf_vecTail ..

theorem leaves_maskLoop {s : State} (hq : s.hart.queue = []) (d : Nat) (act : Nat → Bool) (zero : Bool) (f : Nat → Nat × Nat) :
    Leaves s (maskLoop s d act zero f) := by
  unfold maskLoop
  dsimp only
  split
  · exact leaves_trappedHart (by rfl) hq ..
  · split
    · exact leaves_pausedHart (by rfl) ..
    · refine leaves_advance ?_ hq
      rw [courseOf_completedMask]
      split
      · rfl
      · exact courseOf_maskTail ..

theorem leaves_elementwise {s : State} (hq : s.hart.queue = []) (w : ElemWord) : Leaves s (elementwise s w) := by
  unfold elementwise
  split
  · exact leaves_vecTrap hq ..
  · dsimp only
    split
    · exact leaves_maskLoop hq ..
    · exact leaves_vecLoop hq ..

theorem leaves_writeMask {s : State} (hq : s.hart.queue = []) (d : MReg) (v : Nat) : Leaves s (writeMask s d v) := by
  unfold writeMask
  dsimp only
  split
  · exact leaves_pausedHart (by simp) ..
  · refine leaves_advance ?_ hq
    rw [courseOf_completedMask]
    split <;> simp

theorem leaves_checkRegs {s : State} (hq : s.hart.queue = []) (rs : List Nat) {k : Out} (hk : Leaves s k) : Leaves s (checkRegs s rs k) := by
  unfold checkRegs
  split
  · exact leaves_vecTrap hq ..
  · exact hk

theorem leaves_checkVec {s : State} (hq : s.hart.queue = []) (dst : Option Nat) (srcs : List Nat) (res : Nat ⊕ Nat) (anyTag : Bool) {k : Out}
    (hk : Leaves s k) : Leaves s (checkVec s dst srcs res anyTag k) := by
  refine leaves_checkRegs hq _ ?_
  split
  · exact leaves_vecTrap hq ..
  · exact hk

theorem leaves_checkApart {s : State} (hq : s.hart.queue = []) (d : Nat) (srcs own : List Nat) (tag bad : Option Nat) {k : Out}
    (hk : Leaves s k) : Leaves s (checkApart s d srcs own tag bad k) := by
  refine leaves_checkRegs hq _ ?_
  split
  · exact leaves_vecTrap hq ..
  · split
    · exact leaves_vecTrap hq ..
    · exact hk

theorem leaves_guardWrite {s : State} (hq : s.hart.queue = []) (d : SReg) {k : Out} (hk : Leaves s k) : Leaves s (guardWrite s d k) := by
  unfold guardWrite
  split
  · exact leaves_takeTrap (Stays.refl s) hq _
  · exact hk

theorem stays_setReg (s : State) (d : SReg) (v : Word) : Stays s (setReg s d v) := by
  unfold setReg
  split
  · exact Stays.refl s
  · exact ⟨rfl, rfl⟩

theorem stays_takeCarry (s : State) (n : Nat) : Stays s { s with hart := takeCarry s.hart n } := ⟨rfl, rfl⟩

theorem leaves_setReg {s u : State} (hs : Stays s u) (hq : s.hart.queue = []) (d : SReg) (v : Word) :
    Leaves s (.next (advance (setReg u d v))) :=
  leaves_next ((hs.trans (stays_setReg u d v)).hbm) ((hs.trans (stays_setReg u d v)).queue hq)

theorem leaves_ite {s : State} {c : Prop} [Decidable c] {a b : Out} (ha : Leaves s a) (hb : Leaves s b) :
    Leaves s (if c then a else b) := by
  split
  · exact ha
  · exact hb

theorem leaves_reduction {s : State} (hq : s.hart.queue = []) (o : RedOp) (d a b : VReg) (m : MReg) : Leaves s (reduction o d a b m s) := by
  unfold reduction
  dsimp only
  refine leaves_checkApart hq _ _ _ _ _ (leaves_ite (leaves_advance (by simp) hq) ?_)
  generalize foldGroups o s.hart a.val _ m _ _ _ 0 = r
  split
  · exact leaves_trappedHart (by simp) hq ..
  · refine leaves_ite (leaves_pausedHart (by simp) ..) (leaves_ite (leaves_trappedHart (by simp) hq ..) ?_)
    exact leaves_advance (by simp) hq

theorem leaves_execMpopc {s : State} (hq : s.hart.queue = []) (d : SReg) (a : MReg) : Leaves s (execMpopc d a s) := by
  refine leaves_guardWrite hq d ?_
  dsimp only
  split
  · exact leaves_pausedHart (by rfl) ..
  · exact leaves_setReg (s := s) (stays_takeCarry s 0) hq ..

theorem leaves_execMfirst {s : State} (hq : s.hart.queue = []) (d : SReg) (a : MReg) : Leaves s (execMfirst d a s) := by
  refine leaves_guardWrite hq d ?_
  unfold searchMask
  dsimp only
  split
  · exact leaves_setReg (s := s) (stays_takeCarry s 0) hq ..
  · split
    · exact leaves_pausedHart (by rfl) ..
    · exact leaves_setReg (s := s) (stays_takeCarry s 0) hq ..

theorem leaves_execVext {s : State} (hq : s.hart.queue = []) (d : SReg) (a : VReg) (r : SReg) : Leaves s (execVext d a r s) :=
  leaves_guardWrite hq d (leaves_checkVec hq _ _ _ _ (leaves_setReg (Stays.refl s) hq ..))

theorem leaves_writeResult {s : State} (hq : s.hart.queue = []) (d : SReg) (v : Word) : Leaves s (writeResult s d v) :=
  leaves_guardWrite hq d (leaves_setReg (Stays.refl s) hq d v)

/-! ### Vector accesses of a loop's body -/

theorem stays_pieceFate (s : State) (f : Form) (local_ : Bool) (p : Piece) : Stays s (pieceFate s f local_ p).2 := by
  unfold pieceFate
  split
  · exact Stays.refl s
  · have hprobe := flushKeeps_stays.toWalkKeeps.probe s s.hart.core (partOf s.hart) (supervisor s.hart) p.addr p.size f.kind
    dsimp only
    split <;> exact hprobe

theorem stays_elemFate (s : State) (f : Form) (local_ : Bool) (ps : List Piece) : Stays s (elemFate s f local_ ps).2 := by
  have hfold : ∀ acc : Fate × State, Stays acc.2
      (ps.foldl (fun acc p => let r := pieceFate acc.2 f local_ p; (joinFate acc.1 r.1, r.2)) acc).2 := by
    induction ps with
    | nil => exact fun acc => Stays.refl _
    | cons p ps ih =>
      exact fun acc => (stays_pieceFate acc.2 f local_ p).trans
        (ih (joinFate acc.1 (pieceFate acc.2 f local_ p).1, (pieceFate acc.2 f local_ p).2))
  exact hfold (.ok [], s)

theorem stays_judge (s : State) (f : Form) (local_ : Bool) (pieces : Nat → List Piece) (es : List Nat) (acc : List Judged) :
    Stays s (judge s f local_ pieces es acc).2 := by
  fun_induction judge s f local_ pieces es acc with
  | case1 => exact Stays.refl _
  | case2 => exact Stays.refl _
  | case3 s acc e rest ps hr ha ih => exact ih
  | case4 s acc e rest ps hr ha r ih => exact (stays_elemFate ..).trans ih

theorem stays_logTrim (s : State) (f : Form) (x : Judgement) (p : Plan) : Stays s (logTrim s f x p) := by
  unfold logTrim
  split
  · split
    · exact stays_logError ..
    · exact Stays.refl s
  · exact Stays.refl s

theorem stays_settle (s : State) (c : Nat) (ps : List Place) : Stays s (settle s c ps) := by
  unfold settle
  dsimp only
  split
  · exact (flushKeeps_stays.atHomeOf ..).trans (flushKeeps_stays.performPackets ..)
  · exact flushKeeps_stays.atHomeOf ..

theorem stays_laneRead (s : State) (e : Nat) (p : Place) (size : Nat) : Stays s (laneRead s e p size).2 := by
  have hsettle := stays_settle s (laneCluster e) (placeRange p size)
  unfold laneRead
  dsimp only
  generalize settle s (laneCluster e) (placeRange p size) = t at hsettle ⊢
  split
  · exact hsettle
  · split
    · exact hsettle.trans ⟨rfl, rfl⟩
    · have hdrop := flushKeeps_stays.dropOlds { t with fresh := t.fresh + 1 } t.hart.core p
      exact hsettle.trans ⟨hdrop.hbm, hdrop.course⟩

theorem stays_sendPacket (s : State) (p : Packet) : Stays s (sendPacket s p) := by
  unfold sendPacket
  dsimp only
  split
  · exact ⟨rfl, rfl⟩
  · split
    · exact (flushKeeps_stays.performPackets ..).trans ⟨rfl, rfl⟩
    · exact ⟨rfl, rfl⟩

theorem stays_markPieces (s : State) (f : Form) (ps : List Piece) : Stays s (markPieces s f ps).2 :=
  walkKeeps_markPieces flushKeeps_stays.toWalkKeeps s f ps

theorem stays_loadElems (s : State) (f : Form) (pieces : Nat → List Piece) (r : Nat) (narrow : Bool) (size : Nat)
    (els : List (Nat × List Place)) : Stays s (loadElems s f pieces r narrow size els) := by
  unfold loadElems
  refine flushKeeps_stays.foldl _ (fun u x => ?_) els s
  have hread := (stays_markPieces u f (pieces x.1)).trans (stays_laneRead _ x.1 (x.2.headD (.sdm 0)) size)
  exact hread.trans (stays_hart (courseOf_setElem ..))

theorem stays_storeElems (s : State) (f : Form) (pieces : Nat → List Piece) (r t : Nat) (els : List (Nat × List Place)) :
    Stays s (storeElems s f pieces r t els) := by
  unfold storeElems
  exact flushKeeps_stays.foldl _ (fun u x => (stays_markPieces u f (pieces x.1)).trans (stays_sendPacket ..)) els s

@[simp] theorem courseOf_zeroInactive (h : Hart) (m : MReg) (r : Nat) (narrow : Bool) (len : Nat) :
    courseOf (zeroInactive h m r narrow len) = courseOf h := by
  unfold zeroInactive
  split <;> rfl

@[simp] theorem courseOf_setArrival (h : Hart) (r : Nat) (gs : List Nat) : courseOf (setArrival h r gs) = courseOf h := rfl

theorem courseOf_loadLeft (h : Hart) (m : MReg) (r t n : Nat) (p : Plan) : courseOf (loadLeft h m r t n p) = courseOf h := by
  unfold loadLeft closeLoad
  split
  · split <;> simp
  · simp
  · simp
  · simp

theorem stays_withFresh {s : State} {g : Hart} (hg : courseOf g = courseOf s.hart) (n : Nat) :
    Stays s { s with hart := g, fresh := n } := ⟨rfl, hg⟩

/-- What has passed its checks leaves what its end does. -/
theorem leaves_finish {s u : State} (hs : Stays s u) (hq : s.hart.queue = []) (tags : Vector (BitVec 4) 64) (f : Form) (p : Plan) :
    Leaves s (finish u tags f p) := by
  refine Leaves.of_stays hs ?_
  have hqu := hs.queue hq
  unfold finish
  dsimp only
  split
  · split
    · refine leaves_pausedHart ?_ _ _ _
      split <;> rfl
    · refine leaves_advance ?_ hqu
      split
      · split <;> rfl
      · split <;> rfl
  · refine leaves_trappedHart ?_ hqu _ _ _ _ _ _ _ _
    split <;> rfl
  · refine leaves_startedTrap ?_ hqu _ _ _ _ _ _ _ _
    refine Stays.trans (stays_withFresh ?_ _) (stays_writeBatch _ _ _ _)
    rw [courseOf_setMask]
    split <;> rfl
  · refine leaves_startedTrap ?_ hqu _ _ _ _ _ _ _ _
    refine (Stays.trans ?_ (stays_logCause _ _ _)).trans (stays_withFresh ?_ _)
    · refine stays_hart ?_
      split <;> rfl
    · rw [courseOf_setMask, (stays_logCause _ _ _).course]

theorem leaves_vecAccess {s : State} (hq : s.hart.queue = []) (f : Form) (n : Nat) (pieces : Nat → List Piece) (k : State → Plan → Out)
    (hk : ∀ u p, Stays s u → Leaves s (k u p)) : Leaves s (vecAccess s f n pieces k) := by
  unfold vecAccess
  dsimp only
  split
  · exact hk _ _ (Stays.refl s)
  · refine leaves_ite (leaves_vecTrapAt hq ..) (leaves_ite (leaves_vecTrapAt hq ..) (leaves_ite (leaves_next rfl hq) ?_))
    have hjudge := fun b es => stays_judge s f b pieces es []
    split
    · exact leaves_ite (leaves_next rfl hq) (hk _ _ (hjudge _ _))
    · refine hk _ _ (Stays.trans ?_ (stays_logTrim _ _ _ _))
      exact hjudge _ _

theorem leaves_vecLoad {s : State} (hq : s.hart.queue = []) (t : VReg) (f : Form) (n : Nat) (addr : Nat → Word) :
    Leaves s (vecLoad s t f n addr) := by
  unfold vecLoad
  refine leaves_vecAccess hq f n _ _ (fun u p hu => leaves_finish ?_ hq _ _ _)
  have hloaded := (hu.trans (stays_hart (courseOf_setTags u.hart t.val (groupOf u.hart.csr) (dtagOf s.hart.csr)))).trans
    (stays_loadElems _ f (fun e => [⟨addr e, tagBytes (dtagOf s.hart.csr)⟩]) t.val (narrowTag (dtagOf s.hart.csr))
      (tagBytes (dtagOf s.hart.csr)) p.els)
  exact hloaded.trans (stays_hart (courseOf_loadLeft ..))

theorem leaves_vecStore {s : State} (hq : s.hart.queue = []) (t : VReg) (f : Form) (n : Nat) (addr : Nat → Word) :
    Leaves s (vecStore s t f n addr) := by
  unfold vecStore
  exact leaves_vecAccess hq f n _ _ (fun u p hu => leaves_finish (hu.trans (stays_storeElems u f _ _ _ p.els)) hq _ _ _)

theorem leaves_checkLoad {s : State} (hq : s.hart.queue = []) (t : VReg) (vi : Option VReg) {k : Out} (hk : Leaves s k) :
    Leaves s (checkLoad s t vi k) := by
  unfold checkLoad
  split
  · exact leaves_vecTrap hq ..
  · exact hk

theorem leaves_checkStore {s : State} (hq : s.hart.queue = []) (t : VReg) (vi : Option VReg) {k : Out} (hk : Leaves s k) :
    Leaves s (checkStore s t vi k) := by
  unfold checkStore
  split
  · exact leaves_vecTrap hq ..
  · exact hk

/-! ### The body of an iteration -/

theorem leaves_replayInstr {s : State} (hq : s.hart.queue = []) (x : Instr) : Leaves s (replayInstr x s) := by
  unfold replayInstr
  split
  case h_1 => exact leaves_checkLoad hq _ _ (leaves_vecLoad hq ..)
  case h_2 => exact leaves_checkStore hq _ _ (leaves_vecStore hq ..)
  case h_3 => exact leaves_checkLoad hq _ _ (leaves_vecLoad hq ..)
  case h_4 => exact leaves_checkStore hq _ _ (leaves_vecStore hq ..)
  case h_17 => exact leaves_reduction hq ..
  case h_18 => exact leaves_reduction hq ..
  case h_19 => exact leaves_writeMask hq ..
  case h_20 => exact leaves_writeMask hq ..
  case h_21 => exact leaves_writeMask hq ..
  case h_22 => exact leaves_writeResult hq ..
  case h_23 => exact leaves_writeResult hq ..
  case h_24 => exact leaves_writeResult hq ..
  case h_25 => exact leaves_execMpopc hq ..
  case h_26 => exact leaves_execMfirst hq ..
  case h_27 => exact leaves_execVext hq ..
  case h_28 => exact leaves_next rfl hq
  all_goals exact leaves_elementwise hq _

/-- The state in which a replay comes to a recorded word. -/
def atWord (s : State) (o : LoopOp) : State := { s with hart := { s.hart with pc := o.pc, ir := o.ir } }

/-- An iteration that is computed leaves the stacks as they were: a word whose launch has ended has not moved the pc, so that the
replay departs there. -/
theorem replayOps_hbm {s : State} {w : Stored} {ops : List LoopOp} {u : State} {st : Stored} (hq : s.hart.queue = [])
    (h : replayOps s w ops = .inl (u, st)) : u.hbm = s.hbm := by
  induction ops generalizing s w with
  | nil =>
    cases h
    rfl
  | cons o rest ih =>
    unfold replayOps at h
    dsimp only at h
    split at h
    · cases h
      rfl
    · have hset := fun a v => stays_setReg (atWord s o) a v
      exact (ih ((hset _ _).queue hq) h).trans (hset _ _).hbm
    · next i _ _ =>
      have hleaves := leaves_replayInstr (s := atWord s o) hq i
      split at h
      · split at h
        · cases h
        · exact ih (s := atWord s o) hq h
      · split at h
        · next t hrun =>
          split at h
          · cases h
          · split at h
            · next hpc =>
              obtain ⟨hhbm, hqueue⟩ | hstays := hleaves.left t hrun
              · exact (ih (s := { t with mem := overlayBytes t.mem (packetBytes t.packets), packets := [] }) hqueue h).trans hhbm
              · have hmoved : o.pc = o.pc + 4 := hstays.symm.trans hpc
                exact absurd hmoved (by bv_omega)
            · cases h
        · cases h

end Sys2Proof.Machine

/-! Marked loops (R101, R116, R238 to R244, R349). -/

namespace Sys2Proof.Machine

open Sys2Proof.Claims

/-! ### A loop declined (R240) -/

/-- The iteration that the status of a declined loop names: that of the last recorded one where the verdict declines it. -/
def declineIndex (l : Loop) : Nat := if l.phase = .verdict then l.iter - 1 else l.iter

theorem loopWord_declined (index detail : Nat) :
    word (7 * 2 ^ 60 + 2 ^ 56 + (index % 2 ^ 24) * 2 ^ 32 + detail % 2 ^ 32) = loopWord 1 (index % 2 ^ 24) detail := by
  have hindex : Nat.min (index % 2 ^ 24) 0xFFFFFF = index % 2 ^ 24 := Nat.min_eq_left (by omega)
  rw [loopWord, statusWord, hindex, Nat.one_mul]

/-- What declining a loop leaves of its hart: the loop declined, its status in its register. -/
structure Declined (h : Hart) (l : Loop) (detail : Nat) (g : Hart) : Prop where
  pc : g.pc = h.pc
  loop : g.loop = some { l with phase := .declined, cur := [], ops := [] }
  regs : ∀ r, regOf g r = if r = l.rd ∧ l.rd ≠ 0 then loopWord 1 (declineIndex l % 2 ^ 24) detail else regOf h r

theorem Declined.counted {h g : Hart} {l : Loop} {detail : Nat} (hg : Declined h l detail g) (e c n : Nat) :
    Declined h l detail (countHart g e c n) := by
  have hpc := congrArg Hart.pc (countHart_frame g e c n)
  have hloop := congrArg Hart.loop (countHart_frame g e c n)
  have hregs := fun r => congrArg (fun h => regOf h r) (countHart_frame g e c n)
  exact ⟨hpc.trans hg.pc, hloop.trans hg.loop, fun r => (hregs r).trans (hg.regs r)⟩

/-- A hart whose loop is declined, its status register not yet written. -/
def withDeclined (h : Hart) (l : Loop) : Hart := { h with loop := some { l with phase := .declined, cur := [], ops := [] } }

theorem declined_written (h : Hart) (l : Loop) (detail : Nat) :
    Declined h l detail (if l.rd = 0 then withDeclined h l
      else latchHart (writePending (withDeclined h l) l.rd (loopWord 1 (declineIndex l % 2 ^ 24) detail))) := by
  generalize hv : loopWord 1 (declineIndex l % 2 ^ 24) detail = v
  split
  · next hd => exact ⟨rfl, rfl, fun r => (if_neg (fun hc => hc.2 hd)).symm⟩
  · have hframe := writePending_frame (withDeclined h l) l.rd v
    have hpc := congrArg Hart.pc hframe
    have hloop := congrArg Hart.loop hframe
    refine ⟨hpc, hloop, fun r => ?_⟩
    rw [hv]
    exact regOf_writePending (withDeclined h l) l.rd v r

theorem declineLoop_declined {h : Hart} {l : Loop} (detail : Nat) (hl : h.loop = some l) (hp : l.phase = .recording ∨ l.phase = .verdict) :
    Declined h l detail (declineLoop h detail) := by
  have hword := loopWord_declined (declineIndex l) detail
  unfold declineLoop
  rw [hl]
  dsimp only
  rw [if_pos hp, show (if l.phase = .verdict then l.iter - 1 else l.iter) = declineIndex l from rfl, hword]
  exact (declined_written h l detail).counted ..

/-! ### LMARK and LNEXT (R238, R239) -/

theorem frozen_recording {h : Hart} {l : Loop} (hl : h.loop = some l) (hp : l.phase = .recording) (r : SReg) : frozen h r = false := by
  unfold frozen
  rw [hl]
  dsimp only
  rw [hp]
  rfl

/-- The loop that an `LMARK` opens. -/
def markedLoop (s : State) (d a b c : SReg) : Loop :=
  ⟨s.serial, d, a, b, c, s.hart.pc + 4, none, (getReg s a).toNat, 0, [], [], none, false, [], [], groupOf s.hart.csr, s.hart.csr,
    .recording, 0, 0, supervisor s.hart, s.hart.regs, Vec.start, 0⟩

/-- The hart that an `LMARK` leaves where it opens its loop. -/
def markedHart (s : State) (d a b c : SReg) : Hart := { setPending s.hart d with loop := some (markedLoop s d a b c) }

theorem setPending_frame (h : Hart) (d : SReg) : setPending h d = { h with pending := (setPending h d).pending } := by
  unfold setPending
  split <;> rfl

theorem execLmark_noLoop {s : State} (hl : s.hart.loop = none) (d a b c : SReg) : exec (.lmark d a b c) s =
    .next (advance { s with
      hart := if (getReg s a).toNat ≤ s.hart.csr.recn.toNat ∨ 2 ^ 24 ≤ (getReg s a).toNat then declineLoop (markedHart s d a b c) 1
        else markedHart s d a b c
      serial := s.serial + 1 }) := by
  show execLmark d a b c s = _
  unfold execLmark
  rw [guardWrite_free s d _ (frozen_noLoop s.hart d hl), if_neg (by rw [hl]; decide)]
  rfl

/-- A branch target is a signed count of words (R130). -/
theorem target_eq (s : State) (o : BitVec 13) : target s o = s.hart.pc + 4 * o.signExtend 64 := by
  rw [target, BitVec.shiftLeft_eq_mul_twoPow, BitVec.mul_comm]
  rfl

theorem onlyResult_setPc_setReg (s : State) (d : SReg) (v pc : Word) : s.onlyResult (setPc (setReg s d v) pc) d v pc := by
  refine ⟨?_, fun r hr => ?_, ?_, ?_⟩
  · rw [getReg_setPc, getReg_setReg_same]
  · rw [getReg_setPc, getReg_setReg_other s d r v hr]
  · rfl
  · unfold setPc setReg
    split <;> rfl

/-- The count register stepped, and the branch of an `LNEXT` (R238). -/
def steppedTo (s : State) (a : SReg) (o : BitVec 13) : State :=
  if getReg s a - 1 = 0 then advance (setReg s a (getReg s a - 1)) else setPc (setReg s a (getReg s a - 1)) (target s o)

theorem steppedTo_eq (s : State) (a : SReg) (o : BitVec 13) : steppedTo s a o =
    setPc (setReg s a (getReg s a - 1)) (s.hart.pc + if getReg s a - 1 = 0 then 4 else 4 * o.signExtend 64) := by
  unfold steppedTo
  split
  · rw [advance, show (setReg s a (getReg s a - 1)).hart.pc = s.hart.pc by unfold setReg; split <;> rfl]
  · rw [target_eq]

theorem steppedTo_loop (s : State) (a : SReg) (o : BitVec 13) : (steppedTo s a o).hart.loop = s.hart.loop := by
  rw [steppedTo_eq]
  unfold setPc setReg
  split <;> rfl

theorem steppedTo_csr (s : State) (a : SReg) (o : BitVec 13) : (steppedTo s a o).hart.csr = s.hart.csr := by
  rw [steppedTo_eq]
  unfold setPc setReg
  split <;> rfl

theorem execLnext_noLoop {s : State} (hl : s.hart.loop = none) (a : SReg) (o : BitVec 13) :
    exec (.lnext a o) s = .next (steppedTo s a o) := by
  show execLnext a o s = _
  unfold execLnext
  rw [guardWrite_free s a _ (frozen_noLoop s.hart a hl), hl]
  rfl

theorem execLnext_closes {s : State} {l : Loop} (hl : s.hart.loop = some l) (hp : l.phase = .recording) {o : BitVec 13}
    (ho : s.hart.pc + 4 * o.signExtend 64 = l.top) :
    exec (.lnext l.count o) s = .next (closeIteration (steppedTo s l.count o) l s.hart.pc) := by
  show execLnext l.count o s = _
  unfold execLnext
  rw [guardWrite_free s l.count _ (frozen_recording hl hp _), hl]
  dsimp only
  rw [if_pos ⟨hp, rfl, (target_eq s o).trans ho⟩]
  rfl

theorem closeIteration_faults (s : State) (l : Loop) (pc : Word) {off : Nat} (hf : roleFault l (l.cur ++ l.ops.flatten) = some off) :
    closeIteration s l pc = { s with hart := declineLoop s.hart (2 + 256 * off) } := by
  unfold closeIteration
  rw [hf]

/-- A recorded loop with an iteration closed, of `recn` to record (R240). -/
def closedLoop (l : Loop) (pc : Word) (recn : Nat) : Loop :=
  { l with
    iter := l.iter + 1, ops := l.ops ++ [l.cur], cur := [], endPc := some pc
    phase := if recn ≤ l.iter + 1 then .verdict else .recording }

theorem closeIteration_closes (s : State) (l : Loop) (pc : Word) (hf : roleFault l (l.cur ++ l.ops.flatten) = none) (hiter : 0 < l.iter) :
    closeIteration s l pc = { s with hart := { s.hart with loop := some (closedLoop l pc s.hart.csr.recn.toNat) } } := by
  unfold closeIteration
  rw [hf]
  dsimp only
  rw [if_neg (fun hc => absurd hc.1 (Nat.pos_iff_ne_zero.1 hiter))]
  simp only [closedLoop, decide_eq_true_eq]

end Sys2Proof.Machine

namespace Sys2Proof.Claims

open Sys2Proof.Machine

/-- LMARK opens a loop, or declines it with code 1 (R239, R240). -/
theorem lmark_marks {s : State} (hl : s.hart.loop = none) (d a b c : SReg) :
    let n := (getReg s a).toNat
    ∃ t, exec (.lmark d a b c) s = .next t ∧ t.hart.pc = s.hart.pc + 4 ∧ t.serial = s.serial + 1 ∧
      (s.hart.csr.recn.toNat < n → n < 2 ^ 24 → t.hart.regs = s.hart.regs ∧ pendingNow s.hart t.hart d true ∧
        ∃ l, t.hart.loop = some l ∧ l.rd = d ∧ l.count = a ∧ l.ind1 = b ∧ l.ind2 = c ∧ l.top = s.hart.pc + 4 ∧ l.n = n ∧
          l.iter = 0 ∧ l.phase = .recording) ∧
      (n ≤ s.hart.csr.recn.toNat ∨ 2 ^ 24 ≤ n →
        (∀ r, getReg t r = if r = d ∧ d ≠ 0 then loopWord 1 0 1 else getReg s r) ∧
        ∃ l, t.hart.loop = some l ∧ l.phase = .declined) := by
  intro n
  have hpc := congrArg Hart.pc (setPending_frame s.hart d)
  have hkept := congrArg Hart.regs (setPending_frame s.hart d)
  have hmarked : (markedHart s d a b c).pc = s.hart.pc := hpc
  have hregs : (markedHart s d a b c).regs = s.hart.regs := hkept
  have hdecline := declineLoop_declined (h := markedHart s d a b c) 1 rfl (.inl rfl)
  refine ⟨_, execLmark_noLoop hl d a b c, ?_, rfl, fun hlow hhigh => ?_, fun hout => ?_⟩
  · show (if _ then _ else _ : Hart).pc + 4 = _
    split
    · rw [hdecline.pc, hmarked]
    · rw [hmarked]
  · rw [if_neg (by omega)]
    exact ⟨hregs, pendingNow_setPending s.hart d, markedLoop s d a b c, rfl, rfl, rfl, rfl, rfl, rfl, rfl, rfl, rfl⟩
  · rw [if_pos hout]
    refine ⟨fun r => (hdecline.regs r).trans ?_, _, hdecline.loop, rfl⟩
    rw [show regOf (markedHart s d a b c) r = getReg s r by unfold regOf getReg; rw [hregs]]
    rfl

theorem lnext_branches {s : State} (hl : s.hart.loop = none) (a : SReg) (o : BitVec 13) : ∃ t, exec (.lnext a o) s = .next t ∧
    s.onlyResult t a (getReg s a - 1) (s.hart.pc + if getReg s a - 1 = 0 then 4 else 4 * o.signExtend 64) := by
  refine ⟨_, execLnext_noLoop hl a o, ?_⟩
  rw [steppedTo_eq]
  exact onlyResult_setPc_setReg ..

theorem ljoin_traps {s : State} (hm : mayEnter s.hart) (a : SReg) (o : BitVec 13) : ∃ t, exec (.ljoin a o) s = .next t ∧
    entered s t 0x01 (s.hart.ir.zeroExtend 64) 0 s.hart.pc := by
  obtain ⟨hnest, hloop⟩ := hm
  refine ⟨trapWord s 0x01 0, ?_, trapAt_entered s 0x01 _ _ ⟨hnest, hloop⟩⟩
  show execLjoin a o s = _
  unfold execLjoin
  rw [hloop]

/-- An iteration closed, or the loop declined where a word breaks its role (R240). -/
theorem lnext_closes {s : State} {l : Loop} (hl : s.hart.loop = some l) (hp : l.phase = .recording) (hiter : 0 < l.iter) {o : BitVec 13}
    (ho : s.hart.pc + 4 * o.signExtend 64 = l.top) :
    (∀ off, roleFault l (l.cur ++ l.ops.flatten) = some off → ∃ t u, exec (.lnext l.count o) s = .next t ∧
      t.hart.loop = some u ∧ u.phase = .declined ∧
      (l.rd ≠ 0 → getReg t l.rd = loopWord 1 (l.iter % 2 ^ 24) (2 + 256 * off))) ∧
    (roleFault l (l.cur ++ l.ops.flatten) = none →
      let phase := if s.hart.csr.recn.toNat ≤ l.iter + 1 then LoopPhase.verdict else .recording
      let closed := { l with iter := l.iter + 1, ops := l.ops ++ [l.cur], cur := [], endPc := some s.hart.pc, phase := phase }
      ∃ t, exec (.lnext l.count o) s = .next t ∧ t.hart.loop = some closed ∧
        getReg t l.count = (if l.count = 0 then 0 else getReg s l.count - 1)) := by
  have hexec := execLnext_closes hl hp ho
  refine ⟨fun off hf => ?_, fun hf => ?_⟩
  · have hdecline := declineLoop_declined (2 + 256 * off) ((steppedTo_loop s l.count o).trans hl) (.inl hp)
    rw [closeIteration_faults _ _ _ hf] at hexec
    refine ⟨_, _, hexec, hdecline.loop, rfl, fun hd => (hdecline.regs l.rd).trans ?_⟩
    rw [if_pos ⟨rfl, hd⟩, declineIndex, if_neg (by rw [hp]; decide)]
  · rw [closeIteration_closes _ _ _ hf hiter, steppedTo_csr] at hexec
    refine ⟨_, hexec, rfl, ?_⟩
    show getReg (steppedTo s l.count o) l.count = _
    rw [steppedTo_eq, getReg_setPc, getReg_setReg_same]

end Sys2Proof.Claims

/-! The join and the verdict of marked loops (R240, R242 to R244). -/

namespace Sys2Proof.Machine

open Sys2Proof.Claims

/-! ### The hand-back (R243) -/

/-- Registers with a carried one handed back. -/
def putCarried (l : Loop) (rs : Vector Word 32) (r : SReg) : Vector Word 32 := if r = 0 then rs else rs.set r l.regs[r]

theorem getElem_putCarried (l : Loop) (rs : Vector Word 32) (r q : SReg) :
    (putCarried l rs r)[q] = if q = r ∧ r ≠ 0 then l.regs[q] else rs[q] := by
  unfold putCarried
  by_cases hr : r = 0
  · rw [if_pos hr, if_neg (fun h => h.2 hr)]
  · rw [if_neg hr]
    by_cases hq : q = r
    · subst hq
      rw [if_pos ⟨rfl, hr⟩]
      exact Vector.getElem_set_self ..
    · rw [if_neg (fun h => hq h.1)]
      exact Vector.getElem_set_ne _ _ (fun e => hq (Fin.ext e.symm))

theorem handBack_loop (h : Hart) (l : Loop) : (handBack h l).loop = none := rfl
theorem handBack_pc (h : Hart) (l : Loop) : (handBack h l).pc = h.pc := rfl
theorem handBack_released (h : Hart) (l : Loop) : (handBack h l).released = h.released := rfl

/-- The carried scalars are the loop's, every other register is the hart's. -/
theorem regOf_handBack (h : Hart) (l : Loop) (r : SReg) :
    regOf (handBack h l) r = if r ≠ 0 ∧ (r = l.count ∨ r = l.ind1 ∨ r = l.ind2) then l.regs[r] else regOf h r := by
  have hregs : (handBack h l).regs = putCarried l (putCarried l (putCarried l h.regs l.count) l.ind1) l.ind2 := rfl
  unfold regOf
  rw [hregs]
  by_cases hr : r = 0
  · rw [if_pos hr, if_neg (fun hc => hc.1 hr), if_pos hr]
  · rw [if_neg hr, if_neg hr, getElem_putCarried, getElem_putCarried, getElem_putCarried]
    have hand : ∀ q : SReg, (r = q ∧ q ≠ 0) = (r = q) := fun q => propext ⟨And.left, fun e => ⟨e, e ▸ hr⟩⟩
    simp only [hand, ne_eq, hr, not_false_eq_true, true_and]
    by_cases h2 : r = l.ind2
    · simp [h2]
    · by_cases h1 : r = l.ind1 <;> by_cases h0 : r = l.count <;> simp [h0, h1, h2]

theorem acquireNow_released (s : State) : (acquireNow s).hart.released = false := by
  unfold acquireNow
  split
  · rfl
  · next h => exact Bool.eq_false_iff.2 h

/-! ### The verdict (R240, R242) -/

theorem me_eq {s : State} (hcore : s.hart.core < 128) : (me s).val = s.hart.core := Nat.mod_eq_of_lt hcore

theorem flushHart_settled (s : State) : settledHart (flushHart s s.hart.core).hart = settledHart s.hart := by
  have hperformed := congrArg settledHart (performPackets_hart s (fun p => p.core == s.hart.core))
  exact (drainBuffer_withoutStores (performPackets s (fun p => p.core == s.hart.core)) s.hart.core).trans hperformed

theorem flushHart_empty {s : State} (hd : drains s.hart) : (flushHart s s.hart.core).hart.buffer = [] := by
  have hsame := performPackets_hart s (fun p => p.core == s.hart.core)
  have hcore := congrArg Hart.core hsame
  have hempty := drainBuffer_empty (drains_congr hsame hd)
  rw [show (performPackets s (fun p => p.core == s.hart.core)).hart.core = s.hart.core from hcore] at hempty
  exact hempty

theorem onStack_hart (s : State) (k : Nat) (f : Stack → Stack) : (onStack s k f).hart = s.hart := by
  unfold onStack
  split <;> rfl

theorem yieldEngine_hart (s : State) (k : Nat) : (yieldEngine s k).hart = s.hart := by
  unfold yieldEngine
  split
  · rfl
  · split
    · exact (onStack_hart ..).trans (onStack_hart ..)
    · rfl

/-- The code of a verdict (R240). -/
def verdictOf (s : State) (l : Loop) : Option Nat := if s.hart.csr.vl ≠ l.csr.vl then some 10 else verdictCode s s.hart l

section Verdict

variable {s : State} {l : Loop} (hcore : s.hart.core < 128) (hl : s.hart.loop = some l) (hp : l.phase = .verdict)
  (hstarted : unstarted s.hart = []) (hheld : s.hart.held = none) (hvf : s.hart.vf = none) (hloads : s.hart.loads = [])
include hcore hl hp hstarted hheld hvf hloads

theorem execLoopVerdict_declines {c : Nat} (hc : verdictOf s l = some c) :
    exec (.loopVerdict (me s)) s = .next { s with hart := declineLoop s.hart c } := by
  show execLoopVerdict (me s) s = _
  unfold execLoopVerdict
  dsimp only
  rw [me_eq hcore, hartAt_self, hl]
  dsimp only
  rw [hstarted, hheld, hvf, hloads, if_pos ⟨hp, rfl, rfl, rfl, rfl⟩,
    show (if s.hart.csr.vl ≠ l.csr.vl then some 10 else verdictCode s s.hart l) = some c from hc]
  dsimp only
  rw [onCore_self]

theorem execLoopVerdict_confirms (hc : verdictOf s l = none) : exec (.loopVerdict (me s)) s = .next (confirmLoop s s.hart.core l) := by
  show execLoopVerdict (me s) s = _
  unfold execLoopVerdict
  dsimp only
  rw [me_eq hcore, hartAt_self, hl]
  dsimp only
  rw [hstarted, hheld, hvf, hloads, if_pos ⟨hp, rfl, rfl, rfl, rfl⟩,
    show (if s.hart.csr.vl ≠ l.csr.vl then some 10 else verdictCode s s.hart l) = none from hc]

end Verdict

/-- What confirming a loop leaves of its hart (R242). -/
structure Confirmed (s : State) (l : Loop) (g : Hart) : Prop where
  pc : g.pc = l.endPc.getD 0 + 4
  regs : g.regs = s.hart.regs
  drained : drains s.hart → g.buffer = []
  loop : ∃ u, g.loop = some u ∧ u.phase = .replaying ∧ u.next = l.iter ∧ u.regs = s.hart.regs

/-- The hart of a confirmed loop, which engine `g` replays, its event not yet counted (R242). -/
def confirmedHart (l : Loop) (g : Nat) (h : Hart) : Hart :=
  { h with
    pc := l.endPc.getD 0 + 4
    loop := some { l with
      phase := .replaying, csr := h.csr, stope := g, next := l.iter, super := supervisor h, regs := h.regs, vec := h.vec, flags := 0 } }

theorem confirmLoop_confirms (s : State) (l : Loop) : Confirmed s l (confirmLoop s s.hart.core l).hart := by
  let k := l.stack.getD 0
  let s0 := yieldEngine (cleanL1 (flushHart s s.hart.core) s.hart.core) k
  let g := (freeStope (stackAt s0 k)).getD 0
  let span := physicalSpan s0 (hartAt s s.hart.core) l
  let s1 := takeStope s0 k g (.replay l.id span.1 span.2)
  have hhart : s1.hart = (flushHart s s.hart.core).hart := (onStack_hart ..).trans (yieldEngine_hart ..)
  have hsettled : Settled s1.hart s.hart := Settled.of_eq ((congrArg settledHart hhart).trans (flushHart_settled s))
  have hconfirm : (confirmLoop s s.hart.core l).hart = countHart (confirmedHart l g s1.hart) 0x13 8 1 := by
    show (onCore s1 s.hart.core (fun h => countHart (confirmedHart l g h) 0x13 8 1)).hart = _
    rw [← hsettled.core, onCore_self]
  rw [hconfirm]
  have hframe := countHart_frame (confirmedHart l g s1.hart) 0x13 8 1
  have hpc := congrArg Hart.pc hframe
  have hregs := congrArg Hart.regs hframe
  have hcounted := congrArg Hart.buffer hframe
  have hbuffer := congrArg Hart.buffer hhart
  have hloop := congrArg Hart.loop hframe
  exact {
    pc := hpc
    regs := hregs.trans hsettled.regs
    drained := fun hd => hcounted.trans (hbuffer.trans (flushHart_empty hd))
    loop := ⟨_, hloop, rfl, rfl, hsettled.regs⟩ }

end Sys2Proof.Machine

namespace Sys2Proof.Claims

open Sys2Proof.Machine

theorem ljoin_declined {s : State} {l : Loop} (hl : s.hart.loop = some l) (hp : l.phase = .declined) (o : BitVec 13) :
    exec (.ljoin l.rd o) s = .next { s with hart := { s.hart with pc := s.hart.pc + 4, loop := none } } := by
  show execLjoin l.rd o s = _
  unfold execLjoin
  rw [hl]
  dsimp only
  rw [if_neg (not_not.2 rfl), hp]
  rfl

theorem ljoin_recording {s : State} {l : Loop} (hl : s.hart.loop = some l) (hp : l.phase = .recording) (hd : l.rd ≠ 0) (o : BitVec 13) :
    ∃ t, exec (.ljoin l.rd o) s = .next t ∧ t.hart.pc = s.hart.pc + 4 ∧
      t.hart.loop = none ∧ ∀ r, getReg t r = if r = l.rd then loopWord 1 (l.iter % 2 ^ 24) 12 else getReg s r := by
  have hdecline := declineLoop_declined 12 hl (.inl hp)
  refine ⟨advance { s with hart := { declineLoop s.hart 12 with loop := none } }, ?_, ?_, rfl, fun r => ?_⟩
  · show execLjoin l.rd o s = _
    unfold execLjoin
    rw [hl]
    dsimp only
    rw [if_neg (not_not.2 rfl), hp]
  · exact congrArg (· + 4) hdecline.pc
  · refine (hdecline.regs r).trans ?_
    have hindex : declineIndex l = l.iter := if_neg (by rw [hp]; decide)
    rw [hindex]
    exact if_congr (and_iff_left hd) rfl rfl

theorem ljoin_finished {s : State} {l : Loop} {w : Word} (hl : s.hart.loop = some l) (hp : l.phase = .finished w) (o : BitVec 13) :
    ∃ t, exec (.ljoin l.rd o) s = .next t ∧ t.hart.loop = none ∧
      t.mem = (acquireNow s).mem ∧ t.hart.released = false ∧
      t.hart.pc = s.hart.pc + (if w.toNat / 2 ^ 56 % 16 = 2 then 4 * o.signExtend 64 else 4) ∧
      ∀ r, getReg t r = if r ≠ 0 ∧ (r = l.count ∨ r = l.ind1 ∨ r = l.ind2) then l.regs[r] else getReg s r := by
  have hsettled : Settled (acquireNow s).hart s.hart := Settled.of_eq (acquireNow_settled s)
  have hexec : exec (.ljoin l.rd o) s = .next (setPc { acquireNow s with hart := handBack (acquireNow s).hart l }
      (s.hart.pc + (if w.toNat / 2 ^ 56 % 16 = 2 then 4 * o.signExtend 64 else 4))) := by
    show execLjoin l.rd o s = _
    unfold execLjoin
    rw [hl]
    dsimp only
    rw [if_neg (not_not.2 rfl), hp]
    dsimp only
    by_cases h2 : w.toNat / 2 ^ 56 % 16 = 2
    · rw [if_pos (show bits w 56 4 = 2 from h2), if_pos h2, target_eq]
    · rw [if_neg (show ¬bits w 56 4 = 2 from h2), if_neg h2, advance]
      dsimp only
      rw [handBack_pc, hsettled.pc]
  refine ⟨_, hexec, rfl, rfl, acquireNow_released s, rfl, fun r => (regOf_handBack _ l r).trans ?_⟩
  rw [show regOf (acquireNow s).hart r = getReg s r by unfold regOf getReg; rw [hsettled.regs]]

theorem loopVerdict_judges {s : State} {l : Loop} (hl : s.hart.loop = some l) (hcore : s.hart.core < 128) (hp : l.phase = .verdict)
    (hstarted : unstarted s.hart = []) (hheld : s.hart.held = none) (hvf : s.hart.vf = none) (hloads : s.hart.loads = []) :
    let code := if s.hart.csr.vl ≠ l.csr.vl then some 10 else verdictCode s s.hart l
    ∃ t u, exec (.loopVerdict (me s)) s = .next t ∧ t.hart.loop = some u ∧
      (∀ c, code = some c → u.phase = .declined ∧ t.hart.pc = s.hart.pc ∧
        (l.rd ≠ 0 → getReg t l.rd = loopWord 1 ((l.iter - 1) % 2 ^ 24) c)) ∧
      (code = none → u.phase = .replaying ∧ u.next = l.iter ∧ u.regs = s.hart.regs ∧
        t.hart.regs = s.hart.regs ∧ (drains s.hart → t.hart.buffer = []) ∧ ∀ e, l.endPc = some e → t.hart.pc = e + 4) := by
  dsimp only
  rw [show (if s.hart.csr.vl ≠ l.csr.vl then some 10 else verdictCode s s.hart l) = verdictOf s l from rfl]
  cases hcode : verdictOf s l with
  | some c =>
    have hexec := execLoopVerdict_declines hcore hl hp hstarted hheld hvf hloads hcode
    have hdecline := declineLoop_declined c hl (.inr hp)
    refine ⟨_, _, hexec, hdecline.loop, fun d hd => ?_, fun hc => nomatch hc⟩
    cases hd
    refine ⟨rfl, hdecline.pc, fun hrd => (hdecline.regs l.rd).trans ?_⟩
    rw [if_pos ⟨rfl, hrd⟩, declineIndex, if_pos hp]
  | none =>
    have hexec := execLoopVerdict_confirms hcore hl hp hstarted hheld hvf hloads hcode
    obtain ⟨hpc, hregs, hdrained, u, hloop, hphase, hnext, huregs⟩ := confirmLoop_confirms s l
    refine ⟨_, u, hexec, hloop, fun c hc => (nomatch hc), fun _ => ⟨hphase, hnext, huregs, hregs, hdrained, fun e he => ?_⟩⟩
    rw [hpc, he]
    rfl

end Sys2Proof.Claims

/-! The replay of marked loops (R116, R242, R348, R349). -/

namespace Sys2Proof.Machine

open Sys2Proof.Claims

/-! ### Stope engines -/

/-- Nothing but the stacks of a state has changed. -/
def OnlyStacks (s t : State) : Prop := ∃ b, t = { s with hbm := b }

theorem OnlyStacks.trans {s t u : State} (h1 : OnlyStacks s t) (h2 : OnlyStacks t u) : OnlyStacks s u := by
  obtain ⟨b, rfl⟩ := h1
  obtain ⟨c, rfl⟩ := h2
  exact ⟨c, rfl⟩

theorem OnlyStacks.hart {s t : State} (h : OnlyStacks s t) : t.hart = s.hart := by
  obtain ⟨b, rfl⟩ := h
  rfl

theorem OnlyStacks.mem {s t : State} (h : OnlyStacks s t) : t.mem = s.mem := by
  obtain ⟨b, rfl⟩ := h
  rfl

theorem OnlyStacks.dirty {s t : State} (h : OnlyStacks s t) : t.dirty = s.dirty := by
  obtain ⟨b, rfl⟩ := h
  rfl

theorem onStack_frame (s : State) (k : Nat) (f : Stack → Stack) : OnlyStacks s (onStack s k f) := by
  unfold onStack
  split
  · exact ⟨_, rfl⟩
  · exact ⟨s.hbm, rfl⟩

theorem stackAt_congr {s u : State} (h : u.hbm = s.hbm) (k : Nat) : stackAt u k = stackAt s k := by rw [stackAt, h]; rfl

theorem stopeAt_congr {s u : State} (h : u.hbm = s.hbm) (k g : Nat) : stopeAt u k g = stopeAt s k g := by
  unfold stopeAt
  rw [stackAt_congr h]

/-- Of a stack that changes in what leaves its engines alone, the engines are as they were. -/
theorem stopeAt_onStack (s : State) (k g : Nat) {f : Stack → Stack} (hf : ∀ x, (f x).stopes = x.stopes) :
    stopeAt (onStack s k f) k g = stopeAt s k g := by
  unfold stopeAt stackAt onStack
  split
  · next x hx =>
    have hlt := (Vector.getElem?_eq_some_iff.1 hx).1
    dsimp only
    rw [Vector.getElem?_setIfInBounds_self_of_lt hlt, hx]
    dsimp only [Option.getD]
    rw [hf]
  · rfl

/-- An engine in use that changes, under its number. -/
theorem stopeAt_setStope {s : State} {k g : Nat} {e : Stope} (he : stopeAt s k g = some e) {f : Stope → Stope}
    (hf : ∀ x, (f x).num = x.num) : stopeAt (setStope s k g f) k g = some (f e) := by
  have hfind : ∀ xs : List Stope, (xs.map (fun x => if x.num = g then f x else x)).find? (fun x => x.num == g) =
      (xs.find? (fun x => x.num == g)).map f := by
    intro xs
    induction xs with
    | nil => rfl
    | cons x xs ih =>
      rw [List.map_cons]
      by_cases hx : x.num = g
      · have hfx : ((f x).num == g) = true := beq_iff_eq.2 ((hf x).trans hx)
        rw [if_pos hx, List.find?_cons, hfx, List.find?_cons, beq_iff_eq.2 hx]
        rfl
      · rw [if_neg hx, List.find?_cons_of_neg (by rw [beq_iff_eq]; exact hx), List.find?_cons_of_neg (by rw [beq_iff_eq]; exact hx), ih]
  unfold stopeAt stackAt at he
  unfold stopeAt stackAt setStope onStack
  split
  · next x hx =>
    have hlt := (Vector.getElem?_eq_some_iff.1 hx).1
    rw [hx] at he
    dsimp only
    rw [Vector.getElem?_setIfInBounds_self_of_lt hlt]
    dsimp only [Option.getD] at he ⊢
    rw [hfind, he]
    rfl
  · next hx =>
    rw [hx] at he
    cases he

theorem openGranule_frame (s : State) (k a : Nat) : OnlyStacks s (openGranule s k a) := onStack_frame ..

theorem setStope_frame (s : State) (k g : Nat) (f : Stope → Stope) : OnlyStacks s (setStope s k g f) :=
  onStack_frame ..

theorem wakeChannel_stopes (x : Stack) (c : Nat) : (wakeChannel x c).stopes = x.stopes := by
  unfold wakeChannel
  split <;> rfl

theorem stopeAt_openGranule (s : State) (k a g : Nat) : stopeAt (openGranule s k a) k g = stopeAt s k g :=
  stopeAt_onStack s k g (fun x => wakeChannel_stopes x _)

theorem closeGranule_frame (s : State) (k g a : Nat) : OnlyStacks s (closeGranule s k g a) := by
  unfold closeGranule
  dsimp only
  split
  · exact (setStope_frame ..).trans (onStack_frame ..)
  · exact ⟨s.hbm, rfl⟩

/-- A granule step that is over leaves its engine what it has read and what it holds. -/
theorem stopeAt_closeGranule {s : State} {k g : Nat} {e : Stope} (he : stopeAt s k g = some e) (a : Nat) :
    ∃ f, stopeAt (closeGranule s k g a) k g = some f ∧ f.reads = e.reads ∧ f.accs = e.accs := by
  unfold closeGranule
  dsimp only
  split
  · have hset := stopeAt_setStope he (f := fun e => { e with chan := channelOf a, suspended := some s.clock }) (fun _ => rfl)
    refine ⟨_, Eq.trans ?_ hset, rfl, rfl⟩
    exact stopeAt_onStack _ k g (fun _ => rfl)
  · exact ⟨e, he, rfl, rfl⟩

/-! ### An iteration computed, or departed from (R116, R242) -/

/-- The state in which an iteration of a loop is computed. -/
def replayStart (s : State) (l : Loop) : State :=
  { s with hart := replayHart s.hart l, packets := [], dirty := s.dirty.filter (fun y => y.core != s.hart.core) }

theorem replayIteration_departs {s : State} {l : Loop} {cause : Nat} {z : State}
    (h : replayOps (replayStart s l) ⟨[], []⟩ (l.ops.getD 0 []) = .inr (cause, z)) :
    replayIteration s none s.hart l = { s with
      pits := z.pits, hart := { s.hart with loop := some { l with phase := .over (loopWord 2 l.next cause) } } } := by
  unfold replayStart at h
  unfold replayIteration
  dsimp only
  rw [h]
  exact onCore_self { s with pits := z.pits } _

/-- The loop with an iteration computed. -/
def replayedLoop (l : Loop) (w : State) : Loop :=
  { l with next := l.next + 1, regs := w.hart.regs, vec := w.hart.vec, flags := l.flags ||| bits w.hart.csr.fcsr 0 5 }

theorem sget_withoutBytes (now : Sparse 8) (bs : List (Nat × Byte)) (m : Sparse 8) (a : Nat) :
    sget (withoutBytes m now bs) a = if a ∈ bs.map (·.1) then sget now a else sget m a := by
  unfold withoutBytes
  induction bs generalizing m with
  | nil => rfl
  | cons b bs ih =>
    rw [List.foldl_cons, ih, List.map_cons, sget_sset]
    by_cases ha : a ∈ bs.map (·.1)
    · rw [if_pos ha, if_pos (List.mem_cons_of_mem _ ha)]
    · rw [if_neg ha]
      by_cases hb : a = b.1
      · rw [if_pos hb, if_pos (hb ▸ List.mem_cons_self), hb]
      · rw [if_neg hb, if_neg (fun hc => (List.mem_cons.1 hc).elim hb ha)]

/-- What computing an iteration leaves (R116): the loop one iteration on, its stores held by its engine, memory as it was there. -/
theorem replayIteration_computes {s : State} {l : Loop} {e : Stope} (he : stopeAt s (l.stack.getD 0) l.stope = some e) {w : State}
    {st : Stored} (h : replayOps (replayStart s l) ⟨[], []⟩ (l.ops.getD 0 []) = .inl (w, st)) :
    let t := replayIteration s none s.hart l
    t.hart = { s.hart with loop := some (replayedLoop l w) } ∧ t.mem = withoutBytes w.mem s.mem st.bytes ∧
      ∃ f, stopeAt t (l.stack.getD 0) l.stope = some f ∧ f.accs = st.bytes := by
  let t1 : State := { w with
    hart := s.hart, others := s.others, mem := withoutBytes w.mem s.mem st.bytes, packets := s.packets, dirty := s.dirty }
  let f := fun x : Stope => { x with reads := [], accs := st.bytes, entries := st.entries }
  let t2 := setStope t1 (l.stack.getD 0) l.stope f
  have ht2 : OnlyStacks t1 t2 := setStope_frame ..
  have hrun : replayIteration s none s.hart l = onCore t2 s.hart.core (fun h => { h with loop := some (replayedLoop l w) }) := by
    unfold replayStart at h
    unfold replayIteration
    dsimp only
    rw [h]
    rfl
  have hhart : t2.hart = s.hart := ht2.hart
  have hstope : stopeAt t1 (l.stack.getD 0) l.stope = some e := (stopeAt_congr (replayOps_hbm rfl h) _ _).trans he
  dsimp only
  rw [hrun, ← hhart, onCore_self]
  exact ⟨rfl, ht2.mem, _, stopeAt_setStope hstope (f := f) (fun _ => rfl), rfl⟩

/-! ### The steps of a replay (R349) -/

theorem loopPlace_acting {s : State} {l : Loop} (hl : s.hart.loop = some l) {f : LoopPhase → Bool} (hf : f l.phase = true) :
    loopPlace s s.hart.core f = some (none, s.hart, l) := by
  simp [loopPlace, hl, hf]

/-- The granules that a replayed iteration still reads. -/
def replayTodo (l : Loop) (e : Stope) : List Nat := (replayReads l e).filter (fun q => !e.reads.contains q)

/-- The acting hart's replay with granule `q` read by a step (R349). -/
def granuleRead (s : State) (l : Loop) (q : Nat) : State :=
  setStope (openGranule s (l.stack.getD 0) (1024 * q)) (l.stack.getD 0) l.stope (fun e => { e with reads := e.reads ++ [q] })

theorem granuleRead_frame (s : State) (l : Loop) (q : Nat) : OnlyStacks s (granuleRead s l q) :=
  (openGranule_frame ..).trans (setStope_frame ..)

theorem stopeAt_granuleRead {s : State} {l : Loop} {e : Stope} (he : stopeAt s (l.stack.getD 0) l.stope = some e) (q : Nat) :
    stopeAt (granuleRead s l q) (l.stack.getD 0) l.stope = some { e with reads := e.reads ++ [q] } :=
  stopeAt_setStope ((stopeAt_openGranule ..).trans he) (fun _ => rfl)

/-- The next step of the acting hart's replay, with some granules to read (R349). -/
def replayStep (s : State) (l : Loop) (todo : List Nat) : State :=
  match todo with
  | [] => replayIteration s none s.hart l
  | q :: rest =>
    if !stepReady s (l.stack.getD 0) (1024 * q) then s
    else
      closeGranule (if rest.isEmpty then replayIteration (granuleRead s l q) none s.hart l else granuleRead s l q) (l.stack.getD 0)
        l.stope (1024 * q)

theorem replayStep_waits {s : State} {l : Loop} {q : Nat} {rest : List Nat} (h : stepReady s (l.stack.getD 0) (1024 * q) = false) :
    replayStep s l (q :: rest) = s := by
  rw [replayStep, h]
  rfl

theorem replayStep_reads {s : State} {l : Loop} {q x : Nat} {rest : List Nat} (h : stepReady s (l.stack.getD 0) (1024 * q) = true) :
    replayStep s l (q :: x :: rest) = closeGranule (granuleRead s l q) (l.stack.getD 0) l.stope (1024 * q) := by
  rw [replayStep, h]
  rfl

theorem replayStep_last {s : State} {l : Loop} {q : Nat} (h : stepReady s (l.stack.getD 0) (1024 * q) = true) :
    replayStep s l [q] =
      closeGranule (replayIteration (granuleRead s l q) none s.hart l) (l.stack.getD 0) l.stope (1024 * q) := by
  rw [replayStep, h]
  rfl

section Replay

variable {s : State} {l : Loop} {e : Stope} (hcore : s.hart.core < 128) (hl : s.hart.loop = some l) (hp : l.phase = .replaying)
  (he : stopeAt s (l.stack.getD 0) l.stope = some e)
include hcore hl hp he

/-- A replay waits for the stores of its last iteration (R349). -/
theorem execReplayIteration_holds (haccs : e.accs ≠ []) : exec (.replayIteration (me s)) s = .next s := by
  show execReplayIteration (me s) s = _
  unfold execReplayIteration
  rw [me_eq hcore, loopPlace_acting hl (by rw [hp]; rfl)]
  dsimp only
  rw [he]
  dsimp only
  rw [if_pos]
  rw [List.isEmpty_eq_false_iff.2 haccs]
  simp

theorem execReplayIteration_steps (hnext : l.next < l.n) (hsusp : e.suspended = none) (hsince : e.since < s.clock) (haccs : e.accs = []) :
    exec (.replayIteration (me s)) s = .next (replayStep s l (replayTodo l e)) := by
  have hgo : ¬(decide (l.n ≤ l.next) || e.suspended.isSome || decide (s.clock ≤ e.since) || !e.accs.isEmpty) = true := by
    rw [hsusp, haccs]
    simp [hnext, hsince]
  show execReplayIteration (me s) s = _
  unfold execReplayIteration
  rw [me_eq hcore, loopPlace_acting hl (by rw [hp]; rfl)]
  dsimp only
  rw [he]
  dsimp only
  rw [if_neg hgo]
  rfl

end Replay

end Sys2Proof.Machine

namespace Sys2Proof.Claims

open Sys2Proof.Machine

/-- What a step that computes an iteration leaves, or one that departs before it (R116, R242, R349): `v` is the state in which its
granules are read. -/
structure Replayed (s : State) (l : Loop) (v t : State) : Prop where
  loop : ∃ u, t.hart.loop = some u ∧ t.hart.regs = s.hart.regs ∧ t.hart.pc = s.hart.pc ∧
    (∀ cause z, replayOps (replayStart v l) ⟨[], []⟩ (l.ops.getD 0 []) = .inr (cause, z) →
      u = { l with phase := .over (loopWord 2 l.next cause) } ∧ t.mem = s.mem) ∧
    (∀ w st, replayOps (replayStart v l) ⟨[], []⟩ (l.ops.getD 0 []) = .inl (w, st) → u.next = l.next + 1 ∧ u.regs = w.hart.regs ∧
      u.vec = w.hart.vec ∧ ∃ f, stopeAt t (l.stack.getD 0) l.stope = some f ∧ f.accs = st.bytes ∧
        ∀ c ∈ st.bytes, sget t.mem c.1 = sget s.mem c.1)

theorem replayIteration_replayed {s v : State} {l : Loop} (hv : OnlyStacks s v) {e : Stope}
    (he : stopeAt v (l.stack.getD 0) l.stope = some e) : Replayed s l v (replayIteration v none s.hart l) := by
  have hhart : v.hart = s.hart := hv.hart
  have hmem : v.mem = s.mem := hv.mem
  rw [← hhart]
  cases hrun : replayOps (replayStart v l) ⟨[], []⟩ (l.ops.getD 0 []) with
  | inr r =>
    obtain ⟨cause, z⟩ := r
    rw [replayIteration_departs hrun]
    refine ⟨_, rfl, by rw [← hhart], by rw [← hhart], fun c z' h => ?_, fun w st h => ?_⟩
    · rw [hrun] at h
      cases h
      exact ⟨rfl, hmem⟩
    · rw [hrun] at h
      cases h
  | inl r =>
    obtain ⟨w, st⟩ := r
    obtain ⟨hthart, htmem, f, hf, haccs⟩ := replayIteration_computes he hrun
    refine ⟨_, by rw [hthart], by rw [hthart, ← hhart], by rw [hthart, ← hhart], fun c z h => ?_, fun w' st' h => ?_⟩
    · rw [hrun] at h
      cases h
    · rw [hrun] at h
      cases h
      refine ⟨rfl, rfl, rfl, f, hf, haccs, fun c hc => ?_⟩
      rw [htmem, sget_withoutBytes, if_pos (List.mem_map_of_mem hc), hmem]

/-- The step that reads the last granule is over with what it has computed. -/
theorem Replayed.closed {s v t : State} {l : Loop} (h : Replayed s l v t) (a : Nat) :
    Replayed s l v (closeGranule t (l.stack.getD 0) l.stope a) := by
  have hframe := closeGranule_frame t (l.stack.getD 0) l.stope a
  obtain ⟨u, hloop, hregs, hpc, hdeparts, hcomputes⟩ := h
  refine ⟨u, by rw [hframe.hart]; exact hloop, by rw [hframe.hart]; exact hregs, by rw [hframe.hart]; exact hpc,
    fun c z hrun => ?_, fun w st hrun => ?_⟩
  · rw [hframe.mem]
    exact hdeparts c z hrun
  · obtain ⟨hnext, huregs, hvec, f, hf, haccs, hsame⟩ := hcomputes w st hrun
    obtain ⟨g, hg, -, hgaccs⟩ := stopeAt_closeGranule hf a
    rw [hframe.mem]
    exact ⟨hnext, huregs, hvec, g, hg, hgaccs.trans haccs, hsame⟩

theorem replayIteration_replays {s : State} {l : Loop} (hl : s.hart.loop = some l) (hcore : s.hart.core < 128)
    (hp : l.phase = .replaying) (hnext : l.next < l.n) (e : Stope) (he : stopeAt s (l.stack.getD 0) l.stope = some e)
    (hsusp : e.suspended = none) (hsince : e.since < s.clock) :
    let k := l.stack.getD 0
    let todo := (replayReads l e).filter (fun q => !e.reads.contains q)
    let opened := fun q => setStope (openGranule s k (1024 * q)) k l.stope (fun e => { e with reads := e.reads ++ [q] })
    (e.accs ≠ [] → exec (.replayIteration (me s)) s = .next s) ∧
    (∀ q rest, e.accs = [] → todo = q :: rest → stepReady s k (1024 * q) = false →
      exec (.replayIteration (me s)) s = .next s) ∧
    (∀ q x rest, e.accs = [] → todo = q :: x :: rest → stepReady s k (1024 * q) = true →
      ∃ t f, exec (.replayIteration (me s)) s = .next t ∧ t.hart = s.hart ∧ t.mem = s.mem ∧
        stopeAt t k l.stope = some f ∧ f.reads = e.reads ++ [q] ∧ f.accs = []) ∧
    (∀ v : State, e.accs = [] →
      ((todo = [] ∧ v = s) ∨ ∃ q, todo = [q] ∧ stepReady s k (1024 * q) = true ∧ v = opened q) →
      let b := replayOps { v with hart := replayHart s.hart l, packets := []
                                  dirty := s.dirty.filter (fun y => y.core != s.hart.core) } ⟨[], []⟩ (l.ops.getD 0 [])
      ∃ t u, exec (.replayIteration (me s)) s = .next t ∧ t.hart.loop = some u ∧ t.hart.regs = s.hart.regs ∧
        t.hart.pc = s.hart.pc ∧
        (∀ cause z, b = .inr (cause, z) → u = { l with phase := .over (loopWord 2 l.next cause) } ∧ t.mem = s.mem) ∧
        (∀ w st, b = .inl (w, st) → u.next = l.next + 1 ∧ u.regs = w.hart.regs ∧ u.vec = w.hart.vec ∧
          ∃ f, stopeAt t k l.stope = some f ∧ f.accs = st.bytes ∧ ∀ c ∈ st.bytes, sget t.mem c.1 = sget s.mem c.1)) := by
  intro k todo opened
  have hsteps := execReplayIteration_steps hcore hl hp he hnext hsusp hsince
  refine ⟨execReplayIteration_holds hcore hl hp he, fun q rest haccs htodo hready => ?_, fun q x rest haccs htodo hready => ?_,
    fun v haccs hv => ?_⟩
  · rw [hsteps haccs, show replayTodo l e = q :: rest from htodo, replayStep_waits hready]
  · rw [hsteps haccs, show replayTodo l e = q :: x :: rest from htodo, replayStep_reads hready]
    have hframe := (granuleRead_frame s l q).trans (closeGranule_frame (granuleRead s l q) k l.stope (1024 * q))
    obtain ⟨f, hf, hreads, hfaccs⟩ := stopeAt_closeGranule (stopeAt_granuleRead he q) (1024 * q)
    exact ⟨_, f, rfl, hframe.hart, hframe.mem, hf, hreads, hfaccs.trans haccs⟩
  · have hreplayed : OnlyStacks s v ∧ ∃ t, exec (.replayIteration (me s)) s = .next t ∧ Replayed s l v t := by
      obtain ⟨htodo, rfl⟩ | ⟨q, htodo, hready, rfl⟩ := hv
      · refine ⟨⟨v.hbm, rfl⟩, _, hsteps haccs, ?_⟩
        rw [show replayTodo l e = [] from htodo]
        exact replayIteration_replayed ⟨v.hbm, rfl⟩ he
      · refine ⟨granuleRead_frame s l q, _, hsteps haccs, ?_⟩
        rw [show replayTodo l e = [q] from htodo, replayStep_last hready]
        exact (replayIteration_replayed (granuleRead_frame s l q) (stopeAt_granuleRead he q)).closed _
    obtain ⟨hframe, t, hexec, u, hloop, hregs, hpc, hdeparts, hcomputes⟩ := hreplayed
    have hstart : replayStart v l = { v with hart := replayHart s.hart l, packets := []
                                             dirty := s.dirty.filter (fun y => y.core != s.hart.core) } := by
      rw [replayStart, hframe.hart, hframe.dirty]
    rw [hstart] at hdeparts hcomputes
    exact ⟨t, u, hexec, hloop, hregs, hpc, hdeparts, hcomputes⟩

end Sys2Proof.Claims

/-! The end of a marked loop's replay (R243, R348), and its obligation. -/

namespace Sys2Proof.Machine

open Sys2Proof.Claims

/-- A loop that is finished with a status, which its join takes (R243). -/
def finishedLoop (l : Loop) (w : Word) : Loop := { l with phase := .finished w, cur := [], ops := [] }

/-- The hart whose loop is finished, a departure counted. -/
def finishedHart (h : Hart) (l : Loop) (w : Word) : Hart :=
  if bits w 56 4 = 2 then countHart { h with loop := some (finishedLoop l w) } 0x15 8 1 else { h with loop := some (finishedLoop l w) }

/-- What of a hart the end of its loop's replay leaves. -/
structure FinishedLoop (h : Hart) (l : Loop) (w : Word) (g : Hart) : Prop where
  loop : g.loop = some (finishedLoop l w)
  regs : ∀ r, regOf g r = if r = l.rd ∧ r ≠ 0 then w else regOf h r
  pending : pendingNow h g l.rd false

theorem finishedHart_kept (h : Hart) (l : Loop) (w : Word) :
    (finishedHart h l w).loop = some (finishedLoop l w) ∧ (finishedHart h l w).regs = h.regs ∧
      (finishedHart h l w).pending = h.pending := by
  unfold finishedHart
  split
  · have hframe := countHart_frame { h with loop := some (finishedLoop l w) } 0x15 8 1
    have hloop := congrArg Hart.loop hframe
    have hregs := congrArg Hart.regs hframe
    have hpending := congrArg Hart.pending hframe
    exact ⟨hloop, hregs, hpending⟩
  · exact ⟨rfl, rfl, rfl⟩

theorem finishedHart_finishes (h : Hart) (l : Loop) (w : Word) :
    FinishedLoop h l w (if l.rd = 0 then finishedHart h l w else latchHart (writePending (finishedHart h l w) l.rd w)) := by
  obtain ⟨hloop, hregs, hpending⟩ := finishedHart_kept h l w
  generalize finishedHart h l w = g at hloop hregs hpending
  have hkept : ∀ r, regOf g r = regOf h r := fun r => by rw [regOf, hregs]; rfl
  split
  · next hd =>
    refine ⟨hloop, fun r => ?_, fun r => ?_⟩
    · rw [if_neg (fun hc => hc.2 (hc.1.trans hd))]
      exact hkept r
    · rw [hpending, if_neg (fun hc => hc.2 hd)]
  · have hframe := congrArg Hart.loop (writePending_frame g l.rd w)
    have hwritten := pendingNow_writePending g l.rd w
    refine ⟨hframe.trans hloop, fun r => ?_, fun r => ?_⟩
    · refine (regOf_writePending g l.rd w r).trans ?_
      rw [hkept]
      exact if_congr ⟨fun hc => ⟨hc.1, hc.1 ▸ hc.2⟩, fun hc => ⟨hc.1, hc.1 ▸ hc.2⟩⟩ rfl rfl
    · rw [← hpending]
      exact hwritten r

/-- The status of a replay that is over, or through with its iterations (R243). -/
def replayStatus (l : Loop) (w : Word) : Prop := l.phase = .over w ∨ (l.phase = .replaying ∧ l.n ≤ l.next ∧ w = loopWord 0 l.n 0)

theorem execLoopStatusWrite_finishes {s : State} {l : Loop} (hl : s.hart.loop = some l) (hcore : s.hart.core < 128)
    (hfree : ∀ e, stopeAt s (l.stack.getD 0) l.stope = some e → e.accs = []) {w : Word} (hw : replayStatus l w) :
    exec (.loopStatusWrite (me s)) s = .next { releaseStope s (l.stack.getD 0) l.stope with
      hart := if l.rd = 0 then finishedHart s.hart l w else latchHart (writePending (finishedHart s.hart l w) l.rd w) } := by
  have hreleased : (releaseStope s (l.stack.getD 0) l.stope).hart = s.hart := (onStack_frame ..).hart
  have hcoreOf : (releaseStope s (l.stack.getD 0) l.stope).hart.core = s.hart.core := congrArg Hart.core hreleased
  show execLoopStatusWrite (me s) s = _
  unfold execLoopStatusWrite
  dsimp only
  rw [me_eq hcore, loopPlace_acting hl (by obtain hp | ⟨hp, -, -⟩ := hw <;> rw [hp])]
  dsimp only
  generalize releaseStope s (l.stack.getD 0) l.stope = u at hreleased hcoreOf ⊢
  have hend : (if l.rd = 0 then onPlace u none s.hart.core (fun h => if l.rd = 0 then finishedHart h l w
      else latchHart (writePending (finishedHart h l w) l.rd w))
      else wakePlace (onPlace u none s.hart.core (fun h => if l.rd = 0 then finishedHart h l w
        else latchHart (writePending (finishedHart h l w) l.rd w))) none) =
      { u with hart := if l.rd = 0 then finishedHart s.hart l w else latchHart (writePending (finishedHart s.hart l w) l.rd w) } := by
    rw [show wakePlace (onPlace u none s.hart.core _) none = onPlace u none s.hart.core _ from rfl, ite_self, onPlace, ← hcoreOf, onCore_self,
      hreleased]
  rw [← hend]
  cases hst : stopeAt s (l.stack.getD 0) l.stope with
  | none =>
    obtain hp | ⟨hp, hn, rfl⟩ := hw
    · rw [hp]
      rfl
    · rw [hp]
      dsimp only
      rw [if_pos hn]
      rfl
  | some e =>
    dsimp only
    rw [if_neg (show ¬(!e.accs.isEmpty) = true by rw [hfree e hst]; decide)]
    obtain hp | ⟨hp, hn, rfl⟩ := hw
    · rw [hp]
      rfl
    · rw [hp]
      dsimp only
      rw [if_pos hn]
      rfl

end Sys2Proof.Machine

namespace Sys2Proof.Claims

open Sys2Proof.Machine

theorem loopStatusWrite_finishes {s : State} {l : Loop} (hl : s.hart.loop = some l) (hcore : s.hart.core < 128)
    (hfree : ∀ e, stopeAt s (l.stack.getD 0) l.stope = some e → e.accs = []) (w : Word)
    (hw : l.phase = .over w ∨ (l.phase = .replaying ∧ l.n ≤ l.next ∧ w = loopWord 0 l.n 0)) :
    ∃ t u, exec (.loopStatusWrite (me s)) s = .next t ∧ t.hart.loop = some u ∧ u.phase = .finished w ∧
      (∀ r, getReg t r = if r = l.rd ∧ r ≠ 0 then w else getReg s r) ∧ pendingNow s.hart t.hart l.rd false := by
  have hfinish := finishedHart_finishes s.hart l w
  exact ⟨_, _, execLoopStatusWrite_finishes hl hcore hfree hw, hfinish.loop, rfl, hfinish.regs, hfinish.pending⟩

/-- Settles O46: each word of a loop and each of its events by the phase in which it meets the loop; a replay's stores are held by its
engine, which no word of the body can free (`replayOps_hbm`). -/
theorem markedLoops : Obligations.MarkedLoops := by
  intro s
  refine ⟨fun hl => ⟨lmark_marks hl, lnext_branches hl, ljoin_traps⟩, fun l hl => ?_⟩
  exact ⟨fun hp hiter o ho => lnext_closes hl hp hiter ho, ljoin_declined hl, fun hp hd => ljoin_recording hl hp hd,
    fun w hp => ljoin_finished hl hp, fun hcore hp hstarted hheld hvf hloads => loopVerdict_judges hl hcore hp hstarted hheld hvf hloads,
    fun hcore hp hnext => replayIteration_replays hl hcore hp hnext, fun hcore hfree => loopStatusWrite_finishes hl hcore hfree⟩

end Sys2Proof.Claims

/-! The steps of an engine of the acting hart (R230 to R235): what leaves the engines and the registers of a hart as they are; a batch
that the host answered, and a stream that ends. -/

namespace Sys2Proof.Machine

open Sys2Proof.Claims

/-! ### What an engine's own step keeps of its hart -/

/-- Two harts of one core with the same engines and scalar registers. -/
structure SameEngines (g h : Hart) : Prop where
  core : g.core = h.core
  engines : g.engines = h.engines
  regs : g.regs = h.regs

theorem SameEngines.refl (h : Hart) : SameEngines h h := ⟨rfl, rfl, rfl⟩

theorem SameEngines.trans {f g h : Hart} (h1 : SameEngines f g) (h2 : SameEngines g h) : SameEngines f h :=
  ⟨h1.core.trans h2.core, h1.engines.trans h2.engines, h1.regs.trans h2.regs⟩

theorem SameEngines.of_withoutMemories {g h : Hart} (e : withoutMemories g = withoutMemories h) : SameEngines g h := by
  have hengines := congrArg Hart.engines e
  have hregs := congrArg Hart.regs e
  exact ⟨core_withoutMemories g h e, hengines, hregs⟩

/-- A change of the owner of an engine of the acting hart is one of that hart. -/
theorem onOwner_acting {u : State} {h : Hart} (x : Engine) (f : Hart → Hart) (hc : u.hart.core = h.core) :
    onOwner u ⟨none, h, x⟩ f = { u with hart := f u.hart } := by
  simp only [onOwner, onPlace, onCore, if_pos hc]

theorem ownerNow_acting {u : State} {h : Hart} (x : Engine) (hc : u.hart.core = h.core) : ownerNow u ⟨none, h, x⟩ = u.hart := by
  simp only [ownerNow, hartAt, if_pos hc]

/-- An engine goes on in a state whose acting hart has kept its engines and registers. -/
theorem engineNow_of_sameEngines {s u : State} {x : Engine} (h : acts s x) (hu : SameEngines u.hart s.hart) (f : Engine → Engine) :
    engineNow s (setEngine u ⟨none, s.hart, x⟩ f) x (f x) := by
  rw [setEngine_acting u s.hart x f hu.core]
  refine ⟨?_, hu.regs⟩
  show u.hart.engines.map _ = _
  rw [hu.engines]
  refine List.map_congr_left (fun z hz => ?_)
  by_cases hid : z.id = x.id
  · rw [eq_of_acts h hz hid]
  · rw [if_neg hid, if_neg hid]

/-- An engine ends in such a state (R109, R169, R230). -/
theorem engineEnded_of_sameEngines {s u : State} {x : Engine} (hu : SameEngines u.hart s.hart) (st index detail : Nat) :
    engineEnded s (endEngine u ⟨none, s.hart, x⟩ st index detail) x (statusWord x.kind.code st index detail) := by
  have howner : endEngine u ⟨none, s.hart, x⟩ st index detail = endEngine u ⟨none, u.hart, x⟩ st index detail := by
    simp only [endEngine, onOwner, onPlace, hu.core]
  obtain ⟨hengines, hregs, hlatch⟩ := engineEnded_endEngine (s := u) (u := u) (x := x) rfl st index detail
  rw [howner]
  refine ⟨by rw [hengines, hu.engines], fun r => ?_, hlatch⟩
  have hreg : getReg u r = getReg s r := by simp only [getReg, hu.regs]
  rw [hregs, hreg]

/-- The record of an engine's fault is in memory. -/
@[simp] theorem engineRecord_hart (u : State) (o : Owned) (cause : Nat) (va : Word) (st : Bool) :
    (engineRecord u o cause va st).hart = u.hart := by
  unfold engineRecord
  rw [writeFaultRecord_hart]
  split
  · exact logError_hart ..
  · rfl

theorem engineEnded_endFault {s u : State} {x : Engine} (hu : SameEngines u.hart s.hart) (cause index : Nat) (va : Word) (st : Bool) :
    engineEnded s (endFault u ⟨none, s.hart, x⟩ cause index va st) x (statusWord x.kind.code 3 index cause) :=
  engineEnded_of_sameEngines (by rw [engineRecord_hart]; exact hu) ..

/-- An engine that ends leaves the packets in flight. -/
theorem endEngine_packets (u : State) (h : Hart) (x : Engine) (st index detail : Nat) :
    (endEngine u ⟨none, h, x⟩ st index detail).packets = u.packets := by
  simp only [endEngine, onOwner, onPlace, onCore]
  split <;> rfl

/-- An engine of the acting hart that ends changes of that hart what its status does (R109, R230). -/
theorem endEngine_hart {u : State} {h : Hart} (x : Engine) (st index detail : Nat) (hc : u.hart.core = h.core) :
    (endEngine u ⟨none, h, x⟩ st index detail).hart =
      deliverStatus u.hart x.id x.rd (statusWord x.kind.code st index detail) := by
  simp only [endEngine, onOwner, onPlace, onCore, if_pos hc]

/-- A port with no stream left starts none (R233). -/
theorem nextStream_empty {s : State} {o : Owned} {p fuel : Nat} (h : portStreams (ownerNow s o) p = []) : nextStream s o p fuel = s := by
  cases fuel with
  | zero => rfl
  | succ fuel => rw [nextStream, h]

end Sys2Proof.Machine

namespace Sys2Proof.Claims

open Sys2Proof.Machine

section

variable {s : State} {x : Engine}

/-- ENGINE_BATCH_RESUME of an engine that waits (R231). -/
theorem exec_engineBatchResume (hacts : acts s x) {n : Nat} {va : Word} {st : Bool} (hbatch : x.batch = some (n, va, st)) :
    exec (.engineBatchResume (me s) x.id) s = .next (
      if batchDone s (partOf s.hart) n = 1 then setEngine s ⟨none, s.hart, x⟩ (fun y => { y with batch := none })
      else if batchDone s (partOf s.hart) n = 2 then setEngine s ⟨none, s.hart, x⟩ (fun y =>
        { y with batch := none, fault := some (0x08, x.kind.faultIndex, va, st) })
      else s) := by
  refine (withEngine_acts hacts _).trans ?_
  simp only [hbatch]

theorem batch_resumes (hacts : acts s x) {n : Nat} {va : Word} {st : Bool} (hbatch : x.batch = some (n, va, st))
    (hdone : batchDone s (partOf s.hart) n = 1) :
    ∃ t, exec (.engineBatchResume (me s) x.id) s = .next t ∧ engineNow s t x { x with batch := none } := by
  have hexec := exec_engineBatchResume hacts hbatch
  rw [if_pos hdone] at hexec
  exact ⟨_, hexec, engineNow_setEngine hacts rfl _⟩

theorem batch_fails (hacts : acts s x) {n : Nat} {va : Word} {st : Bool} (hbatch : x.batch = some (n, va, st))
    (hdone : batchDone s (partOf s.hart) n = 2) :
    ∃ t y, exec (.engineBatchResume (me s) x.id) s = .next t ∧ engineNow s t x y ∧ y.batch = none ∧
      y.fault.map (fun f => (f.1, f.2.2)) = some (0x08, va, st) := by
  have hexec := exec_engineBatchResume hacts hbatch
  rw [if_neg (by rw [hdone]; decide), if_pos hdone] at hexec
  exact ⟨_, _, hexec, engineNow_setEngine hacts rfl _, rfl, rfl⟩

/-- The state in which a stream's elements are consumed, and of a store stream performed (R233). -/
def streamPerformed (s : State) (d : StreamDesc) : State :=
  if d.store then performPackets s (fun q => q.core == s.hart.core) else s

theorem streamPerformed_hart (s : State) (d : StreamDesc) :
    withoutMemories (streamPerformed s d).hart = withoutMemories s.hart := by
  unfold streamPerformed
  split
  · exact performPackets_hart ..
  · rfl

theorem streamPerformed_packets {d : StreamDesc} (hstore : d.store = true) :
    ∀ q ∈ (streamPerformed s d).packets, q.core ≠ s.hart.core := by
  rw [streamPerformed, if_pos hstore]
  exact performPackets_clears s s.hart.core

/-- A stream with no other behind it leaves its port empty. -/
theorem portStreams_ended {g : Hart} {p : Nat} (hport : portStreams s.hart p = [x])
    (hengines : g.engines = s.hart.engines.filter (fun y => y.id != x.id)) : portStreams g p = [] := by
  unfold portStreams at *
  rw [hengines, List.filter_comm, hport]
  simp

theorem stream_ends (hacts : acts s x) {p cur : Nat} {a : Word} {d : StreamDesc} (hkind : x.kind = .stream p a (some d) cur)
    (hcur : cur = d.total) (hport : portStreams s.hart p = [x]) :
    ∃ t, exec (.streamEnd (me s) x.id) s = .next t ∧ engineEnded s t x (statusWord 2 0 d.total 0) ∧
      (d.store = true → ∀ q ∈ t.packets, q.core ≠ s.hart.core) := by
  let t := endEngine (streamPerformed s d) ⟨none, s.hart, x⟩ 0 d.total 0
  have hsame : SameEngines (streamPerformed s d).hart s.hart := .of_withoutMemories (streamPerformed_hart s d)
  have hended : engineEnded s t x (statusWord 2 0 d.total 0) := by
    have := engineEnded_of_sameEngines (x := x) hsame 0 d.total 0
    rwa [hkind] at this
  have hcore : t.hart.core = s.hart.core := by
    rw [endEngine_hart x _ _ _ hsame.core, core_deliverStatus, hsame.core]
  have hlast : nextStream t ⟨none, s.hart, x⟩ p 3 = t :=
    nextStream_empty (by rw [ownerNow_acting x hcore]; exact portStreams_ended hport hended.1)
  have hme : (me s).val = s.hart.core := me_eq hacts.1
  refine ⟨t, ?_, hended, fun hstore => ?_⟩
  · refine ((withEngine_acts hacts _).trans ?_).trans (congrArg Host.Outcome.next hlast)
    simp only [hkind, hport, hcur]
    simp [hme, t, streamPerformed]
  · rw [endEngine_packets]
    exact streamPerformed_packets hstore

theorem batchAndStreamSteps : BatchAndStreamSteps := fun _ _ hacts =>
  ⟨fun _ _ _ hbatch => ⟨batch_resumes hacts hbatch, batch_fails hacts hbatch⟩,
    fun _ _ _ hkind hport => stream_ends hacts hkind rfl hport⟩

end

end Sys2Proof.Claims

/-! COPY within the scratchpad (R110, R112, R232): its words judged, its source read, its words written, its end. -/

namespace Sys2Proof.Machine

open Sys2Proof.Claims

/-! ### Words of the scratchpad -/

/-- A byte of a number that is read from a store. -/
theorem byte_sgetBytes (m : Sparse 8) {k len i : Nat} (hi : i < len) :
    BitVec.ofNat 8 (sgetBytes m k len / 256 ^ i) = sget m (k + i) := by
  induction len generalizing k i with
  | zero => omega
  | succ len ih =>
    apply BitVec.eq_of_toNat_eq
    have hlt := (sget m k).isLt
    cases i with
    | zero =>
      simp only [sgetBytes, BitVec.toNat_ofNat, Nat.pow_zero, Nat.div_one, Nat.add_zero]
      omega
    | succ i =>
      have hrest := congrArg BitVec.toNat (ih (k := k + 1) (i := i) (by omega))
      have hshift : ((sget m k).toNat + 256 * sgetBytes m (k + 1) len) / 256 = sgetBytes m (k + 1) len := by omega
      rw [sgetBytes, Nat.pow_succ', ← Nat.div_div_eq_div_mul, hshift, hrest, Nat.add_right_comm, Nat.add_assoc]

/-- A number read from one store and written into another is its bytes there. -/
theorem sget_ssetBytes_sgetBytes (m p : Sparse 8) (k len j a : Nat) :
    sget (ssetBytes m k len (sgetBytes p j len)) a = if k ≤ a ∧ a < k + len then sget p (j + (a - k)) else sget m a := by
  rw [sget_ssetBytes]
  by_cases ha : k ≤ a ∧ a < k + len
  · rw [if_pos ha, if_pos ha, byte_sgetBytes p (by omega)]
  · rw [if_neg ha, if_neg ha]

/-- The address of a word of a copy. -/
theorem toNat_add_word {a : Word} {k : Nat} (h : a.toNat + k < 2 ^ 64) : (a + word k).toNat = a.toNat + k := by
  rw [BitVec.toNat_add, toNat_word_of_lt (by omega), Nat.mod_eq_of_lt h]

theorem engineSpot_scratchpad {va : Word} {n : Nat} (h : inScratchpad va n) (s : State) (o : Owned) (a : Access) (host : Bool) :
    engineSpot s o va n a host = (.spad (va.toNat - 0x100000), s) := by
  obtain ⟨hlo, hhi⟩ := h
  have hlocal : va.toNat < globalBase := by
    have : globalBase = 0x400000 := rfl
    omega
  rw [engineSpot, if_pos hlocal, if_pos ⟨hlo, hhi⟩]

theorem spotBad_scratchpad {s : State} (hbad : s.bad = []) (core k n : Nat) : spotBad s core (.spad k) n = false := by
  simp [spotBad, badPlace, hbad]

/-! ### A chunk's words -/

/-- Word `i` from a destination and a source in the scratchpad. -/
def scratchWord (dst src : Word) (i : Nat) : CopyWord :=
  ⟨dst + word (8 * i), src + word (8 * i), .spad ((dst + word (8 * i)).toNat - 0x100000),
    .spad ((src + word (8 * i)).toNat - 0x100000)⟩

theorem copyJudge_scratchpad (s : State) (o : Owned) (dst src : Word) (n : Nat) :
    ∀ i acc, (∀ j, i ≤ j → j < i + n → inScratchpad (dst + word (8 * j)) 8 ∧ inScratchpad (src + word (8 * j)) 8) →
      copyJudge s o dst src i n acc = (acc.reverse ++ (List.range' i n).map (scratchWord dst src), s) := by
  induction n with
  | zero => exact fun i acc _ => by simp [copyJudge]
  | succ n ih =>
    intro i acc hin
    obtain ⟨hdst, hsrc⟩ := hin i (Nat.le_refl _) (by omega)
    rw [copyJudge]
    simp only [engineSpot_scratchpad hdst, engineSpot_scratchpad hsrc]
    rw [ih (i + 1) _ (fun j h1 h2 => hin j (by omega) (by omega)), List.range'_succ]
    simp [scratchWord]

theorem scratchWord_fault {s : State} (hbad : s.bad = []) (core : Nat) (full : Nat → Bool) (dst src : Word) (i : Nat) :
    CopyWord.fault s core full (scratchWord dst src i) = none := by
  simp only [CopyWord.fault, scratchWord, spotBad_scratchpad hbad, Bool.false_eq_true, if_false]

theorem scratchWord_frames (dst src : Word) (i : Nat) : (scratchWord dst src i).frames = [] := rfl

section Words

variable (s : State) (dst src : Word) (l : List Nat)

/-- No word of the scratchpad meets a fault (R232). -/
theorem faults_scratchWords (hbad : s.bad = []) (core : Nat) (full : Nat → Bool) :
    firstSome (CopyWord.fault s core full) (l.map (scratchWord dst src)) = none := by
  rw [firstSome, List.findSome?_eq_none_iff]
  intro w hw
  obtain ⟨i, -, rfl⟩ := List.mem_map.1 hw
  exact scratchWord_fault hbad ..

/-- No word of the scratchpad waits for a page (R232). -/
theorem frames_scratchWords : ((l.map (scratchWord dst src)).map CopyWord.frames).flatten = [] := by
  rw [List.flatten_eq_nil_iff]
  intro fs hfs
  obtain ⟨w, hw, rfl⟩ := List.mem_map.1 hfs
  obtain ⟨i, -, rfl⟩ := List.mem_map.1 hw
  exact scratchWord_frames ..

/-- No word of the scratchpad needs the host window (R375). -/
theorem windowShut_scratchWords : windowShut s (l.map (scratchWord dst src)) = false := by
  have hany : (l.map (scratchWord dst src)).any (fun w => match w.from_, w.to_ with
      | .host _, _ => true
      | _, .host _ => true
      | _, _ => false) = false := by
    rw [List.any_eq_false]
    intro w hw
    obtain ⟨i, -, rfl⟩ := List.mem_map.1 hw
    exact Bool.false_ne_true
  rw [windowShut]
  exact (congrArg (!s.cxlMem && ·) hany).trans (Bool.and_false _)

end Words

/-- With nothing read ahead no word of a copy is written already (R112). -/
theorem earlyWritten_none {s : State} (hearly : s.early = []) (e n : Nat) : earlyWritten s e n = false := by
  rw [earlyWritten, hearly]
  rfl

/-! ### The source read (R112, R335) -/

/-- What has been read ahead in `u` of a source in the scratchpad is what `s` holds there, and all else is as in `s`. -/
structure SourceRead (s : State) (src : Word) (u : State) : Prop where
  frame : u = { s with early := u.early }
  value : ∀ y ∈ u.early, y.value = sgetBytes s.hart.spad (src.toNat + 8 * y.n - 0x100000) 8

/-- From `u` to `v` more of the source is read, and nothing that was is forgotten. -/
structure ReadsOn (s : State) (e : Nat) (src : Word) (u v : State) : Prop where
  source : SourceRead s src u → SourceRead s src v
  known : ∀ i, (earlyOf u e i).isSome = true → (earlyOf v e i).isSome = true

theorem ReadsOn.refl (s : State) (e : Nat) (src : Word) (u : State) : ReadsOn s e src u u := ⟨id, fun _ => id⟩

theorem ReadsOn.trans {s : State} {e : Nat} {src : Word} {u v w : State} (h1 : ReadsOn s e src u v) (h2 : ReadsOn s e src v w) :
    ReadsOn s e src u w := ⟨h2.source ∘ h1.source, fun i => h2.known i ∘ h1.known i⟩

section

variable {s : State} {e : Nat} {src : Word} {α : Type} {f : State → α → State}

theorem ReadsOn.foldl {l : List α} (hstep : ∀ u, ∀ a ∈ l, SourceRead s src u → ReadsOn s e src u (f u a)) :
    ∀ u, SourceRead s src u → ReadsOn s e src u (l.foldl f u) := by
  induction l with
  | nil => exact fun u _ => .refl ..
  | cons a l ih =>
    intro u hu
    have hfirst := hstep u a List.mem_cons_self hu
    exact hfirst.trans (ih (fun v b hb => hstep v b (List.mem_cons_of_mem _ hb)) _ (hfirst.source hu))

/-- A word that one of the steps reads is known once all of them are done. -/
theorem known_foldl {l : List α} (hstep : ∀ u, ∀ a ∈ l, SourceRead s src u → ReadsOn s e src u (f u a)) {a : α} (ha : a ∈ l) {i : Nat}
    (hreads : ∀ u, SourceRead s src u → (earlyOf (f u a) e i).isSome = true) :
    ∀ u, SourceRead s src u → (earlyOf (l.foldl f u) e i).isSome = true := by
  induction l with
  | nil => exact absurd ha List.not_mem_nil
  | cons b l ih =>
    intro u hu
    have hrest := fun v c (hc : c ∈ l) => hstep v c (List.mem_cons_of_mem _ hc)
    have hfirst := hstep u b List.mem_cons_self hu
    rcases List.mem_cons.1 ha with rfl | ha
    · exact (ReadsOn.foldl hrest _ (hfirst.source hu)).known i (hreads u hu)
    · exact ih hrest ha _ (hfirst.source hu)

end

/-- What is recorded of a word is recorded of no other. -/
theorem earlyOf_addEarly (u : State) (e i v j : Nat) :
    (earlyOf (addEarly u e i v) e j).isSome = ((earlyOf u e j).isSome || decide (i = j)) := by
  by_cases hij : i = j
  · simp [earlyOf, addEarly, List.find?_append, hij]
  · simp [earlyOf, addEarly, List.find?_append, hij]

/-- One word of a source line read at its home, as `readLine` does (R335). -/
def readSource (o : Owned) (src : Word) (done : List Nat) (s : State) (i : Nat) : State :=
  if (earlyOf s o.eng.id i).isSome || done.contains (i / 128) then s
  else
    let r := engineSpot s o (src + word (8 * i)) 8 .read true
    match r.1 with
    | .spad _ | .phys .. | .host _ =>
      if spotBad r.2 o.hart.core r.1 8 then s else addEarly r.2 o.eng.id i (spotRead r.2 (ownerNow r.2 o) r.1 8)
    | _ => s

theorem readLine_eq (s : State) (o : Owned) (src : Word) (len k : Nat) (done : List Nat) :
    readLine s o src len k done = (lineWords src len k).foldl (readSource o src done) s := rfl

/-- Every word of a line lies in the copy. -/
theorem lt_of_mem_lineWords {src : Word} {len k i : Nat} (h : i ∈ lineWords src len k) : 8 * i < len := by
  rw [lineWords, List.mem_filterMap] at h
  obtain ⟨j, -, hj⟩ := h
  split at hj
  · next hin =>
    obtain ⟨-, hlt⟩ := hin
    cases hj
    exact hlt
  · exact absurd hj (Option.some_ne_none i).symm

/-- A word is one of its own line. -/
theorem mem_lineWords {src : Word} {len k : Nat} (h : 8 * k < len) : k ∈ lineWords src len k := by
  rw [lineWords, List.mem_filterMap]
  refine ⟨(src.toNat + 8 * k) % 64 / 8, List.mem_range.2 (by omega), ?_⟩
  rw [Nat.add_sub_cancel, if_pos ⟨Nat.le_add_left .., h⟩]

section Reads

variable {s : State} {x : Engine} {src : Word} {len : Nat} {done : List Nat}

/-- Word `i` of a source in the scratchpad lies there (R232). -/
theorem inScratchpad_word {a : Word} {i : Nat} (ha : inScratchpad a len) (hlen : len % 8 = 0) (hi : 8 * i < len) :
    (a + word (8 * i)).toNat = a.toNat + 8 * i ∧ inScratchpad (a + word (8 * i)) 8 := by
  obtain ⟨hlo, hhi⟩ := ha
  have hword := toNat_add_word (a := a) (k := 8 * i) (by omega)
  exact ⟨hword, by rw [hword]; omega, by rw [hword]; omega⟩

variable (hbad : s.bad = []) (hlen : len % 8 = 0) (hsrc : inScratchpad src len)
include hbad hlen hsrc

theorem readSource_scratchpad {u : State} (hu : SourceRead s src u) {i : Nat} (hi : 8 * i < len) :
    readSource ⟨none, s.hart, x⟩ src done u i = if (earlyOf u x.id i).isSome || done.contains (i / 128) then u
      else addEarly u x.id i (sgetBytes s.hart.spad (src.toNat + 8 * i - 0x100000) 8) := by
  obtain ⟨hword, hin⟩ := inScratchpad_word hsrc hlen hi
  have hhart : u.hart = s.hart := by rw [hu.frame]
  have hgood : u.bad = [] := by rw [hu.frame]; exact hbad
  simp only [readSource, engineSpot_scratchpad hin, spotBad_scratchpad hgood, spotRead,
    ownerNow_acting x (congrArg Hart.core hhart), hhart, hword, Bool.false_eq_true, if_false]

theorem readSource_readsOn {u : State} (hu : SourceRead s src u) {i : Nat} (hi : 8 * i < len) :
    ReadsOn s x.id src u (readSource ⟨none, s.hart, x⟩ src done u i) := by
  rw [readSource_scratchpad hbad hlen hsrc hu hi]
  split
  · exact .refl ..
  · refine ⟨fun _ => ⟨?_, fun y hy => ?_⟩, fun j hj => by rw [earlyOf_addEarly, hj, Bool.true_or]⟩
    · exact congrArg (fun v : State => addEarly v x.id i _) hu.frame
    · rcases List.mem_append.1 hy with hy | hy
      · exact hu.value y hy
      · rw [List.mem_singleton.1 hy]

theorem readLine_readsOn {u : State} (hu : SourceRead s src u) (k : Nat) :
    ReadsOn s x.id src u (readLine u ⟨none, s.hart, x⟩ src len k done) :=
  ReadsOn.foldl (fun _ _ hi hv => readSource_readsOn hbad hlen hsrc hv (lt_of_mem_lineWords hi)) u hu

/-- The line of a word whose chunk has not finished is read with that word (R335). -/
theorem readLine_knows {u : State} (hu : SourceRead s src u) {k : Nat} (hk : 8 * k < len) (hdone : k / 128 ∉ done) :
    (earlyOf (readLine u ⟨none, s.hart, x⟩ src len k done) x.id k).isSome = true := by
  refine known_foldl (fun _ _ hi hv => readSource_readsOn hbad hlen hsrc hv (lt_of_mem_lineWords hi)) (mem_lineWords hk)
    (fun v hv => ?_) u hu
  rw [readSource_scratchpad hbad hlen hsrc hv hk]
  split
  · next hknown =>
    simpa [hdone] using hknown
  · rw [earlyOf_addEarly, decide_eq_true rfl, Bool.or_true]

end Reads

/-- A word that is known is what the source holds there. -/
theorem earlyOf_sourceRead {s : State} {src : Word} {u : State} (hu : SourceRead s src u) {e k : Nat}
    (h : (earlyOf u e k).isSome = true) : earlyOf u e k = some (sgetBytes s.hart.spad (src.toNat + 8 * k - 0x100000) 8) := by
  obtain ⟨v, hv⟩ := Option.isSome_iff_exists.1 h
  rw [hv]
  obtain ⟨y, hy, rfl⟩ := Option.map_eq_some_iff.1 hv
  have hmatch := List.find?_some hy
  simp only [Bool.and_eq_true, beq_iff_eq] at hmatch
  rw [hu.value y (List.mem_of_find?_eq_some hy), hmatch.2]

/-! ### The words written (R58, R232) -/

/-- A hart without its scratchpad. -/
def withoutSpad (h : Hart) : Hart := { h with spad := [] }

/-- Words in increasing order up to byte `hi` from `lo` are copied from byte `from_`: the rest of the hart is as in `s`. -/
structure WordsCopied (s : State) (lo from_ size : Nat) (u : State) : Prop where
  hart : withoutSpad u.hart = withoutSpad s.hart
  stands : u.stands = s.stands
  spad : ∀ a, sget u.hart.spad a = if lo ≤ a ∧ a < lo + size then sget s.hart.spad (from_ + (a - lo)) else sget s.hart.spad a

/-- An aligned word touches one slot at most (R56, R58). -/
theorem touchesBusySlot_word (s : State) (h : Hart) {o : Nat} (ho : o % 8 = 0) :
    touchesBusySlot s h o 8 = (decide (slotOffset h 0 ≤ o / 16 * 16 ∧ o / 16 * 16 < slotOffset h 0 + 16384) &&
      slotBusy s h ((o / 16 * 16 - slotOffset h 0) / 16)) := by
  have hrange : List.range (8 / 16 + 2) = [0, 1] := rfl
  have hfirst : o / 16 * 16 < o + 8 := by omega
  have hsecond : ¬o / 16 * 16 + 16 * 1 < o + 8 := by omega
  simp only [touchesBusySlot, hrange, List.any_cons, List.any_nil, hfirst, hsecond, false_and, true_and, decide_false, Bool.false_and,
    Bool.or_false, Nat.mul_zero, Nat.add_zero]

/-! Copying words changes nothing of the hart but its scratchpad. -/

theorem WordsCopied.core {s u : State} {lo from_ size : Nat} (hu : WordsCopied s lo from_ size u) : u.hart.core = s.hart.core := by
  have hcore := congrArg Hart.core hu.hart
  exact hcore

theorem WordsCopied.sameEngines {s u : State} {lo from_ size : Nat} (hu : WordsCopied s lo from_ size u) :
    SameEngines u.hart s.hart := by
  have hengines := congrArg Hart.engines hu.hart
  have hregs := congrArg Hart.regs hu.hart
  exact ⟨hu.core, hengines, hregs⟩

theorem WordsCopied.queue {s u : State} {lo from_ size : Nat} (hu : WordsCopied s lo from_ size u) : u.hart.queue = s.hart.queue := by
  have hqueue := congrArg Hart.queue hu.hart
  exact hqueue

theorem WordsCopied.slots {s u : State} {lo from_ size : Nat} (hu : WordsCopied s lo from_ size u) (n : Nat) :
    slotOffset u.hart n = slotOffset s.hart n := by
  have hslots := congrArg (fun h => slotOffset h n) hu.hart
  exact hslots

/-- Whether a slot is busy depends on its STATE byte and on the STANDs under way (R57, R397). -/
theorem slotBusy_congr {s u : State} {g h : Hart} (n : Nat) (hcore : g.core = h.core) (hstands : u.stands = s.stands)
    (hstate : slotState g n = slotState h n) : slotBusy u g n = slotBusy s h n := by
  simp only [slotBusy, standOutstanding, hcore, hstands, hstate]

/-- Words below an aligned place do not change whether it touches a busy slot: the STATE byte of a slot comes after its start
(R56, R57, R58). -/
theorem touchesBusySlot_copied {s u : State} {lo from_ size : Nat} (hu : WordsCopied s lo from_ size u)
    (hslots : s.hart.csr.slbase.toNat % 16 = 0) (hlo : (lo + size) % 8 = 0) :
    touchesBusySlot u u.hart (lo + size) 8 = touchesBusySlot s s.hart (lo + size) 8 := by
  have haligned : slotOffset s.hart 0 % 16 = 0 := by unfold slotOffset; omega
  rw [touchesBusySlot_word _ _ hlo, touchesBusySlot_word _ _ hlo, hu.slots]
  by_cases hin : slotOffset s.hart 0 ≤ (lo + size) / 16 * 16
  · have hstate : slotState u.hart (((lo + size) / 16 * 16 - slotOffset s.hart 0) / 16) =
        slotState s.hart (((lo + size) / 16 * 16 - slotOffset s.hart 0) / 16) := by
      simp only [slotState]
      rw [hu.slots, slotOffset_eq, hu.spad, if_neg (by omega)]
    rw [slotBusy_congr _ hu.core hu.stands hstate]
  · rw [decide_eq_false (fun h => hin h.1), Bool.false_and, Bool.false_and]

/-- Word `p` of the scratchpad written by a copy, with what it held (R112). -/
def scratchWritten (u : State) (h : Hart) (x : Engine) (c p v : Nat) : State :=
  { u with
    olds := u.olds ++ [⟨x.id, c, h.core, .spad p, sgetBytes u.hart.spad p 8, 0⟩]
    hart := { u.hart with spad := ssetBytes u.hart.spad p 8 v } }

/-- A word of the scratchpad written, where it touches no busy slot (R58). -/
theorem copyWrite_scratchpad {u : State} {h : Hart} (x : Engine) (hc : u.hart.core = h.core) (c : Nat) (full : Nat → Bool)
    {w : CopyWord} {p k : Nat} (hto : w.to_ = .spad p) (hfrom : w.from_ = .spad k) (hfree : touchesBusySlot u u.hart p 8 = false)
    (v : Nat) : copyWrite u ⟨none, h, x⟩ c full w v = (scratchWritten u h x c p v, true) := by
  simp only [copyWrite, hto, hfrom, spotMark, ownerNow_acting x hc, hfree, Bool.false_eq_true, if_false, onOwner, onPlace, onCore,
    if_pos hc]
  rfl

/-- One more word copied (R58, R232). -/
theorem copyWrite_copies {s u : State} {x : Engine} {lo from_ size : Nat} (hu : WordsCopied s lo from_ size u)
    (hslots : s.hart.csr.slbase.toNat % 16 = 0) (hlo : (lo + size) % 8 = 0)
    (hfree : touchesBusySlot s s.hart (lo + size) 8 = false) (c : Nat) (full : Nat → Bool) {w : CopyWord} {k : Nat}
    (hto : w.to_ = .spad (lo + size)) (hfrom : w.from_ = .spad k) :
    ∃ v, copyWrite u ⟨none, s.hart, x⟩ c full w (sgetBytes s.hart.spad (from_ + size) 8) = (v, true) ∧
      WordsCopied s lo from_ (size + 8) v := by
  have hquiet : touchesBusySlot u u.hart (lo + size) 8 = false := (touchesBusySlot_copied hu hslots hlo).trans hfree
  refine ⟨_, copyWrite_scratchpad x hu.core c full hto hfrom hquiet _, hu.hart, hu.stands, fun a => ?_⟩
  refine (sget_ssetBytes_sgetBytes u.hart.spad s.hart.spad (lo + size) 8 (from_ + size) a).trans ?_
  rw [hu.spad]
  by_cases ha : lo + size ≤ a ∧ a < lo + size + 8
  · rw [if_pos ha, if_pos (by omega), show from_ + size + (a - (lo + size)) = from_ + (a - lo) by omega]
  · rw [if_neg ha]
    by_cases hbelow : lo ≤ a ∧ a < lo + size
    · rw [if_pos hbelow, if_pos (by omega)]
    · rw [if_neg hbelow, if_neg (by omega)]

end Sys2Proof.Machine

/-! COPY within the scratchpad (R110, R112, R232), continued: a whole chunk, and the end of a copy. -/

namespace Sys2Proof.Machine

open Sys2Proof.Claims

/-! ### The words of a chunk -/

theorem copyWrites_snoc (u : State) (o : Owned) (c : Nat) (full : Nat → Bool) (ws : List (CopyWord × Nat)) (y : CopyWord × Nat) :
    copyWrites u o c full (ws ++ [y]) =
      ((copyWrite (copyWrites u o c full ws).1 o c full y.1 y.2).1,
        (copyWrites u o c full ws).2 && (copyWrite (copyWrites u o c full ws).1 o c full y.1 y.2).2) := by
  simp only [copyWrites, List.foldl_append, List.foldl_cons, List.foldl_nil]

/-- The words of a chunk in the scratchpad are all written where none touches a busy slot (R58, R232). -/
theorem copyWrites_copies {s u : State} {x : Engine} {lo from_ : Nat} (hu : WordsCopied s lo from_ 0 u)
    (hslots : s.hart.csr.slbase.toNat % 16 = 0) (hlo : lo % 8 = 0) (c : Nat) (full : Nat → Bool) {w : Nat → CopyWord} {n : Nat}
    (hto : ∀ i, i < n → (w i).to_ = .spad (lo + 8 * i)) (hfrom : ∀ i, i < n → ∃ k, (w i).from_ = .spad k)
    (hfree : ∀ i, i < n → touchesBusySlot s s.hart (lo + 8 * i) 8 = false) :
    ∃ v, copyWrites u ⟨none, s.hart, x⟩ c full ((List.range n).map (fun i => (w i, sgetBytes s.hart.spad (from_ + 8 * i) 8))) =
        (v, true) ∧ WordsCopied s lo from_ (8 * n) v := by
  induction n with
  | zero => exact ⟨u, rfl, hu⟩
  | succ n ih =>
    obtain ⟨v, hv, hcopied⟩ := ih (fun i hi => hto i (by omega)) (fun i hi => hfrom i (by omega)) (fun i hi => hfree i (by omega))
    obtain ⟨k, hk⟩ := hfrom n (by omega)
    obtain ⟨t, ht, hnext⟩ := copyWrite_copies (x := x) hcopied hslots (by omega) (hfree n (by omega)) c full (hto n (by omega)) hk
    refine ⟨t, ?_, hnext⟩
    rw [List.range_succ, List.map_append, List.map_cons, List.map_nil, copyWrites_snoc]
    simp only [hv, ht, Bool.and_self]

/-- The source lines of a chunk's words read, as `copyChunk` does (R335). -/
def sourceRead (s : State) (o : Owned) (dst src : Word) (len : Nat) (done : List Nat) (ws : List CopyWord) : State :=
  ws.foldl (fun s w => if (earlyOf s o.eng.id (w.num dst)).isSome then s else readLine s o src len (w.num dst) done) s

/-- A chunk added to those that a copy has finished (R232). -/
def chunkAdded (c : Nat) (e : Engine) : Engine :=
  match e.kind with
  | .copy a b l m cs ls => { e with kind := .copy a b l m (cs ++ [c]) ls }
  | _ => e

/-- A chunk recorded whose words are all written (R110, R112). -/
def chunkRecorded (u : State) (o : Owned) (c : Nat) : State :=
  let s1 := setEngine u o (chunkAdded c)
  { s1 with early := s1.early.filter (fun y => !(y.engine == o.eng.id && y.n / 128 == c)) }

/-- A chunk of an engine of the acting hart whose words are all written (R110). -/
theorem copyChunk_written {s v : State} {h : Hart} {x : Engine} {dst src : Word} {len mask c : Nat} {done : List Nat} {ws : List CopyWord}
    (hwrites : copyWrites { sourceRead s ⟨none, h, x⟩ dst src len done ws with
        fresh := (sourceRead s ⟨none, h, x⟩ dst src len done ws).fresh + 1 } ⟨none, h, x⟩ c (lineCovered ws)
      (ws.map (fun w => (w, copyValue (sourceRead s ⟨none, h, x⟩ dst src len done ws) ⟨none, h, x⟩ src len w
        ((earlyOf (sourceRead s ⟨none, h, x⟩ dst src len done ws) x.id (w.num dst)).getD 0)))) = (v, true)) :
    copyChunk s ⟨none, h, x⟩ dst src len mask c done ws = if mask != 0 then
        onOwner (chunkRecorded v ⟨none, h, x⟩ c) ⟨none, h, x⟩ (fun g => setChunkBit g x.id mask c)
      else chunkRecorded v ⟨none, h, x⟩ c := by
  unfold copyChunk
  unfold sourceRead at hwrites
  dsimp only at hwrites ⊢
  rw [hwrites]
  rfl

end Sys2Proof.Machine

namespace Sys2Proof.Claims

open Sys2Proof.Machine

section Chunk

variable {s : State} {x : Engine} {dst src : Word} {len mask c : Nat} {chunks lost : List Nat}

/-- The clear of a chunk mask that the vector queue does not hold has taken effect (R110). -/
theorem clearDue_false (hcleared : ∀ q ∈ s.hart.queue, q.work.item ≠ .clear x.id) : clearDue s.hart x.id = false := by
  rw [clearDue, List.any_eq_false]
  intro q hq h
  exact hcleared q hq (beq_iff_eq.1 h)

/-- The chunks of a copy (R232). -/
theorem chunks_eq (len : Nat) : ceilDiv len 1024 = (len + 1023) / 1024 := by
  rw [ceilDiv, Nat.add_sub_assoc (by decide)]

/-- COPY_DONE with every chunk finished (R109, R232). -/
theorem copy_ends (hacts : acts s x) (hkind : x.kind = .copy dst src len mask chunks lost)
    (hcleared : ∀ q ∈ s.hart.queue, q.work.item ≠ .clear x.id) (hfault : x.fault = none) (hlost : lost = [])
    (hall : chunks.length = (len + 1023) / 1024) :
    ∃ t, exec (.copyDone (me s) x.id) s = .next t ∧ engineEnded s t x (statusWord 1 0 ((len + 1023) / 1024) 0) := by
  have hexec : exec (.copyDone (me s) x.id) s = .next (endEngine s ⟨none, s.hart, x⟩ 0 ((len + 1023) / 1024) 0) := by
    refine (withEngine_acts hacts _).trans ?_
    simp only [hkind, ownerNow_acting x rfl, clearDue_false hcleared, hfault, hlost, chunks_eq, hall, Bool.false_eq_true, if_false,
      List.length_nil, Nat.add_zero, Nat.lt_irrefl, List.isEmpty_nil, if_true]
  have hended := engineEnded_endEngine (s := s) (u := s) (x := x) rfl 0 ((len + 1023) / 1024) 0
  rw [hkind] at hended
  exact ⟨_, hexec, hended⟩

/-- COPY_DONE waits for the clear of its mask (R110). -/
theorem copy_waits (hacts : acts s x) (hkind : x.kind = .copy dst src len mask chunks lost)
    (hdue : ¬∀ q ∈ s.hart.queue, q.work.item ≠ .clear x.id) : exec (.copyDone (me s) x.id) s = .next s := by
  have hclear : clearDue s.hart x.id = true := by
    rw [clearDue, List.any_eq_true]
    push Not at hdue
    obtain ⟨q, hq, hitem⟩ := hdue
    exact ⟨q, hq, beq_iff_eq.2 hitem⟩
  refine (withEngine_acts hacts _).trans ?_
  simp only [hkind, ownerNow_acting x rfl, hclear, if_true]

/-- The lowest chunk that is missing (R232). -/
theorem lowestChunk_eq {n k : Nat} (hk : k < n) (hmissing : k ∉ chunks) (hbelow : ∀ j, j < k → j ∈ chunks) :
    lowestChunk n chunks = k := by
  rw [lowestChunk, firstBelow_first n k _ hk (fun j hj => by simp [hbelow j hj]) (by simp [hmissing])]
  rfl

/-- COPY_DONE of a copy that has met a fault (R109, R232). -/
theorem copy_fails (hacts : acts s x) (hkind : x.kind = .copy dst src len mask chunks lost) {cause i k : Nat} {va : Word} {st : Bool}
    (hcleared : ∀ q ∈ s.hart.queue, q.work.item ≠ .clear x.id) (hfault : x.fault = some (cause, i, va, st))
    (hk : k < (len + 1023) / 1024) (hmissing : k ∉ chunks) (hbelow : ∀ j, j < k → j ∈ chunks) :
    ∃ t, exec (.copyDone (me s) x.id) s = .next t ∧ engineEnded s t x (statusWord 1 3 k cause) := by
  have hexec : exec (.copyDone (me s) x.id) s = .next (endFault s ⟨none, s.hart, x⟩ cause k va st) := by
    refine (withEngine_acts hacts _).trans ?_
    simp only [hkind, ownerNow_acting x rfl, clearDue_false hcleared, hfault, chunks_eq, lowestChunk_eq hk hmissing hbelow,
      Bool.false_eq_true, if_false]
  have hended := engineEnded_endFault (s := s) (u := s) (x := x) (.refl _) cause k va st
  rw [hkind] at hended
  exact ⟨_, hexec, hended⟩

end Chunk

/-! ### A chunk within the scratchpad (R110, R232) -/

/-- The place in the scratchpad of chunk `c` of a range that starts at `a`. -/
def chunkPlace (a : Word) (c : Nat) : Nat := a.toNat - 0x100000 + 1024 * c

/-- The bytes of chunk `c` of a copy of `len`. -/
def chunkSize (len c : Nat) : Nat := Nat.min 1024 (len - 1024 * c)

/-- Word `i` of chunk `c` of a copy within the scratchpad. -/
def chunkWord (dst src : Word) (c i : Nat) : CopyWord := scratchWord (dst + word (1024 * c)) (src + word (1024 * c)) i

section ChunkWords

variable {dst src : Word} {len c i : Nat}

/-- A word of a chunk lies within its copy. -/
theorem word_lt_of_chunk (hlen : len % 8 = 0) (hi : i < chunkSize len c / 8) : 8 * (128 * c + i) + 8 ≤ len := by
  have hsize : chunkSize len c ≤ len - 1024 * c := Nat.min_le_right ..
  omega

theorem chunk_of_word (hi : i < chunkSize len c / 8) : (128 * c + i) / 128 = c := by
  have hsize : chunkSize len c ≤ 1024 := Nat.min_le_left ..
  omega

theorem toNat_chunkWord {a : Word} (ha : inScratchpad a len) (hlen : len % 8 = 0) (hi : i < chunkSize len c / 8) :
    (a + word (1024 * c) + word (8 * i)).toNat = a.toNat + 8 * (128 * c + i) := by
  have hlt := word_lt_of_chunk hlen hi
  obtain ⟨hlo, hhi⟩ := ha
  have hchunk : (a + word (1024 * c)).toNat = a.toNat + 1024 * c := toNat_add_word (by omega)
  rw [toNat_add_word (by omega), hchunk]
  omega

theorem inScratchpad_chunkWord {a : Word} (ha : inScratchpad a len) (hlen : len % 8 = 0) (hi : i < chunkSize len c / 8) :
    inScratchpad (a + word (1024 * c) + word (8 * i)) 8 := by
  have hlt := word_lt_of_chunk hlen hi
  obtain ⟨hlo, hhi⟩ := ha
  rw [inScratchpad, toNat_chunkWord ⟨hlo, hhi⟩ hlen hi]
  omega

theorem spot_chunkWord {a : Word} (ha : inScratchpad a len) (hlen : len % 8 = 0) (hi : i < chunkSize len c / 8) :
    (a + word (1024 * c) + word (8 * i)).toNat - 0x100000 = chunkPlace a c + 8 * i := by
  obtain ⟨hlo, hhi⟩ := ha
  rw [chunkPlace, toNat_chunkWord ⟨hlo, hhi⟩ hlen hi]
  omega

theorem num_chunkWord (hdst : inScratchpad dst len) (hlen : len % 8 = 0) (hi : i < chunkSize len c / 8) :
    (chunkWord dst src c i).num dst = 128 * c + i := by
  have hword := toNat_chunkWord hdst hlen hi
  show (dst + word (1024 * c) + word (8 * i) - dst).toNat / 8 = _
  rw [BitVec.toNat_sub_of_le (BitVec.le_def.2 (by omega)), hword]
  omega

end ChunkWords

section Chunk

variable {s : State} {x : Engine} {dst src : Word} {len mask c : Nat} {done : List Nat}
variable (hbad : s.bad = []) (hlen : len % 8 = 0) (hdst : inScratchpad dst len) (hsrc : inScratchpad src len)

/-- The words of a chunk, in order. -/
def chunkWords (dst src : Word) (len c : Nat) : List CopyWord := (List.range (chunkSize len c / 8)).map (chunkWord dst src c)

include hlen hdst hsrc in
theorem copyJudge_chunk (u : State) (o : Owned) :
    copyJudge u o (dst + word (1024 * c)) (src + word (1024 * c)) 0 (chunkSize len c / 8) [] = (chunkWords dst src len c, u) := by
  rw [copyJudge_scratchpad u o _ _ _ _ _ (fun j _ hj =>
    ⟨inScratchpad_chunkWord hdst hlen (by omega), inScratchpad_chunkWord hsrc hlen (by omega)⟩), ← List.range_eq_range']
  rfl

section Read

variable (hearly : s.early = []) (hdone : c ∉ done)
include hbad hlen hdst hsrc hearly hdone

/-- The source of a chunk is read (R335): it is as it was, and every word of it is known. -/
theorem sourceRead_chunk :
    let u := sourceRead s ⟨none, s.hart, x⟩ dst src len done (chunkWords dst src len c)
    SourceRead s src u ∧ ∀ i, i < chunkSize len c / 8 → (earlyOf u x.id (128 * c + i)).isSome = true := by
  have hstart : SourceRead s src s := ⟨rfl, fun y hy => absurd (hearly ▸ hy) List.not_mem_nil⟩
  have hstep : ∀ u, ∀ w ∈ chunkWords dst src len c, SourceRead s src u → ReadsOn s x.id src u
      (if (earlyOf u x.id (w.num dst)).isSome then u else readLine u ⟨none, s.hart, x⟩ src len (w.num dst) done) := by
    intro u w _ hu
    split
    · exact .refl ..
    · exact readLine_readsOn hbad hlen hsrc hu _
  refine ⟨(ReadsOn.foldl hstep s hstart).source hstart, fun i hi => ?_⟩
  refine known_foldl hstep (List.mem_map_of_mem (List.mem_range.2 hi)) (fun u hu => ?_) s hstart
  rw [num_chunkWord hdst hlen hi]
  split
  · assumption
  · have hlt := word_lt_of_chunk hlen hi
    exact readLine_knows hbad hlen hsrc hu (by omega) (by rwa [chunk_of_word hi])

/-- Each word of a chunk with the value of its source (R232). -/
theorem values_chunk :
    let u := sourceRead s ⟨none, s.hart, x⟩ dst src len done (chunkWords dst src len c)
    (chunkWords dst src len c).map (fun w => (w, copyValue u ⟨none, s.hart, x⟩ src len w ((earlyOf u x.id (w.num dst)).getD 0))) =
      (List.range (chunkSize len c / 8)).map (fun i =>
        (chunkWord dst src c i, sgetBytes s.hart.spad (chunkPlace src c + 8 * i) 8)) := by
  intro u
  obtain ⟨hread, hknown⟩ := sourceRead_chunk (x := x) hbad hlen hdst hsrc hearly hdone
  rw [chunkWords, List.map_map]
  refine List.map_congr_left (fun i hi => ?_)
  have hi := List.mem_range.1 hi
  have hplace : src.toNat + 8 * (128 * c + i) - 0x100000 = chunkPlace src c + 8 * i := by
    rw [← toNat_chunkWord hsrc hlen hi, spot_chunkWord hsrc hlen hi]
  have hvalue := earlyOf_sourceRead hread (hknown i hi)
  rw [hplace] at hvalue
  show (chunkWord dst src c i, (earlyOf u x.id ((chunkWord dst src c i).num dst)).getD 0) = _
  rw [num_chunkWord hdst hlen hi, hvalue]
  rfl

/-- A chunk within the scratchpad is copied, and recorded with its bit (R110, R232). -/
theorem copyChunk_chunk (hslots : s.hart.csr.slbase.toNat % 16 = 0) (hdst8 : dst.toNat % 8 = 0)
    (hfree : ∀ i, i < chunkSize len c / 8 → touchesBusySlot s s.hart (chunkPlace dst c + 8 * i) 8 = false) :
    ∃ v, WordsCopied s (chunkPlace dst c) (chunkPlace src c) (8 * (chunkSize len c / 8)) v ∧
      copyChunk s ⟨none, s.hart, x⟩ dst src len mask c done (chunkWords dst src len c) = if mask != 0 then
          onOwner (chunkRecorded v ⟨none, s.hart, x⟩ c) ⟨none, s.hart, x⟩ (fun g => setChunkBit g x.id mask c)
        else chunkRecorded v ⟨none, s.hart, x⟩ c := by
  obtain ⟨hread, -⟩ := sourceRead_chunk (x := x) hbad hlen hdst hsrc hearly hdone
  have hvalues := values_chunk (x := x) hbad hlen hdst hsrc hearly hdone
  dsimp only at hvalues
  generalize hu : sourceRead s ⟨none, s.hart, x⟩ dst src len done (chunkWords dst src len c) = u at hread hvalues
  have hstart : WordsCopied s (chunkPlace dst c) (chunkPlace src c) 0 { u with fresh := u.fresh + 1 } := by
    have hhart : u.hart = s.hart := by rw [hread.frame]
    have hstands : u.stands = s.stands := by rw [hread.frame]
    refine ⟨congrArg withoutSpad hhart, hstands, fun a => ?_⟩
    rw [if_neg (by omega)]
    exact congrArg (fun h : Hart => sget h.spad a) hhart
  have haligned : chunkPlace dst c % 8 = 0 := by unfold chunkPlace; omega
  obtain ⟨v, hwrites, hcopied⟩ := copyWrites_copies (x := x) hstart hslots haligned c (lineCovered (chunkWords dst src len c))
    (w := chunkWord dst src c) (fun i hi => congrArg Spot.spad (spot_chunkWord hdst hlen hi)) (fun i _ => ⟨_, rfl⟩) hfree
  refine ⟨v, hcopied, copyChunk_written ?_⟩
  rw [hu, hvalues]
  exact hwrites

end Read

end Chunk

/-! ### What a chunk leaves (R110) -/

/-- A chunk bit changes nothing of the engines, the registers and the scratchpad. -/
theorem setChunkBit_engines (h : Hart) (e m c : Nat) : (setChunkBit h e m c).engines = h.engines := by
  unfold setChunkBit
  split <;> rfl

theorem setChunkBit_regs (h : Hart) (e m c : Nat) : (setChunkBit h e m c).regs = h.regs := by
  unfold setChunkBit
  split <;> rfl

theorem setChunkBit_spad (h : Hart) (e m c : Nat) : (setChunkBit h e m c).spad = h.spad := by
  unfold setChunkBit
  split <;> rfl

/-- The bit of a chunk is set, with the event latch, once the clear of its mask has taken effect (R110, R169). -/
theorem setChunkBit_sets {h : Hart} {e c : Nat} (m : MReg) (hdue : clearDue h e = false) :
    ((setChunkBit h e m.val c).vec.masks[m]).testBit c = true ∧ (setChunkBit h e m.val c).csr.status.getLsbD 6 = true := by
  rw [setChunkBit, if_neg (by rw [hdue]; decide)]
  refine ⟨?_, latchHart_latched _⟩
  have hbit : (latchHart (setMask h m.val (putBit ((h.vec.masks[m.val]?).getD 0) c true))).vec.masks[m] =
      putBit ((h.vec.masks[m.val]?).getD 0) c true := by
    simp [latchHart, setMask]
  rw [hbit, testBit_putBit, if_pos rfl]

/-- Chunk `c` of a copy within the scratchpad is its next, and nothing keeps it from taking place (R53, R58, R230, R232). -/
structure ChunkReady (s : State) (x : Engine) (dst src : Word) (len mask : Nat) (chunks lost : List Nat) (c : Nat) : Prop where
  acting : acts s x
  good : s.bad = []
  unread : s.early = []
  kind : x.kind = .copy dst src len mask chunks lost
  accepts : copyAccepts dst src len
  dstIn : inScratchpad dst len
  srcIn : inScratchpad src len
  batch : x.batch = none
  fault : x.fault = none
  next : c = (chunks ++ lost).length
  below : ∀ k ∈ chunks ++ lost, k < c
  left : c < (len + 1023) / 1024
  contexts : (localCopies s.hart).length ≤ 4
  slots : s.hart.csr.slbase.toNat % 16 = 0
  free : ∀ k, 8 * k < chunkSize len c → touchesBusySlot s s.hart (chunkPlace dst c + 8 * k) 8 = false

section ChunkDone

variable {s : State} {x : Engine} {dst src : Word} {len mask c : Nat} {chunks lost : List Nat}

/-- The state once a chunk is recorded, with its bit. -/
def chunkFinished (v : State) (h : Hart) (x : Engine) (mask c : Nat) : State :=
  if mask != 0 then onOwner (chunkRecorded v ⟨none, h, x⟩ c) ⟨none, h, x⟩ (fun g => setChunkBit g x.id mask c)
  else chunkRecorded v ⟨none, h, x⟩ c

theorem chunkFinished_hart {v : State} {h : Hart} (hc : v.hart.core = h.core) :
    (chunkFinished v h x mask c).hart = if mask != 0 then setChunkBit (setEngine v ⟨none, h, x⟩ (chunkAdded c)).hart x.id mask c
      else (setEngine v ⟨none, h, x⟩ (chunkAdded c)).hart := by
  have hcore : (chunkRecorded v ⟨none, h, x⟩ c).hart.core = h.core := by
    show (setEngine v ⟨none, h, x⟩ (chunkAdded c)).hart.core = h.core
    rw [setEngine_acting v h x _ hc]
    exact hc
  unfold chunkFinished
  split
  · rw [onOwner_acting x _ hcore]
    rfl
  · rfl

/-- COPY_CHUNK_DONE within the scratchpad (R53, R110, R232). -/
theorem chunk_copies (h : ChunkReady s x dst src len mask chunks lost c) :
    ∃ v, WordsCopied s (chunkPlace dst c) (chunkPlace src c) (chunkSize len c) v ∧
      exec (.copyChunkDone (me s) x.id c) s = .next (chunkFinished v s.hart x mask c) := by
  obtain ⟨hdst8, -, hlen, -⟩ := h.accepts
  have hnew : c ∉ chunks ++ lost := fun hmem => Nat.lt_irrefl c (h.below c hmem)
  have hwhole : 8 * (chunkSize len c / 8) = chunkSize len c := by
    have hsize : chunkSize len c = 1024 ∨ chunkSize len c = len - 1024 * c :=
      min_choice 1024 (len - 1024 * c)
    omega
  obtain ⟨v, hcopied, hchunk⟩ := copyChunk_chunk (x := x) (mask := mask) h.good hlen h.dstIn h.srcIn h.unread hnew h.slots hdst8
    (fun i hi => h.free i (by omega))
  rw [hwhole] at hcopied
  refine ⟨v, hcopied, ?_⟩
  have hgo : (decide (ceilDiv len 1024 ≤ c) || (chunks ++ lost).contains c || x.batch.isSome || x.fault.isSome ||
      !hasContext s.hart x || (decide (dst.toNat < globalBase) && (chunks ++ lost).length != c)) = false := by
    have hleft := h.left
    rw [chunks_eq, h.batch, h.fault, hasContext_of_four _ _ h.contexts, ← h.next]
    simp [hnew, hleft]
  have hjudge : copyJudge s ⟨none, s.hart, x⟩ (dst + word (1024 * c)) (src + word (1024 * c)) 0
      (Nat.min 1024 (len - 1024 * c) / 8) [] = (chunkWords dst src len c, s) := copyJudge_chunk hlen h.dstIn h.srcIn s _
  have hunread : (chunkWords dst src len c).filter (fun w => !earlyWritten s x.id (w.num dst)) = chunkWords dst src len c :=
    List.filter_eq_self.2 (fun w _ => by rw [earlyWritten_none h.unread]; rfl)
  have hshut : windowShut s (chunkWords dst src len c) = false := windowShut_scratchWords ..
  have hgood : ∀ core full, firstSome (CopyWord.fault s core full) (chunkWords dst src len c) = none :=
    fun core full => faults_scratchWords s _ _ _ h.good core full
  have hframes : ((chunkWords dst src len c).map CopyWord.frames).flatten = [] := frames_scratchWords ..
  refine (withEngine_acts h.acting _).trans (congrArg Host.Outcome.next ?_)
  refine Eq.trans ?_ hchunk
  simp only [h.kind]
  rw [hgo]
  simp only [hjudge, hunread, hshut, hgood, hframes, Bool.false_eq_true, if_false]

theorem chunk_finishes (h : ChunkReady s x dst src len mask chunks lost c) :
    ∃ t, exec (.copyChunkDone (me s) x.id c) s = .next t ∧
      engineNow s t x { x with kind := .copy dst src len mask (chunks ++ [c]) lost } ∧
      (∀ a, sget t.hart.spad a = if chunkPlace dst c ≤ a ∧ a < chunkPlace dst c + chunkSize len c then
        sget s.hart.spad (chunkPlace src c + (a - chunkPlace dst c)) else sget s.hart.spad a) ∧
      (∀ m : MReg, m.val = mask → m ≠ 0 → (∀ q ∈ s.hart.queue, q.work.item ≠ .clear x.id) →
        (t.hart.vec.masks[m]).testBit c = true ∧ t.hart.csr.status.getLsbD 6 = true) := by
  obtain ⟨v, hcopied, hexec⟩ := chunk_copies h
  have hu := setEngine_acting v s.hart x (chunkAdded c) hcopied.core
  have hnow := engineNow_of_sameEngines h.acting hcopied.sameEngines (chunkAdded c)
  have hadded : chunkAdded c x = { x with kind := .copy dst src len mask (chunks ++ [c]) lost } := by rw [chunkAdded, h.kind]
  rw [hadded] at hnow
  have hhart := chunkFinished_hart (x := x) (mask := mask) (c := c) hcopied.core
  generalize setEngine v ⟨none, s.hart, x⟩ (chunkAdded c) = u at hhart hnow hu
  obtain ⟨hengines, hregs⟩ := hnow
  have hspad : u.hart.spad = v.hart.spad := by rw [hu]
  have hqueue : u.hart.queue = s.hart.queue := (by rw [hu] : u.hart.queue = v.hart.queue).trans hcopied.queue
  refine ⟨_, hexec, ⟨?_, ?_⟩, fun a => ?_, fun m hm h0 hcleared => ?_⟩
  · rw [hhart, ← hengines]
    split
    · exact setChunkBit_engines ..
    · rfl
  · rw [hhart, ← hregs]
    split
    · exact setChunkBit_regs ..
    · rfl
  · rw [← hcopied.spad a, ← hspad, hhart]
    split
    · rw [setChunkBit_spad]
    · rfl
  · have hmask : (mask != 0) = true := bne_iff_ne.2 (fun hz => h0 (Fin.ext (hm.trans hz)))
    have hdue : clearDue u.hart x.id = false := by
      rw [clearDue, hqueue]
      exact clearDue_false hcleared
    rw [hhart, if_pos hmask, ← hm]
    exact setChunkBit_sets m hdue

theorem copySteps : CopySteps := by
  intro s x hacts hbad hearly dst src len mask chunks lost hkind
  refine ⟨fun haccepts hdst hsrc hbatch hfault hbelow hlt hfour hslots hfree =>
      chunk_finishes ⟨hacts, hbad, hearly, hkind, haccepts, hdst, hsrc, hbatch, hfault, rfl, hbelow, hlt, hfour, hslots, hfree⟩,
    fun hcleared hfault hlost hall => copy_ends hacts hkind hcleared hfault hlost hall,
    fun hdue => copy_waits hacts hkind hdue,
    fun cause i va st k hcleared hfault hk hmissing hbelow => copy_fails hacts hkind hcleared hfault hk hmissing hbelow⟩

end ChunkDone

end Sys2Proof.Claims

/-! BGLD and GXL (R234, R235, R352): their elements delivered, and their ends. -/

namespace Sys2Proof.Machine

open Sys2Proof.Claims

/-! ### Elements delivered -/

/-- A number read from a store is one of its width. -/
theorem sgetBytes_lt (m : Sparse 8) (k len : Nat) : sgetBytes m k len < 256 ^ len := by
  rw [sgetBytes_of_bytes m k len _ (fun i hi => (byte_sgetBytes m hi).symm)]
  exact Nat.mod_lt _ (by positivity)

/-- The state with the acting hart's vector state replaced. -/
def withVec (s : State) (v : Vec) : State := { s with hart := { s.hart with vec := v } }

/-- Elements delivered one after another are written in order. -/
theorem foldl_withVec {α : Type} {s : State} {r : Nat} {narrow : Bool} {f : State → α → State} (num : α → Nat) (x : Nat → Nat) {l : List α}
    (hstep : ∀ v, ∀ a ∈ l, f (withVec s v) a = withVec s (putElem s.hart.csr v r narrow (num a) (x (num a)))) (v : Vec) :
    l.foldl f (withVec s v) = withVec s (writeElems s.hart.csr v r narrow (l.map num) x) := by
  induction l generalizing v with
  | nil => rfl
  | cons a l ih =>
    rw [List.foldl_cons, hstep v a List.mem_cons_self]
    exact ih (fun v b hb => hstep v b (List.mem_cons_of_mem _ hb)) _

theorem narrow_tagBytes (t : Nat) : (tagBytes t == 2) = narrowTag t := by
  unfold tagBytes
  cases narrowTag t <;> rfl

/-- A number as wide as an element fits it. -/
theorem mod_elemBits {t v : Nat} (hv : v < 256 ^ tagBytes t) : v % 2 ^ elemBits (narrowTag t) = v := by
  refine Nat.mod_eq_of_lt ?_
  unfold tagBytes at hv
  unfold elemBits
  cases hnarrow : narrowTag t
  · rwa [hnarrow] at hv
  · rwa [hnarrow] at hv

/-! ### The end of a gather (R30) -/

/-- A tail under another VTYPE changes the vector state alone. -/
theorem underType_vecTail (h : Hart) (vt : Word) (r n : Nat) :
    underType h vt (fun g => vecTail g r (dtagOf g.csr) n) =
      { h with vec := (vecTail { h with csr := { h.csr with vtype := vt } } r (dtagOf { h.csr with vtype := vt }) n).vec } := by
  have hframe := vecTail_frame { h with csr := { h.csr with vtype := vt } } r (dtagOf { h.csr with vtype := vt }) n
  unfold underType
  dsimp only
  generalize vecTail { h with csr := { h.csr with vtype := vt } } r (dtagOf { h.csr with vtype := vt }) n = t at hframe ⊢
  rw [hframe]

theorem closeGather_frame (h : Hart) (rs : List Nat) (n : Nat) (vt : Word) :
    closeGather h rs n vt = { h with vec := (closeGather h rs n vt).vec } := by
  unfold closeGather
  dsimp only
  split
  · rfl
  · rw [underType_vecTail]
    rfl

/-- The elements of a gather stand below its tail. -/
theorem getElem_closeGather (h : Hart) (rs : List Nat) {n e : Nat} (vt : Word) (he : e < n) :
    getElem (closeGather h rs n vt) (rs.headD 0) (narrowTag (dtagOf { h.csr with vtype := vt })) e =
      getElem h (rs.headD 0) (narrowTag (dtagOf { h.csr with vtype := vt })) e := by
  let g : Hart := { h with csr := { h.csr with vtype := vt } }
  have hclose : (closeGather h rs n vt).vec.vrf = (vecTail g (rs.headD 0) (dtagOf g.csr) n).vec.vrf := by
    unfold closeGather
    dsimp only
    rw [if_neg (by omega)]
    rfl
  have hcfg : (closeGather h rs n vt).csr.vrcfg = (vecTail g (rs.headD 0) (dtagOf g.csr) n).csr.vrcfg := by
    rw [closeGather_frame, vecTail_frame g]
  refine (getElem_congr hclose hcfg _ _ _).trans ?_
  refine (getElem_vecTail g (rs.headD 0) (dtagOf g.csr) n e).trans ?_
  rw [if_neg (fun hin => absurd hin.1 (by omega))]
  exact getElem_congr rfl rfl _ _ _

/-- A status word delivered leaves the elements. -/
theorem getElem_deliverStatus (h : Hart) (id : Nat) (d : SReg) (w : Word) (r : Nat) (narrow : Bool) (e : Nat) :
    getElem (deliverStatus h id d w) r narrow e = getElem h r narrow e := by
  refine getElem_congr ?_ ?_ _ _ _
  · unfold deliverStatus writePending writeAfter latchHart
    dsimp only
    split <;> rfl
  · unfold deliverStatus writePending writeAfter latchHart
    dsimp only
    split <;> rfl

theorem closeGather_sameEngines (h : Hart) (rs : List Nat) (n : Nat) (vt : Word) : SameEngines (closeGather h rs n vt) h := by
  rw [closeGather_frame]
  exact ⟨rfl, rfl, rfl⟩

section End

variable {s u : State} {x : Engine} (hu : SameEngines u.hart s.hart) (rs : List Nat) (n : Nat) (vt : Word)
include hu

theorem closed_sameEngines : SameEngines (onOwner u ⟨none, s.hart, x⟩ (fun g => closeGather g rs n vt)).hart s.hart := by
  rw [onOwner_acting x _ hu.core]
  exact (closeGather_sameEngines ..).trans hu

/-- A gather none of whose elements is denied ends with their number (R234, R235). -/
theorem gatherEnd_done : engineEnded s (gatherEnd u ⟨none, s.hart, x⟩ rs n vt none) x (statusWord x.kind.code 0 n 0) :=
  engineEnded_of_sameEngines (closed_sameEngines hu rs n vt) ..

/-- One with a denied element ends with that and its cause (R234, R235). -/
theorem gatherEnd_denied (f : ElemFault) :
    engineEnded s (gatherEnd u ⟨none, s.hart, x⟩ rs n vt (some f)) x (statusWord x.kind.code 3 f.2.1 f.1) :=
  engineEnded_endFault (closed_sameEngines hu rs n vt) ..

/-- A gather's end leaves its elements. -/
theorem getElem_gatherEnd (low : Option ElemFault) {e : Nat} (he : e < n) :
    getElem (gatherEnd u ⟨none, s.hart, x⟩ rs n vt low).hart (rs.headD 0) (narrowTag (dtagOf { u.hart.csr with vtype := vt })) e =
      getElem u.hart (rs.headD 0) (narrowTag (dtagOf { u.hart.csr with vtype := vt })) e := by
  have hclose : (onOwner u ⟨none, s.hart, x⟩ (fun g => closeGather g rs n vt)).hart = closeGather u.hart rs n vt := by
    rw [onOwner_acting x _ hu.core]
  have hcore : (closeGather u.hart rs n vt).core = s.hart.core := (core_closeGather ..).trans hu.core
  refine Eq.trans ?_ (getElem_closeGather u.hart rs vt he)
  cases low with
  | none =>
    rw [gatherEnd, endEngine_hart x _ _ _ (by rw [hclose]; exact hcore), hclose, getElem_deliverStatus]
  | some f =>
    have hrecord := engineRecord_hart (onOwner u ⟨none, s.hart, x⟩ (fun g => closeGather g rs n vt)) ⟨none, s.hart, x⟩ f.1 f.2.2.1 f.2.2.2
    rw [gatherEnd, endFault, endEngine_hart x _ _ _ (by rw [hrecord, hclose]; exact hcore), hrecord, hclose, getElem_deliverStatus]

end End

/-! ### BGLD (R234) -/

/-- An element of a `BGLD`: in the scratchpad, or denied (R234). -/
def localElem (w : Nat) (a : Nat × Word) : GatherElem :=
  ⟨a.1, a.2, if 0x100000 ≤ a.2.toNat ∧ a.2.toNat + w ≤ 0x300000 then .spad (a.2.toNat - 0x100000) else .denied 0x09 false⟩

theorem localElem_in {w : Nat} {a : Nat × Word} (h : inScratchpad a.2 w) :
    localElem w a = ⟨a.1, a.2, .spad (a.2.toNat - 0x100000)⟩ := by
  unfold inScratchpad at h
  rw [localElem, if_pos h]

theorem localElem_out {w : Nat} {a : Nat × Word} (h : ¬inScratchpad a.2 w) : localElem w a = ⟨a.1, a.2, .denied 0x09 false⟩ := by
  unfold inScratchpad at h
  rw [localElem, if_neg h]

/-- What it is delivered as. -/
def localValue (h : Hart) (w : Nat) (a : Word) : Nat :=
  if 0x100000 ≤ a.toNat ∧ a.toNat + w ≤ 0x300000 then sgetBytes h.spad (a.toNat - 0x100000) w else 0

theorem localValue_in (h : Hart) {w : Nat} {a : Word} (hin : inScratchpad a w) :
    localValue h w a = sgetBytes h.spad (a.toNat - 0x100000) w := by
  unfold inScratchpad at hin
  rw [localValue, if_pos hin]

theorem localValue_out (h : Hart) {w : Nat} {a : Word} (hin : ¬inScratchpad a w) : localValue h w a = 0 := by
  unfold inScratchpad at hin
  rw [localValue, if_neg hin]

theorem gatherSpots_local {s : State} (hbad : s.bad = []) (o : Owned) (w : Nat) (addrs : List (Nat × Word))
    (hlocal : ∀ a ∈ addrs, a.2.toNat < 0x400000) (acc : List GatherElem) :
    gatherSpots s o w addrs acc = (acc.reverse ++ addrs.map (localElem w), s) := by
  induction addrs generalizing acc with
  | nil => simp [gatherSpots]
  | cons a addrs ih =>
    have ha : a.2.toNat < globalBase := hlocal a List.mem_cons_self
    have hspot : engineSpot s o a.2 w .read false = ((localElem w a).spot, s) := by rw [engineSpot, if_pos ha, localElem]
    have hgood : spotBad s o.hart.core (localElem w a).spot w = false := by
      by_cases hin : inScratchpad a.2 w
      · rw [localElem_in hin]
        exact spotBad_scratchpad hbad ..
      · rw [localElem_out hin]
        rfl
    rw [gatherSpots]
    simp only [hspot, hgood, Bool.false_eq_true, if_false]
    rw [ih (fun b hb => hlocal b (List.mem_cons_of_mem _ hb))]
    simp [localElem]

/-- No element of a `BGLD` waits for a page, or lies in the host window. -/
theorem gatherFrames_local (w : Nat) (addrs : List (Nat × Word)) : gatherFrames (addrs.map (localElem w)) = [] := by
  unfold gatherFrames
  induction addrs with
  | nil => rfl
  | cons a addrs ih =>
    rw [List.map_cons, List.foldl_cons]
    refine Eq.trans ?_ ih
    by_cases hin : inScratchpad a.2 w
    · rw [localElem_in hin]
    · rw [localElem_out hin]

theorem inWindow_local (w : Nat) (addrs : List (Nat × Word)) : (addrs.map (localElem w)).any (·.inWindow) = false := by
  rw [List.any_eq_false]
  intro g hg
  obtain ⟨a, -, rfl⟩ := List.mem_map.1 hg
  by_cases hin : inScratchpad a.2 w
  · rw [localElem_in hin]
    exact Bool.false_ne_true
  · rw [localElem_out hin]
    exact Bool.false_ne_true

/-- An element of a `BGLD` delivered (R234). -/
theorem deliverElem_local (s : State) (x : Engine) (rs : List Nat) (w : Nat) (v : Vec) (a : Nat × Word) :
    deliverElem (withVec s v) ⟨none, s.hart, x⟩ rs w (localElem w a) =
      withVec s (putElem s.hart.csr v (rs.headD 0) (w == 2) a.1 (localValue s.hart w a.2)) := by
  have hcore : (withVec s v).hart.core = s.hart.core := rfl
  unfold deliverElem
  by_cases hin : inScratchpad a.2 w
  · rw [localElem_in hin, localValue_in _ hin]
    dsimp only [GatherElem.cause, spotRead, spotMark]
    rw [ownerNow_acting x hcore, onOwner_acting x _ hcore]
    rfl
  · rw [localElem_out hin, localValue_out _ hin]
    dsimp only [GatherElem.cause, spotRead, spotMark]
    rw [onOwner_acting x _ hcore]
    rfl

theorem gatherReady_local {s : State} (hbad : s.bad = []) (o : Owned) (w : Nat) {addrs : List (Nat × Word)}
    (hlocal : ∀ a ∈ addrs, a.2.toNat < 0x400000) : gatherReady s o w addrs = .inr (addrs.map (localElem w), s) := by
  rw [gatherReady]
  simp only [gatherSpots_local hbad o w addrs hlocal, List.reverse_nil, List.nil_append, gatherFrames_local]

/-- The elements of a `BGLD` with their addresses. -/
def elemAddrs (n : Nat) (addr : Nat → Word) : List (Nat × Word) := (List.range n).map (fun e => (e, addr e))

section Elements

variable (s : State) (x : Engine) (rs : List Nat) {w n : Nat} {addr : Nat → Word}

/-- The state with the elements of a `BGLD` delivered (R234). -/
def bgldDelivered (w n : Nat) (addr : Nat → Word) : State :=
  withVec s (writeElems s.hart.csr s.hart.vec (rs.headD 0) (w == 2) (List.range n) (fun e => localValue s.hart w (addr e)))

theorem bgldDelivered_eq : ((elemAddrs n addr).map (localElem w)).foldl (fun u g => deliverElem u ⟨none, s.hart, x⟩ rs w g) s =
    bgldDelivered s rs w n addr := by
  rw [List.foldl_map]
  refine (foldl_withVec (s := s) (r := rs.headD 0) (narrow := w == 2) Prod.fst (fun e => localValue s.hart w (addr e))
    (fun v a ha => ?_) s.hart.vec).trans ?_
  · obtain ⟨e, -, rfl⟩ := List.mem_map.1 ha
    exact deliverElem_local ..
  · rw [elemAddrs, List.map_map, show (Prod.fst ∘ fun e => (e, addr e)) = id from rfl, List.map_id]
    rfl

variable {s rs}

theorem getElem_bgldDelivered {t : Nat} (hw : w = tagBytes t) {e : Nat} (he : e < n) :
    getElem (bgldDelivered s rs w n addr).hart (rs.headD 0) (narrowTag t) e = localValue s.hart w (addr e) := by
  have hnarrow : (w == 2) = narrowTag t := by rw [hw, narrow_tagBytes]
  rw [bgldDelivered, hnarrow]
  refine (getElem_writeElems s.hart s.hart.vec _ _ _ _ e).trans ?_
  rw [if_pos (List.mem_range.2 he)]
  refine mod_elemBits ?_
  rw [← hw]
  unfold localValue
  split
  · exact sgetBytes_lt ..
  · positivity

theorem lowestDenied_none (hin : ∀ e, e < n → inScratchpad (addr e) w) :
    lowestDenied ((elemAddrs n addr).map (localElem w)) = none := by
  rw [lowestDenied, List.findSome?_eq_none_iff]
  intro g hg
  obtain ⟨a, ha, rfl⟩ := List.mem_map.1 hg
  obtain ⟨e, he, rfl⟩ := List.mem_map.1 ha
  rw [localElem_in (hin e (List.mem_range.1 he))]
  rfl

/-- The lowest element that no scratchpad byte serves (R234). -/
theorem lowestDenied_first {e : Nat} (he : e < n) (hout : ¬inScratchpad (addr e) w) (hbelow : ∀ f, f < e → inScratchpad (addr f) w) :
    lowestDenied ((elemAddrs n addr).map (localElem w)) = some (0x09, e, addr e, false) := by
  obtain ⟨k, rfl⟩ := Nat.exists_eq_add_of_le he
  have hrange : elemAddrs (e + 1 + k) addr = elemAddrs e addr ++ (e, addr e) :: (List.range k).map (fun i => (e + 1 + i, addr (e + 1 + i))) := by
    rw [elemAddrs, List.range_add, List.range_succ]
    simp [elemAddrs]
  rw [hrange, List.map_append, List.map_cons, lowestDenied, List.findSome?_append]
  have hnone := lowestDenied_none hbelow
  rw [lowestDenied] at hnone
  rw [hnone, Option.none_or, List.findSome?_cons, localElem_out hout]
  rfl

end Elements

end Sys2Proof.Machine

namespace Sys2Proof.Claims

open Sys2Proof.Machine

section Bgld

variable {s : State} {x : Engine} {rs : List Nat} {w n : Nat} {vt : Word} {addr : Nat → Word}

/-- BGLD_DONE (R234). -/
theorem exec_bgldDone (hacts : acts s x) (hbad : s.bad = []) (hkind : x.kind = .bgld rs w n vt (elemAddrs n addr))
    (hbatch : x.batch = none) (hlocal : ∀ e, e < n → (addr e).toNat < 0x400000) :
    exec (.bgldDone (me s) x.id) s = .next (gatherEnd (bgldDelivered s rs w n addr) ⟨none, s.hart, x⟩ rs n vt
      (lowestDenied ((elemAddrs n addr).map (localElem w)))) := by
  have haddrs : ∀ a ∈ elemAddrs n addr, a.2.toNat < 0x400000 := by
    intro a ha
    obtain ⟨e, he, rfl⟩ := List.mem_map.1 ha
    exact hlocal e (List.mem_range.1 he)
  refine (withEngine_acts hacts _).trans ?_
  simp only [hkind, hbatch, gatherReady_local hbad _ w haddrs, inWindow_local, Bool.false_eq_true, if_false, bgldDelivered_eq]

theorem bgld_delivers (hacts : acts s x) (hbad : s.bad = []) (hkind : x.kind = .bgld rs w n vt (elemAddrs n addr))
    (hbatch : x.batch = none) (hw : w = tagBytes (dtagOf { s.hart.csr with vtype := vt }))
    (hlocal : ∀ e, e < n → (addr e).toNat < 0x400000) :
    ∃ t, exec (.bgldDone (me s) x.id) s = .next t ∧
      (∀ e, e < n → getElem t.hart (rs.headD 0) (w == 2) e = localValue s.hart w (addr e)) ∧
      ((∀ e, e < n → inScratchpad (addr e) w) → engineEnded s t x (statusWord 3 0 n 0)) ∧
      (∀ e, e < n → ¬inScratchpad (addr e) w → (∀ f, f < e → inScratchpad (addr f) w) → engineEnded s t x (statusWord 3 3 e 0x09)) := by
  have hsame : SameEngines (bgldDelivered s rs w n addr).hart s.hart := ⟨rfl, rfl, rfl⟩
  have hcode : x.kind.code = 3 := by rw [hkind]; rfl
  refine ⟨_, exec_bgldDone hacts hbad hkind hbatch hlocal, fun e he => ?_, fun hin => ?_, fun e he hout hbelow => ?_⟩
  · have hnarrow : (w == 2) = narrowTag (dtagOf { s.hart.csr with vtype := vt }) := by rw [hw, narrow_tagBytes]
    rw [hnarrow]
    exact (getElem_gatherEnd hsame rs n vt _ he).trans (getElem_bgldDelivered hw he)
  · rw [lowestDenied_none hin, ← hcode]
    exact gatherEnd_done hsame rs n vt
  · have hended := gatherEnd_denied (x := x) hsame rs n vt (0x09, e, addr e, false)
    rw [hcode] at hended
    rw [lowestDenied_first he hout hbelow]
    exact hended

/-- GXL_DONE with nothing left to deliver (R235). -/
theorem exec_gxlDone (hacts : acts s x) {addrs : List (Nat × Word)} (hkind : x.kind = .gxl rs w n vt addrs (some [])) :
    exec (.gxlDone (me s) x.id) s = .next (gatherEnd s ⟨none, s.hart, x⟩ rs n vt x.fault) := by
  refine (withEngine_acts hacts _).trans ?_
  simp only [hkind]

end Bgld

end Sys2Proof.Claims

/-! The gather unit of a stack (R235, R352), and the obligation of the engines' own steps. -/

namespace Sys2Proof.Machine

open Sys2Proof.Claims

/-! ### The part of a gather that a stack holds -/

theorem mem_unitPart {s : State} {k : Nat} {ps : List (Nat × Nat)} (hplaces : ∀ p ∈ ps, p.2 < 2 ^ 52) {p : Nat × Nat} :
    p ∈ unitPart s k ps ↔ p ∈ ps ∧ stackOf s p.2 = k := by
  have hchannel : channelOf p.2 < 64 := Nat.mod_lt _ (by decide)
  simp only [unitPart, List.mem_flatMap, List.mem_range, List.mem_filter, Bool.and_eq_true, decide_eq_true_eq, beq_iff_eq]
  constructor
  · rintro ⟨c, -, hp, ⟨-, hstack⟩, -⟩
    exact ⟨hp, hstack⟩
  · rintro ⟨hp, hstack⟩
    exact ⟨channelOf p.2, hchannel, hp, ⟨hplaces p hp, hstack⟩, rfl⟩

/-- Each element is in the part of one pseudo-channel alone. -/
theorem nodup_unitPart {ps : List (Nat × Nat)} (hps : ps.Nodup) (s : State) (k : Nat) : (unitPart s k ps).Nodup := by
  rw [unitPart, List.nodup_flatMap]
  refine ⟨fun c _ => hps.filter _, List.nodup_range.imp (fun {b c} hbc p hb hc => hbc ?_)⟩
  have hb := (List.mem_filter.1 hb).2
  have hc := (List.mem_filter.1 hc).2
  simp only [Bool.and_eq_true, beq_iff_eq] at hb hc
  exact hb.2.symm.trans hc.2

/-- A stack's part is no longer than the elements that it holds. -/
theorem length_unitPart {s : State} {k : Nat} {ps : List (Nat × Nat)} (hplaces : ∀ p ∈ ps, p.2 < 2 ^ 52) (hps : ps.Nodup) :
    (unitPart s k ps).length ≤ (ps.filter (fun p => stackOf s p.2 == k)).length := by
  refine (List.subperm_of_subset (nodup_unitPart hps s k) (fun p hp => ?_)).length_le
  obtain ⟨hin, hstack⟩ := (mem_unitPart hplaces).1 hp
  exact List.mem_filter.2 ⟨hin, beq_iff_eq.2 hstack⟩

/-- What is left once a stack's part is delivered is what the others hold. -/
theorem unitRest {s : State} {k : Nat} {ps : List (Nat × Nat)} (hplaces : ∀ p ∈ ps, p.2 < 2 ^ 52) :
    ps.filter (fun p => !(unitPart s k ps).contains p) = ps.filter (fun p => stackOf s p.2 != k) := by
  refine List.filter_congr (fun p hp => ?_)
  have hmem : p ∈ unitPart s k ps ↔ stackOf s p.2 = k := (mem_unitPart hplaces).trans ⟨And.right, And.intro hp⟩
  by_cases hstack : stackOf s p.2 = k
  · simp [hstack, hmem]
  · simp [hstack, hmem]

/-! ### Its delivery -/

/-- What the place of element `e` holds. -/
def placeValue (s : State) (w : Nat) (ps : List (Nat × Nat)) (e : Nat) : Nat :=
  ((ps.find? (fun p => p.1 == e)).map (fun p => sgetBytes s.mem p.2 w)).getD 0

theorem placeValue_of_mem {s : State} {w : Nat} {ps : List (Nat × Nat)} (hps : (ps.map (·.1)).Nodup) {p : Nat × Nat} (hp : p ∈ ps) :
    placeValue s w ps p.1 = sgetBytes s.mem p.2 w := by
  have hfind : ps.find? (fun q => q.1 == p.1) = some p := by
    obtain ⟨q, hq⟩ := Option.isSome_iff_exists.1 ((List.find?_isSome (p := fun q : Nat × Nat => q.1 == p.1)).2
      ⟨p, hp, beq_iff_eq.2 rfl⟩)
    have hmatch := List.find?_some hq
    have hsame : q.1 = p.1 := beq_iff_eq.1 hmatch
    rw [hq, List.inj_on_of_nodup_map hps (List.mem_of_find?_eq_some hq) hp hsame]
  rw [placeValue, hfind]
  rfl

theorem unitElem_served {s : State} (x : Engine) (rs : List Nat) (w : Nat) (addrs : List (Nat × Word)) {p : Nat × Nat}
    (hserved : refusal s (partOf s.hart) p.2 = none) (v : Vec) :
    unitElem (withVec s v) ⟨none, s.hart, x⟩ rs w addrs p =
      withVec s (putElem s.hart.csr v (rs.headD 0) (w == 2) p.1 (sgetBytes s.mem p.2 w)) := by
  have hcore : (withVec s v).hart.core = s.hart.core := rfl
  have hthere : refusal (withVec s v) (partOf s.hart) p.2 = none := hserved
  unfold unitElem
  dsimp only
  rw [hthere]
  dsimp only
  rw [onOwner_acting x _ hcore]
  rfl

/-- The state with some elements of a gather delivered (R352). -/
def unitDelivered (s : State) (rs : List Nat) (w : Nat) (ps mine : List (Nat × Nat)) : State :=
  withVec s (writeElems s.hart.csr s.hart.vec (rs.headD 0) (w == 2) (mine.map Prod.fst) (placeValue s w ps))

theorem unitDelivered_eq {s : State} (x : Engine) (rs : List Nat) (w : Nat) (addrs : List (Nat × Word)) {ps mine : List (Nat × Nat)}
    (hps : (ps.map (·.1)).Nodup) (hmine : ∀ p ∈ mine, p ∈ ps) (hserved : ∀ p ∈ ps, refusal s (partOf s.hart) p.2 = none) :
    mine.foldl (fun u p => unitElem u ⟨none, s.hart, x⟩ rs w addrs p) s = unitDelivered s rs w ps mine := by
  refine foldl_withVec (s := s) Prod.fst (placeValue s w ps) (fun v p hp => ?_) s.hart.vec
  rw [unitElem_served x rs w addrs (hserved p (hmine p hp)), placeValue_of_mem hps (hmine p hp)]

theorem getElem_unitDelivered (s : State) (rs : List Nat) {w t : Nat} (hw : w = tagBytes t) {ps mine : List (Nat × Nat)}
    (hps : (ps.map (·.1)).Nodup) (hmine : ∀ p ∈ mine, p ∈ ps) {p : Nat × Nat} (hp : p ∈ ps) :
    getElem (unitDelivered s rs w ps mine).hart (rs.headD 0) (narrowTag t) p.1 =
      if p ∈ mine then sgetBytes s.mem p.2 w else getElem s.hart (rs.headD 0) (narrowTag t) p.1 := by
  have hnarrow : (w == 2) = narrowTag t := by rw [hw, narrow_tagBytes]
  have hmem : p.1 ∈ mine.map Prod.fst ↔ p ∈ mine := by
    constructor
    · intro h
      obtain ⟨q, hq, hsame⟩ := List.mem_map.1 h
      exact List.inj_on_of_nodup_map hps (hmine q hq) hp hsame ▸ hq
    · exact List.mem_map_of_mem
  rw [unitDelivered, hnarrow]
  refine (getElem_writeElems s.hart s.hart.vec _ _ _ _ p.1).trans ?_
  by_cases hin : p ∈ mine
  · rw [if_pos (hmem.2 hin), if_pos hin, placeValue_of_mem hps hp, hw]
    exact mod_elemBits (sgetBytes_lt ..)
  · rw [if_neg (fun h => hin (hmem.1 h)), if_neg hin]

/-! ### What it leaves -/

/-- Arrival bits change no element, and nothing of a hart but its vector state. -/
theorem arrivals_frame (h : Hart) (rs : List Nat) (n : Nat) (gs : List Nat) :
    ∃ v, arrivals h rs n gs = { h with vec := v } ∧ v.vrf = h.vec.vrf := by
  cases gs with
  | nil => exact ⟨_, rfl, rfl⟩
  | cons g gs => exact ⟨_, rfl, rfl⟩

theorem gatherLeft_sameEngines (h : Hart) (rs : List Nat) (n : Nat) (vt : Word) (es : List Nat) :
    SameEngines (gatherLeft h rs n vt es) h := by
  unfold gatherLeft
  split
  · exact closeGather_sameEngines ..
  · obtain ⟨v, hv, -⟩ := arrivals_frame h rs n (groupsIn es)
    rw [hv]
    exact ⟨rfl, rfl, rfl⟩

theorem getElem_gatherLeft (h : Hart) (rs : List Nat) {n e : Nat} (vt : Word) (es : List Nat) (he : e < n) :
    getElem (gatherLeft h rs n vt es) (rs.headD 0) (narrowTag (dtagOf { h.csr with vtype := vt })) e =
      getElem h (rs.headD 0) (narrowTag (dtagOf { h.csr with vtype := vt })) e := by
  unfold gatherLeft
  split
  · exact getElem_closeGather h rs vt he
  · obtain ⟨v, hv, hvrf⟩ := arrivals_frame h rs n (groupsIn es)
    rw [hv]
    exact getElem_congr (g := { h with vec := v }) (h := h) hvrf rfl _ _ _

end Sys2Proof.Machine

namespace Sys2Proof.Claims

open Sys2Proof.Machine

section Unit

variable {s : State} {x : Engine} {rs : List Nat} {w n : Nat} {vt : Word} {addrs : List (Nat × Word)} {ps : List (Nat × Nat)}
  {k : StackId}

/-- GATHER_UNIT_REQUEST of a gather none of whose translations was dropped (R267, R352). -/
theorem exec_gatherUnitRequest (hacts : acts s x) (hkind : x.kind = .gxl rs w n vt addrs (some ps)) (hbatch : x.batch = none)
    (hplaces : ∀ p ∈ ps, p.2 < 2 ^ 52) :
    exec (.gatherUnitRequest (me s) x.id k) s = .next (gatherUnit s ⟨none, s.hart, x⟩ k.val) := by
  have hlost : ps.filter (fun p => decide (noPlace ≤ p.2)) = [] := by
    refine List.filter_eq_nil_iff.2 (fun p hp hle => ?_)
    have := hplaces p hp
    exact absurd (of_decide_eq_true hle) (Nat.not_le.2 this)
  refine (withEngine_acts hacts _).trans ?_
  simp only [hkind, hbatch, hlost, List.isEmpty_nil, if_true]

/-- The elements of a gather that a stack's unit has still to deliver, once it has delivered its own. -/
def gxlLeft (x : Engine) (rs : List Nat) (w n : Nat) (vt : Word) (addrs : List (Nat × Word)) (rest : List (Nat × Nat)) : Engine :=
  { x with kind := .gxl rs w n vt addrs (some rest) }

/-- The gathers of a unit once it has delivered: one is held until nothing of it is left there (R352). -/
def unitHeld (s : State) (k : Nat) (rest : List (Nat × Nat)) (id : Nat) (l : List Nat) : List Nat :=
  if (unitPart s k rest).isEmpty then l.filter (· != id) else if l.contains id then l else l ++ [id]

/-- A unit with room that holds some element delivers them (R352). -/
theorem gatherUnit_delivers (hkind : x.kind = .gxl rs w n vt addrs (some ps)) (hps : (ps.map (·.1)).Nodup)
    (hplaces : ∀ p ∈ ps, p.2 < 2 ^ 52) (hserved : ∀ p ∈ ps, refusal s (partOf s.hart) p.2 = none)
    (hfew : (ps.filter (fun p => stackOf s p.2 == k.val)).length ≤ 512)
    (hroom : x.id ∈ s.hbm[k].gathers ∨ s.hbm[k].gathers.length < 8) (hsome : unitPart s k.val ps ≠ []) :
    gatherUnit s ⟨none, s.hart, x⟩ k.val = setEngine (onUnit (onOwner (unitDelivered s rs w ps (unitPart s k.val ps))
        ⟨none, s.hart, x⟩ (fun h => gatherLeft h rs n vt ((ps.filter (fun p => stackOf s p.2 != k.val)).map (·.1)))) k.val
          (unitHeld s k.val (ps.filter (fun p => stackOf s p.2 != k.val)) x.id))
      ⟨none, s.hart, x⟩ (fun y => gxlLeft y rs w n vt addrs (ps.filter (fun p => stackOf s p.2 != k.val))) := by
  have hall : (unitPart s k.val ps).take 512 = unitPart s k.val ps :=
    List.take_of_length_le ((length_unitPart hplaces hps.of_map).trans hfew)
  have hheld : ((s.hbm[k.val]?).map (·.gathers)).getD [] = s.hbm[k].gathers := by simp
  have hgo : ((unitPart s k.val ps).isEmpty || (!s.hbm[k].gathers.contains x.id && decide (8 ≤ s.hbm[k].gathers.length))) = false := by
    have hnil : (unitPart s k.val ps).isEmpty = false := by simpa using hsome
    rw [hnil, Bool.false_or]
    generalize s.hbm[k].gathers = l at hroom ⊢
    rcases hroom with hmem | hlt
    · simp [hmem]
    · simp [hlt]
  unfold gatherUnit
  simp only [hkind, hheld, hgo, hall, Bool.false_eq_true, if_false, unitRest hplaces,
    unitDelivered_eq x rs w addrs hps (fun p hp => ((mem_unitPart hplaces).1 hp).1) hserved]
  rfl

theorem unit_delivers (hacts : acts s x) (hkind : x.kind = .gxl rs w n vt addrs (some ps)) (hbatch : x.batch = none)
    (hw : w = tagBytes (dtagOf { s.hart.csr with vtype := vt })) (hps : (ps.map (·.1)).Nodup)
    (hgood : ∀ p ∈ ps, p.1 < n ∧ p.2 < 2 ^ 52 ∧ refusal s (partOf s.hart) p.2 = none)
    (hfew : (ps.filter (fun p => stackOf s p.2 == k.val)).length ≤ 512)
    (hroom : x.id ∈ s.hbm[k].gathers ∨ s.hbm[k].gathers.length < 8) :
    ∃ t, exec (.gatherUnitRequest (me s) x.id k) s = .next t ∧
      engineNow s t x (gxlLeft x rs w n vt addrs (ps.filter (fun p => stackOf s p.2 != k.val))) ∧
      ∀ p ∈ ps, getElem t.hart (rs.headD 0) (w == 2) p.1 =
        if stackOf s p.2 = k.val then sgetBytes s.mem p.2 w else getElem s.hart (rs.headD 0) (w == 2) p.1 := by
  have hplaces : ∀ p ∈ ps, p.2 < 2 ^ 52 := fun p hp => (hgood p hp).2.1
  have hexec := exec_gatherUnitRequest (k := k) hacts hkind hbatch hplaces
  by_cases hnone : unitPart s k.val ps = []
  · have hother : ∀ p ∈ ps, stackOf s p.2 ≠ k.val := fun p hp hstack =>
      List.not_mem_nil (hnone ▸ (mem_unitPart hplaces).2 ⟨hp, hstack⟩)
    have hsame : gatherUnit s ⟨none, s.hart, x⟩ k.val = s := by
      unfold gatherUnit
      simp only [hkind, hnone, List.isEmpty_nil, Bool.true_or, if_true]
    have hrest : ps.filter (fun p => stackOf s p.2 != k.val) = ps := List.filter_eq_self.2 (fun p hp => bne_iff_ne.2 (hother p hp))
    rw [hsame] at hexec
    refine ⟨s, hexec, ⟨?_, rfl⟩, fun p hp => by rw [if_neg (hother p hp)]⟩
    have hx : gxlLeft x rs w n vt addrs (ps.filter (fun p => stackOf s p.2 != k.val)) = x := by
      rw [hrest, gxlLeft, ← hkind]
    rw [hx]
    refine ((List.map_congr_left (fun z hz => ?_)).trans (List.map_id _)).symm
    by_cases hid : z.id = x.id
    · rw [if_pos hid, eq_of_acts hacts hz hid]
      rfl
    · rw [if_neg hid]
      rfl
  · have hunit := gatherUnit_delivers hkind hps hplaces (fun p hp => (hgood p hp).2.2) hfew hroom hnone
    let v := unitDelivered s rs w ps (unitPart s k.val ps)
    let es := (ps.filter (fun p => stackOf s p.2 != k.val)).map (·.1)
    let f := unitHeld s k.val (ps.filter (fun p => stackOf s p.2 != k.val)) x.id
    have hcore : v.hart.core = s.hart.core := rfl
    have hleft : (onUnit (onOwner v ⟨none, s.hart, x⟩ (fun h => gatherLeft h rs n vt es)) k.val f).hart =
        gatherLeft v.hart rs n vt es := by
      rw [onOwner_acting x _ hcore]
      rfl
    have hsame : SameEngines (onUnit (onOwner v ⟨none, s.hart, x⟩ (fun h => gatherLeft h rs n vt es)) k.val f).hart s.hart := by
      rw [hleft]
      exact (gatherLeft_sameEngines ..).trans ⟨rfl, rfl, rfl⟩
    rw [hunit] at hexec
    refine ⟨_, hexec, engineNow_of_sameEngines hacts hsame _, fun p hp => ?_⟩
    have hnarrow : (w == 2) = narrowTag (dtagOf { s.hart.csr with vtype := vt }) := by rw [hw, narrow_tagBytes]
    have hmine : (p ∈ unitPart s k.val ps) = (stackOf s p.2 = k.val) :=
      propext ((mem_unitPart hplaces).trans ⟨And.right, And.intro hp⟩)
    rw [setEngine_acting _ s.hart x _ hsame.core, hnarrow]
    refine (getElem_congr (h := gatherLeft v.hart rs n vt es) (by rw [← hleft]) (by rw [← hleft]) _ _ _).trans ?_
    refine (getElem_gatherLeft v.hart rs vt es (hgood p hp).1).trans ?_
    refine (getElem_unitDelivered s rs hw hps (fun p hp => ((mem_unitPart hplaces).1 hp).1) hp).trans ?_
    simp only [hmine]

end Unit

theorem gatherSteps : GatherSteps := by
  intro s x hacts hbad hearly
  refine ⟨fun rs w n vt addr hkind hbatch hw hlocal => ?_, fun rs w n vt addrs ps k hkind hbatch hw hps hgood hfew hroom => ?_,
    fun rs w n vt addrs hkind => ?_⟩
  · intro ok
    obtain ⟨t, hexec, helems, hdone, hdenied⟩ := bgld_delivers hacts hbad hkind hbatch hw hlocal
    have hok : ∀ e, ok e = true ↔ inScratchpad (addr e) w := fun e => decide_eq_true_iff
    refine ⟨t, hexec, fun e he => ?_, fun hall => hdone (fun e he => (hok e).1 (hall e he)), fun e he hout hbelow =>
      hdenied e he (fun hin => ?_) (fun f hf => (hok f).1 (hbelow f hf))⟩
    · rw [helems e he, localValue]
      simp only [ok, decide_eq_true_eq]
    · rw [(hok e).2 hin] at hout
      exact Bool.noConfusion hout
  · exact unit_delivers hacts hkind hbatch hw hps hgood hfew hroom
  · refine ⟨_, exec_gxlDone hacts hkind, ?_⟩
    have hcode : x.kind.code = 4 := by rw [hkind]; rfl
    cases hfault : x.fault with
    | none =>
      have hended := gatherEnd_done (x := x) (.refl s.hart) rs n vt
      rwa [hcode] at hended
    | some f =>
      have hended := gatherEnd_denied (x := x) (.refl s.hart) rs n vt f
      rwa [hcode] at hended

/-- Settles O41: a chunk's source is read whole before any word is written (`sourceRead_chunk`), and its words are then copied in order
(`copyWrites_copies`), none of them a STATE byte that a later one's check reads (`touchesBusySlot_copied`); a gather's elements are
written one after another (`foldl_withVec`), each its own, and below the tail (`getElem_closeGather`); every engine goes on or ends on
a hart that keeps its engines and registers (`engineNow_of_sameEngines`, `engineEnded_of_sameEngines`). -/
theorem engineSteps : Obligations.EngineSteps := ⟨copySteps, batchAndStreamSteps, gatherSteps⟩

end Sys2Proof.Claims
